-- ==== Sys2Proof/Word.lean ====
section
/-! DEFINITION. The byte, the block's smallest unit of data (R231: a cell is 40 bytes). -/
namespace Sys2Proof

/-- One byte. -/
abbrev Byte := BitVec 8

end Sys2Proof
end

