-- ==== Sys2Proof/Syntax.lean ====
section
/-! DEFINITION. The commands of the block: one constructor of `Instr` per row of spec/opcode_table.json, with the
operands the row's rule gives it. The table gives no row any bits, so a command is this data and has no encoding. -/
namespace Sys2Proof

/-- What the header of an accepted CMD packet gives its command (R353): who sent it, under which tag, in which class,
and the reserved parameter bits [223:204] and [287:256] (R353: non-zero answers BAD_PARAM). -/
structure CmdMeta where
  src  : Nat
  tag  : Nat
  cls  : Nat
  resv : Nat := 0
  deriving DecidableEq, Repr

/-- A packet: the header fields of R232 (check codes apart) and the payload bytes of R231.
`resv` packs the four reserved fields [15:14], [23:19], [63:60], [159:153] in that order from bit 0. -/
structure Packet where
  typ     : Nat
  last    : Bool := false
  mcast   : Bool := false
  pinned  : Bool := false
  digest  : Bool := false
  sos     : Bool := false
  fwd     : Bool := false
  cls     : Nat := 0
  dst     : Nat
  src     : Nat
  stream  : Nat := 0
  seq     : Nat := 0
  heat    : Nat := 0
  addr    : Nat := 0
  args    : Nat := 0
  route   : Nat := 0
  resv    : Nat := 0
  pcrc    : Nat := 0
  payload : List Byte := []
  deriving DecidableEq, Repr

/-- What a link receiver hands to the switch core for one packet (R208, R212): the 40 header bytes, the payload cells
as they came, the positions of the code violations met among its columns (one for each), and whether the packet ended in
K30.7. -/
structure Frame where
  hdr   : List Byte
  cells : List Byte
  viol  : List Nat
  abort : Bool
  deriving DecidableEq, Repr

/-- ECC errors that a packet's cells meet inside the device (R238, R304): the cells, by number within the packet, whose error is
corrected, and those whose error is not. -/
structure CellErrs where
  corrected   : List Nat := []
  uncorrected : List Nat := []
  deriving DecidableEq, Repr

/-- An ACK or NAK as it comes: in its packet form, or as the 16-byte control block that an endpoint sends on its link (R242). -/
inductive AnswerIn where
  | packet (p : Packet)
  | block (link : Nat) (body : List Byte)
  deriving DecidableEq, Repr

/-- What a receiver sees in the training sets of its nine positions (R216): which positions found K28.5 alignment,
which are inverted, the lane ID each carries (no ID at all while symbol 1 is still to be read), and whether the far end sends
TS2. -/
structure TrainObs where
  lock     : Nat
  inverted : Nat
  ids      : List Nat
  ts2      : Bool
  deriving DecidableEq, Repr

/-- What the memory Shop of another device says of a page, with an entry (INVALIDATION): an invalidation (R160), `fresh` where
the page was just allocated or given a zeroed frame (R171, R179); a change to a
partner's copy or a home map, outside a remap (R157, R158); from the home to the book, that its frame is lost to an uncorrectable
line or with its stack (R179), that the mirror's frame failed (R178), that a move begins, or that it is ready for the remap of
step 5 (R175). -/
inductive PageNote where
  | invalidate (fresh : Bool)
  | copy
  | lost
  | lostStack
  | mirrorFailed
  | moving
  | moved
  deriving DecidableEq, Repr

/-- The straps sampled when RESET_N is released (R192, R462). -/
structure Straps where
  member     : Nat
  patternRev : Nat
  bootSel    : Nat
  deriving DecidableEq, Repr

/-- The commands, events and bus operations of the block, in the table's order. -/
inductive Instr where
  /-- DEV_IDENTIFY: Command 0x0000 returns the 64-byte identity record. (R362) -/
  | devIdentify (m : CmdMeta)
  /-- DEV_HEALTH: Command 0x0001 returns the 32-byte health summary. (R372) -/
  | devHealth (m : CmdMeta)
  /-- HEAT_BIND: Command 0x0002 binds a Heat's slice and link mask on the device, or replaces the mask of an identical binding. (R199) -/
  | heatBind (m : CmdMeta) (heat f c mask : Nat)
  /-- HEAT_UNBIND: Command 0x0003 removes a Heat binding unless the device still holds pages, Pours, segments or records of that Heat. (R199) -/
  | heatUnbind (m : CmdMeta) (heat : Nat)
  /-- HEAT_LIST: Command 0x0004 returns up to 200 bound Heats from a first index. (R361) -/
  | heatList (m : CmdMeta) (first : Nat)
  /-- DEV_RESET_WARM: Command 0x0008 starts a WARM reset of the data plane, with the Foreman kept running and HBM kept in self-refresh. (R400) -/
  | devResetWarm (m : CmdMeta) (confirm : Nat)
  /-- DEV_RESET_DOMAIN: Command 0x0009 resets one Bay, one link or one HBM stack after the required wait. (R402) -/
  | devResetDomain (m : CmdMeta) (kind index : Nat)
  /-- CSR_READ: Command 0x0010 reads count consecutive CSR words; a gated block returns zeros. (R363) -/
  | csrRead (m : CmdMeta) (addr count : Nat)
  /-- CSR_WRITE: Command 0x0011 writes count consecutive CSR words through the owning Shop, refused for sealed, gated or in-transfer blocks; this is also the row for writes to registers that have no row of their own. (R363) -/
  | csrWrite (m : CmdMeta) (addr count : Nat) (words : List Nat)
  /-- DEV_BLOCK_STATE: Command 0x0012 returns a block's owner, GATED bit and gate epoch. (R366) -/
  | devBlockState (m : CmdMeta) (addr : Nat)
  /-- FW_STATUS: Command 0x0020 returns the state of both firmware slots and of both cores. (R361) -/
  | fwStatus (m : CmdMeta)
  /-- FW_WRITE: Command 0x0021 writes image bytes into a slot that is not running and returns the slot to the written state. (R361) -/
  | fwWrite (m : CmdMeta) (slot offset : Nat) (data : List Byte)
  /-- FW_VERIFY: Command 0x0022 verifies a slot by the five checks and returns its image digest. (R431) -/
  | fwVerify (m : CmdMeta) (slot : Nat)
  /-- FW_SWITCH: Command 0x0023 starts a hitless switch-over to a verified slot on the standby core. (R369) -/
  | fwSwitch (m : CmdMeta) (slot : Nat)
  /-- DEV_ECHO: Command 0x0030 returns its parameter bytes unchanged. (R361) -/
  | devEcho (m : CmdMeta) (data : List Byte)
  /-- LINK_STATUS: Command 0x0100 returns a link's state registers from the link Shop's records. (R230) -/
  | linkStatus (m : CmdMeta) (link : Nat)
  /-- LINK_CONFIG: Command 0x0101 sets rate, ceiling, CV_THRESH, enable and swap clearing, which take effect at the next training. (R206) -/
  | linkConfig (m : CmdMeta) (link rate ceiling cvThresh enable clearSwap : Nat)
  /-- LINK_RETRAIN: Command 0x0102 retrains a link and reports the state reached. (R230) -/
  | linkRetrain (m : CmdMeta) (link : Nat)
  /-- LINK_DOWN: Command 0x0103 takes a link down, through a drain or at once with the force flag. (R230) -/
  | linkDown (m : CmdMeta) (link force : Nat)
  /-- LINK_LANE_SWAP: Command 0x0104 requests a live swap of a data lane for the Riser lane. (R224) -/
  | linkLaneSwap (m : CmdMeta) (link lane : Nat)
  /-- LINK_EQ_READ: Command 0x0105 returns one equalization entry and its default flag. (R230) -/
  | linkEqRead (m : CmdMeta) (link lane rate : Nat)
  /-- LINK_EQ_SET: Command 0x0106 replaces one entry in the loaded equalization table, taking effect at the next training. (R215) -/
  | linkEqSet (m : CmdMeta) (link lane rate entry : Nat)
  /-- LINK_NEIGHBOUR: Command 0x0107 returns the last IDENT block received on a link. (R220) -/
  | linkNeighbour (m : CmdMeta) (link : Nat)
  /-- LINK_STATS: Command 0x0110 returns a link's counters. (R229) -/
  | linkStats (m : CmdMeta) (link : Nat)
  /-- ROUTE_STATUS: Command 0x0200 returns the route generation, SPREAD, TEST and the fence list count. (R288) -/
  | routeStatus (m : CmdMeta)
  /-- ROUTE_LINK_CLOSE: Command 0x0201 takes a fabric link out of service by the drain procedure. (R275) -/
  | routeLinkClose (m : CmdMeta) (link : Nat)
  /-- ROUTE_LINK_OPEN: Command 0x0202 brings an ACTIVE link into service without a drain. (R277) -/
  | routeLinkOpen (m : CmdMeta) (link : Nat)
  /-- ROUTE_PARAM_SET: Command 0x0203 sets VENT_WAIT, NM_BIAS and DRAIN_MAX. (R288) -/
  | routeParamSet (m : CmdMeta) (ventWait nmBias drainMax : Nat)
  /-- ROUTE_SPREAD: Command 0x0204 turns path spreading on or off. (R274) -/
  | routeSpread (m : CmdMeta) (on : Nat)
  /-- ROUTE_TEST: Command 0x0205 places the ingress in test mode, which pins packets, or takes it out. (R253) -/
  | routeTest (m : CmdMeta) (on : Nat)
  /-- ROUTE_RESERVE: Command 0x0206 reserves fabric links for one Heat, or clears the reservation with Heat 0. (R278) -/
  | routeReserve (m : CmdMeta) (mask heat : Nat)
  /-- ROUTE_CREDIT_SET: Command 0x0210 sets a link VC allowance, applied at the next training and checked against the totals. (R272) -/
  | routeCreditSet (m : CmdMeta) (link vc allowance : Nat)
  /-- ROUTE_TREE_READ: Command 0x0220 returns a multicast tree entry. (R282) -/
  | routeTreeRead (m : CmdMeta) (root tree : Nat)
  /-- ROUTE_FENCE_LIST: Command 0x0221 returns up to 256 fenced endpoint addresses. (R288) -/
  | routeFenceList (m : CmdMeta) (first : Nat)
  /-- ROUTE_STATS: Command 0x0230 returns the routing counters of both dies. (R286) -/
  | routeStats (m : CmdMeta)
  /-- TUNDISH_STATUS: Command 0x0300 returns a Tundish half's status from the switch Shop's records. (R309) -/
  | tundishStatus (m : CmdMeta) (half : Nat)
  /-- TUNDISH_THRESH_SET: Command 0x0301 sets WARN, SLOW and STOP for a port and class. (R300) -/
  | tundishThreshSet (m : CmdMeta) (port cls warn slow stop : Nat)
  /-- TUNDISH_POOL_SET: Command 0x0302 sets a half's pool thresholds and RESERVE. (R301) -/
  | tundishPoolSet (m : CmdMeta) (half warn slow stop reserve : Nat)
  /-- TUNDISH_BANK_SWAP: Command 0x0303 swaps a Tundish bank for the Riser bank. (R305) -/
  | tundishBankSwap (m : CmdMeta) (half bank : Nat)
  /-- QUEUE_ALLOC: Command 0x0310 binds a further output queue to a port, class and Heat. (R299) -/
  | queueAlloc (m : CmdMeta) (port cls heat : Nat)
  /-- QUEUE_FREE: Command 0x0311 relinks a bound queue's packets to the default queue and frees its descriptor. (R299) -/
  | queueFree (m : CmdMeta) (queue : Nat)
  /-- QUEUE_QUERY: Command 0x0312 returns a queue descriptor. (R298) -/
  | queueQuery (m : CmdMeta) (queue : Nat)
  /-- TUNDISH_STATS: Command 0x0320 returns the Tundish, crossbar and queue-pool counters. (R309) -/
  | tundishStats (m : CmdMeta)
  /-- SCHED_STATUS: Command 0x0400 returns a port's scheduler registers from the Shop's records. (R327) -/
  | schedStatus (m : CmdMeta) (port : Nat)
  /-- SCHED_CLASS_WEIGHT: Command 0x0401 sets a class weight on one port or on all ports. (R313) -/
  | schedClassWeight (m : CmdMeta) (port cls weight : Nat)
  /-- SCHED_QUEUE_WEIGHT: Command 0x0402 sets the weight of a bound queue from its next tag. (R313) -/
  | schedQueueWeight (m : CmdMeta) (queue weight : Nat)
  /-- SCHED_WIN_WRITE: Command 0x0410 writes window entries into a port's shadow table. (R316) -/
  | schedWinWrite (m : CmdMeta) (port first : Nat) (entries : List Nat)
  /-- SCHED_WIN_COMMIT: Command 0x0411 validates the shadow table and arms its flip at a cycle boundary. (R316) -/
  | schedWinCommit (m : CmdMeta) (port count cycleNs idleMask guardNs activateAt : Nat)
  /-- SCHED_WIN_OFF: Command 0x0412 arms the removal of a port's schedule at a cycle boundary. (R316) -/
  | schedWinOff (m : CmdMeta) (port activateAt : Nat)
  /-- SCHED_WIN_READ: Command 0x0413 returns entries of the active or shadow window table. (R327) -/
  | schedWinRead (m : CmdMeta) (port table first : Nat)
  /-- POLICER_SET: Command 0x0420 sets or removes a stream or class policer. (R325) -/
  | policerSet (m : CmdMeta) (port kind stream cls r b : Nat)
  /-- POLICER_READ: Command 0x0421 returns a policer's rate, burst and count. (R327) -/
  | policerRead (m : CmdMeta) (port kind stream cls : Nat)
  /-- SCHED_SAMPLE: Command 0x0430 turns depth and delay sampling on or off for a queue. (R322) -/
  | schedSample (m : CmdMeta) (queue on : Nat)
  /-- SCHED_HIST_READ: Command 0x0431 returns and optionally clears a queue's histograms. (R322) -/
  | schedHistRead (m : CmdMeta) (queue clear : Nat)
  /-- SCHED_SAMPLE_RATE: Command 0x0432 sets SAMPLE_SHIFT. (R322) -/
  | schedSampleRate (m : CmdMeta) (shift : Nat)
  /-- SCHED_STATS: Command 0x0440 returns a port's scheduler counters. (R326) -/
  | schedStats (m : CmdMeta) (port : Nat)
  /-- ALLOC_PAGES: Command 0x0500 allocates striped pages of a Heat in the receiving device's book slice, all or nothing. (R171) -/
  | allocPages (m : CmdMeta) (heat cls count rw migEn homeSet first stripe mirrorStep : Nat)
  /-- FREE_PAGES: Command 0x0501 frees pages after asking the slice whether records or segments still cover them. (R173) -/
  | freePages (m : CmdMeta) (gfa count heat : Nat)
  /-- MEM_HEAT_FREE: Command 0x0502 frees every page of a Heat in this book. (R173) -/
  | memHeatFree (m : CmdMeta) (heat : Nat)
  /-- MEM_PAGE_QUERY: Command 0x0503 returns a Pattern Book entry. (R185) -/
  | memPageQuery (m : CmdMeta) (gfa : Nat)
  /-- MEM_PAGE_SET: Command 0x0504 changes RW and MIG_EN and moves pages from an old Heat to a new one. (R185) -/
  | memPageSet (m : CmdMeta) (gfa count rw migEn oldHeat newHeat : Nat)
  /-- MEM_PAGE_CLEAR_LOST: Command 0x0505 gives a LOST page a zeroed frame and a new generation. (R179) -/
  | memPageClearLost (m : CmdMeta) (gfa heat : Nat)
  /-- MEM_MIGRATE: Command 0x0506 migrates a page to a named device. (R175) -/
  | memMigrate (m : CmdMeta) (gfa target : Nat)
  /-- MEM_MIRROR_SET: Command 0x0507 names a new mirror for a class 2 page and resynchronises it. (R178) -/
  | memMirrorSet (m : CmdMeta) (gfa mirror : Nat)
  /-- MEM_ARB_SET: Command 0x0510 sets the four HBM arbitration weights. (R26) -/
  | memArbSet (m : CmdMeta) (fabric pour layer fettler : Nat)
  /-- MEM_MIGRATE_CTRL: Command 0x0511 turns hot-page migration on or off. (R174) -/
  | memMigrateCtrl (m : CmdMeta) (on : Nat)
  /-- MEM_STATS: Command 0x0520 returns the memory Shop's registers. (R183) -/
  | memStats (m : CmdMeta)
  /-- MEM_CACHE_FLUSH: Command 0x0521 empties the page cache. (R185) -/
  | memCacheFlush (m : CmdMeta)
  /-- POUR_REGISTER: Command 0x0600 checks a Pour descriptor on the lead and, when it passes, registers the Pour and sends REGISTER to every home device. (R66) -/
  | pourRegister (m : CmdMeta) (desc : List Byte)
  /-- POUR_ABORT: Command 0x0601 fails a Pour before commit with DENIED, cause ABORTED. (R85) -/
  | pourAbort (m : CmdMeta) (heat pourId : Nat)
  /-- POUR_QUERY: Command 0x0602 returns a Pour's state, its chunk counts and any completion record. (R92) -/
  | pourQuery (m : CmdMeta) (heat pourId : Nat)
  /-- POUR_FENCE_MAP: Command 0x0603 returns the member or destination fence bitmap. (R92) -/
  | pourFenceMap (m : CmdMeta) (heat pourId select : Nat)
  /-- MSET_BEGIN: Command 0x0610 begins a set, or begins an existing set afresh. (R92) -/
  | msetBegin (m : CmdMeta) (index count : Nat)
  /-- MSET_WRITE: Command 0x0611 writes set entries and unseals the set. (R92) -/
  | msetWrite (m : CmdMeta) (index first : Nat) (entries : List Nat)
  /-- MSET_SEAL: Command 0x0612 checks a set against its kind, seals it and returns its digest. (R61) -/
  | msetSeal (m : CmdMeta) (index kind : Nat)
  /-- MSET_FREE: Command 0x0613 frees a set. (R92) -/
  | msetFree (m : CmdMeta) (index : Nat)
  /-- MSET_READ: Command 0x0614 returns set entries. (R92) -/
  | msetRead (m : CmdMeta) (index first : Nat)
  /-- POUR_CLASS_SET: Command 0x0620 sets a class's pour-engine weight. (R88) -/
  | pourClassSet (m : CmdMeta) (cls weight : Nat)
  /-- POUR_SPILL_RESERVE: Command 0x0621 grows or shrinks the spill reserve, drawing pages from the memory Shop. (R92) -/
  | pourSpillReserve (m : CmdMeta) (pages : Nat)
  /-- POUR_STATS: Command 0x0630 returns the pour-engine counters. (R91) -/
  | pourStats (m : CmdMeta)
  /-- LAYER_SEG_BEGIN: Command 0x0700 begins the definition of a segment. (R128) -/
  | layerSegBegin (m : CmdMeta) (heat seg descs tensors : Nat)
  /-- LAYER_TENSOR_WRITE: Command 0x0701 writes tensor-table entries. (R95) -/
  | layerTensorWrite (m : CmdMeta) (seg first : Nat) (entries : List Nat)
  /-- LAYER_DESC_WRITE: Command 0x0702 writes layer descriptors. (R99) -/
  | layerDescWrite (m : CmdMeta) (seg first : Nat) (entries : List Nat)
  /-- LAYER_SEG_SEAL: Command 0x0703 checks and seals a segment and returns its digest. (R102) -/
  | layerSegSeal (m : CmdMeta) (seg : Nat)
  /-- LAYER_SEG_PLACE: Command 0x0704 takes Bays, loads resident weights, allocates pages and places a segment. (R96) -/
  | layerSegPlace (m : CmdMeta) (seg bays maxRows : Nat)
  /-- LAYER_SEG_REMOVE: Command 0x0705 releases a segment's activations and pages and returns its Bays. (R98) -/
  | layerSegRemove (m : CmdMeta) (seg : Nat)
  /-- LAYER_RUN: Command 0x0706 queues a forward or backward run of a placed segment. (R121) -/
  | layerRun (m : CmdMeta) (heat seg pass runTag fwdTag rows firstDesc lastDesc deadline : Nat) (pairs : List (Nat × Nat))
  /-- LAYER_ABORT: Command 0x0707 ends the running run at its next boundary and every queued run. (R123) -/
  | layerAbort (m : CmdMeta) (heat seg : Nat)
  /-- LAYER_QUERY: Command 0x0708 returns a segment's state, queue and last completion. (R128) -/
  | layerQuery (m : CmdMeta) (seg : Nat)
  /-- LAYER_SAVED_RELEASE: Command 0x0709 releases the saved activations held for a run_tag. (R118) -/
  | layerSavedRelease (m : CmdMeta) (seg runTag : Nat)
  /-- LAYER_STATS: Command 0x070A returns the layer-sequencer counters. (R127) -/
  | layerStats (m : CmdMeta)
  /-- UPD_RULE_SET: Command 0x0800 validates and writes an update-rule entry and returns its digest. (R130) -/
  | updRuleSet (m : CmdMeta) (index : Nat) (entry : List Byte)
  /-- UPD_RULE_READ: Command 0x0801 returns a rule entry and its digest. (R149) -/
  | updRuleRead (m : CmdMeta) (index : Nat)
  /-- UPD_STATE_DEFINE: Command 0x0810 records a dense update state with its active slot and t. (R132) -/
  | updStateDefine (m : CmdMeta) (heat base elems kind slot t : Nat)
  /-- UPD_STATE_MASK: Command 0x0811 records or clears a mask region and copies its bitmap. (R133) -/
  | updStateMask (m : CmdMeta) (base region o k n kind bitmap : Nat)
  /-- UPD_STATE_QUERY: Command 0x0812 returns a state's slot, t, digest and revert availability. (R149) -/
  | updStateQuery (m : CmdMeta) (base : Nat)
  /-- UPD_STATE_REVERT: Command 0x0813 makes the previous slot active and restores t. (R139) -/
  | updStateRevert (m : CmdMeta) (base : Nat)
  /-- UPD_STATE_FREE: Command 0x0814 removes a state record without freeing its pages. (R149) -/
  | updStateFree (m : CmdMeta) (base : Nat)
  /-- EMB_TABLE_DEFINE: Command 0x0820 records an embedding table. (R141) -/
  | embTableDefine (m : CmdMeta) (heat base rows dim fmt kind buckets setIndex : Nat)
  /-- EMB_TABLE_QUERY: Command 0x0821 returns a table's parameters and digest. (R149) -/
  | embTableQuery (m : CmdMeta) (base : Nat)
  /-- EMB_TABLE_FREE: Command 0x0822 removes a table record. (R149) -/
  | embTableFree (m : CmdMeta) (base : Nat)
  /-- UPD_STATS: Command 0x0830 returns the update-engine counters. (R148) -/
  | updStats (m : CmdMeta)
  /-- CLK_STATUS: Command 0x0900 returns the clock registers. (R407) -/
  | clkStatus (m : CmdMeta)
  /-- CLK_ACLK_SWAP: Command 0x0901 starts a live swap of the ACLK source PLL. (R385) -/
  | clkAclkSwap (m : CmdMeta) (source : Nat)
  /-- CLKOBS_SET: Command 0x0902 checks the clocks and switches CLKOBS to a clock and divider. (R407) -/
  | clkobsSet (m : CmdMeta) (code divider : Nat)
  /-- CLK_TRIM: Command 0x0903 selects the trim source of OSC. (R381) -/
  | clkTrim (m : CmdMeta) (source link : Nat)
  /-- TIME_SET: Command 0x0904 arms a step of the time base at a future start-of-frame marker. (R382) -/
  | timeSet (m : CmdMeta) (link frame time : Nat)
  /-- CLK_MON_READ: Command 0x0905 returns a clock monitor's frequency and PRESENT. (R387) -/
  | clkMonRead (m : CmdMeta) (code : Nat)
  /-- CLK_PLAN: Command 0x0906 returns the clock plan record and its digest. (R404) -/
  | clkPlan (m : CmdMeta)
  /-- PWR_STATUS: Command 0x0910 returns the power registers and the Bay states. (R407) -/
  | pwrStatus (m : CmdMeta)
  /-- PWR_PROFILE_SET: Command 0x0911 sets the Banked and Fired power profile and returns its digest. (R393) -/
  | pwrProfileSet (m : CmdMeta) (profile : List Byte)
  /-- PWR_PROFILE_READ: Command 0x0912 returns the profile and its digest. (R407) -/
  | pwrProfileRead (m : CmdMeta)
  /-- PWR_STATS: Command 0x0913 returns the power counters. (R406) -/
  | pwrStats (m : CmdMeta)
  /-- REL_STATUS: Command 0x0A00 returns Riser counts, degraded Bays, FROZEN and the subscriber count. (R427) -/
  | relStatus (m : CmdMeta)
  /-- RISER_POLICY: Command 0x0A01 sets automatic swap per kind and the trigger limits. (R409) -/
  | riserPolicy (m : CmdMeta) (auto ageMin flaskLimit frameLimit scrubH : Nat)
  /-- RISER_FLASK_SWAP: Command 0x0A02 requests a planned swap of a logical Flask for a Riser. (R411) -/
  | riserFlaskSwap (m : CmdMeta) (bay flask : Nat)
  /-- FRAME_RETIRE: Command 0x0A03 retires a frame to a Riser frame. (R176) -/
  | frameRetire (m : CmdMeta) (frame : Nat)
  /-- STACK_FAIL: Command 0x0A04 declares an HBM stack failed. (R415) -/
  | stackFail (m : CmdMeta) (stack : Nat)
  /-- AGING_READ: Command 0x0A05 returns the 104 aging margins of a Bay. (R427) -/
  | agingRead (m : CmdMeta) (bay : Nat)
  /-- RISER_HISTORY_READ: Command 0x0A06 returns Riser history records. (R410) -/
  | riserHistoryRead (m : CmdMeta) (first : Nat)
  /-- SHAKEOUT_STATUS: Command 0x0A10 returns the Shakeout status registers. (R426) -/
  | shakeoutStatus (m : CmdMeta)
  /-- SHAKEOUT_READ: Command 0x0A11 returns entries with a header, optionally signed. (R419) -/
  | shakeoutRead (m : CmdMeta) (first count : Nat) (nonce : List Byte) (sign : Nat)
  /-- SHAKEOUT_UNFREEZE: Command 0x0A12 lifts the freeze when it names FREEZE_SEQ, and releases FAULT_N. (R418) -/
  | shakeoutUnfreeze (m : CmdMeta) (freezeSeq : Nat)
  /-- FAULT_SUBSCRIBE: Command 0x0A20 registers a fault-notice subscriber. (R422) -/
  | faultSubscribe (m : CmdMeta) (endpoint cls severity : Nat)
  /-- FAULT_UNSUBSCRIBE: Command 0x0A21 removes a subscriber. (R427) -/
  | faultUnsubscribe (m : CmdMeta) (endpoint : Nat)
  /-- REL_STATS: Command 0x0A30 returns the reliability counters. (R425) -/
  | relStats (m : CmdMeta)
  /-- SEC_STATUS: Command 0x0B00 returns the boot, fuse and slot registers. (R441) -/
  | secStatus (m : CmdMeta)
  /-- SEC_ATTEST: Command 0x0B01 forms and signs an attestation report over a nonce. (R436) -/
  | secAttest (m : CmdMeta) (nonce : List Byte)
  /-- SEC_IDENTITY_READ: Command 0x0B02 returns the device certificate. (R434) -/
  | secIdentityRead (m : CmdMeta)
  /-- SEC_ROLLBACK_COMMIT: Command 0x0B03 raises the rollback counter by blowing fuses. (R437) -/
  | secRollbackCommit (m : CmdMeta) (v : Nat)
  /-- SEC_ROOT_READ: Command 0x0B04 returns the fused root key hash. (R441) -/
  | secRootRead (m : CmdMeta)
  /-- SEC_STATS: Command 0x0B10 returns the signing counters. (R441) -/
  | secStats (m : CmdMeta)
  /-- ASSAY_STATUS: Command 0x0C00 returns the captured Assay status. (R458) -/
  | assayStatus (m : CmdMeta)
  /-- ASSAY_READ: Command 0x0C01 returns one channel record from a single frame. (R458) -/
  | assayRead (m : CmdMeta) (channel : Nat)
  /-- ASSAY_ATTRIB: Command 0x0C02 returns the energy attributed to a Heat. (R456) -/
  | assayAttrib (m : CmdMeta) (heat : Nat)
  /-- ASSAY_ATTRIB_LIST: Command 0x0C03 returns attributed energy for up to 100 Heats. (R458) -/
  | assayAttribList (m : CmdMeta) (first : Nat)
  /-- DET_STATUS: Command 0x0D00 returns a Heat's step, record number, context, flags and counts. (R350) -/
  | detStatus (m : CmdMeta) (heat : Nat)
  /-- DET_RECORD_OPEN: Command 0x0D01 opens an Ihlil context for a Heat. (R335) -/
  | detRecordOpen (m : CmdMeta) (heat record scope : Nat)
  /-- DET_DIGEST_RANGE: Command 0x0D02 digests a GFA range into the weights, inputs or result accumulator. (R336) -/
  | detDigestRange (m : CmdMeta) (heat kind gfa length : Nat)
  /-- DET_RECORD_CLOSE: Command 0x0D03 closes a device or slice record and optionally signs it. (R342) -/
  | detRecordClose (m : CmdMeta) (heat scope sign : Nat)
  /-- DET_RECORD_READ: Command 0x0D04 returns the last closed record. (R344) -/
  | detRecordRead (m : CmdMeta) (heat : Nat)
  /-- DET_STEP_SET: Command 0x0D10 sets a Heat's step counter. (R331) -/
  | detStepSet (m : CmdMeta) (heat step : Nat)
  /-- SAVE_HEAT: Command 0x0D20 pauses a Heat, waits for its work to end and writes its image to storage. (R345) -/
  | saveHeat (m : CmdMeta) (heat endpoint offset waitLimit cont : Nat)
  /-- RESUME_HEAT: Command 0x0D21 reads and checks an image and restores the Heat from it. (R347) -/
  | resumeHeat (m : CmdMeta) (endpoint offset length : Nat) (digest : List Byte)
  /-- SB_IDENTIFY: Sideband read 0x01 returns the first 24 bytes of the identity record. (R373) -/
  | sbIdentify
  /-- SB_COORD: Sideband read 0x02 returns member, group and count values. (R373) -/
  | sbCoord
  /-- SB_GROUP_SET: Sideband write 0x03 sets the group number now or as pending, or refuses it. (R193) -/
  | sbGroupSet (data : List Byte) (pec : Nat)
  /-- SB_COUNT_SET: Sideband write 0x04 sets the group count now or as pending on the global links, or refuses it. (R197) -/
  | sbCountSet (data : List Byte) (pec : Nat)
  /-- SB_HEALTH: Sideband read 0x05 returns the health summary from the snapshot. (R372) -/
  | sbHealth
  /-- SB_SHAKEOUT: Sideband read 0x06 returns the entry count, the frozen flag and the newest entry. (R373) -/
  | sbShakeout
  /-- SB_ASSAY: Sideband read 0x07 returns the Foreman's informative copy of the 48 V energy. (R373) -/
  | sbAssay
  /-- SB_STATUS: Sideband read 0x08 returns the status of the last write, live. (R373) -/
  | sbStatus
  /-- SB_UNDEFINED_CODE: A sideband write or read of an unlisted code sets BAD_CMD and returns an empty block for a read. (R373) -/
  | sbUndefinedCode (code : Nat) (write : Bool) (data : List Byte) (pec : Nat)
  /-- SB_SNAPSHOT_REFRESH: Every 10 ms on main power, or every 100 ms on standby power, the sideband target refreshes its snapshot. (R371) -/
  | sbSnapshotRefresh
  /-- AS_IDENT: Assay read 0x01 returns the software identification. (R453) -/
  | asIdent
  /-- AS_SIGN: Assay write 0x02 asks for a signed reading of one channel over a nonce. (R452) -/
  | asSign (channel : Nat) (nonce : List Byte) (pec : Nat)
  /-- AS_SIGNED_READING_READY: The island finishes signing a requested reading, within 100 ms of AS_SIGN. (R452) -/
  | asSignedReadingReady
  /-- AS_READING: Assay read 0x03 returns the last signed reading, or PENDING. (R453) -/
  | asReading
  /-- AS_PARAM: Assay write-then-read 0x04 returns a parameter value. (R453) -/
  | asParam (param channel pec : Nat)
  /-- AS_TRAIL: Assay write-then-read 0x05 returns an audit-trail entry. (R449) -/
  | asTrail (index pec : Nat)
  /-- AS_CERT: Assay read 0x06 returns the island certificate. (R451) -/
  | asCert
  /-- AS_CHANGE: Assay write 0x10 changes a legally relevant parameter under seal-open mode, a signature and the event counter. (R447) -/
  | asChange (block : List Byte) (pec : Nat)
  /-- AS_STATUS: Assay read 0x11 returns the status of the last write. (R453) -/
  | asStatus
  /-- AS_UNDEFINED_CODE: An Assay command of any other code sets status BAD_CMD. (R453) -/
  | asUndefinedCode (code : Nat) (write : Bool)
  /-- BYPASS: JTAG instruction BYPASS, also taken by an unknown instruction. (R375) -/
  | bypass
  /-- IDCODE: JTAG instruction IDCODE shifts out the 32-bit IDCODE. (R376) -/
  | idcode
  /-- SAMPLE_PRELOAD: JTAG instruction SAMPLE/PRELOAD on the boundary register. (R375) -/
  | samplePreload (bits : Nat)
  /-- EXTEST: JTAG instruction EXTEST, effective only while RESET_N is asserted. (R375) -/
  | extest
  /-- CLAMP: JTAG instruction CLAMP, effective only while RESET_N is asserted. (R375) -/
  | clamp
  /-- HIGHZ: JTAG instruction HIGHZ, effective only while RESET_N is asserted. (R375) -/
  | highz
  /-- CLKOBS_SEL_WRITE: A CSR write of CLKOBS_SEL switches the CLKOBS multiplexer without the clock check. (R385) -/
  | clkobsSelWrite (value : Nat)
  /-- CLKOBS_RST: A write of 1 to CLKOBS_RST resets the CLKOBS domain, and the multiplexer takes CLKOBS_SEL at once. (R405) -/
  | clkobsRst
  /-- CLK_EN_WRITE: A write of CLK_EN starts or stops the clocks of CLKOBS, the aging monitors and the sampling engine. (R386) -/
  | clkEnWrite (value : Nat)
  /-- TIME_LO_READ: A read of TIME_LO latches TIME_HI and WRAP_CNT for the next read. (R380) -/
  | timeLoRead
  /-- CLKOBS_MUX_RELEASE: After the low phases of the old and the new input, the CLKOBS multiplexer releases its output and clears its busy bit. (R383) -/
  | clkobsMuxRelease
  /-- CMD: A CMD packet reaches port 56, is checked for its source and queued, or NAKed when its queue is full. (R355) -/
  | cmd (pkt : Packet)
  /-- COMMAND_START: A Shop or Foreman queue starts its next command once the previous one has sent its first reply. (R357) -/
  | commandStart (queue : Nat)
  /-- PACKET_RECEIVE: A packet arrives on a link, has its header checked, is routed and is cut through or stored. (R239) -/
  | packetReceive (link : Nat) (frame : Frame) (ecc : CellErrs)
  /-- PACKET_DEPART: At a packet boundary an output port selects and sends the next eligible packet. (R310) -/
  | packetDepart (port : Nat) (ecc : CellErrs)
  /-- CONTRIB: A CONTRIB reaches port 58 of the owner device and is checked, then added, stored, discarded or NAKed. (R71) -/
  | contrib (pkt : Packet)
  /-- CHUNK_ROUNDED: An owner Flask finishes rounding a chunk, applies any update rule and holds or releases its RESULT packets. (R73) -/
  | chunkRounded (heat pourId chunk : Nat)
  /-- RESULT: A RESULT packet reaches a destination, including port 58, where it is written into a receive-linked weight shadow. (R124) -/
  | result (pkt : Packet)
  /-- CHUNK_MARK: A CHUNK_MARK or end mark delivered in sequence completes a chunk or ends the Pour at a destination. (R74) -/
  | chunkMark (pkt : Packet)
  /-- MGMT: An MGMT packet is received and handled as its sending Shop defines. (R234) -/
  | mgmt (pkt : Packet)
  /-- ACK: An ACK releases the source's copies of the packets it covers. (R244) -/
  | ack (ans : AnswerIn)
  /-- NAK: A NAK makes the source re-send at once, reopen the stream, wait for its timeout, or stop. (R243) -/
  | nak (ans : AnswerIn)
  /-- RESEND_TIMEOUT: A packet's re-send timeout expires, and the packet is re-sent unchanged or given up. (R244) -/
  | resendTimeout (src dst stream seq : Nat)
  /-- GAP_TIMEOUT: A hole unfilled 1 ms after the oldest held packet discards every held packet with NAK GAP_TIMEOUT and removes the context. (R250) -/
  | gapTimeout (src stream dst : Nat)
  /-- PUT: A PUT at the page's home is checked and written, then ACKed. (R163) -/
  | put (pkt : Packet) (copy : Bool)
  /-- GET: A GET at the home is checked, read whole and answered with GET_REPLY packets. (R164) -/
  | get (pkt : Packet) (corrected : Nat) (uncorrected : List (Nat × Nat))
  /-- GATHER_ROWS: A GET of form ROWS returns the forward-plane bytes of table rows homed on the device. (R143) -/
  | gatherRows (pkt : Packet) (corrected : Nat) (uncorrected : List (Nat × Nat))
  /-- ATOMIC: An ATOMIC performs FETCH_ADD64, CAS64 or INGOT_ADD at the home. (R166) -/
  | atomic (pkt : Packet) (corrected : Nat) (uncorrected : List (Nat × Nat))
  /-- GET_REPLY: A GET_REPLY reaches the requester, is ACKed and ends its request. (R244) -/
  | getReply (pkt : Packet)
  /-- FWD_DONE: FWD_DONE from the home reaches the entry device, which drops its copy and answers FWD_ACK. (R252) -/
  | fwdDone (src stream seq home result cause : Nat)
  /-- FWD_ACK: FWD_ACK reaches the home, which removes its forwarded-request entry. (R252) -/
  | fwdAck (src stream seq entry : Nat)
  /-- FWD_REFORWARD_TIMEOUT: An entry device without FWD_DONE after RESEND_US re-forwards its copy, or gives it up after four tries. (R252) -/
  | fwdReforwardTimeout (src stream seq : Nat)
  /-- FWD_DONE_RESEND_TIMEOUT: A home without FWD_ACK after RESEND_US sends FWD_DONE again. (R252) -/
  | fwdDoneResendTimeout (src stream seq : Nat)
  /-- CREDIT: A CREDIT control block updates the sender's cumulative credit counts for four VCs. (R270) -/
  | credit (link half : Nat) (counts : List Nat)
  /-- CREDIT_SEND_TICK: The receiver sends each CREDIT half-block at least once per microsecond, or within 100 ns of a 256-cell growth. (R271) -/
  | creditSendTick (link half : Nat)
  /-- CREDIT_TIMEOUT: No valid CREDIT block for 10 µs on an ACTIVE link makes the link lost. (R271) -/
  | creditTimeout (link : Nat)
  /-- VENT_ESCAPE: A head packet without credit for VENT_WAIT at an escape point moves to the Vent. (R265) -/
  | ventEscape (queue : Nat)
  /-- LEVEL_FALL_RELEASE: When the level of an input link and VC falls, withheld credit beyond the new limit is returned at once. (R302) -/
  | levelFallRelease (link vc : Nat)
  /-- POLICER_REFILL: Every 1,024 ns a policer's token count rises by r, capped at b. (R325) -/
  | policerRefill (port : Nat)
  /-- WINDOW_EDGE: A window opens or closes at its edge in the cycle, changing which classes are open. (R318) -/
  | windowEdge (port : Nat)
  /-- CYCLE_START: At each cycle start CUR_START advances by CYCLE_NS. (R318) -/
  | cycleStart (port : Nat)
  /-- SCHEDULE_FLIP: At the armed cycle boundary the shadow table becomes active, or the schedule is removed. (R316) -/
  | scheduleFlip (port : Nat)
  /-- IDENT: An IDENT block received in step 6 is stored and checked for coordinates, identity, level and pattern. (R221) -/
  | ident (link : Nat) (body : List Byte)
  /-- IDENT_SEND_TICK: Each end sends an IDENT block every 1 µs during step 6 and in WAITING. (R220) -/
  | identSendTick (link : Nat)
  /-- TRAINING_SET: Received training sets give symbol lock, polarity, lane order and the change to TS2. (R217) -/
  | trainingSet (link : Nat) (obs : TrainObs)
  /-- LANE_CK_LOCK: The receiver locks to the forwarded clock and checks its rate. (R217) -/
  | laneCkLock (link measured : Nat)
  /-- LINK_DESKEW: The receiver aligns its lanes on two successive K28.1 columns. (R217) -/
  | linkDeskew (link skew : Nat)
  /-- TRAINING_STEP_TIMEOUT: A bring-up step that misses its bound fails the attempt with its cause. (R217) -/
  | trainingStepTimeout (link : Nat)
  /-- TRAINING_RESTART: 1 ms after a failed attempt the lanes power up and training restarts, or the link becomes FAILED after three attempts. (R219) -/
  | trainingRestart (link : Nat)
  /-- LINK_LOST: Loss of CK lock, of symbol lock on two lanes, or of two markers makes an ACTIVE link lost. (R223) -/
  | linkLost (link : Nat) (ck : Bool)
  /-- LOST_LOCK_RETRAIN: 1 ms after a loss the link trains again. (R223) -/
  | lostLockRetrain (link : Nat)
  /-- COORDINATES_SET_RESUME: When the missing coordinates are set on either end, a WAITING or COORD_UNSET link resumes at step 6. (R221) -/
  | coordinatesSetResume (link : Nat)
  /-- CV_THRESHOLD_SWAP_PROPOSAL: A lane's CV_CNT growth above CV_THRESH in 1 s makes the reliability Shop propose a lane swap. (R224) -/
  | cvThresholdSwapProposal (link lane : Nat)
  /-- SWAP_REQ: A SWAP_REQ received by the transmitting device is answered with SWAP_ACK in hardware. (R224) -/
  | swapReq (link lane marker : Nat)
  /-- SWAP_ACK: A SWAP_ACK received confirms the swap at marker N. (R224) -/
  | swapAck (link lane marker : Nat)
  /-- SWAP_MARKER_REACHED: At marker N lane x moves to SP, a straddling packet is aborted, or the swap is cancelled without SWAP_ACK. (R225) -/
  | swapMarkerReached (link : Nat) (tx straddles : Bool)
  /-- START_OF_FRAME: A K28.7 start-of-frame column on a service link is time-stamped into SOF_TIME. (R227) -/
  | startOfFrame (link frameNo : Nat)
  /-- START_OF_FRAME_SEND: Every 125 µs of transmitted columns a service link sends a start-of-frame marker. (R227) -/
  | startOfFrameSend (link : Nat)
  /-- REGISTER: A home device receives the descriptor and step, checks it and answers REG_ACK. (R77) -/
  | registerPour (lead : Nat) (desc : List Byte) (step ruleDig stateDig : Nat)
  /-- REG_ACK: The lead receives a REG_ACK, which either matches and may open the Pour, or fails it. (R77) -/
  | regAck (home heat pourId tag : Nat) (setOk accepted p1 : Bool)
  /-- REG_ACK_TIMEOUT: 1 ms without every REG_ACK fails the Pour with NO_RESOURCE, cause HOME_TIMEOUT. (R77) -/
  | regAckTimeout (heat pourId : Nat)
  /-- OPEN: A home device receives OPEN, and it may then release results and start contribute-linked tensors. (R71) -/
  | openPour (heat pourId : Nat) (p1 : Bool)
  /-- ROUND_DONE: The lead receives ROUND_DONE, and the Pour commits when it holds every ROUND_DONE. (R75) -/
  | roundDone (home heat pourId status ovf : Nat)
  /-- COMMIT: A home device receives COMMIT, releases its results, flips state slots and increments t. (R76) -/
  | commitPour (heat pourId : Nat)
  /-- ROW_UPDATE: A block home receives a rounded row and applies the update rule to it. (R147) -/
  | rowUpdate (peer heat pourId base rule rc step row : Nat) (delta : List Nat)
  /-- FENCE_QUERY: A home device receives FENCE_QUERY and answers whether its chunks hold the fenced member's contribution. (R84) -/
  | fenceQuery (heat pourId member : Nat)
  /-- FENCE_REPLY: The lead receives FENCE_REPLY and continues the Pour or fails it with MEMBER_FENCED. (R84) -/
  | fenceReply (home heat pourId member complete : Nat)
  /-- ABORT: A home device receives ABORT, discards Ingots and the inactive slot, and answers ABORT_ACK. (R80) -/
  | abortPour (heat pourId status : Nat)
  /-- ABORT_ACK: The lead receives ABORT_ACK and ends the failed Pour when every home device has answered. (R77) -/
  | abortAck (home heat pourId rounded : Nat)
  /-- ABORT_ACK_TIMEOUT: 1 ms after ABORT the lead sends end marks, END and the completion with the failure status. (R77) -/
  | abortAckTimeout (heat pourId : Nat)
  /-- END: A home device receives END and tombstones the Pour with its status. (R79) -/
  | endPour (heat pourId status cause : Nat) (committed : Bool)
  /-- POUR_DEADLINE: deadline_ns passes without commit, and the Pour fails DEADLINE_MISSED. (R83) -/
  | pourDeadline (heat pourId : Nat)
  /-- TOMBSTONE_EXPIRY: 1 s after completion a Pour's tombstone is removed. (R79) -/
  | tombstoneExpiry (heat pourId : Nat)
  /-- BAY_OWNERSHIP_TRANSFER: The pour Shop writes a Bay's owner field to the layer Shop once its chunks have left the Bay, or the reverse. (R20) -/
  | bayOwnershipTransfer (bay : Nat)
  /-- BAY_TRANSFER_TIMEOUT: A Bay not transferred within 10 ms fails the placement with NO_RESOURCE. (R21) -/
  | bayTransferTimeout (seg : Nat)
  /-- LAYER_RUN_START: A queued run starts when the run before it ends, loading any new weights first. (R121) -/
  | layerRunStart (seg : Nat)
  /-- LAYER_DESCRIPTOR_DONE: A layer descriptor finishes and the next one starts, or the run ends at a boundary. (R126) -/
  | layerDescriptorDone (seg : Nat)
  /-- LAYER_RUN_DEADLINE: A run's deadline passes and the run stops at the next descriptor boundary. (R123) -/
  | layerRunDeadline (seg : Nat)
  /-- FLASK_UNCORRECTABLE: An uncorrectable Flask error ends the Flask's service and fails the run or the Pours it affected. (R412) -/
  | flaskUncorrectable (bay flask : Nat)
  /-- SEGMENT_PLACED: A placement finishes loading weights and allocating pages, and the segment becomes PLACED. (R96) -/
  | segmentPlaced (seg : Nat)
  /-- PATTERN_BOOK_WALK: A walk request reaches the book device, which answers it or holds it during a remap. (R159) -/
  | patternBookWalk (peer gfa : Nat)
  /-- WALK_REPLY: A walk reply fills the page cache and releases the held request. (R159) -/
  | walkReply (gfa entry : Nat)
  /-- INVALIDATION: A page invalidation replaces a page-cache entry when its generation is later. (R160) -/
  | invalidation (gfa entry peer : Nat) (note : PageNote)
  /-- INVALIDATION_ACK: Acknowledgements of an invalidation reach the remapping device. (R175) -/
  | invalidationAck (gfa peer : Nat)
  /-- MIGRATION_COPY_DONE: A migration copy pass ends, and dirty granules are re-copied or the page is frozen. (R175) -/
  | migrationCopyDone (gfa : Nat)
  /-- MIGRATION_REMAP: The book remaps the migrated page, and held requests are redirected. (R175) -/
  | migrationRemap (gfa : Nat)
  /-- FORWARDING_STUB_EXPIRY: 1 ms after acknowledgement the old home removes its forwarding stub and frees the frame. (R175) -/
  | forwardingStubExpiry (gfa : Nat)
  /-- FRAME_RETIREMENT_DONE: A retirement copy finishes, and the page is remapped to the Riser frame on the same device. (R176) -/
  | frameRetirementDone (frame : Nat)
  /-- MIRROR_RESYNC_DONE: Resynchronisation of a mirror completes and DEGRADED is cleared. (R178) -/
  | mirrorResyncDone (gfa : Nat)
  /-- STACK_FAILED: A declared stack failure loses class 0 and 1 pages and resynchronises class 2 copies and metadata. (R181) -/
  | stackFailed (stack : Nat)
  /-- STACK_FAILURE_DETECTED: Uncorrectable lines on three channels within 1 ms, or two failed retrains, declare a stack failed. (R415) -/
  | stackFailureDetected (stack : Nat)
  /-- FRAME_ZEROED: The Fettler finishes zeroing a frame, which becomes allocatable and may serve a waiting allocation. (R172) -/
  | frameZeroed (frame : Nat)
  /-- SLICE_RECORD_QUERY: A device answers a class 6 query whether it holds a record or segment covering pages to be freed. (R173) -/
  | sliceRecordQuery (peer heat : Nat) (gfas : List Nat)
  /-- FENCE_NOTICE: A class 6 fence notice adds an endpoint or device to the fence list and is passed on to the group. (R280) -/
  | fenceNotice (peer endpoint : Nat)
  /-- UNFENCE_NOTICE: An unfence notice returns an endpoint to service. (R281) -/
  | unfenceNotice (peer endpoint : Nat)
  /-- GIVE_UP_REPORT: A give-up report reaches the output device, which fences the endpoint or logs it as live. (R280) -/
  | giveUpReport (peer endpoint : Nat)
  /-- FENCE_PROBE_TIMEOUT: A probe to a GN-52 over a relay member goes unanswered for 10 µs, and the device is fenced. (R280) -/
  | fenceProbeTimeout (device : Nat)
  /-- ENDPOINT_CREDIT_STALL: An endpoint under a give-up report that returns no credit for 100 µs is fenced. (R280) -/
  | endpointCreditStall (link : Nat)
  /-- ROUTE_UPDATE: A route change message is written to the shadow tables and acknowledged. (R261) -/
  | routeUpdate (peer link : Nat) (add : Bool)
  /-- ROUTE_TABLE_FLIP: The shadow route tables become active on both dies and the generation increases. (R273) -/
  | routeTableFlip
  /-- LINK_DRAINED: A closing link's queues empty and its credits return, and the tables flip and the link powers down. (R275) -/
  | linkDrained (link : Nat)
  /-- DRAIN_TIMEOUT: Step 2 or 3 of a link close exceeds its bound; the link reopens and the command answers BAD_STATE. (R276) -/
  | drainTimeout (link : Nat)
  /-- PINNING_END: 1 ms after a flip, pinning for the affected groups ends. (R275) -/
  | pinningEnd (group : Nat)
  /-- TREE_SETUP: A class 6 tree set-up message writes a tree entry and is answered. (R283) -/
  | treeSetup (peer entry : Nat)
  /-- TREE_SETUP_REPLY: The root collects tree set-up replies, and the tree becomes ready or the build fails. (R283) -/
  | treeSetupReply (peer tree : Nat) (ok : Bool)
  /-- TREE_LINK_REPAIR: A device reports a lost tree link to the root, which re-sends the changed entries. (R284) -/
  | treeLinkRepair (peer tree link : Nat)
  /-- TUNDISH_RING_TRANSFER: The group-pointer cache refills from, or spills to, the free-store ring. (R294) -/
  | tundishRingTransfer (half : Nat)
  /-- TUNDISH_REBUILD_DONE: After a reset or a half's wake the free-store rings are rebuilt, and training may pass step 6. (R295) -/
  | tundishRebuildDone (half : Nat)
  /-- BANK_SWAP_COPY_DONE: The failing bank's cells are copied, and the bank map switches to the Riser bank. (R305) -/
  | bankSwapCopyDone (half : Nat) (lost : List Nat)
  /-- HEARTBEAT: The active Foreman core writes a heartbeat every 100 µs. (R351) -/
  | heartbeat
  /-- CORE_TAKEOVER: The standby sees no heartbeat for 1 ms, takes over, replays the journal and resumes the queues. (R351) -/
  | coreTakeover
  /-- STANDBY_CORE_READY: The standby core finishes its self-test, image load and journal replay, and STANDBY_READY sets. (R367) -/
  | standbyCoreReady (pass : Bool)
  /-- FW_SWITCH_STANDBY_LOADED: The standby core has loaded, verified and replayed, and the Shops quiesce for hand-over. (R369) -/
  | fwSwitchStandbyLoaded (ok : Bool)
  /-- FW_SWITCH_HANDOVER: With every Shop at a boundary the standby becomes active and resumes the queues. (R369) -/
  | fwSwitchHandover
  /-- FW_SWITCH_DIRECTORY_DONE: The boot directory names the new slot, and the old core becomes the standby. (R369) -/
  | fwSwitchDirectoryDone
  /-- STANDBY_POWER_ON: P12SB is applied, and the standby domain starts with everything cleared. (R399) -/
  | standbyPowerOn (i2cAddr : Nat)
  /-- STANDBY_POWER_LOSS: P12SB falls below 11.4 V, the reset actions are taken and standby state is lost. (R468) -/
  | standbyPowerLoss
  /-- MAIN_POWER_GOOD: P48 has stayed at or above 40.0 V for 1 ms. (R390) -/
  | mainPowerGood (mv : Nat)
  /-- RESET_N_RELEASE: RESET_N is released with main power good, and the bring-up steps run. (R390) -/
  | resetNRelease (straps : Straps)
  /-- RESET_N_ASSERT: RESET_N held low for 10 µs stops the data plane for a COLD reset. (R391) -/
  | resetNAssert
  /-- RESET_LEVEL: The 48 V input below 38.0 V holds the main domains in reset and logs the event. (R391) -/
  | resetLevel (mv : Nat)
  /-- RESET_LEVEL_RESTART: After the input has stayed at or above 43.0 V for 10 ms the device restarts under the bring-up. (R396) -/
  | resetLevelRestart
  /-- BROWNOUT_WARNING: Two samples below 42.0 V halve ACLK, pause dispatch and assert ALERT_N. (R396) -/
  | brownoutWarning (mv : Nat)
  /-- BROWNOUT_RELEASE: 1 ms at or above 43.0 V restores full ACLK and dispatch. (R396) -/
  | brownoutRelease
  /-- THERMAL_THROTTLE: A die or stack reaches its throttle level, and ACLK is halved with dispatch paused. (R397) -/
  | thermalThrottle (sensor celsius : Nat)
  /-- THROTTLE_RELEASE: Every sensor below its release level for 1 ms ends the throttle. (R397) -/
  | throttleRelease
  /-- THERMAL_SHUTDOWN: A sensor reaches its shutdown level, and the reset-level actions are taken. (R397) -/
  | thermalShutdown (sensor celsius : Nat)
  /-- COOL_FAIL_ASSERT: COOL_FAIL_N low takes the throttle action for sensor 0xFF. (R469) -/
  | coolFailAssert
  /-- COOL_FAIL_SHUTDOWN: COOL_FAIL_N low for 10 s takes the shutdown action. (R469) -/
  | coolFailShutdown
  /-- COOL_FAIL_RELEASE: COOL_FAIL_N high for 1 ms with every sensor below release ends the throttle. (R469) -/
  | coolFailRelease
  /-- REFCLK_LOSS: The REFCLK monitor reports loss, and the PLLs hold with ALERT_N asserted. (R377) -/
  | refclkLoss
  /-- REFCLK_LOSS_TIMEOUT: REFCLK absent for 100 ms makes the power Shop perform a WARM reset. (R377) -/
  | refclkLossTimeout
  /-- REFCLK_RETURN: REFCLK returns; the alert clears, or a held reset ends after 1 ms. (R377) -/
  | refclkReturn
  /-- ACLK_HANG: ACLK stops or its multiplexer stays busy, and a WARM reset forces the other PLL. (R384) -/
  | aclkHang
  /-- ACLK_SWAP_LOCKED: The Riser PLL locks, and the multiplexer switches and the old PLL stops. (R385) -/
  | aclkSwapLocked
  /-- PLL_FAULT_PROPOSAL: PLL0 loses lock or drifts, and an ACLK swap is proposed. (R409) -/
  | pllFaultProposal
  /-- CLOCK_MONITOR_WINDOW: Every 10 µs each clock monitor updates its frequency and PRESENT. (R387) -/
  | clockMonitorWindow (readings : List (Nat × Nat))
  /-- TRIM_UPDATE: The OSC trim adjusts the period, falls back to SCLK after 1 ms of absence, or returns after 10 ms. (R381) -/
  | trimUpdate (reference : Nat)
  /-- TIME_BASE_WRAP: The 48-bit time base wraps and the wrap count increases. (R380) -/
  | timeBaseWrap
  /-- CPLL_LOCK: A compute-die CPLL locks, and the Bays waiting for it wake. (R379) -/
  | cpllLock (die : Nat)
  /-- BAY_WAKE_DONE: A Bay finishes waking to FIRED, and its dispatched work starts. (R392) -/
  | bayWakeDone (bay : Nat)
  /-- BAY_IDLE_TIMER: An idle Bay reaches B1_AFTER_US, B2_AFTER_US or B3_AFTER_MS and is Banked deeper. (R393) -/
  | bayIdleTimer (bay : Nat)
  /-- SWITCH_HALF_BANK: When every link of a die is OFF and its transfers have drained, the switch half is Banked. (R394) -/
  | switchHalfBank (half : Nat)
  /-- SWITCH_HALF_WAKE: A link of a Banked half powers up, and the half is powered and its Tundish rebuilt. (R394) -/
  | switchHalfWake (half : Nat)
  /-- WARM_RESET_DONE: The WARM reset finishes retraining, rebuilding and link training, and its final reply is sent. (R400) -/
  | warmResetDone
  /-- DOMAIN_RESET_DONE: A Bay, link or stack domain reset completes after its wait. (R402) -/
  | domainResetDone (kind index : Nat)
  /-- RISER_PROPOSAL: The trigger evaluation every 1 ms finds a limit crossed and proposes a swap or logs it. (R409) -/
  | riserProposal (kind unit : Nat)
  /-- RISER_FLASK_COPIED: At the boundary the Bay Ladle copies the Flask's SRAM, and the Riser map takes over. (R411) -/
  | riserFlaskCopied (bay flask : Nat)
  /-- RISER_PROPOSAL_LAPSE: A swap whose wait exceeds 10 ms lapses and is proposed again after 1 s. (R411) -/
  | riserProposalLapse (kind unit : Nat)
  /-- AGING_MONITOR_REPORT: Once per second each Flask reports its smallest timing margin. (R411) -/
  | agingMonitorReport (margins : List Nat)
  /-- HBM_SCRUB: The Fettler reads frames in rotation, counting corrected errors and acting on uncorrectable ones. (R153) -/
  | hbmScrub (frame corrected : Nat) (uncorrected : List (Nat × Nat))
  /-- PAGE_CACHE_REVALIDATE: Every 100 ms each page-cache entry is revalidated against its book. (R160) -/
  | pageCacheRevalidate
  /-- FLASK_SRAM_SCRUB: Every second each Flask of a FIRED or B1 Bay has its SRAM scrubbed. (R414) -/
  | flaskSramScrub (counts : List (Nat × Nat))
  /-- TUNDISH_SCRUB: Every 10 s each bank's free cell groups are scrubbed. (R414) -/
  | tundishScrub (half : Nat) (corrected uncorrected : List (Nat × Nat))
  /-- SHAKEOUT_WRITE: The standby writer writes the next queued event entry, or counts it lost. (R417) -/
  | shakeoutWrite
  /-- SIGNATURE_DONE: The key engine finishes a queued signature and starts the next. (R435) -/
  | signatureDone
  /-- ROLLBACK_FUSE_BLOWN: A rollback fuse blow finishes, and the next fuse starts or the command ends. (R437) -/
  | rollbackFuseBlown (ok : Bool)
  /-- SAVE_HEAT_WAIT_DONE: A paused Heat's work ends, and its image is written to storage. (R345) -/
  | saveHeatWaitDone (heat : Nat)
  /-- SAVE_HEAT_WAIT_TIMEOUT: The SAVE_HEAT wait limit expires, and the command answers BAD_STATE with the pause lifted. (R345) -/
  | saveHeatWaitTimeout (heat : Nat)
  /-- RECORD_CLOSE_REPLY: The collector receives a device's context, and the slice record is formed when all have answered. (R342) -/
  | recordCloseReply (peer heat : Nat) (body : List Byte)
  /-- RECORD_CLOSE_TIMEOUT: A device that does not answer within 1 ms fails the close with MEMBER_FENCED. (R342) -/
  | recordCloseTimeout (heat : Nat)
  /-- ASSAY_SAMPLE: An enabled channel samples V and I and integrates the energy into its registers. (R442) -/
  | assaySample (channel volts : Nat) (amps : Int)
  /-- ASSAY_NV_COMMIT: The island commits its non-volatile memory every 1 s, or when ASSAY_VDD falls. (R445) -/
  | assayNvCommit
  /-- ASSAY_VDD_GOOD: ASSAY_VDD returns; OUTAGE rises, the straps are sampled and measurement resumes. (R445) -/
  | assayVddGood (straps : Nat)
  /-- ASSAY_VDD_FALLING: ASSAY_VDD below 3.10 V makes the island commit within the hold-up time. (R465) -/
  | assayVddFalling
  /-- SEAL_OPEN_CHANGE: SEAL_OPEN_N changes and seal-open mode starts or ends. (R446) -/
  | sealOpenChange (isOpen : Bool)
  /-- ASSAY_FRAME_SEND: Every 100 ms the island sends a 252-byte frame to X0. (R454) -/
  | assayFrameSend
  /-- ASSAY_FRAME: The X0 receiver takes a frame whole, or discards it on a CRC or magic failure. (R455) -/
  | assayFrame (bytes : List Byte)
  /-- ASSAY_SILENT: No good frame for 1 s clears ARRIVING and logs ASSAY_SILENT. (R455) -/
  | assaySilent
  /-- FW_SWITCH_STEP_TIMEOUT: A switch-over step misses its bound; the standby is stopped, the active core continues and FW_SWITCH answers INTERNAL_FAULT. (R369) -/
  | fwSwitchStepTimeout
  /-- DOMAIN_RESET_WAIT_TIMEOUT: A Bay domain reset whose chunks have not left the Bay within 10 ms answers BAD_STATE and resets nothing. (R402) -/
  | domainResetWaitTimeout (bay : Nat)
  /-- DIGEST_RANGE_DONE: The Ladles finish reading a DET_DIGEST_RANGE range, the leaf is added and the final reply is sent. (R336) -/
  | digestRangeDone (heat : Nat)
  /-- CONTROL_BLOCK_DISCARD: A control block whose CRC fails or whose kind is reserved is discarded and counted in CB_ERR_CNT. (R211) -/
  | controlBlockDiscard (link : Nat) (body : List Byte)
  /-- BAD_COLUMN: A column with a code violation or disparity error outside a packet is counted in the lane's CV_CNT and dropped. (R212) -/
  | badColumn (link : Nat) (rd : Option Nat) (groups : List Nat)
  /-- FENCE_PROBE: A probe sent over a relay member reaches the suspected GN-52's switch die, which answers it. (R280) -/
  | fenceProbe (peer : Nat)
  /-- FENCE_PROBE_REPLY: The probe answer reaches the declaring member in time, and the GN-52 is not fenced. (R280) -/
  | fenceProbeReply (device : Nat)
  /-- STANDBY_POWER_SETTLED: Standby power has been present for 10 ms, and a bring-up waiting with main power good and RESET_N released starts. (R390) -/
  | standbyPowerSettled
  /-- REFRESH_2X_CHANGE: A stack's temperature crosses 85 °C, and its refresh rate doubles or returns with REFRESH_2X set or cleared. (R154) -/
  | refresh2xChange (stack celsius : Nat)
  /-- MIRROR_CONFIRM: The mirror's confirmation of a forwarded class 2 write reaches the home, which then ACKs the source. (R177) -/
  | mirrorConfirm (src stream seq : Nat)
  /-- ROUTE_CHANGE_ACK: An acknowledgement of a route change reaches the switch Shop that sent it, which flips when all have arrived. (R275) -/
  | routeChangeAck (peer link : Nat)
  /-- SLICE_RECORD_REPLY: A slice device's answer reaches the book device, which frees the pages or refuses with BAD_STATE when all have answered. (R173) -/
  | sliceRecordReply (peer gfa : Nat) (covers : Bool)
  deriving DecidableEq, Repr

end Sys2Proof
end

