-- ==== Sys2Proof/Decode.lean ====
section
/-! DEFINITION. Reading a command from a word of the opcode table. The table gives no row any bits: a command reaches the block
as a packet, a bus transfer or an event, never as a word, so no word spells a command. -/
namespace Sys2Proof

/-- The command an opcode-table word spells: none, since no row of the table has bits. -/
def decodeTableWord (_nbits _w : Nat) : Option Instr := none

end Sys2Proof
end

