-- ==== Sys2Proof/Config.lean ====
section
/-! DEFINITION. What an implementation fixes, and the values the manual leaves open. Every constant here is opaque: no
proof and no evaluation can learn a value of it, so a statement that mentions one holds whatever it is. -/
namespace Sys2Proof.Config

/-- Ordering code of R362: true for GN-52-K, false for GN-52-H (R2). -/
opaque gradeK : Bool
/-- Stepping (R4): true for S2, false for S1. -/
opaque steppingS2 : Bool
/-- Serial number from fuses (R362, R429). -/
opaque serial : BitVec 64
/-- Plynvik's JTAG manufacturer identity (R376 [11:1]); the manual does not state the number. -/
opaque jtagManufacturer : BitVec 11
/-- Root key hash from fuses (R429), as a number, byte 0 least significant. -/
opaque rootHash : BitVec 256
/-- The vendor root public key that is hashed into the fuses (R429, R430). -/
opaque rootPublicKey : BitVec 456
/-- The device secret (R429), used by the key engine alone. -/
opaque deviceSecret : BitVec 256
/-- The public key of a 57-byte Ed448 seed (R434). -/
opaque ed448Public : BitVec 456 → BitVec 456
/-- Ed448 signature (R428): key seed, context number, message. RFC 8032 is not reproduced by the manual. -/
opaque ed448Sign : BitVec 456 → Nat → List (BitVec 8) → BitVec 912
/-- Ed448 verification (R428): public key, context number, message, signature. -/
opaque ed448Verify : BitVec 456 → Nat → List (BitVec 8) → BitVec 912 → Bool
/-- The factory image of slot A (R430): byte `i` of its header and payload. -/
opaque factoryImage : Nat → BitVec 8
/-- Its length in bytes. -/
opaque factoryLength : Nat
/-- The vendor's signature over bytes 0 to 141 of the device certificate (R434), as a number. -/
opaque certSignature : BitVec 912
/-- First 8 bytes of SHAKE256 over the boot ROM (R436). -/
opaque bootRomDigest : BitVec 64
/-- Serial of the Assay island, its key seed, the authority key, its certificate and firmware (R449 to R453). -/
opaque assaySerial : BitVec 64
opaque assayKeySeed : BitVec 456
opaque assayAuthority : BitVec 456
opaque assayCertSignature : BitVec 912
opaque assayFwVersion : BitVec 32
opaque assaySoftwareDigest : BitVec 256
/-- The current, in µA, that a channel with calibration gain (ppm) and offset (mA) takes from a current sensed (R448 names both
parameters and gives no formula). -/
opaque assayCalibrated : Int → Int → Int → Int
/-- A free value: an open value of the manual. The argument is the state's counter `freeCtr`, which every use advances. -/
opaque freeValue : Nat → Nat
/-- A free value with several parts: the counter, then the part (an element, a byte, a device). -/
opaque freePart : Nat → Nat → Nat
/-- Idle columns that a link sends before its next burst (R210 step 4): how many is open (log entry 127). The link, then the counter. -/
opaque idleColumns : Nat → Nat → Nat
/-- Which access of each 16 to a page the home samples (R174). -/
opaque samplePhase : Nat
/-- Bytes of the machine's memory homed on other devices, by GFA and time: outside this block. -/
opaque remoteByte : Nat → Nat → BitVec 8

/-- The module's input power in watts at a time (R406, informative): the manual gives no rule for it. -/
opaque moduleWatts : Nat → Nat

end Sys2Proof.Config
end

