-- ==== Sys2Proof/Machine/Bits.lean ====
section
/-! DEFINITION. Bit fields, byte strings (least significant byte first, R34, R46, R471), modular differences and
saturating counts, used by every chapter of the model. -/
namespace Sys2Proof.Machine

/-- The `n` low bytes of `v`, least significant first. -/
def leBytes : Nat → Nat → List Byte
  | 0, _ => []
  | n + 1, v => BitVec.ofNat 8 v :: leBytes n (v / 256)

/-- The number a byte string spells, least significant byte first. -/
def leNat : List Byte → Nat
  | [] => 0
  | b :: r => b.toNat + 256 * leNat r

/-- Bits [hi:lo] of `v`. -/
def bitsOf (v hi lo : Nat) : Nat := (v >>> lo) % 2 ^ (hi + 1 - lo)

/-- Bit `i` of `v`. -/
def bitAt (v i : Nat) : Bool := v.testBit i

/-- `v` with bit `i` set. -/
def withBit (v i : Nat) : Nat := v ||| 2 ^ i

/-- `v` with bit `i` clear. -/
def withoutBit (v i : Nat) : Nat := if v.testBit i then v - 2 ^ i else v

/-- `v` with bit `i` equal to `b`. -/
def putBit (v i : Nat) (b : Bool) : Nat := if b then withBit v i else withoutBit v i

/-- 1 for true, 0 for false. -/
def b2n (b : Bool) : Nat := if b then 1 else 0

/-- Bits of `a` that are clear in `b`. -/
def andNot (a b : Nat) : Nat := a - (a &&& b)

/-- Number of bits set among the low `n` bits of `v`. -/
def popCount : Nat → Nat → Nat
  | 0, _ => 0
  | n + 1, v => v % 2 + popCount n (v / 2)

/-- Number of bits of `v` up to its highest 1; 0 for 0. -/
def bitLen (v : Nat) : Nat := if v = 0 then 0 else Nat.log2 v + 1

/-- The positions below `n` whose bit is set in `v`, in increasing order. -/
def bitList (n v : Nat) : List Nat := (List.range n).filter (fun i => v.testBit i)

/-- (a - b) modulo m. -/
def subMod (a b m : Nat) : Nat := (a % m + (m - b % m)) % m

/-- Counters saturate at 0xFFFF_FFFF. -/
def satAdd32 (a b : Nat) : Nat := min (a + b) 0xFFFFFFFF

/-- Division rounding up. -/
def ceilDiv (a b : Nat) : Nat := (a + b - 1) / b

/-- The first `n` bytes of `l`, padded with zeros. -/
def padTo (n : Nat) (l : List Byte) : List Byte := (l ++ List.replicate n 0).take n

/-- Bytes `[off, off + n)` of `l`, as a number. -/
def fieldAt (l : List Byte) (off n : Nat) : Nat := leNat ((l.drop off).take n)

/-- `l` with its element `i` replaced. -/
def listSet {α : Type} (l : List α) (i : Nat) (x : α) : List α := l.set i x

/-- Cut `l` into pieces of `n` (n > 0), at most `fuel` of them. -/
def chunksOf {α : Type} (n : Nat) : Nat → List α → List (List α)
  | 0, _ => []
  | _, [] => []
  | fuel + 1, l => l.take n :: chunksOf n fuel (l.drop n)

/-- `l` without later repeats. -/
def dedupNat : List Nat → List Nat
  | [] => []
  | x :: r => x :: (dedupNat r).filter (fun y => y ≠ x)

/-- Sum of a list. -/
def sumNat : List Nat → Nat
  | [] => 0
  | x :: r => x + sumNat r

/-- The first place of `x` in `l`. -/
def indexOf? (l : List Nat) (x : Nat) : Option Nat := l.findIdx? (fun y => y == x)

/-- The largest element, 0 for none. -/
def maxNat : List Nat → Nat
  | [] => 0
  | x :: r => max x (maxNat r)

/-- Two's complement of an `n`-bit number as an integer. -/
def toSigned (n v : Nat) : Int := if v % 2 ^ n < 2 ^ (n - 1) then (v % 2 ^ n : Nat) else ((v % 2 ^ n : Nat) : Int) - (2 ^ n : Nat)

/-- An integer modulo 2^n. -/
def ofSigned (n : Nat) (i : Int) : Nat := (i % ((2 ^ n : Nat) : Int)).toNat

end Sys2Proof.Machine
end

