-- ==== Sys2Proof/Machine/Codes.lean ====
section
/-! DEFINITION. The check codes and mixing functions of the manual: the header CRC-16 (R236), the payload CRC-32C (R237),
the SMBus PEC (R371), SHAKE256 (named by R62, R214, R362 …; the manual takes it from its standard), and the 64-bit
finaliser and stochastic draw of R37. -/
namespace Sys2Proof.Machine

/-- Eight steps of a CRC register of `w` bits that shifts left. -/
def crcLeftSteps (w poly : Nat) : Nat → Nat → Nat
  | 0, c => c
  | k + 1, c => crcLeftSteps w poly k (if c.testBit (w - 1) then ((c * 2) % 2 ^ w) ^^^ poly else (c * 2) % 2 ^ w)

/-- CRC-16 of R236: polynomial 0x1021, initial 0xFFFF, each byte's bit 7 first, no final inversion. -/
def crc16 (b : List Byte) : Nat :=
  b.foldl (fun c x => crcLeftSteps 16 0x1021 8 (c ^^^ (x.toNat * 256))) 0xFFFF

/-- CRC-8 of R371: polynomial 0x07, initial 0. -/
def crc8 (b : List Byte) : Nat :=
  b.foldl (fun c x => crcLeftSteps 8 0x07 8 (c ^^^ x.toNat)) 0

/-- Eight steps of a reflected CRC register. -/
def crcRightSteps (poly : Nat) : Nat → Nat → Nat
  | 0, c => c
  | k + 1, c => crcRightSteps poly k (if c % 2 = 1 then (c / 2) ^^^ poly else c / 2)

/-- CRC-32C of R237, reflected form (0x82F6_3B78 is 0x1EDC_6F41 reflected). -/
def crc32c (b : List Byte) : Nat :=
  (b.foldl (fun c x => crcRightSteps 0x82F63B78 8 (c ^^^ x.toNat)) 0xFFFFFFFF) ^^^ 0xFFFFFFFF

/-- `mix` of R37: the 64-bit finaliser. -/
def mix (x0 : Nat) : Nat :=
  let x := x0 % 2 ^ 64
  let x := x ^^^ (x >>> 30)
  let x := (x * 0xBF58476D1CE4E5B9) % 2 ^ 64
  let x := x ^^^ (x >>> 27)
  let x := (x * 0x94D049BB133111EB) % 2 ^ 64
  x ^^^ (x >>> 31)

/-- `sr_draw` of R37: a function of Heat, step, site and element alone (R328). -/
def srDraw (heat step site e : Nat) : Nat :=
  let key := (heat % 2 ^ 32) * 2 ^ 32 + step % 2 ^ 32
  let ctr := (site % 256) * 2 ^ 56 + e % 2 ^ 48
  mix (mix key ^^^ ctr) >>> 32

/-! ### SHAKE256

The manual names SHAKE256 and takes it from its standard. The 1,600 state bits are held as ONE number, lane (x, y) at bit
64 · (x + 5y); in this form a block is taken in by one exclusive-or of the number its bytes spell, and the output is the
low bytes of the number. A plane is the 320 bits of one y. -/

/-- A 64-bit word turned left by `n`. -/
def turn (n w : Nat) : Nat := (w * 2 ^ (n % 64)) % 2 ^ 64 + w / 2 ^ (64 - n % 64)

/-- The 64-bit word number `k` of a bit string held as a number. -/
def word64 (s k : Nat) : Nat := bitsOf s (64 * k + 63) (64 * k)

/-- The words listed by number `k`, put at bit 64 · k. -/
def ofWords (l : List (Nat × Nat)) : Nat := sumNat (l.map fun e => e.2 * 2 ^ (64 * e.1))

/-- Parity mixing: every plane receives, at column x, the parity of column x - 1 and that of column x + 1 turned by one. -/
def mixParity (s : Nat) : Nat :=
  let parity := (List.range 5).foldl (fun p y => p ^^^ bitsOf s (320 * y + 319) (320 * y)) 0
  let effect := ofWords ((List.range 5).map fun x => (x, word64 parity ((x + 4) % 5) ^^^ turn 1 (word64 parity ((x + 1) % 5))))
  s ^^^ sumNat ((List.range 5).map fun y => effect * 2 ^ (320 * y))

/-- Lane turning and lane moving as one walk from (1, 0): the lane stood on at stage t turns by (t + 1)(t + 2) / 2 and goes
to (y, 2x + 3y), where the walk stands next. Lane (0, 0) is not on the walk and stays. -/
def walkLanes (s : Nat) : Nat → Nat × Nat → Nat
  | 0, _ => word64 s 0
  | n + 1, (x, y) =>
    let nxt := (y, (2 * x + 3 * y) % 5)
    turn ((24 - n) * (25 - n) / 2) (word64 s (x + 5 * y)) * 2 ^ (64 * (nxt.1 + 5 * nxt.2)) + walkLanes s n nxt

/-- Row mixing: each bit takes the bit two columns on where the bit one column on is clear. -/
def mixRows (s : Nat) : Nat :=
  ofWords ((List.range 25).map fun k =>
    let on (d : Nat) : Nat := word64 s ((k % 5 + d) % 5 + 5 * (k / 5))
    (k, on 0 ^^^ andNot (on 2) (on 1)))

/-- The round-constant register: the next value of the 8-bit shift register with feedback x^8 + x^6 + x^5 + x^4 + 1. -/
def nextTap (r : Nat) : Nat := if r ≥ 128 then (2 * r) ^^^ 0x171 else 2 * r

/-- A round constant: seven successive output bits of the register at bits 2^j - 1; and the register after them. -/
def roundTaps : Nat → Nat → Nat × Nat
  | 0, r => (0, r)
  | n + 1, r =>
    let (c, r') := roundTaps n (nextTap r)
    ((r % 2) * 2 ^ (2 ^ (6 - n) - 1) + c, r')

/-- The permutation: `n` rounds from a register value. -/
def permute : Nat → Nat → Nat → Nat
  | 0, _, s => s
  | n + 1, r, s =>
    let (c, r') := roundTaps 7 r
    permute n r' (mixRows (walkLanes (mixParity s) 24 (1, 0)) ^^^ c)

/-- Take a message in, 136 bytes at a time; its last partial block ends in 0x1F, zeros and the top bit of byte 135. -/
def takeIn : Nat → Nat → List Byte → Nat
  | 0, s, _ => s
  | fuel + 1, s, m =>
    if m.length ≥ 136 then takeIn fuel (permute 24 1 (s ^^^ leNat (m.take 136))) (m.drop 136)
    else permute 24 1 (s ^^^ leNat m ^^^ 0x1F * 256 ^ m.length ^^^ 2 ^ 1087)

/-- SHAKE256 of a message, `n` output bytes (n ≤ 136: no digest of the manual is longer than 64). -/
def shake256 (n : Nat) (m : List Byte) : List Byte := leBytes n (takeIn (m.length / 136 + 1) 0 m)

end Sys2Proof.Machine
end

