-- ==== Sys2Proof/Machine/Flags.lean ====
section
/-! DEFINITION. The arithmetic flags of R57 and how the flags of several operations meet (they are sticky). -/
namespace Sys2Proof.Machine

/-- The four flags of a Flask's arithmetic status (R57). -/
structure AFlags where
  ovf      : Bool := false
  nanOut   : Bool := false
  flushIn  : Bool := false
  flushOut : Bool := false
  deriving DecidableEq, Repr

/-- No flag. -/
def noFlags : AFlags := {}

/-- Flags accumulate: sticky OR (R56, R57). -/
def orFlags (a b : AFlags) : AFlags :=
  { ovf := a.ovf || b.ovf, nanOut := a.nanOut || b.nanOut,
    flushIn := a.flushIn || b.flushIn, flushOut := a.flushOut || b.flushOut }

/-- The flags as the bits of R57. -/
def flagBits (a : AFlags) : Nat := b2n a.ovf + 2 * b2n a.nanOut + 4 * b2n a.flushIn + 8 * b2n a.flushOut

/-- OVF alone. -/
def ovfFlag : AFlags := { ovf := true }

/-- FLUSH_IN alone. -/
def flushInFlag : AFlags := { flushIn := true }

/-- NAN_OUT alone. -/
def nanFlag : AFlags := { nanOut := true }

end Sys2Proof.Machine
end

