-- ==== Sys2Proof/Machine/Numbers.lean ====
section
/-! DEFINITION. Number formats, CONVERT, the Ingot, the single rounding and MEAN (R29 to R55), and the exact-then-round-once
FP32 operations of the vector unit (R43). -/
namespace Sys2Proof.Machine

/-- The formats of R29. -/
inductive Fmt where
  | e4m3 | e5m2 | fp16 | bf16 | fp32 | int8 | int32
  deriving DecidableEq, Repr

/-- Format codes of R30. -/
def fmtOfCode (c : Nat) : Option Fmt :=
  if c = 1 then some .e4m3 else if c = 2 then some .e5m2 else if c = 3 then some .fp16 else if c = 4 then some .bf16
  else if c = 5 then some .fp32 else if c = 8 then some .int8 else if c = 9 then some .int32 else none

/-- The code of a format (R30). -/
def Fmt.code : Fmt → Nat
  | .e4m3 => 1 | .e5m2 => 2 | .fp16 => 3 | .bf16 => 4 | .fp32 => 5 | .int8 => 8 | .int32 => 9

/-- Bytes of one element (R34). -/
def Fmt.bytes : Fmt → Nat
  | .e4m3 => 1 | .e5m2 => 1 | .fp16 => 2 | .bf16 => 2 | .fp32 => 4 | .int8 => 1 | .int32 => 4

/-- Fraction bits (R29). -/
def Fmt.frac : Fmt → Nat
  | .e4m3 => 3 | .e5m2 => 2 | .fp16 => 10 | .bf16 => 7 | .fp32 => 23 | .int8 => 0 | .int32 => 0

/-- Exponent bits (R29). -/
def Fmt.expBits : Fmt → Nat
  | .e4m3 => 4 | .e5m2 => 5 | .fp16 => 5 | .bf16 => 8 | .fp32 => 8 | .int8 => 0 | .int32 => 0

/-- Bias (R29). -/
def Fmt.bias : Fmt → Nat
  | .e4m3 => 7 | .e5m2 => 15 | .fp16 => 15 | .bf16 => 127 | .fp32 => 127 | .int8 => 0 | .int32 => 0

/-- An integer format. -/
def Fmt.isInt : Fmt → Bool
  | .int8 => true | .int32 => true | _ => false

/-- Canonical NaN (R29, R31). -/
def Fmt.nan : Fmt → Nat
  | .e4m3 => 0x7F | .e5m2 => 0x7E | .fp16 => 0x7E00 | .bf16 => 0x7FC0 | .fp32 => 0x7FC00000 | .int8 => 0 | .int32 => 0

/-- Largest finite magnitude's encoding (R29). -/
def Fmt.maxEnc : Fmt → Nat
  | .e4m3 => 0x7E | .e5m2 => 0x7B | .fp16 => 0x7BFF | .bf16 => 0x7F7F | .fp32 => 0x7F7FFFFF | .int8 => 127 | .int32 => 0x7FFFFFFF

/-- Encoding of +∞ (R29; E4M3 has none). -/
def Fmt.infEnc : Fmt → Nat
  | .e4m3 => 0x7E | .e5m2 => 0x7C | .fp16 => 0x7C00 | .bf16 => 0x7F80 | .fp32 => 0x7F800000 | .int8 => 127 | .int32 => 0x7FFFFFFF

/-- Largest exponent of a finite value. -/
def Fmt.emax : Fmt → Int
  | .e4m3 => 8 | .e5m2 => 15 | .fp16 => 15 | .bf16 => 127 | .fp32 => 127 | .int8 => 0 | .int32 => 0

/-- Exponent of the smallest normal value. -/
def Fmt.emin (f : Fmt) : Int := 1 - (f.bias : Int)

/-- Width in bits. -/
def Fmt.width (f : Fmt) : Nat := 8 * f.bytes

/-- Encoding with the sign bit set when `neg`. -/
def signEnc (f : Fmt) (neg : Bool) (mag : Nat) : Nat := if neg then mag + 2 ^ (f.width - 1) else mag

/-- A value: NaN, an infinity, a signed zero, or ± m × 2^e with m > 0. -/
inductive Val where
  | nan
  | inf (neg : Bool)
  | zero (neg : Bool)
  | fin (neg : Bool) (m : Nat) (e : Int)
  deriving DecidableEq, Repr

/-- Read an element, flushing a subnormal to a zero of its sign (R32); the flag says whether it flushed. -/
def decodeVal (f : Fmt) (x : Nat) : Val × AFlags :=
  if f.isInt then
    let i := toSigned f.width x
    if i = 0 then (.zero false, noFlags) else (.fin (decide (i < 0)) i.natAbs 0, noFlags)
  else
    let neg := x.testBit (f.width - 1)
    let ex := bitsOf x (f.width - 2) f.frac
    let fr := x % 2 ^ f.frac
    let allOnes := ex = 2 ^ f.expBits - 1
    if f = .e4m3 ∧ allOnes ∧ fr = 7 then (.nan, noFlags)
    else if f ≠ .e4m3 ∧ allOnes then (if fr = 0 then .inf neg else .nan, noFlags)
    else if ex = 0 then (.zero neg, if fr = 0 then noFlags else flushInFlag)
    else (.fin neg (2 ^ f.frac + fr) ((ex : Int) - f.bias - f.frac), noFlags)

/-- How a rounding is done (R36): to nearest even, or stochastic with its 32-bit draw (R37). -/
inductive Rounding where
  | rne
  | sr (draw : Nat)
  deriving DecidableEq, Repr

/-- Whether the kept magnitude `hi` goes up when `d` bits `rem` are discarded (R38, round_mag). -/
def roundUp (rc : Rounding) (hi d rem : Nat) (sticky : Bool) : Bool :=
  if d = 0 then false else
  match rc with
  | .rne => decide (rem > 2 ^ (d - 1)) || (decide (rem = 2 ^ (d - 1)) && (sticky || decide (hi % 2 = 1)))
  | .sr draw => decide (draw < (if d ≥ 32 then rem >>> (d - 32) else rem <<< (32 - d)))

/-- `round_mag` of R51: round the magnitude M × 2^E (M > 0) to a floating-point format. -/
def roundMag (f : Fmt) (rc : Rounding) (neg : Bool) (M : Nat) (E : Int) (sticky : Bool) : Nat × AFlags :=
  let p := f.frac + 1
  let L := bitLen M
  let lead : Int := (L : Int) - 1 + E
  let d := L - p
  let hi := if L > p then M >>> d else M <<< (p - L)
  let up := roundUp rc hi d (M % 2 ^ d) sticky
  let hi1 := if up then hi + 1 else hi
  let carry := hi1 ≥ 2 ^ p
  let hi2 := if carry then hi1 / 2 else hi1
  let lead2 := if carry then lead + 1 else lead
  if lead2 > f.emax ∨ (f = .e4m3 ∧ lead2 = 8 ∧ hi2 > 14) then (signEnc f neg f.maxEnc, ovfFlag)
  else if lead2 < f.emin then (signEnc f neg 0, { flushOut := true })
  else (signEnc f neg (((lead2 + f.bias).toNat) * 2 ^ f.frac + hi2 % 2 ^ f.frac), noFlags)

/-- The integer nearest ± M × 2^E under the rounding control, before saturation (R42, R52). -/
def roundInt (rc : Rounding) (M : Nat) (E : Int) (sticky : Bool) : Nat :=
  if E ≥ 0 then M <<< E.toNat
  else
    let d := (-E).toNat
    let hi := M >>> d
    if roundUp rc hi d (M % 2 ^ d) sticky then hi + 1 else hi

/-- Saturate an integer to the format's range (R42). -/
def satInt (f : Fmt) (neg : Bool) (m : Nat) : Nat × AFlags :=
  let lim := 2 ^ (f.width - 1)
  if neg then (if m > lim then (lim, ovfFlag) else ((2 ^ f.width - m) % 2 ^ f.width, noFlags))
  else (if m ≥ lim then (lim - 1, ovfFlag) else (m, noFlags))

/-- Deliver a value in a format: R39 to R42 for CONVERT, the same rules for every rounded result. -/
def encodeVal (f : Fmt) (rc : Rounding) (sticky : Bool) (v : Val) : Nat × AFlags :=
  if f.isInt then
    match v with
    | .nan => (0, ovfFlag)
    | .inf neg => (if neg then 2 ^ (f.width - 1) else 2 ^ (f.width - 1) - 1, ovfFlag)
    | .zero _ => (0, noFlags)
    | .fin neg m e => satInt f neg (roundInt rc m e sticky)
  else
    match v with
    | .nan => (f.nan, nanFlag)
    | .inf neg => if f = .e4m3 then (f.nan, nanFlag) else (signEnc f neg f.infEnc, noFlags)
    | .zero neg => (signEnc f neg 0, noFlags)
    | .fin neg m e => roundMag f rc neg m e sticky

/-- CONVERT of one element (R39). -/
def convert (src dst : Fmt) (rc : Rounding) (x : Nat) : Nat × AFlags :=
  let (v, fl) := decodeVal src x
  let (y, fl') := encodeVal dst rc false v
  (y, orFlags fl fl')

/-- The rounding named by a 2-bit rounding control for element `e` (R36, R37); values 2 and 3 are refused before. -/
def roundingOf (rc heat step site e : Nat) : Rounding := if rc = 1 then .sr (srDraw heat step site e) else .rne

/-! ### The Ingot (R44 to R49) -/

/-- A 320-bit Ingot (as a number modulo 2^320) and its side store (R45). -/
structure Ingot where
  i    : Nat := 0
  side : Nat := 0
  deriving DecidableEq, Repr

/-- Enter one contribution (R47). -/
def ingotEnter (f : Fmt) (x : Nat) (g : Ingot) : Ingot × AFlags :=
  let (v, fl) := decodeVal f x
  match v with
  | .nan => ({ g with side := g.side ||| 1 }, fl)
  | .inf neg => ({ g with side := g.side ||| (if neg then 4 else 2) }, fl)
  | .zero _ => (g, fl)
  | .fin neg m e =>
    let t := m <<< (e + 149).toNat
    ({ g with i := if neg then subMod g.i t (2 ^ 320) else (g.i + t) % 2 ^ 320 }, fl)

/-- The sum of two Ingots (R47). -/
def ingotAdd (a b : Ingot) : Ingot := { i := (a.i + b.i) % 2 ^ 320, side := a.side ||| b.side }

/-- The special results of R51 rules 1 to 3, for a floating-point format; none when rule 4 applies. -/
def ingotSpecial (f : Fmt) (g : Ingot) : Option (Nat × AFlags) :=
  if g.side.testBit 0 ∨ (g.side.testBit 1 ∧ g.side.testBit 2) then some (f.nan, nanFlag)
  else if g.side.testBit 1 ∨ g.side.testBit 2 then
    some (signEnc f (g.side.testBit 2) f.infEnc, if f = .e4m3 then ovfFlag else noFlags)
  else if g.i = 0 then some (0, noFlags) else none

/-- The sign and magnitude of an Ingot. -/
def ingotSplit (g : Ingot) : Bool × Nat :=
  if g.i ≥ 2 ^ 319 then (true, 2 ^ 320 - g.i) else (false, g.i)

/-- The single rounding of an Ingot (R51, R52). -/
def ingotRound (f : Fmt) (rc : Rounding) (g : Ingot) : Nat × AFlags :=
  let (neg, m) := ingotSplit g
  if f.isInt then
    if g.side.testBit 0 ∨ (g.side.testBit 1 ∧ g.side.testBit 2) then (0, ovfFlag)
    else if g.side.testBit 1 then (2 ^ (f.width - 1) - 1, ovfFlag)
    else if g.side.testBit 2 then (2 ^ (f.width - 1), ovfFlag)
    else satInt f neg (roundInt rc m (-149) false)
  else
    match ingotSpecial f g with
    | some r => r
    | none => roundMag f rc neg m (-149) false

/-- MEAN (R55): the Ingot divided by n, rounded once. -/
def ingotMean (f : Fmt) (rc : Rounding) (n : Nat) (g : Ingot) : Nat × AFlags :=
  match ingotSpecial f g with
  | some r => r
  | none =>
    let (neg, m) := ingotSplit g
    let M := m <<< 128
    roundMag f rc neg (M / n) (-277) (decide (M % n ≠ 0))

/-- The FP32 value of an Ingot's sum without a NaN or infinity is rounded by `ingotRound .fp32`. The same Ingot as 40
little-endian bytes (R46). -/
def ingotBytes (g : Ingot) : List Byte := leBytes 40 g.i

/-! ### MAX and MIN (R50) -/

/-- An extreme kept by a Crucible: nothing yet, or the best value so far and whether a NaN was seen. -/
structure Extreme where
  any  : Bool := false
  nan  : Bool := false
  best : Val := .zero false
  deriving DecidableEq, Repr

/-- Compare two finite magnitudes m × 2^e. -/
def magLt (m : Nat) (e : Int) (m' : Nat) (e' : Int) : Bool :=
  if e ≤ e' then decide (m < m' <<< (e' - e).toNat) else decide (m <<< (e - e').toNat < m')

/-- Value order with +0 above −0 (R50); NaN is never compared. -/
def valLt : Val → Val → Bool
  | .nan, _ => false
  | _, .nan => false
  | .inf n, .inf n' => n && !n'
  | .inf n, _ => n
  | _, .inf n => !n
  | .zero n, .zero n' => n && !n'
  | .zero _, .fin n _ _ => !n
  | .fin n _ _, .zero _ => n
  | .fin n m e, .fin n' m' e' =>
    if n && !n' then true else if !n && n' then false
    else if n then magLt m' e' m e else magLt m e m' e'

/-- Enter one contribution to an extreme; `isMax` selects MAX. -/
def extremeEnter (isMax : Bool) (f : Fmt) (x : Nat) (g : Extreme) : Extreme × AFlags :=
  let (v, fl) := decodeVal f x
  match v with
  | .nan => ({ g with any := true, nan := true }, fl)
  | v =>
    let better := !g.any || g.nan || (if isMax then valLt g.best v else valLt v g.best)
    ({ g with any := true, best := if better then v else g.best }, fl)

/-- Deliver an extreme (R50). -/
def extremeRound (f : Fmt) (rc : Rounding) (g : Extreme) : Nat × AFlags :=
  if g.nan then (if f.isInt then (0, ovfFlag) else (f.nan, nanFlag))
  else match g.best with
    | .inf neg => if f = .e4m3 then (signEnc f neg f.maxEnc, ovfFlag) else encodeVal f rc false (.inf neg)
    | v => encodeVal f rc false v

/-! ### The vector unit (R43): FP32 in, the exact result rounded once to FP32 under RNE -/

/-- Round an FP32 result, with a sticky remainder below M. -/
def fp32Of (v : Val) (sticky : Bool) : Nat × AFlags :=
  match v with
  | .fin neg m e => roundMag .fp32 .rne neg m e sticky
  | v => encodeVal .fp32 .rne false v

/-- The sum of two finite or zero values, exactly. An exact zero sum is +0 unless both are negative zeros (binary32). -/
def addVal : Val → Val → Val
  | .nan, _ => .nan
  | _, .nan => .nan
  | .inf n, .inf n' => if n = n' then .inf n else .nan
  | .inf n, _ => .inf n
  | _, .inf n => .inf n
  | .zero n, .zero n' => .zero (n && n')
  | .zero _, v => v
  | v, .zero _ => v
  | .fin n m e, .fin n' m' e' =>
    let b := min e e'
    let x : Int := (m <<< (e - b).toNat : Nat)
    let y : Int := (m' <<< (e' - b).toNat : Nat)
    let t := (if n then -x else x) + (if n' then -y else y)
    if t = 0 then .zero false else .fin (decide (t < 0)) t.natAbs b

/-- The opposite value. -/
def negVal : Val → Val
  | .nan => .nan
  | .inf n => .inf (!n)
  | .zero n => .zero (!n)
  | .fin n m e => .fin (!n) m e

/-- The exact product. -/
def mulVal : Val → Val → Val
  | .nan, _ => .nan
  | _, .nan => .nan
  | .inf _, .zero _ => .nan
  | .zero _, .inf _ => .nan
  | .inf n, .inf n' => .inf (n != n')
  | .inf n, .fin n' _ _ => .inf (n != n')
  | .fin n _ _, .inf n' => .inf (n != n')
  | .zero n, .zero n' => .zero (n != n')
  | .zero n, .fin n' _ _ => .zero (n != n')
  | .fin n _ _, .zero n' => .zero (n != n')
  | .fin n m e, .fin n' m' e' => .fin (n != n') (m * m') (e + e')

/-- The quotient to 64 bits below the divisor, with the sticky bit of its remainder. A finite value over zero is an
infinity of the quotient's sign (binary32). -/
def divVal : Val → Val → Val × Bool
  | .nan, _ => (.nan, false)
  | _, .nan => (.nan, false)
  | .inf _, .inf _ => (.nan, false)
  | .inf n, .zero n' => (.inf (n != n'), false)
  | .inf n, .fin n' _ _ => (.inf (n != n'), false)
  | .zero n, .inf n' => (.zero (n != n'), false)
  | .fin n _ _, .inf n' => (.zero (n != n'), false)
  | .zero _, .zero _ => (.nan, false)
  | .zero n, .fin n' _ _ => (.zero (n != n'), false)
  | .fin n _ _, .zero n' => (.inf (n != n'), false)
  | .fin n m e, .fin n' m' e' =>
    let M := m <<< (bitLen m' + 64)
    (.fin (n != n') (M / m') (e - e' - (bitLen m' + 64 : Nat)), decide (M % m' ≠ 0))

/-- Integer square root by bisection on bits, `fuel` bits. -/
def isqrtBits : Nat → Nat → Nat → Nat
  | 0, r, _ => r
  | k + 1, r, x => let c := r + 2 ^ k; isqrtBits k (if c * c ≤ x then c else r) x

/-- ⌊√x⌋. -/
def isqrt (x : Nat) : Nat := isqrtBits (bitLen x / 2 + 1) 0 x

/-- The square root to more than 60 bits, with its sticky bit. A negative operand is invalid; −0 gives −0. -/
def sqrtVal : Val → Val × Bool
  | .nan => (.nan, false)
  | .inf n => (if n then .nan else .inf false, false)
  | .zero n => (.zero n, false)
  | .fin n m e =>
    if n then (.nan, false) else
    let odd := decide (e % 2 ≠ 0)
    let m1 := if odd then m * 2 else m
    let e1 := if odd then e - 1 else e
    let x := m1 <<< 128
    let r := isqrt x
    (.fin false r (e1 / 2 - 64), decide (r * r ≠ x))

/-- FP32 addition of the vector unit. -/
def fadd (a b : Nat) : Nat × AFlags :=
  let (x, f1) := decodeVal .fp32 a
  let (y, f2) := decodeVal .fp32 b
  let (r, f3) := fp32Of (addVal x y) false
  (r, orFlags f1 (orFlags f2 f3))

/-- FP32 subtraction. -/
def fsub (a b : Nat) : Nat × AFlags :=
  let (x, f1) := decodeVal .fp32 a
  let (y, f2) := decodeVal .fp32 b
  let (r, f3) := fp32Of (addVal x (negVal y)) false
  (r, orFlags f1 (orFlags f2 f3))

/-- FP32 multiplication. -/
def fmul (a b : Nat) : Nat × AFlags :=
  let (x, f1) := decodeVal .fp32 a
  let (y, f2) := decodeVal .fp32 b
  let (r, f3) := fp32Of (mulVal x y) false
  (r, orFlags f1 (orFlags f2 f3))

/-- FP32 division. -/
def fdiv (a b : Nat) : Nat × AFlags :=
  let (x, f1) := decodeVal .fp32 a
  let (y, f2) := decodeVal .fp32 b
  let (q, st) := divVal x y
  let (r, f3) := fp32Of q st
  (r, orFlags f1 (orFlags f2 f3))

/-- FP32 square root. -/
def fsqrt (a : Nat) : Nat × AFlags :=
  let (x, f1) := decodeVal .fp32 a
  let (q, st) := sqrtVal x
  let (r, f3) := fp32Of q st
  (r, orFlags f1 f3)

/-- FP32 comparison a < b on flushed values; false when either is NaN. -/
def flt (a b : Nat) : Bool := valLt (decodeVal .fp32 a).1 (decodeVal .fp32 b).1

/-- The larger of two FP32 values (+0 above −0); canonical NaN when either is NaN. -/
def fmax (a b : Nat) : Nat × AFlags :=
  let (x, f1) := decodeVal .fp32 a
  let (y, f2) := decodeVal .fp32 b
  if x = .nan ∨ y = .nan then (Fmt.fp32.nan, orFlags nanFlag (orFlags f1 f2))
  else let (r, f3) := fp32Of (if valLt x y then y else x) false; (r, orFlags f1 (orFlags f2 f3))

/-- Elements of a packed byte string (R34). -/
def elemsOf (f : Fmt) (b : List Byte) : List Nat :=
  (List.range (b.length / f.bytes)).map fun j => fieldAt b (j * f.bytes) f.bytes

/-- Pack elements (R34). -/
def packElems (f : Fmt) (xs : List Nat) : List Byte := xs.flatMap fun x => leBytes f.bytes x

/-- The forward and gradient pairs of R35. -/
def isPair (fwd grad : Fmt) : Bool :=
  (fwd = .e4m3 && grad = .e5m2) || (fwd = .fp16 && grad = .bf16) || (fwd = .bf16 && grad = .bf16)

end Sys2Proof.Machine
end

