-- ==== Sys2Proof/Machine/Table.lean ====
section
/-! DEFINITION. Sparse tables: a list of (key, value) pairs in one canonical form (keys strictly rising, no entry equal
to what an unlisted key reads as), so that equal contents are equal data. Memory, registers and every sparse piece of
state use it. -/
namespace Sys2Proof.Machine

/-- A sparse table keyed by numbers. -/
abbrev Tab (α : Type) := List (Nat × α)

/-- What the table holds at `k`; `d` where nothing is listed. -/
def tabGet {α : Type} (d : α) : Tab α → Nat → α
  | [], _ => d
  | (k', v) :: r, k => if k = k' then v else tabGet d r k

/-- The table without key `k`. -/
def tabDel {α : Type} (t : Tab α) (k : Nat) : Tab α := t.filter (fun e => e.1 ≠ k)

/-- Put (k, v) at its place in a table that does not list `k`. -/
def tabIns {α : Type} (k : Nat) (v : α) : Tab α → Tab α
  | [] => [(k, v)]
  | (k', v') :: r => if k < k' then (k, v) :: (k', v') :: r else (k', v') :: tabIns k v r

/-- The table with `v` at `k`: the entry is removed when `v` is what an unlisted key reads as. -/
def tabSet {α : Type} [DecidableEq α] (d : α) (t : Tab α) (k : Nat) (v : α) : Tab α :=
  if v = d then tabDel t k else tabIns k v (tabDel t k)

/-- The canonical form. -/
def tabWf {α : Type} [DecidableEq α] (d : α) : Tab α → Bool
  | [] => true
  | [(_, v)] => v ≠ d
  | (k, v) :: (k', v') :: r => v ≠ d && k < k' && tabWf d ((k', v') :: r)

/-- The value at `k` of a table of optional entries. -/
def tabFind {α : Type} : Tab α → Nat → Option α
  | [], _ => none
  | (k', v) :: r, k => if k = k' then some v else tabFind r k

/-- The table with an entry at `k`, whatever its value. -/
def tabPut {α : Type} (t : Tab α) (k : Nat) (v : α) : Tab α := tabIns k v (tabDel t k)

/-- The table with `f` applied to the entry at `k`, if there is one. -/
def tabMod {α : Type} (t : Tab α) (k : Nat) (f : α → α) : Tab α :=
  t.map (fun e => if e.1 = k then (e.1, f e.2) else e)

/-- The keys are strictly rising. -/
def tabSorted {α : Type} : Tab α → Bool
  | [] => true
  | [_] => true
  | (k, _) :: (k', v') :: r => k < k' && tabSorted ((k', v') :: r)

/-- Consecutive values from key `k`, `n` of them. -/
def tabRange {α : Type} (d : α) (t : Tab α) (k : Nat) : Nat → List α
  | 0 => []
  | n + 1 => tabGet d t k :: tabRange d t (k + 1) n

/-- Store a list of values at consecutive keys from `k`. -/
def tabFill {α : Type} [DecidableEq α] (d : α) (t : Tab α) (k : Nat) : List α → Tab α
  | [] => t
  | v :: r => tabFill d (tabSet d t k v) (k + 1) r

end Sys2Proof.Machine
end

