-- ==== Sys2Proof/Machine/Parts/Net.lean ====
section
/-! DEFINITION. State of the command endpoint, of the links, of packet delivery, routing, the switch core and the
schedulers (chapters 07 to 12 and 14). -/
namespace Sys2Proof.Machine

/-- A command that has been accepted, as its final reply needs it: who asked, under which tag, which opcode (R357). -/
structure CmdRef where
  src : Nat
  tag : Nat
  op  : Nat
  cls : Nat
  deriving DecidableEq, Repr

/-- A CMD in a queue of R355; `no` is its place in the order of acceptance (R357). -/
structure QCmd where
  ref     : CmdRef
  resv    : Nat
  len     : Nat
  payload : List Byte
  no      : Nat
  deriving DecidableEq, Repr

/-- Firmware switch-over in progress (R369): the slot, the step reached and when it began. -/
structure FwSwitch where
  slot  : Nat
  step  : Nat
  since : Nat
  cmd   : CmdRef
  deriving DecidableEq, Repr

/-- The Foreman (chapter 14). -/
structure ForePart where
  queues        : Tab (List QCmd) := []
  busy          : Tab CmdRef := []
  outstanding   : List CmdRef := []
  lastHeartbeat : Nat := 0
  activeAlive   : Bool := false
  switch        : Option FwSwitch := none
  gateEpoch     : Tab Nat := []
  bringUpAt     : Nat := 0
  accepted      : Nat := 0
  deriving DecidableEq, Repr

/-- The I²C sideband target (R371 to R374). -/
structure SidebandPart where
  snapshot : List Byte := []
  snapAt   : Nat := 0
  deriving DecidableEq, Repr

/-- The JTAG port (R375): the instruction shifted in and the boundary register. -/
structure JtagPart where
  instr     : Nat := 0
  boundary  : Nat := 0
  deriving DecidableEq, Repr

/-- Live swap of a lane (R224, R225). -/
structure SwapJob where
  lane    : Nat
  marker  : Nat
  acked   : Bool
  attempt : Nat
  cmd     : Option CmdRef
  deriving DecidableEq, Repr

/-- One link, beside its registers (chapter 08): among them whether an edge of CK has been seen (R217), whether the packet now
arriving is cut at a swap's marker (R225), the running disparity of the nine receive positions (R207: bit k set is positive), when
the columns began that number the markers (R210), the swap threshold and the equalization entries in force (R206, R215, R224) and
the code violations of the last second. -/
structure LinkPart where
  step       : Nat := 0
  stepAt     : Nat := 0
  fails      : Nat := 0
  restartAt  : Option Nat := none
  obs        : Option TrainObs := none
  txTs2      : Bool := false
  ceilUse    : Bool := false
  clearSwap  : Bool := false
  identSeen  : Bool := false
  peerSeen   : Bool := false
  checksDone : Bool := false
  identSent  : Nat := 0
  markerAt   : Nat := 0
  rxSwapJob  : Option SwapJob := none
  txSwapJob  : Option SwapJob := none
  ckSeen     : Bool := false
  cutNext    : Bool := false
  rxRd       : Nat := 0
  txCols     : Bool := false
  txMarkerAt : Nat := 0
  cvThresh   : Nat := 0
  cvLog      : List (Nat × Nat × Nat) := []
  eqUse      : List Nat := []
  frameNo    : Nat := 0
  sofAt      : Nat := 0
  closing    : Bool := false
  expectCnt  : Nat := 0
  pendingCnt : Option Nat := none
  retrainCmd : Option CmdRef := none
  openCmd    : Option CmdRef := none
  creditRx   : Nat := 0
  creditSeen : Nat := 0
  creditGrow : Nat := 0
  giveUpAt   : Option Nat := none
  spoofCnt   : Nat := 0
  deriving DecidableEq, Repr

/-- Credit of one VC of one link (R270, R302): the configured allowance, the allowance A in force, the receiver's count C,
the sender's sent count S, the count granted by the far end, the withheld count X, the count last sent in a
CREDIT block, and when. -/
structure VcPart where
  allowCfg : Nat
  allow    : Nat
  c        : Nat
  sent     : Nat
  far      : Nat
  x        : Nat
  lastC    : Nat
  lastAt   : Nat
  farA     : Nat := 0
  deriving DecidableEq, Repr

/-- A packet held by a resequencer (R246), with its Tundish hold. -/
structure HeldPkt where
  pkt  : Packet
  hold : Nat
  at'  : Nat
  deriving DecidableEq, Repr

/-- A stream context (R246, R249): its stream, the next sequence number N, the highest ACKed number A, the held packets,
when it last received something, whether the packet numbered N stands in the queue of an internal port (R240), and the packets
delivered to an endpoint that it has not ACKed, each as sequence, Heat and class, which its answer takes (R241, R242). -/
structure Ctx where
  src    : Nat
  stream : Nat
  dst    : Nat
  n      : Nat
  a      : Nat
  held   : List HeldPkt
  last   : Nat
  handed : Bool
  sent   : List (Nat × Nat × Nat) := []
  deriving DecidableEq, Repr

/-- Why a port sent a packet; what happens when it is acknowledged or given up depends on it. -/
inductive Purpose where
  | plain
  | reply (tag op : Nat)
  | result (heat pourId chunk : Nat)
  | request (id : Nat)
  | getReply (id : Nat)
  deriving DecidableEq, Repr

/-- A packet kept until it is answered (R244): when last sent, how often re-sent, and the destinations awaited (more than
one for a multicast packet, R245). -/
structure SentPkt where
  pkt      : Packet
  at'      : Nat
  tries    : Nat
  awaiting : List Nat
  why      : Purpose
  again    : Bool := false
  deriving DecidableEq, Repr

/-- A stream that an internal port of this device sends on (R247, R248); a reopened stream may be used from `openAt`, and
the first `resent` packets that wait have been sent before. -/
structure OutStream where
  src     : Nat
  dst     : Nat
  stream  : Nat
  next    : Nat
  opened  : Bool
  unacked : List SentPkt
  waiting : List (Packet × List Nat × Purpose)
  last    : Nat
  openAt  : Nat := 0
  resent  : Nat := 0
  deriving DecidableEq, Repr

/-- A request kept by this device as entry device (R252). -/
structure EntryCopy where
  pkt   : Packet
  home  : Nat
  at'   : Nat
  tries : Nat
  sent  : Bool
  full  : Bool := false
  deriving DecidableEq, Repr

/-- A request this device performed as home for an entry device (R252 step 5); `done` once every copy has it and FWD_DONE is sent. -/
structure FwdHome where
  src    : Nat
  stream : Nat
  seq    : Nat
  entry  : Nat
  at'    : Nat
  done   : Bool := true
  deriving DecidableEq, Repr

/-- What has left on a link's transmitter: the running disparity of its nine contacts (R207: bit k set is positive) and the columns sent
since the training sets ended, which number its markers (R210). -/
structure LineOut where
  rd  : Nat := 0
  col : Nat := 0
  deriving DecidableEq, Repr

/-- Delivery end to end (chapter 09). `fwdDone` remembers the forwarded requests that FWD_DONE reported
performed (source, stream, sequence, home), `fwdGone` those it reported NAKed. -/
structure NetPart where
  lines   : Tab LineOut := []
  ctxs    : Tab Ctx := []
  streams : List OutStream := []
  entry   : List EntryCopy := []
  fwdHome : List FwdHome := []
  fwdDone : List (Nat × Nat × Nat × Nat) := []
  fwdGone : List (Nat × Nat × Nat) := []
  cache   : List Nat := []
  deriving DecidableEq, Repr

/-- The route tables of R261. -/
structure RouteTables where
  linkUp   : Nat := 0
  members  : Tab Nat := []
  intra    : Tab Nat := []
  weights  : Tab Nat := []
  globals  : Tab Nat := []
  deriving DecidableEq, Repr

/-- A route change in progress (R275, R277): the link, whether it is being added, the devices whose acknowledgement is
awaited, the step, when the step began, and what asked for it. -/
structure RouteChange where
  link     : Nat
  add      : Bool
  awaiting : List Nat
  step     : Nat
  since    : Nat
  cmd      : Option CmdRef
  powerOff : Bool
  deriving DecidableEq, Repr

/-- A multicast tree entry (R282). -/
structure TreeEnt where
  root   : Nat
  tree   : Nat
  heat   : Nat
  out    : Nat
  leaf   : Nat
  leaf58 : Bool
  gen    : Nat
  deriving DecidableEq, Repr

/-- A tree being built by this device as root (R283). -/
structure TreeBuild where
  tree     : Nat
  awaiting : List Nat
  failed   : Bool
  since    : Nat
  deriving DecidableEq, Repr

/-- Routing (chapter 10). -/
structure RoutePart where
  active   : RouteTables := {}
  shadow   : RouteTables := {}
  pinned   : Tab Nat := []
  startUp  : Bool := true
  fence    : List Nat := []
  fenceDev : List Nat := []
  probes   : List (Nat × Nat × Nat) := []
  reports  : List (Nat × Nat) := []
  reserved : Tab Nat := []
  trees    : Tab TreeEnt := []
  treeUse  : Tab Nat := []
  treeSets : List (Nat × List Nat) := []
  builds   : List TreeBuild := []
  treeCache : List Nat := []
  changes  : List RouteChange := []
  rotate   : Nat := 0
  deriving DecidableEq, Repr

/-- A packet whose cells stand in a Tundish half (R292, R303): their pointers, the copies still to leave, and the input
link and VC whose credit they hold. -/
structure Hold where
  die    : Nat
  ptrs   : List Nat
  refs   : Nat
  inLink : Option Nat
  inVc   : Nat
  deriving DecidableEq, Repr

/-- A packet in an output queue. -/
structure QEnt where
  pkt    : Packet
  cells  : Nat
  hold   : Nat
  at'    : Nat
  headAt : Nat
  sample : Option Nat
  bound  : Bool
  noFit  : Bool
  deriving DecidableEq, Repr

/-- An output queue (R298) with its scheduler entry (R312). -/
structure OutQueue where
  port   : Nat
  vc     : Nat
  dflt   : Bool
  pend   : Bool
  heat   : Nat
  ents   : List QEnt
  tag    : Nat
  weight : Nat
  deriving DecidableEq, Repr

/-- Swap of a Tundish bank for the Riser bank (R305). -/
structure BankSwap where
  bank  : Nat
  since : Nat
  cmd   : Option CmdRef
  deriving DecidableEq, Repr

/-- A Tundish half (R292 to R296, R305). Runs of group pointers are (first, count); corrected errors (bank, time, count). -/
structure TundishHalf where
  cache    : List (Nat × Nat) := [(0, 32768)]
  ring     : List (Nat × Nat) := [(32768, 163840)]
  groupUse : Tab Nat := []
  cur      : Tab (Nat × Nat) := []
  used     : Nat := 0
  swap     : Option BankSwap := none
  mapped   : List Nat := []
  norLog   : Option Nat := none
  rebuilt  : Bool := false
  bankErrs : List (Nat × Nat × Nat) := []
  bankBad  : List Nat := []
  xferCells : Nat := 0
  deriving DecidableEq, Repr

/-- The switch core (chapter 11). -/
structure SwitchPart where
  queues   : Tab OutQueue := []
  holds    : Tab Hold := []
  nextHold : Nat := 1
  x0       : TundishHalf := {}
  x1       : TundishHalf := {}
  credits  : Tab VcPart := []
  wakeAt   : Tab Nat := []
  deriving DecidableEq, Repr

/-- A schedule change that waits for its boundary (R316). -/
structure FlipJob where
  at'   : Nat
  off   : Bool
  count : Nat
  cycle : Nat
  idle  : Nat
  guard : Nat
  cmd   : CmdRef
  deriving DecidableEq, Repr

/-- A policer (R325): rate, burst, tokens, when its first drop of the running second was logged. -/
structure Policer where
  r      : Nat
  b      : Nat
  tokens : Nat
  logAt  : Option Nat
  deriving DecidableEq, Repr

/-- A port's scheduler, beside its registers (chapter 12). Stream policers are keyed stream × 8 + class. -/
structure SchedPart where
  v        : Nat := 0
  table0   : Tab Nat := []
  table1   : Tab Nat := []
  flip     : Option FlipJob := none
  openWin  : Option Nat := none
  halted   : Bool := false
  streams  : Tab Policer := []
  classes  : Tab Policer := []
  refillAt : Nat := 0
  deriving DecidableEq, Repr

/-- A sampled queue (R322): 16 depth counts, 16 delay counts, the largest delay, packets counted. -/
structure Sample where
  depth  : List Nat := List.replicate 16 0
  delay  : List Nat := List.replicate 16 0
  worst  : Nat := 0
  count  : Nat := 0
  deriving DecidableEq, Repr

/-- A bound Heat (R199). -/
structure Bind where
  heat : Nat
  f    : Nat
  c    : Nat
  mask : Nat
  deriving DecidableEq, Repr

/-- Coordinates and the slice table (chapter 07). -/
structure CoordPart where
  member    : Nat := 0
  group     : Option Nat := none
  pendGroup : Option Nat := none
  count     : Option Nat := none
  pendCount : Option Nat := none
  lastCount : Option Nat := none
  binds     : List Bind := []
  unbound   : List (Nat × Nat) := []
  seen      : Nat := 0
  deriving DecidableEq, Repr

end Sys2Proof.Machine
end

