-- ==== Sys2Proof/Machine/Parts/Compute.lean ====
section
/-! DEFINITION. State of the memory space, of Pours, layers, the update engine and the audit records (chapters 03 to 06
and 13). -/
namespace Sys2Proof.Machine

/-- A Pattern Book entry (R157). States: 0 FREE, 1 VALID, 2 LOST, 3 MOVING. The hot counters live in the home map. -/
structure PageEnt where
  state    : Nat := 0
  cls      : Nat := 0
  rw       : Bool := false
  mig      : Bool := false
  degraded : Bool := false
  home     : Nat := 0
  mirror   : Nat := 0xFFF
  frame    : Nat := 0
  hotCnt   : Nat := 0
  hotDev   : Nat := 0
  gen      : Nat := 0
  owner    : Nat := 0
  deriving DecidableEq, Repr

/-- What a frame of this device is used for: `metadata` is a Riser frame that a metadata region was rebuilt in (R181). Unlisted
frames are free. -/
inductive FrameUse where
  | home (page : Nat)
  | mirror (page : Nat)
  | stub (page device until' : Nat)
  | spill
  | segment (seg : Nat)
  | reserved (page : Nat)
  | zeroing
  | retired
  | metadata
  deriving DecidableEq, Repr

/-- A home-map record (R151): use, generation, owner, access, hot counters and the accesses counted for their sampling
(R174). -/
structure FrameRec where
  use    : FrameUse
  cls    : Nat := 0
  peer   : Nat := 0xFFF
  degraded : Bool := false
  gen    : Nat := 0
  owner  : Nat := 0
  rw     : Bool := false
  mig    : Bool := false
  hotCnt : Nat := 0
  hotDev : Nat := 0
  served : Nat := 0
  remapAt : Nat := 0
  deriving DecidableEq, Repr

/-- Why a page moves: migration (R175), retirement of its frame (R176), a new mirror (R178). -/
inductive MoveKind where
  | migrate
  | retire
  | resync
  deriving DecidableEq, Repr

/-- A page move in progress. `frozen` from step 4 on. -/
structure Move where
  page   : Nat
  kind   : MoveKind
  target : Nat
  old    : Nat
  new    : Nat
  frozen : Bool
  since  : Nat
  cmd    : Option CmdRef
  deriving DecidableEq, Repr

/-- An invalidation whose acknowledgements are awaited (R160, R175 steps 6 to 8). -/
structure Inval where
  page     : Nat
  gen      : Nat
  awaiting : List Nat
  stub     : Option (Nat × Nat)
  cmd      : Option CmdRef
  deriving DecidableEq, Repr

/-- An ALLOC_PAGES that waits for its frames to be zeroed (R172). -/
structure AllocJob where
  heat : Nat
  cls  : Nat
  count : Nat
  rw   : Bool
  mig  : Bool
  homes : List Nat
  first : Nat
  stripe : Nat
  mstep : Nat
  cmd  : CmdRef
  deriving DecidableEq, Repr

/-- A FREE_PAGES or MEM_HEAT_FREE that asks the slice for records (R173). -/
structure FreeJob where
  pages    : List Nat
  heat     : Nat
  awaiting : List Nat
  whole    : Bool
  cmd      : CmdRef
  deriving DecidableEq, Repr

/-- The memory Shop, the Pattern Book, the page cache and the HBM (chapter 06). HBM bytes are keyed frame × 2^21 + offset.
`promoted` lists the Riser frames that stand in for retired software frames (R151), `turn` the stack whose frame is taken next
(R171), `remapAt` one more than the time of each page's last remap in a book served here (R160); `rejoining` stands from the WARM
reset by which a fenced device rejoins to its end (R180). -/
structure MemPart where
  hbm        : Tab Byte := []
  frames     : Tab FrameRec := []
  book       : Tab PageEnt := []
  partner    : Tab PageEnt := []
  cache      : Tab PageEnt := []
  walks      : List (Nat × List Packet) := []
  walkHeld   : List (Nat × Nat) := []
  held       : List (Nat × List Packet) := []
  moves      : List Move := []
  invals     : List Inval := []
  mirrorWait : List (Packet × List Byte) := []
  allocs     : List AllocJob := []
  frees      : List FreeJob := []
  bootZeroAt : Option Nat := none
  bootZeroed : List Nat := []
  retired    : List Nat := []
  lostStacks : Nat := 0
  deniedLog  : Tab Nat := []
  promoted   : List Nat := []
  turn       : Nat := 0
  remapAt    : Tab Nat := []
  rejoining  : Bool := false
  deriving DecidableEq, Repr

/-- A member, destination or home set (R61, R92). -/
structure MSet where
  count   : Nat
  entries : Tab Nat
  closed  : Bool
  kind    : Nat
  deriving DecidableEq, Repr

/-- A chunk on its owner (R72, R73, R77, R470). States: 0 EMPTY, 1 FILLING, 2 COMPLETE, 3 ROUNDED, 4 RELEASED, 5 DELIVERED.
`slots` are taken from the
Bay's pool, `spill` from the spill reserve; `acc` lists accepted member × 256 + packet; `raw` the payloads kept by data moves and under pattern 1; `rows` the Ingots
of ROW_SCATTER_ADD rows; `lasts` the LAST-flagged packet of each member there. -/
structure Chunk where
  st      : Nat := 0
  bay     : Nat := 0
  flask   : Nat := 0
  slots   : Nat := 0
  spill   : Nat := 0
  acc     : List Nat := []
  lasts   : List (Nat × Nat) := []
  ingots  : List Ingot := []
  exts    : List Extreme := []
  raw     : List (Nat × List Byte) := []
  rows    : List (Nat × List Ingot) := []
  res     : List Byte := []
  rowRes  : List (Nat × List Nat) := []
  ovf     : Bool := false
  unacked : Nat := 0
  deriving DecidableEq, Repr

/-- A Pour on this device (R64, R77 to R85). `state` is the code of POUR_QUERY; on a home device other than the lead it is
the last state the lead notified. `rowWait` counts the rows that each other block home has not confirmed (R147). -/
structure Pour where
  heat    : Nat
  pourId  : Nat
  desc    : List Byte
  lead    : Bool
  leadDev : Nat
  step    : Nat
  p1      : Bool := false
  state   : Nat := 0
  status  : Nat := 0
  cause   : Nat := 0
  endp    : Nat := 0
  cmd     : Option CmdRef := none
  regAt   : Nat := 0
  openAt  : Option Nat := none
  abortAt : Option Nat := none
  endAt   : Option Nat := none
  regWait : List Nat := []
  tree    : Option Nat := none
  roundWait : List Nat := []
  delivWait : List Nat := []
  abortWait : List Nat := []
  rounded : Nat := 0
  sentRound : Bool := false
  ackSent : Bool := false
  committed : Bool := false
  flags   : AFlags := {}
  spilled : Bool := false
  chunks  : Tab Chunk := []
  memMap  : List Nat := []
  destMap : List Nat := []
  queries : List (Nat × List Nat) := []
  rowRecs : List (Nat × Nat) := []
  contributed : Bool := false
  marksSent : Bool := false
  counts  : List Nat := []
  writes  : List (Nat × List Byte) := []
  rowWait : List (Nat × Nat) := []
  deriving DecidableEq, Repr

/-- The pour Shop (chapter 03). Sets are keyed by index; `refused` are the pairs this device rejected at REGISTER, with their
leads. -/
structure PourPart where
  pours  : List Pour := []
  refused : List (Nat × Nat × Nat) := []
  sets   : Tab MSet := []
  spill  : Nat := 0
  spillAsk : Nat := 0
  deriving DecidableEq, Repr

/-- States of a segment (R128). -/
inductive SegState where
  | defining
  | closed
  | placing
  | placed
  | removing
  deriving DecidableEq, Repr

/-- A run (R121). -/
structure Run where
  cmd      : CmdRef
  heat     : Nat
  pass     : Nat
  tag      : Nat
  fwd      : Nat
  rows     : Nat
  first    : Nat
  last     : Nat
  deadline : Nat
  pairs    : List (Nat × Nat)
  step     : Nat
  deriving DecidableEq, Repr

/-- The run a segment executes: its next descriptor, start time, flags, saved tensors written and the masks read at its start. -/
structure RunState where
  run      : Run
  next     : Nat
  startAt  : Nat
  flags    : AFlags
  reloaded : Bool
  work     : Tab (List Nat)
  masks    : Tab (List Byte) := []
  aborted  : Bool
  missed   : Bool := false
  deriving DecidableEq, Repr

/-- A segment (R94 to R98, R117, R118, R124, R125). Tensors and descriptors are the bytes written; tensor contents are element
encodings. `work` are the working tensors; `dwMask` the weight gradients computed under a mask, with the descriptor and the mask;
`pages` the segment's frames in the order of its tensors, `lost` those of them whose contents are lost. -/
structure Seg where
  state    : SegState
  heat     : Nat
  nDesc    : Nat
  nTens    : Nat
  tens     : Tab (List Byte) := []
  descs    : Tab (List Byte) := []
  digest   : List Byte := []
  bays     : List Nat := []
  want     : Nat := 0
  maxRows  : Nat := 0
  placeCmd : Option CmdRef := none
  placeAt  : Nat := 0
  sram     : Nat := 0
  weights  : Tab (List Nat) := []
  shadow   : Tab (List (Nat × List Byte)) := []
  fresh    : List Nat := []
  ready    : Tab (List Nat) := []
  saved    : Tab (List Nat) := []
  savedTag : Option Nat := none
  savedGfa : Tab Nat := []
  work     : Tab (List Nat) := []
  dwMask   : Tab (Nat × List Byte) := []
  pages    : List Nat := []
  lost     : List Nat := []
  queue    : List Run := []
  running  : Option RunState := none
  lastRec  : List Byte := []
  placeErr : Nat := 0
  deriving DecidableEq, Repr

/-- A Bay: held by a segment of the layer Shop, in transfer toward one, or (default) held by the pour Shop (R16, R20). -/
structure BayPart where
  seg      : Option Nat := none
  transfer : Option (Bool × Nat × Nat) := none
  deriving DecidableEq, Repr

/-- The layer Shop (chapter 04). -/
structure LayerPart where
  segs : Tab Seg := []
  bays : Tab BayPart := []
  deriving DecidableEq, Repr

/-- A mask region (R133). -/
structure MaskRegion where
  region : Nat
  o      : Nat
  k      : Nat
  n      : Nat
  kind   : Nat
  bitmap : List Byte
  deriving DecidableEq, Repr

/-- A dense update state (R131 to R139). `prevT` and `canRevert` serve UPD_STATE_REVERT. -/
structure UpdState where
  heat      : Nat
  base      : Nat
  elems     : Nat
  kind      : Nat
  slot      : Nat
  t         : Nat
  prevT     : Nat := 0
  canRevert : Bool := false
  masks     : List MaskRegion := []
  lastPour  : Nat := 0
  deriving DecidableEq, Repr

/-- An embedding table (R141). -/
structure EmbTable where
  heat     : Nat
  base     : Nat
  rows     : Nat
  dim      : Nat
  fmt      : Nat
  kind     : Nat
  buckets  : Nat
  setIndex : Nat
  lastPour : Nat := 0
  deriving DecidableEq, Repr

/-- The update engine (chapter 05). -/
structure UpdPart where
  rules  : Tab (List Byte) := []
  states : List UpdState := []
  tables : List EmbTable := []
  deriving DecidableEq, Repr

/-- An accumulator of leaves (R335): a 512-bit sum and a 64-bit count. -/
structure Accum where
  sum   : Nat := 0
  count : Nat := 0
  deriving DecidableEq, Repr

/-- An open Ihlil context (R335 to R340). -/
structure DetCtx where
  heat    : Nat
  record  : Nat
  scope   : Nat
  openAt  : Nat
  prog    : Accum := {}
  weights : Accum := {}
  inputs  : Accum := {}
  result  : Accum := {}
  steps   : Option (Nat × Nat) := none
  placed  : Bool := false
  pats    : Nat := 0
  flags   : Nat := 0
  resend  : Nat := 0
  spill   : Nat := 0
  miss    : Nat := 0
  ecc     : Nat := 0
  clk     : List Byte := []
  prof    : List Byte := []
  place   : List Byte := []
  deriving DecidableEq, Repr

/-- A slice close in progress (R342): the devices awaited and the context parts received. -/
structure CloseJob where
  heat     : Nat
  sign     : Bool
  awaiting : List Nat
  got      : List (Nat × List Byte)
  since    : Nat
  cmd      : CmdRef
  deriving DecidableEq, Repr

/-- A DET_DIGEST_RANGE in progress. -/
structure DigestJob where
  heat : Nat
  kind : Nat
  gfa  : Nat
  len  : Nat
  cmd  : CmdRef
  deriving DecidableEq, Repr

/-- A SAVE_HEAT in progress (R345): waiting, or writing its image. -/
structure SaveJob where
  heat    : Nat
  endp    : Nat
  offset  : Nat
  limit   : Nat
  cont    : Bool
  since   : Nat
  writing : Bool
  image   : List Byte
  cmd     : CmdRef
  deriving DecidableEq, Repr

/-- A RESUME_HEAT in progress (R347): the image bytes received by offset, then the segments being placed. -/
structure ResumeJob where
  endp    : Nat
  offset  : Nat
  len     : Nat
  digest  : List Byte
  image   : Tab (List Byte)
  heat    : Nat
  placing : Option (List Nat)
  cmd     : CmdRef
  deriving DecidableEq, Repr

/-- Determinism and audit (chapter 13). Steps, record numbers and held records are keyed by Heat. -/
structure DetPart where
  ctxs    : List DetCtx := []
  steps   : Tab Nat := []
  records : Tab Nat := []
  held    : Tab (List Byte) := []
  paused  : List Nat := []
  closes  : List CloseJob := []
  digests : List DigestJob := []
  saves   : List SaveJob := []
  resumes : List ResumeJob := []
  hashed  : Nat := 0
  deriving DecidableEq, Repr

end Sys2Proof.Machine
end

