-- ==== Sys2Proof/Machine/Parts/Mgmt.lean ====
section
/-! DEFINITION. State of time, pins, clocks, power, reliability, security and the Assay island (chapters 15 to 19). -/
namespace Sys2Proof.Machine

/-- An armed TIME_SET (R382). -/
structure TimeSet where
  link  : Nat
  frame : Nat
  time  : Nat
  cmd   : CmdRef
  deriving DecidableEq, Repr

/-- Time: elapsed nanoseconds of the model (no step of the time base enters it), the 48-bit time base, what it has beyond
whole nanoseconds in units of 0.0000001 ns, and its wrap count (R380), the TIME_LO latch, the last start-of-frame numbers received, and the trim (R381). -/
structure TimePart where
  now       : Nat := 0
  base      : Nat := 0
  frac      : Nat := 0
  wrap      : Nat := 0
  latchHi   : Nat := 0
  latchWrap : Nat := 0
  latched   : Bool := false
  frames    : Tab Nat := []
  armed     : Option TimeSet := none
  absentAt  : Option Nat := none
  presentAt : Option Nat := none
  lastTrim  : Nat := 0
  deriving DecidableEq, Repr

/-- What the contacts carry (chapter 19): inputs as driven, outputs as the device drives them; `straps` are the levels of the
strap contacts, the other strap fields what was sampled from them (R462). -/
structure PinPart where
  p12sb     : Bool := true
  resetN    : Bool := false
  refclk    : Bool := false
  coolFailN : Bool := true
  alertN    : Bool := true
  faultN    : Bool := true
  pattern   : Nat := 2
  i2cAddr   : Nat := 0
  bootSel   : Nat := 0
  straps    : Straps := { member := 0, patternRev := 0, bootSel := 0 }
  deriving DecidableEq, Repr

/-- What the module is doing (R372 byte 0, R399). -/
inductive PowerState where
  | standbyOnly
  | inReset
  | running
  | warm
  deriving DecidableEq, Repr

/-- A WARM reset in progress (R400): its cause (R420: 0 command, 1 REFCLK, 2 ACLK), when it began, and who asked. -/
structure WarmJob where
  cause : Nat
  since : Nat
  cmd   : Option CmdRef
  deriving DecidableEq, Repr

/-- A domain reset in progress (R402): kind, index, when it began, whether it still waits, and who asked. -/
structure DomainJob where
  kind    : Nat
  index   : Nat
  since   : Nat
  waiting : Bool
  cmd     : CmdRef
  deriving DecidableEq, Repr

/-- A live ACLK swap (R385): the source it moves to, and who asked. -/
structure AclkSwap where
  source : Nat
  since  : Nat
  cmd    : Option CmdRef
  deriving DecidableEq, Repr

/-- Power and clocks (chapter 15). `warnAt`, `throttleAt`: when the brownout warning and the throttle began. `wakeWait`:
Bays whose wake waits for dispatch to resume (R395). `needMain`: the next bring-up is a main power-on, not a COLD reset (R399). `awaitReset`: neither has come since a
shutdown (R397). -/
structure PowerPart where
  state      : PowerState := .standbyOnly
  standbyAt  : Nat := 0
  p48Good    : Bool := false
  settled    : Bool := false
  shutdown   : Bool := false
  resetLevel : Bool := false
  warnAt     : Option Nat := none
  minMv      : Nat := 0
  throttleAt : Option Nat := none
  coolFail   : Option Nat := none
  sensors    : Tab Nat := []
  refLossAt  : Option Nat := none
  refHeld    : Bool := false
  warm       : Option WarmJob := none
  domains    : List DomainJob := []
  profile    : List Byte := [10, 0, 100, 0, 10, 0, 3, 0, 0, 0, 0, 0, 0, 0, 0, 0]
  halfBanked : Nat := 3
  aclkSwap   : Option AclkSwap := none
  obsCur     : Nat := 0
  obsNext    : Option Nat := none
  bayWake    : Tab Nat := []
  bayIdle    : Tab Nat := []
  cpllWait   : List Nat := []
  wakeWait   : List Nat := []
  needMain   : Bool := true
  awaitReset : Bool := false
  deriving DecidableEq, Repr

/-- One entry of the Shakeout record with its sequence number and severity (R416, R417). -/
structure ShEntry where
  seq  : Nat
  time : Nat
  sclk : Nat
  code : Nat
  blk  : Nat
  inst : Nat
  args : List Byte
  sev  : Nat
  deriving DecidableEq, Repr

/-- A fault-notice subscriber (R422). -/
structure Subscriber where
  endpoint : Nat
  cls      : Nat
  sev      : Nat
  secAt    : Nat
  sent     : Nat
  deriving DecidableEq, Repr

/-- A Riser Flask swap accepted and not yet done, or lapsed (R411): the Flask as 100 × Bay + Flask, the Riser Flask chosen,
when it was accepted or lapsed, and who asked. -/
structure Proposal where
  unit  : Nat
  riser : Nat
  since : Nat
  cmd   : Option CmdRef
  deriving DecidableEq, Repr

/-- A Riser Flask (R425): the logical Flask it serves (0x7F none) and whether it failed. -/
structure RiserFlask where
  logical : Nat := 0x7F
  failed  : Bool := false
  deriving DecidableEq, Repr

/-- Reliability (chapter 16). Riser Flasks are keyed Bay × 4 + k; margins Bay × 104 + position; corrected errors are
(unit, time, count), uncorrectable HBM lines (time, stack, channel). -/
structure RelPart where
  entries   : List ShEntry := []
  writer    : List ShEntry := []
  subs      : List Subscriber := []
  history   : List (List Byte) := []
  risers    : Tab RiserFlask := []
  degraded  : List Nat := []
  margins   : Tab Nat := []
  flaskErrs : List (Nat × Nat × Nat) := []
  frameErrs : List (Nat × Nat × Nat) := []
  frameBad  : List Nat := []
  badLines  : List (Nat × Nat × Nat) := []
  proposals : List Proposal := []
  lapsed    : List Proposal := []
  mappedRec : List (Nat × Nat) := []
  pllRec    : Nat := 1
  scrubPos  : Nat := 0
  deriving DecidableEq, Repr

/-- What a firmware slot holds (R430): nothing, the image Plynvik shipped, or bytes written since. -/
inductive SlotContent where
  | empty
  | factory (version secVersion : Nat)
  | bytes (b : Tab Byte) (len : Nat)
  deriving DecidableEq, Repr

/-- A firmware slot and whether it passed R431 since it was last written. -/
structure Slot where
  content  : SlotContent := .empty
  verified : Bool := false
  deriving DecidableEq, Repr

/-- What a signature is for, and what its requester is told when it is made (R435). -/
inductive SignFor where
  | attest (cmd : CmdRef) (nonce body : List Byte)
  | shakeout (cmd : CmdRef) (body : List Byte)
  | record (cmd : CmdRef) (body : List Byte)
  deriving DecidableEq, Repr

/-- A rollback commit in progress (R437). -/
structure Rollback where
  target : Nat
  from'  : Nat
  cmd    : CmdRef
  deriving DecidableEq, Repr

/-- Security (chapter 17). `dirA` and `dirB` are the two copies of the boot directory (R433): where a copy is valid, the slot it names
and its sequence number. -/
structure SecPart where
  slotA    : Slot := { content := .factory 1 0, verified := false }
  slotB    : Slot := {}
  dirA     : Option (Nat × Nat) := none
  dirB     : Option (Nat × Nat) := none
  fuses    : Nat := 0
  signQ    : List SignFor := []
  rollback : Option Rollback := none
  deriving DecidableEq, Repr

/-- One measuring channel of the Assay island (R442, R448): energies in mWh, the signed residue in pW·samples, parameters. -/
structure AssayChan where
  residue   : Int := 0
  delivered : Nat := 0
  returned  : Nat := 0
  power     : Int := 0
  milliV    : Nat := 0
  ovr       : Bool := false
  ovrLast   : Bool := false
  enable    : Nat := 0
  divider   : Nat := 64000
  shunt     : Nat := 100000
  gain      : Int := 0
  offset    : Int := 0
  label     : Nat := 0x2020202020202020
  deriving DecidableEq, Repr

/-- What the island holds in non-volatile memory (R445). -/
structure AssayNv where
  chans   : Tab AssayChan := []
  event   : Nat := 0
  trail   : List (List Byte) := []
  outage  : Nat := 0
  seconds : Nat := 0
  deriving DecidableEq, Repr

/-- The Assay island (chapter 18) and the receiver on X0 (R455). -/
structure AssayPart where
  live      : AssayNv := {}
  committed : AssayNv := {}
  vddGood   : Bool := false
  straps    : Nat := 0
  sealOpen  : Bool := false
  status    : Nat := 0
  frameSeq  : Nat := 0
  signing   : Option (Nat × List Byte) := none
  reading   : List Byte := []
  signTimes : List Nat := []
  secAt     : Nat := 0
  rx        : Option (List Byte) := none
  rxAt      : Nat := 0
  attrib    : Tab (Nat × Nat) := []
  weights   : Tab Nat := []
  deriving DecidableEq, Repr

end Sys2Proof.Machine
end

