-- ==== Sys2Proof/Machine/RegMap.lean ====
section
/-! DEFINITION. The CSR map (R363, R364): every field of every register table of the manual, with its place, its access
code (R7), its width and its reset value. `Fld` names the fields; one field of one instance (a link, a port, a stack …)
is a key of the state's register table. -/
namespace Sys2Proof.Machine

/-- The register fields, in the order of the manual's CSR blocks. -/
inductive Fld where
  | foreActiveCore -- R367
  | foreStandbyReady -- R367
  | foreActiveSlot -- R367
  | foreSwitching -- R367
  | foreOutstanding -- R367
  | foreCmdCnt -- R367
  | foreCmdRejectCnt -- R367
  | foreCmdDeniedCnt -- R367
  | foreQueueFullCnt -- R367
  | foreReplyGiveupCnt -- R367
  | foreTakeoverCnt -- R367
  | foreSwitchCnt -- R367
  | lkState -- R229
  | lkRate -- R229
  | lkP1 -- R229
  | lkEqDefault -- R229
  | lkLevel -- R229
  | lkCause -- R229
  | lkRxSwap -- R229
  | lkTxSwap -- R229
  | lkReversed -- R229
  | lkPolInv -- R229
  | lkMaxSkew -- R229
  | lkSpDown -- R229
  | lkRateSel -- R229
  | lkCeil1 -- R229
  | lkEnable -- R229
  | lkCvThresh -- R229
  | lkCbErrCnt -- R229
  | lkAbortRxCnt -- R229
  | lkTrainCnt -- R229
  | lkTrainFailCnt -- R229
  | lkSwapCnt -- R229
  | lkSofTimeLo -- R229
  | lkSofTimeHi -- R229
  | lkCvCnt -- R229
  | lkNeigh -- R229
  | crAllow -- R287
  | crAvail -- R287
  | crWaitCnt -- R287
  | rtGen -- R286
  | rtSpread -- R286
  | rtTest -- R286
  | rtVentWait -- R286
  | rtNmBias -- R286
  | rtDrainMax -- R286
  | rtTrees -- R286
  | rtVentCnt -- R286
  | rtNonminCnt -- R286
  | rtPinnedCnt -- R286
  | rtNorouteCnt -- R286
  | rtTreeMissCnt -- R286
  | rtFenceCnt -- R286
  | rtResBreachCnt -- R286
  | tuFreeCells -- R306
  | tuCached -- R306
  | tuHeldCells -- R306
  | tuPoolLevel -- R306
  | tuRiserUsed -- R306
  | tuRiserFor -- R306
  | tuReduced -- R306
  | tuPoolWarn -- R306
  | tuPoolSlow -- R306
  | tuPoolStop -- R306
  | tuReserve -- R306
  | tuNoresCnt -- R306
  | tuWithheldCnt -- R306
  | tuEccCorrCnt -- R306
  | tuEccUncorrCnt -- R306
  | tuLossDiscardCnt -- R306
  | tuRingXferCnt -- R306
  | thWarn -- R306
  | thSlow -- R306
  | thStop -- R306
  | thDepth -- R306
  | thLevel -- R306
  | xbCutCnt -- R307
  | xbStoreCnt -- R307
  | xbBridgeKcells -- R307
  | xbRxbufFullCnt -- R307
  | xbEccCnt -- R307
  | qpQueuesUsed -- R308
  | qpAllocFailCnt -- R308
  | qpPortQueues -- R308
  | qpInternalQueues -- R308
  | scCtxOpen -- R255
  | scResendUs -- R255
  | scResendMax -- R255
  | scHeld -- R255
  | scHdrCrcCnt -- R255
  | scDamagedCnt -- R255
  | scDupCnt -- R255
  | scNoStreamCnt -- R255
  | scGapTimeoutCnt -- R255
  | scCtxMissCnt -- R255
  | scResendCnt -- R255
  | scGiveupCnt -- R255
  | scBadtypeCnt -- R255
  | sdWinOn -- R326
  | sdActiveTable -- R326
  | sdEntries -- R326
  | sdIdleMask -- R326
  | sdFlipPending -- R326
  | sdCycleNs -- R326
  | sdCurStartLo -- R326
  | sdCurStartHi -- R326
  | sdGuardNs -- R326
  | sdClassW03 -- R326
  | sdClassW4 -- R326
  | sdSchedFault -- R326
  | sdDlMissCnt -- R326
  | sdNofitCnt -- R326
  | sdPolicedCnt -- R326
  | sdPolicers -- R326
  | sdVLo -- R326
  | sdVHi -- R326
  | spSampled -- R326
  | spSampleShift -- R326
  | meFramesFree -- R183
  | meRiserFree -- R183
  | meBookUsed -- R183
  | meLostPages -- R183
  | meDegradedPages -- R183
  | meCacheHit -- R183
  | meCacheMiss -- R183
  | meDeniedCnt -- R183
  | meDataLostCnt -- R183
  | meMigrateCnt -- R183
  | meRetireCnt -- R183
  | meWFabric -- R183
  | meWPour -- R183
  | meWLayer -- R183
  | meWFettler -- R183
  | meMigOn -- R183
  | hbCorrCnt -- R184
  | hbUncorrCnt -- R184
  | hbTemp -- R184
  | hbRefresh2x -- R184
  | hbFailed -- R184
  | peInflight -- R91
  | peSets -- R91
  | peSetEntries -- R91
  | peSpillPages -- R91
  | peMismatchCnt -- R91
  | peNotregCnt -- R91
  | peDeniedCnt -- R91
  | peDupCnt -- R91
  | peNoresCnt -- R91
  | peSpillCnt -- R91
  | peClassWeight -- R91
  | laSegsPlaced -- R127
  | laBaysHeld -- R127
  | laSavedSramKib -- R127
  | laSavedHbmKib -- R127
  | laRunsDone -- R127
  | laRunsFailed -- R127
  | laHeatDeniedCnt -- R127
  | laReloadCnt -- R127
  | upRules -- R148
  | upStates -- R148
  | upTables -- R148
  | upUpdatesCnt -- R148
  | upRowApplyCnt -- R148
  | upGatherCnt -- R148
  | upGatherNakCnt -- R148
  | upRejectCnt -- R148
  | upRevertCnt -- R148
  | ckAclkSrc -- R405
  | ckHalved -- R405
  | ckAclkBusy -- R405
  | ckPll0Lock -- R405
  | ckPll1Lock -- R405
  | ckCpllRun -- R405
  | ckRefclkOk -- R405
  | ckClkEn -- R405
  | ckClkobsSel -- R405
  | ckClkobsRst -- R405
  | ckClkobsBusy -- R405
  | ckClkobsDiv -- R405
  | ckTrimSrc -- R405
  | ckSofLink -- R405
  | ckTrimLocked -- R405
  | ckFallback -- R405
  | ckTrim -- R405
  | ckTimeLo -- R405
  | ckTimeHi -- R405
  | ckWrapCnt -- R405
  | ckStepCnt -- R405
  | ckFreqKhz -- R405
  | ckPresent -- R405
  | pwInputMv -- R406
  | pwWarning -- R406
  | pwThrottle -- R406
  | pwModuleW -- R406
  | pwDieMaxC -- R406
  | pwHbmMaxC -- R406
  | pwBaysFired -- R406
  | pwProfileDigLo -- R406
  | pwProfileDigHi -- R406
  | pwBrownoutCnt -- R406
  | pwThrottleCnt -- R406
  | pwWakeCnt -- R406
  | pwRefclkLossCnt -- R406
  | pwBayState -- R406
  | arArriving -- R457
  | arSealOpen -- R457
  | arTrailFull -- R457
  | arAgeMs -- R457
  | arFrameSeq -- R457
  | arEventCnt -- R457
  | arOutageCnt -- R457
  | arCrcErrCnt -- R457
  | arSilentCnt -- R457
  | arDelivLo -- R457
  | arDelivHi -- R457
  | arRetLo -- R457
  | arRetHi -- R457
  | arPowerMw -- R457
  | arVoltMv -- R457
  | arEn -- R457
  | arOvr -- R457
  | reAuto -- R425
  | reAgeMinPs -- R425
  | reFlaskCorrLimit -- R425
  | reFrameCorrLimit -- R425
  | reHbmScrubH -- R425
  | reRiserFlaskFree -- R425
  | reBaysDegraded -- R425
  | reScrubPassCnt -- R425
  | reFlaskCorrCnt -- R425
  | reFlaskUncorrCnt -- R425
  | reProposalCnt -- R425
  | reSwapCnt -- R425
  | reNoticeDropCnt -- R425
  | reRiserPhys -- R425
  | reRiserLogical -- R425
  | reRiserFailed -- R425
  | reAgeMarginPs -- R425
  | shHeld -- R426
  | shFrozen -- R426
  | shNextSeq -- R426
  | shLostCnt -- R426
  | shFreezeSeq -- R426
  | shFreezeCode -- R426
  | sbAddr -- R374
  | sbMainSnap -- R374
  | sbLastCmd -- R374
  | sbLastStatus -- R374
  | sbSnapAgeUs -- R374
  | sbReadCnt -- R374
  | sbWriteCnt -- R374
  | sbPecErrCnt -- R374
  | sbRefusedCnt -- R374
  | seRollback -- R439
  | seBootedSlot -- R439
  | seFallback -- R439
  | seRecovery -- R439
  | seSerialLo -- R439
  | seSerialHi -- R439
  | seSignCnt -- R439
  | seSignBusyCnt -- R439
  | seRootHash -- R439
  | imState -- R440
  | imWriting -- R440
  | imLastCause -- R440
  | imVersion -- R440
  | imSecVersion -- R440
  | deContexts -- R349
  | deSignature -- R349
  | deP1Ceil -- R349
  | deLeafCnt -- R349
  | deHashMib -- R349
  | deUnhashedCnt -- R349
  | deRecordCnt -- R349
  | deSaveCnt -- R349
  | deResumeCnt -- R349
  | baOvf -- R57
  | baNanOut -- R57
  | baFlushIn -- R57
  | baFlushOut -- R57
  deriving DecidableEq, Repr

/-- The number of a field, its place in the list of fields. -/
def Fld.code (f : Fld) : Nat := f.ctorIdx

/-- The key of instance `i` of a field. -/
def regKey (f : Fld) (i : Nat) : Nat := i * 512 + f.code

/-- The reset value the field's table gives (0 for most). Fields that the table marks "kept" or derives from other state
hold what the state part they are computed from holds. -/
def fldReset : Fld → Nat
  | .lkRxSwap => 15
  | .lkTxSwap => 15
  | .lkEnable => 1
  | .lkCvThresh => 256
  | .rtVentWait => 1000
  | .rtNmBias => 2048
  | .rtDrainMax => 1000
  | .tuPoolWarn => 1048576
  | .tuPoolSlow => 524288
  | .tuPoolStop => 262144
  | .tuReserve => 131072
  | .thWarn => 65536
  | .thSlow => 131072
  | .thStop => 262144
  | .scResendUs => 20
  | .scResendMax => 8
  | .sdIdleMask => 31
  | .sdGuardNs => 20
  | .sdClassW03 => 269488144
  | .sdClassW4 => 16
  | .spSampleShift => 6
  | .meWFabric => 8
  | .meWPour => 5
  | .meWLayer => 5
  | .meWFettler => 1
  | .peClassWeight => 1
  | .ckAclkSrc => 1
  | .ckClkEn => 6
  | .pwBayState => 3
  | .reAuto => 31
  | .reAgeMinPs => 15
  | .reFlaskCorrLimit => 16
  | .reFrameCorrLimit => 8
  | .reHbmScrubH => 12
  | .sbAddr => 96
  | _ => 0

/-- The width of a field in bits. -/
def fldWidth : Fld → Nat
  | .foreActiveCore | .foreStandbyReady | .foreActiveSlot | .foreSwitching | .lkP1 | .lkEqDefault => 1
  | .lkReversed | .lkSpDown | .lkCeil1 | .lkEnable | .rtSpread | .rtTest => 1
  | .tuRiserUsed | .tuReduced | .sdWinOn | .sdActiveTable | .sdFlipPending | .meMigOn => 1
  | .hbRefresh2x | .hbFailed | .ckHalved | .ckAclkBusy | .ckPll0Lock | .ckPll1Lock => 1
  | .ckRefclkOk | .ckClkobsRst | .ckClkobsBusy | .ckTrimLocked | .ckFallback | .ckPresent => 1
  | .pwWarning | .pwThrottle | .arArriving | .arSealOpen | .arTrailFull | .arEn => 1
  | .arOvr | .reRiserFailed | .shFrozen | .sbMainSnap | .seBootedSlot | .seFallback => 1
  | .seRecovery | .imWriting | .deP1Ceil | .baOvf | .baNanOut | .baFlushIn => 1
  | .baFlushOut => 1
  | .lkRate | .lkRateSel | .tuPoolLevel | .thLevel | .ckAclkSrc | .ckTrimSrc => 2
  | .ckSofLink | .pwBayState | .imState => 2
  | .lkState | .ckClkEn => 3
  | .lkRxSwap | .lkTxSwap | .scResendMax | .spSampleShift | .ckCpllRun | .reHbmScrubH => 4
  | .tuRiserFor | .sdIdleMask | .sdSchedFault | .laSegsPlaced | .reAuto => 5
  | .lkMaxSkew | .laBaysHeld | .pwBaysFired | .reBaysDegraded | .reRiserPhys | .reRiserLogical => 7
  | .sbAddr | .seRollback => 7
  | .lkLevel | .lkCause | .sdClassW4 | .meWFabric | .meWPour | .meWLayer => 8
  | .meWFettler | .hbTemp | .peClassWeight | .ckClkobsSel | .pwDieMaxC | .pwHbmMaxC => 8
  | .reAgeMinPs | .reFlaskCorrLimit | .reFrameCorrLimit | .reAgeMarginPs | .sbLastCmd | .sbLastStatus => 8
  | .imLastCause | .imSecVersion => 8
  | .lkPolInv | .reRiserFlaskFree => 9
  | .scResendUs | .sdGuardNs => 10
  | .foreOutstanding | .sdEntries | .sdPolicers | .spSampled | .upRules | .deContexts => 11
  | .meRiserFree | .peSets => 13
  | .shHeld => 14
  | .qpPortQueues | .qpInternalQueues => 15
  | .foreTakeoverCnt | .foreSwitchCnt | .lkCvThresh | .lkSofTimeHi | .rtGen | .rtVentWait => 16
  | .rtNmBias | .rtDrainMax | .tuCached | .sdCurStartHi | .upStates | .upTables => 16
  | .ckClkobsDiv | .ckTimeHi | .ckWrapCnt | .pwInputMv | .pwModuleW | .arVoltMv => 16
  | .shFreezeCode | .deSignature => 16
  | .peInflight => 17
  | .meFramesFree => 18
  | .qpQueuesUsed | .laSavedSramKib => 19
  | .rtTrees | .peSpillPages => 20
  | .scCtxOpen => 21
  | .tuFreeCells | .tuHeldCells | .tuPoolWarn | .tuPoolSlow | .tuPoolStop | .tuReserve => 22
  | .thWarn | .thSlow | .thStop | .thDepth => 22
  | .crAllow | .scHeld | .peSetEntries => 23
  | .crAvail | .meBookUsed | .meLostPages | .meDegradedPages | .ckTrim | .ckFreqKhz => 24
  | _ => 32

/-- Access codes of R7. -/
inductive Access where
  | ro | rw | w1c | wo
  deriving DecidableEq, Repr

/-- One row of the map: the field, the address of its first instance, the repeats (count, stride in bytes, step of the
instance number), its bits and its access code. -/
structure RegRow where
  fld  : Fld
  base : Nat
  dims : List (Nat × Nat × Nat)
  hi   : Nat
  lo   : Nat
  acc  : Access
  deriving DecidableEq, Repr

/-- The rows of block 0x00. -/
def regRows00 : List RegRow :=
  [ ⟨.foreActiveCore, 0x00000000, [], 0, 0, .ro⟩
  , ⟨.foreStandbyReady, 0x00000000, [], 1, 1, .ro⟩
  , ⟨.foreActiveSlot, 0x00000000, [], 2, 2, .ro⟩
  , ⟨.foreSwitching, 0x00000000, [], 3, 3, .ro⟩
  , ⟨.foreOutstanding, 0x00000004, [], 10, 0, .ro⟩
  , ⟨.foreCmdCnt, 0x00000008, [], 31, 0, .ro⟩
  , ⟨.foreCmdRejectCnt, 0x0000000C, [], 31, 0, .ro⟩
  , ⟨.foreCmdDeniedCnt, 0x00000010, [], 31, 0, .ro⟩
  , ⟨.foreQueueFullCnt, 0x00000014, [], 31, 0, .ro⟩
  , ⟨.foreReplyGiveupCnt, 0x00000018, [], 31, 0, .ro⟩
  , ⟨.foreTakeoverCnt, 0x0000001C, [], 15, 0, .ro⟩
  , ⟨.foreSwitchCnt, 0x0000001C, [], 31, 16, .ro⟩ ]

/-- The rows of block 0x10. -/
def regRows10 : List RegRow :=
  [ ⟨.lkState, 0x10000000, [(52, 0x1000, 1)], 2, 0, .ro⟩
  , ⟨.lkRate, 0x10000000, [(52, 0x1000, 1)], 4, 3, .ro⟩
  , ⟨.lkP1, 0x10000000, [(52, 0x1000, 1)], 6, 6, .ro⟩
  , ⟨.lkEqDefault, 0x10000000, [(52, 0x1000, 1)], 7, 7, .ro⟩
  , ⟨.lkLevel, 0x10000000, [(52, 0x1000, 1)], 15, 8, .ro⟩
  , ⟨.lkCause, 0x10000000, [(52, 0x1000, 1)], 23, 16, .ro⟩
  , ⟨.lkRxSwap, 0x10000000, [(52, 0x1000, 1)], 27, 24, .ro⟩
  , ⟨.lkTxSwap, 0x10000000, [(52, 0x1000, 1)], 31, 28, .ro⟩
  , ⟨.lkReversed, 0x10000004, [(52, 0x1000, 1)], 0, 0, .ro⟩
  , ⟨.lkPolInv, 0x10000004, [(52, 0x1000, 1)], 9, 1, .ro⟩
  , ⟨.lkMaxSkew, 0x10000004, [(52, 0x1000, 1)], 16, 10, .ro⟩
  , ⟨.lkSpDown, 0x10000004, [(52, 0x1000, 1)], 17, 17, .ro⟩
  , ⟨.lkRateSel, 0x10000008, [(52, 0x1000, 1)], 1, 0, .ro⟩
  , ⟨.lkCeil1, 0x10000008, [(52, 0x1000, 1)], 2, 2, .ro⟩
  , ⟨.lkEnable, 0x10000008, [(52, 0x1000, 1)], 3, 3, .ro⟩
  , ⟨.lkCvThresh, 0x10000008, [(52, 0x1000, 1)], 31, 16, .ro⟩
  , ⟨.lkCbErrCnt, 0x10000040, [(52, 0x1000, 1)], 31, 0, .w1c⟩
  , ⟨.lkAbortRxCnt, 0x10000044, [(52, 0x1000, 1)], 31, 0, .ro⟩
  , ⟨.lkTrainCnt, 0x10000048, [(52, 0x1000, 1)], 31, 0, .ro⟩
  , ⟨.lkTrainFailCnt, 0x1000004C, [(52, 0x1000, 1)], 31, 0, .ro⟩
  , ⟨.lkSwapCnt, 0x10000050, [(52, 0x1000, 1)], 31, 0, .ro⟩
  , ⟨.lkSofTimeLo, 0x10000068, [(52, 0x1000, 1)], 31, 0, .ro⟩
  , ⟨.lkSofTimeHi, 0x1000006C, [(52, 0x1000, 1)], 15, 0, .ro⟩
  , ⟨.lkCvCnt, 0x10000010, [(52, 0x1000, 16), (9, 0x4, 1)], 31, 0, .w1c⟩
  , ⟨.lkNeigh, 0x10000058, [(52, 0x1000, 16), (4, 0x4, 1)], 31, 0, .ro⟩
  , ⟨.crAllow, 0x10000080, [(52, 0x1000, 16), (8, 0x4, 1)], 22, 0, .ro⟩
  , ⟨.crAvail, 0x100000A0, [(52, 0x1000, 16), (8, 0x4, 1)], 23, 0, .ro⟩
  , ⟨.crWaitCnt, 0x100000C0, [(52, 0x1000, 16), (8, 0x4, 1)], 31, 0, .ro⟩ ]

/-- The rows of block 0x20 and its siblings. -/
def regRows20 : List RegRow :=
  [ ⟨.rtGen, 0x20000000, [(2, 0x1000000, 1)], 15, 0, .ro⟩
  , ⟨.rtSpread, 0x20000000, [(2, 0x1000000, 1)], 16, 16, .ro⟩
  , ⟨.rtTest, 0x20000000, [(2, 0x1000000, 1)], 17, 17, .ro⟩
  , ⟨.rtVentWait, 0x20000004, [(2, 0x1000000, 1)], 15, 0, .ro⟩
  , ⟨.rtNmBias, 0x20000004, [(2, 0x1000000, 1)], 31, 16, .ro⟩
  , ⟨.rtDrainMax, 0x20000008, [(2, 0x1000000, 1)], 15, 0, .ro⟩
  , ⟨.rtTrees, 0x2000000C, [(2, 0x1000000, 1)], 19, 0, .ro⟩
  , ⟨.rtVentCnt, 0x20000010, [(2, 0x1000000, 1)], 31, 0, .ro⟩
  , ⟨.rtNonminCnt, 0x20000014, [(2, 0x1000000, 1)], 31, 0, .ro⟩
  , ⟨.rtPinnedCnt, 0x20000018, [(2, 0x1000000, 1)], 31, 0, .ro⟩
  , ⟨.rtNorouteCnt, 0x2000001C, [(2, 0x1000000, 1)], 31, 0, .ro⟩
  , ⟨.rtTreeMissCnt, 0x20000020, [(2, 0x1000000, 1)], 31, 0, .ro⟩
  , ⟨.rtFenceCnt, 0x20000024, [(2, 0x1000000, 1)], 31, 0, .ro⟩
  , ⟨.rtResBreachCnt, 0x20000028, [(2, 0x1000000, 1)], 31, 0, .ro⟩ ]

/-- The rows of block 0x30 and its siblings. -/
def regRows30 : List RegRow :=
  [ ⟨.tuFreeCells, 0x30000000, [(2, 0x1000000, 1)], 21, 0, .ro⟩
  , ⟨.tuCached, 0x30000004, [(2, 0x1000000, 1)], 15, 0, .ro⟩
  , ⟨.tuHeldCells, 0x30000008, [(2, 0x1000000, 1)], 21, 0, .ro⟩
  , ⟨.tuPoolLevel, 0x3000000C, [(2, 0x1000000, 1)], 1, 0, .ro⟩
  , ⟨.tuRiserUsed, 0x3000000C, [(2, 0x1000000, 1)], 2, 2, .ro⟩
  , ⟨.tuRiserFor, 0x3000000C, [(2, 0x1000000, 1)], 7, 3, .ro⟩
  , ⟨.tuReduced, 0x3000000C, [(2, 0x1000000, 1)], 8, 8, .ro⟩
  , ⟨.tuPoolWarn, 0x30000010, [(2, 0x1000000, 1)], 21, 0, .ro⟩
  , ⟨.tuPoolSlow, 0x30000014, [(2, 0x1000000, 1)], 21, 0, .ro⟩
  , ⟨.tuPoolStop, 0x30000018, [(2, 0x1000000, 1)], 21, 0, .ro⟩
  , ⟨.tuReserve, 0x3000001C, [(2, 0x1000000, 1)], 21, 0, .ro⟩
  , ⟨.tuNoresCnt, 0x30000020, [(2, 0x1000000, 1)], 31, 0, .ro⟩
  , ⟨.tuWithheldCnt, 0x30000024, [(2, 0x1000000, 1)], 31, 0, .ro⟩
  , ⟨.tuEccCorrCnt, 0x30000028, [(2, 0x1000000, 1)], 31, 0, .w1c⟩
  , ⟨.tuEccUncorrCnt, 0x3000002C, [(2, 0x1000000, 1)], 31, 0, .w1c⟩
  , ⟨.tuLossDiscardCnt, 0x30000030, [(2, 0x1000000, 1)], 31, 0, .ro⟩
  , ⟨.tuRingXferCnt, 0x30000034, [(2, 0x1000000, 1)], 31, 0, .ro⟩
  , ⟨.thWarn, 0x30001000, [(2, 0x1000000, 0), (52, 0x50, 5), (5, 0x10, 1)], 21, 0, .ro⟩
  , ⟨.thSlow, 0x30001004, [(2, 0x1000000, 0), (52, 0x50, 5), (5, 0x10, 1)], 21, 0, .ro⟩
  , ⟨.thStop, 0x30001008, [(2, 0x1000000, 0), (52, 0x50, 5), (5, 0x10, 1)], 21, 0, .ro⟩
  , ⟨.thDepth, 0x3000100C, [(2, 0x1000000, 0), (52, 0x50, 5), (5, 0x10, 1)], 21, 0, .ro⟩
  , ⟨.thLevel, 0x3000100C, [(2, 0x1000000, 0), (52, 0x50, 5), (5, 0x10, 1)], 23, 22, .ro⟩ ]

/-- The rows of block 0x32 and its siblings. -/
def regRows32 : List RegRow :=
  [ ⟨.xbCutCnt, 0x32000000, [(2, 0x1000000, 1)], 31, 0, .ro⟩
  , ⟨.xbStoreCnt, 0x32000004, [(2, 0x1000000, 1)], 31, 0, .ro⟩
  , ⟨.xbBridgeKcells, 0x32000008, [(2, 0x1000000, 1)], 31, 0, .ro⟩
  , ⟨.xbRxbufFullCnt, 0x3200000C, [(2, 0x1000000, 1)], 31, 0, .ro⟩
  , ⟨.xbEccCnt, 0x32000010, [(2, 0x1000000, 1)], 31, 0, .ro⟩ ]

/-- The rows of block 0x34. -/
def regRows34 : List RegRow :=
  [ ⟨.qpQueuesUsed, 0x34000000, [], 18, 0, .ro⟩
  , ⟨.qpAllocFailCnt, 0x34000004, [], 31, 0, .ro⟩
  , ⟨.qpPortQueues, 0x34000100, [(52, 0x4, 1)], 14, 0, .ro⟩
  , ⟨.qpInternalQueues, 0x340001E0, [(3, 0x4, 1)], 14, 0, .ro⟩ ]

/-- The rows of block 0x38 and its siblings. -/
def regRows38 : List RegRow :=
  [ ⟨.scCtxOpen, 0x38000000, [(2, 0x1000000, 1)], 20, 0, .ro⟩
  , ⟨.scResendUs, 0x38000004, [(2, 0x1000000, 1)], 9, 0, .rw⟩
  , ⟨.scResendMax, 0x38000004, [(2, 0x1000000, 1)], 19, 16, .rw⟩
  , ⟨.scHeld, 0x38000008, [(2, 0x1000000, 1)], 22, 0, .ro⟩
  , ⟨.scHdrCrcCnt, 0x3800000C, [(2, 0x1000000, 1)], 31, 0, .ro⟩
  , ⟨.scDamagedCnt, 0x38000010, [(2, 0x1000000, 1)], 31, 0, .ro⟩
  , ⟨.scDupCnt, 0x38000014, [(2, 0x1000000, 1)], 31, 0, .ro⟩
  , ⟨.scNoStreamCnt, 0x38000018, [(2, 0x1000000, 1)], 31, 0, .ro⟩
  , ⟨.scGapTimeoutCnt, 0x3800001C, [(2, 0x1000000, 1)], 31, 0, .ro⟩
  , ⟨.scCtxMissCnt, 0x38000020, [(2, 0x1000000, 1)], 31, 0, .ro⟩
  , ⟨.scResendCnt, 0x38000024, [(2, 0x1000000, 1)], 31, 0, .ro⟩
  , ⟨.scGiveupCnt, 0x38000028, [(2, 0x1000000, 1)], 31, 0, .ro⟩
  , ⟨.scBadtypeCnt, 0x3800002C, [(2, 0x1000000, 1)], 31, 0, .ro⟩ ]

/-- The rows of block 0x40. -/
def regRows40 : List RegRow :=
  [ ⟨.sdWinOn, 0x40000000, [(52, 0x1000, 1)], 0, 0, .ro⟩
  , ⟨.sdActiveTable, 0x40000000, [(52, 0x1000, 1)], 1, 1, .ro⟩
  , ⟨.sdEntries, 0x40000000, [(52, 0x1000, 1)], 12, 2, .ro⟩
  , ⟨.sdIdleMask, 0x40000000, [(52, 0x1000, 1)], 17, 13, .ro⟩
  , ⟨.sdFlipPending, 0x40000000, [(52, 0x1000, 1)], 18, 18, .ro⟩
  , ⟨.sdCycleNs, 0x40000004, [(52, 0x1000, 1)], 31, 0, .ro⟩
  , ⟨.sdCurStartLo, 0x40000008, [(52, 0x1000, 1)], 31, 0, .ro⟩
  , ⟨.sdCurStartHi, 0x4000000C, [(52, 0x1000, 1)], 15, 0, .ro⟩
  , ⟨.sdGuardNs, 0x40000010, [(52, 0x1000, 1)], 9, 0, .ro⟩
  , ⟨.sdClassW03, 0x40000014, [(52, 0x1000, 1)], 31, 0, .ro⟩
  , ⟨.sdClassW4, 0x40000018, [(52, 0x1000, 1)], 7, 0, .ro⟩
  , ⟨.sdSchedFault, 0x4000001C, [(52, 0x1000, 1)], 4, 0, .w1c⟩
  , ⟨.sdDlMissCnt, 0x40000020, [(52, 0x1000, 1)], 31, 0, .ro⟩
  , ⟨.sdNofitCnt, 0x40000024, [(52, 0x1000, 1)], 31, 0, .ro⟩
  , ⟨.sdPolicedCnt, 0x40000028, [(52, 0x1000, 1)], 31, 0, .ro⟩
  , ⟨.sdPolicers, 0x4000002C, [(52, 0x1000, 1)], 10, 0, .ro⟩
  , ⟨.sdVLo, 0x40000030, [(52, 0x1000, 1)], 31, 0, .ro⟩
  , ⟨.sdVHi, 0x40000034, [(52, 0x1000, 1)], 31, 0, .ro⟩
  , ⟨.spSampled, 0x40040000, [], 10, 0, .ro⟩
  , ⟨.spSampleShift, 0x40040000, [], 19, 16, .ro⟩ ]

/-- The rows of block 0x50. -/
def regRows50 : List RegRow :=
  [ ⟨.meFramesFree, 0x50000000, [], 17, 0, .ro⟩
  , ⟨.meRiserFree, 0x50000004, [], 12, 0, .ro⟩
  , ⟨.meBookUsed, 0x50000008, [], 23, 0, .ro⟩
  , ⟨.meLostPages, 0x5000000C, [], 23, 0, .ro⟩
  , ⟨.meDegradedPages, 0x50000010, [], 23, 0, .ro⟩
  , ⟨.meCacheHit, 0x50000014, [], 31, 0, .ro⟩
  , ⟨.meCacheMiss, 0x50000018, [], 31, 0, .ro⟩
  , ⟨.meDeniedCnt, 0x5000001C, [], 31, 0, .ro⟩
  , ⟨.meDataLostCnt, 0x50000020, [], 31, 0, .ro⟩
  , ⟨.meMigrateCnt, 0x50000024, [], 31, 0, .ro⟩
  , ⟨.meRetireCnt, 0x50000028, [], 31, 0, .ro⟩
  , ⟨.meWFabric, 0x50000030, [], 7, 0, .ro⟩
  , ⟨.meWPour, 0x50000030, [], 15, 8, .ro⟩
  , ⟨.meWLayer, 0x50000030, [], 23, 16, .ro⟩
  , ⟨.meWFettler, 0x50000030, [], 31, 24, .ro⟩
  , ⟨.meMigOn, 0x50000034, [], 0, 0, .ro⟩ ]

/-- The rows of block 0x51 and its siblings. -/
def regRows51 : List RegRow :=
  [ ⟨.hbCorrCnt, 0x51000000, [(12, 0x1000000, 1)], 31, 0, .w1c⟩
  , ⟨.hbUncorrCnt, 0x51000004, [(12, 0x1000000, 1)], 31, 0, .w1c⟩
  , ⟨.hbTemp, 0x51000008, [(12, 0x1000000, 1)], 7, 0, .ro⟩
  , ⟨.hbRefresh2x, 0x51000008, [(12, 0x1000000, 1)], 8, 8, .ro⟩
  , ⟨.hbFailed, 0x51000008, [(12, 0x1000000, 1)], 9, 9, .ro⟩ ]

/-- The rows of block 0x60. -/
def regRows60 : List RegRow :=
  [ ⟨.peInflight, 0x60000000, [], 16, 0, .ro⟩
  , ⟨.peSets, 0x60000004, [], 12, 0, .ro⟩
  , ⟨.peSetEntries, 0x60000008, [], 22, 0, .ro⟩
  , ⟨.peSpillPages, 0x6000000C, [], 19, 0, .ro⟩
  , ⟨.peMismatchCnt, 0x60000010, [], 31, 0, .ro⟩
  , ⟨.peNotregCnt, 0x60000014, [], 31, 0, .ro⟩
  , ⟨.peDeniedCnt, 0x60000018, [], 31, 0, .ro⟩
  , ⟨.peDupCnt, 0x6000001C, [], 31, 0, .ro⟩
  , ⟨.peNoresCnt, 0x60000020, [], 31, 0, .ro⟩
  , ⟨.peSpillCnt, 0x60000024, [], 31, 0, .ro⟩
  , ⟨.peClassWeight, 0x60000040, [(8, 0x4, 1)], 7, 0, .ro⟩ ]

/-- The rows of block 0x70. -/
def regRows70 : List RegRow :=
  [ ⟨.laSegsPlaced, 0x70000000, [], 4, 0, .ro⟩
  , ⟨.laBaysHeld, 0x70000004, [], 6, 0, .ro⟩
  , ⟨.laSavedSramKib, 0x70000008, [], 18, 0, .ro⟩
  , ⟨.laSavedHbmKib, 0x7000000C, [], 31, 0, .ro⟩
  , ⟨.laRunsDone, 0x70000010, [], 31, 0, .ro⟩
  , ⟨.laRunsFailed, 0x70000014, [], 31, 0, .ro⟩
  , ⟨.laHeatDeniedCnt, 0x70000018, [], 31, 0, .ro⟩
  , ⟨.laReloadCnt, 0x7000001C, [], 31, 0, .ro⟩ ]

/-- The rows of block 0x80. -/
def regRows80 : List RegRow :=
  [ ⟨.upRules, 0x80000000, [], 10, 0, .ro⟩
  , ⟨.upStates, 0x80000004, [], 15, 0, .ro⟩
  , ⟨.upTables, 0x80000004, [], 31, 16, .ro⟩
  , ⟨.upUpdatesCnt, 0x80000008, [], 31, 0, .ro⟩
  , ⟨.upRowApplyCnt, 0x8000000C, [], 31, 0, .ro⟩
  , ⟨.upGatherCnt, 0x80000010, [], 31, 0, .ro⟩
  , ⟨.upGatherNakCnt, 0x80000014, [], 31, 0, .ro⟩
  , ⟨.upRejectCnt, 0x80000018, [], 31, 0, .ro⟩
  , ⟨.upRevertCnt, 0x8000001C, [], 31, 0, .ro⟩ ]

/-- The rows of block 0x90. -/
def regRows90 : List RegRow :=
  [ ⟨.ckAclkSrc, 0x90000000, [], 1, 0, .ro⟩
  , ⟨.ckHalved, 0x90000000, [], 2, 2, .ro⟩
  , ⟨.ckAclkBusy, 0x90000000, [], 3, 3, .ro⟩
  , ⟨.ckPll0Lock, 0x90000000, [], 4, 4, .ro⟩
  , ⟨.ckPll1Lock, 0x90000000, [], 5, 5, .ro⟩
  , ⟨.ckCpllRun, 0x90000000, [], 9, 6, .ro⟩
  , ⟨.ckRefclkOk, 0x90000000, [], 10, 10, .ro⟩
  , ⟨.ckClkEn, 0x90000004, [], 2, 0, .rw⟩
  , ⟨.ckClkobsSel, 0x90000008, [], 7, 0, .rw⟩
  , ⟨.ckClkobsRst, 0x90000008, [], 8, 8, .wo⟩
  , ⟨.ckClkobsBusy, 0x90000008, [], 9, 9, .ro⟩
  , ⟨.ckClkobsDiv, 0x9000000C, [], 15, 0, .rw⟩
  , ⟨.ckTrimSrc, 0x90000010, [], 1, 0, .ro⟩
  , ⟨.ckSofLink, 0x90000010, [], 3, 2, .ro⟩
  , ⟨.ckTrimLocked, 0x90000010, [], 4, 4, .ro⟩
  , ⟨.ckFallback, 0x90000010, [], 5, 5, .ro⟩
  , ⟨.ckTrim, 0x90000014, [], 23, 0, .ro⟩
  , ⟨.ckTimeLo, 0x90000018, [], 31, 0, .ro⟩
  , ⟨.ckTimeHi, 0x9000001C, [], 15, 0, .ro⟩
  , ⟨.ckWrapCnt, 0x9000001C, [], 31, 16, .ro⟩
  , ⟨.ckStepCnt, 0x90000020, [], 31, 0, .ro⟩
  , ⟨.ckFreqKhz, 0x90000100, [(256, 0x4, 1)], 23, 0, .ro⟩
  , ⟨.ckPresent, 0x90000100, [(256, 0x4, 1)], 24, 24, .ro⟩ ]

/-- The rows of block 0x91. -/
def regRows91 : List RegRow :=
  [ ⟨.pwInputMv, 0x91000000, [], 15, 0, .ro⟩
  , ⟨.pwWarning, 0x91000000, [], 16, 16, .ro⟩
  , ⟨.pwThrottle, 0x91000000, [], 17, 17, .ro⟩
  , ⟨.pwModuleW, 0x91000004, [], 15, 0, .ro⟩
  , ⟨.pwDieMaxC, 0x91000008, [], 7, 0, .ro⟩
  , ⟨.pwHbmMaxC, 0x91000008, [], 15, 8, .ro⟩
  , ⟨.pwBaysFired, 0x9100000C, [], 6, 0, .ro⟩
  , ⟨.pwProfileDigLo, 0x91000010, [], 31, 0, .ro⟩
  , ⟨.pwProfileDigHi, 0x91000014, [], 31, 0, .ro⟩
  , ⟨.pwBrownoutCnt, 0x91000018, [], 31, 0, .ro⟩
  , ⟨.pwThrottleCnt, 0x9100001C, [], 31, 0, .ro⟩
  , ⟨.pwWakeCnt, 0x91000020, [], 31, 0, .ro⟩
  , ⟨.pwRefclkLossCnt, 0x91000024, [], 31, 0, .ro⟩
  , ⟨.pwBayState, 0x91000100, [(100, 0x4, 1)], 1, 0, .ro⟩ ]

/-- The rows of block 0x92. -/
def regRows92 : List RegRow :=
  [ ⟨.arArriving, 0x92000000, [], 0, 0, .ro⟩
  , ⟨.arSealOpen, 0x92000000, [], 1, 1, .ro⟩
  , ⟨.arTrailFull, 0x92000000, [], 2, 2, .ro⟩
  , ⟨.arAgeMs, 0x92000004, [], 31, 0, .ro⟩
  , ⟨.arFrameSeq, 0x92000008, [], 31, 0, .ro⟩
  , ⟨.arEventCnt, 0x9200000C, [], 31, 0, .ro⟩
  , ⟨.arOutageCnt, 0x92000010, [], 31, 0, .ro⟩
  , ⟨.arCrcErrCnt, 0x92000014, [], 31, 0, .ro⟩
  , ⟨.arSilentCnt, 0x92000018, [], 31, 0, .ro⟩
  , ⟨.arDelivLo, 0x92000100, [(9, 0x20, 1)], 31, 0, .ro⟩
  , ⟨.arDelivHi, 0x92000104, [(9, 0x20, 1)], 31, 0, .ro⟩
  , ⟨.arRetLo, 0x92000108, [(9, 0x20, 1)], 31, 0, .ro⟩
  , ⟨.arRetHi, 0x9200010C, [(9, 0x20, 1)], 31, 0, .ro⟩
  , ⟨.arPowerMw, 0x92000110, [(9, 0x20, 1)], 31, 0, .ro⟩
  , ⟨.arVoltMv, 0x92000114, [(9, 0x20, 1)], 15, 0, .ro⟩
  , ⟨.arEn, 0x92000114, [(9, 0x20, 1)], 16, 16, .ro⟩
  , ⟨.arOvr, 0x92000114, [(9, 0x20, 1)], 17, 17, .ro⟩ ]

/-- The rows of block 0xA0. -/
def regRowsA0 : List RegRow :=
  [ ⟨.reAuto, 0xA0000000, [], 4, 0, .ro⟩
  , ⟨.reAgeMinPs, 0xA0000004, [], 7, 0, .ro⟩
  , ⟨.reFlaskCorrLimit, 0xA0000004, [], 15, 8, .ro⟩
  , ⟨.reFrameCorrLimit, 0xA0000004, [], 23, 16, .ro⟩
  , ⟨.reHbmScrubH, 0xA0000004, [], 27, 24, .ro⟩
  , ⟨.reRiserFlaskFree, 0xA0000008, [], 8, 0, .ro⟩
  , ⟨.reBaysDegraded, 0xA0000008, [], 22, 16, .ro⟩
  , ⟨.reScrubPassCnt, 0xA000000C, [], 31, 0, .ro⟩
  , ⟨.reFlaskCorrCnt, 0xA0000010, [], 31, 0, .w1c⟩
  , ⟨.reFlaskUncorrCnt, 0xA0000014, [], 31, 0, .w1c⟩
  , ⟨.reProposalCnt, 0xA0000018, [], 31, 0, .ro⟩
  , ⟨.reSwapCnt, 0xA000001C, [], 31, 0, .ro⟩
  , ⟨.reNoticeDropCnt, 0xA0000020, [], 31, 0, .ro⟩
  , ⟨.reRiserPhys, 0xA0001000, [(100, 0x10, 4), (4, 0x4, 1)], 6, 0, .ro⟩
  , ⟨.reRiserLogical, 0xA0001000, [(100, 0x10, 4), (4, 0x4, 1)], 13, 7, .ro⟩
  , ⟨.reRiserFailed, 0xA0001000, [(100, 0x10, 4), (4, 0x4, 1)], 14, 14, .ro⟩
  , ⟨.reAgeMarginPs, 0xA0002000, [(100, 0x4, 1)], 7, 0, .ro⟩ ]

/-- The rows of block 0xA1. -/
def regRowsA1 : List RegRow :=
  [ ⟨.shHeld, 0xA1000000, [], 13, 0, .ro⟩
  , ⟨.shFrozen, 0xA1000000, [], 14, 14, .ro⟩
  , ⟨.shNextSeq, 0xA1000004, [], 31, 0, .ro⟩
  , ⟨.shLostCnt, 0xA1000008, [], 31, 0, .ro⟩
  , ⟨.shFreezeSeq, 0xA100000C, [], 31, 0, .ro⟩
  , ⟨.shFreezeCode, 0xA1000010, [], 15, 0, .ro⟩ ]

/-- The rows of block 0xA2. -/
def regRowsA2 : List RegRow :=
  [ ⟨.sbAddr, 0xA2000000, [], 6, 0, .ro⟩
  , ⟨.sbMainSnap, 0xA2000000, [], 7, 7, .ro⟩
  , ⟨.sbLastCmd, 0xA2000000, [], 15, 8, .ro⟩
  , ⟨.sbLastStatus, 0xA2000000, [], 23, 16, .ro⟩
  , ⟨.sbSnapAgeUs, 0xA2000004, [], 31, 0, .ro⟩
  , ⟨.sbReadCnt, 0xA2000008, [], 31, 0, .ro⟩
  , ⟨.sbWriteCnt, 0xA200000C, [], 31, 0, .ro⟩
  , ⟨.sbPecErrCnt, 0xA2000010, [], 31, 0, .ro⟩
  , ⟨.sbRefusedCnt, 0xA2000014, [], 31, 0, .ro⟩ ]

/-- The rows of block 0xB0. -/
def regRowsB0 : List RegRow :=
  [ ⟨.seRollback, 0xB0000000, [], 6, 0, .ro⟩
  , ⟨.seBootedSlot, 0xB0000000, [], 7, 7, .ro⟩
  , ⟨.seFallback, 0xB0000000, [], 8, 8, .ro⟩
  , ⟨.seRecovery, 0xB0000000, [], 9, 9, .ro⟩
  , ⟨.seSerialLo, 0xB0000004, [], 31, 0, .ro⟩
  , ⟨.seSerialHi, 0xB0000008, [], 31, 0, .ro⟩
  , ⟨.seSignCnt, 0xB0000030, [], 31, 0, .ro⟩
  , ⟨.seSignBusyCnt, 0xB0000034, [], 31, 0, .ro⟩
  , ⟨.seRootHash, 0xB0000010, [(8, 0x4, 1)], 31, 0, .ro⟩ ]

/-- The rows of block 0xB1. -/
def regRowsB1 : List RegRow :=
  [ ⟨.imState, 0xB1000000, [(2, 0x10, 1)], 1, 0, .ro⟩
  , ⟨.imWriting, 0xB1000000, [(2, 0x10, 1)], 2, 2, .ro⟩
  , ⟨.imLastCause, 0xB1000000, [(2, 0x10, 1)], 10, 3, .ro⟩
  , ⟨.imVersion, 0xB1000004, [(2, 0x10, 1)], 31, 0, .ro⟩
  , ⟨.imSecVersion, 0xB1000008, [(2, 0x10, 1)], 7, 0, .ro⟩ ]

/-- The rows of block 0xD0. -/
def regRowsD0 : List RegRow :=
  [ ⟨.deContexts, 0xD0000000, [], 10, 0, .ro⟩
  , ⟨.deSignature, 0xD0000004, [], 15, 0, .ro⟩
  , ⟨.deP1Ceil, 0xD0000004, [], 16, 16, .ro⟩
  , ⟨.deLeafCnt, 0xD0000008, [], 31, 0, .ro⟩
  , ⟨.deHashMib, 0xD000000C, [], 31, 0, .ro⟩
  , ⟨.deUnhashedCnt, 0xD0000010, [], 31, 0, .ro⟩
  , ⟨.deRecordCnt, 0xD0000014, [], 31, 0, .ro⟩
  , ⟨.deSaveCnt, 0xD0000018, [], 31, 0, .ro⟩
  , ⟨.deResumeCnt, 0xD000001C, [], 31, 0, .ro⟩ ]

/-- The rows of block 0xE0 and its siblings. -/
def regRowsE0 : List RegRow :=
  [ ⟨.baOvf, 0xE0002000, [(4, 0x1000000, 2500), (25, 0x10000, 100), (100, 0x4, 1)], 0, 0, .w1c⟩
  , ⟨.baNanOut, 0xE0002000, [(4, 0x1000000, 2500), (25, 0x10000, 100), (100, 0x4, 1)], 1, 1, .w1c⟩
  , ⟨.baFlushIn, 0xE0002000, [(4, 0x1000000, 2500), (25, 0x10000, 100), (100, 0x4, 1)], 2, 2, .w1c⟩
  , ⟨.baFlushOut, 0xE0002000, [(4, 0x1000000, 2500), (25, 0x10000, 100), (100, 0x4, 1)], 3, 3, .w1c⟩ ]

/-- The whole map. -/
def regMap : List RegRow :=
  regRows00 ++ regRows10 ++ regRows20 ++ regRows30 ++ regRows32 ++ regRows34 ++ regRows38 ++ regRows40 ++ regRows50 ++ regRows51 ++ regRows60 ++ regRows70 ++ regRows80 ++ regRows90 ++ regRows91 ++ regRows92 ++ regRowsA0 ++ regRowsA1 ++ regRowsA2 ++ regRowsB0 ++ regRowsB1 ++ regRowsD0 ++ regRowsE0

/-- The first field number of each block of the map, and one past its last. -/
def fldSpan (b : Nat) : Nat × Nat :=
  if b = 0x00 then (0, 12)
  else if b = 0x10 then (12, 40)
  else if b = 0x20 then (40, 54)
  else if b = 0x30 then (54, 76)
  else if b = 0x32 then (76, 81)
  else if b = 0x34 then (81, 85)
  else if b = 0x38 then (85, 98)
  else if b = 0x40 then (98, 118)
  else if b = 0x50 then (118, 134)
  else if b = 0x51 then (134, 139)
  else if b = 0x60 then (139, 150)
  else if b = 0x70 then (150, 158)
  else if b = 0x80 then (158, 167)
  else if b = 0x90 then (167, 190)
  else if b = 0x91 then (190, 204)
  else if b = 0x92 then (204, 221)
  else if b = 0xA0 then (221, 238)
  else if b = 0xA1 then (238, 244)
  else if b = 0xA2 then (244, 253)
  else if b = 0xB0 then (253, 262)
  else if b = 0xB1 then (262, 267)
  else if b = 0xD0 then (267, 276)
  else if b = 0xE0 then (276, 280)
  else (0, 0)

end Sys2Proof.Machine
end

