-- ==== Sys2Proof/Machine/State.lean ====
section
/-! DEFINITION. The state of the block: plain data, holding every register, memory, queue, buffer, counter, mode and pin
the manual gives the GN-52, the queue of waiting commands, and what the device has sent. -/
namespace Sys2Proof.Machine

/-- The GN-52-to-GN-52 messages the manual names (classes 6 and 7 of R256). It gives their fields and not their layout,
so a message is this name and its fields. -/
inductive CtlKind where
  | routeUpdate | routeAck | closeAsk | fenceNotice | unfenceNotice | giveUp | probe | probeReply
  | treeSetup | treeReply | treeRepair | walk | walkReply | invalidate | invalidateAck | sliceQuery | sliceReply
  | mirrorWrite | mirrorConfirm | metaCopy | pageNote | moveAsk | register | regAck | openPour | roundDone | commit
  | abort | abortAck | endPour | fenceQuery | fenceReply | rowUpdate | fwdDone | fwdAck
  | stateWrite | recordClose
  deriving DecidableEq, Repr

/-- What the device has sent, newest last (MODEL's own: the boundary of the block, log entry 1). -/
inductive OutMsg where
  /-- A packet leaves on a link; `aborted` when it ends in K30.7. -/
  | packet (link : Nat) (p : Packet) (aborted : Bool)
  /-- A control block of R211 leaves on a link (its 16 bytes). -/
  | block (link : Nat) (body : List Byte)
  /-- The training sets of a link's nine contacts (R216): 16 symbols each, a special symbol as 256 + its byte. -/
  | training (link : Nat) (sets : List (List Nat))
  /-- A start-of-frame marker leaves on a service link (R227). -/
  | sof (link frame : Nat)
  /-- Port 56 forms a reply (R353). -/
  | reply (cmd : CmdRef) (status : Nat) (final : Bool) (body : List Byte)
  /-- A Foreman-to-Foreman or Pour-control message toward a device (classes 6 and 7, R256): its kind and fields. -/
  | ctl (device : Nat) (kind : CtlKind) (fields : List Nat) (body : List Byte)
  /-- The sideband target answers a block read (R371). -/
  | sideband (body : List Byte)
  /-- The Assay island answers a block read on its own port (R453). -/
  | assay (body : List Byte)
  /-- The Assay island sends a frame to X0 (R454). -/
  | assayFrame (body : List Byte)
  /-- JTAG shifts out (R375, R376): a register's bits and their number. -/
  | jtag (bits width : Nat)
  deriving DecidableEq, Repr

/-- Reasons the block stops: none. The manual gives every command and event an effect, if only to change nothing, so no
meaning faults. Raised by nobody. -/
inductive Fault where
  deriving DecidableEq, Repr

/-- Reasons a command has no meaning. -/
inductive Refusal where
  /-- The command is not modelled yet. Raised by the arms of `exec` alone. Safe. -/
  | notModelled (mnemonic : String)
  deriving DecidableEq, Repr

/-- The state of the GN-52. -/
structure State where
  pending : List Instr := []
  out     : List OutMsg := []
  freeCtr : Nat := 0
  csr     : Tab Nat := []
  time    : TimePart := {}
  pins    : PinPart := {}
  coord   : CoordPart := {}
  power   : PowerPart := {}
  fore    : ForePart := {}
  sb      : SidebandPart := {}
  jtag    : JtagPart := {}
  links   : Tab LinkPart := []
  eq      : Tab Nat := []
  eqFlash : Tab Byte := []
  net     : NetPart := {}
  route   : RoutePart := {}
  sw      : SwitchPart := {}
  sched   : Tab SchedPart := []
  samples : Tab Sample := []
  rel     : RelPart := {}
  sec     : SecPart := {}
  assay   : AssayPart := {}
  mem     : MemPart := {}
  pour    : PourPart := {}
  layer   : LayerPart := {}
  upd     : UpdPart := {}
  det     : DetPart := {}
  deriving DecidableEq, Repr

/-- The state right after standby power-on (R399), before main power: every field at the value the manual states for
reset, or the value that log entries 3 to 5 name. -/
def State.reset : State := {}

end Sys2Proof.Machine
end

