-- ==== Sys2Proof/Machine/Ops.lean ====
section
/-! DEFINITION. The named operations every command uses: registers, time, outputs, free values, the Shakeout writer and
the two alert pins. -/
namespace Sys2Proof.Machine

/-- What a command answers. -/
abbrev Out := Host.Outcome State Fault Refusal

/-- An event about a unit: `t` when the unit exists. There is no link 52, no Bay 100 and so on (R10, R13, R14), so an event
that names one cannot arise, and nothing happens (log entry 115). -/
def onUnit (ok : Bool) (s t : State) : Out := .next (if ok then t else s)

/-! ### Registers (one home for every register field that is not computed from other state) -/

/-- The stored value of instance `i` of a field. -/
def reg (f : Fld) (i : Nat) (s : State) : Nat := tabGet (fldReset f) s.csr (regKey f i)

/-- Store a value in a field, cut to its width. -/
def setReg (f : Fld) (i v : Nat) (s : State) : State :=
  { s with csr := tabSet (fldReset f) s.csr (regKey f i) (v % 2 ^ fldWidth f) }

/-- Add to a counter, which saturates at its largest value. -/
def addReg (f : Fld) (i k : Nat) (s : State) : State :=
  setReg f i (min (reg f i s + k) (2 ^ fldWidth f - 1)) s

/-- Count one event. -/
def incReg (f : Fld) (i : Nat) (s : State) : State := addReg f i 1 s

/-- A one-bit field as a truth value. -/
def flag (f : Fld) (i : Nat) (s : State) : Bool := reg f i s = 1

/-- The registers without the fields whose numbers lie in [lo, hi). -/
def clearSpan (span : Nat × Nat) (t : Tab Nat) : Tab Nat :=
  t.filter (fun e => !(decide (span.1 ≤ e.1 % 512) && decide (e.1 % 512 < span.2)))

/-- Return every field of the listed blocks to its reset value. -/
def resetBlocks (blocks : List Nat) (s : State) : State :=
  { s with csr := blocks.foldl (fun t b => clearSpan (fldSpan b) t) s.csr }

/-- Return one field, in every instance, to its reset value. -/
def resetFld (f : Fld) (s : State) : State :=
  { s with csr := s.csr.filter (fun e => e.1 % 512 ≠ f.code) }

/-- Return the fields of one instance to their reset values. -/
def resetInst (fs : List Fld) (i : Nat) (s : State) : State :=
  fs.foldl (fun s f => setReg f i (fldReset f) s) s

/-- A Flask has performed an operation: its flags accumulate in the Flask's arithmetic status register (R57). -/
def raiseFlags (bay flask : Nat) (fl : AFlags) (s : State) : State :=
  let put := fun (f : Fld) (b : Bool) (s : State) => if b then setReg f (100 * bay + flask) 1 s else s
  put .baOvf fl.ovf (put .baNanOut fl.nanOut (put .baFlushIn fl.flushIn (put .baFlushOut fl.flushOut s)))

/-! ### Time -/

/-- Nanoseconds pass: the time base and its wrap count advance with them (R380). -/
def advance (ns : Nat) (s : State) : State :=
  let b := s.time.base + ns
  { s with time := { s.time with now := s.time.now + ns, base := b % 2 ^ 48,
                                 wrap := (s.time.wrap + b / 2 ^ 48) % 2 ^ 16 } }

/-- Time passes up to a due moment; nothing where it is already past. -/
def advanceTo (t : Nat) (s : State) : State := advance (t - s.time.now) s

/-- The period that an OSC cycle adds to the time base, in units of 0.0000001 ns: 10 ns, trimmed by TRIM (R380, R381, R405). -/
def oscPeriod (s : State) : Nat :=
  let v := reg .ckTrim 0 s
  if v < 2 ^ 23 then 100000000 + v else 100000000 + v - 2 ^ 24

/-- One cycle of OSC passes: whole nanoseconds are counted, and the rest of the period stays for the next cycle (R380). -/
def oscCycle (s : State) : State :=
  let p := s.time.frac + oscPeriod s
  let s := advance (p / 10000000) s
  { s with time := { s.time with frac := p % 10000000 } }

/-- The time base (R380). -/
def timeBase (s : State) : Nat := s.time.base

/-- SCLK cycles since standby power-on (R416): 32,768 per second. -/
def sclkCount (s : State) : Nat := ((s.time.now - s.power.standbyAt) * 32768 / 1000000000) % 2 ^ 32

/-- The 64-bit time of a Shakeout entry (R380). -/
def time64 (s : State) : Nat := s.time.wrap * 2 ^ 48 + s.time.base

/-! ### Outputs and free values -/

/-- Send something out of the block. -/
def emit (o : OutMsg) (s : State) : State := { s with out := s.out ++ [o] }

/-- Send a message of class 6 or 7 to each of several devices; the manual gives these messages no layout (R256; log entry 129). -/
def emitCtl (devices : List Nat) (k : CtlKind) (fields : List Nat) (body : List Byte) (s : State) : State :=
  devices.foldl (fun s d => emit (.ctl d k fields body) s) s

/-- The next free value: an open value of the manual, about which nothing is known. -/
def freeNat (s : State) : Nat := Config.freeValue s.freeCtr

/-- The free value is used up. -/
def useFree (s : State) : State := { s with freeCtr := s.freeCtr + 1 }

/-- An operation performed by some Flask of some of the listed Bays: the manual does not say which, so a free value names it
(R22: placement never changes a bit; log entry 123). -/
def raiseSomewhere (bays : List Nat) (fl : AFlags) (s : State) : State :=
  if fl = noFlags ∨ bays = [] then s
  else raiseFlags (bays.getD (freeNat s % bays.length) 0) (freeNat s / bays.length % 100) fl (useFree s)

/-! ### The Shakeout record (R416, R417) -/

/-- Severities of R420. -/
def sevI : Nat := 0
def sevW : Nat := 1
def sevF : Nat := 2

/-- Present an event to the standby writer: it is queued, or counted lost when the queue of 64 is full (R417). -/
def logEvent (code sev blk inst : Nat) (args : List Byte) (s : State) : State :=
  if s.rel.writer.length < 64 then
    { s with rel := { s.rel with writer := s.rel.writer ++
        [{ seq := 0, time := time64 s, sclk := sclkCount s, code := code, blk := blk, inst := inst,
           args := padTo 16 args, sev := sev }] } }
  else incReg .shLostCnt 0 s

/-- Append a completed swap of a Flask, frame, bank or PLL to the Riser history, at most 65,536 records of 16 bytes (R410; the
layout is log entry 44): kind, unit, old and new physical, and the low 7 bytes of the time. -/
def addHistory (kind unit old new : Nat) (s : State) : State :=
  if s.rel.history.length ≥ 65536 then s
  else
    let b := leBytes 1 kind ++ leBytes 4 unit ++ leBytes 2 old ++ leBytes 2 new ++ leBytes 7 (time64 s)
    { s with rel := { s.rel with history := s.rel.history ++ [b] } }

/-! ### ALERT_N and FAULT_N (R421) -/

/-- ALERT_N is asserted (low) while a brownout warning, a throttle or a REFCLK loss is in force (R421 path 4). -/
def driveAlert (s : State) : State :=
  { s with pins := { s.pins with alertN :=
      !(flag .pwWarning 0 s || flag .pwThrottle 0 s || s.power.refLossAt.isSome) } }

/-- FAULT_N is asserted (R418). -/
def assertFault (s : State) : State := { s with pins := { s.pins with faultN := false } }

/-! ### Tables of the state -/

/-- One link's state. -/
def link (l : Nat) (s : State) : LinkPart := tabGet {} s.links l

/-- Change one link's state. -/
def modLink (l : Nat) (f : LinkPart → LinkPart) (s : State) : State :=
  { s with links := tabSet {} s.links l (f (link l s)) }

/-- One port's scheduler. -/
def schedOf (p : Nat) (s : State) : SchedPart := tabGet {} s.sched p

/-- Change one port's scheduler. -/
def modSched (p : Nat) (f : SchedPart → SchedPart) (s : State) : State :=
  { s with sched := tabSet {} s.sched p (f (schedOf p s)) }

/-- One Tundish half. -/
def half (d : Nat) (s : State) : TundishHalf := if d = 0 then s.sw.x0 else s.sw.x1

/-- Change one Tundish half. -/
def modHalf (d : Nat) (f : TundishHalf → TundishHalf) (s : State) : State :=
  if d = 0 then { s with sw := { s.sw with x0 := f s.sw.x0 } } else { s with sw := { s.sw with x1 := f s.sw.x1 } }

/-! ### Errors within a window (R224, R305, R409) -/

/-- Note errors of a unit; those older than `span` no longer count. -/
def noteErrs (unit n span now : Nat) (l : List (Nat × Nat × Nat)) : List (Nat × Nat × Nat) :=
  (l.filter fun e => decide (now < e.2.1 + span)) ++ (if n = 0 then [] else [(unit, now, n)])

/-- Errors of a unit in the last `span` nanoseconds. -/
def errsSince (l : List (Nat × Nat × Nat)) (unit span now : Nat) : Nat :=
  sumNat ((l.filter fun e => e.1 = unit && decide (now < e.2.1 + span)).map fun e => e.2.2)

/-- The windows of R224 and of R305: 1 s. -/
def spanLane : Nat := 1000000000
def spanBank : Nat := 1000000000

/-! ### Gating (R366): a block's epoch counts each time it is gated or ungated -/

/-- Epoch keys: links 0 to 51, Bays from 100, switch halves from 300, stacks from 400. -/
def epochBay (b : Nat) : Nat := 100 + b
def epochHalf (d : Nat) : Nat := 300 + d
def epochStack (st : Nat) : Nat := 400 + st

/-- A block is gated or ungated. -/
def bumpEpoch (k : Nat) (s : State) : State :=
  { s with fore := { s.fore with gateEpoch := tabSet 0 s.fore.gateEpoch k ((tabGet 0 s.fore.gateEpoch k + 1) % 65536) } }

/-- A link's state changes; its blocks are gated while it is OFF (R364). -/
def setLinkState (l st : Nat) (s : State) : State :=
  let s := if decide (reg .lkState l s = 0) != decide (st = 0) then bumpEpoch l s else s
  setReg .lkState l st s

/-- A Bay's state changes; its window is gated in every Banked state (R392). -/
def setBayState (b st : Nat) (s : State) : State :=
  let s := if decide (reg .pwBayState b s = 0) != decide (st = 0) then bumpEpoch (epochBay b) s else s
  setReg .pwBayState b st s

/-- Apply a change for every element of a list. -/
def forAll {α : Type} (l : List α) (f : α → State → State) (s : State) : State := l.foldl (fun s x => f x s) s

/-- Raise flags and counts in every open Ihlil context (R332, R340). -/
def markCtxs (f : DetCtx → DetCtx) (s : State) : State := { s with det := { s.det with ctxs := s.det.ctxs.map f } }

/-- Flag bits of R340. -/
def detBrownout : Nat := 2
def detThrottle : Nat := 4
def detRiser : Nat := 8
def detFwSwitch : Nat := 16
def detMigration : Nat := 32
def detRoute : Nat := 64
def detFence : Nat := 128
def detBreach : Nat := 256
def detResumed : Nat := 512
def detUnhashed : Nat := 1024

/-- Raise a timing flag, and TIMING_NR with flags 1 to 8 (R333, R340). -/
def markFlag (bit : Nat) (s : State) : State :=
  markCtxs (fun c => { c with flags := c.flags ||| bit ||| (if bit < 512 then 1 else 0) }) s

/-- A reserved link is taken for lack of another (R278, R332), counted by the die of the link. -/
def noteBreach (d : Nat) (s : State) : State := markFlag detBreach (incReg .rtResBreachCnt d s)

/-- Corrected ECC errors, of HBM or of a packet's cells, enter the counts of open records (R332). -/
def noteCorrected (n : Nat) (s : State) : State := markCtxs (fun c => { c with ecc := c.ecc + n }) s

end Sys2Proof.Machine
end

