-- ==== Sys2Proof/Machine/Operands.lean ====
section
/-! DEFINITION. Operand forms: the header cell of R232, ACK and NAK in packet and block form (R241, R242), control blocks
(R211), endpoint addresses (R194), and the packed parameters of R471. -/
namespace Sys2Proof.Machine

/-! ### Endpoint addresses (R194) -/

/-- Device index of an endpoint address: group × 16 + member. -/
def devOf (a : Nat) : Nat := a / 64
/-- Port of an endpoint address. -/
def portOf (a : Nat) : Nat := a % 64
/-- Group of a device index. -/
def groupOf (d : Nat) : Nat := d / 16
/-- Member of a device index. -/
def memberOf (d : Nat) : Nat := d % 16
/-- The endpoint address of a port of a device. -/
def epOf (dev port : Nat) : Nat := dev * 64 + port

/-- This device's group number; 0 while none is in force (log entry 13). -/
def ownGroup (s : State) : Nat := s.coord.group.getD 0
/-- This device's index. -/
def ownDev (s : State) : Nat := ownGroup s * 16 + s.coord.member
/-- The endpoint address of one of this device's ports. -/
def ownEp (port : Nat) (s : State) : Nat := epOf (ownDev s) port
/-- Coordinates are set: a group number and a group count are in force (R193). -/
def coordsSet (s : State) : Bool := s.coord.group.isSome && s.coord.count.isSome

/-- Link classes of R186. -/
def isAccel (l : Nat) : Bool := decide (l < 24)
def isIntra (l : Nat) : Bool := decide (24 ≤ l) && decide (l < 39)
def isGlobal (l : Nat) : Bool := decide (39 ≤ l) && decide (l < 48)
def isService (l : Nat) : Bool := decide (48 ≤ l) && decide (l < 52)
def isFabric (l : Nat) : Bool := decide (24 ≤ l) && decide (l < 48)
/-- A link to an endpoint: accelerator or service. -/
def isEdge (l : Nat) : Bool := isAccel l || isService l

/-! ### Packet types (R234) -/

def tyData : Nat := 0x01
def tyPut : Nat := 0x02
def tyGet : Nat := 0x03
def tyGetReply : Nat := 0x04
def tyAtomic : Nat := 0x05
def tyContrib : Nat := 0x06
def tyResult : Nat := 0x07
def tyChunkMark : Nat := 0x08
def tyAck : Nat := 0x09
def tyNak : Nat := 0x0A
def tyCmd : Nat := 0x0B
def tyCmdReply : Nat := 0x0C
def tyMgmt : Nat := 0x0D

/-- A type of R234. -/
def typeDefined (t : Nat) : Bool := decide (1 ≤ t) && decide (t ≤ 0x0D)

/-! ### The header cell (R231, R232) -/

/-- Payload cells of a packet. -/
def payloadCells (p : Packet) : Nat := (p.payload.length + 39) / 40

/-- Cells of a packet, header included. -/
def cellsOf (p : Packet) : Nat := 1 + payloadCells p

/-- Bytes in the last payload cell; 0 when there is no payload. -/
def lastBytes (p : Packet) : Nat := p.payload.length - (payloadCells p - 1) * 40

/-- Header bits [303:0] of a packet. -/
def headerBits (p : Packet) : Nat :=
  p.typ % 2 ^ 8 + b2n p.last * 2 ^ 8 + b2n p.mcast * 2 ^ 9 + b2n p.pinned * 2 ^ 10 + b2n p.digest * 2 ^ 11
  + b2n p.sos * 2 ^ 12 + b2n p.fwd * 2 ^ 13 + bitsOf p.resv 1 0 * 2 ^ 14 + p.cls % 8 * 2 ^ 16
  + bitsOf p.resv 6 2 * 2 ^ 19 + p.dst % 2 ^ 18 * 2 ^ 24 + p.src % 2 ^ 18 * 2 ^ 42 + bitsOf p.resv 10 7 * 2 ^ 60
  + p.stream % 2 ^ 20 * 2 ^ 64 + p.seq % 2 ^ 24 * 2 ^ 84 + p.heat % 2 ^ 32 * 2 ^ 108
  + payloadCells p % 2 ^ 7 * 2 ^ 140 + lastBytes p % 2 ^ 6 * 2 ^ 147 + bitsOf p.resv 17 11 * 2 ^ 153
  + p.addr % 2 ^ 64 * 2 ^ 160 + p.pcrc % 2 ^ 32 * 2 ^ 224 + p.args % 2 ^ 32 * 2 ^ 256 + p.route % 2 ^ 16 * 2 ^ 288

/-- The 40 header bytes of a packet, header CRC included (R236, R238: recomputed after every rewrite). -/
def encodeHeader (p : Packet) : List Byte :=
  let b := leBytes 38 (headerBits p)
  b ++ leBytes 2 (crc16 b)

/-- The header fields of 40 header bytes, with the payload bytes given (R232). -/
def decodeHeader (h : List Byte) (payload : List Byte) : Packet :=
  let v := leNat h
  { typ := bitsOf v 7 0, last := bitAt v 8, mcast := bitAt v 9, pinned := bitAt v 10, digest := bitAt v 11,
    sos := bitAt v 12, fwd := bitAt v 13, cls := bitsOf v 18 16, dst := bitsOf v 41 24, src := bitsOf v 59 42,
    stream := bitsOf v 83 64, seq := bitsOf v 107 84, heat := bitsOf v 139 108, addr := bitsOf v 223 160,
    args := bitsOf v 287 256, route := bitsOf v 303 288, pcrc := bitsOf v 255 224,
    resv := bitsOf v 15 14 + bitsOf v 23 19 * 4 + bitsOf v 63 60 * 128 + bitsOf v 159 153 * 2048,
    payload := payload }

/-- The header CRC of 40 header bytes is good (R236). -/
def headerCrcGood (h : List Byte) : Bool := h.length = 40 && crc16 (h.take 38) = leNat (h.drop 38)

/-- Payload-cell count and last-bytes field of a header. -/
def hdrCells (h : List Byte) : Nat := bitsOf (leNat h) 146 140
def hdrLast (h : List Byte) : Nat := bitsOf (leNat h) 152 147

/-- The framing rule of R233: at most 64 payload cells, as many as were framed, and a last-bytes field in range. -/
def framingGood (f : Frame) : Bool :=
  let c := hdrCells f.hdr
  let l := hdrLast f.hdr
  decide (c ≤ 64) && decide (f.cells.length = 40 * c) && (if c = 0 then l = 0 else decide (1 ≤ l) && decide (l ≤ 40))

/-- The packet a frame carries: payload bytes after the length are left out (R231). -/
def frameToPacket (f : Frame) : Packet :=
  let c := hdrCells f.hdr
  decodeHeader f.hdr (f.cells.take (if c = 0 then 0 else (c - 1) * 40 + hdrLast f.hdr))

/-- The payload CRC of a packet is good (R237). -/
def payloadCrcGood (p : Packet) : Bool := p.pcrc = crc32c p.payload

/-- A packet with the payload CRC its payload has. -/
def sealPacket (p : Packet) : Packet := { p with pcrc := crc32c p.payload }

/-! ### ACK and NAK (R241, R242) -/

/-- The fabric ACK of a packet from `src`, covering `count` sequence numbers up to `seq`. -/
def mkAck (p : Packet) (src seq count : Nat) : Packet :=
  { typ := tyAck, dst := p.src, src := src, stream := p.stream, seq := seq, heat := p.heat, cls := p.cls,
    args := count - 1 }

/-- The fabric NAK of a packet from `src` with a cause. -/
def mkNak (p : Packet) (src cause : Nat) : Packet :=
  { typ := tyNak, dst := p.src, src := src, stream := p.stream, seq := p.seq, heat := p.heat, cls := p.cls,
    args := cause }

/-- The 16 bytes of a control block from its first 14 (R211). -/
def controlBlock (body : List Byte) : List Byte := let b := padTo 14 body; b ++ leBytes 2 (crc16 b)

/-- A fabric ACK or NAK as the block an endpoint receives (R242). -/
def answerBlock (p : Packet) : List Byte :=
  if p.typ = tyAck then
    controlBlock ([0x02#8] ++ leBytes 3 (p.src % 2 ^ 18) ++ leBytes 3 (p.stream % 2 ^ 20) ++ leBytes 3 p.seq
      ++ leBytes 1 (p.args % 256))
  else
    controlBlock ([0x03#8] ++ leBytes 3 (p.src % 2 ^ 18) ++ leBytes 3 (p.stream % 2 ^ 20) ++ leBytes 3 p.seq
      ++ leBytes 2 (p.args % 65536))

/-! ### Statuses and causes (R243, R360) -/

def stDone : Nat := 0x0000
def stAccepted : Nat := 0x0001
def stDoneFenced : Nat := 0x0002
def stBadOpcode : Nat := 0x0100
def stBadParam : Nat := 0x0101
def stBadLength : Nat := 0x0102
def stBadState : Nat := 0x0103
def stNoResource : Nat := 0x0104
def stDenied : Nat := 0x0105
def stDeadlineMissed : Nat := 0x0200
def stMismatch : Nat := 0x0201
def stMemberFenced : Nat := 0x0202
def stDataLost : Nat := 0x0203
def stPoliced : Nat := 0x0204
def stCableMismatch : Nat := 0x0205
def stInternalFault : Nat := 0x0300
def nakDamaged : Nat := 0x0400
def nakNoStream : Nat := 0x0401
def nakGapTimeout : Nat := 0x0402

/-- A cause on which the source re-sends and the packet is not delivered (R240). -/
def resendCause (c : Nat) : Bool := c = stBadState || c = stNoResource

/-! ### Packed parameters (R471) -/

/-- Cut a byte string into fields of the given widths; none when its length is not their sum. -/
def takeFields : List Nat → List Byte → Option (List Nat)
  | [], b => if b = [] then some [] else none
  | w :: r, b => if b.length < w then none else
    match takeFields r (b.drop w) with
    | some l => some (leNat (b.take w) :: l)
    | none => none

/-- Cut fields of the given widths from the front; the rest follows. -/
def takeFront : List Nat → List Byte → Option (List Nat × List Byte)
  | [], b => some ([], b)
  | w :: r, b => if b.length < w then none else
    match takeFront r (b.drop w) with
    | some (l, t) => some (leNat (b.take w) :: l, t)
    | none => none

/-- A byte string as a list of `w`-byte numbers; none when its length is no multiple of `w`. -/
def takeList (w : Nat) (b : List Byte) : Option (List Nat) :=
  if w = 0 ∨ b.length % w ≠ 0 then none else some ((chunksOf w (b.length / w) b).map leNat)

/-- Values packed in the given widths. -/
def packFields : List (Nat × Nat) → List Byte
  | [] => []
  | (w, v) :: r => leBytes w v ++ packFields r

end Sys2Proof.Machine
end

