-- ==== Sys2Proof/Machine/Coding.lean ====
section
/-! DEFINITION. The line of a link: the 8b/10b code with its running disparity (R207), columns and special symbols (R208, R209),
where markers stand (R210), training sets (R216) and which contact carries which lane (R224, R226). The manual names the 8b/10b
code and takes its tables from outside (PRESUMED, log entry 127). -/
namespace Sys2Proof.Machine

/-! ### The 8b/10b code (R207)

A code group is a 10-bit number, code bit a its bit 0 and code bit j its bit 9, so bit 0 is transmitted first. -/

/-- A symbol: a data byte D.x.y or a special symbol K.x.y, each named by the byte 32 · y + x. -/
inductive Sym where
  | d (byte : Nat)
  | k (byte : Nat)
  deriving DecidableEq, Repr

/-- Code bits abcdei of D.x at negative disparity, a as bit 0. -/
def code6 (x : Nat) : Nat :=
  [57, 46, 45, 35, 43, 37, 38, 7, 39, 41, 42, 11, 44, 13, 14, 58, 54, 49, 50, 19, 52, 21, 22, 23, 51, 25, 26, 27, 28, 29,
   30, 53].getD x 0

/-- Code bits abcdei of K28 at negative disparity. -/
def code6K28 : Nat := 60

/-- Code bits fghj of D.x.y at negative disparity, f as bit 0. -/
def code4 (y : Nat) : Nat := [13, 9, 10, 3, 11, 5, 6, 7].getD y 0

/-- Code bits fghj of the special symbols at negative disparity. -/
def code4K (y : Nat) : Nat := [13, 6, 5, 3, 11, 10, 9, 14].getD y 0

/-- The alternate fghj of D.x.7, which keeps runs short. -/
def code4Alt : Nat := 14

/-- The disparity after a sub-block of `w` bits: positive after more ones than zeros, negative after fewer, else as before. -/
def rdAfter (w code : Nat) (rd : Bool) : Bool :=
  let n := popCount w code
  if 2 * n > w then true else if 2 * n < w then false else rd

/-- A code of `w` bits for the disparity in force: its complement at positive disparity where the code is unbalanced, or where it
is one of the balanced pairs (D.7 and D.x.3). -/
def forRd (w code : Nat) (pair rd : Bool) : Nat :=
  if rd && (pair || decide (2 * popCount w code ≠ w)) then 2 ^ w - 1 - code else code

/-- The six-bit part of a symbol. -/
def enc6 (m : Sym) (rd : Bool) : Nat :=
  match m with
  | .d b => forRd 6 (code6 (b % 32)) (b % 32 = 7) rd
  | .k b => forRd 6 (if b % 32 = 28 then code6K28 else code6 (b % 32)) false rd

/-- D.x.7 takes its alternate form at this disparity after the six-bit part. -/
def takesAlt (x : Nat) (rd : Bool) : Bool := if rd then x = 11 || x = 13 || x = 14 else x = 17 || x = 18 || x = 20

/-- The four-bit part of a symbol, at the disparity after its six-bit part. -/
def enc4 (m : Sym) (rd : Bool) : Nat :=
  match m with
  | .d b =>
    if b / 32 = 7 ∧ takesAlt (b % 32) rd then forRd 4 code4Alt false rd else forRd 4 (code4 (b / 32)) (b / 32 = 3) rd
  | .k b => forRd 4 (code4K (b / 32)) true rd

/-- The code group of a symbol at a running disparity (true: positive), and the disparity after it. -/
def encodeSym (m : Sym) (rd : Bool) : Nat × Bool :=
  let a := enc6 m rd
  let rd := rdAfter 6 a rd
  let b := enc4 m rd
  (a + 64 * b, rdAfter 4 b rd)

/-- The twelve special symbols of the code. -/
def specialSyms : List Sym := ([28, 60, 92, 124, 156, 188, 220, 252, 247, 251, 253, 254] : List Nat).map .k

/-- The symbol of a received group at a running disparity; none for a code violation or a disparity error. -/
def decodeSym (code : Nat) (rd : Bool) : Option Sym :=
  match specialSyms.find? fun m => (encodeSym m rd).1 = code with
  | some m => some m
  | none =>
    ((List.range 32).find? fun x => enc6 (.d x) rd = code % 64).bind fun x =>
      (((List.range 8).map fun y => Sym.d (32 * y + x)).find? fun m => (encodeSym m rd).1 = code)

/-- The disparity a receiver holds after a group, good or bad. -/
def rdOfGroup (code : Nat) (rd : Bool) : Bool := rdAfter 4 (code / 64) (rdAfter 6 (code % 64) rd)

/-! ### Columns (R208, R209) -/

def k285 : Nat := 0xBC
def k281 : Nat := 0x3C
def k277 : Nat := 0xFB
def k297 : Nat := 0xFD
def k307 : Nat := 0xFE
def k283 : Nat := 0x7C
def k287 : Nat := 0xFC

/-- The special symbols the GN-52 uses (R209). -/
def usedSpecials : List Nat := [k285, k281, k277, k297, k307, k283, k287]

/-- One column: the symbols of lanes D0 to D7. -/
abbrev Column := List Sym

/-- A special symbol as a whole column. -/
def kColumn (b : Nat) : Column := List.replicate 8 (.k b)

/-- Bytes as data columns: byte b on lane b mod 8 of column b / 8. -/
def dataColumns (b : List Byte) : List Column :=
  (chunksOf 8 ((b.length + 7) / 8) b).map fun c => (padTo 8 c).map fun x => .d x.toNat

/-- A packet: a start column, the columns of its cells, an end or an abort column. -/
def packetColumns (p : Packet) (aborted : Bool) : List Column :=
  [kColumn k277] ++ dataColumns (encodeHeader p ++ padTo (40 * payloadCells p) p.payload)
    ++ [kColumn (if aborted then k307 else k297)]

/-- A control block (R211). -/
def blockColumns (body : List Byte) : List Column := [kColumn k283] ++ dataColumns (padTo 16 body)

/-- A start-of-frame marker (R227). -/
def sofColumns (frame : Nat) : List Column := [kColumn k287] ++ dataColumns (leBytes 6 frame ++ [0#8, 0#8])

/-- Columns with the markers of R210: one stands at every index that is a multiple of 4,096, `at'` being the next index. -/
def withMarkers : Nat → List Column → List Column
  | _, [] => []
  | at', c :: r => if at' % 4096 = 0 then kColumn k281 :: c :: withMarkers (at' + 2) r else c :: withMarkers (at' + 1) r

/-- What the columns of the eight lanes are to a receiver: fine, or one to be counted as a violation (R209): an unused special
symbol, special and data symbols mixed, two special symbols, K28.7 on a link that is no service link. -/
def columnBad (service : Bool) (c : Column) : Bool :=
  match c with
  | .d _ :: r => r.any fun m => match m with | .d _ => false | .k _ => true
  | .k b :: r => r.any (fun m => m ≠ .k b) || !usedSpecials.contains b || (b = k287 && !service)
  | [] => false

/-! ### Lanes and contacts (R216, R224, R226) -/

/-- No lane of a direction is replaced by SP. -/
def noSwap : Nat := 15

/-- The lane ID a contact carries: a swap moves lane x to SP and leaves contact x unused (R216, R226). -/
def contactId (swap k : Nat) : Nat := if swap = noSwap then k else if k = 8 then swap else if k = swap then 15 else k

/-- The symbol of a contact in a column: its lane's; on an idle SP a copy of a marker, else K28.5; none on an unused contact. -/
def contactSym (swap : Nat) (c : Column) (k : Nat) : Option Sym :=
  let id := contactId swap k
  if id = 15 then none
  else if id = 8 then some (.k (if c = kColumn k281 then k281 else k285))
  else some (c.getD id (.k k285))

/-- The disparities of the nine contacts (bit k set: positive) after symbols were sent on them. -/
def rdStep (sym : Nat → Option Sym) (rd : Nat) : Nat :=
  (List.range 9).foldl (fun r k => match sym k with
    | some m => putBit r k (encodeSym m (rd.testBit k)).2
    | none => r) rd

/-- The groups nine contacts carry in a column, from the disparities in force; none on an unused one. -/
def contactGroups (swap : Nat) (c : Column) (rd : Nat) : List (Option Nat) :=
  (List.range 9).map fun k => (contactSym swap c k).map fun m => (encodeSym m (rd.testBit k)).1

/-- The disparities of the nine receive positions after columns, in straight or reversed order. -/
def rdArrived (rev : Bool) (swap : Nat) (l : List Column) (rd : Nat) : Nat :=
  l.foldl (fun r c => rdStep (fun p => contactSym swap c (if rev then 8 - p else p)) r) rd

/-- The disparities after columns. -/
def rdColumns (swap : Nat) (l : List Column) (rd : Nat) : Nat := l.foldl (fun r c => rdStep (contactSym swap c) r) rd

/-- A training set of a contact: 16 symbols (R216). -/
def trainingSet (id rate : Nat) (ts2 : Bool) : List Sym :=
  [.k k285, .d id, .d rate, .d (if ts2 then 2 else 1)] ++ List.replicate 12 (.d 0xB5)

/-- Disparities of nine contacts after one training set on each. -/
def rdTraining (sets : List (List Sym)) (rd : Nat) : Nat :=
  (List.range 16).foldl (fun r i => rdStep (fun k => (sets.getD k [])[i]?) r) rd

/-! ### Sending on a link -/

/-- A number of idle and marker columns toggles every contact in use once each (each of K28.5 and K28.1 is unbalanced). -/
def rdIdle (swap n rd : Nat) : Nat := if n % 2 = 0 then rd else rdStep (contactSym swap (kColumn k285)) rd

/-- Change what is known of a link's transmitter. -/
def modLine (l : Nat) (f : LineOut → LineOut) (s : State) : State :=
  { s with net := { s.net with lines := tabSet {} s.net.lines l (f (tabGet {} s.net.lines l)) } }

/-- A message leaves on a link: its columns follow the idle columns that nothing else needed, whose number the model leaves
open (log entry 127), with the markers among them; every lane's disparity moves on. -/
def sendLine (l : Nat) (m : OutMsg) (cols : List Column) (s : State) : State :=
  let swap := reg .lkTxSwap l s
  let idle := Config.idleColumns l s.freeCtr
  emit m (modLine l (fun k =>
    let placed := withMarkers (k.col + idle) cols
    { rd := rdColumns swap placed (rdIdle swap idle k.rd), col := k.col + idle + placed.length }) (useFree s))

/-- A packet, a control block and a start-of-frame marker leave. -/
def sendPacket (l : Nat) (p : Packet) (aborted : Bool) (s : State) : State :=
  sendLine l (.packet l p aborted) (packetColumns p aborted) s
def sendBlock (l : Nat) (body : List Byte) (s : State) : State := sendLine l (.block l body) (blockColumns body) s
def sendSof (l frame : Nat) (s : State) : State := sendLine l (.sof l frame) (sofColumns frame) s

/-- The training sets of the nine contacts leave, over and over until the next change (R216); how many do is left open. -/
def sendTraining (l : Nat) (s : State) : State :=
  let swap := reg .lkTxSwap l s
  let rate := reg .lkRate l s
  let ts2 := (link l s).txTs2
  let sets := (List.range 9).map fun k => trainingSet (contactId swap k) rate ts2
  let even := Config.idleColumns l s.freeCtr % 2 = 0
  let s := modLine l (fun k => { k with rd := if even then k.rd else rdTraining sets k.rd }) (useFree s)
  emit (.training l (sets.map fun t => t.map fun m => match m with | .d b => b | .k b => 256 + b)) s

/-- Idle columns with markers replace the training sets (R217 step 5): the first column is a marker, number 0. -/
def startColumns (l : Nat) (s : State) : State :=
  if (link l s).txCols then s
  else modLine l (fun k => { k with col := 0 }) (modLink l (fun k => { k with txCols := true, txMarkerAt := s.time.now }) s)

/-! ### Receiving (R209, R212, R218) -/

/-- The position at which a lane arrives: straight or reversed order, SP in the place of a swapped lane. -/
def positionOf (rev : Bool) (swap lane : Nat) : Nat :=
  let k := if lane = swap then 8 else lane
  if rev then 8 - k else k

/-- A group as the receiver takes it after its polarity correction. -/
def uninvert (inv : Nat) (p code : Nat) : Nat := if inv.testBit p then 1023 - code % 1024 else code % 1024

/-- The positions whose group in a column is a code violation or a disparity error, and, where the column of the eight lanes is
to be counted as one, those of all eight lanes. -/
def columnViolations (service rev : Bool) (swap inv rd : Nat) (groups : List Nat) : List Nat :=
  let sym := fun p => decodeSym (uninvert inv p (groups.getD p 0)) (rd.testBit p)
  let unused := positionOf rev noSwap swap
  let code := (List.range 9).filter fun p => !(decide (swap < 8) && p = unused) && (sym p).isNone
  let lanes := (List.range 8).map (positionOf rev swap)
  let col := lanes.filterMap sym
  if columnBad service col then (List.range 9).filter fun p => code.contains p || lanes.contains p else code

/-- The disparities of the nine positions after a received column. -/
def rdReceived (inv rd : Nat) (groups : List Nat) : Nat :=
  (List.range 9).foldl (fun r p => putBit r p (rdOfGroup (uninvert inv p (groups.getD p 0)) (rd.testBit p))) rd

/-- Code violations at positions of a link are counted (R212), and noted for the window of R224. -/
def countViolations (l : Nat) (ps : List Nat) (s : State) : State :=
  ps.foldl (fun s p =>
    modLink l (fun k => { k with cvLog := noteErrs p 1 spanLane s.time.now k.cvLog }) (incReg .lkCvCnt (16 * l + p) s)) s

/-- A control block is taken: its CRC is good and its kind is listed (R211). -/
def blockGood (b : List Byte) : Bool :=
  b.length = 16 && crc16 (b.take 14) = fieldAt b 14 2 && ([0x01, 0x02, 0x03, 0x10, 0x11, 0x12] : List Nat).contains (fieldAt b 0 1)

end Sys2Proof.Machine
end

