-- ==== Sys2Proof/Machine/Topology.lean ====
section
/-! DEFINITION. Wiring of groups (R187 to R190), the slice table (R198, R199) and the checks a packet meets at an edge
link (R201, R202). -/
namespace Sys2Proof.Machine

/-- The far end of one of this device's links: a device and its link (R187, R189). -/
structure FarEnd where
  dev  : Nat
  link : Nat
  deriving DecidableEq, Repr

/-- The link by which member `a` reaches member `b` of its group (R187). -/
def intraLink (a b : Nat) : Nat := 23 + subMod b a 16

/-- Global links between each pair of groups of a machine of `g` groups (R189). -/
def pairLinks (g : Nat) : Nat := if g ≤ 1 then 0 else 144 / (g - 1)

/-- The slot joined to slot `k` of group `grp` in a machine of `g` groups: its group and slot (R189). -/
def slotPeer (g grp k : Nat) : Option (Nat × Nat) :=
  if g ≤ 1 ∨ k ≥ pairLinks g * (g - 1) then none
  else
    let j := k / (g - 1)
    let q := k % (g - 1)
    some ((grp + q + 1) % g, j * (g - 1) + (g - 2 - q))

/-- The far end the wiring rules give a link of device (grp, member) in a machine of `g` groups; none for an edge link or
an unused global slot. -/
def wiredTo (g grp member l : Nat) : Option FarEnd :=
  if isIntra l then
    let d := l - 23
    some { dev := grp * 16 + (member + d) % 16, link := 39 - d }
  else if isGlobal l then
    match slotPeer g grp ((l - 39) * 16 + member) with
    | some (g', k') => some { dev := g' * 16 + k' % 16, link := 39 + k' / 16 }
    | none => none
  else none

/-- The count a global link is wired by: the one with which it last passed R196, else the one in force (R197). -/
def linkCount (l : Nat) (s : State) : Nat :=
  let c := (link l s).expectCnt
  if c = 0 then s.coord.count.getD 1 else c

/-- The far end of one of this device's links. -/
def farEnd (l : Nat) (s : State) : Option FarEnd := wiredTo (linkCount l s) (ownGroup s) s.coord.member l

/-- The index and rail of the accelerator on link 6r + j of member m (R188). -/
def accelAt (m l : Nat) : Nat × Nat := (16 * (l % 6) + subMod m (4 * (l / 6)) 16, l / 6)

/-- The binding of a Heat on this device. -/
def bindOf (heat : Nat) (s : State) : Option Bind := s.coord.binds.find? (fun b => b.heat = heat)

/-- The groups of a slice (R198); the group field has 8 bits, and no slice holds a group above 144. -/
def inSlice (f c grp : Nat) : Bool := decide (grp < 145) && decide (subMod grp f 145 < c)

/-- Every group of a slice is below a count (R198). -/
def sliceBelow (f c cnt : Nat) : Bool := (List.range c).all (fun i => decide ((f + i) % 145 < cnt))

/-- The bit of an edge link in a link mask of R199. -/
def maskBit (l : Nat) : Nat := if l < 24 then l else l - 48 + 24

/-- An edge link may carry a Heat (R199). -/
def linkCarries (heat l : Nat) (s : State) : Bool :=
  match bindOf heat s with
  | some b => b.mask.testBit (maskBit l)
  | none => false

/-- A destination device lies in the Heat's slice. -/
def devInSlice (heat dev : Nat) (s : State) : Bool :=
  match bindOf heat s with
  | some b => inSlice b.f b.c (groupOf dev)
  | none => false

/-- What R201 and the entry rules of R235 and R252 decide for a packet entering on an edge link. -/
inductive Entry where
  | pass
  | spoof
  | nak (cause : Nat)
  deriving DecidableEq, Repr

/-- The checks of R201 in their order, then the class rule of R235 and the FWD rule of R252. -/
def entryCheck (l : Nat) (p : Packet) (s : State) : Entry :=
  if p.src ≠ ownEp l s then .spoof
  else if p.heat = 0 ∧ ¬ ((p.typ = tyCmd ∧ portOf p.dst = 56) ∨ p.typ = tyMgmt) then
    .nak stDenied
  else if p.mcast then .nak stDenied
  else if p.heat ≠ 0 ∧ ¬ linkCarries p.heat l s then .nak stDenied
  else if p.heat ≠ 0 ∧ ¬ devInSlice p.heat (devOf p.dst) s then .nak stDenied
  else if p.cls ≥ 5 then .nak stBadParam
  else if p.fwd then .nak stBadParam
  else .pass

/-- R202: a packet may leave on an edge link. -/
def exitAllowed (l : Nat) (p : Packet) (s : State) : Bool := p.heat = 0 || linkCarries p.heat l s

/-! ### The group count of a link (R190, R197) -/

/-- The count a link trains with: the pending one is adopted at the training. -/
def trainCount (l : Nat) (s : State) : Nat := ((link l s).pendingCnt).getD (linkCount l s)

/-- A link has a far end in a machine of `n` groups: an unused global slot has none (R190). -/
def usedUnder (n l : Nat) (s : State) : Bool :=
  !isGlobal l || !coordsSet s || (wiredTo n (ownGroup s) s.coord.member l).isSome

/-- A link has a far end to train with; an unused slot is held in power-down (R190). -/
def linkUsed (l : Nat) (s : State) : Bool := usedUnder (trainCount l s) l s

end Sys2Proof.Machine
end

