-- ==== Sys2Proof/Machine/Routing.lean ====
section
/-! DEFINITION. The next hop of a packet (R253 to R268) and multicast tree entries (R282 to R284). -/
namespace Sys2Proof.Machine

/-- The pin hash of R253: `mix` of the key of R249, the page number XORed in for a forwarded request (R252). -/
def pinHash (p : Packet) : Nat :=
  let key := p.src * 2 ^ 38 + p.dst * 2 ^ 20 + p.stream
  mix (if p.fwd then key ^^^ (p.addr >>> 21) else key)

/-! ### Route state (R258) -/

def rsVia (p : Packet) : Nat := bitsOf p.route 7 0
def rsNonmin (p : Packet) : Bool := bitAt p.route 8
def rsVent (p : Packet) : Bool := bitAt p.route 9
def rsDl (p : Packet) : Bool := bitAt p.route 10
def rsHops (p : Packet) : Nat := bitsOf p.route 13 11
def rsGhops (p : Packet) : Nat := bitsOf p.route 15 14

/-- The route state with its fields written. -/
def mkRoute (via : Nat) (nonmin vent dl : Bool) (hops ghops : Nat) : Nat :=
  via % 256 + b2n nonmin * 2 ^ 8 + b2n vent * 2 ^ 9 + b2n dl * 2 ^ 10 + min hops 7 * 2 ^ 11 + min ghops 3 * 2 ^ 14

/-! ### Route tables (R261) -/

/-- The bit of the pair of members a ≠ b in a group's map of 120 links. -/
def pairBit (a b : Nat) : Nat :=
  let x := min a b
  let y := max a b
  x * (31 - x) / 2 + (y - x - 1)

/-- The direct link between two members of a group is ACTIVE, as this device's tables say: its own links from its own
mask, the others from the group's map. -/
def directUp (t : RouteTables) (s : State) (grp a b : Nat) : Bool :=
  if a = b then false
  else if grp = ownGroup s ∧ a = s.coord.member then t.linkUp.testBit (intraLink a b)
  else if grp = ownGroup s ∧ b = s.coord.member then t.linkUp.testBit (intraLink b a)
  else (tabGet 0 t.intra grp).testBit (pairBit a b)

/-- A device is the destination or reaches it over a direct ACTIVE link of its group. -/
def nextTo (t : RouteTables) (s : State) (d dest : Nat) : Bool :=
  d = dest || (groupOf d = groupOf dest && directUp t s (groupOf dest) (memberOf d) (memberOf dest))

/-- This device's ACTIVE global links into a group. -/
def linksInto (t : RouteTables) (s : State) (grp : Nat) : List Nat :=
  (List.range 9).map (· + 39) |>.filter fun l =>
    t.linkUp.testBit l && (match farEnd l s with | some e => groupOf e.dev = grp | none => false)

/-- The links of R259: this device's ACTIVE global links whose far end is the destination or next to it. -/
def escLinks (t : RouteTables) (s : State) (dest : Nat) : List Nat :=
  (linksInto t s (groupOf dest)).filter fun l =>
    match farEnd l s with | some e => nextTo t s e.dev dest | none => false

/-- The slots of the ACTIVE global links by which a member of this group reaches the destination or a device next to it
(R189, R259). -/
def memberSlots (t : RouteTables) (s : State) (m dest : Nat) : List Nat :=
  ((List.range 9).filter fun i => (tabGet 0 t.globals m).testBit i &&
    match wiredTo (s.coord.count.getD 1) (ownGroup s) m (39 + i) with
    | some e => groupOf e.dev = groupOf dest && nextTo t s e.dev dest
    | none => false).map (· * 16 + m)

/-- Another member of this group is an escape point for a device of another group (R259). -/
def memberEsc (t : RouteTables) (s : State) (m dest : Nat) : Bool := memberSlots t s m dest ≠ []

/-- This device is an escape point for a destination device (R259). -/
def isEscape (t : RouteTables) (s : State) (dest : Nat) : Bool :=
  dest = ownDev s || (groupOf dest = ownGroup s && directUp t s (ownGroup s) s.coord.member (memberOf dest))
  || (groupOf dest ≠ ownGroup s && escLinks t s dest ≠ [])

/-- Members of this group, other than this device, that are escape points for a device of another group and that this
device reaches directly, by number. -/
def escMembers (t : RouteTables) (s : State) (dest : Nat) : List Nat :=
  (List.range 16).filter fun m => m ≠ s.coord.member && memberEsc t s m dest && directUp t s (ownGroup s) s.coord.member m

/-- A link is reserved against a Heat (R278). -/
def reservedAgainst (s : State) (heat l : Nat) : Bool :=
  match tabFind s.route.reserved l with
  | some h => h ≠ heat
  | none => false

/-- A link that is closing takes no new packet (R275 step 1). -/
def closingLink (s : State) (l : Nat) : Bool := (link l s).closing

/-- Links a plan or hop may take: not closing. -/
def openLinks (s : State) (ls : List Nat) : List Nat := ls.filter fun l => !closingLink s l

/-- The direct link to a member of this group is ACTIVE and takes new packets (R275 step 1). -/
def directOpen (t : RouteTables) (s : State) (b : Nat) : Bool :=
  directUp t s (ownGroup s) s.coord.member b && !closingLink s (intraLink s.coord.member b)

/-- The links to the relays of R267, lowest member first: members with both links ACTIVE. -/
def relayLinks (t : RouteTables) (s : State) (b : Nat) : List Nat :=
  ((List.range 16).filter fun m => m ≠ s.coord.member && m ≠ b && directOpen t s m && directUp t s (ownGroup s) m b).map
    (intraLink s.coord.member)

/-- Queue depth of a port and VC in cells (R300). -/
def queueDepth (s : State) (port vc : Nat) : Nat :=
  sumNat (s.sw.queues.map fun e => if e.2.port = port ∧ e.2.vc = vc then sumNat (e.2.ents.map (·.cells)) else 0)

/-- Rate weight of a link (R261). -/
def rateWeight (s : State) (l : Nat) : Nat := tabGet 4 s.route.active.weights l

/-- The weighted depth of R263. -/
def weightedDepth (s : State) (cls l : Nat) : Nat := queueDepth s l cls * 4 / rateWeight s l

/-- The least of a list by a measure, the earlier of equals. -/
def argMin (f : Nat → Nat) : List Nat → Option Nat
  | [] => none
  | x :: r => match argMin f r with
    | none => some x
    | some y => if f y < f x then some y else some x

/-- Where a packet goes next. -/
structure Hop where
  link   : Nat
  vc     : Nat
  route  : Nat
  breach : Bool
  deriving DecidableEq, Repr

/-- The first choice of a list that prefers links not reserved against the Heat; the flag says none was free (R278). -/
def preferFree (s : State) (heat : Nat) (ls : List Nat) : List Nat × Bool :=
  let free := ls.filter fun l => !reservedAgainst s heat l
  if free = [] then (ls, true) else (free, false)

/-- Element i mod n of a list. -/
def pickMod (ls : List Nat) (i : Nat) : Option Nat := if ls = [] then none else ls[i % ls.length]?

/-- The pinned path of R268: link and whether a reservation was breached. A relay is taken within one group only, at its first hop; a
packet that came by another hop takes the direct link. -/
def pinnedLink (t : RouteTables) (s : State) (p : Packet) : Option (Nat × Bool) :=
  let dest := devOf p.dst
  let h := pinHash p
  if groupOf dest = ownGroup s then
    if directOpen t s (memberOf dest) then
      let l := intraLink s.coord.member (memberOf dest)
      some (l, reservedAgainst s p.heat l)
    else if rsHops p > 0 then none
    else
      let (ms, br) := preferFree s p.heat (relayLinks t s (memberOf dest))
      ms.head?.map fun l => (l, br)
  else
    let (own, br) := preferFree s p.heat (openLinks s (escLinks t s dest))
    match pickMod own (h >>> 16) with
    | some l => some (l, br)
    | none =>
      let (ms, br) := preferFree s p.heat (openLinks s ((escMembers t s dest).map (intraLink s.coord.member)))
      match pickMod ms (h >>> 8) with
      | some l => some (l, br)
      | none => none

/-- The Vent route of R265. -/
def ventLink (t : RouteTables) (s : State) (p : Packet) : Option (Nat × Bool) :=
  let dest := devOf p.dst
  if groupOf dest = ownGroup s then
    if directOpen t s (memberOf dest) then
      let l := intraLink s.coord.member (memberOf dest)
      some (l, reservedAgainst s p.heat l)
    else none
  else
    let (own, br) := preferFree s p.heat (openLinks s (escLinks t s dest))
    (pickMod own (pinHash p >>> 16)).map fun l => (l, br)

/-- The ring route of R267: link, and whether the hop is the dateline. After the first hop no relay is taken. Among links of other members the
lowest slot of R189 is
taken; reserved links are avoided where another serves (R278). -/
def ringLink (t : RouteTables) (s : State) (p : Packet) : Option (Nat × Bool) :=
  let dest := devOf p.dst
  let m := s.coord.member
  let free := fun (ls : List Nat) => (preferFree s p.heat ls).1
  if groupOf dest = ownGroup s then
    if directOpen t s (memberOf dest) then some (intraLink m (memberOf dest), decide (rsHops p > 0))
    else if rsHops p > 0 then none
    else (free (relayLinks t s (memberOf dest))).head?.map fun l => (l, false)
  else
    match free (openLinks s (escLinks t s dest)) with
    | l :: _ => some (l, true)
    | [] =>
      let ls := free (openLinks s ((escMembers t s dest).map (intraLink m)))
      (argMin (fun l => (memberSlots t s ((m + (l - 23)) % 16) dest).foldl min 144) ls).map fun l => (l, false)

/-- Links that continue the minimal plan of R262 from this device: a direct link, a global link of R259, else a local
link to an escape point. -/
def minimalLinks (t : RouteTables) (s : State) (dest : Nat) : List Nat :=
  let m := s.coord.member
  if groupOf dest = ownGroup s then
    if directUp t s (ownGroup s) m (memberOf dest) then [intraLink m (memberOf dest)] else []
  else
    let own := escLinks t s dest
    if own ≠ [] then own else (escMembers t s dest).map (intraLink m)

/-- Links into an escape point of the destination's own group, for a packet that landed beside the destination. -/
def landedLinks (t : RouteTables) (s : State) (dest : Nat) : List Nat :=
  let m := s.coord.member
  if directOpen t s (memberOf dest) then [intraLink m (memberOf dest)] else relayLinks t s (memberOf dest)

/-- VIA where the path crosses no intermediate group (R258): a minimal one, or one within a group. -/
def viaNone : Nat := 0xFF

/-- Eligible intermediate members (within one group) or groups of a non-minimal plan (R262), with the links that start it: this
device's global links into the group, else local links to escape points for the destination (R260) that hold one. -/
def nonminChoices (t : RouteTables) (s : State) (heat dest : Nat) : List (Nat × List Nat) :=
  let m := s.coord.member
  let ok := fun l => !reservedAgainst s heat l && !closingLink s l
  if groupOf dest = ownGroup s then
    ((relayLinks t s (memberOf dest)).filter ok).map fun l => (viaNone, [l])
  else
    ((List.range (s.coord.count.getD 1)).filter fun g => g ≠ ownGroup s ∧ g ≠ groupOf dest).filterMap fun g =>
      let own := (linksInto t s g).filter ok
      let ls := if own ≠ [] then own else
        (((escMembers t s dest).filter fun x => (tabGet 0 t.members g).testBit x).map (intraLink m)).filter ok
      if ls = [] then none else some (g, ls)

/-- Hop counts of the two plans of R262, counted from the links that start them. -/
def minimalHops (t : RouteTables) (s : State) (dest : Nat) : Nat :=
  if groupOf dest = ownGroup s then 1
  else if (escLinks t s dest).any (fun l => match farEnd l s with | some e => e.dev = dest | none => false) then 1
  else if escLinks t s dest ≠ [] then 2
  else if (escMembers t s dest).any (fun m => (memberSlots t s m dest).any fun k =>
    match wiredTo (s.coord.count.getD 1) (ownGroup s) m (39 + k / 16) with | some e => e.dev = dest | none => false) then 2
  else 3

/-- The hops of a non-minimal plan that starts on link `l`: two global links with a local hop in each later group, and one
before them where `l` is local; within one group two. -/
def nonminHops (s : State) (dest l : Nat) : Nat :=
  if groupOf dest = ownGroup s then 2 else if isGlobal l then 4 else 5

/-- The route state after one more hop on link `l`. -/
def stepRoute (p : Packet) (via : Nat) (nonmin vent dl : Bool) (l : Nat) : Nat :=
  mkRoute via nonmin vent dl (rsHops p + 1) (rsGhops p + (if isGlobal l then 1 else 0))

/-- The adaptive choice among continuing links (R263): not reserved against the Heat, not closing, least weighted depth,
ties to the lower number. -/
def adaptiveLink (s : State) (p : Packet) (ls : List Nat) : Option Nat :=
  argMin (weightedDepth s p.cls) (ls.filter fun l => !reservedAgainst s p.heat l && !closingLink s l)

/-- The next hop of a packet that is not for this device. `first` is true at the first GN-52 of the path, where the plan
is chosen. None: no next hop exists, or HOPS would exceed 5 (R264). -/
def nextHop (first : Bool) (p : Packet) (s : State) : Option Hop :=
  let t := s.route.active
  let dest := devOf p.dst
  let hops := if first then 0 else rsHops p
  let p := if first then { p with route := 0 } else p
  if hops ≥ 5 then none
  else if p.cls ≥ 6 then
    match ringLink t s p with
    | some (l, dateline) =>
      let dl := dateline || rsDl p
      some { link := l, vc := if dl then 7 else 6, route := stepRoute p viaNone false false dl l,
             breach := reservedAgainst s p.heat l }
    | none => none
  else if rsVent p then
    match ventLink t s p with
    | some (l, br) => some { link := l, vc := 5, route := stepRoute p viaNone false true false l, breach := br }
    | none => none
  else if p.pinned then
    match pinnedLink t s p with
    | some (l, br) => some { link := l, vc := p.cls, route := stepRoute p viaNone false false false l, breach := br }
    | none => none
  else if first then
    let ch := nonminChoices t s p.heat dest
    let cand := if ch = [] then none else ch[s.route.rotate % ch.length]?
    let mn := adaptiveLink s p (minimalLinks t s dest)
    let nm := match cand with
      | some (g, ls) => (adaptiveLink s p ls).map fun l => (g, l)
      | none => none
    match mn, nm with
    | none, none => none
    | some l, none => some { link := l, vc := p.cls, route := stepRoute p viaNone false false false l, breach := false }
    | none, some (g, l) => some { link := l, vc := p.cls, route := stepRoute p g true false false l, breach := false }
    | some l, some (g, l') =>
      if weightedDepth s p.cls l * minimalHops t s dest
          > weightedDepth s p.cls l' * nonminHops s dest l' + reg .rtNmBias 0 s then
        some { link := l', vc := p.cls, route := stepRoute p g true false false l', breach := false }
      else some { link := l, vc := p.cls, route := stepRoute p viaNone false false false l, breach := false }
  else
    let toVia := rsNonmin p && groupOf dest ≠ ownGroup s && rsVia p ≠ ownGroup s && rsGhops p = 0
    let ls := if toVia then linksInto t s (rsVia p)
      else if groupOf dest = ownGroup s ∧ rsGhops p > 0 then landedLinks t s dest
      else minimalLinks t s dest
    match adaptiveLink s p ls with
    | some l => some { link := l, vc := p.cls, route := stepRoute p (rsVia p) (rsNonmin p) false false l, breach := false }
    | none => none

/-- Whether the first GN-52 of the path sets PINNED (R253): start-up, spreading off (R274), a route change that covers
the destination's group, test mode, or a Pattern 1 link on the path or at the destination, as far as links of this device show it:
no message tells it the revision in force on another device's links (log entry 128). -/
def pinsHere (p : Packet) (s : State) : Bool :=
  let all := s.route.startUp || !flag .rtSpread 0 s || flag .rtTest 0 s
  if p.mcast then p.cls < 5 && all
  else p.cls < 5 && (all || (tabFind s.route.pinned (groupOf (devOf p.dst))).isSome
    || (devOf p.dst = ownDev s && isEdge (portOf p.dst) && flag .lkP1 (portOf p.dst) s)
    || (match pinnedLink s.route.active s p with | some (l, _) => flag .lkP1 l s | none => false))

/-! ### Multicast trees (R282) -/

/-- The key of a tree entry. -/
def treeKey (root tree : Nat) : Nat := root * 2 ^ 18 + tree

/-- The 32 bytes of a tree entry (R282). -/
def treeBytes (e : TreeEnt) : List Byte :=
  leBytes 32 (e.root % 2 ^ 12 + e.tree % 2 ^ 18 * 2 ^ 12 + e.heat % 2 ^ 32 * 2 ^ 32 + e.out % 2 ^ 52 * 2 ^ 64
    + e.leaf % 2 ^ 52 * 2 ^ 116 + b2n e.leaf58 * 2 ^ 168 + e.gen % 2 ^ 16 * 2 ^ 169)

/-- A tree entry from its number. -/
def treeOfNat (v : Nat) : TreeEnt :=
  { root := bitsOf v 11 0, tree := bitsOf v 29 12, heat := bitsOf v 63 32, out := bitsOf v 115 64,
    leaf := bitsOf v 167 116, leaf58 := bitAt v 168, gen := bitsOf v 184 169 }

end Sys2Proof.Machine
end

