-- ==== Sys2Proof/Machine/Switch.lean ====
section
/-! DEFINITION. The Tundish, output queues, credits and the choice of the next packet (R269 to R272, R289 to R305, R310 to
R318, R322 to R325). -/
namespace Sys2Proof.Machine

/-- Cells of one half (R306). -/
def halfCells : Nat := 3145728

/-- The switch die of a link port: X0 carries the even links (R10). -/
def dieOfLink (l : Nat) : Nat := l % 2

/-- The switch half is Banked (R394). -/
def halfBanked (d : Nat) (s : State) : Bool := s.power.halfBanked.testBit d

/-- The die that serves an internal transfer: a hash of the stream ID over the dies not Banked (R12; the hash is log
entry 20). -/
def internalDie (stream : Nat) (s : State) : Nat :=
  if halfBanked 0 s then 1 else if halfBanked 1 s then 0 else mix stream % 2

/-- The die of an output port. -/
def dieOfPort (port stream : Nat) (s : State) : Nat := if port < 52 then dieOfLink port else internalDie stream s

/-- Free cells of a half (R306), less the mapped-out banks (R305). -/
def freeCells (d : Nat) (s : State) : Nat :=
  let h := half d s
  let inMapped := sumNat (h.groupUse.map fun e => if h.mapped.contains (e.1 / 6144) then e.2 else 0)
  halfCells - 98304 * h.mapped.length - (h.used - inMapped)

/-- Pool level of a half (R301). -/
def poolLevel (d : Nat) (s : State) : Nat :=
  let f := freeCells d s
  if f < reg .tuPoolStop d s then 3 else if f < reg .tuPoolSlow d s then 2 else if f < reg .tuPoolWarn d s then 1 else 0

/-- Threshold instance of (port, class) (R306). -/
def threshIdx (p c : Nat) : Nat := 5 * p + c

/-- Level of (port, class) (R300). -/
def portLevel (p c : Nat) (s : State) : Nat :=
  let q := queueDepth s p c
  if q ≥ reg .thStop (threshIdx p c) s then 3 else if q ≥ reg .thSlow (threshIdx p c) s then 2
  else if q ≥ reg .thWarn (threshIdx p c) s then 1 else 0

/-! ### Cell groups (R293, R294) -/

/-- Take the first group pointer of a list of runs. -/
def takeRun : List (Nat × Nat) → Option (Nat × List (Nat × Nat))
  | [] => none
  | (g, n) :: r => if n = 0 then takeRun r else some (g, if n = 1 then r else (g + 1, n - 1) :: r)

/-- Number of pointers in a list of runs. -/
def runCount (l : List (Nat × Nat)) : Nat := sumNat (l.map (·.2))

/-- Move the first `n` pointers of a list of runs: (moved, rest). -/
def splitRuns : Nat → List (Nat × Nat) → List (Nat × Nat) × List (Nat × Nat)
  | _, [] => ([], [])
  | n, (g, k) :: r =>
    if n = 0 then ([], (g, k) :: r)
    else if k ≤ n then let (a, b) := splitRuns (n - k) r; ((g, k) :: a, b)
    else ([(g, n)], (g + n, k - n) :: r)

/-- The pointer of cell `i` of a group on a die: [22] die, [21:17] bank, [16:0] cell (R293); 6,144 groups per bank. -/
def cellPtr (die group i : Nat) : Nat := die * 2 ^ 22 + (group / 6144) * 2 ^ 17 + (group % 6144) * 16 + i

/-- The group of a cell pointer. -/
def groupOfPtr (ptr : Nat) : Nat := bitsOf ptr 21 17 * 6144 + bitsOf ptr 16 0 / 16

/-- Take a free group: a cached one, else straight from the ring, since no allocation waits for a refill (R294). -/
def takeGroup (h : TundishHalf) : Option (Nat × TundishHalf) :=
  match takeRun h.cache with
  | some (g, r) => some (g, { h with cache := r })
  | none => (takeRun h.ring).map fun e => (e.1, { h with cache := [], ring := e.2 })

/-- Place one cell for an output port and VC: in its current write group, else in a new one (R293). -/
def placeCell (d pv : Nat) (h : TundishHalf) : Option (Nat × TundishHalf) :=
  match tabFind h.cur pv with
  | some (g, i) =>
    some (cellPtr d g i,
      { h with used := h.used + 1, groupUse := tabSet 0 h.groupUse g (tabGet 0 h.groupUse g + 1),
               cur := if i + 1 = 16 then tabDel h.cur pv else tabPut h.cur pv (g, i + 1) })
  | none =>
    (takeGroup h).map fun e =>
      (cellPtr d e.1 0, { e.2 with used := h.used + 1, groupUse := tabSet 0 h.groupUse e.1 1, cur := tabPut h.cur pv (e.1, 1) })

/-- Place `n` cells. -/
def placeCells (d pv : Nat) : Nat → TundishHalf → Option (List Nat × TundishHalf)
  | 0, h => some ([], h)
  | n + 1, h =>
    match placeCell d pv h with
    | none => none
    | some (p, h') =>
      match placeCells d pv n h' with
      | none => none
      | some (ps, h'') => some (p :: ps, h'')

/-- A group is some port's current write group. -/
def isCurrent (h : TundishHalf) (g : Nat) : Bool := h.cur.any fun e => e.2.1 = g

/-- Free one cell; its group goes back to the free store when all 16 are free and it is no current write group, unless
its bank is mapped out (R293, R305). -/
def freeCell (h : TundishHalf) (ptr : Nat) : TundishHalf :=
  let g := groupOfPtr ptr
  let n := tabGet 0 h.groupUse g - 1
  let h := { h with used := h.used - 1, groupUse := tabSet 0 h.groupUse g n }
  if n = 0 ∧ ¬ isCurrent h g ∧ ¬ (h.mapped.contains (g / 6144)) then { h with cache := h.cache ++ [(g, 1)] } else h

/-! ### Credits (R270, R272, R302) -/

/-- The default allowance of a VC of a link (R272). -/
def defaultAllow (l v : Nat) : Nat :=
  if v < 5 then 16384 else if !isFabric l then 0 else if v = 5 then 1040 else 520

/-- Credit state of a VC before anything happened. -/
def defaultVc (l v : Nat) : VcPart :=
  { allowCfg := defaultAllow l v, allow := defaultAllow l v, c := 0, sent := 0, far := 0, x := 0, lastC := 0,
    lastAt := 0 }

/-- Credit state of VC `v` of link `l`. -/
def vcOf (l v : Nat) (s : State) : VcPart := tabGet (defaultVc l v) s.sw.credits (l * 8 + v)

/-- Change it. -/
def modVc (l v : Nat) (f : VcPart → VcPart) (s : State) : State :=
  { s with sw := { s.sw with credits := tabSet (defaultVc l v) s.sw.credits (l * 8 + v) (f (vcOf l v s)) } }

/-- Credit available to send: (C − S) mod 2^24, zero from 2^23 (R270). -/
def creditAvail (l v : Nat) (s : State) : Nat :=
  let a := subMod (vcOf l v s).far (vcOf l v s).sent (2 ^ 24)
  if a ≥ 2 ^ 23 then 0 else a

/-- The effective allowance at a level (R302). -/
def effAllow (a w : Nat) : Nat := if w = 0 then a else if w = 1 then a / 2 else if w = 2 then a / 8 else 0

/-- A packet held in the Tundish came in on (link, VC). -/
def holdFrom (s : State) (id l v : Nat) : Bool :=
  match tabFind s.sw.holds id with
  | some h => h.inLink = some l && h.inVc = v
  | none => false

/-- The level W of an input link and VC (R302): the greatest level of any (port, class) whose queues hold a cell from it,
and of the pool of any half that holds one. -/
def inputLevel (l v : Nat) (s : State) : Nat :=
  let ports := s.sw.queues.filterMap fun e =>
    if e.2.vc < 5 && e.2.port < 52 && e.2.ents.any (fun q => holdFrom s q.hold l v) then
      some (portLevel e.2.port e.2.vc s) else none
  let pools := (List.range 2).filterMap fun d =>
    if s.sw.holds.any (fun h => h.2.die = d && h.2.inLink = some l && h.2.inVc = v) then some (poolLevel d s) else none
  max (maxNat ports) (maxNat pools)

/-- `n` cells received on (link, VC) left the Tundish: withheld while X < A − E, else granted (R302 item 1). VCs 5 to 7
are never withheld. -/
def returnCredit (l v n : Nat) (s : State) : State :=
  let vc := vcOf l v s
  let e := effAllow vc.allow (inputLevel l v s)
  let hold := if v < 5 then min n ((vc.allow - e) - vc.x) else 0
  let s := modVc l v (fun c => { c with x := c.x + hold, c := (c.c + (n - hold)) % 2 ^ 24 }) s
  if hold > 0 then addReg .tuWithheldCnt (dieOfLink l) hold s else s

/-- Credit that a packet consumed and did not need is returned at once, and never withheld (R296). -/
def giveCredit (inLink : Option Nat) (v n : Nat) (s : State) : State :=
  match inLink with
  | some l => modVc l v (fun c => { c with c := (c.c + n) % 2 ^ 24 }) s
  | none => s

/-- R302 item 2: the level fell, and credit withheld beyond the new limit is granted at once. -/
def releaseLevel (l v : Nat) (s : State) : State :=
  let vc := vcOf l v s
  let extra := vc.x - (vc.allow - effAllow vc.allow (inputLevel l v s))
  modVc l v (fun c => { c with x := c.x - extra, c := (c.c + extra) % 2 ^ 24 }) s

/-! ### Holding and freeing packets (R292, R296, R303) -/

/-- Admission of R296: a packet of VC 0 to 4 must leave more than RESERVE cells free; VC 5 to 7 may take any free cell. -/
def admits (d vc cells : Nat) (s : State) : Bool :=
  if vc < 5 then decide (freeCells d s > reg .tuReserve d s + cells)
  else decide (cells ≤ freeCells d s)

/-- Reserve a packet's cells in a half: its hold number, or none when it is not admitted. -/
def holdCells (d port vc cells copies : Nat) (inLink : Option Nat) (inVc : Nat) (s : State) : Option (Nat × State) :=
  if !admits d vc cells s then none
  else match placeCells d (port * 8 + vc) cells (half d s) with
    | none => none
    | some (ptrs, h) =>
      let id := s.sw.nextHold
      let s := modHalf d (fun _ => h) s
      let holds := tabPut s.sw.holds id { die := d, ptrs := ptrs, refs := copies, inLink := inLink, inVc := inVc }
      some (id, { s with sw := { s.sw with nextHold := id + 1, holds := holds } })

/-- One copy of a held packet is done (R303): at the last one its cells are freed and their credit returned. -/
def dropHold (id : Nat) (s : State) : State :=
  match tabFind s.sw.holds id with
  | none => s
  | some h =>
    if h.refs > 1 then { s with sw := { s.sw with holds := tabPut s.sw.holds id { h with refs := h.refs - 1 } } }
    else
      let s := modHalf h.die (fun t => h.ptrs.foldl freeCell t) s
      let s := { s with sw := { s.sw with holds := tabDel s.sw.holds id } }
      match h.inLink with
      | some l => returnCredit l h.inVc h.ptrs.length s
      | none => s

/-- ECC errors met in the cells of a held packet are counted, those not corrected logged, and the reliability Shop is told of their banks (R304 to R306). -/
def noteCellErrs (id : Nat) (e : CellErrs) (s : State) : State :=
  match tabFind s.sw.holds id with
  | none => s
  | some h =>
    let banks := fun (l : List Nat) => l.filterMap fun i => (h.ptrs[i]?).map fun p => bitsOf p 21 17
    let cor := banks e.corrected
    let unc := banks e.uncorrected
    let lost := e.uncorrected.filterMap fun i => h.ptrs[i]?
    let s := lost.foldl (fun s p => logEvent 0x0304 sevW (0x30 + h.die) h.die (packFields [(4, p)]) s) s
    let s := noteCorrected cor.length <| addReg .tuEccCorrCnt h.die cor.length (addReg .tuEccUncorrCnt h.die unc.length s)
    modHalf h.die (fun t => { t with bankErrs := cor.foldl (fun l b => noteErrs b 1 spanBank s.time.now l) t.bankErrs,
                                     bankBad := dedupNat (t.bankBad ++ unc) }) s

/-- The admission of R296 failed: counted, the first drop per half in any second logged. -/
def noteNoRoom (d port vc : Nat) (s : State) : State :=
  let s := incReg .tuNoresCnt d s
  let recent := match (half d s).norLog with | some t => decide (s.time.now < t + 1000000000) | none => false
  if recent then s
  else modHalf d (fun h => { h with norLog := some s.time.now })
        (logEvent 0x0301 sevW (0x30 + d) d (packFields [(1, port), (1, vc)]) s)

/-! ### Output queues (R298, R299, R312) -/

/-- The default queue of a port and VC (R298). -/
def defaultQueueIdx (port vc : Nat) : Nat := if port < 52 then 8 * port + vc else 416 + 8 * (port - 56) + vc

/-- Port of a default queue index. -/
def queuePort (i : Nat) : Nat := if i < 416 then i / 8 else 56 + (i - 416) / 8

/-- An empty default queue. -/
def emptyQueue (i : Nat) : OutQueue :=
  { port := queuePort i, vc := i % 8, dflt := true, pend := false, heat := 0, ents := [], tag := 0, weight := 0 }

/-- A queue by index; none when it is not allocated. -/
def queueOf (i : Nat) (s : State) : Option OutQueue :=
  match tabFind s.sw.queues i with
  | some q => some q
  | none => if i < 440 then some (emptyQueue i) else none

/-- Store a queue. -/
def putQueue (i : Nat) (q : OutQueue) (s : State) : State :=
  { s with sw := { s.sw with queues := tabPut s.sw.queues i q } }

/-- Remove a queue's entry. -/
def delQueue (i : Nat) (s : State) : State := { s with sw := { s.sw with queues := tabDel s.sw.queues i } }

/-- The queue a packet enters: the one bound to its port, class and Heat when that binding is in force (R298, R299). -/
def queueFor (port vc heat : Nat) (s : State) : Nat :=
  match s.sw.queues.find? (fun e => !e.2.dflt && e.2.port = port && e.2.vc = vc && e.2.heat = heat && !e.2.pend) with
  | some e => e.1
  | none => defaultQueueIdx port vc

/-- Class weight of a port (R313, R326): one byte per class. -/
def classWeight (p c : Nat) (s : State) : Nat :=
  if p ≥ 52 then 16 else if c < 4 then bitsOf (reg .sdClassW03 p s) (8 * c + 7) (8 * c) else reg .sdClassW4 p s

/-- Weight of a queue (R311, R313). -/
def queueWeight (q : OutQueue) (s : State) : Nat :=
  if q.port ≥ 52 then 16 else if q.dflt then classWeight q.port q.vc s else q.weight

/-- The finish tag of a packet that becomes a queue's head (R312). -/
def headTag (q : OutQueue) (wasEmpty : Bool) (cells : Nat) (s : State) : Nat :=
  let w := queueWeight q s
  ((if wasEmpty then (schedOf q.port s).v else q.tag) + ceilDiv (cells * 65536) w) % 2 ^ 64

/-- Depth and delay bins of R322. -/
def sampleBin (x : Nat) : Nat := min 15 (bitLen x)

/-- Add one to a bin of 32-bit saturating counts. -/
def bumpBin (l : List Nat) (i : Nat) : List Nat := l.set i (satAdd32 (l.getD i 0) 1)

/-- Sampling is on for a queue and its clock runs (R322, R386). -/
def samplingOn (i : Nat) (s : State) : Bool := (tabFind s.samples i).isSome && (reg .ckClkEn 0 s).testBit 2

/-- Count a packet entering a sampled queue: the depth it found where it is sampled (R322). -/
def noteEnqueue (i depth : Nat) (s : State) : Option Nat × State :=
  match tabFind s.samples i with
  | none => (none, s)
  | some q =>
    if !(reg .ckClkEn 0 s).testBit 2 then (none, s)
    else
      let take := q.count % 2 ^ (reg .spSampleShift 0 s) = 0
      (if take then some depth else none, { s with samples := tabPut s.samples i { q with count := q.count + 1 } })

/-- Record a sampled packet as it leaves: the depth it found and its delay (R322). A packet dropped before that is not
recorded. -/
def noteDelay (i depth delay : Nat) (s : State) : State :=
  match tabFind s.samples i with
  | none => s
  | some q =>
    let q := { q with depth := bumpBin q.depth (sampleBin depth), delay := bumpBin q.delay (sampleBin (delay / 16)),
                      worst := min (max q.worst delay) 0xFFFFFFFF }
    { s with samples := tabPut s.samples i q }

/-- Put a held packet at the tail of its queue (R298). -/
def enqueue (port vc : Nat) (p : Packet) (cells hold : Nat) (s : State) : State :=
  let i := queueFor port vc p.heat s
  match queueOf i s with
  | none => s
  | some q =>
    let depth := sumNat (q.ents.map (·.cells))
    let (smp, s) := noteEnqueue i depth s
    let e : QEnt := { pkt := p, cells := cells, hold := hold, at' := s.time.now, headAt := s.time.now, sample := smp,
                      bound := false, noFit := false }
    putQueue i { q with ents := q.ents ++ [e], tag := if q.ents = [] then headTag q true cells s else q.tag } s

/-! ### Time windows (R314 to R318) -/

/-- Fields of a window entry (R314). -/
def winStart (e : Nat) : Nat := bitsOf e 31 0
def winLen (e : Nat) : Nat := bitsOf e 55 32
def winOpen (e : Nat) : Nat := bitsOf e 60 56
def winDl (e : Nat) : Bool := bitAt e 61

/-- The active window table of a port. -/
def activeTable (p : Nat) (s : State) : List Nat :=
  let t := if flag .sdActiveTable p s then (schedOf p s).table1 else (schedOf p s).table0
  tabRange 0 t 0 (reg .sdEntries p s)

/-- CUR_START of a port (R318). -/
def curStart (p : Nat) (s : State) : Nat := reg .sdCurStartHi p s * 2 ^ 32 + reg .sdCurStartLo p s

/-- The phase of the cycle at time base `t` (R318). -/
def phaseAt (p t : Nat) (s : State) : Nat :=
  let d := subMod t (curStart p s) (2 ^ 48)
  if reg .sdCycleNs p s = 0 then d else d % reg .sdCycleNs p s

/-- The window that contains a phase, with its index. -/
def windowAt (entries : List Nat) (ph : Nat) : Option (Nat × Nat) :=
  (List.range entries.length).findSome? fun i =>
    let e := entries.getD i 0
    if winStart e ≤ ph ∧ ph < winStart e + winLen e then some (i, e) else none

/-- Classes open at a phase: those of the window, else those of IDLE_MASK (R314). -/
def openAt (p : Nat) (entries : List Nat) (ph : Nat) (s : State) : Nat :=
  match windowAt entries ph with
  | some (_, e) => winOpen e
  | none => reg .sdIdleMask p s

/-- Edges of the cycle after a phase, in order: window starts and ends, then the cycle's end. -/
def edgesAfter (entries : List Nat) (cycle ph : Nat) : List Nat :=
  ((entries.flatMap fun e => [winStart e, winStart e + winLen e]) ++ [cycle]).filter (fun x => decide (x > ph))

/-- Nanoseconds until a flip (R316): the first cycle start of the running schedule at or after ACTIVATE_AT, or ACTIVATE_AT. -/
def flipWait (p at' : Nat) (s : State) : Nat :=
  let d := subMod at' (timeBase s) (2 ^ 48)
  let ahead := if d < 2 ^ 47 then d else 0
  if !flag .sdWinOn p s then ahead
  else
    let cyc := reg .sdCycleNs p s
    let ph := phaseAt p (timeBase s + ahead) s
    if ph = 0 then ahead else ahead + (cyc - ph)

/-- The first edge after a phase at which a class is no longer open; the cycle's end closes nothing by itself, and the
next cycle's windows are looked at. -/
def nextClose (p cls ph : Nat) (s : State) : Option Nat :=
  let es := activeTable p s
  let cyc := reg .sdCycleNs p s
  let closes := (edgesAfter es cyc ph).filter fun x =>
    !(openAt p es (if x < cyc then x else 0) s).testBit cls
  if closes = [] then
    ((edgesAfter es cyc 0).filter fun x => decide (x < cyc) && !(openAt p es x s).testBit cls).head?.map (· + cyc)
  else closes.foldl (fun m x => match m with | none => some x | some y => some (min x y)) none

/-- Picoseconds per column at a rate code (R317): 44.64, 89.29, 178.57 ps, in hundredths. -/
def columnHps (rate : Nat) : Nat := if rate = 0 then 4464 else if rate = 1 then 8929 else 17857

/-- Wire time of a packet in ns, rounded up (R317). -/
def wireNs (cells rate : Nat) : Nat := ceilDiv ((5 * cells + 2) * columnHps rate) 100000

/-- A class is open on a port now (R314, R319). -/
def classOpen (p cls : Nat) (s : State) : Bool :=
  if !flag .sdWinOn p s then true
  else !(schedOf p s).halted && (openAt p (activeTable p s) (phaseAt p (timeBase s) s) s).testBit cls

/-- A packet that takes `n` ns ends before a flip that awaits its boundary, which closes every class (R317). -/
def endsBeforeFlip (p n : Nat) (s : State) : Bool :=
  match (schedOf p s).flip with
  | none => true
  | some j => decide (n ≤ flipWait p j.at' s)

/-- A packet of a class fits the window now (R317). -/
def fitsWindow (p cls cells : Nat) (s : State) : Bool :=
  let n := wireNs cells (reg .lkRate p s) + reg .sdGuardNs p s
  endsBeforeFlip p n s && (!flag .sdWinOn p s || match nextClose p cls (phaseAt p (timeBase s) s) s with
    | none => true
    | some x => decide (phaseAt p (timeBase s) s + n ≤ x))

/-! ### Selection (R310, R312) -/

/-- The head packet of a queue may leave: it has credit, and on VCs 0 to 4 of a link port its class is open and it fits. -/
def headEligible (q : OutQueue) (s : State) : Bool :=
  match q.ents with
  | [] => false
  | e :: _ =>
    if q.port ≥ 52 then true
    else decide (creditAvail q.port q.vc s ≥ e.cells) &&
      (decide (q.vc ≥ 5) || (classOpen q.port q.vc s && fitsWindow q.port q.vc e.cells s))

/-- Every queue of a port that holds a packet, with its index. -/
def portQueues (port : Nat) (s : State) : List (Nat × OutQueue) :=
  s.sw.queues.filter fun e => e.2.port = port && e.2.ents ≠ []

/-- Tags compare as a signed 64-bit difference (R312). -/
def tagLt (a b : Nat) : Bool := decide (subMod a b (2 ^ 64) ≥ 2 ^ 63)

/-- The queue with the smallest tag, the lower index of equals. -/
def leastTag : List (Nat × OutQueue) → Option Nat
  | [] => none
  | (i, q) :: r => match leastTag r with
    | none => some i
    | some j => match r.find? (fun e => e.1 = j) with
      | some (_, q') => if tagLt q'.tag q.tag then some j else some i
      | none => some i

/-- Of the queues whose heads may leave, the one that is served: VCs 6 and 7 first (the earlier arrival of their heads), then
5, then fair queueing (R256, R310). -/
def selectOf (port : Nat) (el : List (Nat × OutQueue)) : Option Nat :=
  let hi := el.filter fun e => decide (e.2.vc ≥ 6)
  let vent := el.filter fun e => e.2.vc = 5
  if port < 52 ∧ hi ≠ [] then
    (argMin (fun i => match hi.find? (fun e => e.1 = i) with
      | some (_, q) => (q.ents.head?.map (·.at')).getD 0 | none => 0) (hi.map (·.1)))
  else if port < 52 ∧ vent ≠ [] then vent.head?.map (·.1)
  else leastTag el

/-- The queue of a port whose head leaves next (R310). -/
def selectQueue (port : Nat) (s : State) : Option Nat :=
  selectOf port ((portQueues port s).filter fun e => headEligible e.2 s)

/-- Take the head packet off a queue: V becomes its tag on VCs 0 to 4, and the next packet becomes the head with its own
tag (R312). -/
def popQueue (i : Nat) (s : State) : Option (QEnt × OutQueue × State) :=
  match queueOf i s with
  | none => none
  | some q => match q.ents with
    | [] => none
    | e :: r =>
      let s := if q.vc < 5 ∨ q.port ≥ 52 then modSched q.port (fun c => { c with v := q.tag }) s else s
      let q' : OutQueue := match r with
        | [] => { q with ents := [] }
        | n :: r' => { q with ents := { n with headAt := s.time.now } :: r', tag := headTag q false n.cells s }
      let s := if q'.ents = [] ∧ q'.dflt then delQueue i s else putQueue i q' s
      let s := match e.sample with | some d => noteDelay i d (s.time.now - e.at') s | none => s
      some (e, q, s)

/-- A PENDING binding takes effect once the default queue holds no packet of its Heat (R299). -/
def settleBindings (s : State) : State :=
  { s with sw := { s.sw with queues := s.sw.queues.map fun e =>
      if e.2.pend && !(match queueOf (defaultQueueIdx e.2.port e.2.vc) s with
          | some q => q.ents.any (fun x => x.pkt.heat = e.2.heat) | none => false)
      then (e.1, { e.2 with pend := false }) else e } }

/-- Discard every packet queued at a port, with its cells; counted in LOSS_DISCARD_CNT (R279, R304). -/
def discardPort (port : Nat) (s : State) : State :=
  (portQueues port s).foldl (fun s e =>
    let s := e.2.ents.foldl (fun s q => dropHold q.hold (incReg .tuLossDiscardCnt (dieOfLink port) s)) s
    if e.2.dflt then delQueue e.1 s else putQueue e.1 { e.2 with ents := [] } s) s

end Sys2Proof.Machine
end

