-- ==== Sys2Proof/Machine/Send.lean ====
section
/-! DEFINITION. Sending and delivering packets end to end: output by route, ACK and NAK, stream contexts and the resequencer
(R240 to R251), the streams on which ports 56 to 58 send (R244, R247, R248), multicast copies (R245, R303) and replies (R353). -/
namespace Sys2Proof.Machine

/-- The die whose counters a packet counts in: that of its output. -/
def dieOfDst (p : Packet) (s : State) : Nat := dieOfPort (portOf p.dst) p.stream s

/-! ### Output on a fabric link -/

/-- What became of a packet put toward a fabric link. -/
inductive PutResult where
  | ok (s : State)
  | noRoute (s : State)
  | noRoom (s : State)
  deriving DecidableEq, Repr

/-- The die that routes a packet here: that of the link it came on, or of the port's stream (R12, R286). -/
def routingDie (inLink : Option Nat) (p : Packet) (s : State) : Nat :=
  match inLink with
  | some l => dieOfLink l
  | none => internalDie p.stream s

/-- Mark a packet at the first GN-52 of its path (R253), counted by the die that routes it. -/
def preparePath (inLink : Option Nat) (p : Packet) (s : State) : Packet × State :=
  if p.pinned then (p, s)
  else if pinsHere p s then ({ p with pinned := true }, incReg .rtPinnedCnt (routingDie inLink p s) s) else (p, s)

/-- Counters that go with a hop: a non-minimal plan (R262), a reservation breached (R278). -/
def noteHop (first : Bool) (h : Hop) (s : State) : State :=
  let d := dieOfLink h.link
  let s := if first && bitAt h.route 8 then incReg .rtNonminCnt d s else s
  let s := if first then { s with route := { s.route with rotate := s.route.rotate + 1 } } else s
  if h.breach then noteBreach d s else s

/-- Queue a packet toward its next hop (R262 to R268, R292, R296). -/
def putFabric (first : Bool) (inLink : Option Nat) (inVc : Nat) (p : Packet) (s : State) : PutResult :=
  match nextHop first p s with
  | none => .noRoute (incReg .rtNorouteCnt (routingDie inLink p s) (giveCredit inLink inVc (cellsOf p) s))
  | some h =>
    let s := noteHop first h s
    match holdCells (dieOfLink h.link) h.link h.vc (cellsOf p) 1 inLink inVc s with
    | none => .noRoom (noteNoRoom (dieOfLink h.link) h.link h.vc (giveCredit inLink inVc (cellsOf p) s))
    | some (id, s) =>
      .ok (enqueue h.link h.vc { p with route := h.route } (cellsOf p) id (incReg .xbStoreCnt (dieOfLink h.link) s))

/-! ### Answers at the sending ports (R243, R244, R248) -/

/-- The streams with one of them changed. -/
def modStream (src dst stream : Nat) (f : OutStream → OutStream) (s : State) : State :=
  let l := s.net.streams.map fun o => if o.src = src ∧ o.dst = dst ∧ o.stream = stream then f o else o
  { s with net := { s.net with streams := l } }

/-- A sequence number lies among the `count` up to `top` (R240). -/
def seqCovered (top count x : Nat) : Bool := decide (subMod top x (2 ^ 24) < count)

/-- Fields of an answer. -/
def ackCount (p : Packet) : Nat := p.args % 256 + 1
def nakCause (p : Packet) : Nat := p.args % 65536

/-- How often a packet counts as re-sent once it is sent no more; one more when its stream has been
reopened since, so that its sequence number names another packet. -/
def stopTries : Nat := 1000

/-- The opening packet of the stream as it now stands is among the copies. -/
def awaitsSos (l : List SentPkt) : Bool := l.any fun x => x.pkt.sos && decide (x.tries ≤ stopTries)

/-- The stream whose copies are now `left`: an answered opening packet opens it (R248). -/
def leaveUnacked (left : List SentPkt) (o : OutStream) : OutStream :=
  { o with unacked := left, opened := o.opened || (awaitsSos o.unacked && !awaitsSos left) }

/-- A sequence number names a copy kept from before the stream's reopening: the only one so numbered, while nothing has been
sent on the reopened stream. -/
def namesKept (seq : Nat) (o : OutStream) : Bool :=
  !o.opened && decide (o.next = 0) && decide ((o.unacked.filter fun x => x.pkt.seq = seq).length = 1)

/-- An ACK from `by'` strikes its destination from the copies it covers; a copy nobody awaits any more is released (R240,
R244, R245). -/
def ackStream (by' top count : Nat) (o : OutStream) : OutStream :=
  let struck := o.unacked.map fun x =>
    if (x.tries ≤ stopTries ∨ namesKept x.pkt.seq o) ∧ seqCovered top count x.pkt.seq then
      { x with awaiting := x.awaiting.filter (· ≠ by') }
    else x
  leaveUnacked (struck.filter fun x => x.awaiting ≠ []) o

/-- Send one packet of a port's stream into the fabric. Own destinations are queued by `arrive` below; this is the part for
other devices. -/
def launch (p : Packet) (s : State) : State :=
  let (p, s) := preparePath none p s
  match putFabric true none p.cls p s with
  | .ok s => s
  | .noRoute s => s
  | .noRoom s => s

/-- Release the packets of a port's streams that an answer from `by'` covers. An answer may come from another endpoint than
the one addressed (R161, R252, R254 rule 6): it then covers a copy that awaits one destination only. -/
def releaseSent (src by' stream top count : Nat) (s : State) : State :=
  let l := s.net.streams.map fun o =>
    if o.src = src ∧ o.stream = stream ∧ (o.dst = by' ∨ o.unacked.any fun x => x.awaiting.contains by') then
      ackStream by' top count o
    else o
  { s with net := { s.net with streams := l } }

/-- The packet of a Pour's result: it stays awaited when it is given up or refused, until its destination is fenced
(R77, R84). -/
def isResult (w : Purpose) : Bool := match w with | .result _ _ _ => true | _ => false

/-- End one packet without an ACK: given up (R244), or refused by a NAK of the last row of R243. A result packet is sent no
more and stays awaited. A stream whose opening packet ends so was never opened: it is reopened before it is used again
(R248). -/
def dropSent (src stream seq : Nat) (s : State) : State :=
  let l := s.net.streams.map fun o =>
    if o.src = src ∧ o.stream = stream then
      let mine := fun (x : SentPkt) => x.pkt.seq = seq && decide (x.tries < stopTries)
      let kept := o.unacked.filter fun x => !mine x || isResult x.why
      if o.unacked.any fun x => mine x && x.pkt.sos then
        { o with opened := false, next := 0, openAt := o.last + 1000000,
                 unacked := kept.map fun x => { x with tries := stopTries + 1 } }
      else { o with unacked := kept.map fun x => if mine x then { x with tries := stopTries } else x }
    else o
  { s with net := { s.net with streams := l } }

/-- A multicast packet of this port awaits an answer under a stream and sequence: any NAK has the source re-send it on the
whole tree (R245). -/
def awaitsTree (src stream seq : Nat) (s : State) : Bool :=
  s.net.streams.any fun o => o.src = src && o.stream = stream && o.unacked.any fun x => x.pkt.seq = seq && x.pkt.mcast

/-- One packet is sent again: counted for the device and for each open Ihlil record (R255, R338). -/
def countResend (d : Nat) (s : State) : State :=
  incReg .scResendCnt d { s with det := { s.det with ctxs := s.det.ctxs.map fun c => { c with resend := c.resend + 1 } } }

/-- Reopen a stream (R243, R248): its unanswered packets will be sent again from an opening packet, once nothing has been sent
on it for 1 ms. -/
def reopenStream (src stream seq : Nat) (s : State) : State :=
  let l := s.net.streams.map fun o =>
    if o.src = src ∧ o.stream = stream ∧ o.unacked.any (fun x => x.pkt.seq = seq && decide (x.tries ≤ stopTries)) then
      let (kept, again) := o.unacked.partition fun x => decide (x.tries ≥ stopTries)
      { o with opened := false, next := 0, unacked := kept.map fun x => { x with tries := stopTries + 1 },
               openAt := o.last + 1000000, resent := o.resent + again.length,
               waiting := again.map (fun x => (x.pkt, x.awaiting, x.why)) ++ o.waiting }
    else o
  { s with net := { s.net with streams := l } }

/-- RESEND_MAX: 0 acts as 1 (R255). -/
def resendMax (s : State) : Nat := max 1 (reg .scResendMax 0 s)

/-- A packet that a DAMAGED answer has sent again: it is still kept and has been re-sent fewer than RESEND_MAX times. -/
def mayResend (seq : Nat) (s : State) (x : SentPkt) : Bool := x.pkt.seq = seq && decide (x.tries < resendMax s)

/-- A packet whose re-send goes through this device's own inputs: a multicast packet, or one to a port of this device. -/
def staysHere (s : State) (x : SentPkt) : Bool := x.pkt.mcast || devOf x.pkt.dst = ownDev s

/-- The die that counts the re-sends of a packet that a port of this device sends: that of the port's own stream (R12, R255). -/
def sendDie (stream : Nat) (s : State) : Nat := internalDie stream s

/-- Re-send the unanswered packet of a sequence number at once (R243, R244: unchanged, at most RESEND_MAX times in all). A
multicast packet, or one to a port of this device, is marked, and `resendMarked` sends it at the end of the event, a multicast packet
over the whole tree (R245). -/
def resendNow (src stream seq : Nat) (s : State) : State :=
  let ps := s.net.streams.flatMap fun o =>
    if o.src = src ∧ o.stream = stream then o.unacked.filter (mayResend seq s) else []
  let l := s.net.streams.map fun o =>
    if o.src = src ∧ o.stream = stream then
      let un := o.unacked.map fun x =>
        if !mayResend seq s x then x
        else if staysHere s x then { x with again := true }
        else { x with at' := s.time.now, tries := x.tries + 1 }
      { o with unacked := un, last := s.time.now }
    else o
  let s := { s with net := { s.net with streams := l } }
  (ps.filter fun x => !staysHere s x).foldl (fun s x => launch x.pkt (countResend (sendDie stream s) s)) s

/-- An ACK or NAK reaches a port of this device that sent the packet (R243, R244). -/
def answerOwn (p : Packet) (s : State) : State :=
  if p.typ = tyAck then releaseSent p.dst p.src p.stream p.seq (ackCount p) s
  else
    let c := nakCause p
    if c = nakDamaged then resendNow p.dst p.stream p.seq s
    else if c = nakNoStream ∨ c = nakGapTimeout then reopenStream p.dst p.stream p.seq s
    else if c = stBadState ∨ c = stNoResource ∨ c = stPoliced ∨ awaitsTree p.dst p.stream p.seq s then s
    else dropSent p.dst p.stream p.seq s

/-- Send an ACK or NAK (R241, R242): to an edge link of this device as a block, to a port of this device directly, else
through the fabric. An answer that finds no way is not repeated (R234). -/
def sendAnswer (p : Packet) (s : State) : State :=
  if devOf p.dst = ownDev s then
    if isEdge (portOf p.dst) then sendBlock (portOf p.dst) (answerBlock p) s
    else answerOwn p s
  else launch p s

/-- NAK a packet in its destination's name (R241). -/
def nakAs (by' : Nat) (p : Packet) (cause : Nat) (s : State) : State := sendAnswer (mkNak p by' cause) s

/-- NAK a packet with its own destination as the answering endpoint (R241); an ACK or NAK is never answered (R234). -/
def nak (p : Packet) (cause : Nat) (s : State) : State :=
  if p.typ = tyAck ∨ p.typ = tyNak then s else nakAs p.dst p cause s

/-! ### Stream contexts (R246 to R250) -/

/-- The key of a context (R249). -/
def ctxKey (src stream dst : Nat) : Nat := src * 2 ^ 38 + dst * 2 ^ 20 + stream

/-- The context of a packet. -/
def ctxOf (p : Packet) (s : State) : Option Ctx := tabFind s.net.ctxs (ctxKey p.src p.stream p.dst)

/-- Store a context. -/
def putCtx (c : Ctx) (s : State) : State :=
  { s with net := { s.net with ctxs := tabPut s.net.ctxs (ctxKey c.src c.stream c.dst) c } }

/-- Remove a context. -/
def delCtx (key : Nat) (s : State) : State :=
  { s with net := { s.net with ctxs := tabDel s.net.ctxs key, cache := s.net.cache.filter (· ≠ key) } }

/-- A context is looked up: one of the 65,536 that the device has on chip, or a miss that is counted and brings it there, where a
free value names the one that makes room (R249; log entry 128). -/
def touchCtx (key d : Nat) (s : State) : State :=
  let c := s.net.cache
  if c.contains key then s
  else
    let s := incReg .scCtxMissCnt d s
    if c.length < 65536 then { s with net := { s.net with cache := c ++ [key] } }
    else
      let i := freeNat s % 65536
      useFree { s with net := { s.net with cache := c.take i ++ c.drop (i + 1) ++ [key] } }

/-- A context as an opening packet finds it: N = 0, nothing ACKed yet (A is the number before the first, log entry 21). -/
def freshCtx (p : Packet) (now : Nat) : Ctx :=
  { src := p.src, stream := p.stream, dst := p.dst, n := 0, a := 2 ^ 24 - 1, held := [], last := now, handed := false }

/-- Room for a new context in its set of 16: the contexts after eviction of one idle for 1 s where the set is full; none
when no entry may go (R249). -/
def roomForCtx (key : Nat) (s : State) : Option State :=
  let set := mix key % 65536
  let same := s.net.ctxs.filter fun e => mix e.1 % 65536 = set
  if same.length < 16 then some s
  else match same.find? (fun e => e.2.held = [] && !e.2.handed && decide (s.time.now ≥ e.2.last + 1000000000)) with
    | some e => some (delCtx e.1 s)
    | none => none

/-- Queue a packet that is next in sequence at its output port: an edge link (on the VC of its class, R257) or an internal
port. R202 is checked at an edge link. -/
def outputPkt (p : Packet) (hold : Nat) (s : State) : State :=
  let port := portOf p.dst
  if isEdge port && !exitAllowed port p s then nak p stDenied (dropHold hold s)
  else enqueue port p.cls p (cellsOf p) hold s

/-- A packet has gone to an endpoint: N advances, and the packet awaits the endpoint's answer. -/
def sentNext (c : Ctx) (p : Packet) : Ctx :=
  { c with n := (c.n + 1) % 2 ^ 24, sent := c.sent ++ [(p.seq, p.heat, p.cls)] }

/-- Held packets that follow N in sequence are delivered (R246). An internal port takes them one by one (R240). -/
def drainHeld : Nat → Ctx → State → Ctx × State
  | 0, c, s => (c, s)
  | fuel + 1, c, s =>
    match c.held.find? (fun h => h.pkt.seq = c.n) with
    | none => (c, s)
    | some h =>
      let c := { c with held := c.held.filter (fun x => x.pkt.seq ≠ c.n) }
      let s := outputPkt h.pkt h.hold s
      if portOf c.dst < 52 then drainHeld fuel (sentNext c h.pkt) s
      else ({ c with handed := true }, s)

/-- Deliver the packet numbered N (R246 first row): N advances at once at an edge link, and at an internal port when the
port has taken the packet. -/
def deliverNext (c : Ctx) (p : Packet) (hold : Nat) (s : State) : State :=
  if portOf p.dst < 52 then
    let s := outputPkt p hold s
    let (c, s) := drainHeld 4096 (sentNext c p) s
    putCtx c s
  else if c.handed then dropHold hold (incReg .scDupCnt (dieOfDst p s) (putCtx c s))
  else putCtx { c with handed := true } (outputPkt p hold s)

/-- A damaged packet held whole on a die is dropped, counted and NAKed (R239). -/
def dropDamagedAt (d : Nat) (p : Packet) (s : State) : State := nak p nakDamaged (incReg .scDamagedCnt d s)

/-- A packet whose payload CRC fails at the resequencer (R239 last row). -/
def dropDamaged (p : Packet) (s : State) : State := dropDamagedAt (dieOfDst p s) p s

/-- The table of R246 for a packet whose context is `c`. -/
def resequence (c : Ctx) (p : Packet) (hold : Nat) (s : State) : State :=
  let c := { c with last := s.time.now }
  let d := subMod p.seq c.n (2 ^ 24)
  if d = 0 then
    if payloadCrcGood p then deliverNext c p hold s else dropDamaged p (dropHold hold (putCtx c s))
  else if d < 4096 then
    if !payloadCrcGood p then dropDamaged p (dropHold hold (putCtx c s))
    else if c.held.any (fun h => h.pkt.seq = p.seq) then
      dropHold hold (incReg .scDupCnt (dieOfDst p s) (putCtx c s))
    else putCtx { c with held := c.held ++ [{ pkt := p, hold := hold, at' := s.time.now }] } s
  else if d < 2 ^ 23 then nak p stNoResource (dropHold hold (putCtx c s))
  else
    let s := dropHold hold (incReg .scDupCnt (dieOfDst p s) (putCtx c s))
    if subMod c.a p.seq (2 ^ 24) ≤ 2 ^ 23 then sendAnswer (mkAck p p.dst p.seq 1) s else s

/-- R248 and R246 for a packet held under `hold` at its output device. -/
def sequencePkt (p : Packet) (hold : Nat) (s : State) : State :=
  let s := touchCtx (ctxKey p.src p.stream p.dst) (dieOfDst p s) s
  match ctxOf p s with
  | none =>
    if p.sos then
      match roomForCtx (ctxKey p.src p.stream p.dst) s with
      | some s => resequence (freshCtx p s.time.now) p hold s
      | none => nak p stNoResource (dropHold hold s)
    else nak p nakNoStream (dropHold hold (incReg .scNoStreamCnt (dieOfDst p s) s))
  | some c =>
    if !p.sos then resequence c p hold s
    else if c.held = [] ∧ ¬ c.handed ∧ s.time.now ≥ c.last + 1000000 then resequence (freshCtx p s.time.now) p hold s
    else if c.n = 1 ∨ c.n = 0 then resequence c p hold s
    else nak p stBadState (dropHold hold s)

/-- A unicast packet whose path is prepared is taken at its output device (this one): its cells are taken (R292, R296) and it is put in
sequence. A reserved port value is answered BAD_PARAM (R14). DESIGN CHOICE (log entry 128): so is a fabric-link port, 24 to 47, to
which R14 attaches no endpoint and no fate. A forwarded request was put in sequence by its entry device (R252). -/
def takeHere (inLink : Option Nat) (inVc : Nat) (p : Packet) (s : State) : State :=
  let port := portOf p.dst
  if !(isEdge port || (decide (56 ≤ port) && decide (port ≤ 58))) then nak p stBadParam (giveCredit inLink inVc (cellsOf p) s)
  else
    let d := dieOfPort port p.stream s
    match holdCells d port p.cls (cellsOf p) 1 inLink inVc s with
    | none => nak p stNoResource (noteNoRoom d port p.cls (giveCredit inLink inVc (cellsOf p) s))
    | some (id, s) =>
      let s := incReg .xbStoreCnt d s
      if p.fwd then outputPkt p id s else sequencePkt p id s

/-- A unicast packet reaches its output device (this one): it may be marked PINNED where this is the first GN-52 of its path
(R253). -/
def arriveHere (inLink : Option Nat) (inVc : Nat) (p : Packet) (s : State) : State :=
  let ps := if (match inLink with | none => true | some l => isEdge l) then preparePath inLink p s else (p, s)
  takeHere inLink inVc ps.1 ps.2

/-- An internal port has dealt with the packet handed to it: on a re-send cause N stays and the packet is discarded; else N
advances and the next packet in sequence is handed over (R240). `acked` says the port acknowledged it. -/
def portDone (p : Packet) (delivered acked : Bool) (s : State) : State :=
  match ctxOf p s with
  | none => s
  | some c =>
    if c.n ≠ p.seq then s
    else if !delivered then putCtx { c with handed := false } s
    else
      let c := { c with handed := false, n := (c.n + 1) % 2 ^ 24, a := if acked then p.seq else c.a }
      let (c, s) := drainHeld 1 c s
      putCtx c s

/-- A queue without the packets of a hold; a new head gets its own tag. -/
def queueWithout (id : Nat) (q : OutQueue) (s : State) : OutQueue :=
  let left := q.ents.filter fun x => x.hold ≠ id
  match left, q.ents with
  | n :: r, h :: _ =>
    if h.hold = id then { q with ents := { n with headAt := s.time.now } :: r, tag := headTag q false n.cells s }
    else { q with ents := left }
  | _, _ => { q with ents := left }

/-- A cell of a held packet is lost to an uncorrectable error: each of its queued copies, and a copy held out of sequence, is damaged
and held whole (R239, R304). -/
def damageHold (id : Nat) (s : State) : State :=
  let hit := s.sw.queues.filter fun e => e.2.ents.any fun x => x.hold = id
  let s := hit.foldl (fun s e =>
    let q := queueWithout id e.2 s
    let s := if q.ents = [] ∧ q.dflt then delQueue e.1 s else putQueue e.1 q s
    (e.2.ents.filter fun x => x.hold = id).foldl (fun s x =>
      let s := dropDamagedAt (dieOfPort e.2.port x.pkt.stream s) x.pkt (dropHold id s)
      if e.2.port ≥ 52 then portDone x.pkt false false s else s) s) s
  (s.net.ctxs.filter fun e => e.2.held.any fun h => h.hold = id).foldl (fun s e =>
    let s := putCtx { e.2 with held := e.2.held.filter fun h => h.hold ≠ id } s
    (e.2.held.filter fun h => h.hold = id).foldl (fun s h => dropDamaged h.pkt (dropHold id s)) s) s

/-! ### The streams of ports 56 to 58 -/

/-- The entry of a multicast packet's tree on this device (R282): the root is the source's device. -/
def treeOf (p : Packet) (s : State) : Option TreeEnt := tabFind s.route.trees (treeKey (devOf p.src) p.dst)

/-- The VC on which the copies of a multicast packet go on: that of its class, or the Vent once it escaped (R256, R265). -/
def treeVc (p : Packet) : Nat := if rsVent p then 5 else p.cls

/-- A die looks a tree entry up: one of the 16,384 it caches, or a miss that is counted and brings it there, where a free value names
the one that makes room (R282; log entry 128). -/
def touchTree (key d : Nat) (s : State) : State :=
  let k := 2 * key + d
  let c := s.route.treeCache
  let mine := c.filter fun x => x % 2 = d
  if c.contains k then s
  else
    let s := incReg .rtTreeMissCnt d s
    if mine.length < 16384 then { s with route := { s.route with treeCache := c ++ [k] } }
    else
      let out := mine.getD (freeNat s % 16384) 0
      useFree { s with route := { s.route with treeCache := c.filter (· ≠ out) ++ [k] } }

/-- The copies of a multicast packet that leave one die: one Tundish hold feeds all of them, each has its hop in the route
state (R258), and a leaf copy gets its endpoint as destination and MCAST clear (R245, R292, R303). -/
def replicateOn (d : Nat) (outs leaves : List Nat) (inLink : Option Nat) (inVc : Nat) (p : Packet) (s : State) : State :=
  match holdCells d ((outs ++ leaves).headD 0) (treeVc p) (cellsOf p) (outs.length + leaves.length) inLink inVc s with
  | none => s
  | some (id, s) =>
    let s := incReg .xbStoreCnt d s
    let s := outs.foldl (fun s l =>
      enqueue l (treeVc p) { p with route := stepRoute p viaNone false (rsVent p) false l } (cellsOf p) id s) s
    leaves.foldl (fun s l => sequencePkt { p with mcast := false, dst := ownEp l s } id s) s

/-- Copy a multicast packet to every output of its tree on this device (R245, R283, R292, R303): its cells are reserved on
each die that holds an output, on every such die or on none; its credit goes with the hold of the first die. Where the device
holds no entry of the tree, no copy leaves, and the source's re-send recovers (R284). -/
def replicate (inLink : Option Nat) (inVc : Nat) (p : Packet) (s : State) : State :=
  match treeOf p s with
  | none => giveCredit inLink inVc (cellsOf p) s
  | some e =>
    let outs := bitList 52 e.out
    let leaves := bitList 52 e.leaf ++ (if e.leaf58 then [58] else [])
    let on := fun (d : Nat) (l : List Nat) => l.filter fun x => dieOfPort x p.stream s = d
    let dies := (List.range 2).filter fun d => on d (outs ++ leaves) ≠ []
    match dies.find? (fun d => !admits d (treeVc p) (cellsOf p) s) with
    | some d => nak p stNoResource (noteNoRoom d ((on d (outs ++ leaves)).headD 0) p.cls (giveCredit inLink inVc (cellsOf p) s))
    | none =>
      if dies = [] then giveCredit inLink inVc (cellsOf p) s
      else dies.foldl (fun s d =>
        let s := touchTree (treeKey e.root e.tree) d s
        replicateOn d (on d outs) (on d leaves) (if d = dies.headD 0 then inLink else none) inVc p s) s

/-- Inject a packet of one of this device's ports: own destinations are put in sequence here, others go to the fabric. -/
def inject (p : Packet) (s : State) : State :=
  if p.mcast then
    let ps := preparePath none p s
    replicate none p.cls ps.1 ps.2
  else if devOf p.dst = ownDev s then arriveHere none p.cls p s else launch p s

/-- One packet of a stream is sent: numbered, kept, injected (R244, R247); after a reopening those sent before count as re-sent
(R255). -/
def sendOne (o : OutStream) (x : Packet × List Nat × Purpose) (s : State) : OutStream × State :=
  let p := sealPacket { x.1 with stream := o.stream, seq := o.next, sos := o.next = 0 && !o.opened }
  let kept : SentPkt := { pkt := p, at' := s.time.now, tries := 0, awaiting := x.2.1, why := x.2.2 }
  let s := if o.resent = 0 then s else countResend (sendDie o.stream s) s
  ({ o with next := (o.next + 1) % 2 ^ 24, unacked := o.unacked ++ [kept], last := s.time.now, resent := o.resent - 1 }, inject p s)

/-- Sequence number s may not be sent while s - 4,096 is unacknowledged (R247); copies from before a reopening do not count. -/
def tooFar (o : OutStream) : Bool :=
  o.unacked.any fun x => decide (x.tries ≤ stopTries) && decide (subMod o.next x.pkt.seq (2 ^ 24) ≥ 4096)

/-- Send what a stream may send now: the opening packet alone until it is answered, then up to 4,095 ahead of the oldest unacknowledged one (R247, R248). -/
def flushStream : Nat → OutStream → State → OutStream × State
  | 0, o, s => (o, s)
  | fuel + 1, o, s =>
    match o.waiting with
    | [] => (o, s)
    | x :: r =>
      if (!o.opened && (o.unacked.any (fun x => decide (x.tries < stopTries)) || o.next ≠ 0 || decide (s.time.now < o.openAt))) || tooFar o then
        (o, s)
      else
        let (o', s) := sendOne { o with waiting := r } x s
        flushStream fuel o' s

/-- Flush one stream of the state. The stream is taken out while its packets are injected and put back after. -/
def flushOne (src dst stream : Nat) (s : State) : State :=
  match s.net.streams.find? (fun o => o.src = src ∧ o.dst = dst ∧ o.stream = stream) with
  | none => s
  | some o =>
    let (o', s) := flushStream (o.waiting.length + 1) o s
    modStream src dst stream (fun _ => o') s

/-- Flush every stream of a port. -/
def flushPort (src : Nat) (s : State) : State :=
  (s.net.streams.filter fun o => o.src = src ∧ o.waiting ≠ []).foldl (fun s o => flushOne o.src o.dst o.stream s) s

/-- A port sends a packet to a destination on its stream to it (R247, R248, R358): opened when there is none, or when it
has been idle for 1 s (R248). A multicast packet's stream is named by its tree. A port numbers its streams in the order in
which it opens them, so that a tree's stream and a unicast stream to one of its leaves never share a context (R246). -/
def sendFrom (p : Packet) (awaiting : List Nat) (why : Purpose) (s : State) : State :=
  let key := if p.mcast then p.dst + 2 ^ 18 else p.dst
  let ids := (s.net.streams.filter fun o => o.src = p.src).length
  let fresh : OutStream :=
    { src := p.src, dst := key, stream := ids % 2 ^ 20, next := 0, opened := false, unacked := [], waiting := [], last := s.time.now }
  let l := match s.net.streams.find? (fun o => o.src = p.src ∧ o.dst = key) with
    | none => s.net.streams ++ [{ fresh with waiting := [(p, awaiting, why)] }]
    | some _ => s.net.streams.map fun o =>
      if o.src = p.src ∧ o.dst = key then
        let o := if o.unacked.all (fun x => decide (x.tries ≥ stopTries)) ∧ o.waiting = [] ∧ s.time.now ≥ o.last + 1000000000
          then { o with opened := false, next := 0, unacked := o.unacked.map fun x => { x with tries := stopTries + 1 } } else o
        { o with waiting := o.waiting ++ [(p, awaiting, why)] }
      else o
  flushPort p.src { s with net := { s.net with streams := l } }

/-- Send a kept packet again, unchanged. -/
def resendKept (src dst stream : Nat) (x : SentPkt) (s : State) : State :=
  let s := modStream src dst stream (fun o => { o with last := s.time.now, unacked := o.unacked.map fun y =>
    if y.pkt.seq = x.pkt.seq ∧ y.tries < stopTries then
      { y with tries := y.tries + 1, at' := s.time.now, again := false } else y }) s
  inject x.pkt (countResend (sendDie stream s) s)

/-- The packets that a DAMAGED answer marked go again at once (R243). -/
def resendMarked (s : State) : State :=
  let l := s.net.streams.flatMap fun o => (o.unacked.filter fun x => x.again && decide (x.tries < stopTries)).map fun x => (o, x)
  l.foldl (fun s e => resendKept e.1.src e.1.dst e.1.stream e.2 s) s

/-! ### Replies (R353, R358) -/

/-- The CMD_REPLY packet of R353. -/
def replyPacket (c : CmdRef) (status : Nat) (final : Bool) (body : List Byte) (s : State) : Packet :=
  { typ := tyCmdReply, last := true, dst := c.src, src := ownEp 56 s, cls := c.cls,
    addr := c.op + c.tag * 2 ^ 16 + body.length * 2 ^ 32, args := status + b2n final * 2 ^ 16, payload := body }

/-- Port 56 sends a reply. -/
def reply (c : CmdRef) (status : Nat) (final : Bool) (body : List Byte) (s : State) : State :=
  sendFrom (replyPacket c status final body s) [c.src] (.reply c.tag c.op) (emit (.reply c status final body) s)

/-- The final reply of a command that was ACCEPTED: it is no longer outstanding, and its completion is in the journal until
the reply has been sent (R352, R357). A command already answered (R352), or discarded by a reset (R98), gets no second reply. -/
def finish (c : CmdRef) (status : Nat) (body : List Byte) (s : State) : State :=
  if !s.fore.outstanding.contains c then s
  else
  let s := { s with fore := { s.fore with outstanding := s.fore.outstanding.erase c } }
  reply c status true body s

/-- The final reply of a long command, if a command asked for the work. -/
def finishOpt (c : Option CmdRef) (status : Nat) (body : List Byte) (s : State) : State :=
  match c with
  | some c => finish c status body s
  | none => s

end Sys2Proof.Machine
end

