-- ==== Sys2Proof/Machine/Command.lean ====
section
/-! DEFINITION. How a command of port 56 is checked and answered (R353, R356, R357), and helpers shared by its families. -/
namespace Sys2Proof.Machine

/-- The reference of a command by its metadata and opcode. -/
def refOf (m : CmdMeta) (op : Nat) : CmdRef := { src := m.src, tag := m.tag, op := op, cls := m.cls }

/-- One final reply; a refusal (R360, kind 0x01) is counted in CMD_REJECT_CNT (R367). -/
def answer (c : CmdRef) (status : Nat) (body : List Byte) (s : State) : State :=
  reply c status true body (if status / 256 = 1 then incReg .foreCmdRejectCnt 0 s else s)

/-- A refusal. -/
def refuse (c : CmdRef) (status : Nat) (s : State) : State := answer c status [] s

/-- DONE with no fields. -/
def done (c : CmdRef) (s : State) : State := answer c stDone [] s

/-- The opcodes port 56 performs while the boot ROM is in recovery (R432). -/
def recoveryOps : List Nat := [0x0000, 0x0020, 0x0021, 0x0022]

/-- A command with its reserved parameter bits checked (R353, R356 check 5); in recovery only four opcodes are performed. -/
def command (m : CmdMeta) (op : Nat) (k : CmdRef → State → State) (s : State) : Out :=
  .next (if flag .seRecovery 0 s && !recoveryOps.contains op then refuse (refOf m op) stBadState s
    else if m.resv ≠ 0 then refuse (refOf m op) stBadParam s else k (refOf m op) s)

/-- ACCEPTED, unless 1,024 commands are outstanding (R357); then the work is started. -/
def accept (c : CmdRef) (k : State → State) (s : State) : State :=
  if s.fore.outstanding.length ≥ 1024 then refuse c stNoResource s
  else k (reply c stAccepted false [] { s with fore := { s.fore with outstanding := s.fore.outstanding ++ [c] } })

/-- A command whose parameters satisfy a condition; else a refusal. -/
def requires (ok : Bool) (c : CmdRef) (status : Nat) (k : State → State) (s : State) : State :=
  if ok then k s else refuse c status s

/-- The devices of a Heat's slice (R198), in slice order; none when the Heat is not bound. -/
def sliceDevs (heat : Nat) (s : State) : List Nat :=
  match bindOf heat s with
  | some b => (List.range b.c).flatMap fun i => (List.range 16).map fun m => (b.f + i) % 145 * 16 + m
  | none => []

/-- A device is fenced (R280). -/
def fencedDev (d : Nat) (s : State) : Bool := s.route.fenceDev.contains d

/-- An endpoint is fenced (R280). -/
def fencedEp (e : Nat) (s : State) : Bool := s.route.fence.contains e || fencedDev (devOf e) s

/-- A member of the own group is present: all 16 are in a machine of several groups; in a single-group machine, those whose
intra-group link has been ACTIVE since the data plane started (R158; log entry 41). -/
def memberSeen (m : Nat) (s : State) : Bool :=
  m = s.coord.member || s.coord.count ≠ some 1 || s.coord.seen.testBit m

/-- A device is present in the machine: its group is below the count in force, and a single-group machine holds it. -/
def presentDev (d : Nat) (s : State) : Bool :=
  decide (groupOf d < s.coord.count.getD 1) && (groupOf d ≠ ownGroup s || memberSeen (memberOf d) s)

/-- The Shops are quiet during steps 4 and 5 of a firmware switch-over: no queue starts a command, and no Shop decides (R370). -/
def shopsWait (s : State) : Bool := s.fore.switch.any fun w => w.step = 4

/-- A Shop decision (a Riser proposal, a migration, a retirement, a placement step, a Bay's idle step): it waits while the Shops are
quiet, for at most 1.1 ms (R370). -/
def decided (s : State) (k : Out) : Out := if shopsWait s then .next s else k

/-- Dispatch is paused: a brownout warning or a throttle is in force (R396, R397). -/
def paused (s : State) : Bool := flag .pwWarning 0 s || flag .pwThrottle 0 s

/-- The compute die of a Bay, 25 Bays to each (R9, R376). -/
def dieOfBay (b : Nat) : Nat := b / 25

/-- A Shop dispatches work to a Bay (R23, R392): a Banked Bay is Fired, after its wake time; the work starts then.
While dispatch is paused the wake waits (R395). -/
def wakeBay (b : Nat) (s : State) : State :=
  let st := reg .pwBayState b s
  if st = 0 ∨ (tabFind s.power.bayWake b).isSome then { s with power := { s.power with bayIdle := tabDel s.power.bayIdle b } }
  else if paused s then
    { s with power := { s.power with wakeWait := if s.power.wakeWait.contains b then s.power.wakeWait else s.power.wakeWait ++ [b] } }
  else
    let running := (reg .ckCpllRun 0 s).testBit (dieOfBay b)
    let ns := if st = 1 then 1000 else if running then 20000 else 40000
    let w := if st ≥ 2 ∧ ¬ running ∧ ¬ s.power.cpllWait.contains (dieOfBay b) then s.power.cpllWait ++ [dieOfBay b]
      else s.power.cpllWait
    { s with power := { s.power with bayWake := tabPut s.power.bayWake b (s.time.now + ns), cpllWait := w } }

end Sys2Proof.Machine
end

