-- ==== Sys2Proof/Machine/Mem.lean ====
section
/-! DEFINITION. Operations over HBM, frames, the Pattern Book and the page cache (R150 to R160, R169, R171, R172, R176 to
R179). -/
namespace Sys2Proof.Machine

/-! ### The global fabric address (R155) -/

def gCls (g : Nat) : Nat := bitsOf g 63 60
def gResv (g : Nat) : Nat := bitsOf g 59 56
def gBook (g : Nat) : Nat := bitsOf g 55 44
def gEntry (g : Nat) : Nat := bitsOf g 43 21
def gOff (g : Nat) : Nat := bitsOf g 20 0
/-- The 39-bit page number, bits [59:21]. -/
def gPage (g : Nat) : Nat := bitsOf g 59 21
/-- Book device and entry of a page number. -/
def pageBook (p : Nat) : Nat := bitsOf p 34 23
def pageEntry (p : Nat) : Nat := p % 2 ^ 23
/-- The GFA of the first byte of a page of a class. -/
def pageGfa (cls p : Nat) : Nat := cls * 2 ^ 60 + p * 2 ^ 21
/-- Bytes of a page. -/
def pageBytes : Nat := 2097152

/-! ### Pattern Book entries (R157) -/

/-- The 128 bits of an entry. -/
def entBits (e : PageEnt) : Nat :=
  e.state % 4 + e.cls % 4 * 2 ^ 2 + b2n e.rw * 2 ^ 4 + b2n e.mig * 2 ^ 5 + b2n e.degraded * 2 ^ 6
  + e.home % 2 ^ 12 * 2 ^ 8 + e.mirror % 2 ^ 12 * 2 ^ 20 + e.frame % 2 ^ 18 * 2 ^ 32 + e.hotCnt % 2 ^ 6 * 2 ^ 50
  + e.hotDev % 2 ^ 12 * 2 ^ 56 + e.gen % 2 ^ 16 * 2 ^ 80 + e.owner % 2 ^ 32 * 2 ^ 96

/-- An entry from its 128 bits. -/
def entOfBits (v : Nat) : PageEnt :=
  { state := bitsOf v 1 0, cls := bitsOf v 3 2, rw := bitAt v 4, mig := bitAt v 5, degraded := bitAt v 6,
    home := bitsOf v 19 8, mirror := bitsOf v 31 20, frame := bitsOf v 49 32, hotCnt := bitsOf v 55 50,
    hotDev := bitsOf v 67 56, gen := bitsOf v 95 80, owner := bitsOf v 127 96 }

/-- Page states. -/
def pgFree : Nat := 0
def pgValid : Nat := 1
def pgLost : Nat := 2
def pgMoving : Nat := 3

/-- The book partner of a device (R158): the same group, member XOR 1; where a single-group machine lacks that member, the
nearest present below, or else above; none in a machine of one GN-52. -/
def bookPartner (d : Nat) (s : State) : Option Nat :=
  let m := memberOf d
  let at' := fun k => groupOf d * 16 + k
  if memberSeen (m ^^^ 1) s then some (at' (m ^^^ 1))
  else match ((List.range m).filter fun k => memberSeen k s).getLast? with
    | some k => some (at' k)
    | none => ((List.range 16).find? fun k => decide (k > m) && memberSeen k s).map at'

/-- Whether this device serves a book: its own, or a partner's while that device is fenced (R158). -/
def servesBook (b : Nat) (s : State) : Bool := b = ownDev s || (bookPartner b s = some (ownDev s) && fencedDev b s)

/-- The device that serves a book now: the book device, its partner while it is fenced, none while both are fenced (R158). -/
def bookServer (b : Nat) (s : State) : Option Nat :=
  if !fencedDev b s then some b
  else match bookPartner b s with
    | some d => if fencedDev d s then none else some d
    | none => none

/-- The entry of a page whose book this device serves. The copies of partners' books are keyed by page number. -/
def bookEntry (p : Nat) (s : State) : PageEnt :=
  if pageBook p = ownDev s then tabGet {} s.mem.book (pageEntry p) else tabGet {} s.mem.partner p

/-- Write an entry of a book this device serves; its own book's copy on the partner first (R158: before the change takes
effect). -/
def putEntry (p : Nat) (e : PageEnt) (s : State) : State :=
  if pageBook p = ownDev s then
    let s := { s with mem := { s.mem with book := tabSet {} s.mem.book (pageEntry p) e } }
    match bookPartner (ownDev s) s with
    | some d => if fencedDev d s then s else emit (.ctl d .metaCopy [p, entBits e] []) s
    | none => s
  else { s with mem := { s.mem with partner := tabSet {} s.mem.partner p e } }

/-- What is known of a page's entry on this device: its book here, else the page cache. -/
def knownEntry (p : Nat) (s : State) : Option PageEnt :=
  if servesBook (pageBook p) s then some (bookEntry p s) else tabFind s.mem.cache p

/-- What the home map of this device says of a page it homes or mirrors (R151): the other copy's device is `peer`. -/
def mapEntry (p : Nat) (s : State) : Option PageEnt :=
  s.mem.frames.findSome? fun x =>
    let r := x.2
    let e : PageEnt := { state := pgValid, cls := r.cls, rw := r.rw, mig := r.mig, degraded := r.degraded, frame := x.1,
                         hotCnt := r.hotCnt, hotDev := r.hotDev, gen := r.gen, owner := r.owner }
    if r.use = .home p then some { e with home := ownDev s, mirror := r.peer }
    else if r.use = .mirror p then some { e with home := r.peer, mirror := ownDev s }
    else none

/-- The entry of any page, for the device's own engines: of a book served here, of the page cache, of the home map; else the
entry its book device would answer, which this block does not hold (log entry 7). -/
def entryAt (p : Nat) (s : State) : PageEnt :=
  match (knownEntry p s).or (mapEntry p s) with
  | some e => e
  | none => entOfBits (leNat ((List.range 16).map fun i => Config.remoteByte (2 ^ 64 + p * 16 + i) s.time.now))

/-- Serial comparison of generations (R160). -/
def genLater (a b : Nat) : Bool := let d := subMod a b (2 ^ 16); decide (0 < d) && decide (d < 2 ^ 15)

/-- Information about a page reaches the page cache: it replaces an entry only with a later generation (R160); a page not
cached is cached while the 262,144 entries have room (R159), the lowest page making room otherwise (log entry 22). -/
def cachePut (p : Nat) (e : PageEnt) (s : State) : State :=
  let c := s.mem.cache
  let c' := match tabFind c p with
    | some o => if genLater e.gen o.gen then tabPut c p e else c
    | none => tabPut (if c.length ≥ 262144 then c.drop 1 else c) p e
  { s with mem := { s.mem with cache := c' } }

/-- Replace a cached entry if the page is cached (invalidation, R160). -/
def cacheUpdate (p : Nat) (e : PageEnt) (s : State) : State :=
  match tabFind s.mem.cache p with
  | some _ => cachePut p e s
  | none => s

/-! ### Frames (R150 to R152, R172) -/

def frameTotal : Nat := 147456
def softFrames : Nat := 141568
/-- The first Riser frame: the reserved frames that the table of R151 gives fixed uses come first (log entry 14). -/
def riserBase : Nat := 141760
def stackOf (f : Nat) : Nat := f % 12

/-- A frame's stack failed (R181). -/
def onFailed (f : Nat) (s : State) : Bool := s.mem.lostStacks.testBit (stackOf f)

/-- A frame is zeroed and may be allocated: after main power-on one by one, and all within 40 ms (R172). -/
def frameZeroed (f : Nat) (s : State) : Bool :=
  match s.mem.bootZeroAt with
  | none => true
  | some t => decide (s.time.now ≥ t + 40000000) || s.mem.bootZeroed.contains f

/-- The first number from `n` that a table does not list. -/
def firstGap {α : Type} : Nat → Tab α → Nat
  | n, [] => n
  | n, (k, _) :: r => if k < n then firstGap n r else if k = n then firstGap (n + 1) r else n

/-- A frame of software memory: one of the first 141,568, or a Riser frame that took the place of a retired one (R151). -/
def softFrame (f : Nat) (s : State) : Bool := decide (f < softFrames) || s.mem.promoted.contains f

/-- The lowest free software frame on a stack: `f` is the next one looked at. -/
def softOn (s : State) : Nat → Nat → Option Nat
  | 0, _ => none
  | fuel + 1, f =>
    if f ≥ softFrames then none
    else if (tabFind s.mem.frames f).isNone ∧ frameZeroed f s = true then some f
    else softOn s fuel (f + 12)

/-- A free software frame of a stack: one of the range, else one that took a retired frame's place. -/
def freeOnStack (k : Nat) (s : State) : Option Nat :=
  if s.mem.lostStacks.testBit k then none
  else match softOn s 12288 k with
    | some f => some f
    | none => s.mem.promoted.find? fun f => stackOf f = k && (tabFind s.mem.frames f).isNone && frameZeroed f s

/-- A free software frame: the stacks are taken in rotation (R171). -/
def freeSoft (s : State) : Option Nat :=
  (List.range 12).findSome? fun i => freeOnStack ((s.mem.turn + i) % 12) s

/-- The end of the Riser frames: a device that is partner to more than one device holds each further copy of a book in 64 of
them, the last ones here (R158; log entry 14). -/
def riserTop (s : State) : Nat :=
  let ds := (List.range 16).filter fun k => decide (k ≠ s.coord.member) && memberSeen k s
    && bookPartner (ownGroup s * 16 + k) s = some (ownDev s)
  frameTotal - 64 * (ds.length - 1)

/-- The lowest free Riser frame from `f` on, off the failed stacks and off stack `avoid`. -/
def riserFrom (s : State) (avoid : Nat) : Nat → Nat → Option Nat
  | 0, _ => none
  | fuel + 1, f =>
    if f ≥ riserTop s then none
    else if onFailed f s || stackOf f = avoid || (tabFind s.mem.frames f).isSome || s.mem.promoted.contains f || !frameZeroed f s then
      riserFrom s avoid fuel (f + 1)
    else some f

/-- A free Riser frame on another stack than `avoid`. -/
def riserOff (avoid : Nat) (s : State) : Option Nat := riserFrom s avoid 5696 riserBase

/-- A free Riser frame, on another stack than `st` where one is free (R176), else a free software frame. -/
def freeRiser (st : Nat) (s : State) : Option Nat := (riserOff st s).or ((riserOff 12 s).or (freeSoft s))

/-- Listed frames in a range on stacks that have not failed. -/
def listedIn (lo hi : Nat) (s : State) : Nat :=
  (s.mem.frames.filter fun e => decide (lo ≤ e.1) && decide (e.1 < hi) && !onFailed e.1 s).length

/-- Frames of a range on the stacks that have not failed. -/
def framesIn (lo hi : Nat) (s : State) : Nat :=
  sumNat ((List.range 12).map fun k =>
    if s.mem.lostStacks.testBit k then 0 else (hi + 11 - k) / 12 - (lo + 11 - k) / 12)

/-- Riser frames that stand in for software frames, on stacks that have not failed. -/
def standIns (s : State) : List Nat := s.mem.promoted.filter fun f => !onFailed f s

/-- FRAMES_FREE and RISER_FREE (R183). A stand-in counts as a software frame (R151). -/
def softFree (s : State) : Nat :=
  framesIn 0 softFrames s + (standIns s).length - listedIn 0 softFrames s
    - ((standIns s).filter fun f => (tabFind s.mem.frames f).isSome).length
def riserFree (s : State) : Nat :=
  framesIn riserBase (riserTop s) s - listedIn riserBase (riserTop s) s
    - ((standIns s).filter fun f => (tabFind s.mem.frames f).isNone).length

/-- Write a home-map record. -/
def putFrame (f : Nat) (r : FrameRec) (s : State) : State :=
  { s with mem := { s.mem with frames := tabPut s.mem.frames f r } }

/-- A frame's home-map record. -/
def frameRec (f : Nat) (s : State) : Option FrameRec := tabFind s.mem.frames f

/-- The frame of this device that homes a page. -/
def homeFrame (p : Nat) (s : State) : Option Nat :=
  (s.mem.frames.find? fun e => e.2.use = .home p).map (·.1)

/-- The frame of this device that mirrors a page. -/
def mirrorFrame (p : Nat) (s : State) : Option Nat :=
  (s.mem.frames.find? fun e => e.2.use = .mirror p).map (·.1)

/-- Zero a frame's bytes. -/
def wipeFrame (f : Nat) (s : State) : State :=
  { s with mem := { s.mem with hbm := s.mem.hbm.filter fun e => e.1 / pageBytes ≠ f } }

/-- A frame takes another's place in software memory (R151): a Riser frame stands in for a retired software frame. -/
def replaceSoft (old new : Nat) (s : State) : State :=
  if !softFrame old s then s
  else
    let l := s.mem.promoted.filter (· ≠ old)
    { s with mem := { s.mem with promoted := if new < softFrames then l else l ++ [new] } }

/-- The retired frames are re-applied, before any frame is allocated: Riser frames stand in for the software frames among them
(R151, R152). -/
def applyRetired (l : List Nat) (s : State) : State :=
  l.foldl (fun s f =>
    let s := putFrame f { use := .retired } s
    match (riserOff (stackOf f) s).or (riserOff 12 s) with
    | some new => replaceSoft f new s
    | none => s) s

/-- A frame is released: it waits to be zeroed before it is free again (R172). -/
def releaseFrame (f : Nat) (s : State) : State := putFrame f { use := .zeroing } s

/-! ### HBM bytes -/

/-- The canonical form of HBM: addresses strictly rising, and no byte listed that equals what an unlisted address reads as, which
is 0 (R172: every frame is zeroed before use). -/
def Memory.wf (m : List Host.Cell) : Bool := tabWf 0 m

/-- Bytes of a frame. -/
def hbmRead (f off n : Nat) (s : State) : List Byte := tabRange 0 s.mem.hbm (f * pageBytes + off) n

/-- Store bytes in a frame. -/
def hbmWrite (f off : Nat) (b : List Byte) (s : State) : State :=
  { s with mem := { s.mem with hbm := tabFill 0 s.mem.hbm (f * pageBytes + off) b } }

/-- Copy a frame whole. -/
def hbmCopy (f g : Nat) (s : State) : State :=
  let moved := (s.mem.hbm.filter fun e => e.1 / pageBytes = f).map fun e => (g * pageBytes + e.1 % pageBytes, e.2)
  let s := wipeFrame g s
  { s with mem := { s.mem with hbm := moved.foldl (fun t e => tabSet 0 t e.1 e.2) s.mem.hbm } }

/-! ### Remaps and invalidations (R157, R160) -/

/-- Invalidations that every device has acknowledged are settled: a forwarding stub lasts 1 ms more (R175 step 8), and the
command that asked for the move is answered. -/
def settleInvals (s : State) : State :=
  let ready := s.mem.invals.filter fun i => i.awaiting = []
  let s := { s with mem := { s.mem with invals := s.mem.invals.filter fun i => i.awaiting ≠ [] } }
  ready.foldl (fun s i =>
    let s := match i.stub with
      | some (f, d) => putFrame f { use := .stub i.page d (s.time.now + 1000000) } s
      | none => s
    finishOpt i.cmd stDone [] s) s

/-- Send an invalidation to every other device of the slice and await its acknowledgements. -/
def invalidate (p : Nat) (e : PageEnt) (stub : Option (Nat × Nat)) (c : Option CmdRef) (s : State) : State :=
  let ds := (sliceDevs e.owner s).filter fun d => d ≠ ownDev s && presentDev d s && !fencedDev d s
  let s := cacheUpdate p e s
  let s := emitCtl ds .invalidate [p, entBits e] [] s
  let i : Inval := { page := p, gen := e.gen, awaiting := ds, stub := stub, cmd := c }
  settleInvals { s with mem := { s.mem with invals := s.mem.invals ++ [i] } }

/-- Answer the walks for a page that its remap held back (R159). -/
def releaseWalks (p : Nat) (s : State) : State :=
  let go := s.mem.walkHeld.filter fun w => w.1 = p
  let s := { s with mem := { s.mem with walkHeld := s.mem.walkHeld.filter fun w => w.1 ≠ p } }
  go.foldl (fun s w => emit (.ctl w.2 .walkReply [p, entBits (bookEntry p s)] []) s) s

/-- The home-map record an entry gives a frame of this device: its home, or its mirror (R151). -/
def mapRec (mirror : Bool) (p : Nat) (e : PageEnt) (s : State) : FrameRec :=
  { use := if mirror then .mirror p else .home p, cls := e.cls, peer := if mirror then e.home else e.mirror,
    degraded := e.degraded, gen := e.gen, owner := e.owner, rw := e.rw, mig := e.mig, remapAt := s.time.now }

/-- The home map of this device follows an entry's new fields. The hot counters are its own (R157); `remap` is false for a
change that is no remap. -/
def syncMap (remap : Bool) (p : Nat) (e : PageEnt) (s : State) : State :=
  let upd (r n : FrameRec) : FrameRec :=
    { n with hotCnt := r.hotCnt, hotDev := r.hotDev, served := r.served, remapAt := if remap then n.remapAt else r.remapAt }
  let new (r : FrameRec) : FrameRec :=
    if r.use = .home p then upd r (mapRec false p e s) else if r.use = .mirror p then upd r (mapRec true p e s) else r
  { s with mem := { s.mem with frames := s.mem.frames.map fun (f, r) => (f, new r) } }

/-- The hot counters a remap writes to the book (R157): the home map's, where this device is the home; another home's are not in
this block, and are free values. -/
def hotOf (p : Nat) (e : PageEnt) (s : State) : (Nat × Nat) × State :=
  match (homeFrame p s).bind fun f => frameRec f s with
  | some r => ((r.hotCnt, r.hotDev), s)
  | none => if e.state = pgFree ∨ e.home = ownDev s then ((0, 0), s)
    else ((Config.freePart s.freeCtr 0 % 64, Config.freePart s.freeCtr 1 % 2320), useFree s)

/-- The book remaps a page at most once per 10 µs (R160): an earlier remap is waited for. -/
def paceRemap (p : Nat) (s : State) : State :=
  let last := tabGet 0 s.mem.remapAt p
  let s := if last = 0 then s else advanceTo (last - 1 + 10000) s
  { s with mem := { s.mem with remapAt := tabSet 0 s.mem.remapAt p (s.time.now + 1) } }

/-- Write a remap of a page of a book this device serves: a change of home, mirror, frame or state, with the next generation and
the counters of the home map. Answers the entry that its invalidation carries, under the owner whose slice gets it. -/
def bookRemap (p : Nat) (f : PageEnt → PageEnt) (s : State) : PageEnt × State :=
  let s := paceRemap p s
  let o := bookEntry p s
  let (hot, s) := hotOf p o s
  let e := { f { o with hotCnt := hot.1, hotDev := hot.2 } with gen := (o.gen + 1) % 2 ^ 16 }
  ({ e with owner := if e.owner = 0 then o.owner else e.owner }, syncMap true p e (putEntry p e s))

/-- Remap a page and send the invalidations; a stub and a command wait for their acknowledgements (R160). -/
def remapWith (p : Nat) (f : PageEnt → PageEnt) (stub : Option (Nat × Nat)) (c : Option CmdRef) (s : State) : State :=
  let (e, s) := bookRemap p f s
  invalidate p e stub c s

/-- A remap that nothing else waits for. -/
def remap (p : Nat) (f : PageEnt → PageEnt) (s : State) : State := remapWith p f none none s

/-- A change of an entry that is no remap (R157): the book, its copy, and the home maps, with no invalidation (log entry 111). -/
def amendEntry (p : Nat) (f : PageEnt → PageEnt) (s : State) : State :=
  let e := f (bookEntry p s)
  let s := syncMap false p e (putEntry p e s)
  let ds := (dedupNat [e.home, e.mirror]).filter fun d => d ≠ 0xFFF && d ≠ ownDev s && presentDev d s && !fencedDev d s
  emitCtl ds .metaCopy [p, entBits e] [] s

/-- What one memory Shop tells another of a page, beside an invalidation, as a number. -/
def noteCode : PageNote → Nat
  | .invalidate _ => 0
  | .copy => 1
  | .lost => 2
  | .lostStack => 3
  | .mirrorFailed => 4
  | .moving => 5
  | .moved => 6

/-- The home of a page tells the device that serves its book (R175, R176, R179). -/
def tellBook (p : Nat) (n : PageNote) (e : PageEnt) (s : State) : State :=
  match bookServer (pageBook p) s with
  | some d => emit (.ctl d .pageNote [p, noteCode n, entBits e] []) s
  | none => s

/-- The page's frames on this device are released. -/
def dropFrames (p : Nat) (s : State) : State :=
  let s := match homeFrame p s with | some f => releaseFrame f s | none => s
  match mirrorFrame p s with | some f => releaseFrame f s | none => s

/-- The contents of a segment's frame are lost. -/
def segFrameLost (f : Nat) (s : State) : State :=
  let hit (g : Seg) : Seg := if g.pages.contains f then { g with lost := g.lost ++ [f] } else g
  { s with layer := { s.layer with segs := s.layer.segs.map fun (i, g) => (i, hit g) } }

/-- A segment's page moves to another frame. -/
def segFrameMoved (f f' : Nat) (s : State) : State :=
  let to' (x : Nat) : Nat := if x = f then f' else x
  let hit (g : Seg) : Seg := { g with pages := g.pages.map to', lost := g.lost.map to' }
  { s with layer := { s.layer with segs := s.layer.segs.map fun (i, g) => (i, hit g) } }

/-- Moves that satisfy a test end without a remap: frames reserved here are free again, and their commands answer BAD_STATE (log
entry 126). -/
def endMoves (test : Move → Bool) (s : State) : State :=
  let gone := s.mem.moves.filter test
  let s := { s with mem := { s.mem with moves := s.mem.moves.filter (fun m => !test m) } }
  gone.foldl (fun s m =>
    let held := (frameRec m.new s).any fun r => r.use = .reserved m.page
    finishOpt m.cmd stBadState [] (if m.target = ownDev s ∧ held then releaseFrame m.new s else s)) s

/-! ### Reads and writes by the device's own engines -/

/-- Why an engine's access fails. -/
inductive AccErr where
  | denied
  | lost (remote : Bool)
  | bad
  deriving DecidableEq, Repr

/-- The page checks of an engine's access for a Heat (R157 RW does not bind it), in the order of R167: a book that is unreachable
with its partner ends the access as DATA_LOST. -/
def engineCheck (heat gfa : Nat) (s : State) : Option AccErr :=
  let p := gPage gfa
  let known := (knownEntry p s).or (mapEntry p s)
  let e := entryAt p s
  let noBook := (bookServer (pageBook p) s).isNone
  if gCls gfa > 2 ∨ gResv gfa ≠ 0 ∨ pageBook p > 2319 then some .bad
  else if known.isNone ∧ noBook = true then some (.lost true)
  else if e.state = pgFree ∨ e.cls ≠ gCls gfa then some .bad
  else if e.owner ≠ heat then some .denied
  else if e.state = pgLost ∨ (e.cls ≠ 2 ∧ fencedDev e.home s) ∨ noBook = true then some (.lost (decide (e.home ≠ ownDev s)))
  else none

/-- Bytes of one page, as an engine reads them: from this device's frame, else from the page's home. -/
def engineRead1 (gfa n : Nat) (s : State) : List Byte :=
  match homeFrame (gPage gfa) s with
  | some f => hbmRead f (gOff gfa) n s
  | none => (List.range n).map fun i => Config.remoteByte (gfa + i) s.time.now

/-- Cut a span into pieces that stay within a page: (address, length) pairs. -/
def pagePieces : Nat → Nat → Nat → List (Nat × Nat)
  | 0, _, _ => []
  | fuel + 1, gfa, n =>
    if n = 0 then [] else
      let k := min n (pageBytes - gOff gfa)
      (gfa, k) :: pagePieces fuel (gfa + k) (n - k)

/-- The pieces of a span. -/
def piecesOf (gfa n : Nat) : List (Nat × Nat) := pagePieces (n / pageBytes + 2) gfa n

/-- The first failing check over a span. -/
def spanCheck (heat gfa n : Nat) (s : State) : Option (AccErr × Nat) :=
  (piecesOf gfa n).findSome? fun e => (engineCheck heat e.1 s).map fun x => (x, e.1)

/-- Bytes of a span. -/
def spanRead (gfa n : Nat) (s : State) : List Byte := (piecesOf gfa n).flatMap fun e => engineRead1 e.1 e.2 s

/-- Write within one page: this device's frame and its mirror, else a message to the home. -/
def engineWrite1 (gfa : Nat) (b : List Byte) (s : State) : State :=
  let p := gPage gfa
  match homeFrame p s with
  | some f =>
    let s := hbmWrite f (gOff gfa) b s
    let e := entryAt p s
    if e.cls = 2 ∧ e.mirror ≠ 0xFFF then emit (.ctl e.mirror .mirrorWrite [gfa] b) s else s
  | none => emit (.ctl (entryAt p s).home .stateWrite [gfa] b) s

/-- Write a span. -/
def spanWrite (gfa : Nat) (b : List Byte) (s : State) : State :=
  (piecesOf gfa b.length).foldl (fun s e => engineWrite1 e.1 ((b.drop (e.1 - gfa)).take e.2) s) s

/-! ### Allocation (R171) -/

/-- Take a frame on a device for a page: this device's next free software frame, its stacks in rotation (R171); on another
device a frame number it chooses, which this block does not see (a free value). -/
def takeFrame (d : Nat) (r : FrameRec) (s : State) : Nat × State :=
  if d = ownDev s then
    match freeSoft s with
    | some f => (f, putFrame f r { s with mem := { s.mem with turn := (f + 1) % 12 } })
    | none => (0, s)
  else (freeNat s % frameTotal, useFree s)

/-- Home and mirror of page `i` of an allocation. -/
def allocHome (j : AllocJob) (i : Nat) : Nat := j.homes.getD ((j.first + i / j.stripe) % j.homes.length) 0
def allocMirror (j : AllocJob) (i : Nat) : Nat :=
  if j.cls = 2 then j.homes.getD ((j.first + i / j.stripe + j.mstep) % j.homes.length) 0 else 0xFFF

/-- Allocate page `i` at entry `base + i` of the own slice. -/
def allocPage (j : AllocJob) (base i : Nat) (s : State) : State :=
  let p := ownDev s * 2 ^ 23 + base + i
  let h := allocHome j i
  let m := allocMirror j i
  let e : PageEnt := { state := pgValid, cls := j.cls, rw := j.rw, mig := j.mig, home := h, mirror := m, owner := j.heat }
  let (f, s) := takeFrame h (mapRec false p e s) s
  let s := if j.cls = 2 then (takeFrame m (mapRec true p e s) s).2 else s
  remap p (fun _ => { e with frame := f }) s

/-- The lowest run of `n` FREE entries of the own slice. -/
def freeRun (n : Nat) : Nat → Tab PageEnt → Option Nat
  | lo, [] => if lo + n ≤ 2 ^ 23 then some lo else none
  | lo, (k, e) :: r =>
    if e.state = pgFree then freeRun n lo r
    else if k ≥ lo + n then some lo else freeRun n (k + 1) r

/-- Frames an allocation takes on this device. -/
def ownFrames (j : AllocJob) (s : State) : Nat :=
  sumNat ((List.range j.count).map fun i => b2n (allocHome j i = ownDev s) + b2n (allocMirror j i = ownDev s))

/-- The frames an allocation needs on this device are zeroed (R172). -/
def framesReady (j : AllocJob) (s : State) : Bool :=
  match s.mem.bootZeroAt with
  | none => true
  | some t => decide (s.time.now ≥ t + 40000000)
      || decide ((s.mem.bootZeroed.filter fun f => softFrame f s && (frameRec f s).isNone && !onFailed f s).length ≥ ownFrames j s)

/-- Perform an allocation whose frames are ready, and answer it. It takes all its frames or none (R171): those it found free may
have gone while it waited. -/
def performAlloc (j : AllocJob) (s : State) : State :=
  match freeRun j.count 0 s.mem.book, decide (softFree s < ownFrames j s) with
  | none, _ | _, true => finish j.cmd stNoResource [] s
  | some base, false =>
    let s := (List.range j.count).foldl (fun s i => allocPage j base i s) s
    finish j.cmd stDone (leBytes 8 (pageGfa j.cls (ownDev s * 2 ^ 23 + base))) s

/-- Allocations that waited for zeroed frames are performed as their frames become ready (R172). -/
def retryAllocs (s : State) : State :=
  let jobs := s.mem.allocs
  jobs.foldl (fun s j =>
    if framesReady j s then performAlloc j { s with mem := { s.mem with allocs := s.mem.allocs.erase j } } else s) s

/-- The first device after `d`, in device-index order within the Heat's slice, that satisfies a test (R178, R179). -/
def nextDevice (heat d : Nat) (ok : Nat → Bool) (s : State) : Option Nat :=
  let ds := (List.range 2320).filter fun x => (sliceDevs heat s).contains x && presentDev x s && ok x
  match ds.filter fun x => decide (x > d) with
  | x :: _ => some x
  | [] => ds.head?

/-- A device can supply a frame: this device's free count; another device's is not known here, and a free value decides. -/
def suppliesFrame (d : Nat) (s : State) : Bool :=
  if d = ownDev s then (freeSoft s).isSome else Config.freePart s.freeCtr (d + 4096 * s.time.now) % 2 = 0

/-- Give a DEGRADED page a new mirror and start its resynchronisation (R178). -/
def chooseMirror (p avoid : Nat) (s : State) : State :=
  let e := bookEntry p s
  match nextDevice e.owner avoid (fun d => d ≠ e.home && !fencedDev d s && suppliesFrame d s) s with
  | none => useFree s
  | some m =>
    let (f, s) := takeFrame m (mapRec true p { e with degraded := true } s) s
    let s := remap p (fun e => { e with mirror := m }) s
    { s with mem := { s.mem with moves := s.mem.moves ++
      [{ page := p, kind := .resync, target := m, old := e.frame, new := f, frozen := false, since := s.time.now,
         cmd := none }] } }

/-- A remap of the page is in progress (R185). -/
def pageBusy (p : Nat) (s : State) : Bool :=
  s.mem.moves.any (fun m => m.page = p) || (entryAt p s).state = pgMoving

/-- The home samples 1 access in 16 to each page with MIG_EN set (R174). Which one of the 16 is open: `Config.samplePhase`. -/
def sampleAccess (entryDev f : Nat) (s : State) : State :=
  match frameRec f s with
  | none => s
  | some r =>
    if !r.mig then s
    else
      let k := r.served
      let r := { r with served := (k + 1) % 16 }
      if k ≠ Config.samplePhase % 16 then putFrame f r s
      else
        let r := if entryDev = r.hotDev then { r with hotCnt := min 63 (r.hotCnt + 1) }
          else if r.hotCnt = 0 then { r with hotDev := entryDev } else { r with hotCnt := r.hotCnt - 1 }
        putFrame f r s

/-- A GFA lies in a page a table record covers (R142, R174): base page to the last page of its blocks. -/
def tablePages (t : EmbTable) : Nat :=
  let w := if t.fmt = 0x03 ∨ t.fmt = 0x04 then 2 else if t.fmt = 0x05 then 4 else 1
  let rb := pageBytes / (t.dim * w)
  let planes := if t.kind = 3 then 1 else if t.kind = 1 then 2 else 3
  ceilDiv t.rows rb * (1 + planes * (t.dim * 4 * rb / pageBytes))

/-- A page belongs to a table recorded here. -/
def onTable (p : Nat) (s : State) : Bool :=
  s.upd.tables.any fun t => decide (gPage t.base ≤ p) && decide (p < gPage t.base + tablePages t)

/-- A page belongs to a dense state recorded here. -/
def onState (p : Nat) (s : State) : Bool :=
  s.upd.states.any fun u =>
    let planes := if u.kind = 3 then 1 else if u.kind = 1 then 2 else 3
    decide (gPage u.base ≤ p) && decide (p < gPage u.base + 2 * planes * ceilDiv (4 * u.elems) pageBytes)

/-- A placed segment uses a page: one of its tensors lies at a GFA in it. -/
def onSegment (p : Nat) (s : State) : Bool :=
  s.layer.segs.any fun e => e.2.state = .placed &&
    e.2.tens.any fun t =>
      let g := fieldAt t.2 16 8
      let place := fieldAt t.2 1 1
      let n := (if fieldAt t.2 2 1 % 2 = 1 then e.2.maxRows else fieldAt t.2 4 2) * fieldAt t.2 6 2 * fieldAt t.2 8 2 * 4
      (place = 1 ∨ place = 2 ∨ place = 4 ∨ place = 5) && g ≠ 0 && decide (gPage g ≤ p)
        && decide (p ≤ gPage (g + n - 1))

/-- This device holds a record or segment that covers a page (R173). -/
def coversPage (p : Nat) (s : State) : Bool := onTable p s || onState p s || onSegment p s

end Sys2Proof.Machine
end

