-- ==== Sys2Proof/Machine/Views.lean ====
section
/-! DEFINITION. Registers that show other state (R229, R255, R286, R287, R306, R308, R326, R349, R367, R374, R405, R406, R425,
R426, R439, R440, R457), and reading any register word by its CSR address (R363, R364). -/
namespace Sys2Proof.Machine

/-! ### Firmware slots (R430, R440) -/

/-- Slot A (0) or B (1). -/
def slotOf (i : Nat) (s : State) : Slot := if i = 0 then s.sec.slotA else s.sec.slotB

/-- Byte `i` of a slot's image. -/
def slotByte (c : SlotContent) (i : Nat) : Byte :=
  match c with
  | .empty => 0xFF#8
  | .factory v sv =>
    if 8 ≤ i ∧ i < 12 then (leBytes 4 v).getD (i - 8) 0 else if i = 12 then BitVec.ofNat 8 sv else Config.factoryImage i
  | .bytes b _ => tabGet 0xFF#8 b i

/-- Bytes `[off, off + n)` of a slot. -/
def slotBytes (c : SlotContent) (off n : Nat) : List Byte := (List.range n).map fun i => slotByte c (off + i)

/-- Image version and security version; 0 when empty. -/
def slotVersion (c : SlotContent) : Nat := if c = .empty then 0 else leNat (slotBytes c 8 4)
def slotSec (c : SlotContent) : Nat := if c = .empty then 0 else leNat (slotBytes c 12 1)

/-- Slot state: 0 empty, 1 written, 2 verified. -/
def slotState (x : Slot) : Nat := if x.content = .empty then 0 else if x.verified then 2 else 1

/-! ### Counts of other state -/

/-- The arithmetic signature (R4). -/
def signature : Nat := if Config.steppingS2 then 0x0201 else 0x0101

/-- Stream contexts for outputs of a die. -/
def ctxsOfDie (d : Nat) (s : State) : List Ctx :=
  (s.net.ctxs.map (·.2)).filter fun c => dieOfPort (portOf c.dst) c.stream s = d

/-- Pages of the own slice in a state. -/
def pagesWith (f : PageEnt → Bool) (s : State) : Nat := (s.mem.book.filter fun e => f e.2).length

/-- Pours between REGISTERED and DELIVERING. -/
def poursLive (s : State) : Nat := (s.pour.pours.filter fun p => decide (p.state ≤ 4)).length

/-- Bays the layer Shop owns. -/
def baysOfLayer (s : State) : Nat := (s.layer.bays.filter fun e => e.2.seg.isSome).length

/-- Bytes of one element by a format code. -/
def widthOf (code : Nat) : Nat := match fmtOfCode code with | some f => f.bytes | none => 1

/-- Bytes of saved activations of a segment, in Flask SRAM or in HBM (R97, R118). -/
def savedBytes (inSram : Bool) (g : Seg) : Nat :=
  sumNat (g.saved.map fun e =>
    if g.sram.testBit e.1 = inSram then e.2.length * widthOf (fieldAt (tabGet [] g.tens e.1) 0 1) else 0)

/-- Saved activations of all segments in KiB. -/
def savedKib (inSram : Bool) (s : State) : Nat := ceilDiv (sumNat (s.layer.segs.map fun e => savedBytes inSram e.2)) 1024

/-- The profile digest (R395): the first 8 bytes of SHAKE256 over the 16 profile bytes. -/
def profileDigest (s : State) : List Byte := shake256 8 s.power.profile

/-- A field of the last good Assay frame; 0 before one has come (R455). -/
def frameField (off n : Nat) (s : State) : Nat := match s.assay.rx with | some b => fieldAt b off n | none => 0

/-- Offset of channel `c`'s record in a frame (R454). -/
def frameChan (c : Nat) : Nat := 32 + 24 * c

/-- A Riser Flask of a Bay (key Bay × 4 + k). -/
def riserFlask (key : Nat) (s : State) : RiserFlask := tabGet {} s.rel.risers key

/-- Riser Flasks unused: logical number 0x7F and not failed. -/
def riserFlasksFree (s : State) : Nat :=
  400 - (s.rel.risers.filter fun e => e.2.logical ≠ 0x7F || e.2.failed).length

/-- The physical position that serves a logical Flask: a Riser's, or its own number (R411). -/
def flaskPos (b f : Nat) (s : State) : Nat :=
  match (List.range 4).find? fun k => (riserFlask (4 * b + k) s).logical = f && !(riserFlask (4 * b + k) s).failed with
  | some k => 100 + k
  | none => f

/-- The smallest margin reported in a Bay by the positions that serve its Flasks; 0 before any report, and while CLK_EN[1] is
clear (R386, R411, R425). -/
def bayMargin (b : Nat) (s : State) : Nat :=
  if !(reg .ckClkEn 0 s).testBit 1 then 0
  else match (List.range 100).filterMap fun f => tabFind s.rel.margins (b * 104 + flaskPos b f s) with
    | [] => 0
    | x :: r => r.foldl min x

/-- Age of the sideband snapshot in µs (R374). -/
def snapAge (s : State) : Nat := min ((s.time.now - s.sb.snapAt) / 1000) 0xFFFFFFFF

/-- The instance of a field that is computed from other state (i: link, die, port, Bay, stack, slot …). -/
def viewReg (f : Fld) (i : Nat) (s : State) : Option Nat :=
  match f with
  | .foreOutstanding => some s.fore.outstanding.length
  | .crAllow => some (vcOf (i / 16) (i % 16) s).allow
  | .crAvail => some (creditAvail (i / 16) (i % 16) s)
  | .rtTrees => some s.route.trees.length
  | .tuFreeCells => some (freeCells i s)
  | .tuCached => some (runCount (half i s).cache)
  | .tuHeldCells => some (sumNat ((ctxsOfDie i s).map fun c => sumNat (c.held.map fun h => cellsOf h.pkt)))
  | .tuPoolLevel => some (poolLevel i s)
  | .thDepth => some (queueDepth s (i / 5) (i % 5))
  | .thLevel => some (portLevel (i / 5) (i % 5) s)
  | .xbBridgeKcells => some ((half i s).xferCells / 65536)
  | .qpQueuesUsed => some (440 + (s.sw.queues.filter fun e => !e.2.dflt).length)
  | .qpPortQueues => some (8 + (s.sw.queues.filter fun e => !e.2.dflt && e.2.port = i).length)
  | .qpInternalQueues => some (8 + (s.sw.queues.filter fun e => !e.2.dflt && e.2.port = 56 + i).length)
  | .scCtxOpen => some (ctxsOfDie i s).length
  | .scHeld => some (sumNat ((ctxsOfDie i s).map fun c => c.held.length))
  | .sdFlipPending => some (b2n (schedOf i s).flip.isSome)
  | .sdPolicers => some (schedOf i s).streams.length
  | .sdVLo => some ((schedOf i s).v % 2 ^ 32)
  | .sdVHi => some ((schedOf i s).v / 2 ^ 32)
  | .spSampled => some s.samples.length
  | .meFramesFree => some (softFree s)
  | .meRiserFree => some (riserFree s)
  | .meBookUsed => some (pagesWith (fun e => e.state ≠ pgFree) s)
  | .meLostPages => some (pagesWith (fun e => e.state = pgLost) s)
  | .meDegradedPages => some (pagesWith (fun e => e.degraded) s)
  | .hbFailed => some (b2n (s.mem.lostStacks.testBit i))
  | .peInflight => some (poursLive s)
  | .peSets => some s.pour.sets.length
  | .peSetEntries => some (sumNat (s.pour.sets.map fun e => e.2.count))
  | .peSpillPages => some s.pour.spill
  | .laSegsPlaced => some (s.layer.segs.filter fun e => e.2.state = .placed).length
  | .laBaysHeld => some (baysOfLayer s)
  | .laSavedSramKib => some (savedKib true s)
  | .laSavedHbmKib => some (savedKib false s)
  | .upRules => some s.upd.rules.length
  | .upStates => some s.upd.states.length
  | .upTables => some s.upd.tables.length
  | .ckTimeLo => some (s.time.base % 2 ^ 32)
  | .ckTimeHi => some (if s.time.latched then s.time.latchHi else s.time.base / 2 ^ 32)
  | .ckWrapCnt => some (if s.time.latched then s.time.latchWrap else s.time.wrap)
  | .pwModuleW => some (if s.power.state = .standbyOnly then 0 else Config.moduleWatts s.time.now)
  | .pwBaysFired => some ((List.range 100).filter fun b => reg .pwBayState b s = 0).length
  | .pwProfileDigLo => some (fieldAt (profileDigest s) 0 4)
  | .pwProfileDigHi => some (fieldAt (profileDigest s) 4 4)
  | .arSealOpen => some (frameField 3 1 s % 2)
  | .arTrailFull => some (frameField 3 1 s / 2 % 2)
  | .arAgeMs => some (if s.assay.rx.isSome then (s.time.now - s.assay.rxAt) / 1000000 else 0)
  | .arFrameSeq => some (frameField 4 4 s)
  | .arEventCnt => some (frameField 16 4 s)
  | .arOutageCnt => some (frameField 20 4 s)
  | .arDelivLo => some (frameField (frameChan i) 4 s)
  | .arDelivHi => some (frameField (frameChan i + 4) 4 s)
  | .arRetLo => some (frameField (frameChan i + 8) 4 s)
  | .arRetHi => some (frameField (frameChan i + 12) 4 s)
  | .arPowerMw => some (frameField (frameChan i + 16) 4 s)
  | .arVoltMv => some (frameField (frameChan i + 20) 2 s)
  | .arEn => some (frameField (frameChan i + 22) 2 s % 2)
  | .arOvr => some (frameField (frameChan i + 22) 2 s / 2 % 2)
  | .reRiserFlaskFree => some (riserFlasksFree s)
  | .reBaysDegraded => some s.rel.degraded.length
  | .reAgeMarginPs => some (bayMargin i s)
  | .reRiserPhys => some (100 + i % 4)
  | .reRiserLogical => some (riserFlask i s).logical
  | .reRiserFailed => some (b2n (riserFlask i s).failed)
  | .shHeld => some s.rel.entries.length
  | .sbSnapAgeUs => some (snapAge s)
  | .seRollback => some s.sec.fuses
  | .seSerialLo => some (Config.serial.toNat % 2 ^ 32)
  | .seSerialHi => some (Config.serial.toNat / 2 ^ 32)
  | .seRootHash => some (bitsOf Config.rootHash.toNat (32 * i + 31) (32 * i))
  | .imState => some (slotState (slotOf i s))
  | .imVersion => some (slotVersion (slotOf i s).content)
  | .imSecVersion => some (slotSec (slotOf i s).content)
  | .deContexts => some s.det.ctxs.length
  | .deSignature => some signature
  | .deP1Ceil => some (b2n (s.pins.pattern = 1))
  | .deHashMib => some (min (s.det.hashed / 1048576) 0xFFFFFFFF)
  | _ => none

/-- The value of a field's instance, stored or computed, cut to its width. -/
def readReg (f : Fld) (i : Nat) (s : State) : Nat :=
  match viewReg f i s with
  | some v => v % 2 ^ fldWidth f
  | none => reg f i s

/-! ### Words by address (R363, R364) -/

/-- Whether an address lies in one of a row's repeats, and the instance it names: the offset from the row's base is cut by
each repeat's stride in turn. -/
def rowInst : List (Nat × Nat × Nat) → Nat → Option Nat
  | [], off => if off = 0 then some 0 else none
  | (n, stride, step) :: r, off =>
    let k := off / stride
    if k ≥ n then none
    else match rowInst r (off - k * stride) with
      | some i => some (k * step + i)
      | none => none

/-- The instance of a row at an address. -/
def instAt (r : RegRow) (addr : Nat) : Option Nat := if addr < r.base then none else rowInst r.dims (addr - r.base)

/-- The rows with the instances that make up the word at an address. Port and class thresholds stand in the block of the
port's die only (R306). -/
def wordRows (addr : Nat) : List (RegRow × Nat) :=
  regMap.filterMap fun r =>
    match instAt r addr with
    | some i =>
      let foreign := (r.fld = .thWarn ∨ r.fld = .thSlow ∨ r.fld = .thStop ∨ r.fld = .thDepth ∨ r.fld = .thLevel)
        ∧ (i / 5) % 2 ≠ (addr >>> 24) % 2
      if foreign then none else some (r, i)
    | none => none

/-- The word at an address: its fields at their bits, write-only fields as 0 (R7). -/
def readWord (addr : Nat) (s : State) : Nat :=
  sumNat ((wordRows addr).map fun e => if e.1.acc = .wo then 0 else readReg e.1.fld e.2 s * 2 ^ e.1.lo)

/-- `n` consecutive words as bytes. -/
def readWords (addr n : Nat) (s : State) : List Byte := (List.range n).flatMap fun k => leBytes 4 (readWord (addr + 4 * k) s)

end Sys2Proof.Machine
end

