-- ==== Sys2Proof/Machine/Digest.lean ====
section
/-! DEFINITION. Leaves and digests of the Ihlil record (R335 to R337). -/
namespace Sys2Proof.Machine

/-- The leaf of a kind and a body: the first 64 bytes of SHAKE256 over them. -/
def leafOf (kind : Nat) (body : List Byte) : List Byte := shake256 64 (BitVec.ofNat 8 kind :: body)

/-- Add a leaf to an accumulator. -/
def addLeaf (a : Accum) (leaf : List Byte) : Accum :=
  { sum := (a.sum + leNat leaf) % 2 ^ 512, count := (a.count + 1) % 2 ^ 64 }

/-- The digest of an accumulator. -/
def accDigest (a : Accum) : List Byte := shake256 64 (leBytes 64 a.sum ++ leBytes 8 a.count)

/-- The open context of a Heat. -/
def ctxOfHeat (heat : Nat) (s : State) : Option DetCtx := s.det.ctxs.find? fun c => c.heat = heat

/-- Change a Heat's open context. -/
def modCtx (heat : Nat) (f : DetCtx → DetCtx) (s : State) : State :=
  markCtxs (fun c => if c.heat = heat then f c else c) s

/-- The four accumulators of a context. -/
inductive Acc where
  | prog | weights | inputs | result
  deriving DecidableEq, Repr

/-- Add a leaf to one accumulator of a Heat's open context; nothing without one. -/
def leaf (a : Acc) (heat kind : Nat) (body : List Byte) (s : State) : State :=
  match ctxOfHeat heat s with
  | none => s
  | some _ =>
    let l := leafOf kind body
    let s := modCtx heat (fun c => match a with
      | .prog => { c with prog := addLeaf c.prog l }
      | .weights => { c with weights := addLeaf c.weights l }
      | .inputs => { c with inputs := addLeaf c.inputs l }
      | .result => { c with result := addLeaf c.result l }) s
    let s := { s with det := { s.det with hashed := s.det.hashed + body.length + 1 } }
    incReg .deLeafCnt 0 s

/-- A program leaf that carries a step (R338 first_step and last_step). -/
def stepLeaf (heat kind step : Nat) (body : List Byte) (s : State) : State :=
  let s := modCtx heat (fun c => { c with steps := match c.steps with
    | none => some (step, step)
    | some (a, b) => some (min a step, max b step) }) s
  leaf .prog heat kind (body ++ leBytes 4 step) s

/-- A packet with DIGEST set is accepted (R337). -/
def digestPacket (p : Packet) (s : State) : State :=
  if !p.digest then s
  else match ctxOfHeat p.heat s with
    | none => markFlag detUnhashed (incReg .deUnhashedCnt 0 s)
    | some _ => leaf .inputs p.heat 0x20 (leBytes 1 p.typ ++ leBytes 3 p.src ++ leBytes 8 p.addr ++ p.payload) s

end Sys2Proof.Machine
end

