-- ==== Sys2Proof/Machine/Binding.lean ====
section
/-! DEFINITION. The slice table: HEAT_BIND, HEAT_UNBIND and HEAT_LIST (R199, R200, R361). -/
namespace Sys2Proof.Machine

/-- A Heat is bound on this device. -/
def isBound (heat : Nat) (s : State) : Bool := (bindOf heat s).isSome

/-- The Heat was unbound less than 1 s ago (R199, R200). -/
def recentlyUnbound (heat : Nat) (s : State) : Bool :=
  s.coord.unbound.any fun e => e.1 = heat && decide (s.time.now < e.2 + 1000000000)

/-- The outcome of HEAT_BIND, in the order of the table of R199: with no group count in force no group is below it, and with no group
number the device is in no range. -/
def bindCheck (heat f c mask : Nat) (s : State) : Nat :=
  if heat = 0 ∨ c = 0 ∨ c > 145 ∨ f ≥ 145 ∨ mask ≥ 2 ^ 28 ∨ ¬ sliceBelow f c (s.coord.count.getD 0) ∨ s.coord.group = none
    ∨ ¬ inSlice f c (ownGroup s) then stBadParam
  else match bindOf heat s with
    | some b => if b.f = f ∧ b.c = c then stDone else stBadState
    | none => if recentlyUnbound heat s then stBadState
      else if s.coord.binds.length ≥ 1024 then stNoResource else stDone

/-- Bind a Heat, its step counter at 0, or replace the mask of its binding (R199, R331). -/
def putBind (heat f c mask : Nat) (s : State) : State :=
  let b : Bind := { heat := heat, f := f, c := c, mask := mask }
  if isBound heat s then
    { s with coord := { s.coord with binds := s.coord.binds.map fun x => if x.heat = heat then b else x } }
  else
    let gone := s.coord.unbound.filter fun e => e.1 ≠ heat
    { s with coord := { s.coord with binds := s.coord.binds ++ [b], unbound := gone },
             det := { s.det with steps := tabSet 0 s.det.steps heat 0, records := tabSet 0 s.det.records heat 0 } }

/-- HEAT_BIND. -/
def execHeatBind (m : CmdMeta) (heat f c mask : Nat) (s : State) : Out :=
  command m 0x0002 (fun cr s =>
    let st := bindCheck heat f c mask s
    if st = stDone then done cr (putBind heat f c mask s) else refuse cr st s) s

/-- This device holds an object of the Heat that keeps it bound (R199). -/
def heatInUse (heat : Nat) (s : State) : Bool :=
  s.mem.frames.any (fun e => e.2.owner = heat && (match e.2.use with | .home _ => true | _ => false))
  || s.pour.pours.any (fun p => p.heat = heat)
  || s.layer.segs.any (fun g => g.2.heat = heat && g.2.state = .placed)
  || s.upd.states.any (fun u => u.heat = heat) || s.upd.tables.any (fun t => t.heat = heat)

/-- Remove a binding, and the energy attributed to the Heat (R456). -/
def dropBind (heat : Nat) (s : State) : State :=
  { s with coord := { s.coord with binds := s.coord.binds.filter fun b => b.heat ≠ heat,
                                   unbound := s.coord.unbound.filter (fun e => e.1 ≠ heat) ++ [(heat, s.time.now)] }
           assay := { s.assay with attrib := tabDel s.assay.attrib heat, weights := tabDel s.assay.weights heat } }

/-- HEAT_UNBIND. -/
def execHeatUnbind (m : CmdMeta) (heat : Nat) (s : State) : Out :=
  command m 0x0003 (fun c s =>
    if heat = 0 then refuse c stBadParam s
    else if !isBound heat s || heatInUse heat s then refuse c stBadState s
    else done c (dropBind heat s)) s

/-- HEAT_LIST: up to 200 entries of 12 bytes from a first index. -/
def execHeatList (m : CmdMeta) (first : Nat) (s : State) : Out :=
  command m 0x0004 (fun c s =>
    requires (decide (first < 1024)) c stBadParam (fun s =>
      answer c stDone (((s.coord.binds.drop first).take 200).flatMap fun b =>
        packFields [(4, b.heat), (1, b.f), (1, b.c), (2, 0), (4, b.mask)]) s) s) s

end Sys2Proof.Machine
end

