-- ==== Sys2Proof/Machine/Memory.lean ====
section
/-! DEFINITION. Commands of range 0x05xx (R185). -/
namespace Sys2Proof.Machine

/-- A GFA of class 0 to 2, reserved bits zero, book device in range (R155). -/
def gfaOk (g : Nat) : Bool := decide (gCls g ≤ 2) && decide (gResv g = 0) && decide (gBook g ≤ 2319)

/-- The pages of a run: `count` entries from a base GFA. -/
def runPages (g count : Nat) : List Nat := (List.range count).map fun i => gPage g + i

/-- A run of pages named on a page boundary lies in one slice whose book this device serves. -/
def runOk (g count : Nat) (s : State) : Bool :=
  gfaOk g && gOff g = 0 && decide (1 ≤ count) && decide (gEntry g + count ≤ 2 ^ 23) && servesBook (gBook g) s

/-- The entries of a run are allocated in the class its base names. -/
def runUsed (g count : Nat) (s : State) : Bool :=
  (runPages g count).all fun p => let e := bookEntry p s; e.state ≠ pgFree && e.cls = gCls g

/-- Every page of a run belongs to a Heat. -/
def runOwned (g count heat : Nat) (s : State) : Bool := (runPages g count).all fun p => (bookEntry p s).owner = heat

/-! ### ALLOC_PAGES (R171) -/

/-- The devices of the named home set; none when it names no usable home-kind set. -/
def homesOf (idx : Nat) (s : State) : Option (List Nat) :=
  if idx = 0xFFFF then some [ownDev s]
  else match tabFind s.pour.sets idx with
    | some t => if t.closed ∧ t.kind = 1 then some ((tabRange 0 t.entries 0 t.count).map devOf) else none
    | none => none

/-- Devices an allocation uses, as homes or mirrors. -/
def allocDevs (j : AllocJob) : List Nat :=
  dedupNat ((List.range (min j.count (j.homes.length * j.stripe))).flatMap fun i =>
    if j.cls = 2 then [allocHome j i, allocMirror j i] else [allocHome j i])

/-- The refusal an allocation meets, in the order of R171. -/
def allocRefusal (j : AllocJob) (s : State) : Option Nat :=
  if j.heat = 0 then some stBadParam
  else if (bindOf j.heat s).isNone then some stBadState
  else if (allocDevs j).any (fun d => !devInSlice j.heat d s) then some stDenied
  else if (allocDevs j).any (fun d => fencedDev d s || !presentDev d s) then some stNoResource
  else if (freeRun j.count 0 s.mem.book).isNone || decide (softFree s < ownFrames j s)
      || (allocDevs j).any (fun d => d ≠ ownDev s && !suppliesFrame d s) then some stNoResource
  else none

/-- An accepted allocation is performed, or waits for its frames (R171, R172). -/
def beginAlloc (j : AllocJob) (s : State) : State :=
  if framesReady j s then performAlloc j s else { s with mem := { s.mem with allocs := s.mem.allocs ++ [j] } }

/-- ALLOC_PAGES (R171, R172). -/
def execAllocPages (m : CmdMeta) (heat cls count rw migEn homeSet first stripe mirrorStep : Nat) (s : State) : Out :=
  command m 0x0500 (fun c s =>
    match homesOf homeSet s with
    | none => refuse c stBadParam s
    | some homes =>
      let j : AllocJob := { heat := heat, cls := cls, count := count, rw := rw = 1, mig := migEn = 1, homes := homes,
                            first := first, stripe := stripe, mstep := mirrorStep, cmd := c }
      let ok := cls ≤ 2 ∧ 1 ≤ count ∧ count ≤ 8388608 ∧ rw ≤ 1 ∧ migEn ≤ 1 ∧ 1 ≤ stripe ∧ stripe ≤ 65536 ∧ homes ≠ []
        ∧ (cls ≠ 2 ∨ (2 ≤ homes.length ∧ 1 ≤ mirrorStep ∧ mirrorStep < homes.length))
      if ¬ ok then refuse c stBadParam s
      else match allocRefusal j s with
        | some st => refuse c st (if (allocDevs j).any (fun d => d ≠ ownDev s) then useFree s else s)
        | none => accept c (beginAlloc j) s) s

/-! ### FREE_PAGES and MEM_HEAT_FREE (R173) -/

/-- Free one page: FREE with a new generation, its frames of this device zeroed before they are free again. -/
def freePage (p : Nat) (s : State) : State := remap p (fun _ => {}) (dropFrames p (endMoves (fun m => m.page = p) s))

/-- Free the pages of a job and answer it. -/
def performFree (j : FreeJob) (s : State) : State :=
  finish j.cmd stDone (if j.whole then leBytes 4 j.pages.length else []) (j.pages.foldl (fun s p => freePage p s) s)

/-- Ask the slice whether it holds a record or segment on the pages (R173); fenced devices are not asked. -/
def startFree (pages : List Nat) (heat : Nat) (whole : Bool) (c : CmdRef) (s : State) : State :=
  let ds := (sliceDevs heat s).filter fun d => d ≠ ownDev s && presentDev d s && !fencedDev d s
  let j : FreeJob := { pages := pages, heat := heat, awaiting := ds, whole := whole, cmd := c }
  if ds = [] then performFree j s
  else
    let s := emitCtl ds .sliceQuery (heat :: pages.map fun p => pageGfa (bookEntry p s).cls p) [] s
    { s with mem := { s.mem with frees := s.mem.frees ++ [j] } }

/-- FREE_PAGES. -/
def execFreePages (m : CmdMeta) (gfa count heat : Nat) (s : State) : Out :=
  command m 0x0501 (fun c s =>
    if !runOk gfa count s || !runUsed gfa count s then refuse c stBadParam s
    else if !runOwned gfa count heat s then refuse c stDenied s
    else if (runPages gfa count).any (fun p => pageBusy p s || coversPage p s) then refuse c stBadState s
    else accept c (startFree (runPages gfa count) heat false c) s) s

/-- MEM_HEAT_FREE. -/
def execMemHeatFree (m : CmdMeta) (heat : Nat) (s : State) : Out :=
  command m 0x0502 (fun c s =>
    let own := (s.mem.book.filter fun e => e.2.state ≠ pgFree && e.2.owner = heat).map fun e => ownDev s * 2 ^ 23 + e.1
    let other := (s.mem.partner.filter fun e => e.2.state ≠ pgFree && e.2.owner = heat && servesBook (pageBook e.1) s).map (·.1)
    let pages := own ++ other
    if pages.any (fun p => pageBusy p s || coversPage p s) then refuse c stBadState s
    else accept c (startFree pages heat true c) s) s

/-! ### Queries and settings -/

/-- MEM_PAGE_QUERY: the entry of R157, its hot counters from the home map where this device is the home. -/
def execMemPageQuery (m : CmdMeta) (gfa : Nat) (s : State) : Out :=
  command m 0x0503 (fun c s =>
    if !gfaOk gfa then refuse c stBadParam s
    else if (bookServer (gBook gfa) s).isNone then
      answer c stDataLost [] s
    else
      let e := entryAt (gPage gfa) s
      let e := match homeFrame (gPage gfa) s with
        | some f => match frameRec f s with
          | some r => { e with hotCnt := r.hotCnt, hotDev := r.hotDev }
          | none => e
        | none => e
      answer c stDone (leBytes 16 (entBits e)) s) s

/-- Change access, migration permission and owner of one page: in the book, the home maps and this device's page cache. -/
def setPage (p : Nat) (rw mig : Bool) (heat : Nat) (s : State) : State :=
  let s := amendEntry p (fun e => { e with rw := rw, mig := mig, owner := heat }) s
  match tabFind s.mem.cache p with
  | some _ => { s with mem := { s.mem with cache := tabPut s.mem.cache p (bookEntry p s) } }
  | none => s

/-- MEM_PAGE_SET. -/
def execMemPageSet (m : CmdMeta) (gfa count rw migEn oldHeat newHeat : Nat) (s : State) : Out :=
  command m 0x0504 (fun c s =>
    if !runOk gfa count s || !runUsed gfa count s || decide (rw > 1) || decide (migEn > 1) || newHeat = 0 then
      refuse c stBadParam s
    else if !runOwned gfa count oldHeat s then refuse c stDenied s
    else if (runPages gfa count).any (fun p => pageBusy p s) then refuse c stBadState s
    else done c ((runPages gfa count).foldl (fun s p => setPage p (rw = 1) (migEn = 1) newHeat s) s)) s

/-- The home MEM_PAGE_CLEAR_LOST gives a page (R179): its former home where that is not fenced and has a frame, else the
next device of the slice. -/
def clearHome (e : PageEnt) (s : State) : Option Nat :=
  if !fencedDev e.home s then (if suppliesFrame e.home s then some e.home else none)
  else nextDevice e.owner e.home (fun d => !fencedDev d s && suppliesFrame d s) s

/-- A LOST page returns VALID on a device, with a mirror where its class has one: its new generation is the reply (R179). -/
def restorePage (p home mirror : Nat) (c : CmdRef) (s : State) : State :=
  let e := { bookEntry p s with home := home, mirror := mirror, degraded := false }
  let (f, s) := takeFrame home (mapRec false p e s) s
  let s := if e.cls = 2 then (takeFrame mirror (mapRec true p e s) s).2 else s
  let s := remap p (fun e => { e with state := pgValid, home := home, mirror := mirror, frame := f, degraded := false }) s
  answer c stDone (leBytes 2 (bookEntry p s).gen) s

/-- The mirror a LOST page gets with a home: none is 0xFFF (R179). -/
def clearMirror (e : PageEnt) (home : Nat) (s : State) : Option Nat :=
  if e.cls = 2 then nextDevice e.owner home (fun d => d ≠ home && !fencedDev d s && suppliesFrame d s) s else some 0xFFF

/-- MEM_PAGE_CLEAR_LOST. -/
def execMemPageClearLost (m : CmdMeta) (gfa heat : Nat) (s : State) : Out :=
  command m 0x0505 (fun c s =>
    if !runOk gfa 1 s || !runUsed gfa 1 s then refuse c stBadParam s
    else
      let p := gPage gfa
      let e := bookEntry p s
      if e.owner ≠ heat then refuse c stDenied s
      else if e.state ≠ pgLost ∨ s.mem.moves.any (fun x => x.page = p) then refuse c stBadState s
      else match clearHome e s with
        | none => refuse c stNoResource (useFree s)
        | some h => match clearMirror e h s with
          | none => refuse c stNoResource (useFree s)
          | some mr => restorePage p h mr c s) s

/-- Start a move of a page (R175, R176). For a migration the book sets MOVING: here, or by word of the home; a home elsewhere is
asked to copy. -/
def startMove (p : Nat) (k : MoveKind) (target new : Nat) (c : Option CmdRef) (s : State) : State :=
  let e := entryAt p s
  let old := match homeFrame p s with | some f => f | none => e.frame
  let s := if k ≠ .migrate then s
    else if servesBook (pageBook p) s then remap p (fun e => { e with state := pgMoving }) s
    else tellBook p .moving e s
  let s := if (homeFrame p s).isSome then s else emit (.ctl e.home .moveAsk [p, target, new] []) s
  { s with mem := { s.mem with moves := s.mem.moves ++
    [{ page := p, kind := k, target := target, old := old, new := new, frozen := false, since := s.time.now, cmd := c }] } }

/-- A migration begins: a frame of the target is reserved (R175, step 1). -/
def beginMigrate (p target : Nat) (c : CmdRef) (s : State) : State :=
  let (f, s) := takeFrame target { use := .reserved p, owner := (bookEntry p s).owner } s
  startMove p .migrate target f (some c) s

/-- A new mirror begins: the old one's frame here is released, and the page is DEGRADED until the resynchronisation (R178). -/
def beginMirror (p mirror : Nat) (c : CmdRef) (s : State) : State :=
  let s := match mirrorFrame p s with | some f => releaseFrame f s | none => s
  let (f, s) := takeFrame mirror (mapRec true p { bookEntry p s with degraded := true } s) s
  let s := remap p (fun e => { e with mirror := mirror, degraded := true }) s
  startMove p .resync mirror f (some c) s

/-- MEM_MIGRATE (R175). -/
def execMemMigrate (m : CmdMeta) (gfa target : Nat) (s : State) : Out :=
  command m 0x0506 (fun c s =>
    if !runOk gfa 1 s || !runUsed gfa 1 s || decide (target > 2319) then refuse c stBadParam s
    else
      let p := gPage gfa
      let e := bookEntry p s
      if !devInSlice e.owner target s then refuse c stDenied s
      else if pageBusy p s || onTable p s || e.state ≠ pgValid || target = e.home || target = e.mirror then
        refuse c stBadState s
      else if fencedDev target s || !presentDev target s || !suppliesFrame target s then refuse c stNoResource (useFree s)
      else accept c (beginMigrate p target c) s) s

/-- MEM_MIRROR_SET (R178). -/
def execMemMirrorSet (m : CmdMeta) (gfa mirror : Nat) (s : State) : Out :=
  command m 0x0507 (fun c s =>
    if !runOk gfa 1 s || !runUsed gfa 1 s || gCls gfa ≠ 2 || decide (mirror > 2319) then refuse c stBadParam s
    else
      let p := gPage gfa
      let e := bookEntry p s
      if !devInSlice e.owner mirror s then refuse c stDenied s
      else if pageBusy p s || e.state ≠ pgValid || mirror = e.home then refuse c stBadState s
      else if fencedDev mirror s || !presentDev mirror s || !suppliesFrame mirror s then refuse c stNoResource (useFree s)
      else accept c (beginMirror p mirror c) s) s

/-- MEM_ARB_SET. -/
def execMemArbSet (m : CmdMeta) (fabric pour layer fettler : Nat) (s : State) : Out :=
  command m 0x0510 (fun c s =>
    requires ([fabric, pour, layer, fettler].all fun w => decide (1 ≤ w) && decide (w ≤ 255)) c stBadParam
      (fun s => done c (setReg .meWFettler 0 fettler (setReg .meWLayer 0 layer (setReg .meWPour 0 pour
        (setReg .meWFabric 0 fabric s))))) s) s

/-- MEM_MIGRATE_CTRL. -/
def execMemMigrateCtrl (m : CmdMeta) (on : Nat) (s : State) : Out :=
  command m 0x0511 (fun c s => requires (decide (on ≤ 1)) c stBadParam (fun s => done c (setReg .meMigOn 0 on s)) s) s

/-- MEM_STATS: the 13 registers of block 0x50 (R183), in the order of their offsets. -/
def execMemStats (m : CmdMeta) (s : State) : Out :=
  command m 0x0520 (fun c s => answer c stDone (readWords 0x50000000 11 s ++ readWords 0x50000030 2 s) s) s

/-- MEM_CACHE_FLUSH: the page cache is emptied. -/
def execMemCacheFlush (m : CmdMeta) (s : State) : Out :=
  command m 0x0521 (fun c s => done c { s with mem := { s.mem with cache := [] } }) s

end Sys2Proof.Machine
end

