-- ==== Sys2Proof/Machine/MemPort.lean ====
section
/-! DEFINITION. Port 57: memory requests at the entry device and at the home (R161 to R170, R174 to R179, R252, R143), and
the messages and events of the memory Shop. -/
namespace Sys2Proof.Machine

/-! ### Forms of a request (R156, R163, R164, R166) -/

/-- Argument fields of a request. -/
def getForm (p : Packet) : Nat := bitsOf p.args 23 16
def getLow (p : Packet) : Nat := bitsOf p.args 15 0
def atOp (p : Packet) : Nat := bitsOf p.args 7 0
def atCount (p : Packet) : Nat := bitsOf p.args 31 16
def atFmt (p : Packet) : Nat := bitsOf p.args 15 8

/-- First Ingot and the span rule of class 1 (R169). -/
def ingotSpanOk (p : Packet) (count : Nat) : Bool := gOff p.addr % 40 = 0 && decide (gOff p.addr / 40 + count ≤ 51200)

/-- A format an Ingot takes contributions in or is rounded to (R59, R164, R166). -/
def ingotFmt (code : Nat) (result : Bool) : Bool :=
  match fmtOfCode code with
  | some f => !(result && f = .int8)
  | none => false

/-- Check 1 of R167 for PUT, GET and ATOMIC; GET form ROWS has its own check. -/
def requestOk (p : Packet) : Bool :=
  let c := gCls p.addr
  let off := gOff p.addr
  if c > 2 ∨ gResv p.addr ≠ 0 then false
  else if p.typ = tyPut then
    p.args = 0 && decide (1 ≤ p.payload.length) && decide (p.payload.length ≤ 2560) && decide (off + p.payload.length ≤ pageBytes)
  else if p.typ = tyGet then
    if getForm p = 0 then p.payload = [] && bitsOf p.args 31 24 = 0 && decide (off + getLow p + 1 ≤ pageBytes)
    else if getForm p = 2 ∨ getForm p = 3 then
      p.payload = [] && c = 1 && decide (getLow p < 16384) && ingotSpanOk p (getLow p + 1) && ingotFmt (bitsOf p.args 31 24) true
    else false
  else if p.typ = tyAtomic then
    if atOp p = 1 then c ≠ 1 && p.args / 256 = 0 && off % 8 = 0 && p.payload.length = 8
    else if atOp p = 2 then c ≠ 1 && p.args / 256 = 0 && off % 8 = 0 && p.payload.length = 16
    else if atOp p = 3 then
      c = 1 && ingotFmt (atFmt p) false && decide (1 ≤ atCount p) && decide (atCount p ≤ 2560) && ingotSpanOk p (atCount p)
        && p.payload.length = atCount p * widthOf (atFmt p)
    else false
  else false

/-- PUT and ATOMIC write. -/
def isWrite (p : Packet) : Bool := p.typ = tyPut || p.typ = tyAtomic

/-! ### Ingot pages (R169, R170) -/

/-- Byte of an Ingot's side-store nibble. -/
def sideByte (i : Nat) : Nat := 0x1F4000 + i / 2

/-- Ingot `i` of a frame. -/
def pageIngot (f i : Nat) (s : State) : Ingot :=
  let b := leNat (hbmRead f (sideByte i) 1 s)
  { i := leNat (hbmRead f (40 * i) 40 s), side := (if i % 2 = 0 then b % 16 else b / 16) % 8 }

/-- Store Ingot `i` of a frame. -/
def putPageIngot (f i : Nat) (g : Ingot) (s : State) : State :=
  let b := leNat (hbmRead f (sideByte i) 1 s)
  let b' := if i % 2 = 0 then b / 16 * 16 + g.side % 8 else b % 16 + g.side % 8 * 16
  hbmWrite f (sideByte i) (leBytes 1 b') (hbmWrite f (40 * i) (ingotBytes g) s)

/-- What a PUT to a class 1 page stores: bit [3] of every side-store nibble and the reserved range are discarded. -/
def putIngotBytes (f off : Nat) (b : List Byte) (s : State) : State :=
  let keep := b.take (0x1FA400 - off)
  let masked := (List.range keep.length).map fun k =>
    let x := keep.getD k 0
    if off + k ≥ 0x1F4000 then x &&& 0x77#8 else x
  hbmWrite f off masked s

/-- Round Ingots `i0 …` in order (INGOT_ROUND, R170 under RNE), with their flags. -/
def roundIngots (f i0 n : Nat) (fmt : Fmt) (s : State) : List Byte × AFlags :=
  (List.range n).foldl (fun acc k =>
    let (v, fl) := ingotRound fmt .rne (pageIngot f (i0 + k) s)
    (acc.1 ++ leBytes fmt.bytes v, orFlags acc.2 fl)) ([], noFlags)

/-! ### Performing a request at the home (R162 to R166) -/

/-- How a request ends. -/
inductive Served where
  | nak (cause : Nat)
  | ack
  | data (bytes : List Byte) (flags : Nat)
  deriving DecidableEq, Repr

/-- The read flags of a GET_REPLY (R165). -/
def replyFlags (f : AFlags) : Nat := b2n f.ovf * 2 ^ 8 + b2n f.nanOut * 2 ^ 9 + b2n f.flushOut * 2 ^ 10

/-- Perform a request on frame `f`: how it ends, and the state with its writes. A class 2 page has the same bytes on both copies
(R162, R177), so a read that the mirror serves returns those of the frame. The near-memory unit of R170 is in no Flask and has no
arithmetic status to set. -/
def performOn (f : Nat) (p : Packet) (s : State) : Served × State :=
  let off := gOff p.addr
  if p.typ = tyPut then
    (.ack, if gCls p.addr = 1 then putIngotBytes f off p.payload s else hbmWrite f off p.payload s)
  else if p.typ = tyGet then
    if getForm p = 0 then (.data (hbmRead f off (getLow p + 1) s) 0, s)
    else match fmtOfCode (bitsOf p.args 31 24) with
      | none => (.nak stBadParam, s)
      | some fmt =>
        let n := getLow p + 1
        let (b, fl) := roundIngots f (off / 40) n fmt s
        let s := if getForm p = 3 then (List.range n).foldl (fun s k => putPageIngot f (off / 40 + k) {} s) s else s
        (.data b (replyFlags fl), s)
  else if atOp p = 3 then
    match fmtOfCode (atFmt p) with
    | none => (.nak stBadParam, s)
    | some fmt =>
      let xs := elemsOf fmt p.payload
      (.ack, (List.range xs.length).foldl (fun s k =>
        let i := off / 40 + k
        putPageIngot f i (ingotEnter fmt (xs.getD k 0) (pageIngot f i s)).1 s) s)
  else
    let old := leNat (hbmRead f off 8 s)
    let new := if atOp p = 1 then (old + leNat p.payload) % 2 ^ 64
      else if old = leNat (p.payload.take 8) then leNat (p.payload.drop 8) else old
    (.data (leBytes 8 old) 0, hbmWrite f off (leBytes 8 new) s)

/-! ### Answers -/

/-- The entry of a forwarded request in the home's table (R252 step 5). -/
def fwdEntry (p : Packet) (s : State) : Option FwdHome :=
  s.net.fwdHome.find? fun e => e.src = p.src && e.stream = p.stream && e.seq = p.seq

/-- The device a forwarded request came through: no field of the packet names it, so it is a free value, kept with the request's
entry (log entry 23). -/
def entryDevice (p : Packet) (s : State) : Nat :=
  if p.fwd then (match fwdEntry p s with | some e => e.entry | none => freeNat s % 2320) else ownDev s

/-- A forwarded request that is to be performed takes its entry (R252 step 5). -/
def enterFwd (p : Packet) (s : State) : State :=
  if !p.fwd then s
  else
    let e : FwdHome := { src := p.src, stream := p.stream, seq := p.seq, entry := freeNat s % 2320, at' := s.time.now, done := false }
    useFree { s with net := { s.net with fwdHome := s.net.fwdHome ++ [e] } }

/-- Send FWD_DONE: result 0 performed, 1 NAKed, 2 TABLE_FULL. -/
def sendFwdDone (d : Nat) (p : Packet) (result cause : Nat) (s : State) : State :=
  emit (.ctl d .fwdDone [p.src, p.stream, p.seq, ownDev s, result, cause] []) s

/-- Confirm a forwarded request to its entry device (R252 step 3). A NAKed one leaves no entry. -/
def confirmFwd (p : Packet) (result cause : Nat) (s : State) : State :=
  if !p.fwd then s
  else
    let s := sendFwdDone (entryDevice p s) p result cause (useFree s)
    let mine (e : FwdHome) : Bool := e.src = p.src && e.stream = p.stream && e.seq = p.seq
    let l := if result = 0 then s.net.fwdHome.map fun e => if mine e then { e with done := true, at' := s.time.now } else e
      else s.net.fwdHome.filter fun e => !mine e
    { s with net := { s.net with fwdHome := l } }

/-- GET_REPLY packets of a reply (R164, R165), from this device's port 57. -/
def sendData (p : Packet) (b : List Byte) (flags : Nat) (s : State) : State :=
  let n := ceilDiv b.length 2560
  (List.range n).foldl (fun s k =>
    let r : Packet := { typ := tyGetReply, last := k + 1 = n, dst := p.src, src := ownEp 57 s, heat := p.heat, cls := p.cls,
                        addr := p.addr, args := k + flags, payload := (b.drop (2560 * k)).take 2560 }
    sendFrom r [p.src] (.getReply p.addr) s) s

/-- A request ends: its answer leaves from this device's port 57, its entry device is told, and the port takes the next
packet of its stream (R240). -/
def endRequest (p : Packet) (r : Served) (s : State) : State :=
  match r with
  | .nak c =>
    let s := if c = stDenied then incReg .meDeniedCnt 0 s else if c = stDataLost then incReg .meDataLostCnt 0 s else s
    portDone p (!resendCause c) false (confirmFwd p 1 c (nakAs (ownEp 57 s) p c s))
  | .ack =>
    portDone p true true (confirmFwd p 0 0 (sendAnswer (mkAck p (ownEp 57 s) p.seq 1) (digestPacket p s)))
  | .data b f => portDone p true false (confirmFwd p 0 0 (sendData p b f (digestPacket p s)))

/-! ### Table rows (R142, R143) -/

/-- Rows of a block, FP32 pages per plane and block, and pages of a block. -/
def tabRb (t : EmbTable) : Nat := pageBytes / (t.dim * widthOf t.fmt)
def tabQ (t : EmbTable) : Nat := t.dim * 4 * tabRb t / pageBytes
def planesOf (kind : Nat) : Nat := if kind = 3 then 1 else if kind = 1 then 2 else 3
def tabPb (t : EmbTable) : Nat := 1 + planesOf t.kind * tabQ t

/-- GFA of row `r` in the forward plane (0) or FP32 plane `k` (1 …). -/
def rowGfa (t : EmbTable) (k r : Nat) : Nat :=
  let b := r / tabRb t
  let blockGfa := t.base + b * tabPb t * pageBytes
  if k = 0 then blockGfa + r % tabRb t * (t.dim * widthOf t.fmt)
  else blockGfa + (1 + (k - 1) * tabQ t) * pageBytes + r % tabRb t * (t.dim * 4)

/-- The table at a base GFA. -/
def tableAt (base : Nat) (s : State) : Option EmbTable := s.upd.tables.find? fun t => t.base = base

/-- The home of a row: this device where its home map has the page; else as the page's entry says, none for a FREE page; else entry
b mod H_t of the table set, b being the row's block (R142, R143). -/
def rowHome (t : EmbTable) (r : Nat) (s : State) : Option Nat :=
  let p := gPage (rowGfa t 0 r)
  if (homeFrame p s).isSome then some (ownDev s)
  else match (knownEntry p s).or (mapEntry p s), tabFind s.pour.sets t.setIndex with
    | some e, _ => if e.state = pgFree then none else some e.home
    | none, some x => some (devOf (tabGet 0 x.entries (r / tabRb t % x.count)))
    | none, none => some (entryAt p s).home

/-- A row's forward-plane bytes cannot be read: its page is LOST or its book is unreachable (R143, R167 check 5). -/
def rowLost (t : EmbTable) (r : Nat) (s : State) : Bool :=
  let p := gPage (rowGfa t 0 r)
  (homeFrame p s).isNone || (bookServer (pageBook p) s).isNone

/-- GATHER_ROWS at the device addressed (R143); `bad` where the read met an uncorrectable line. -/
def gatherRows (p : Packet) (bad : Bool) (s : State) : Served × State :=
  let n := bitsOf p.args 8 0
  let rows := (chunksOf 8 320 p.payload).map leNat
  match tableAt p.addr s with
  | none => (.nak stBadParam, s)
  | some t =>
    if gCls p.addr = 1 ∨ gCls p.addr > 2 ∨ bitsOf p.args 15 9 ≠ 0 ∨ bitsOf p.args 31 24 ≠ 0 ∨ n = 0 ∨ n > 320
        ∨ p.payload.length ≠ 8 * n then (.nak stBadParam, s)
    else if p.heat ≠ t.heat then (.nak stDenied, s)
    else if n * t.dim * widthOf t.fmt > 655360 ∨ rows.any (fun r => decide (r ≥ t.rows)) then (.nak stBadParam, s)
    else if rows.any (fun r => decide (rowHome t r s ≠ some (ownDev s))) then (.nak stBadParam, s)
    else if bad ∨ rows.any (fun r => rowLost t r s) then (.nak stDataLost, s)
    else (.data (rows.flatMap fun r => engineRead1 (rowGfa t 0 r) (t.dim * widthOf t.fmt) s) 0, s)

/-! ### Errors of a read (R153, R177 to R179) -/

/-- The windows of R409: 1 h for a Flask, 24 h for a frame. -/
def spanFlask : Nat := 3600000000000
def spanFrame : Nat := 24 * spanFlask

/-- A read of a frame met corrected lines and uncorrectable ones, the latter as (line, channel): they are counted and reported to
the Fettler (R153, R184, R409, R415). -/
def noteLines (f corrected : Nat) (unc : List (Nat × Nat)) (s : State) : State :=
  let st := stackOf f
  let now := s.time.now
  let s := addReg .hbUncorrCnt st unc.length (addReg .hbCorrCnt st corrected s)
  let bad := (s.rel.badLines.filter fun e => decide (now < e.1 + 1000000)) ++ unc.map fun e => (now, st, e.2 % 16)
  let fb := if unc = [] then s.rel.frameBad else s.rel.frameBad.filter (· ≠ f) ++ [f]
  noteCorrected corrected
    { s with rel := { s.rel with frameErrs := noteErrs f corrected spanFrame now s.rel.frameErrs, badLines := bad, frameBad := fb } }

/-- Requests held at a page's freeze end with a cause (R179). -/
def nakHeld (pg cause : Nat) (s : State) : State :=
  let go := (s.mem.held.filter fun e => e.1 = pg).flatMap (·.2) ++ (s.mem.mirrorWait.filter fun w => gPage w.1.addr = pg).map (·.1)
  let s := { s with mem := { s.mem with held := s.mem.held.filter (fun e => e.1 ≠ pg),
                                        mirrorWait := s.mem.mirrorWait.filter fun w => gPage w.1.addr ≠ pg } }
  go.foldl (fun s p => endRequest p (.nak cause) s) s

/-- A page of a book served here becomes LOST (R179): no frame, no move, logged with its cause; requests held for it end. -/
def losePage (p cause : Nat) (s : State) : State :=
  let e := bookEntry p s
  if e.state = pgFree ∨ e.state = pgLost then s
  else
    let s := dropFrames p (endMoves (fun m => m.page = p) s)
    let s := remap p (fun e => { e with state := pgLost, mirror := 0xFFF, degraded := false }) s
    let s := logEvent 0x0501 sevW 0x50 0xFF (packFields [(8, pageGfa e.cls p), (1, cause)]) s
    releaseWalks p (nakHeld p stDataLost s)

/-- The home loses a page's frame: its book here makes it LOST, or is told; this device knows it as LOST at once (R179). -/
def frameLost (p cause : Nat) (s : State) : State :=
  if servesBook (pageBook p) s then losePage p cause s
  else
    let e := entryAt p s
    let s := dropFrames p (endMoves (fun m => m.page = p) s)
    let s := tellBook p (if cause = 2 then .lostStack else .lost) e s
    nakHeld p stDataLost (cachePut p { e with state := pgLost, mirror := 0xFFF, degraded := false, gen := (e.gen + 1) % 2 ^ 16 } s)

/-- The mirror of a page of a book served here is lost: DEGRADED is set and a new mirror chosen (R178). -/
def renewMirror (p lost : Nat) (s : State) : State :=
  let s := endMoves (fun m => m.page = p && m.kind = .resync) s
  chooseMirror p lost (remap p (fun e => { e with mirror := 0xFFF, degraded := true }) s)

/-- The frame of a mirror here failed (R178). -/
def mirrorFailed (p f : Nat) (s : State) : State :=
  let s := releaseFrame f s
  if servesBook (pageBook p) s then renewMirror p (ownDev s) s else tellBook p .mirrorFailed (entryAt p s) s

/-- An uncorrectable line of a frame: a class 0 or 1 page, and a class 2 page without its other copy, becomes LOST; a mirror is
chosen anew; of a class 2 page the line is read from the mirror, and the frame is due for retirement (R177 to R179). -/
def frameUncorrectable (f : Nat) (s : State) : State :=
  match (frameRec f s).map FrameRec.use with
  | some (.home p) =>
    let e := entryAt p s
    if e.cls = 2 ∧ ¬ e.degraded ∧ e.mirror ≠ 0xFFF then s else frameLost p 1 s
  | some (.mirror p) => mirrorFailed p f s
  | some (.segment _) => segFrameLost f s
  | _ => s

/-- The port deals with a GATHER_ROWS; the lines its read met belong to the frame of its first row. A memory endpoint in WARM
reset answers BAD_STATE (R182). -/
def gatherPort (p : Packet) (s : State) (corrected : Nat := 0) (unc : List (Nat × Nat) := []) : State :=
  if s.power.state = .warm then endRequest p (.nak stBadState) (incReg .upGatherNakCnt 0 s)
  else
    let first := leNat (p.payload.take 8)
    let fr := (tableAt p.addr s).bind fun t => homeFrame (gPage (rowGfa t 0 first)) s
    let (r, s) := gatherRows p (unc ≠ []) s
    let s := match r with | .nak _ => incReg .upGatherNakCnt 0 s | _ => incReg .upGatherCnt 0 s
    let s := match r, fr with
      | .data _ _, some f => noteLines f corrected [] s
      | .nak c, some f => if c = stDataLost ∧ unc ≠ [] then frameUncorrectable f (noteLines f corrected unc s) else s
      | _, none => s
      | .ack, some _ => s
    endRequest p r s

/-! ### The home (R161, R167, R174, R175, R177) -/

/-- The first refusal per page in any second is logged (R167 check 3). -/
def logDenied (p : Packet) (s : State) : State :=
  let pg := gPage p.addr
  let last := tabGet 0 s.mem.deniedLog pg
  if last ≠ 0 ∧ s.time.now < last - 1 + 1000000000 then s
  else
    let s := { s with mem := { s.mem with deniedLog := tabSet 0 s.mem.deniedLog pg (s.time.now + 1) } }
    logEvent 0x0505 sevW 0x50 0xFF (packFields [(8, p.addr), (4, p.heat)]) s

/-- The page is frozen by a remap (R175 step 4). -/
def frozenPage (pg : Nat) (s : State) : Bool := s.mem.moves.any fun m => m.page = pg && m.frozen

/-- Hold a request until its page's remap is done (R167 check 7). -/
def holdRequest (p : Packet) (s : State) : State :=
  let pg := gPage p.addr
  let h := if s.mem.held.any (fun e => e.1 = pg) then
      s.mem.held.map fun e => if e.1 = pg then (e.1, e.2 ++ [p]) else e
    else s.mem.held ++ [(pg, [p])]
  { s with mem := { s.mem with held := h } }

/-- Start a migration when the conditions of R174 hold. -/
def hotMigrate (pg f : Nat) (s : State) : State :=
  match frameRec f s with
  | none => s
  | some r =>
    let e := entryAt pg s
    if flag .meMigOn 0 s && r.hotCnt = 63 && r.hotDev ≠ ownDev s && r.hotDev ≠ e.mirror && devInSlice r.owner r.hotDev s
        && decide (s.time.now ≥ r.remapAt + 10000000) && suppliesFrame r.hotDev s && !onTable pg s && !pageBusy pg s && !shopsWait s then
      let (nf, s) := takeFrame r.hotDev { use := .reserved pg } (useFree s)
      startMove pg .migrate r.hotDev nf none s
    else s

/-- A class 2 page has a second copy to write (R177). -/
def mirrorOf (pg : Nat) (s : State) : Option Nat :=
  match mapEntry pg s with
  | some e => if e.cls = 2 ∧ e.mirror ≠ 0xFFF ∧ ¬ fencedDev e.mirror s then some e.mirror else none
  | none => none

/-- The bytes a performed write left in its page, for the mirror. -/
def writtenSpan (f : Nat) (p : Packet) (s : State) : List Byte :=
  hbmRead f (gOff p.addr) (if p.typ = tyPut then p.payload.length else 8) s

/-- A write is performed here; its source is answered when the mirror has it (R177). -/
def awaitMirror (f m : Nat) (p : Packet) (r : Served) (s : State) : State :=
  let s := emit (.ctl m .mirrorWrite [p.addr, p.src, p.stream, p.seq] (writtenSpan f p s)) s
  let old := match r with | .data b _ => b | _ => []
  { s with mem := { s.mem with mirrorWait := s.mem.mirrorWait ++ [(p, old)] } }

/-- The home performs a request that passed the checks, on both copies for class 2, with the lines its read met. A read of a class 2
page that met an uncorrectable line is served from the mirror; a class 0 or 1 page becomes LOST (R167 check 8). -/
def homePerform (f : Nat) (p : Packet) (corrected : Nat) (unc : List (Nat × Nat)) (s : State) : State :=
  let pg := gPage p.addr
  let s := if p.typ = tyPut then s else noteLines f corrected unc s
  if p.typ ≠ tyPut ∧ unc ≠ [] ∧ (mirrorOf pg s).isNone then endRequest p (.nak stDataLost) (frameLost pg 1 s)
  else
    let s := enterFwd p s
    let (r, s) := performOn f p s
    let s := hotMigrate pg f (sampleAccess (entryDevice p s) f s)
    match isWrite p, r, mirrorOf pg s with
    | true, .nak c, _ => endRequest p (.nak c) s
    | true, r, some m => awaitMirror f m p r s
    | _, r, _ => endRequest p r s

/-- A forwarded request that has its entry is not performed again: FWD_DONE goes again once it was performed on every copy (R252
step 5). -/
def fwdKnown (p : Packet) (s : State) : Option State :=
  if !p.fwd then none
  else (fwdEntry p s).map fun e => if e.done then sendFwdDone e.entry p 0 0 s else s

/-- Checks 2 to 5 of R167 against a page's entry. -/
def entryRefusal (e : PageEnt) (p : Packet) (s : State) : Option Nat :=
  if e.state = pgFree ∨ e.cls ≠ gCls p.addr then some stBadParam
  else if p.heat ≠ e.owner then some stDenied
  else if isWrite p && !e.rw then some stDenied
  else if e.state = pgLost ∨ (e.cls ≠ 2 ∧ fencedDev e.home s) ∨ (bookServer (gBook p.addr) s).isNone then some stDataLost
  else none

/-- A request refused under checks 2 to 5; a Heat that is not the owner is logged (R167 check 3). -/
def refuseRequest (e : PageEnt) (p : Packet) (c : Nat) (s : State) : State :=
  endRequest p (.nak c) (if c = stDenied ∧ p.heat ≠ e.owner then logDenied p s else s)

/-- The checks of R167 at the home, then the request. -/
def atHome (f : Nat) (p : Packet) (corrected : Nat) (unc : List (Nat × Nat)) (s : State) : State :=
  match fwdKnown p s, mapEntry (gPage p.addr) s with
  | some s, _ => s
  | none, none => s
  | none, some e => match entryRefusal e p s with
    | some c => refuseRequest e p c s
    | none =>
      if s.power.state = .warm then endRequest p (.nak stBadState) s
      else if frozenPage (gPage p.addr) s then holdRequest p s
      else if p.fwd ∧ s.net.fwdHome.length ≥ 65536 then sendFwdDone (freeNat s % 2320) p 2 0 (useFree s)
      else homePerform f p corrected unc s

/-! ### The entry device (R161, R252) -/

/-- An earlier request of the stream to the page awaits its confirmation (R252 step 2). -/
def fwdBlocked (p : Packet) (s : State) : Bool :=
  s.net.entry.any fun e => e.pkt.src = p.src && e.pkt.stream = p.stream && gPage e.pkt.addr = gPage p.addr

/-- Send a copy to its home on the pinned path (R252 step 1). -/
def launchFwd (home : Nat) (p : Packet) (s : State) : State :=
  launch { p with fwd := true, pinned := true, dst := epOf home 57, route := 0 } s

/-- Forward a request; it waits while an earlier one of its stream to the page is unconfirmed. The port takes the next
packet of the stream. -/
def forwardReq (home : Nat) (p : Packet) (s : State) : State :=
  let blocked := fwdBlocked p s
  let e : EntryCopy := { pkt := p, home := home, at' := s.time.now, tries := 0, sent := !blocked }
  let s := { s with net := { s.net with entry := s.net.entry ++ [e] } }
  portDone p true false (if blocked then s else launchFwd home p s)

/-- The forwarding stub of a page: its new home (R175 step 8). -/
def stubOf (pg : Nat) (s : State) : Option Nat :=
  s.mem.frames.findSome? fun e => match e.2.use with
    | .stub q d _ => if q = pg then some d else none
    | _ => none

/-- The checks of R167 at the entry device, from the page's entry, then the forward: a page that left this device goes on to where
its stub points (R175 step 8). -/
def atEntry (e : PageEnt) (p : Packet) (s : State) : State :=
  match entryRefusal e p s with
  | some c => refuseRequest e p c s
  | none =>
    if fencedDev e.home s then endRequest p (.nak stBadState) s
    else if e.home ≠ ownDev s then forwardReq e.home p s
    else match stubOf (gPage p.addr) s with
      | some d => forwardReq d p s
      | none => endRequest p (.nak stBadState) s

/-- A request with FWD set for a page not homed here (R161, R167): a page this device knows to be FREE or LOST is refused as such,
a stub redirects it, and else it is refused under check 6. -/
def strayFwd (p : Packet) (s : State) : State :=
  let known := (knownEntry (gPage p.addr) s).filter fun e => e.state = pgFree || e.state = pgLost
  match known.bind fun e => (entryRefusal e p s).map fun c => (e, c), stubOf (gPage p.addr) s with
  | some (e, c), _ => refuseRequest e p c s
  | none, some d => if s.power.state = .warm then endRequest p (.nak stBadState) s else launchFwd d p s
  | none, none => endRequest p (.nak stBadState) s

/-- Send a walk to the book device, or to its partner while it is fenced (R158, R159). A walk to a book this device serves
itself is answered at once, or held while the page's remap is in progress; what releases it then is a WALK_REPLY to itself. -/
def startWalk (p : Packet) (s : State) : State :=
  let pg := gPage p.addr
  let b := pageBook pg
  match bookServer b s with
  | none => endRequest p (.nak stDataLost) s
  | some d =>
    if s.mem.walks.any (fun w => w.1 = pg) then
      { s with mem := { s.mem with walks := s.mem.walks.map fun w => if w.1 = pg then (w.1, w.2 ++ [p]) else w } }
    else if s.mem.walks.length ≥ 4096 then endRequest p (.nak stNoResource) s
    else
      let s := markCtxs (fun c => { c with miss := c.miss + 1 }) s
      if d ≠ ownDev s then
        emit (.ctl d .walk [pg] []) (incReg .meCacheMiss 0 { s with mem := { s.mem with walks := s.mem.walks ++ [(pg, [p])] } })
      else if (bookEntry pg s).state = pgMoving then
        { s with mem := { s.mem with walks := s.mem.walks ++ [(pg, [p])], walkHeld := s.mem.walkHeld ++ [(pg, d)] } }
      else atEntry (bookEntry pg s) p (cachePut pg (bookEntry pg s) s)

/-- Port 57 deals with one request and the lines its read met. -/
def memPort (p : Packet) (s : State) (corrected : Nat := 0) (unc : List (Nat × Nat) := []) : State :=
  if p.typ = tyGet ∧ getForm p = 1 then gatherPort p s corrected unc
  else if !requestOk p || decide (gBook p.addr > 2319) then endRequest p (.nak stBadParam) s
  else
    let pg := gPage p.addr
    match homeFrame pg s with
    | some f => atHome f p corrected unc s
    | none =>
      if p.fwd then strayFwd p s
      else if s.power.state = .warm then endRequest p (.nak stBadState) s
      else match tabFind s.mem.cache pg with
        | some e => atEntry e p (incReg .meCacheHit 0 s)
        | none => startWalk p s

/-- A request whose walk was answered goes on (R159): no lookup of the page cache counts it again. -/
def walked (e : PageEnt) (p : Packet) (s : State) : State :=
  match homeFrame (gPage p.addr) s with
  | some f => atHome f p 0 [] s
  | none => atEntry e p s

/-! ### Forwarding messages (R252) -/

/-- Copies that waited behind a confirmed one of their stream and page are sent (R252 step 2). -/
def releaseFwd (src stream pg : Nat) (s : State) : State :=
  match s.net.entry.find? (fun e => e.pkt.src = src && e.pkt.stream = stream && gPage e.pkt.addr = pg && !e.sent) with
  | none => s
  | some e =>
    let l := s.net.entry.map fun x =>
      if x.pkt.src = src ∧ x.pkt.stream = stream ∧ x.pkt.seq = e.pkt.seq then { x with sent := true, at' := s.time.now } else x
    launchFwd e.home e.pkt { s with net := { s.net with entry := l } }

/-- A copy of the entry device, by its packet's identity. -/
def entryCopy (src stream seq : Nat) (s : State) : Option EntryCopy :=
  s.net.entry.find? fun e => e.pkt.src = src && e.pkt.stream = stream && e.pkt.seq = seq

/-- Drop a copy. -/
def dropCopy (src stream seq : Nat) (s : State) : State :=
  { s with net := { s.net with entry := s.net.entry.filter fun e => !(e.pkt.src = src && e.pkt.stream = stream && e.pkt.seq = seq) } }

/-- FWD_DONE reaches the entry device: result 0 performed, 1 NAKed, 2 TABLE_FULL. It is answered FWD_ACK, held or not. -/
def execFwdDone (src stream seq home result _cause : Nat) (s : State) : Out :=
  let s := emit (.ctl home .fwdAck [src, stream, seq] []) s
  match entryCopy src stream seq s with
  | none => .next s
  | some e =>
    if result = 2 then
      let l := s.net.entry.map fun x => if x.pkt.src = src ∧ x.pkt.stream = stream ∧ x.pkt.seq = seq then { x with full := true } else x
      .next { s with net := { s.net with entry := l } }
    else
      let s := dropCopy src stream seq s
      let s := if result = 0 then { s with net := { s.net with fwdDone := s.net.fwdDone ++ [(src, stream, seq, home)] } }
        else { s with net := { s.net with fwdGone := s.net.fwdGone ++ [(src, stream, seq)] } }
      .next (releaseFwd src stream (gPage e.pkt.addr) s)

/-- FWD_ACK reaches the home, which forgets the request. -/
def execFwdAck (src stream seq _entry : Nat) (s : State) : Out :=
  let l := s.net.fwdHome.filter fun e => !(e.src = src && e.stream = stream && e.seq = seq)
  .next { s with net := { s.net with fwdHome := l } }

/-- RESEND_US of block 0x38 in nanoseconds: values below 5 act as 5 (R255). -/
def resendNs (s : State) : Nat := max 5 (reg .scResendUs 0 s) * 1000

/-- RESEND_US passes without FWD_ACK: FWD_DONE is sent again (R252 step 5). -/
def execFwdDoneResendTimeout (src stream seq : Nat) (s : State) : Out :=
  match s.net.fwdHome.find? (fun e => e.src = src && e.stream = stream && e.seq = seq && e.done) with
  | none => .next s
  | some e =>
    let s := advanceTo (e.at' + resendNs s) s
    let l := s.net.fwdHome.map fun x => if x.src = src ∧ x.stream = stream ∧ x.seq = seq then { x with at' := s.time.now } else x
    .next (emit (.ctl e.entry .fwdDone [src, stream, seq, ownDev s, 0, 0] []) { s with net := { s.net with fwdHome := l } })

/-! ### Walks and invalidations (R159, R160) -/

/-- A walk reaches the book device: answered, or held while the page's remap is in progress. -/
def execPatternBookWalk (peer gfa : Nat) (s : State) : Out :=
  let pg := gPage gfa
  if !servesBook (pageBook pg) s then .next s
  else if (bookEntry pg s).state = pgMoving then
    .next { s with mem := { s.mem with walkHeld := s.mem.walkHeld ++ [(pg, peer)] } }
  else .next (emit (.ctl peer .walkReply [pg, entBits (bookEntry pg s)] []) s)

/-- A walk reply fills the page cache and releases the requests it held. -/
def execWalkReply (gfa entry : Nat) (s : State) : Out :=
  let pg := gPage gfa
  let waiting := (s.mem.walks.filter fun w => w.1 = pg).flatMap (·.2)
  let s := { s with mem := { s.mem with walks := s.mem.walks.filter fun w => w.1 ≠ pg } }
  let s := cachePut pg (entOfBits entry) s
  .next (waiting.foldl (fun s p => walked ((tabFind s.mem.cache pg).getD (entOfBits entry)) p s) s)

/-- The non-zero bytes of a frame, as (offset × 256 + byte), for a copy to another device. -/
def pageCells (f : Nat) (s : State) : List Nat :=
  (s.mem.hbm.filter fun e => e.1 / pageBytes = f).map fun e => e.1 % pageBytes * 256 + e.2.toNat

/-- Fill a frame with a page's bytes as another device holds them. -/
def fillRemote (pg cls f : Nat) (s : State) : State :=
  hbmWrite f 0 ((List.range pageBytes).map fun i => Config.remoteByte (pageGfa cls pg + i) s.time.now) s

/-- A page whose book is elsewhere is homed here by an entry: it keeps its frame, as home or as former mirror, else takes the frame
the entry names, with the bytes the page has (zeros, where it is fresh). A new mirror of a DEGRADED page is resynchronised from
here (R178). -/
def becomeHome (pg : Nat) (e : PageEnt) (fresh : Bool) (s : State) : State :=
  let r := { mapRec false pg e s with hotCnt := e.hotCnt, hotDev := e.hotDev }
  match homeFrame pg s, mirrorFrame pg s with
  | some f, _ =>
    let old := (frameRec f s).map (·.peer)
    let s := putFrame f { r with served := ((frameRec f s).map (·.served)).getD 0 } s
    if e.degraded ∧ e.mirror ≠ 0xFFF ∧ old ≠ some e.mirror then
      let s := endMoves (fun m => m.page = pg && m.kind = .resync) s
      { s with mem := { s.mem with moves := s.mem.moves ++
        [{ page := pg, kind := .resync, target := e.mirror, old := f, new := 0, frozen := false, since := s.time.now, cmd := none }] } }
    else s
  | none, some f => putFrame f r s
  | none, none =>
    let s := putFrame e.frame r s
    if fresh then s else fillRemote pg e.cls e.frame s

/-- A page whose book is elsewhere is mirrored here by an entry: it keeps its frame, or takes a free one. The bytes come from the
home: at once in the model's account of a resynchronisation, with the writes that follow on top of them. -/
def becomeMirror (pg : Nat) (e : PageEnt) (fresh : Bool) (s : State) : State :=
  match mirrorFrame pg s with
  | some f => putFrame f (mapRec true pg e s) s
  | none => match freeSoft s with
    | some f =>
      let s := putFrame f (mapRec true pg e s) s
      if fresh then s else fillRemote pg e.cls f s
    | none => s

/-- The home map follows an entry whose book is another device: a page homed or mirrored here takes its frame, and a page
that moved away, was lost or was freed gives it back; a stub stays its time (log entry 24). -/
def followEntry (pg : Nat) (e : PageEnt) (fresh : Bool) (s : State) : State :=
  let live := e.state = pgValid ∨ e.state = pgMoving
  if live ∧ e.home = ownDev s then
    let s := becomeHome pg e fresh s
    match mirrorFrame pg s with | some f => releaseFrame f s | none => s
  else
    let s := match homeFrame pg s with
      | some f => nakHeld pg (if e.state = pgLost then stDataLost else stBadState) (releaseFrame f (endMoves (fun m => m.page = pg) s))
      | none => s
    if live ∧ e.mirror = ownDev s then becomeMirror pg e fresh s
    else match mirrorFrame pg s with | some f => releaseFrame f s | none => s

/-- An entry of a partner's book is kept as its copy (R158); a device that rejoins takes its own entries back from its partner
(R180). -/
def keepCopy (pg : Nat) (e : PageEnt) (peer : Nat) (s : State) : State :=
  if pageBook pg = ownDev s then
    (if s.mem.rejoining ∧ bookPartner (ownDev s) s = some peer then
      { s with mem := { s.mem with book := tabSet {} s.mem.book (pageEntry pg) e } } else s)
  else if bookPartner (pageBook pg) s = some (ownDev s) then
    { s with mem := { s.mem with partner := tabSet {} s.mem.partner pg e } }
  else s

/-- The home of a page that this device's book holds reports its move or its loss (R175, R178, R179). -/
def homeReport (pg : Nat) (n : PageNote) (e : PageEnt) (peer : Nat) (s : State) : State :=
  let o := bookEntry pg s
  if !servesBook (pageBook pg) s then s
  else match n with
    | .lost => if o.home = peer then losePage pg 1 s else s
    | .lostStack => if o.home = peer then losePage pg 2 s else s
    | .mirrorFailed => if o.mirror = peer then renewMirror pg peer s else s
    | .moving => if o.home = peer ∧ o.state = pgValid then remap pg (fun e => { e with state := pgMoving }) s else s
    | .moved => if o.home ≠ peer then s
      else
        let d := o.degraded || e.degraded
        let (_, s) := bookRemap pg (fun o => { o with state := pgValid, home := e.home, frame := e.frame, hotCnt := 0, degraded := d }) s
        releaseWalks pg (cachePut pg (bookEntry pg s) s)
    | .invalidate _ | .copy => s

/-- An invalidation reaches this device, which acknowledges it; or another word of a memory Shop on a page (`note`). -/
def execInvalidation (gfa entry peer : Nat) (note : PageNote) (s : State) : Out :=
  let pg := gPage gfa
  let e := entOfBits entry
  let mine := servesBook (pageBook pg) s
  .next (match note with
    | .invalidate fresh =>
      let s := keepCopy pg e peer (cacheUpdate pg e s)
      emit (.ctl peer .invalidateAck [pg] []) (if mine then s else followEntry pg e fresh s)
    | .copy =>
      let s := keepCopy pg e peer s
      let o := bookEntry pg s
      if mine ∧ (o.home = peer ∨ o.mirror = peer) then amendEntry pg (fun o => { o with degraded := e.degraded }) s
      else if mine ∨ (homeFrame pg s).isNone ∧ (mirrorFrame pg s).isNone then s else syncMap false pg e s
    | n => homeReport pg n e peer s)

/-- An acknowledgement of an invalidation. -/
def execInvalidationAck (gfa peer : Nat) (s : State) : Out :=
  let l := s.mem.invals.map fun i => if i.page = gPage gfa then { i with awaiting := i.awaiting.filter (· ≠ peer) } else i
  .next (settleInvals { s with mem := { s.mem with invals := l } })

/-- Every 100 ms each page-cache entry is revalidated against its book (R160): a walk is sent for it. -/
def execPageCacheRevalidate (s : State) : Out :=
  let s := advanceTo ((s.time.now / 100000000 + 1) * 100000000) s
  .next (s.mem.cache.foldl (fun s e =>
    match bookServer (pageBook e.1) s with
    | some d => if d = ownDev s then cachePut e.1 (bookEntry e.1 s) s
      else emit (.ctl d .walk [e.1] []) (incReg .meCacheMiss 0 s)
    | none => s) s)

/-! ### Moves of a page (R175, R176, R178, R181) -/

/-- Requests held at a page's freeze go on: to the new home, or to this device's port again (R175 step 6, R176). -/
def releaseHeld (pg : Nat) (s : State) : State :=
  let go := (s.mem.held.filter fun e => e.1 = pg).flatMap (·.2)
  let s := { s with mem := { s.mem with held := s.mem.held.filter fun e => e.1 ≠ pg } }
  go.foldl (fun s p => memPort p s) s

/-- A copy pass of a migration or a retirement ends: the page is frozen (R175 steps 2 to 4, R176). -/
def execMigrationCopyDone (gfa : Nat) (s : State) : Out :=
  let ms := s.mem.moves.map fun m => if m.page = gPage gfa ∧ m.kind ≠ .resync then { m with frozen := true } else m
  .next { s with mem := { s.mem with moves := ms } }

/-- Take a move out of the list. -/
def dropMove (mv : Move) (s : State) : State := { s with mem := { s.mem with moves := s.mem.moves.filter (· ≠ mv) } }

/-- The old home gives a migrated page away: its bytes go to the target and a stub stays, until 1 ms after the last
acknowledgement of the invalidations that it sends itself (R175 steps 4 to 8). -/
def leaveHome (pg f : Nat) (mv : Move) (e : PageEnt) (s : State) : State :=
  let s := emit (.ctl mv.target .stateWrite (pageGfa e.cls pg :: pageCells f s) []) s
  let s := incReg .meMigrateCnt 0 (putFrame f { use := .stub pg mv.target (s.time.now + 10 ^ 18) } s)
  invalidate pg e (some (f, mv.target)) mv.cmd s

/-- The target of a migration takes the page. -/
def takeHomePage (pg : Nat) (mv : Move) (e : PageEnt) (s : State) : State :=
  fillRemote pg e.cls mv.new (putFrame mv.new (mapRec false pg e s) s)

/-- The book writes the remap of a move (R175 step 5): here, or on word of the home; answers the page's new entry. -/
def writeRemap (pg : Nat) (f : PageEnt → PageEnt) (s : State) : PageEnt × State :=
  if servesBook (pageBook pg) s then bookRemap pg f s
  else
    let o := entryAt pg s
    let e := { f o with gen := (o.gen + 1) % 2 ^ 16 }
    (e, tellBook pg .moved e s)

/-- The book remaps a migrated page; held requests go to the new home and a stub stays (R175 steps 5 to 8). The old home sends the
invalidations; where it is another device, the command is answered at the remap. -/
def remapMoved (pg : Nat) (mv : Move) (s : State) : State :=
  let mine := homeFrame pg s
  let s := dropMove mv s
  let (e, s) := writeRemap pg (fun e => { e with state := pgValid, home := mv.target, frame := mv.new, hotCnt := 0 }) s
  let s := if mv.target = ownDev s then takeHomePage pg mv e s else s
  let s := match mine with
    | some f => leaveHome pg f mv e s
    | none => finishOpt mv.cmd stDone [] (cacheUpdate pg e s)
  releaseHeld pg (releaseWalks pg (markFlag detMigration (cachePut pg e s)))

/-- MIGRATION_REMAP. -/
def execMigrationRemap (gfa : Nat) (s : State) : Out :=
  .next (match s.mem.moves.find? (fun m => m.page = gPage gfa && m.kind = .migrate && m.frozen) with
    | none => s
    | some mv => remapMoved (gPage gfa) mv s)

/-- 1 ms after the last acknowledgement the old home removes its stub and frees the frame (R175 step 8). -/
def execForwardingStubExpiry (gfa : Nat) (s : State) : Out :=
  let pg := gPage gfa
  let l := s.mem.frames.filterMap fun e => match e.2.use with
    | .stub q _ t => if q = pg then some (e.1, t) else none
    | _ => none
  .next (l.foldl (fun s e => releaseFrame e.1 (advanceTo e.2 s)) s)

/-- Log a retirement and enter the frame in the lists of R152. -/
def noteRetired (old new : Nat) (s : State) : State :=
  let s := { s with mem := { s.mem with retired := if s.mem.retired.length < 4096 then s.mem.retired ++ [old] else s.mem.retired } }
  let s := addHistory 2 old (old % 65536) (new % 65536) (markFlag detRiser (incReg .meRetireCnt 0 (incReg .reSwapCnt 0 s)))
  logEvent 0x0502 sevI 0x50 0xFF (packFields [(4, old), (4, new)]) s

/-- A retirement's copy ends: the page is remapped to its new frame on this device, and its invalidations go out (R176). A class 2
page whose line was uncorrectable has it from the mirror, so the copy is whole (R177). A frame of another use only moves. -/
def endRetire (frame : Nat) (mv : Move) (r : FrameRec) (s : State) : State :=
  let s := dropMove mv s
  let s := putFrame frame { use := .retired } (putFrame mv.new { r with remapAt := s.time.now } (hbmCopy frame mv.new s))
  let s := replaceSoft frame mv.new (segFrameMoved frame mv.new (noteRetired frame mv.new (wipeFrame frame s)))
  let s := if r.use ≠ .home mv.page then finishOpt mv.cmd stDone [] s
    else
      let (e, s) := writeRemap mv.page (fun e => { e with state := pgValid, frame := mv.new }) s
      invalidate mv.page e none mv.cmd s
  releaseHeld mv.page (releaseWalks mv.page s)

/-- FRAME_RETIREMENT_DONE. -/
def execFrameRetirementDone (frame : Nat) (s : State) : Out :=
  .next (match s.mem.moves.find? (fun m => m.old = frame && m.kind = .retire), frameRec frame s with
    | some mv, some r => endRetire frame mv r s
    | _, _ => s)

/-- Resynchronisation of a mirror ends: the copy is complete and DEGRADED is cleared (R178). A copy on this device has had its bytes
from the start (`becomeMirror`, `stackFrameLost`), and each write since. -/
def endResync (pg : Nat) (mv : Move) (s : State) : State :=
  let s := dropMove mv s
  let s := match homeFrame pg s with
    | some f => if mv.target = ownDev s then s else emit (.ctl mv.target .stateWrite (pageGfa 2 pg :: pageCells f s) []) s
    | none => if mv.target = ownDev s then fillRemote pg 2 mv.new s else s
  let s := if servesBook (pageBook pg) s then amendEntry pg (fun e => { e with degraded := false }) s
    else tellBook pg .copy { entryAt pg s with degraded := false } (syncMap false pg { entryAt pg s with degraded := false } s)
  finishOpt mv.cmd stDone [] s

/-- MIRROR_RESYNC_DONE. -/
def execMirrorResyncDone (gfa : Nat) (s : State) : Out :=
  .next (match s.mem.moves.find? (fun m => m.page = gPage gfa && m.kind = .resync) with
    | none => s
    | some mv => endResync (gPage gfa) mv s)

/-- The home of a class 2 page has no frame left for its copy: the mirror is promoted by the book, here or elsewhere, and this device's
frame is gone (R178, R181; log entry 126). -/
def homeCopyGone (pg : Nat) (s : State) : State :=
  if servesBook (pageBook pg) s then
    let e := bookEntry pg s
    let s := remap pg (fun e => { e with state := pgValid, home := e.mirror, frame := freeNat s % frameTotal, mirror := 0xFFF, degraded := true })
      (useFree (endMoves (fun m => m.page = pg) s))
    chooseMirror pg e.home s
  else tellBook pg .lostStack (entryAt pg s) s

/-- A class 2 copy of a failed stack goes to a Riser frame of another stack and is resynchronised from the other copy, which holds
the same bytes (R162, R181): the page is DEGRADED until then. -/
def rebuildCopy (f : Nat) (r : FrameRec) (pg : Nat) (home : Bool) (s : State) : State :=
  let drop := fun s : State => { s with mem := { s.mem with frames := tabDel s.mem.frames f } }
  match freeRiser 12 s with
  | none => if home then homeCopyGone pg (drop s) else
      let s := drop s
      if servesBook (pageBook pg) s then renewMirror pg (ownDev s) s else tellBook pg .mirrorFailed (entryAt pg s) s
  | some nf =>
    let s := putFrame nf { r with degraded := true } (drop (hbmCopy f nf (endMoves (fun m => m.page = pg) s)))
    let e := { entryAt pg s with degraded := true }
    let s := if servesBook (pageBook pg) s then
        (if home then remap pg (fun e => { e with state := pgValid, frame := nf, degraded := true }) s
         else amendEntry pg (fun e => { e with degraded := true }) s)
      else if home then
        let e := { e with frame := nf, gen := (e.gen + 1) % 2 ^ 16 }
        invalidate pg e none none (tellBook pg .moved e s)
      else tellBook pg .copy e s
    { s with mem := { s.mem with moves := s.mem.moves ++
      [{ page := pg, kind := .resync, target := ownDev s, old := f, new := nf, frozen := false, since := s.time.now, cmd := none }] } }

/-- A page of a failed stack (R181): class 0 and 1 pages, and class 2 pages without another copy, are LOST; other class 2 copies are
rebuilt. Frames of segments lose their bytes. -/
def stackFrameLost (f : Nat) (r : FrameRec) (s : State) : State :=
  let drop := fun s : State => { s with mem := { s.mem with frames := tabDel s.mem.frames f } }
  match r.use with
  | .home pg =>
    let e := entryAt pg s
    if e.cls = 2 ∧ ¬ e.degraded ∧ e.mirror ≠ 0xFFF then rebuildCopy f r pg true s else drop (frameLost pg 2 s)
  | .mirror pg => rebuildCopy f r pg false s
  | .reserved pg => drop (endMoves (fun m => m.page = pg && m.new = f) s)
  | .segment _ => segFrameLost f s
  | .spill => s
  | _ => drop s

/-- The metadata regions with frames on a failed stack are rebuilt in Riser frames, while there are any: the reserved frames below the
Riser frames, and those that stood in for such before (R181). -/
def rebuildMeta (stack : Nat) (s : State) : State :=
  let fixed := (List.range (riserBase - softFrames)).filter fun i => stackOf (softFrames + i) = stack
  let moved := s.mem.frames.filter fun e => stackOf e.1 = stack && e.2.use = .metadata
  (List.range (fixed.length + moved.length)).foldl (fun s _ => match riserOff stack s with
    | some f => putFrame f { use := .metadata } s
    | none => s) s

/-- The outcome of a declared stack failure (R181). -/
def failStack (stack : Nat) (s : State) : State :=
  let s := if s.mem.lostStacks.testBit stack then s
    else bumpEpoch (epochStack stack) { s with mem := { s.mem with lostStacks := withBit s.mem.lostStacks stack } }
  let l := s.mem.frames.filter fun e => stackOf e.1 = stack
  l.foldl (fun s e => stackFrameLost e.1 e.2 s) (rebuildMeta stack s)

/-- STACK_FAILED. -/
def execStackFailed (stack : Nat) (s : State) : Out := onUnit (decide (stack < 12)) s (failStack stack s)

/-- The Fettler finishes zeroing a frame (R172). -/
def execFrameZeroed (frame : Nat) (s : State) : Out :=
  if frame ≥ frameTotal then .next s
  else
    let s := match frameRec frame s with
      | some r => if r.use = .zeroing then
          wipeFrame frame { s with mem := { s.mem with frames := tabDel s.mem.frames frame } } else s
      | none => if frameZeroed frame s then s
          else { s with mem := { s.mem with bootZeroed := s.mem.bootZeroed ++ [frame] } }
    .next (retryAllocs s)

/-! ### Slice queries and mirror confirmations -/

/-- A class 6 query whether this device holds a record or segment on any of the pages (R173). -/
def execSliceRecordQuery (peer heat : Nat) (gfas : List Nat) (s : State) : Out :=
  let held := gfas.any fun g => coversPage (gPage g) s
  .next (emit (.ctl peer .sliceReply [heat, gfas.headD 0, b2n held] []) s)

/-- A slice device answers: a record refuses the release; the last answer performs it. -/
def execSliceRecordReply (peer gfa : Nat) (covers : Bool) (s : State) : Out :=
  match s.mem.frees.find? (fun j => j.pages.headD 0 = gPage gfa && j.awaiting.contains peer) with
  | none => .next s
  | some j =>
    let rest := s.mem.frees.filter fun x => x ≠ j
    if covers then .next (finish j.cmd stBadState [] { s with mem := { s.mem with frees := rest } })
    else
      let j' := { j with awaiting := j.awaiting.filter (· ≠ peer) }
      if j'.awaiting = [] then .next (performFree j' { s with mem := { s.mem with frees := rest } })
      else .next { s with mem := { s.mem with frees := rest ++ [j'] } }

/-- A write that the home of a class 2 page forwards reaches this device, the mirror: it is stored as the home stored it, and
confirmed to the home (R177). -/
def mirrorStore (p : Packet) (s : State) : State :=
  match mirrorFrame (gPage p.addr) s with
  | none => s
  | some f =>
    let home := ((frameRec f s).map (·.peer)).getD 0
    emit (.ctl home .mirrorConfirm [p.src, p.stream, p.seq] []) (hbmWrite f (gOff p.addr) p.payload s)

/-- The mirror confirms a class 2 write: the home answers the source (R177). -/
def execMirrorConfirm (src stream seq : Nat) (s : State) : Out :=
  match s.mem.mirrorWait.find? (fun w => w.1.src = src && w.1.stream = stream && w.1.seq = seq) with
  | none => .next s
  | some w =>
    let s := { s with mem := { s.mem with mirrorWait := s.mem.mirrorWait.erase w } }
    .next (endRequest w.1 (if w.2 = [] then .ack else .data w.2 0) s)

end Sys2Proof.Machine
end

