-- ==== Sys2Proof/Machine/Vec.lean ====
section
/-! DEFINITION. Chains of FP32 operations with their flags (R43), the update rules (R136), the pattern-1 tree (R334), and the
dense states and masks they work on (R131, R133). -/
namespace Sys2Proof.Machine

/-- An FP32 value with the flags of the operations that formed it. -/
abbrev FV := Nat × AFlags

/-- A value as it stands. -/
def fk (x : Nat) : FV := (x, noFlags)
/-- Apply a two-operand operation, gathering flags. -/
def f2 (o : Nat → Nat → FV) (a b : FV) : FV := let r := o a.1 b.1; (r.1, orFlags r.2 (orFlags a.2 b.2))
/-- rn32 of a sum, difference, product, quotient and square root. -/
def vAdd (a b : FV) : FV := f2 fadd a b
def vSub (a b : FV) : FV := f2 fsub a b
def vMul (a b : FV) : FV := f2 fmul a b
def vDiv (a b : FV) : FV := f2 fdiv a b
def vSqrt (a : FV) : FV := let r := fsqrt a.1; (r.1, orFlags r.2 a.2)
/-- 1.0 in FP32. -/
def fOne : Nat := 0x3F800000

/-- Cut a magnitude m × 2^e to `bits` bits, downward or upward. -/
def cutMag (up : Bool) (bits : Nat) (m : Nat) (e : Int) : Nat × Int :=
  let d := bitLen m - bits
  (m >>> d + (if up && m % 2 ^ d ≠ 0 then 1 else 0), e + d)

/-- A bound of (m × 2^e)^k in 192 bits, below it or above it. -/
def powBound (up : Bool) (m : Nat) (e : Int) : Nat → Nat → Nat × Int
  | 0, _ => (1, 0)
  | fuel + 1, k =>
    if k = 0 then (1, 0)
    else
      let r := powBound up m e fuel (k / 2)
      let q := cutMag up 192 (r.1 * r.1) (2 * r.2)
      if k % 2 = 1 then cutMag up 192 (q.1 * m) (q.2 + e) else q

/-- The magnitude (m × 2^e)^k rounded once to FP32. A long power is bracketed: where both bounds round to the same value,
rounding being monotonic, that is the value; else the exact power is rounded. -/
def powRound (neg : Bool) (m : Nat) (e : Int) (k : Nat) : FV :=
  let rnd := fun (x : Nat × Int) => fp32Of (.fin neg x.1 x.2) false
  let lo := rnd (powBound false m e (bitLen k) k)
  if k * bitLen m ≤ 4096 ∨ lo ≠ rnd (powBound true m e (bitLen k) k) then rnd (m ^ k, e * k) else lo

/-- pow32 (R136): x to the integer power k, correctly rounded. -/
def pow32 (x k : Nat) : FV :=
  match decodeVal .fp32 x with
  | (.fin neg m e, fl) => let r := powRound (neg && k % 2 = 1) m e k; (r.1, orFlags r.2 fl)
  | (.zero _, fl) => (if k = 0 then fOne else 0, fl)
  | (_, fl) => (Fmt.fp32.nan, orFlags nanFlag fl)

/-! ### Rule entries (R129, R136) -/

/-- Fields of a 32-byte rule entry. -/
def ruKind (b : List Byte) : Nat := fieldAt b 0 1
def ruBias (b : List Byte) : Bool := fieldAt b 1 1 % 2 = 1
def ruS (b : List Byte) : Nat := fieldAt b 4 4
def ruEta (b : List Byte) : Nat := fieldAt b 8 4
def ruP1 (b : List Byte) : Nat := fieldAt b 12 4
def ruP2 (b : List Byte) : Nat := fieldAt b 16 4
def ruEps (b : List Byte) : Nat := fieldAt b 20 4
def ruLambda (b : List Byte) : Nat := fieldAt b 24 4

/-- The constants of a Pour (R136), computed once from the entry and t + 1. -/
structure RuleK where
  kind : Nat
  s    : FV
  eta  : FV
  p1   : FV
  p2   : FV
  eps  : FV
  lam  : FV
  a1   : FV
  a2   : FV
  kd   : FV
  c1   : FV
  c2   : FV
  deriving DecidableEq, Repr

/-- Form the constants; `bias` is false for table rows (R147). -/
def ruleConsts (b : List Byte) (t : Nat) (bias : Bool) : RuleK :=
  let k := t + 1
  let one := fk fOne
  let corr := fun p => if bias && ruBias b then vDiv one (vSub one (pow32 p k)) else one
  { kind := ruKind b, s := fk (ruS b), eta := fk (ruEta b), p1 := fk (ruP1 b), p2 := fk (ruP2 b), eps := fk (ruEps b),
    lam := fk (ruLambda b), a1 := vSub one (fk (ruP1 b)), a2 := vSub one (fk (ruP2 b)),
    kd := vSub one (vMul (fk (ruEta b)) (fk (ruLambda b))), c1 := corr (ruP1 b), c2 := corr (ruP2 b) }

/-- One element's step (R136): from the once-rounded g and (w, plane 1, plane 2) to the new three values. -/
def ruleStep (k : RuleK) (g w m v : FV) : FV × FV × FV :=
  let g1 := vMul g k.s
  if k.kind = 1 then
    let g2 := vAdd g1 (vMul k.lam w)
    let v' := vAdd (vMul k.p1 m) g2
    (vSub w (vMul k.eta v'), v', v)
  else if k.kind = 2 then
    let m' := vAdd (vMul k.p1 m) (vMul k.a1 g1)
    let v' := vAdd (vMul k.p2 v) (vMul k.a2 (vMul g1 g1))
    let u := vDiv (vMul m' k.c1) (vAdd (vSqrt (vMul v' k.c2)) k.eps)
    (vSub (vMul w k.kd) (vMul k.eta u), m', v')
  else (vAdd w (vMul k.eta g1), m, v)

/-! ### The pattern-1 tree (R334) -/

/-- One level: neighbours are added, an odd one passes up. -/
def p1Level : List FV → List FV
  | a :: b :: r => vAdd a b :: p1Level r
  | l => l

/-- The tree over the contributions in order, `fuel` levels at most. -/
def p1Tree : Nat → List FV → FV
  | 0, l => l.headD (fk 0)
  | fuel + 1, l => if l.length ≤ 1 then l.headD (fk 0) else p1Tree fuel (p1Level l)

/-- A contribution flushed and converted to FP32. -/
def p1Leaf (f : Fmt) (x : Nat) : FV := convert f .fp32 .rne x

/-! ### Dense states (R131, R133) -/

/-- The state recorded at a base GFA. -/
def stateAt (base : Nat) (s : State) : Option UpdState := s.upd.states.find? fun u => u.base = base

/-- Change a state's record. -/
def modState (base : Nat) (f : UpdState → UpdState) (s : State) : State :=
  { s with upd := { s.upd with states := s.upd.states.map fun u => if u.base = base then f u else u } }

/-- Plane size in bytes. -/
def planeSize (elems : Nat) : Nat := ceilDiv (4 * elems) pageBytes * pageBytes

/-- GFA of element `j` of plane `q` of slot `sl`. -/
def elemGfa (u : UpdState) (q sl j : Nat) : Nat := u.base + (2 * q + sl) * planeSize u.elems + 4 * j

/-- Bytes of a state's range. -/
def stateBytes (elems kind : Nat) : Nat := 2 * planesOf kind * planeSize elems

/-- Bits of a region's bitmap (R116, R133). -/
def maskBits (k n kind : Nat) : Nat := if kind = 0 then k else ceilDiv k 64 * ceilDiv n 64

/-- Bit `i` of a bitmap. -/
def bitmapBit (b : List Byte) (i : Nat) : Bool := (b.getD (i / 8) 0).getLsbD (i % 8)

/-- Element `j` is masked (R133): its bit in a region that holds it is clear. -/
def masked (u : UpdState) (j : Nat) : Bool :=
  u.masks.any fun r => decide (r.o ≤ j) && decide (j < r.o + r.k * r.n) &&
    (let kk := (j - r.o) / r.n
     let nn := (j - r.o) % r.n
     !bitmapBit r.bitmap (if r.kind = 0 then kk else kk / 64 * ceilDiv r.n 64 + nn / 64))

/-- The state digest (R132). The mask table stands as its regions' parameters and bitmaps, in region order. -/
def stateDigest (u : UpdState) : List Byte :=
  let mask := (List.range 16).flatMap fun i =>
    match u.masks.find? (fun r => r.region = i) with
    | some r => packFields [(1, i), (8, r.o), (8, r.k), (8, r.n), (1, r.kind)] ++ r.bitmap
    | none => []
  shake256 8 (packFields [(8, u.base), (4, u.heat), (8, u.elems), (1, u.kind), (1, u.slot), (4, u.t)] ++ mask)

/-- FP32 values of a plane's elements `[lo, lo + n)`. -/
def planeRead (u : UpdState) (q sl lo n : Nat) (s : State) : List Nat := elemsOf .fp32 (spanRead (elemGfa u q sl lo) (4 * n) s)

/-- The accesses of a state's elements `[lo, lo + n)` that fail: their GFAs (R138). An update reads every plane of the active
slot and writes every plane of the other; a REPUBLISH reads w of the active slot (R140). -/
def planeFaults (republish : Bool) (u : UpdState) (lo n : Nat) (s : State) : List Nat :=
  (if republish then [u.slot] else List.range (2 * planesOf u.kind)).flatMap fun k =>
    (piecesOf (elemGfa u (k / 2) (k % 2) lo) (4 * n)).filterMap fun e => (engineCheck u.heat e.1 s).map fun _ => e.1

/-- The rule's new values of elements `[lo, lo + n)` from the once-rounded sums: (w, m, v) per element; masked elements are
copied. -/
def updateSpan (u : UpdState) (k : RuleK) (lo : Nat) (gs : List FV) (s : State) : List (FV × FV × FV) :=
  let n := gs.length
  let rd := fun q => if q < planesOf u.kind then planeRead u q u.slot lo n s else List.replicate n 0
  let ws := rd 0
  let ms := rd 1
  let vs := rd 2
  (List.range n).map fun i =>
    let w := fk (ws.getD i 0)
    let m := fk (ms.getD i 0)
    let v := fk (vs.getD i 0)
    if masked u (lo + i) then (w, m, v) else ruleStep k (gs.getD i (fk 0)) w m v

/-- The writes of new values to the inactive slot: (GFA, bytes) of each plane. -/
def slotWrites (u : UpdState) (lo : Nat) (l : List (FV × FV × FV)) : List (Nat × List Byte) :=
  let sl := 1 - u.slot
  let plane := fun q (xs : List Nat) => if q < planesOf u.kind then [(elemGfa u q sl lo, packElems .fp32 xs)] else []
  plane 0 (l.map fun e => e.1.1) ++ plane 1 (l.map fun e => e.2.1.1) ++ plane 2 (l.map fun e => e.2.2.1)

end Sys2Proof.Machine
end

