-- ==== Sys2Proof/Machine/Act.lean ====
section
/-! DEFINITION. Arithmetic of layer kinds: the fixed-order dot product (R108), the activation functions of R105 and their
derivatives, and LAYERNORM rows (R106, R114). Transcendental values are formed to 320 fraction bits and rounded once, with
their remainder as sticky (log entry 11). -/
namespace Sys2Proof.Machine

/-! ### Fixed-order accumulation (R108, R109) -/

/-- fma32: the exact product added to an FP32 accumulator, rounded once. -/
def fma32 (a b : Val) (c : FV) : FV :=
  let r := fp32Of (addVal (mulVal a b) (decodeVal .fp32 c.1).1) false
  (r.1, orFlags r.2 c.2)

/-- One panel. -/
def panel (l : List (Val × Val)) : FV := l.foldl (fun p x => fma32 x.1 x.2 p) (fk 0)

/-- dot_fixed. -/
def dotFixed (p : Nat) (a b : List Val) : FV :=
  let l := a.zip b
  match chunksOf p (l.length / p + 1) l with
  | [] => fk 0
  | x :: r => r.foldl (fun t y => vAdd t (panel y)) (panel x)

/-- The panel length of DENSE_BWD_WEIGHT: 512 on S1, 256 on S2; 512 of every other matrix kind. -/
def panelW : Nat := if Config.steppingS2 then 256 else 512

/-! ### Elementary functions in fixed point, 320 fraction bits -/

def fixBits : Nat := 320
def fixOne : Nat := 2 ^ fixBits

/-- m × 2^e in fixed point. -/
def toFix (m : Nat) (e : Int) : Nat := if e ≥ -320 then m <<< (e + 320).toNat else m >>> (-(e + 320)).toNat

/-- e^x for x below 200. -/
def expFix (x : Nat) : Nat :=
  let y := x >>> 12
  let t := (List.range 48).foldl (fun (acc : Nat × Nat) i => let u := ((acc.2 * y) >>> fixBits) / (i + 1); (acc.1 + u, u))
    (fixOne, fixOne)
  (List.range 12).foldl (fun v _ => (v * v) >>> fixBits) t.1

/-- Arguments from 200 on are past every limit of FP32. -/
def fixBig (x : Nat) : Bool := decide (x ≥ 200 <<< fixBits)

/-- e^−x for x ≥ 0; zero past the limit. -/
def expNeg (x : Nat) : Nat := if fixBig x then 0 else (fixOne * fixOne) / expFix x

/-- ln(1 + u) for u up to 1, by the series of atanh. -/
def lnOnePlus (u : Nat) : Nat :=
  let z := (u <<< fixBits) / (2 * fixOne + u)
  let z2 := (z * z) >>> fixBits
  2 * ((List.range 110).foldl (fun (acc : Nat × Nat) i => (acc.1 + acc.2 / (2 * i + 1), (acc.2 * z2) >>> fixBits)) (0, z)).1

/-- A fixed-point magnitude, truncated, as an FP32 value. -/
def ofFix (neg : Bool) (m : Nat) : FV :=
  if m = 0 then (signEnc .fp32 neg 0, { flushOut := true }) else fp32Of (.fin neg m (-320)) true

def fInf : Nat := Fmt.fp32.infEnc
def fNaN : FV := (Fmt.fp32.nan, nanFlag)
def fHalf : Nat := 0x3F000000
/-- A finite overflow: the largest magnitude, with OVF (R40). -/
def fOver (neg : Bool) : FV := (signEnc .fp32 neg Fmt.fp32.maxEnc, ovfFlag)

/-! ### Activations (R105) -/

/-- eˣ. -/
def expOf : Val → FV
  | .nan => fNaN
  | .inf neg => fk (if neg then 0 else fInf)
  | .zero _ => fk fOne
  | .fin neg m e =>
    let x := toFix m e
    if neg then ofFix false (expNeg x) else if fixBig x then fOver false else ofFix false (expFix x)

/-- 1 / (1 + e⁻ˣ). -/
def sigmoidOf : Val → FV
  | .nan => fNaN
  | .inf neg => fk (if neg then 0 else fOne)
  | .zero _ => fk fHalf
  | .fin neg m e =>
    let u := expNeg (toFix m e)
    if neg then ofFix false ((u * fixOne) / (fixOne + u)) else ofFix false ((fixOne * fixOne) / (fixOne + u))

/-- tanh x. -/
def tanhOf : Val → FV
  | .nan => fNaN
  | .inf neg => fk (signEnc .fp32 neg fOne)
  | .zero neg => fk (signEnc .fp32 neg 0)
  | .fin neg m e =>
    let u := expNeg (2 * toFix m e)
    ofFix neg (((fixOne - u) * fixOne) / (fixOne + u))

/-- ln(1 + eˣ). -/
def softplusOf : Val → FV
  | .nan => fNaN
  | .inf neg => fk (if neg then 0 else fInf)
  | .zero _ => ofFix false (lnOnePlus fixOne)
  | .fin neg m e =>
    let x := toFix m e
    let l := lnOnePlus (expNeg x)
    ofFix false (if neg then l else x + l)

/-- 1 − e⁻ʸ. -/
def oneMinusExp : Val → FV
  | .nan => fNaN
  | .inf neg => fk (if neg then signEnc .fp32 true fInf else fOne)
  | .zero _ => fk 0
  | .fin neg m e =>
    let y := toFix m e
    if neg then (if fixBig y then fOver true else ofFix true (expFix y - fixOne)) else ofFix false (fixOne - expNeg y)

/-- α × (eˣ − 1) for x ≤ 0, rounded once. -/
def eluNeg (alpha : Nat) : Val → FV
  | .nan => fNaN
  | .inf _ => fp32Of (negVal (decodeVal .fp32 alpha).1) false
  | .zero _ => fp32Of (mulVal (decodeVal .fp32 alpha).1 (.zero false)) false
  | .fin _ m e => fp32Of (mulVal (decodeVal .fp32 alpha).1 (.fin true (fixOne - expNeg (toFix m e)) (-320))) true

/-- x > 0. -/
def valPos : Val → Bool
  | .inf neg => !neg
  | .fin neg _ _ => !neg
  | _ => false

/-- α × x for x ≤ 0, rounded once; at −∞ the limit, which is a zero where α is one. -/
def leakyNeg (alpha : Nat) (v : Val) : FV :=
  let (a, fl) := decodeVal .fp32 alpha
  let r := match a, v with
    | .zero n, .inf neg => fp32Of (.zero (n != neg)) false
    | _, _ => fp32Of (mulVal a v) false
  (r.1, orFlags r.2 fl)

/-- The activation of an FP32 value (flushed): code, α. -/
def actForward (code alpha : Nat) (x : FV) : FV :=
  let v := (decodeVal .fp32 x.1).1
  let r := if v = .nan then fNaN
    else if code = 1 then (if valPos v then fk x.1 else fk 0)
    else if code = 2 then (if valPos v then fk x.1 else leakyNeg alpha v)
    else if code = 3 then (if valPos v then fk x.1 else eluNeg alpha v)
    else if code = 4 then sigmoidOf v
    else if code = 5 then tanhOf v
    else if code = 6 then softplusOf v
    else expOf v
  (r.1, orFlags r.2 x.2)

/-- The derivative from y (flushed). -/
def actDeriv (code alpha : Nat) (y : FV) : FV :=
  let v := (decodeVal .fp32 y.1).1
  let neg := flt y.1 0
  let r := if code = 1 then fk (if valPos v then fOne else 0)
    else if code = 2 then fk (if valPos v then fOne else alpha)
    else if code = 3 then (if neg then vAdd (fk y.1) (fk alpha) else fk fOne)
    else if code = 4 then vMul (fk y.1) (vSub (fk fOne) (fk y.1))
    else if code = 5 then vSub (fk fOne) (vMul (fk y.1) (fk y.1))
    else if code = 6 then oneMinusExp v
    else fk y.1
  (r.1, orFlags r.2 y.2)

/-- 1/√v, correctly rounded. -/
def rsqrtOf (x : FV) : FV :=
  let r := match (decodeVal .fp32 x.1).1 with
    | .nan => fNaN
    | .inf neg => if neg then fNaN else fk 0
    | .zero neg => fk (signEnc .fp32 neg fInf)
    | .fin neg m e =>
      if neg then fNaN
      else
        let odd := decide (e % 2 ≠ 0)
        let m1 := if odd then m * 2 else m
        let e1 := if odd then e - 1 else e
        fp32Of (.fin false (isqrt (2 ^ 400 / m1)) (-200 - e1 / 2)) true
  (r.1, orFlags r.2 x.2)

/-! ### Row sums in a Crucible -/

/-- The Ingot of a list of elements, with the flags of entering them. -/
def ingotOf (f : Fmt) (xs : List Nat) : Ingot × AFlags :=
  xs.foldl (fun (acc : Ingot × AFlags) x => let (g, fl) := ingotEnter f x acc.1; (g, orFlags acc.2 fl)) ({}, noFlags)

/-- MEAN of a list, rounded once to FP32 under RNE (R55). -/
def meanOf (f : Fmt) (xs : List Nat) : FV :=
  let (g, fl) := ingotOf f xs
  let r := ingotMean .fp32 .rne xs.length g
  (r.1, orFlags r.2 fl)

/-- The Ingot sum of a list, rounded once to FP32 under RNE. -/
def sumOf (f : Fmt) (xs : List Nat) : FV :=
  let (g, fl) := ingotOf f xs
  let r := ingotRound .fp32 .rne g
  (r.1, orFlags r.2 fl)

/-- MEAN of FP32 values that carry flags. -/
def meanFV (xs : List FV) : FV :=
  let r := meanOf .fp32 (xs.map (·.1))
  (r.1, xs.foldl (fun a x => orFlags a x.2) r.2)

/-- Sum of FP32 values that carry flags. -/
def sumFV (xs : List FV) : FV :=
  let r := sumOf .fp32 (xs.map (·.1))
  (r.1, xs.foldl (fun a x => orFlags a x.2) r.2)

/-- An element in FP32: every floating-point format of R29 is exact there. -/
def toF32 (f : Fmt) (x : Nat) : FV := convert f .fp32 .rne x

/-- One row of LAYERNORM (R106): y, x̂ and rstd. -/
def layerNormRow (f : Fmt) (eps : Nat) (gamma beta : List Nat) (xs : List Nat) : List FV × List FV × FV :=
  let mean := meanOf f xs
  let c := xs.map fun x => vSub (toF32 f x) mean
  let var := meanFV (c.map fun x => vMul x x)
  let rstd := rsqrtOf (vAdd var (fk eps))
  let xh := c.map fun x => vMul x rstd
  let y := (List.range xs.length).map fun j =>
    vAdd (vMul (xh.getD j (fk 0)) (fk (gamma.getD j 0))) (fk (beta.getD j 0))
  (y, xh, rstd)

/-- One row of LAYERNORM_BWD (R114): dx. -/
def layerNormBack (dy : List FV) (gamma xh : List Nat) (rstd : Nat) : List FV :=
  let g := (List.range dy.length).map fun j => vMul (dy.getD j (fk 0)) (fk (gamma.getD j 0))
  let m1 := meanFV g
  let m2 := meanFV ((List.range dy.length).map fun j => vMul (g.getD j (fk 0)) (fk (xh.getD j 0)))
  (List.range dy.length).map fun j =>
    vMul (fk rstd) (vSub (vSub (g.getD j (fk 0)) m1) (vMul (fk (xh.getD j 0)) m2))

end Sys2Proof.Machine
end

