-- ==== Sys2Proof/Machine/Tree.lean ====
section
/-! DEFINITION. Building multicast trees (R74, R282 to R284). -/
namespace Sys2Proof.Machine

/-- Set bits of one device's entry in a list of (device, entry). -/
def treeMark (l : List (Nat × TreeEnt)) (fresh : TreeEnt) (d : Nat) (f : TreeEnt → TreeEnt) : List (Nat × TreeEnt) :=
  if l.any (fun e => e.1 = d) then l.map fun e => if e.1 = d then (d, f e.2) else e else l ++ [(d, f fresh)]

/-- Mark one leaf endpoint at its device. -/
def treeLeaf (l : List (Nat × TreeEnt)) (fresh : TreeEnt) (ep : Nat) : List (Nat × TreeEnt) :=
  treeMark l fresh (devOf ep) fun e =>
    if portOf ep = 58 then { e with leaf58 := true } else { e with leaf := withBit e.leaf (portOf ep) }

/-- A local hop of the tree from device `a` to device `b` of one group. -/
def treeLocal (l : List (Nat × TreeEnt)) (fresh : TreeEnt) (a b : Nat) : List (Nat × TreeEnt) :=
  if a = b then l else treeMark l fresh a fun e => { e with out := withBit e.out (intraLink (memberOf a) (memberOf b)) }

/-- A tree's way from a device to another of its group: the direct link, or when that is not ACTIVE two hops through the relay
of R267 (log entry 52); none without either. -/
def treeReach (l : List (Nat × TreeEnt)) (fresh : TreeEnt) (a b : Nat) (s : State) : Option (List (Nat × TreeEnt)) :=
  let t := s.route.active
  let up := fun m n => directUp t s (groupOf a) m n
    && !(groupOf a = ownGroup s && m = s.coord.member && closingLink s (intraLink m n))
  if a = b ∨ up (memberOf a) (memberOf b) then some (treeLocal l fresh a b)
  else ((List.range 16).find? fun m => up (memberOf a) m && up m (memberOf b)).map fun m =>
    treeLocal (treeLocal l fresh a (groupOf a * 16 + m)) fresh (groupOf a * 16 + m) b

/-- ACTIVE global links of another member `m` of the own group into a group. -/
def memberLinksInto (s : State) (m grp : Nat) : List Nat :=
  (List.range 9).filterMap fun i =>
    match wiredTo (s.coord.count.getD 1) (ownGroup s) m (39 + i) with
    | some e => if groupOf e.dev = grp ∧ (tabGet 0 s.route.active.globals m).testBit i then some (39 + i) else none
    | none => none

/-- The global hop into a group, chosen as in R268 with h = mix(tree ID): the device of the own group that makes it, its
link, and the device it lands on. Closing and reserved links are avoided (R275, R278). -/
def treeGateway (tree heat grp : Nat) (s : State) : Option (Nat × Nat × Nat) :=
  let t := s.route.active
  let h := mix tree
  let avail := fun (ls : List Nat) => (preferFree s heat (openLinks s ls)).1
  let land := fun (m l : Nat) => (wiredTo (s.coord.count.getD 1) (ownGroup s) m l).map fun e =>
    (ownGroup s * 16 + m, l, e.dev)
  match pickMod (avail (linksInto t s grp)) (h >>> 16) with
  | some l => land s.coord.member l
  | none =>
    let ms := (List.range 16).filter fun m => m ≠ s.coord.member ∧ (tabGet 0 t.members grp).testBit m
      ∧ directUp t s (ownGroup s) s.coord.member m
    match (pickMod (avail (ms.map (intraLink s.coord.member))) (h >>> 8)).map fun l => (s.coord.member + (l - 23)) % 16 with
    | some m => match pickMod (memberLinksInto s m grp) (h >>> 16) with
      | some l => land m l
      | none => none
    | none => none

/-- The entries of a tree from this device to a set of endpoints (R283); none when a group cannot be reached. -/
def treePlan (tree heat : Nat) (dests : List Nat) (s : State) : Option (List (Nat × TreeEnt)) :=
  let own := ownDev s
  let fresh : TreeEnt := { root := own, tree := tree, heat := heat, out := 0, leaf := 0, leaf58 := false, gen := 0 }
  let devs := dedupNat (dests.map devOf)
  let grps := dedupNat (devs.map groupOf)
  let start := dests.foldl (fun l e => treeLeaf l fresh e) [(own, fresh)]
  grps.foldl (fun acc g => match acc with
    | none => none
    | some l =>
      let ds := devs.filter fun d => groupOf d = g
      let spread := fun (root : Nat) (l : List (Nat × TreeEnt)) =>
        ds.foldl (fun acc d => acc.bind fun l => treeReach l fresh root d s) (some l)
      if g = ownGroup s then spread own l
      else match treeGateway tree heat g s with
        | none => none
        | some (gw, lk, far) =>
          let l := treeLocal l fresh own gw
          let l := treeMark l fresh gw fun e => { e with out := withBit e.out lk }
          spread far l) (some start)

/-- The lowest tree ID this root does not use. -/
def freeTreeId (s : State) : Nat :=
  firstFree 0 ((s.route.trees.filter fun e => e.2.root = ownDev s).map fun e => e.2.tree)
where
  /-- The first number from `n` missing in a rising list. -/
  firstFree : Nat → List Nat → Nat
    | n, [] => n
    | n, k :: r => if k < n then firstFree n r else if k = n then firstFree (n + 1) r else n

/-- Store a tree entry. -/
def putTree (e : TreeEnt) (s : State) : State :=
  { s with route := { s.route with trees := tabPut s.route.trees (treeKey e.root e.tree) e } }

/-- Entries a device may hold: the caches of its dies and the spill frames (R282). -/
def treeRoom (s : State) : Bool := decide (s.route.trees.length < 524288)

/-- A tree entry as the number its 32 bytes spell. -/
def treeNat (e : TreeEnt) : Nat := leNat (treeBytes e)

/-- A tree no Pour uses is freed when entries run short (R284). -/
def freeUnusedTree (s : State) : State :=
  match s.route.treeSets.find? (fun e => tabGet 0 s.route.treeUse e.1 = 0) with
  | none => s
  | some e =>
    let r := s.route
    { s with route := { r with treeSets := r.treeSets.filter fun x => x.1 ≠ e.1,
                               trees := tabDel r.trees (treeKey (ownDev s) e.1) } }

/-- The root stores its own entry of a plan; a reserved link taken for lack of another is counted (R278). -/
def plantTree (heat : Nat) (l : List (Nat × TreeEnt)) (s : State) : State :=
  let mine := l.filter fun e => e.1 = ownDev s
  let breach := (mine.flatMap fun e => bitList 52 e.2.out).filter fun k => reservedAgainst s heat k
  mine.foldl (fun s e => putTree e.2 s) (breach.foldl (fun s k => noteBreach (dieOfLink k) s) s)

/-- A tree of this root that serves the live endpoints of a destination set for a Heat (R282): one already built, or a new one whose set-up messages go out. None when
no entry is free or a destination has no path. -/
def obtainTree (heat : Nat) (dests : List Nat) (s : State) : Option (Nat × State) :=
  let live := dests.filter fun e => !fencedEp e s
  match s.route.treeSets.find? (fun e => e.2 = live && (tabFind s.route.trees (treeKey (ownDev s) e.1)).any fun t => t.heat = heat) with
  | some e => some (e.1, { s with route := { s.route with treeUse := tabSet 0 s.route.treeUse e.1 (tabGet 0 s.route.treeUse e.1 + 1) } })
  | none =>
    let s := if treeRoom s then s else freeUnusedTree s
    let id := freeTreeId s
    if !treeRoom s || decide (id ≥ 2 ^ 18) then none
    else match treePlan id heat live s with
      | none => none
      | some l =>
        let others := l.filter fun e => e.1 ≠ ownDev s
        let s := plantTree heat l s
        let s := others.foldl (fun s e => emit (.ctl e.1 .treeSetup [treeNat e.2] []) s) s
        let b : TreeBuild := { tree := id, awaiting := others.map (·.1), failed := false, since := s.time.now }
        let r := s.route
        let builds := if b.awaiting = [] then r.builds else r.builds ++ [b]
        some (id, { s with route := { r with treeSets := r.treeSets ++ [(id, live)], builds := builds,
                                             treeUse := tabSet 0 r.treeUse id (tabGet 0 r.treeUse id + 1) } })

/-- A tree is ready: no reply of its set-up is awaited. -/
def treeReady (id : Nat) (s : State) : Bool := !(s.route.builds.any fun b => b.tree = id)

/-- A Pour no longer uses a tree, which is kept for reuse (R284). -/
def releaseTree (id : Nat) (s : State) : State :=
  { s with route := { s.route with treeUse := tabSet 0 s.route.treeUse id (tabGet 0 s.route.treeUse id - 1) } }

/-- A tree's set-up failed: its build and its set are forgotten. -/
def dropTree (id : Nat) (s : State) : State :=
  let r := s.route
  { s with route := { r with treeSets := r.treeSets.filter fun x => x.1 ≠ id, builds := r.builds.filter fun b => b.tree ≠ id,
                             trees := tabDel r.trees (treeKey (ownDev s) id) } }

/-- A tree loses the endpoints that a fence takes: it serves them no more, whatever returns later (R281, R284). -/
def pruneSets (gone : Nat → Bool) (s : State) : State :=
  { s with route := { s.route with treeSets := s.route.treeSets.map fun e => (e.1, e.2.filter fun x => !gone x) } }

/-- Clear the leaf bit of a fenced endpoint in every entry (R84, R284). -/
def pruneLeaf (ep : Nat) (s : State) : State :=
  if devOf ep ≠ ownDev s then s
  else
    let ts := s.route.trees.map fun e =>
      if portOf ep = 58 then (e.1, { e.2 with leaf58 := false }) else (e.1, { e.2 with leaf := withoutBit e.2.leaf (portOf ep) })
    { s with route := { s.route with trees := ts } }

end Sys2Proof.Machine
end

