-- ==== Sys2Proof/Machine/Update.lean ====
section
/-! DEFINITION. Commands of range 0x08xx (R129 to R133, R139, R141, R149). -/
namespace Sys2Proof.Machine

/-- A Pour between REGISTERED and DELIVERING on this device satisfies a test. -/
def pourUses (f : Pour → Bool) (s : State) : Bool := s.pour.pours.any fun p => decide (p.state ≤ 4) && f p

/-- Base GFA and rule index of a Pour's descriptor (R64). -/
def pourBase (p : Pour) : Nat := fieldAt p.desc 40 8
def pourRule (p : Pour) : Nat := fieldAt p.desc 18 2
def pourOp (p : Pour) : Nat := fieldAt p.desc 14 1

/-- Finite and normal or zero: not NaN, infinite or subnormal (R130). -/
def plainF32 (x : Nat) : Bool :=
  let e := bitsOf x 30 23
  decide (e ≠ 255) && (decide (e ≠ 0) || bitsOf x 22 0 = 0)

/-- p in [0, 1) (R130). -/
def unitF32 (x : Nat) : Bool := (x = 0 || x = 2 ^ 31) || (!bitAt x 31 && decide (x < fOne))

/-- The checks of R130 on the contents of an entry. -/
def ruleOk (b : List Byte) : Bool :=
  let k := ruKind b
  b.length = 32 && decide (1 ≤ k) && decide (k ≤ 3) && fieldAt b 1 1 / 2 = 0 && fieldAt b 2 2 = 0 && fieldAt b 28 4 = 0
  && [ruS b, ruEta b, ruP1 b, ruP2 b, ruEps b, ruLambda b].all plainF32
  && unitF32 (ruP1 b) && unitF32 (ruP2 b)
  && (if k = 2 then !bitAt (ruEps b) 31 && ruEps b ≠ 0 else !ruBias b && ruP2 b = 0 && ruEps b = 0)
  && (if k = 3 then ruP1 b = 0 && ruLambda b = 0 else true)

/-- The digest of an entry: the first 8 bytes of SHAKE256 over it. -/
def ruleDigest (b : List Byte) : List Byte := shake256 8 b

/-- UPD_RULE_SET (R130). -/
def execUpdRuleSet (m : CmdMeta) (index : Nat) (entry : List Byte) (s : State) : Out :=
  command m 0x0800 (fun c s =>
    if index = 0 ∨ index > 1023 ∨ !ruleOk entry then refuse c stBadParam s
    else if pourUses (fun p => (pourOp p = 9 || pourOp p = 10) && pourRule p = index) s then refuse c stBadState s
    else answer c stDone (ruleDigest entry) { s with upd := { s.upd with rules := tabPut s.upd.rules index entry } }) s

/-- UPD_RULE_READ: an index with no valid entry reads as 32 zero bytes. -/
def execUpdRuleRead (m : CmdMeta) (index : Nat) (s : State) : Out :=
  command m 0x0801 (fun c s =>
    let e := tabGet (List.replicate 32 0) s.upd.rules index
    requires (decide (1 ≤ index) && decide (index ≤ 1023)) c stBadParam (fun s => answer c stDone (e ++ ruleDigest e) s) s) s

/-- The status a range's pages give a definition (R132), none when all are usable. -/
def rangeStatus (heat base n : Nat) (s : State) : Option Nat :=
  let es := (piecesOf base n).map fun p => (engineCheck heat p.1 s)
  if es.any (fun e => e = some .denied) then some stDenied
  else if es.any (fun e => match e with | some (.lost _) => true | _ => false) then some stDataLost
  else if es.any (fun e => e ≠ none) then some stBadParam
  else none

/-- Records a device may still hold (R149). -/
def updRoom (s : State) : Bool := decide (s.upd.states.length + s.upd.tables.length < 4096)

/-- UPD_STATE_DEFINE (R132). -/
def execUpdStateDefine (m : CmdMeta) (heat base elems kind slot t : Nat) (s : State) : Out :=
  command m 0x0810 (fun c s =>
    if elems = 0 ∨ elems > 2 ^ 40 ∨ kind = 0 ∨ kind > 3 ∨ slot > 1 ∨ (gCls base ≠ 0 ∧ gCls base ≠ 2) ∨ gResv base ≠ 0
        ∨ gOff base ≠ 0 then refuse c stBadParam s
    else match rangeStatus heat base (stateBytes elems kind) s with
      | some st => refuse c st s
      | none =>
        if pourUses (fun p => pourOp p = 9 && pourBase p = base) s then refuse c stBadState s
        else if (stateAt base s).isNone ∧ ¬ updRoom s then refuse c stNoResource s
        else
          let u : UpdState := { heat := heat, base := base, elems := elems, kind := kind, slot := slot, t := t }
          let l := s.upd.states.filter fun x => x.base ≠ base
          answer c stDone (stateDigest u) { s with upd := { s.upd with states := l ++ [u] } }) s

/-- UPD_STATE_MASK (R133). -/
def execUpdStateMask (m : CmdMeta) (base region o k n kind bitmap : Nat) (s : State) : Out :=
  command m 0x0811 (fun c s =>
    match stateAt base s with
    | none => refuse c stBadParam s
    | some u =>
      let others := u.masks.filter fun r => r.region ≠ region
      let bytes := ceilDiv (maskBits k n kind) 8
      if region > 15 ∨ (kind ≠ 0xFF ∧ kind > 1) then refuse c stBadParam s
      else if kind ≠ 0xFF ∧ (k = 0 ∨ n = 0 ∨ o + k * n > u.elems
          ∨ others.any fun r => decide (o < r.o + r.k * r.n) && decide (r.o < o + k * n)) then refuse c stBadParam s
      else if pourUses (fun p => pourOp p = 9 && pourBase p = base) s then refuse c stBadState s
      else match if kind = 0xFF then none else rangeStatus u.heat bitmap bytes s with
        | some st => refuse c st s
        | none =>
          let r : MaskRegion := { region := region, o := o, k := k, n := n, kind := kind, bitmap := spanRead bitmap bytes s }
          let u' := { u with masks := if kind = 0xFF then others else others ++ [r] }
          answer c stDone (stateDigest u') (modState base (fun _ => u') s)) s

/-- UPD_STATE_QUERY. -/
def execUpdStateQuery (m : CmdMeta) (base : Nat) (s : State) : Out :=
  command m 0x0812 (fun c s =>
    match stateAt base s with
    | none => refuse c stBadParam s
    | some u => answer c stDone (packFields [(1, u.slot), (4, u.t)] ++ stateDigest u
        ++ packFields [(4, u.lastPour), (1, b2n u.canRevert)]) s) s

/-- UPD_STATE_REVERT (R139). -/
def execUpdStateRevert (m : CmdMeta) (base : Nat) (s : State) : Out :=
  command m 0x0813 (fun c s =>
    match stateAt base s with
    | none => refuse c stBadParam s
    | some u =>
      if !u.canRevert || pourUses (fun p => pourOp p = 9 && pourBase p = base) s then refuse c stBadState s
      else
        let u' := { u with slot := 1 - u.slot, t := u.prevT, canRevert := false }
        answer c stDone (packFields [(1, u'.slot), (4, u'.t)]) (incReg .upRevertCnt 0 (modState base (fun _ => u') s))) s

/-- UPD_STATE_FREE. -/
def execUpdStateFree (m : CmdMeta) (base : Nat) (s : State) : Out :=
  command m 0x0814 (fun c s =>
    if (stateAt base s).isNone then refuse c stBadParam s
    else if pourUses (fun p => pourOp p = 9 && pourBase p = base) s then refuse c stBadState s
    else done c { s with upd := { s.upd with states := s.upd.states.filter fun u => u.base ≠ base } }) s

/-- The table digest: the first 8 bytes of SHAKE256 over the parameters in the command's order. -/
def tableDigest (t : EmbTable) : List Byte :=
  shake256 8 (packFields [(4, t.heat), (8, t.base), (8, t.rows), (2, t.dim), (1, t.fmt), (1, t.kind), (4, t.buckets),
    (2, t.setIndex)])

/-- The parameters R141 allows. -/
def tableOk (t : EmbTable) : Bool :=
  let rb := t.dim * widthOf t.fmt
  decide (1 ≤ t.rows) && decide (t.rows ≤ 2 ^ 40) && decide (1 ≤ t.buckets) && decide (t.buckets ≤ 16777216)
  && decide (1 ≤ t.kind) && decide (t.kind ≤ 3)
  && (t.fmt = 1 || t.fmt = 3 || t.fmt = 4) && [16, 32, 64, 128, 256, 512, 1024, 2048, 4096].contains rb
  && (gCls t.base = 0 || gCls t.base = 2) && gResv t.base = 0 && gOff t.base = 0

/-- EMB_TABLE_DEFINE (R141). -/
def execEmbTableDefine (m : CmdMeta) (heat base rows dim fmt kind buckets setIndex : Nat) (s : State) : Out :=
  command m 0x0820 (fun c s =>
    let t : EmbTable := { heat := heat, base := base, rows := rows, dim := dim, fmt := fmt, kind := kind,
                          buckets := buckets, setIndex := setIndex }
    let homeKind := match tabFind s.pour.sets setIndex with | some x => x.closed && x.kind = 1 | none => false
    if !tableOk t || !homeKind then refuse c stBadParam s
    else if pourUses (fun p => pourOp p = 10 && pourBase p = base) s then refuse c stBadState s
    else if (piecesOf base (tablePages t * pageBytes)).any (fun p => engineCheck heat p.1 s = some .denied) then
      refuse c stDenied s
    else if (tableAt base s).isNone ∧ ¬ updRoom s then refuse c stNoResource s
    else
      let l := s.upd.tables.filter fun x => x.base ≠ base
      answer c stDone (tableDigest t) { s with upd := { s.upd with tables := l ++ [t] } }) s

/-- EMB_TABLE_QUERY: parameters, digest, last pour_id. -/
def execEmbTableQuery (m : CmdMeta) (base : Nat) (s : State) : Out :=
  command m 0x0821 (fun c s =>
    match tableAt base s with
    | none => refuse c stBadParam s
    | some t => answer c stDone (packFields [(4, t.heat), (8, t.base), (8, t.rows), (2, t.dim), (1, t.fmt), (1, t.kind),
        (4, t.buckets), (2, t.setIndex)] ++ tableDigest t ++ leBytes 4 t.lastPour) s) s

/-- EMB_TABLE_FREE. -/
def execEmbTableFree (m : CmdMeta) (base : Nat) (s : State) : Out :=
  command m 0x0822 (fun c s =>
    if (tableAt base s).isNone then refuse c stBadParam s
    else if pourUses (fun p => pourOp p = 10 && pourBase p = base) s then refuse c stBadState s
    else done c { s with upd := { s.upd with tables := s.upd.tables.filter fun t => t.base ≠ base } }) s

/-- UPD_STATS: the counters of R148. -/
def execUpdStats (m : CmdMeta) (s : State) : Out :=
  command m 0x0830 (fun c s => answer c stDone (readWords 0x80000008 6 s) s) s

end Sys2Proof.Machine
end

