-- ==== Sys2Proof/Machine/Pour.lean ====
section
/-! DEFINITION. Pours: descriptors, sets, geometry, chunks, rounding and release (R59 to R88, R92, R334, R470), and the
commands of range 0x06xx. -/
namespace Sys2Proof.Machine

/-! ### The descriptor (R64) -/

def dPourId (b : List Byte) : Nat := fieldAt b 0 4
def dHeat (b : List Byte) : Nat := fieldAt b 4 4
def dMem (b : List Byte) : Nat := fieldAt b 8 2
def dDest (b : List Byte) : Nat := fieldAt b 10 2
def dHome (b : List Byte) : Nat := fieldAt b 12 2
def dOp (b : List Byte) : Nat := fieldAt b 14 1
def dSrc (b : List Byte) : Nat := fieldAt b 15 1
def dRes (b : List Byte) : Nat := fieldAt b 16 1
def dFlags (b : List Byte) : Nat := fieldAt b 17 1
def dStream (b : List Byte) : Bool := bitAt (dFlags b) 0
def dMarks (b : List Byte) : Bool := bitAt (dFlags b) 1
def dDigest (b : List Byte) : Bool := bitAt (dFlags b) 2
def dRepublish (b : List Byte) : Bool := bitAt (dFlags b) 3
def dRule (b : List Byte) : Nat := fieldAt b 18 2
def dElems (b : List Byte) : Nat := fieldAt b 20 6
def dRc (b : List Byte) : Nat := bitsOf (fieldAt b 26 2) 1 0
def dCls (b : List Byte) : Nat := bitsOf (fieldAt b 26 2) 4 2
def dChunk (b : List Byte) : Nat := let c := fieldAt b 28 4; if c = 0 then 65536 else c
def dDeadline (b : List Byte) : Nat := fieldAt b 32 4
def dRoot (b : List Byte) : Nat := fieldAt b 36 2
def dBase (b : List Byte) : Nat := fieldAt b 40 8
def dSetDig (b : List Byte) : List Byte := (b.drop 48).take 8
def dTag (b : List Byte) : List Byte := (b.drop 56).take 8
/-- desc_tag[31:0]. -/
def dTag32 (b : List Byte) : Nat := fieldAt b 56 4

/-- Reserved fields and flags are zero (R66 check 2). -/
def dResvOk (b : List Byte) : Bool := dFlags b < 16 && bitsOf (fieldAt b 26 2) 15 5 = 0 && fieldAt b 38 2 = 0

/-- The descriptor with deadline_ns zeroed. -/
def noDeadline (b : List Byte) : List Byte := b.take 32 ++ List.replicate 4 0 ++ b.drop 36

/-- desc_tag of a descriptor (R65). -/
def descTag (b : List Byte) : List Byte := shake256 8 (noDeadline (b.take 56))

/-- Opcodes of R59. -/
def opSum : Nat := 1
def opMean : Nat := 2
def opMax : Nat := 3
def opMin : Nat := 4
def opBroadcast : Nat := 5
def opGather : Nat := 6
def opScatter : Nat := 7
def opAllToAll : Nat := 8
def opUpdate : Nat := 9
def opRows : Nat := 10
def opBarrier : Nat := 11

/-- A data move (R60). -/
def isMove (op : Nat) : Bool := decide (5 ≤ op) && decide (op ≤ 8)

/-- Formats an opcode allows (R59, R35, R60). -/
def formatsOk (b : List Byte) : Bool :=
  let src := fmtOfCode (dSrc b)
  let res := fmtOfCode (dRes b)
  let isF := fun f : Option Fmt => match f with | some f => !f.isInt | none => false
  let op := dOp b
  if op = opSum then src.isSome && (isF res || res = some .int32)
  else if op = opMean then src.isSome && isF res
  else if op = opMax ∨ op = opMin then (isF src || src = some .int32) && (isF res || res = some .int32)
  else if isMove op then src.isSome && res = src && dRc b = 0 && dRule b = 0
  else if op = opUpdate then (match src, res with | some g, some f => isPair f g | _, _ => false)
  else if op = opRows then (src = some .e5m2 || src = some .bf16) && dRes b = 0
  else op = opBarrier && dSrc b = 0 && dRes b = 0

/-- Check 3 of R66. -/
def fieldsOk (b : List Byte) : Bool :=
  formatsOk b && decide (dRc b < 2) && decide (dCls b < 5) && (!dRepublish b || dOp b = opUpdate)
  && (dOp b = opUpdate || dOp b = opRows || (dRule b = 0 && dBase b = 0))
  && (dOp b = opBroadcast || dOp b = opScatter || dRoot b = 0)

/-! ### Sets (R61, R62) -/

/-- A set that is closed and may be named by a Pour. -/
def setOf (i : Nat) (s : State) : Option MSet :=
  match tabFind s.pour.sets i with
  | some t => if t.closed then some t else none
  | none => none

/-- Entries of a set in order. -/
def setList (t : MSet) : List Nat := tabRange 0 t.entries 0 t.count

/-- Entries of a set by index; none when there is no such usable set. -/
def setEntries (i : Nat) (s : State) : List Nat := match setOf i s with | some t => setList t | none => []

/-- A set in the encoding of R62. -/
def setBytes (l : List Nat) : List Byte := leBytes 2 l.length ++ l.flatMap fun e => leBytes 3 (e % 2 ^ 18)

/-- set_digest of three sets (R62). -/
def setDigest (m d h : List Nat) : List Byte := shake256 8 (setBytes m ++ setBytes d ++ setBytes h)

/-- Members, destinations and homes of a Pour, as this device holds the sets. -/
def pMembers (p : Pour) (s : State) : List Nat := setEntries (dMem p.desc) s
def pDests (p : Pour) (s : State) : List Nat := setEntries (dDest p.desc) s
def pHomes (p : Pour) (s : State) : List Nat := (setEntries (dHome p.desc) s).map devOf

/-- The three sets exist, are sealed and match set_digest (R66 check 6). The manual does not say whether a set sealed with kind 0
may serve as home set; the model asks only that it is sealed (DESIGN CHOICE, log entry 124). -/
def setsMatch (b : List Byte) (s : State) : Bool :=
  (setOf (dMem b) s).isSome && (setOf (dDest b) s).isSome && (setOf (dHome b) s).isSome
  && setDigest (setEntries (dMem b) s) (setEntries (dDest b) s) (setEntries (dHome b) s) = dSetDig b

/-! ### Chunks and owners (R67, R68, R144, R145) -/

/-- Element width that sizes chunks. -/
def chunkWidth (b : List Byte) : Nat := max (widthOf (dSrc b)) (if dRes b = 0 then 1 else widthOf (dRes b))

/-- chunk_elems. -/
def chunkElems (b : List Byte) : Nat := min (dChunk b / chunkWidth b) (dElems b)

/-- Blocks of the element space, from the set sizes. -/
def blockCount (b : List Byte) (n d : Nat) : Nat :=
  if dOp b = opGather then n else if dOp b = opScatter then d else if dOp b = opAllToAll then n * n else 1

/-- Chunks of one block. -/
def blockChunks (b : List Byte) : Nat := if chunkElems b = 0 then 1 else ceilDiv (dElems b) (chunkElems b)

/-- Chunk count; the buckets of the table for ROW_SCATTER_ADD. -/
def chunkCount (b : List Byte) (n d : Nat) (s : State) : Nat :=
  if dOp b = opRows then (match tableAt (dBase b) s with | some t => t.buckets | none => 0)
  else blockCount b n d * blockChunks b

/-- Chunk count of a Pour. -/
def pourChunks (p : Pour) (s : State) : Nat := chunkCount p.desc (pMembers p s).length (pDests p s).length s

/-- Block and element span [lo, hi) of a chunk within its block. -/
def chunkBlock (b : List Byte) (c : Nat) : Nat := c / blockChunks b
def chunkLo (b : List Byte) (c : Nat) : Nat := (c % blockChunks b) * chunkElems b
def chunkHi (b : List Byte) (c : Nat) : Nat := min (chunkLo b c + chunkElems b) (dElems b)
def chunkLen (b : List Byte) (c : Nat) : Nat := chunkHi b c - chunkLo b c

/-- owner_index (R68). -/
def ownerIndex (heat pourId c h : Nat) : Nat :=
  let k := mix ((heat % 2 ^ 32) * 2 ^ 32 + pourId % 2 ^ 32)
  let x := mix (k ^^^ c)
  ((x >>> 32) * h) >>> 32

/-- The owner device of a chunk. -/
def ownerDev (p : Pour) (c : Nat) (s : State) : Nat :=
  let hs := pHomes p s
  hs.getD (ownerIndex p.heat p.pourId c hs.length) 0

/-- Chunks this device owns. -/
def ownedChunks (p : Pour) (s : State) : List Nat :=
  let hs := pHomes p s
  (List.range (pourChunks p s)).filter fun c => hs.getD (ownerIndex p.heat p.pourId c hs.length) 0 = ownDev s

/-- Member positions that contribute to a chunk. -/
def contributors (p : Pour) (c : Nat) (s : State) : List Nat :=
  let n := (pMembers p s).length
  let op := dOp p.desc
  let b := chunkBlock p.desc c
  if dRepublish p.desc then []
  else if op = opBroadcast ∨ op = opScatter then [dRoot p.desc]
  else if op = opGather then [b]
  else if op = opAllToAll then [b % n]
  else List.range n

/-- Payload bytes a member sends for a chunk, and packets of it; one empty packet for BARRIER. -/
def contribBytes (b : List Byte) (c : Nat) : Nat := if dOp b = opBarrier then 0 else chunkLen b c * widthOf (dSrc b)
def packetCount (bytes : Nat) : Nat := max 1 (ceilDiv bytes 2560)

/-- Length of packet `k` of `bytes` bytes. -/
def packetLen (bytes k : Nat) : Nat := min 2560 (bytes - 2560 * k)

/-! ### Chunk records -/

/-- A Pour of this device, live or tombstoned. -/
def pourOf (heat pourId : Nat) (s : State) : Option Pour := s.pour.pours.find? fun p => p.heat = heat && p.pourId = pourId

/-- Change a Pour. -/
def modPour (heat pourId : Nat) (f : Pour → Pour) (s : State) : State :=
  let l := s.pour.pours.map fun p => if p.heat = heat ∧ p.pourId = pourId then f p else p
  { s with pour := { s.pour with pours := l } }

/-- A chunk of a Pour. -/
def chunkOf (p : Pour) (c : Nat) : Chunk := tabGet {} p.chunks c

/-- Store a chunk. -/
def putChunk (heat pourId c : Nat) (k : Chunk) (s : State) : State :=
  modPour heat pourId (fun p => { p with chunks := tabSet {} p.chunks c k }) s

/-- A member's contribution to a chunk is complete (R73, R145). -/
def memberDone (p : Pour) (c m : Nat) (k : Chunk) : Bool :=
  if dOp p.desc = opRows then
    match k.lasts.find? (fun e => e.1 = m) with
    | some (_, last) => (List.range (last + 1)).all fun i => k.acc.contains (m * 256 + i)
    | none => false
  else (List.range (packetCount (contribBytes p.desc c))).all fun i => k.acc.contains (m * 256 + i)

/-- A chunk is complete (R73). -/
def chunkComplete (p : Pour) (c : Nat) (k : Chunk) (s : State) : Bool :=
  (contributors p c s).all fun m => memberDone p c m k

/-! ### Room (R470, R86) -/

def bayPool : Nat := 196608

/-- Bays the pour Shop holds and may place chunks on. -/
def pourBays (s : State) : List Nat :=
  (List.range 100).filter fun b =>
    let y := tabGet {} s.layer.bays b
    y.seg.isNone && y.transfer.isNone && !s.rel.degraded.contains b
      && !(s.power.domains.any fun j => j.kind = 0 && j.index = b)

/-- Slots taken from a Bay's pool, and from the spill reserve. -/
def bayUsed (b : Nat) (s : State) : Nat :=
  sumNat (s.pour.pours.map fun p => sumNat (p.chunks.map fun k => if k.2.bay = b then k.2.slots else 0))
def spillUsed (s : State) : Nat :=
  sumNat (s.pour.pours.map fun p => sumNat (p.chunks.map fun k => k.2.spill))

/-- Slots a chunk takes at its first contribution (R470: by chunk_elems, for a shorter last chunk too); rows take theirs packet
by packet. -/
def chunkSlots (p : Pour) (s : State) : Nat :=
  let op := dOp p.desc
  let w := widthOf (dSrc p.desc)
  let n := (pMembers p s).length
  if op = opBarrier ∨ op = opRows then 0
  else if isMove op then ceilDiv (chunkElems p.desc * w) 40
  else if p.p1 ∧ (op = opSum ∨ op = opMean ∨ op = opUpdate) then ceilDiv (n * chunkElems p.desc * w) 40
  else chunkElems p.desc

/-- Where a chunk's slots come from: the Bay's pool, the spill reserve, or nowhere. -/
inductive Room where
  | pool
  | spill
  | no
  deriving DecidableEq, Repr

/-- Room for `n` more slots at a Bay, beside `pool` and `spill` slots just taken there and not yet stored. -/
def roomFor (b pool spill n : Nat) (s : State) : Room :=
  if bayUsed b s + pool + n ≤ bayPool then .pool
  else if spillUsed s + spill + n ≤ s.pour.spill * 51200 then .spill else .no

/-- The owner Bay and Flask of a chunk: the pour Shop's Bays in turn by chunk index (log entry 25); none while it holds no Bay
(R20, R21). A Flask about to be swapped is given no new chunk (R411), the next one takes it. -/
def chunkPlace (c : Nat) (s : State) : Option (Nat × Nat) :=
  let bs := pourBays s
  if bs = [] then none
  else
    let b := bs.getD (c % bs.length) 0
    let f := c / bs.length % 100
    some (b, if s.rel.proposals.any (fun j => j.unit = 100 * b + f) then (f + 1) % 100 else f)

/-- The Bay number of a chunk that has no owner Flask yet. -/
def noBay : Nat := 100

/-- A chunk gets its owner Flask, and the Bay is woken (R23, R69); without a Bay it waits for one. -/
def placeChunk (c : Nat) (k : Chunk) (s : State) : Chunk × State :=
  match chunkPlace c s with
  | some (b, f) => ({ k with bay := b, flask := f }, wakeBay b s)
  | none => ({ k with bay := noBay }, s)

/-- A Pour opens room in the spill reserve: SPILLED, the counter and the record's count (R78, R86, R340). -/
def markSpill (p : Pour) (s : State) : State :=
  modPour p.heat p.pourId (fun p => { p with spilled := true })
    (incReg .peSpillCnt 0 (markCtxs (fun x => { x with spill := x.spill + 1 }) s))

/-- A chunk with `n` more slots, from its Bay's pool or from the spill reserve; none when there is no room. `old` is the chunk as
stored, so that slots taken since are counted too. -/
def moreSlots (p : Pour) (n : Nat) (old k : Chunk) (s : State) : Option (Chunk × State) :=
  if n = 0 then some (k, s)
  else match roomFor k.bay (k.slots - old.slots) (k.spill - old.spill) n s with
    | .pool => some ({ k with slots := k.slots + n }, s)
    | .spill => some ({ k with spill := k.spill + n }, if k.spill = 0 then markSpill p s else s)
    | .no => none

/-- A chunk as its first contribution finds it: on its owner Flask with its room, or none when there is no room or no Bay. -/
def openChunk (p : Pour) (c : Nat) (s : State) : Option (Chunk × State) :=
  match chunkPlace c s with
  | none => none
  | some (b, f) => moreSlots p (chunkSlots p s) {} { st := 1, bay := b, flask := f } (wakeBay b s)

/-! ### Entering contributions (R72, R145, R146) -/

/-- Records of a ROW_SCATTER_ADD payload: (row, elements). -/
def rowRecords (t : EmbTable) (f : Fmt) (b : List Byte) : List (Nat × List Nat) :=
  let r := 8 + t.dim * f.bytes
  (chunksOf r (b.length / r) b).map fun x => (leNat (x.take 8), elemsOf f (x.drop 8))

/-- Enter consecutive elements into the accumulators from position `k0` on: the accumulators and the flags raised. -/
def enterFrom {α : Type} (enter : Nat → α → α × AFlags) (k0 : Nat) (xs : List Nat) (l : List α) : List α × AFlags :=
  let r := List.zipWith enter xs (l.drop k0)
  (l.take k0 ++ r.map (·.1) ++ l.drop (k0 + r.length), r.foldl (fun fl e => orFlags fl e.2) noFlags)

/-- Add to the Ingots, or keep the extremes, of consecutive elements from element `k0` of the chunk. -/
def enterElems (op : Nat) (f : Fmt) (k0 : Nat) (xs : List Nat) (len : Nat) (k : Chunk) : Chunk × AFlags :=
  if op = opMax ∨ op = opMin then
    let r := enterFrom (extremeEnter (op = opMax) f) k0 xs (if k.exts = [] then List.replicate len {} else k.exts)
    ({ k with exts := r.1 }, r.2)
  else
    let r := enterFrom (ingotEnter f) k0 xs (if k.ingots = [] then List.replicate len {} else k.ingots)
    ({ k with ingots := r.1 }, r.2)

/-- Add one row record's elements into the row's Ingots (R146). -/
def enterRow (f : Fmt) (dim : Nat) (k : Chunk × AFlags) (r : Nat × List Nat) : Chunk × AFlags :=
  let old := match k.1.rows.find? (fun e => e.1 = r.1) with | some e => e.2 | none => List.replicate dim {}
  let new := (List.range dim).map fun j => ingotEnter f (r.2.getD j 0) (old.getD j {})
  ({ k.1 with rows := k.1.rows.filter (fun e => e.1 ≠ r.1) ++ [(r.1, new.map (·.1))] },
    new.foldl (fun a e => orFlags a e.2) k.2)

/-- A contribution packet `i` of member `m` enters its chunk: the chunk and the flags its Flask raises (R32, R47). -/
def enterPacket (p : Pour) (c m i : Nat) (last : Bool) (pay : List Byte) (k : Chunk) (s : State) : Chunk × AFlags :=
  let op := dOp p.desc
  let k := { k with acc := k.acc ++ [m * 256 + i] }
  match fmtOfCode (dSrc p.desc) with
  | none => (k, noFlags)
  | some f =>
    let k := { k with raw := k.raw ++ [(m * 256 + i, pay)] }
    if isMove op then (k, noFlags)
    else if op = opRows then
      let k := if last then { k with lasts := k.lasts ++ [(m, i)] } else k
      match tableAt (dBase p.desc) s with
      | some t => (rowRecords t f pay).foldl (enterRow f t.dim) (k, noFlags)
      | none => (k, noFlags)
    else enterElems op f (i * (2560 / f.bytes)) (elemsOf f pay) (chunkLen p.desc c) k

/-! ### Rounding a chunk (R73, R334) -/

/-- The stored contributions of element `j` of a chunk, in member order, as FP32 leaves. -/
def p1Column (f : Fmt) (k : Chunk) (n j : Nat) : List FV :=
  let per := 2560 / f.bytes
  (List.range n).map fun m =>
    match k.raw.find? (fun e => e.1 = m * 256 + j / per) with
    | some e => p1Leaf f (fieldAt e.2 (j % per * f.bytes) f.bytes)
    | none => fk 0

/-- Fold results with their flags. -/
def gather (l : List FV) : List Nat × AFlags := (l.map (·.1), l.foldl (fun a x => orFlags a x.2) noFlags)

/-- The reduction result of each element of a chunk in res_fmt (SUM, MEAN, MAX, MIN). -/
def reduceChunk (p : Pour) (c : Nat) (k : Chunk) (n : Nat) : List FV :=
  match fmtOfCode (dSrc p.desc), fmtOfCode (dRes p.desc) with
  | some f, some r =>
    (List.range (chunkLen p.desc c)).map fun j =>
      let rc := roundingOf (dRc p.desc) p.heat p.step 0 (chunkLo p.desc c + j)
      let op := dOp p.desc
      if op = opMax ∨ op = opMin then extremeRound r rc (k.exts.getD j {})
      else if p.p1 then
        let t := p1Tree 16 (p1Column f k n j)
        let t := if op = opMean then vDiv t (convert .int32 .fp32 .rne n) else t
        let x := convert .fp32 r rc t.1
        (x.1, orFlags x.2 t.2)
      else if op = opMean then ingotMean r rc n (k.ingots.getD j {})
      else ingotRound r rc (k.ingots.getD j {})
  | _, _ => []

/-- The once-rounded FP32 sums of a chunk (R135 step 2). -/
def sumsOf (p : Pour) (c : Nat) (k : Chunk) (n : Nat) : List FV :=
  match fmtOfCode (dSrc p.desc) with
  | none => []
  | some f => (List.range (chunkLen p.desc c)).map fun j =>
      if p.p1 then p1Tree 16 (p1Column f k n j)
      else ingotRound .fp32 (roundingOf (dRc p.desc) p.heat p.step 0 (chunkLo p.desc c + j)) (k.ingots.getD j {})

/-- The contributions of one row under pattern 1, in member, packet and record order (R334). -/
def p1Rows (t : EmbTable) (f : Fmt) (k : Chunk) (n row j : Nat) : List FV :=
  (List.range n).flatMap fun m => (List.range 256).flatMap fun i =>
    match k.raw.find? (fun e => e.1 = m * 256 + i) with
    | some e => ((rowRecords t f e.2).filter fun r => r.1 = row).map fun r => p1Leaf f (r.2.getD j 0)
    | none => []

/-- The rounded rows of a bucket. -/
def roundRows (p : Pour) (t : EmbTable) (k : Chunk) (n : Nat) : List (Nat × List FV) :=
  match fmtOfCode (dSrc p.desc) with
  | none => []
  | some f => k.rows.map fun e => (e.1, (List.range t.dim).map fun j =>
      if p.p1 then p1Tree 32 (p1Rows t f k n e.1 j)
      else ingotRound .fp32 (roundingOf (dRc p.desc) p.heat p.step 0 (e.1 * t.dim + j)) (e.2.getD j {}))

/-- The bytes of a moved chunk: its one contribution's packets in order. -/
def moveBytes (k : Chunk) : List Byte :=
  (List.range 256).flatMap fun i => match k.raw.find? (fun e => e.1 % 256 = i) with | some e => e.2 | none => []

/-- What rounding a chunk gives: its RESULT bytes, its rows, flags, and the state with the slot's writes kept by the Pour (a GET
returns the earlier bits until the Pour is DONE, R137); or the GFAs of the
accesses that failed (R138). -/
inductive Rounded where
  | ok (res : List Byte) (rows : List (Nat × List Nat)) (flags : AFlags) (s : State)
  | lost (gfas : List Nat)

/-- Round one complete chunk (R73, R135, R140). The bits depend on the descriptor, the payloads, the set order, the Heat, the step and
the pages read, and on no grade, clock or placement (R328). -/
def roundChunk (p : Pour) (c : Nat) (k : Chunk) (s : State) : Rounded :=
  let op := dOp p.desc
  let n := (pMembers p s).length
  let lo := chunkLo p.desc c
  if isMove op then .ok (moveBytes k) [] noFlags s
  else if op = opBarrier then .ok [] [] noFlags s
  else if op = opRows then
    match tableAt (dBase p.desc) s with
    | none => .ok [] [] noFlags s
    | some t =>
      let rs := roundRows p t k n
      .ok [] (rs.map fun r => (r.1, r.2.map (·.1))) (gather (rs.flatMap (·.2))).2 s
  else if op = opUpdate then
    match stateAt (dBase p.desc) s, fmtOfCode (dRes p.desc) with
    | some u, some r =>
      match planeFaults (dRepublish p.desc) u lo (chunkLen p.desc c) s with
      | g :: gs => .lost (g :: gs)
      | [] =>
        let site1 := fun (j : Nat) (w : FV) =>
          let x := convert .fp32 r (roundingOf (dRc p.desc) p.heat p.step 1 (lo + j)) w.1
          (x.1, orFlags x.2 w.2)
        if dRepublish p.desc then
          let ws := planeRead u 0 u.slot lo (chunkLen p.desc c) s
          let (xs, fl) := gather ((List.range ws.length).map fun j => site1 j (fk (ws.getD j 0)))
          .ok (packElems r xs) [] fl s
        else
          let rule := ruleConsts (tabGet [] s.upd.rules (dRule p.desc)) u.t true
          let l := updateSpan u rule lo (sumsOf p c k n) s
          let (xs, fl) := gather ((List.range l.length).map fun j => site1 j (l.getD j (fk 0, fk 0, fk 0)).1)
          let fl := l.foldl (fun a e => orFlags a (orFlags e.2.1.2 e.2.2.2)) fl
          .ok (packElems r xs) [] fl
            (modPour p.heat p.pourId (fun p => { p with writes := p.writes ++ slotWrites u lo l }) s)
    | _, _ => .ok [] [] noFlags s
  else
    match fmtOfCode (dRes p.desc) with
    | none => .ok [] [] noFlags s
    | some r => let (xs, fl) := gather (reduceChunk p c k n); .ok (packElems r xs) [] fl s

/-! ### Release (R74, R75) -/

/-- Live destinations of a chunk's RESULT packets: the whole destination set, or the one of its block. -/
def chunkDests (p : Pour) (c : Nat) (s : State) : List Nat :=
  let ds := pDests p s
  let n := (pMembers p s).length
  let l := if dOp p.desc = opScatter then [ds.getD (chunkBlock p.desc c) 0]
    else if dOp p.desc = opAllToAll then [ds.getD (chunkBlock p.desc c / n) 0] else ds
  l.filter fun e => !fencedEp e s

/-- The address word of a Pour packet (R70): pour_id, packet index, chunk index. -/
def pourAddr (pourId c i : Nat) : Nat := pourId % 2 ^ 32 + i % 256 * 2 ^ 32 + c % 2 ^ 24 * 2 ^ 40

/-- Send one packet of a Pour toward destinations: on the tree when there is one and the opcode uses it, else to each. -/
def sendPour (p : Pour) (useTree : Bool) (dests : List Nat) (c : Nat) (x : Packet) (s : State) : State :=
  let why : Purpose := .result p.heat p.pourId c
  if dests = [] then s
  else match useTree, p.tree with
    | true, some t => sendFrom { x with mcast := true, dst := t } dests why s
    | _, _ => dests.foldl (fun s d => sendFrom { x with dst := d } [d] why s) s

/-- The opcode's results travel on a tree (R74). -/
def treeOp (op : Nat) : Bool := decide (op ≤ 6) || op = opUpdate

/-- Release a rounded chunk: its RESULT packets in order, then CHUNK_MARK when MARKS is set. The manual gives no status code for a
mark that is not the end mark; the model sends DONE (DESIGN CHOICE, log entry 124). -/
def releaseChunk (p : Pour) (c : Nat) (s : State) : State :=
  let k := chunkOf p c
  if k.st ≠ 3 then s
  else
    let ds := chunkDests p c s
    let n := if dRes p.desc = 0 then 0 else packetCount k.res.length
    let head : Packet := { typ := tyResult, pinned := p.p1, cls := dCls p.desc, dst := 0, src := ownEp 58 s, heat := p.heat,
                           args := dTag32 p.desc }
    let s := putChunk p.heat p.pourId c { k with st := 4 } s
    let s := (List.range n).foldl (fun s i =>
      sendPour p (treeOp (dOp p.desc)) ds c
        { head with last := i + 1 = n, addr := pourAddr p.pourId c i, payload := (k.res.drop (2560 * i)).take 2560 } s) s
    if dMarks p.desc ∧ n > 0 then
      sendPour p (treeOp (dOp p.desc)) ds c
        { head with typ := tyChunkMark, last := true, addr := pourAddr p.pourId c (n - 1),
                    args := stDone + b2n k.ovf * 2 ^ 16 } s
    else s

/-- Release every rounded chunk. -/
def releaseAll (heat pourId : Nat) (s : State) : State :=
  match pourOf heat pourId s with
  | none => s
  | some p => (p.chunks.filter fun k => k.2.st = 3).foldl (fun s k =>
      match pourOf heat pourId s with | some p => releaseChunk p k.1 s | none => s) s

/-! ### Ends (R78 to R80) -/

/-- The completion record (R78). -/
def completionRecord (p : Pour) (now : Nat) : List Byte :=
  let fm := p.memMap ≠ [] || p.destMap ≠ []
  let elapsed := match p.openAt with | some t => min (now - t) 0xFFFFFFFF | none => 0
  leBytes 24 (p.pourId % 2 ^ 32 + p.heat % 2 ^ 32 * 2 ^ 32 + p.status % 2 ^ 16 * 2 ^ 64 + p.cause % 256 * 2 ^ 80
    + b2n p.flags.ovf * 2 ^ 88 + b2n p.flags.nanOut * 2 ^ 89 + b2n p.flags.flushOut * 2 ^ 90 + b2n p.spilled * 2 ^ 91
    + b2n p.p1 * 2 ^ 92 + b2n fm * 2 ^ 93
    + b2n (p.committed && p.status = stMemberFenced) * 2 ^ 94 + p.endp % 2 ^ 18 * 2 ^ 96 + p.rounded % 2 ^ 24 * 2 ^ 128
    + elapsed * 2 ^ 160) ++ dTag p.desc

/-- The rejection record of R66; a descriptor of another length gives its fields as far as it goes, zeros beyond. -/
def rejectRecord (b : List Byte) (status cause : Nat) : List Byte :=
  let b := (b ++ List.replicate 64 0).take 64
  leBytes 24 (dPourId b + dHeat b * 2 ^ 32 + status * 2 ^ 64 + cause * 2 ^ 80) ++ dTag b

/-- Causes of R78. -/
def cAborted : Nat := 1
def cHomeTimeout : Nat := 2
def cHomeRejected : Nat := 3
def cTag : Nat := 4
def cGeometry : Nat := 5
def cSetDigest : Nat := 6
def cHomeLost : Nat := 7

/-- Live home devices other than this one. -/
def otherHomes (p : Pour) (s : State) : List Nat := (pHomes p s).filter fun d => d ≠ ownDev s && !fencedDev d s

/-- Chunks rounded so far on this device. -/
def roundedHere (p : Pour) : Nat := (p.chunks.filter fun k => decide (k.2.st ≥ 3)).length

/-- Each device's leaves for definitions a committed Pour used (R336, kind 0x04). -/
def definitionLeaves (p : Pour) (s : State) : State :=
  if dOp p.desc ≠ opUpdate ∧ dOp p.desc ≠ opRows then s
  else
    let rule := tabGet [] s.upd.rules (dRule p.desc)
    let s := leaf .prog p.heat 0x04 (rule ++ leBytes 2 (dRule p.desc)) s
    match stateAt (dBase p.desc) s, tableAt (dBase p.desc) s with
    | some u, _ => leaf .prog p.heat 0x04 (stateDigest u ++ leBytes 8 (dBase p.desc)) s
    | none, some t => leaf .prog p.heat 0x04 (tableDigest t ++ leBytes 8 (dBase p.desc)) s
    | none, none => s

/-- Counts of owned chunks per state (R92). -/
def chunkCounts (p : Pour) (s : State) : List Nat :=
  let own := ownedChunks p s
  (List.range 6).map fun st => (own.filter fun c => (chunkOf p c).st = st).length

/-- Give back up to `n` frames of the spill reserve. -/
def dropSpill : Nat → State → State
  | 0, s => s
  | n + 1, s => match s.mem.frames.find? (fun e => e.2.use = .spill) with
    | none => s
    | some e => dropSpill n { releaseFrame e.1 s with pour := { s.pour with spill := s.pour.spill - 1 } }

/-- Pages of the reserve beyond the size asked for go as soon as no spilled chunk occupies them (R92). -/
def trimSpill (s : State) : State :=
  let have' := s.pour.spill
  dropSpill (min (have' - s.pour.spillAsk) (have' - ceilDiv (spillUsed s) 51200)) s

/-- Tombstone a pair on this device (R79): its chunks and trees go, the
counts that POUR_QUERY gives stay, the slot writes of a committed SUM_UPDATE show (R76, R137), and beyond 65,536 tombstones the oldest is removed. -/
def tombstone (heat pourId state status cause : Nat) (s : State) : State :=
  let s := match pourOf heat pourId s with
    | some p =>
      let s := if p.committed then p.writes.foldl (fun s w => spanWrite w.1 w.2 s) s else s
      (match p.tree with | some t => releaseTree t s | none => s)
    | none => s
  let s := modPour heat pourId (fun p =>
    let p := if p.committed then p else { p with chunks := [] }
    { p with state := state, status := status, cause := cause, endAt := some s.time.now, counts := chunkCounts p s,
             chunks := [], writes := [], cmd := none }) s
  let s := trimSpill s
  let dead := s.pour.pours.filter fun p => p.endAt.isSome
  if dead.length ≤ 65536 then s
  else
    let first := dead.foldl (fun o p => if p.endAt.getD 0 < o.endAt.getD 0 then p else o) (dead.headD
      { heat := heat, pourId := pourId, desc := [], lead := false, leadDev := 0, step := 0 })
    { s with pour := { s.pour with pours := s.pour.pours.filter fun p => !(p.heat = first.heat && p.pourId = first.pourId) } }

/-- The lead ends a Pour: end marks to every live destination, END to the other homes, the completion record, the result
leaf and the tombstone (R74, R77 to R79, R336). R70 lets the end mark go on the tree or to each destination: that of a Pour that
has its results out goes on their path, that of a failed Pour to each destination, whose tree may not stand (DESIGN CHOICE,
log entry 124). -/
def endPour (heat pourId : Nat) (s : State) : State :=
  match pourOf heat pourId s with
  | none => s
  | some p =>
    let ok := p.status = stDone || p.status = stDoneFenced
    let state := if p.status = stDone then 5 else if p.status = stDoneFenced then 6 else 7
    let mark : Packet := { typ := tyChunkMark, last := true, pinned := p.p1, cls := dCls p.desc, dst := 0, src := ownEp 58 s, heat := heat,
                           addr := pourAddr pourId 0xFFFFFF 0,
                           args := p.status + b2n p.flags.ovf * 2 ^ 16 + 2 ^ 17 }
    let ds := (pDests p s).filter fun e => !fencedEp e s
    let s := sendPour p (treeOp (dOp p.desc) && ok) ds 0xFFFFFF mark s
    let s := emitCtl (otherHomes p s) .endPour [heat, pourId, p.status, p.cause, b2n p.committed] [] s
    let s := leaf .result heat 0x30 (leBytes 4 pourId ++ dTag p.desc ++ packFields [(2, p.status), (1, p.cause),
      (1, b2n p.flags.ovf), (1, b2n p.flags.nanOut), (1, b2n p.flags.flushOut), (1, b2n p.p1)]) s
    let s := finishOpt p.cmd p.status (completionRecord p s.time.now) s
    tombstone heat pourId state p.status p.cause s

/-- The first failure decides (R85); a later one is logged. Before commit everything is discarded and ABORT goes out; the
Pour ends when every home device has answered, or at once when it is the only one (R77, R80). After commit no ABORT is sent: the
commit stands on the surviving home devices (R77, R84). -/
def failPour (heat pourId status cause endp : Nat) (s : State) : State :=
  match pourOf heat pourId s with
  | none => s
  | some p =>
    if p.endAt.isSome then s
    else if p.state = 7 then
      logEvent 0x0602 sevI 0x60 0xFF (packFields [(4, pourId), (2, status), (1, cause)]) s
    else if !p.lead then
      emit (.ctl p.leadDev .roundDone [ownDev s, heat, pourId, status, cause * 2 ^ 18 + endp] []) s
    else
      let others := if p.committed then [] else otherHomes p s
      let s := modPour heat pourId (fun p => { p with
        state := 7, status := status, cause := cause, endp := endp, abortAt := some s.time.now, abortWait := others,
        rounded := if p.committed then p.rounded else p.rounded + roundedHere p,
        chunks := if p.committed then p.chunks else [] }) s
      let s := emitCtl others .abort [heat, pourId, status] [] (trimSpill s)
      if others = [] then endPour heat pourId s else s

/-! ### Commit (R75, R76, R135, R147) -/

/-- What a block home needs to update a row of a Pour (R147): it may be no home device of the Pour. -/
structure RowJob where
  heat   : Nat
  pourId : Nat
  base   : Nat
  rule   : Nat
  rc     : Nat
  step   : Nat

/-- The row job of a Pour. -/
def rowJob (p : Pour) : RowJob :=
  { heat := p.heat, pourId := p.pourId, base := dBase p.desc, rule := dRule p.desc, rc := dRc p.desc, step := p.step }

/-- The accesses of a row that fail: a read or write of an FP32 plane, a write of the forward plane (R138, R147). -/
def rowFaults (t : EmbTable) (row : Nat) (s : State) : List Nat :=
  (List.range (planesOf t.kind + 1)).filterMap fun k =>
    (spanCheck t.heat (rowGfa t k row) (t.dim * if k = 0 then widthOf t.fmt else 4) s).map (·.2)

/-- One table row is updated at its block home: the planes and the forward copy, as one unit (R147), with the flags raised. -/
def applyRow (j : RowJob) (t : EmbTable) (row : Nat) (gs : List Nat) (s : State) : AFlags × State :=
  match fmtOfCode t.fmt with
  | none => (noFlags, s)
  | some f =>
    let k := ruleConsts (tabGet [] s.upd.rules j.rule) 0 false
    let rd := fun q => if q < planesOf t.kind then elemsOf .fp32 (spanRead (rowGfa t (q + 1) row) (4 * t.dim) s)
      else List.replicate t.dim 0
    let ws := rd 0
    let ms := rd 1
    let vs := rd 2
    let l := (List.range t.dim).map fun i =>
      ruleStep k (fk (gs.getD i 0)) (fk (ws.getD i 0)) (fk (ms.getD i 0)) (fk (vs.getD i 0))
    let put := fun q (xs : List Nat) (s : State) =>
      if q < planesOf t.kind then spanWrite (rowGfa t (q + 1) row) (packElems .fp32 xs) s else s
    let s := put 2 (l.map fun e => e.2.2.1) (put 1 (l.map fun e => e.2.1.1) (put 0 (l.map fun e => e.1.1) s))
    let fw := (List.range t.dim).map fun i =>
      convert .fp32 f (roundingOf j.rc j.heat j.step 1 (row * t.dim + i)) (l.getD i (fk 0, fk 0, fk 0)).1.1
    let fl := l.foldl (fun a e => orFlags a (orFlags e.1.2 (orFlags e.2.1.2 e.2.2.2))) (gather fw).2
    (fl, incReg .upRowApplyCnt 0 (spanWrite (rowGfa t 0 row) (packElems f (gather fw).1) (raiseSomewhere (pourBays s) fl s)))

/-- A failed access of the engines is logged with its GFA (R138). -/
def logAccess (g : Nat) (s : State) : State := logEvent 0x0501 sevW 0x50 0xFF (packFields [(8, g), (1, 3)]) s

/-- Failed accesses of a Pour's update: each is logged, and the first fails the Pour (R138). -/
def failAccesses (heat pourId : Nat) (gs : List Nat) (s : State) : State :=
  let s := gs.foldl (fun s g => logAccess g s) s
  match gs with
  | [] => s
  | g :: _ => failPour heat pourId stMemberFenced cHomeLost (epOf (entryAt (gPage g) s).home 57) s

/-- A row is updated here for the Pour of this device. -/
def rowHere (p : Pour) (t : EmbTable) (row : Nat) (gs : List Nat) (s : State) : State :=
  match rowFaults t row s with
  | g :: l => failAccesses p.heat p.pourId (g :: l) s
  | [] =>
    let (fl, s) := applyRow (rowJob p) t row gs s
    modPour p.heat p.pourId (fun q => { q with flags := orFlags q.flags fl }) s

/-- Rows of a Pour that a block home has not confirmed: `n` more, or fewer. -/
def countRows (d : Nat) (up : Bool) (l : List (Nat × Nat)) : List (Nat × Nat) :=
  let k := ((l.find? fun e => e.1 = d).map (·.2)).getD 0
  let k' := if up then k + 1 else k - 1
  (l.filter fun e => e.1 ≠ d) ++ (if k' = 0 then [] else [(d, k')])

/-- Send one rounded row to its block home, which confirms it, or apply it here. -/
def sendRow (p : Pour) (t : EmbTable) (row : Nat) (gs : List Nat) (s : State) : State :=
  match (rowHome t row s).filter (· ≠ ownDev s) with
  | none => rowHere p t row gs s
  | some d =>
    let j := rowJob p
    emit (.ctl d .rowUpdate ([ownDev s, j.heat, j.pourId, j.base, j.rule, j.rc, j.step, row] ++ gs) [])
      (modPour p.heat p.pourId (fun q => { q with rowWait := countRows d true q.rowWait }) s)

/-- A committed SUM_UPDATE flips the slot and advances t on this device, saturating, and is counted as applied; a REPUBLISH
updates nothing (R135 step 7, R140, R148). -/
def flipState (p : Pour) (s : State) : State :=
  if dOp p.desc ≠ opUpdate then s
  else
    if dRepublish p.desc then modState (dBase p.desc) (fun u => { u with lastPour := p.pourId }) s
    else modState (dBase p.desc) (fun u => { u with slot := 1 - u.slot, t := min (u.t + 1) (2 ^ 32 - 1), prevT := u.t,
                                                    canRevert := true, lastPour := p.pourId }) (incReg .upUpdatesCnt 0 s)

/-- This device's part of a commit. -/
def commitHere (heat pourId : Nat) (s : State) : State :=
  match pourOf heat pourId s with
  | none => s
  | some p =>
    let s := modPour heat pourId (fun p => { p with state := 4, committed := true }) s
    let s := definitionLeaves p (flipState p s)
    let s := if dOp p.desc ≠ opRows then s
      else match tableAt (dBase p.desc) s with
        | none => s
        | some t =>
          let s := { s with upd := { s.upd with tables := s.upd.tables.map fun x =>
            if x.base = t.base then { x with lastPour := pourId } else x } }
          (p.chunks.flatMap fun k => k.2.rowRes).foldl (fun s r => sendRow p t r.1 r.2 s) s
    releaseAll heat pourId s

/-- A packet of a Pour's results is still unanswered or waiting. -/
def resultsOut (heat pourId : Nat) (s : State) : Bool :=
  let mine := fun w : Purpose => match w with | .result h i _ => h = heat && i = pourId | _ => false
  s.net.streams.any fun o => o.unacked.any (fun x => mine x.why) || o.waiting.any (fun x => mine x.2.2)

/-- A packet of one chunk's results is still unanswered or waiting. -/
def chunkOut (heat pourId c : Nat) (s : State) : Bool :=
  s.net.streams.any fun o => o.unacked.any (fun x => x.why = .result heat pourId c)
    || o.waiting.any (fun x => x.2.2 = .result heat pourId c)

/-- A released chunk whose packets are all answered is DELIVERED, and its room is free (R77, R470). -/
def settleChunks (heat pourId : Nat) (s : State) : State :=
  trimSpill (modPour heat pourId (fun p => { p with chunks := p.chunks.map fun k =>
    if k.2.st = 4 && !(chunkOut heat pourId k.1 s) then (k.1, { k.2 with st := 5, slots := 0, spill := 0 }) else k }) s)

/-- A Pour whose released packets are all answered here, and whose rows are all written (R147): a home device says so to the lead, with the flags its table rows raised
since ROUND_DONE, and the lead ends the Pour when every home device has (R77; the report is log entry 26). -/
def settleOne (heat pourId : Nat) (s : State) : State :=
  let s := settleChunks heat pourId s
  match pourOf heat pourId s with
  | none => s
  | some p =>
    if p.state ≠ 4 ∨ p.endAt.isSome ∨ resultsOut heat pourId s ∨ p.rowWait ≠ [] then s
    else if !p.lead then
      if p.marksSent then s
      else emit (.ctl p.leadDev .roundDone [ownDev s, heat, pourId, 1, flagBits p.flags] [])
        (modPour heat pourId (fun p => { p with marksSent := true }) s)
    else if p.delivWait ≠ [] then s
    else
      let st := if p.memMap = [] ∧ p.destMap = [] then stDone else stDoneFenced
      endPour heat pourId (modPour heat pourId (fun p => { p with status := st }) s)

/-- Settle every Pour in DELIVERING (POUR_DELIVERED). -/
def settlePours (s : State) : State := s.pour.pours.foldl (fun s p => settleOne p.heat p.pourId s) s

/-- Chunks not rounded, as the lead knows them: its own, and every chunk of a home device that has not sent ROUND_DONE. -/
def notRounded (p : Pour) (s : State) : Nat :=
  let hs := pHomes p s
  ((List.range (pourChunks p s)).filter fun c =>
    let d := hs.getD (ownerIndex p.heat p.pourId c hs.length) 0
    if d = ownDev s then decide ((chunkOf p c).st < 3) else p.roundWait.contains d).length

/-- The deadline passed without commit (R83): logged, and the Pour fails. -/
def missDeadline (heat pourId : Nat) (s : State) : State :=
  match pourOf heat pourId s with
  | none => s
  | some p => failPour heat pourId stDeadlineMissed 0 0
      (logEvent 0x0401 sevW 0x60 0xFF (packFields [(1, 1), (4, pourId), (4, notRounded p s)]) s)

/-- A member's bit of the fence map. -/
def markMember (heat pourId m : Nat) (s : State) : State :=
  modPour heat pourId (fun q => { q with memMap := if q.memMap.contains m then q.memMap else q.memMap ++ [m] }) s

/-- The lead commits when it holds ROUND_DONE from every home device (R75). A fenced member still asked about is complete by then,
since every chunk is (R84). -/
def tryCommit (heat pourId : Nat) (s : State) : State :=
  match pourOf heat pourId s with
  | none => s
  | some p =>
    if !p.lead || p.state = 0 || decide (p.state > 3) || p.roundWait ≠ [] || !p.sentRound then s
    else
      let late := match p.openAt with | some t => dDeadline p.desc ≠ 0 && decide (s.time.now > t + dDeadline p.desc) | none => false
      if late then missDeadline heat pourId s
      else
        let s := emitCtl (otherHomes p s) .commit [heat, pourId] [] s
        let s := p.queries.foldl (fun s x => markMember heat pourId x.1 s) s
        let s := modPour heat pourId (fun p => { p with rounded := pourChunks p s, queries := [] }) s
        settleOne heat pourId (commitHere heat pourId s)

/-- The lead's state while chunks are complete and none is filling (R77): ROUNDING. The chunks of other home devices are known to
be complete from their ROUND_DONE, and at once for a REPUBLISH (R140). -/
def noteRounding (heat pourId : Nat) (s : State) : State :=
  match pourOf heat pourId s with
  | none => s
  | some p =>
    if p.lead && (p.state = 1 || p.state = 2) && (p.roundWait = [] || dRepublish p.desc)
        && (ownedChunks p s).all (fun c => decide ((chunkOf p c).st ≥ 2)) then
      modPour heat pourId (fun p => { p with state := 3 }) s
    else s

/-- Every chunk this device owns is rounded: after OPEN it reports ROUND_DONE (R71, R75). -/
def tryRoundDone (heat pourId : Nat) (s : State) : State :=
  match pourOf heat pourId s with
  | none => s
  | some p =>
    if p.sentRound || p.openAt.isNone || decide (p.state > 3) then s
    else if !((ownedChunks p s).all fun c => decide ((chunkOf p c).st ≥ 3)) then s
    else
      let s := modPour heat pourId (fun p => { p with sentRound := true }) s
      if p.lead then tryCommit heat pourId (noteRounding heat pourId s)
      else emit (.ctl p.leadDev .roundDone [ownDev s, heat, pourId, 0, flagBits p.flags + 16 * b2n p.spilled] []) s

/-! ### Contribute-linked tensors (R125) -/

/-- Element count of a tensor-table entry for `m` rows (R95). -/
def tensCount (b : List Byte) (m : Nat) : Nat :=
  (if fieldAt b 2 1 % 2 = 1 then m else fieldAt b 4 2) * fieldAt b 6 2 * fieldAt b 8 2

/-- The link of a tensor-table entry: 0 none, 1 contribute, 2 receive. -/
def tensLink (b : List Byte) : Nat := fieldAt b 10 1 % 4

/-- The tensors of this device's PLACED segments with a link, of a Heat and a linked state: (segment, tensor, entry). -/
def linkedTensors (kind heat base : Nat) (s : State) : List (Nat × Nat × List Byte) :=
  s.layer.segs.flatMap fun g =>
    if g.2.heat ≠ heat ∨ g.2.state ≠ .placed then []
    else (g.2.tens.filter fun t => tensLink t.2 = kind && fieldAt t.2 24 8 = base).map fun t => (g.1, t.1, t.2)

/-- Port 58 sends the CONTRIB packets of a tensor's bytes (R70, R90). -/
def sendContrib (p : Pour) (bytes : List Byte) (s : State) : State :=
  let w := widthOf (dSrc p.desc)
  (List.range (pourChunks p s)).foldl (fun s c =>
    let part := (bytes.drop (chunkLo p.desc c * w)).take (chunkLen p.desc c * w)
    let n := packetCount part.length
    let dst := epOf (ownerDev p c s) 58
    (List.range n).foldl (fun s i =>
      sendFrom { typ := tyContrib, last := i + 1 = n, pinned := p.p1, digest := dDigest p.desc, cls := dCls p.desc, dst := dst,
                 src := ownEp 58 s, heat := p.heat, addr := pourAddr p.pourId c i, args := dTag32 p.desc,
                 payload := (part.drop (2560 * i)).take 2560 } [dst] .plain s) s) s

/-- A Pour that has reached OPEN here takes what its port-58 member gives: one empty CONTRIB for a BARRIER (R90), for a SUM_UPDATE
the contribute-linked tensor once its ready flag is set; a tensor of another size or format fails it (R125). -/
def tryContribute (heat pourId : Nat) (s : State) : State :=
  match pourOf heat pourId s with
  | none => s
  | some p =>
    if dRepublish p.desc ∨ p.openAt.isNone ∨ p.contributed ∨ p.state > 3 ∨ ¬ (pMembers p s).contains (ownEp 58 s) then s
    else if dOp p.desc = opBarrier then
      sendContrib p [] (modPour heat pourId (fun p => { p with contributed := true }) s)
    else if dOp p.desc ≠ opUpdate then s
    else match linkedTensors 1 heat (dBase p.desc) s with
      | [] => s
      | (g, t, b) :: _ =>
        let seg := tabFind s.layer.segs g
        let data := match seg with | some x => tabFind x.ready t | none => none
        let rows := match data with | some d => some d.length | none => if fieldAt b 2 1 % 2 = 1 then none else some (tensCount b 0)
        let wrong := fieldAt b 0 1 ≠ dSrc p.desc || (match rows with | some n => decide (n ≠ dElems p.desc) | none => false)
        if wrong then failPour heat pourId stMismatch cGeometry (ownEp 58 s) s
        else match data, fmtOfCode (dSrc p.desc), seg with
          | some d, some f, some x =>
            let s := { s with layer := { s.layer with segs := tabPut s.layer.segs g { x with ready := tabDel x.ready t } } }
            sendContrib p (packElems f d) (modPour heat pourId (fun p => { p with contributed := true }) s)
          | _, _, _ => s

/-- Every Pour that waits for a ready flag looks again. -/
def contributeAll (s : State) : State := s.pour.pours.foldl (fun s p => tryContribute p.heat p.pourId s) s

/-- Slots a chunk holds under pattern 1 (R470): the packets of rows one by one, any other chunk as a whole. -/
def p1Slots (p : Pour) (k : Chunk) (s : State) : Nat :=
  match decide (dOp p.desc = opRows), tableAt (dBase p.desc) s, fmtOfCode (dSrc p.desc) with
  | true, some t, some f => sumNat (k.raw.map fun e => ceilDiv ((rowRecords t f e.2).length * t.dim * f.bytes) 40)
  | _, _, _ => chunkSlots p s

/-- A chunk opened before OPEN under pattern 2 takes the room of pattern 1 when the whole Pour runs under it (R87, R470): from its
pool while that has room, else from the spill reserve (log entry 124). -/
def refitChunk (p : Pour) (c : Nat) (s : State) : State :=
  let k := chunkOf p c
  let n := p1Slots p k s
  if k.st ≠ 1 ∧ k.st ≠ 2 ∨ k.slots + k.spill = n then s
  else if k.spill = 0 ∧ bayUsed k.bay s - k.slots + n ≤ bayPool then putChunk p.heat p.pourId c { k with slots := n } s
  else putChunk p.heat p.pourId c { k with slots := 0, spill := n } (if k.spill = 0 then markSpill p s else s)

/-- The Pour runs under pattern 1: its open chunks take their room. -/
def refitChunks (heat pourId : Nat) (s : State) : State :=
  match pourOf heat pourId s with
  | none => s
  | some p => p.chunks.foldl (fun s k => refitChunk p k.1 s) s

/-- A Pour is open on this device, under the pattern the lead registered it with (R87): chunks of a REPUBLISH are complete at once
and get their owner Flasks, STREAM results that waited are released, and ROUND_DONE goes when nothing is left to round (R71, R77,
R140). -/
def openHere (heat pourId : Nat) (p1 : Bool) (s : State) : State :=
  match pourOf heat pourId s with
  | none => s
  | some p =>
    let any := p.chunks ≠ []
    let s := modPour heat pourId (fun p => { p with state := if any ∧ p.lead then 2 else 1, openAt := some s.time.now, p1 := p1 }) s
    let s := modCtx heat (fun x => { x with pats := x.pats ||| (if p1 then 1 else 2) }) s
    let s := if p1 && !p.p1 then refitChunks heat pourId s else s
    let s := if dRepublish p.desc then
        (ownedChunks p s).foldl (fun s c =>
          let (k, s) := placeChunk c { st := 2 } s
          putChunk heat pourId c k s) s else s
    let s := if dStream p.desc then releaseAll heat pourId s else s
    tryRoundDone heat pourId (noteRounding heat pourId (tryContribute heat pourId s))

/-- The lead opens a Pour once every REG_ACK matches and the trees are built (R77), and dispatch is not paused (R396). -/
def tryOpen (heat pourId : Nat) (s : State) : State :=
  match pourOf heat pourId s with
  | none => s
  | some p =>
    let ready := match p.tree with | some t => treeReady t s | none => true
    if !p.lead || p.state ≠ 0 || p.regWait ≠ [] || !ready || paused s then s
    else
      let others := otherHomes p s
      let s := modPour heat pourId (fun p => { p with roundWait := others, delivWait := others }) s
      openHere heat pourId p.p1 (emitCtl others .openPour [heat, pourId, b2n p.p1] [] s)

/-! ### Fenced members and destinations (R84) -/

/-- Every chunk this device owns holds a member's full contribution. -/
def holdsMember (q : Pour) (m : Nat) (s : State) : Bool :=
  (ownedChunks q s).all fun c => !(contributors q c s).contains m || memberDone q c m (chunkOf q c)

/-- The lead learns of a fenced member. Of a Pour that has failed already, an incomplete one is a later failure, logged (R85). -/
def fencedMember (heat pourId m e : Nat) (s : State) : State :=
  match pourOf heat pourId s with
  | none => s
  | some q =>
    if q.memMap.contains m ∨ q.queries.any (fun x => x.1 = m) then s
    else if q.committed then markMember heat pourId m s
    else if !holdsMember q m s then failPour heat pourId stMemberFenced 0 e s
    else if q.state = 7 then s
    else
      let others := otherHomes q s
      if others = [] then markMember heat pourId m s
      else emitCtl others .fenceQuery [heat, pourId, m] []
        (modPour heat pourId (fun q => { q with queries := q.queries ++ [(m, others)] }) s)

/-- The lead of a Pour learns of fenced endpoints among its destinations and members. -/
def fenceSets (hit : Nat → Bool) (heat pourId : Nat) (s : State) : State :=
  match pourOf heat pourId s with
  | none => s
  | some q =>
    let mem := pMembers q s
    let dst := pDests q s
    let lost := (List.range dst.length).filter fun i => hit (dst.getD i 0)
    let s := modPour heat pourId (fun q => { q with
      destMap := q.destMap ++ lost.filter (fun i => !q.destMap.contains i) }) s
    ((List.range mem.length).filter fun i => hit (mem.getD i 0)).foldl
      (fun s i => fencedMember heat pourId i (mem.getD i 0) s) s

/-! ### Registration (R66, R77, R134) -/

/-- The check of R134 that a device's own records fail, by number, against the lead's digests. -/
def homeCheck (b : List Byte) (ruleDig stateDig : Nat) (s : State) : Option Nat :=
  let rule := tabGet [] s.upd.rules (dRule b)
  let live := pourUses (fun p => (pourOp p = opUpdate || pourOp p = opRows) && pourBase p = dBase b
    && !(p.heat = dHeat b && p.pourId = dPourId b)) s
  if dOp b ≠ opUpdate ∧ dOp b ≠ opRows then none
  else if rule = [] ∨ leNat (ruleDigest rule) ≠ ruleDig then some 1
  else if dOp b = opUpdate then
    match stateAt (dBase b) s with
    | none => some 2
    | some u =>
      if leNat (stateDigest u) ≠ stateDig ∨ u.heat ≠ dHeat b then some 2
      else if u.elems ≠ dElems b ∨ ruKind rule ≠ u.kind then some 3
      else if live then some 4 else none
  else
    match tableAt (dBase b) s with
    | none => some 2
    | some t =>
      let grad := match fmtOfCode t.fmt, fmtOfCode (dSrc b) with | some f, some g => isPair f g | _, _ => false
      if leNat (tableDigest t) ≠ stateDig ∨ t.heat ≠ dHeat b then some 2
      else if t.rows * t.dim ≠ dElems b ∨ ruKind rule ≠ t.kind ∨ ruBias rule ∨ !grad then some 3
      else if live then some 4 else none

/-- The digests a lead sends with REGISTER. -/
def ruleDigOf (b : List Byte) (s : State) : Nat := leNat (ruleDigest (tabGet [] s.upd.rules (dRule b)))
def stateDigOf (b : List Byte) (s : State) : Nat :=
  match stateAt (dBase b) s, tableAt (dBase b) s with
  | some u, _ => leNat (stateDigest u)
  | none, some t => leNat (tableDigest t)
  | none, none => 0

/-- A link this device holds for a member, a destination or a route runs pattern 1 (R87). The manual does not say which links are
routes of a Pour; the model takes every fabric link of the device that is in service (DESIGN CHOICE, log entry 124). -/
def usesP1 (b : List Byte) (s : State) : Bool :=
  ((setEntries (dMem b) s ++ setEntries (dDest b) s).any fun e =>
    devOf e = ownDev s && decide (portOf e < 52) && flag .lkP1 (portOf e) s)
  || ((List.range 24).any fun k => s.route.active.linkUp.testBit (24 + k) && flag .lkP1 (24 + k) s)

/-- A state's revert is no longer available once another Pour registers on it (R139, R140). -/
def noteRegistered (b : List Byte) (s : State) : State :=
  if dOp b = opUpdate ∧ ¬ dRepublish b then modState (dBase b) (fun u => { u with canRevert := false }) s else s

/-- This device takes a Pour as a home: a tree for the destination set is asked for, whatever the opcode (R74). None: no tree. -/
def takeHome (p : Pour) (s : State) : Option State :=
  let s := noteRegistered p.desc s
  match obtainTree p.heat (setEntries (dDest p.desc) s) s with
  | some (t, s) => some { s with pour := { s.pour with pours := s.pour.pours ++ [{ p with tree := some t }] } }
  | none => none

/-- The first failing check of R66: status and cause. -/
def registerCheck (b : List Byte) (s : State) : Option (Nat × Nat) :=
  let mem := setEntries (dMem b) s
  let dst := setEntries (dDest b) s
  let cb := fieldAt b 28 4
  if b.length ≠ 64 then some (stBadLength, 0)
  else if !dResvOk b then some (stBadParam, 0)
  else if !fieldsOk b then some (stBadParam, 0)
  else if !(cb = 0 || (cb % 4096 = 0 && decide (cb ≤ 655360))) then some (stBadParam, 0)
  else if (dOp b = opBarrier) ≠ (dElems b = 0) then some (stBadParam, 0)
  else if !setsMatch b s then some (stMismatch, cSetDigest)
  else if (setEntries (dHome b) s).headD 0 ≠ ownEp 58 s then some (stBadParam, 0)
  else if chunkCount b mem.length dst.length s > 16777215 ∨ dRoot b ≥ mem.length ∨ (dOp b = opAllToAll ∧ mem ≠ dst) then
    some (stBadParam, 0)
  else if descTag b ≠ dTag b then some (stMismatch, cTag)
  else if (pourOf (dHeat b) (dPourId b) s).isSome ∨ s.det.paused.contains (dHeat b) then some (stBadState, 0)
  else if poursLive s ≥ 65536 then some (stNoResource, 0)
  else none

/-- The leaves of a registration (R336): the descriptor with the step, and one per set. -/
def registerLeaves (b : List Byte) (step : Nat) (s : State) : State :=
  let s := stepLeaf (dHeat b) 0x01 step (noDeadline b) s
  [dMem b, dDest b, dHome b].foldl (fun s i =>
    leaf .prog (dHeat b) 0x05 (shake256 8 (setBytes (setEntries i s)) ++ leBytes 2 i) s) s

/-- The lead registers an accepted Pour: REGISTER to every other home device, its own part here (R77). Members and destinations
that are fenced already meet R84 at once. -/
def registerLead (b : List Byte) (c : CmdRef) (s : State) : State :=
  let heat := dHeat b
  let id := dPourId b
  let step := tabGet 0 s.det.steps heat
  let homes := (setEntries (dHome b) s).map devOf
  let others := homes.filter fun d => d ≠ ownDev s
  let p : Pour := { heat := heat, pourId := id, desc := b, lead := true, leadDev := ownDev s, step := step,
                    p1 := usesP1 b s, cmd := some c, regAt := s.time.now, regWait := others }
  let s := registerLeaves b step s
  let rd := ruleDigOf b s
  let sd := stateDigOf b s
  let s := emitCtl others .register [ownDev s, step, rd, sd] b s
  let bad := homeCheck b rd sd s
  let lost := homes.any fun d => fencedDev d s
  match bad, takeHome p s with
  | none, some s => if lost then failPour heat id stMemberFenced cHomeLost (epOf ((homes.find? fun d => fencedDev d s).getD 0) 58) s
      else tryOpen heat id (fenceSets (fun e => fencedEp e s) heat id s)
  | some k, some s =>
    let s := logEvent 0x0604 sevW 0x80 0xFF (packFields [(4, id), (1, k)]) (incReg .upRejectCnt 0 s)
    failPour heat id stNoResource cHomeRejected 0 s
  | _, none => failPour heat id stNoResource cHomeRejected 0
      { s with pour := { s.pour with pours := s.pour.pours ++ [p] } }

/-- POUR_REGISTER (R66, R92). -/
def execPourRegister (m : CmdMeta) (desc : List Byte) (s : State) : Out :=
  command m 0x0600 (fun c s =>
    match registerCheck desc s with
    | some (st, cause) => answer c st (rejectRecord desc st cause) s
    | none => accept c (registerLead desc c) s) s

/-- POUR_ABORT (R85). The manual names no status for an unknown pair or for a home device that is not the lead (BAD_PARAM here), nor
for a Pour that has FAILED and not yet ended (BAD_STATE here): DESIGN CHOICE, log entry 124. -/
def execPourAbort (m : CmdMeta) (heat pourId : Nat) (s : State) : Out :=
  command m 0x0601 (fun c s =>
    match pourOf heat pourId s with
    | none => refuse c stBadParam s
    | some p =>
      if !p.lead then refuse c stBadParam s
      else if p.endAt.isSome || decide (p.state > 3) then refuse c stBadState s
      else done c (failPour heat pourId stDenied cAborted 0 s)) s

/-- POUR_QUERY: the completion record as this device holds it while the tombstone lasts (R78, R92). -/
def execPourQuery (m : CmdMeta) (heat pourId : Nat) (s : State) : Out :=
  command m 0x0602 (fun c s =>
    match pourOf heat pourId s with
    | none => refuse c stBadParam s
    | some p =>
      let counts := if p.endAt.isSome then p.counts else chunkCounts p s
      answer c stDone (leBytes 1 p.state ++ counts.flatMap (fun n => leBytes 3 n)
        ++ (if p.endAt.isSome then completionRecord p (p.endAt.getD 0) else [])) s) s

/-- POUR_FENCE_MAP: 2,048 bytes indexed by set position. -/
def execPourFenceMap (m : CmdMeta) (heat pourId select : Nat) (s : State) : Out :=
  command m 0x0603 (fun c s =>
    match pourOf heat pourId s with
    | none => refuse c stBadParam s
    | some p =>
      if select > 1 then refuse c stBadParam s
      else if !p.lead then refuse c stBadState s
      else
        let l := if select = 0 then p.memMap else p.destMap
        answer c stDone (leBytes 2048 (l.foldl (fun v i => withBit v i) 0)) s) s

/-! ### Sets (R61, R92) -/

/-- A set is used by a live Pour of this device. -/
def setInUse (i : Nat) (s : State) : Bool := pourUses (fun p => dMem p.desc = i || dDest p.desc = i || dHome p.desc = i) s

/-- Store a set. -/
def putSet (i : Nat) (t : MSet) (s : State) : State := { s with pour := { s.pour with sets := tabPut s.pour.sets i t } }

/-- Entries in use by all sets but one. -/
def setEntriesUsed (but : Nat) (s : State) : Nat := sumNat (s.pour.sets.map fun e => if e.1 = but then 0 else e.2.count)

/-- MSET_BEGIN. -/
def execMsetBegin (m : CmdMeta) (index count : Nat) (s : State) : Out :=
  command m 0x0610 (fun c s =>
    if index > 4095 ∨ count = 0 ∨ count > 16384 then refuse c stBadParam s
    else if setInUse index s then refuse c stBadState s
    else if setEntriesUsed index s + count > 4194304 then refuse c stNoResource s
    else done c (putSet index { count := count, entries := [], closed := false, kind := 0 } s)) s

/-- MSET_WRITE: a written set is unsealed. A position that was never written is not listed. -/
def execMsetWrite (m : CmdMeta) (index first : Nat) (entries : List Nat) (s : State) : Out :=
  command m 0x0611 (fun c s =>
    if entries = [] ∨ entries.length > 600 then refuse c stBadLength s
    else if index > 4095 then refuse c stBadParam s
    else match tabFind s.pour.sets index with
      | none => refuse c stBadState s
      | some t =>
        if first + entries.length > t.count ∨ entries.any (fun e => decide (e ≥ 2 ^ 18)) then refuse c stBadParam s
        else if setInUse index s then refuse c stBadState s
        else
          let es := (List.range entries.length).foldl (fun l i => tabPut l (first + i) (entries.getD i 0)) t.entries
          done c (putSet index { t with entries := es, closed := false } s)) s

/-- Ports a set of a kind may name (R61). -/
def entryOk (kind e : Nat) : Bool := if kind = 1 then portOf e = 58 else decide (portOf e < 52) || portOf e = 58

/-- MSET_SEAL. -/
def execMsetSeal (m : CmdMeta) (index kind : Nat) (s : State) : Out :=
  command m 0x0612 (fun c s =>
    if index > 4095 ∨ kind > 1 then refuse c stBadParam s
    else match tabFind s.pour.sets index with
      | none => refuse c stBadState s
      | some t =>
        if setInUse index s then refuse c stBadState s
        else if t.entries.length < t.count then refuse c stBadState s
        else
          let l := setList t
          if (kind = 1 ∧ l.length > 2320) ∨ l.any (fun e => !entryOk kind e) ∨ (dedupNat l).length ≠ l.length then
            refuse c stBadParam s
          else answer c stDone (shake256 8 (setBytes l)) (putSet index { t with closed := true, kind := kind } s)) s

/-- MSET_FREE. -/
def execMsetFree (m : CmdMeta) (index : Nat) (s : State) : Out :=
  command m 0x0613 (fun c s =>
    if index > 4095 then refuse c stBadParam s
    else if (tabFind s.pour.sets index).isNone ∨ setInUse index s then refuse c stBadState s
    else done c { s with pour := { s.pour with sets := tabDel s.pour.sets index } }) s

/-- MSET_READ: up to 600 entries, 0xFFFF_FFFF for a position not yet written. -/
def execMsetRead (m : CmdMeta) (index first : Nat) (s : State) : Out :=
  command m 0x0614 (fun c s =>
    if index > 4095 then refuse c stBadParam s
    else match tabFind s.pour.sets index with
      | none => refuse c stBadState s
      | some t =>
        if first ≥ t.count then refuse c stBadParam s
        else answer c stDone ((List.range (min 600 (t.count - first))).flatMap fun i =>
          leBytes 4 (match tabFind t.entries (first + i) with | some e => e | none => 0xFFFFFFFF)) s) s

/-! ### Class weights, spill reserve, statistics -/

/-- POUR_CLASS_SET (R88). -/
def execPourClassSet (m : CmdMeta) (cls weight : Nat) (s : State) : Out :=
  command m 0x0620 (fun c s =>
    requires (decide (cls ≤ 4) && decide (1 ≤ weight) && decide (weight ≤ 255)) c stBadParam
      (fun s => done c (setReg .peClassWeight cls weight s)) s) s

/-- Take up to `n` frames for the spill reserve. -/
def takeSpill : Nat → State → State
  | 0, s => s
  | n + 1, s => match freeSoft s with
    | none => s
    | some f => takeSpill n { putFrame f { use := .spill } s with pour := { s.pour with spill := s.pour.spill + 1 } }

/-- The spill reserve grows by the frames that are free; the size it reached is what is asked for (R86). -/
def growSpill (pages : Nat) (s : State) : State :=
  let s := takeSpill (pages - s.pour.spill) s
  { s with pour := { s.pour with spillAsk := s.pour.spill } }

/-- The spill reserve shrinks, at once or as its chunks leave (R86). -/
def shrinkSpill (pages : Nat) (s : State) : State := trimSpill { s with pour := { s.pour with spillAsk := pages } }

/-- POUR_SPILL_RESERVE (R86, R92). -/
def execPourSpillReserve (m : CmdMeta) (pages : Nat) (s : State) : Out :=
  command m 0x0621 (fun c s =>
    if pages > 1048575 then refuse c stBadParam s
    else if pages > s.pour.spill then
      if (growSpill pages s).pour.spill = s.pour.spill then refuse c stNoResource s
      else answer c stDone (leBytes 4 (growSpill pages s).pour.spill) (growSpill pages s)
    else answer c stDone (leBytes 4 (shrinkSpill pages s).pour.spill) (shrinkSpill pages s)) s

/-- POUR_STATS: the six counters of R91, MISMATCH_CNT to SPILL_CNT. -/
def execPourStats (m : CmdMeta) (s : State) : Out :=
  command m 0x0630 (fun c s => answer c stDone (readWords 0x60000010 6 s) s) s

end Sys2Proof.Machine
end

