-- ==== Sys2Proof/Machine/PourEvents.lean ====
section
/-! DEFINITION. Port 58 and the messages and timed events of the pour Shop (R71 to R85, R87, R124, R125, R144 to R147,
R283, R284). -/
namespace Sys2Proof.Machine

/-! ### CONTRIB (R70 to R73, R145, R146) -/

/-- Fields of the address word of a Pour packet (R70). -/
def paPour (p : Packet) : Nat := p.addr % 2 ^ 32
def paIndex (p : Packet) : Nat := bitsOf p.addr 39 32
def paChunk (p : Packet) : Nat := bitsOf p.addr 63 40

/-- What the checks of R71 decide. -/
inductive ContribFate where
  | notRegistered
  | tombstoned (status : Nat)
  | committed
  | discarded
  | denied
  | badTag
  | badGeometry
  | repeated
  | fits (member : Nat)
  deriving DecidableEq, Repr

/-- Rows of a payload lie in a bucket and the payload is a whole number of records (R145). -/
def rowsFit (t : EmbTable) (f : Fmt) (c : Nat) (pay : List Byte) : Bool :=
  pay.length % (8 + t.dim * f.bytes) = 0
  && (rowRecords t f pay).all fun r => r.1 % t.buckets = c && decide (r.1 < t.rows)

/-- Records of a member accepted on this device so far (R145). -/
def rowsSoFar (q : Pour) (m : Nat) : Nat := match q.rowRecs.find? (fun e => e.1 = m) with | some e => e.2 | none => 0

/-- Check 6 of R71 for member `m`. -/
def geometryOk (q : Pour) (m : Nat) (p : Packet) (s : State) : Bool :=
  let c := paChunk p
  let i := paIndex p
  let bytes := contribBytes q.desc c
  decide (c < pourChunks q s) && ownerDev q c s = ownDev s && (contributors q c s).contains m
  && (if dOp q.desc = opRows then
        (match tableAt (dBase q.desc) s, fmtOfCode (dSrc q.desc) with
          | some t, some f => rowsFit t f c p.payload
              && decide (rowsSoFar q m + (rowRecords t f p.payload).length ≤ 2 ^ 28)
          | _, _ => false)
        && (match (chunkOf q c).lasts.find? (fun e => e.1 = m) with | some (_, last) => decide (i ≤ last) | none => true)
      else decide (i < packetCount bytes) && p.payload.length = packetLen bytes i)

/-- The checks 1 to 7 of R71, in their order. A Pour that has failed and not yet ended is no tombstone: a packet that passes the
checks is acknowledged and discarded with everything else of it (R80). -/
def contribFate (p : Packet) (s : State) : ContribFate :=
  match pourOf p.heat (paPour p) s with
  | none => .notRegistered
  | some q =>
    if q.endAt.isSome then .tombstoned q.status
    else if q.committed then .committed
    else match indexOf? (pMembers q s) p.src with
      | none => .denied
      | some m =>
        if p.args ≠ dTag32 q.desc then .badTag
        else if !geometryOk q m p s then .badGeometry
        else if q.state = 7 then .discarded
        else if (chunkOf q (paChunk p)).acc.contains (m * 256 + paIndex p) then .repeated
        else .fits m

/-- Room for the rows of one packet (R146, R470): D slots per new row under pattern 2, the packet's data under pattern 1. `old` is
the chunk as stored. -/
def rowRoom (q : Pour) (pay : List Byte) (old k : Chunk) (s : State) : Option (Chunk × State) :=
  match tableAt (dBase q.desc) s, fmtOfCode (dSrc q.desc) with
  | some t, some f =>
    let rs := rowRecords t f pay
    if q.p1 then moreSlots q (ceilDiv (rs.length * t.dim * f.bytes) 40) old k s
    else
      let new := (dedupNat (rs.map (·.1))).filter fun r => !k.rows.any fun e => e.1 = r
      new.foldl (fun acc _ => match acc with
        | some (k, s) => moreSlots q t.dim old k s
        | none => none) (some (k, s))
  | _, _ => some (k, s)

/-- Check 8 of R71: the chunk with its room. -/
def contribRoom (q : Pour) (c : Nat) (pay : List Byte) (s : State) : Option (Chunk × State) :=
  let old := chunkOf q c
  let opened := if old.st = 0 then openChunk q c s else some (old, s)
  match opened with
  | none => none
  | some (k, s) => if dOp q.desc = opRows then rowRoom q pay old k s else some (k, s)

/-- The packet is acknowledged from port 58 and the port takes the next of its stream. -/
def ackContrib (p : Packet) (s : State) : State :=
  portDone p true true (sendAnswer (mkAck p (ownEp 58 s) p.seq 1) s)

/-- The packet is refused from port 58. -/
def nakContrib (p : Packet) (cause : Nat) (s : State) : State :=
  portDone p (!resendCause cause) false (nakAs (ownEp 58 s) p cause s)

/-- The packet as it crosses to the compute die: the owner Bay and logical Flask stand in the opcode-argument bits (R14, R69). The
manual gives them no places there: Bay in [6:0], Flask in [13:7] (DESIGN CHOICE, log entry 124). -/
def crossing (k : Chunk) (p : Packet) : Packet := { p with args := k.bay + k.flask * 128 }

/-- A contribution enters the Crucibles of the Flask it names (R69, R72), which completes the chunk with the last one (R73). -/
def enterCrossing (q : Pour) (m : Nat) (x : Packet) (k : Chunk) (s : State) : State :=
  let c := paChunk x
  let (k, fl) := enterPacket q c m (paIndex x) x.last x.payload k s
  let k := if chunkComplete q c k s then { k with st := 2 } else k
  putChunk q.heat q.pourId c k (raiseFlags (x.args % 128) (x.args / 128) fl s)

/-- An accepted contribution (R72). -/
def acceptContrib (q : Pour) (m : Nat) (p : Packet) (k : Chunk) (s : State) : State :=
  let rows := match tableAt (dBase q.desc) s, fmtOfCode (dSrc q.desc) with
    | some t, some f => if dOp q.desc = opRows then (rowRecords t f p.payload).length else 0
    | _, _ => 0
  let s := enterCrossing q m (crossing k p) k s
  let s := modPour q.heat q.pourId (fun q => { q with
    state := if q.lead ∧ q.state = 1 then 2 else q.state,
    rowRecs := if rows = 0 then q.rowRecs else q.rowRecs.filter (fun e => e.1 ≠ m) ++ [(m, rowsSoFar q m + rows)] }) s
  noteRounding q.heat q.pourId (ackContrib p (digestPacket p s))

/-- A mismatch of R81: counted, logged, NAKed, and the Pour fails. -/
def mismatchContrib (p : Packet) (cause : Nat) (s : State) : State :=
  let s := logEvent 0x0601 sevW 0x60 0xFF (packFields [(4, paPour p), (4, p.src), (4, p.args), (4, paChunk p)])
    (incReg .peMismatchCnt 0 s)
  failPour p.heat (paPour p) stMismatch cause p.src (nakContrib p stMismatch s)

/-- Port 58 deals with a CONTRIB (R71): refused before this device holds the REGISTER, accepted from then on, before OPEN too (R71,
R89). -/
def contribPort (p : Packet) (s : State) : State :=
  match contribFate p s with
  | .notRegistered => nakContrib p stBadState (incReg .peNotregCnt 0 s)
  | .tombstoned st => nakContrib p st (incReg .peNotregCnt 0 s)
  | .committed => ackContrib p (incReg .peDupCnt 0 s)
  | .discarded => ackContrib p s
  | .denied => nakContrib p stDenied (logEvent 0x0603 sevW 0x60 0xFF (packFields [(4, paPour p), (4, p.src)])
      (incReg .peDeniedCnt 0 s))
  | .badTag => mismatchContrib p cTag s
  | .badGeometry => mismatchContrib p cGeometry s
  | .repeated => ackContrib p (incReg .peDupCnt 0 s)
  | .fits m =>
    match pourOf p.heat (paPour p) s with
    | none => s
    | some q =>
      match contribRoom q (paChunk p) p.payload s with
      | none => nakContrib p stNoResource (incReg .peNoresCnt 0 s)
      | some (k, s) => acceptContrib q m p k s

/-! ### Rounding (R73, R75, R138) -/

/-- A rounded chunk holds its result; a data move keeps its room until the result is delivered (R470). -/
def storeRounded (q : Pour) (c : Nat) (res : List Byte) (rows : List (Nat × List Nat)) (fl : AFlags) (s : State) : State :=
  let k := chunkOf q c
  let keep := isMove (dOp q.desc)
  let s := raiseFlags k.bay k.flask fl (modPour q.heat q.pourId (fun q => { q with flags := orFlags q.flags fl }) s)
  let k := { k with ingots := [], exts := [], raw := [], rows := [], slots := if keep then k.slots else 0,
                    spill := if keep then k.spill else 0 }
  let s := trimSpill (putChunk q.heat q.pourId c { k with st := 3, res := res, rowRes := rows, ovf := fl.ovf } s)
  if dStream q.desc ∧ q.openAt.isSome then
    match pourOf q.heat q.pourId s with | some q => releaseChunk q c s | none => s
  else s

/-- The pattern a chunk is rounded under is known: from OPEN on; before it only where this device's own links decide it, or where
the pattern changes nothing (R54, R87). -/
def patternKnown (q : Pour) : Bool :=
  q.openAt.isSome || q.p1 || isMove (dOp q.desc) || dOp q.desc = opMax || dOp q.desc = opMin || dOp q.desc = opBarrier

/-- A chunk's owner Flask can work on it: it has one, and its Bay is Fired (R23, R69). -/
def flaskReady (k : Chunk) (s : State) : Bool := decide (k.bay < 100) && reg .pwBayState k.bay s = 0

/-- A complete chunk that waits for a Bay asks again for one; one in a Banked Bay asks for its wake (R23). -/
def awaitFlask (q : Pour) (c : Nat) (s : State) : State :=
  let k := chunkOf q c
  if k.bay < 100 then wakeBay k.bay s
  else
    let (k, s) := placeChunk c k s
    putChunk q.heat q.pourId c k s

/-- A complete chunk is rounded, once its owner Flask is in a Fired Bay and the pattern is known. Each access that fails is logged
(R138). -/
def roundHere (heat pourId c : Nat) (s : State) : State :=
  match pourOf heat pourId s with
  | none => s
  | some q =>
    if (chunkOf q c).st ≠ 2 ∨ q.state > 3 ∨ !patternKnown q then s
    else if !flaskReady (chunkOf q c) s then awaitFlask q c s
    else match roundChunk q c (chunkOf q c) s with
      | .lost gs => failAccesses heat pourId gs s
      | .ok res rows fl s => tryRoundDone heat pourId (storeRounded q c res rows fl s)

/-- CHUNK_ROUNDED. -/
def execChunkRounded (heat pourId chunk : Nat) (s : State) : Out := .next (roundHere heat pourId chunk s)

/-! ### RESULT and CHUNK_MARK at port 58 (R74, R90, R124) -/

/-- The receive-linked weights that a Pour's RESULT packets are written for (R124): (segment, tensor, entry). -/
def shadowed (q : Pour) (s : State) : List (Nat × Nat × List Byte) :=
  if dOp q.desc ≠ opUpdate ∨ ¬ (pDests q s).contains (ownEp 58 s) then []
  else (linkedTensors 2 q.heat (dBase q.desc) s).filter fun e => fieldAt e.2.2 0 1 = dRes q.desc && fieldAt e.2.2 1 1 = 1

/-- Change a segment. -/
def modSeg (g : Nat) (f : Seg → Seg) (s : State) : State := { s with layer := { s.layer with segs := tabMod s.layer.segs g f } }

/-- RESULT bytes are kept in the shadow at their offset. -/
def keepShadow (q : Pour) (p : Packet) (e : Nat × Nat × List Byte) (s : State) : State :=
  let off := chunkLo q.desc (paChunk p) * widthOf (dRes q.desc) + 2560 * paIndex p
  modSeg e.1 (fun g => { g with shadow := tabPut g.shadow e.2.1 (tabGet [] g.shadow e.2.1 ++ [(off, p.payload)]) }) s

/-- Port 58 takes a RESULT: acknowledged, and written into the shadow of each matching weight. -/
def resultPort (p : Packet) (s : State) : State :=
  let s := match pourOf p.heat (paPour p) s with
    | none => s
    | some q => if p.args ≠ dTag32 q.desc then s else (shadowed q s).foldl (fun s e => keepShadow q p e s) s
  ackContrib p (digestPacket p s)

/-- The end mark makes a shadow the weight's HBM copy, or discards it. -/
def commitShadow (ok : Bool) (e : Nat × Nat × List Byte) (s : State) : State :=
  let bytes := match tabFind s.layer.segs e.1 with | some g => tabGet [] g.shadow e.2.1 | none => []
  let s := if ok then bytes.foldl (fun s b => spanWrite (fieldAt e.2.2 16 8 + b.1) b.2 s) s else s
  modSeg e.1 (fun g =>
    let more := if ok ∧ bytes ≠ [] ∧ ¬ g.fresh.contains e.2.1 then g.fresh ++ [e.2.1] else g.fresh
    { g with shadow := tabDel g.shadow e.2.1, fresh := more }) s

/-- Port 58 takes a CHUNK_MARK or an end mark. -/
def markPort (p : Packet) (s : State) : State :=
  let s := match bitAt p.args 17, pourOf p.heat (paPour p) s with
    | true, some q =>
      let st := p.args % 65536
      (shadowed q s).foldl (fun s e => commitShadow (decide (st = stDone) || decide (st = stDoneFenced)) e s) s
    | _, _ => s
  ackContrib p (digestPacket p s)

/-- Port 58 deals with a packet; another type than the Pour's is answered BAD_PARAM (R234). -/
def pourPort (p : Packet) (s : State) : State :=
  if p.typ = tyContrib then contribPort p s
  else if p.typ = tyResult then resultPort p s
  else if p.typ = tyChunkMark then markPort p s
  else nakContrib p stBadParam s

/-! ### Registration between home devices (R77, R87, R134) -/

/-- A home device answers the lead. -/
def sendRegAck (heat pourId : Nat) (accepted : Bool) (s : State) : State :=
  match pourOf heat pourId s with
  | none => s
  | some q =>
    if q.ackSent then s
    else emit (.ctl q.leadDev .regAck [ownDev s, heat, pourId, leNat (descTag q.desc), 1, b2n accepted, b2n q.p1] [])
      (modPour heat pourId (fun q => { q with ackSent := true }) s)

/-- A home device's tree is built: it answers. -/
def settleReg (heat pourId : Nat) (s : State) : State :=
  match pourOf heat pourId s with
  | none => s
  | some q =>
    let ready := match q.tree with | some t => treeReady t s | none => true
    if q.lead then tryOpen heat pourId s else if ready then sendRegAck heat pourId true s else s

/-- A home device remembers a refused Pour until its lead aborts it, to answer the ABORT (R77). -/
def noteRefused (lead : Nat) (desc : List Byte) (s : State) : State :=
  { s with pour := { s.pour with refused := s.pour.refused ++ [(dHeat desc, dPourId desc, lead)] } }

/-- A refusal of a Pour that this device does not take. -/
def refuseReg (lead : Nat) (desc : List Byte) (setOk accepted : Bool) (s : State) : State :=
  emit (.ctl lead .regAck [ownDev s, dHeat desc, dPourId desc, leNat (descTag desc), b2n setOk, b2n accepted,
    b2n (usesP1 desc s)] []) (noteRefused lead desc s)

/-- A home device receives REGISTER. A pair it still holds, or holds tombstoned, gets no answer: the manual gives none, and the lead
ends that Pour HOME_TIMEOUT (DESIGN CHOICE, log entry 124). -/
def takeRegister (lead : Nat) (desc : List Byte) (step ruleDig stateDig : Nat) (s : State) : State :=
  let q : Pour := { heat := dHeat desc, pourId := dPourId desc, desc := desc, lead := false, leadDev := lead, step := step,
                    p1 := usesP1 desc s, regAt := s.time.now }
  if (pourOf q.heat q.pourId s).isSome then s
  else if !setsMatch desc s then refuseReg lead desc false false s
  else if descTag desc ≠ dTag desc then refuseReg lead desc true true s
  else if poursLive s ≥ 65536 ∨ s.det.paused.contains q.heat then refuseReg lead desc true false s
  else match homeCheck desc ruleDig stateDig s with
    | some k => refuseReg lead desc true false
        (logEvent 0x0604 sevW 0x80 0xFF (packFields [(4, q.pourId), (1, k)]) (incReg .upRejectCnt 0 s))
    | none => match takeHome q s with
      | none => refuseReg lead desc true false s
      | some s => settleReg q.heat q.pourId s

/-- REGISTER. -/
def execRegisterPour (lead : Nat) (desc : List Byte) (step ruleDig stateDig : Nat) (s : State) : Out :=
  .next (takeRegister lead desc step ruleDig stateDig s)

/-- The lead receives REG_ACK; a disagreement or a rejection after the Pour failed is logged (R85). -/
def takeRegAck (home heat pourId tag : Nat) (setOk accepted p1 : Bool) (s : State) : State :=
  match pourOf heat pourId s with
  | none => s
  | some q =>
    if !q.lead || (q.state ≠ 0 && q.state ≠ 7) || q.endAt.isSome || !q.regWait.contains home then s
    else
      let s := modPour heat pourId (fun q => { q with regWait := q.regWait.filter (· ≠ home), p1 := q.p1 || p1 }) s
      if tag ≠ leNat (dTag q.desc) then failPour heat pourId stMismatch cTag (epOf home 58) s
      else if !setOk then failPour heat pourId stMismatch cSetDigest (epOf home 58) s
      else if !accepted then failPour heat pourId stNoResource cHomeRejected 0 s
      else tryOpen heat pourId s

/-- REG_ACK. -/
def execRegAck (home heat pourId tag : Nat) (setOk accepted p1 : Bool) (s : State) : Out :=
  .next (takeRegAck home heat pourId tag setOk accepted p1 s)

/-- REG_ACK_TIMEOUT: 1 ms after registration. -/
def execRegAckTimeout (heat pourId : Nat) (s : State) : Out :=
  .next (match pourOf heat pourId s with
    | none => s
    | some q =>
      if !q.lead || q.state ≠ 0 || q.regWait = [] then s
      else failPour heat pourId stNoResource cHomeTimeout 0 (advanceTo (q.regAt + 1000000) s))

/-- OPEN at a home device. -/
def execOpenPour (heat pourId : Nat) (p1 : Bool) (s : State) : Out :=
  .next (match pourOf heat pourId s with
    | none => s
    | some q => if q.lead || q.state ≠ 0 || q.openAt.isSome then s else openHere heat pourId p1 s)

/-! ### Rounding reports and commit (R75, R76) -/

/-- Flags from the bits of R57; a report has SPILLED above them (log entry 124). -/
def flagsOf (v : Nat) : AFlags := { ovf := bitAt v 0, nanOut := bitAt v 1, flushIn := bitAt v 2, flushOut := bitAt v 3 }

/-- The lead receives a home device's report: 0 all rounded, with its flags; 1 all delivered; another status a failure. Any owner
receives 2 from a block home: a row of its is written, with the flags it raised (R147). A device
that has rounded chunks had accepted contributions, so the Pour is FILLING by then at the latest (R77). -/
def takeReport (home heat pourId status ovf : Nat) (s : State) : State :=
  match pourOf heat pourId s with
  | none => s
  | some q =>
    if q.endAt.isSome then s
    else if status = 2 then
      settleOne heat pourId (modPour heat pourId (fun q => { q with
        rowWait := countRows home false q.rowWait, flags := orFlags q.flags (flagsOf ovf) }) s)
    else if status > 2 then failPour heat pourId status (ovf / 2 ^ 18) (ovf % 2 ^ 18) s
    else if !q.lead then s
    else if status = 0 then
      if !q.roundWait.contains home then s
      else tryCommit heat pourId (noteRounding heat pourId (modPour heat pourId (fun q => { q with
        state := if q.state = 1 ∧ ¬ dRepublish q.desc then 2 else q.state, spilled := q.spilled || bitAt ovf 4,
        roundWait := q.roundWait.filter (· ≠ home), flags := orFlags q.flags (flagsOf ovf) }) s))
    else
      settleOne heat pourId (modPour heat pourId (fun q => { q with
        delivWait := q.delivWait.filter (· ≠ home), flags := orFlags q.flags (flagsOf ovf) }) s)

/-- ROUND_DONE. -/
def execRoundDone (home heat pourId status ovf : Nat) (s : State) : Out := .next (takeReport home heat pourId status ovf s)

/-- COMMIT at a home device. -/
def execCommitPour (heat pourId : Nat) (s : State) : Out :=
  .next (match pourOf heat pourId s with
    | none => s
    | some q => if q.lead || q.committed || decide (q.state > 3) then s else settleOne heat pourId (commitHere heat pourId s))

/-- ROW_UPDATE: a block home applies one rounded row for an owner, and tells it of the row's end, or of a failed access (R147). -/
def execRowUpdate (peer heat pourId base rule rc step row : Nat) (delta : List Nat) (s : State) : Out :=
  .next (match tableAt base s with
    | none => s
    | some t =>
      if row ≥ t.rows then s
      else match rowFaults t row s with
        | g :: l =>
          let s := (g :: l).foldl (fun s g => logAccess g s) s
          emit (.ctl peer .roundDone [ownDev s, heat, pourId, stMemberFenced, cHomeLost * 2 ^ 18 + epOf (entryAt (gPage g) s).home 57] []) s
        | [] =>
          let j : RowJob := { heat := heat, pourId := pourId, base := base, rule := rule, rc := rc, step := step }
          let (fl, s) := applyRow j t row delta { s with upd := { s.upd with tables := s.upd.tables.map fun x =>
            if x.base = base then { x with lastPour := pourId } else x } }
          emit (.ctl peer .roundDone [ownDev s, heat, pourId, 2, flagBits fl] []) s)

/-! ### Fences and homes lost (R79, R84) -/

/-- A home device of a Pour is lost to its lead. -/
def lostHome (heat pourId d : Nat) (s : State) : State :=
  match pourOf heat pourId s with
  | none => s
  | some q => if (pHomes q s).contains d then failPour heat pourId stMemberFenced cHomeLost (epOf d 58) s else s

/-- One Pour meets a fence: `hit` tells the fenced endpoints, `dev` the device lost, if a whole device. The loss of a block home that
has rows of this owner to write follows R138 (R147). -/
def fenceOne (hit : Nat → Bool) (dev : Option Nat) (heat pourId : Nat) (s : State) : State :=
  match pourOf heat pourId s with
  | none => s
  | some q =>
    let s := match dev with
      | some d => if q.endAt.isNone ∧ q.rowWait.any (fun x => x.1 = d) then
          failPour heat pourId stMemberFenced cHomeLost (epOf d 57) s else s
      | none => s
    if q.endAt.isSome then s
    else if !q.lead then
      if dev = some q.leadDev then tombstone heat pourId 7 stMemberFenced cHomeLost s else s
    else
      fenceSets hit heat pourId (match dev with | some d => lostHome heat pourId d s | none => s)

/-- Answers from fenced endpoints are no longer awaited (R84, R245). -/
def strikeAwaiting (hit : Nat → Bool) (s : State) : State :=
  let l := s.net.streams.map fun o =>
    let un := o.unacked.map fun x => { x with awaiting := x.awaiting.filter fun e => !hit e }
    let wait := (o.waiting.map fun w => (w.1, w.2.1.filter (fun e => !hit e), w.2.2)).filter fun w => w.2.1 ≠ []
    { leaveUnacked (un.filter fun x => x.awaiting ≠ []) o with waiting := wait }
  { s with net := { s.net with streams := l } }

/-- Every Pour of this device meets a fence. -/
def fencePours (hit : Nat → Bool) (dev : Option Nat) (s : State) : State :=
  let s := strikeAwaiting hit s
  settlePours (s.pour.pours.foldl (fun s q => fenceOne hit dev q.heat q.pourId s) s)

/-- FENCE_QUERY. -/
def execFenceQuery (heat pourId member : Nat) (s : State) : Out :=
  .next (match pourOf heat pourId s with
    | none => s
    | some q => if q.lead then s else
      emit (.ctl q.leadDev .fenceReply [ownDev s, heat, pourId, member, b2n (holdsMember q member s)] []) s)

/-- The lead receives FENCE_REPLY; an incomplete contribution after the Pour failed is logged (R85). -/
def takeFenceReply (home heat pourId member : Nat) (complete : Bool) (s : State) : State :=
  match pourOf heat pourId s with
  | none => s
  | some q =>
    match q.queries.find? (fun x => x.1 = member) with
    | none => s
    | some x =>
      if !q.lead || q.endAt.isSome || !x.2.contains home then s
      else if !complete then failPour heat pourId stMemberFenced 0 ((pMembers q s).getD member 0) s
      else
        let left := x.2.filter (· ≠ home)
        let rest := q.queries.filter fun y => y.1 ≠ member
        let s := modPour heat pourId (fun q => { q with queries := if left = [] then rest else rest ++ [(member, left)] }) s
        if left = [] ∧ q.state ≠ 7 then markMember heat pourId member s else s

/-- FENCE_REPLY. -/
def execFenceReply (home heat pourId member complete : Nat) (s : State) : Out :=
  .next (takeFenceReply home heat pourId member (decide (complete ≠ 0)) s)

/-! ### Ends (R77, R79, R80, R83) -/

/-- ABORT: everything is discarded and answered; a device that refused the Pour has nothing to discard (R77). -/
def execAbortPour (heat pourId status : Nat) (s : State) : Out :=
  .next (match pourOf heat pourId s with
    | none => match s.pour.refused.find? (fun e => e.1 = heat && e.2.1 = pourId) with
      | none => s
      | some e => emit (.ctl e.2.2 .abortAck [ownDev s, heat, pourId, 0] [])
          { s with pour := { s.pour with refused := s.pour.refused.filter fun x => x ≠ e } }
    | some q =>
      if q.lead || q.endAt.isSome || q.state = 7 then s
      else emit (.ctl q.leadDev .abortAck [ownDev s, heat, pourId, roundedHere q] []) (trimSpill
        (modPour heat pourId (fun q => { q with state := 7, status := status, rounded := roundedHere q, chunks := [] }) s)))

/-- ABORT_ACK. -/
def execAbortAck (home heat pourId rounded : Nat) (s : State) : Out :=
  .next (match pourOf heat pourId s with
    | none => s
    | some q =>
      if !q.lead || q.state ≠ 7 || q.endAt.isSome || !q.abortWait.contains home then s
      else
        let left := q.abortWait.filter (· ≠ home)
        let s := modPour heat pourId (fun q => { q with abortWait := left, rounded := q.rounded + rounded }) s
        if left = [] then endPour heat pourId s else s)

/-- ABORT_ACK_TIMEOUT: 1 ms after ABORT. -/
def execAbortAckTimeout (heat pourId : Nat) (s : State) : Out :=
  .next (match pourOf heat pourId s with
    | none => s
    | some q => match q.abortAt with
      | none => s
      | some t => if !q.lead || q.state ≠ 7 || q.endAt.isSome || q.abortWait = [] then s
        else endPour heat pourId (advanceTo (t + 1000000) s))

/-- END at a home device: the pair is tombstoned with its status. -/
def execEndPour (heat pourId status cause : Nat) (committed : Bool) (s : State) : Out :=
  .next (match pourOf heat pourId s with
    | none => s
    | some q =>
      if q.lead || q.endAt.isSome then s
      else
        let s := modPour heat pourId (fun q => { q with committed := q.committed || committed }) s
        tombstone heat pourId (if status = stDone then 5 else if status = stDoneFenced then 6 else 7) status cause s)

/-- POUR_DEADLINE: deadline_ns after OPEN. -/
def execPourDeadline (heat pourId : Nat) (s : State) : Out :=
  .next (match pourOf heat pourId s with
    | none => s
    | some q => match q.openAt with
      | none => s
      | some t => if !q.lead || dDeadline q.desc = 0 || q.state = 0 || q.committed || q.endAt.isSome then s
        else missDeadline heat pourId (advanceTo (t + dDeadline q.desc) s))

/-- TOMBSTONE_EXPIRY: 1 s after the end. -/
def execTombstoneExpiry (heat pourId : Nat) (s : State) : Out :=
  .next (match pourOf heat pourId s with
    | none => s
    | some q => match q.endAt with
      | none => s
      | some t =>
        let s := advanceTo (t + 1000000000) s
        { s with pour := { s.pour with pours := s.pour.pours.filter fun x => !(x.heat = heat && x.pourId = pourId) } })

/-! ### Trees (R283, R284) -/

/-- TREE_SETUP: the entry is written when there is room, and answered. -/
def execTreeSetup (peer entry : Nat) (s : State) : Out :=
  .next (
    let e := treeOfNat entry
    let known := (tabFind s.route.trees (treeKey e.root e.tree)).isSome
    if known || treeRoom s then emit (.ctl peer .treeReply [ownDev s, e.tree, 1] []) (putTree e s)
    else emit (.ctl peer .treeReply [ownDev s, e.tree, 0] []) s)

/-- The Pours whose tree this is look again; on a failed build they fail (R283). -/
def treeSettled (tree : Nat) (ok : Bool) (s : State) : State :=
  (s.pour.pours.filter fun q => q.tree = some tree ∧ q.endAt.isNone ∧ q.state = 0).foldl (fun s q =>
    if ok then settleReg q.heat q.pourId s
    else if q.lead then failPour q.heat q.pourId stNoResource cHomeRejected 0 s
    else sendRegAck q.heat q.pourId false s) s

/-- The root receives a set-up reply. -/
def takeTreeReply (peer tree : Nat) (ok : Bool) (s : State) : State :=
  match s.route.builds.find? (fun b => b.tree = tree) with
  | none => s
  | some b =>
    if !b.awaiting.contains peer then s
    else if !ok then treeSettled tree false (dropTree tree s)
    else
      let left := b.awaiting.filter (· ≠ peer)
      let rest := s.route.builds.filter fun x => x.tree ≠ tree
      let s := { s with route := { s.route with builds := if left = [] then rest else rest ++ [{ b with awaiting := left }] } }
      if left = [] then treeSettled tree true s else s

/-- TREE_SETUP_REPLY. -/
def execTreeSetupReply (peer tree : Nat) (ok : Bool) (s : State) : Out := .next (takeTreeReply peer tree ok s)

/-- TREE_LINK_REPAIR: the root plans the tree again over its present tables and sends the entries with gen increased. The
tables say which links are ACTIVE; the message's own link and device are not looked at further. -/
def execTreeLinkRepair (_peer tree _link : Nat) (s : State) : Out :=
  .next (match s.route.treeSets.find? (fun e => e.1 = tree), tabFind s.route.trees (treeKey (ownDev s) tree) with
    | some (_, dests), some own =>
      let live := dests.filter fun e => !fencedEp e s
      match treePlan tree own.heat live s with
      | none => s
      | some l =>
        let l := l.map fun e => (e.1, { e.2 with gen := (own.gen + 1) % 2 ^ 16 })
        l.foldl (fun s e => if e.1 = ownDev s then putTree e.2 s else emit (.ctl e.1 .treeSetup [treeNat e.2] []) s) s
    | _, _ => s)

end Sys2Proof.Machine
end

