-- ==== Sys2Proof/Machine/Layer.lean ====
section
/-! DEFINITION. Segments, their placement and removal, and the commands of range 0x07xx (R93 to R102, R121, R128). -/
namespace Sys2Proof.Machine

/-! ### Tensor-table entries (R95) -/

def tnFmt (b : List Byte) : Option Fmt := fmtOfCode (fieldAt b 0 1)
def tnPlace (b : List Byte) : Nat := fieldAt b 1 1
def tnRows (b : List Byte) : Bool := fieldAt b 2 1 % 2 = 1
def tnD0 (b : List Byte) : Nat := fieldAt b 4 2
def tnD1 (b : List Byte) : Nat := fieldAt b 6 2
def tnD2 (b : List Byte) : Nat := fieldAt b 8 2
def tnGfa (b : List Byte) : Nat := fieldAt b 16 8
def tnState (b : List Byte) : Nat := fieldAt b 24 8

/-- Bytes of a tensor for `m` rows. -/
def tnBytes (b : List Byte) (m : Nat) : Nat := tensCount b m * widthOf (fieldAt b 0 1)

/-- Reserved bits of a tensor entry are zero (R8, R95). -/
def tensorResvOk (b : List Byte) : Bool := bitsOf (leNat b) 31 17 = 0 && bitsOf (leNat b) 127 82 = 0

/-- An entry keeps the rules of R95. -/
def tensorOk (b : List Byte) : Bool :=
  (tnFmt b).isSome && decide (tnPlace b ≤ 5) && tensorResvOk b
  && tensLink b ≠ 3 && (tnRows b || decide (1 ≤ tnD0 b)) && decide (1 ≤ tnD1 b) && decide (1 ≤ tnD2 b)
  && (tnPlace b = 1 || tnPlace b = 2 || tnPlace b = 4 || tnPlace b = 5 || tnGfa b = 0)
  && (tensLink b ≠ 0 || tnState b = 0)

/-! ### Layer descriptors (R99) -/

def ldKind (b : List Byte) : Nat := fieldAt b 0 1
def ldRowMask (b : List Byte) : Bool := bitAt (leNat b) 8
def ldBlkMask (b : List Byte) : Bool := bitAt (leNat b) 9
def ldSplit (b : List Byte) : Bool := bitAt (leNat b) 10
def ldRc (b : List Byte) : Nat := bitsOf (leNat b) 17 16
def ldAct (b : List Byte) : Nat := fieldAt b 3 1
def ldA (b : List Byte) : Nat := fieldAt b 4 2
def ldB (b : List Byte) : Nat := fieldAt b 6 2
def ldC (b : List Byte) : Nat := fieldAt b 8 2
def ldO1 (b : List Byte) : Nat := fieldAt b 10 2
def ldO2 (b : List Byte) : Nat := fieldAt b 12 2
def ldParam (b : List Byte) : Nat := fieldAt b 16 4
def ldMask (b : List Byte) : Nat := fieldAt b 24 8

/-- No tensor. -/
def noTensor : Nat := 0xFFFF

/-- Reserved bits of a descriptor are zero (R8, R99). -/
def ldResvOk (b : List Byte) : Bool :=
  let v := leNat b
  bitsOf v 15 11 = 0 && bitsOf v 23 18 = 0 && bitsOf v 127 112 = 0 && bitsOf v 191 160 = 0

/-- Reserved bits, and the fields a kind does not use (R99 to R101, R116). -/
def ldFieldsOk (b : List Byte) : Bool :=
  let k := ldKind b
  ldResvOk b && decide (1 ≤ k) && decide (k ≤ 12)
  && (ldRc b = 0 || (ldRc b = 1 && k = 12))
  && (if k = 3 then !(ldRowMask b && ldBlkMask b) && (ldRowMask b || ldBlkMask b) = decide (ldMask b ≠ 0)
      else !ldRowMask b && !ldBlkMask b && ldMask b = 0)
  && (k = 11 || !ldSplit b)
  && (if k = 4 ∨ k = 5 then decide (1 ≤ ldAct b) && decide (ldAct b ≤ 7) else ldAct b = 0)

/-- param0: finite; positive for ELU, a subnormal too; at least 2^−126, which is to say positive and normal, for LAYERNORM (R99,
R102). -/
def ldParamOk (b : List Byte) : Bool :=
  let k := ldKind b
  let x := ldParam b
  let finite := decide (bitsOf x 30 23 ≠ 255)
  let positive := !bitAt x 31 && decide (x ≠ 0)
  if (k = 4 ∨ k = 5) ∧ (ldAct b = 2 ∨ ldAct b = 3) then finite && (ldAct b = 2 || positive)
  else if k = 6 then finite && positive && decide (bitsOf x 30 23 ≠ 0)
  else if k = 7 then finite
  else x = 0

/-! ### Shapes and formats (R100) -/

/-- A shape: rows of the run (none) or a fixed first dimension, then the other two. -/
abbrev Shape := Option Nat × Nat × Nat

def shapeOf (b : List Byte) : Shape := (if tnRows b then none else some (tnD0 b), tnD1 b, tnD2 b)

/-- A vector of `n` elements. -/
def isVec (b : List Byte) (n : Nat) : Bool := !tnRows b && tensCount b 0 = n

def isFp (b : List Byte) : Bool := match tnFmt b with | some f => !f.isInt | none => false
def isF32 (b : List Byte) : Bool := tnFmt b = some .fp32
/-- A forward format of R35, and the pair of a forward format and its gradient. -/
def isFwd (b : List Byte) : Bool :=
  match tnFmt b with | some f => [Fmt.e4m3, .e5m2, .bf16, .fp16, .fp32].any (fun g => isPair f g) | none => false
def pairOk (fwd grad : List Byte) : Bool := match tnFmt fwd, tnFmt grad with | some f, some g => isPair f g | _, _ => false

/-- What a kind asks of its operands: the tensors it names, in the order a, b, c, o1, o2. -/
def kindOk (d : List Byte) (tn : Nat → Option (List Byte)) : Bool :=
  let k := ldKind d
  let none' := fun (t : Nat) => t = noTensor
  match tn (ldA d), tn (ldO1 d) with
  | some a, some o =>
    if k = 1 then match tn (ldB d) with
      | some w => tnPlace w = 1 && !tnRows w && tnRows a && tnD2 a = 1 && tnD2 w = 1 && tnD1 a = tnD0 w && tnFmt a = tnFmt w && isFwd a
          && isF32 o && shapeOf o = (none, tnD1 w, 1) && none' (ldO2 d)
          && (none' (ldC d) || (match tn (ldC d) with | some c => isF32 c && isVec c (tnD1 w) | none => false))
      | none => false
    else if k = 2 then match tn (ldB d) with
      | some w => tnPlace w = 1 && !tnRows w && tnD2 w = 1 && shapeOf a = (none, tnD1 w, 1) && pairOk w a && isF32 o
          && shapeOf o = (none, tnD0 w, 1) && none' (ldC d) && none' (ldO2 d)
      | none => false
    else if k = 3 then match tn (ldB d) with
      | some y => tnRows a && tnRows y && tnD2 a = 1 && tnD2 y = 1 && pairOk a y && isF32 o
          && shapeOf o = (some (tnD1 a), tnD1 y, 1) && none' (ldC d)
          && (none' (ldO2 d) || (match tn (ldO2 d) with | some c => isF32 c && isVec c (tnD1 y) | none => false))
      | none => false
    else if k = 4 then isFp a && isF32 o && shapeOf o = shapeOf a && none' (ldB d) && none' (ldC d) && none' (ldO2 d)
    else if k = 5 ∨ k = 10 then match tn (ldB d) with
      | some y => isFp a && isFp y && isF32 o && shapeOf a = shapeOf y && shapeOf o = shapeOf a && none' (ldC d) && none' (ldO2 d)
      | none => false
    else if k = 6 then match tn (ldB d), tn (ldO2 d) with
      | some g, some st => tnRows a && tnD2 a = 1 && isFp a && isF32 g && shapeOf g = (some 2, tnD1 a, 1) && isF32 o
          && shapeOf o = shapeOf a && isF32 st && shapeOf st = (none, tnD1 a + 1, 1) && none' (ldC d)
      | _, _ => false
    else if k = 7 then match tn (ldB d), tn (ldC d), tn (ldO2 d) with
      | some g, some st, some dg => tnRows a && tnD2 a = 1 && isFp a && isF32 g && shapeOf g = (some 2, tnD1 a, 1)
          && isF32 st && shapeOf st = (none, tnD1 a + 1, 1) && isF32 o && shapeOf o = shapeOf a
          && isF32 dg && shapeOf dg = (some 2, tnD1 a, 1)
      | _, _, _ => false
    else if k = 8 then tnRows a && isFwd a && isF32 o && shapeOf o = (none, tnD1 a * (tnD1 a - 1) / 2, 1)
      && none' (ldB d) && none' (ldC d) && none' (ldO2 d)
    else if k = 9 then match tn (ldB d) with
      | some e => tnRows e && pairOk e a && shapeOf a = (none, tnD1 e * (tnD1 e - 1) / 2, 1) && isF32 o
          && shapeOf o = shapeOf e && none' (ldC d) && none' (ldO2 d)
      | none => false
    else if k = 11 then
      if ldSplit d then match tn (ldO2 d) with
        | some p => tnRows a && tnRows o && tnRows p && tnD2 a = 1 && tnD2 o = 1 && tnD2 p = 1 && tnD1 a = tnD1 o + tnD1 p
            && tnFmt a = tnFmt o && tnFmt a = tnFmt p && none' (ldB d) && none' (ldC d)
        | none => false
      else match tn (ldB d) with
        | some p => tnRows a && tnRows o && tnRows p && tnD2 a = 1 && tnD2 o = 1 && tnD2 p = 1 && tnD1 o = tnD1 a + tnD1 p
            && tnFmt a = tnFmt o && tnFmt a = tnFmt p && none' (ldC d) && none' (ldO2 d)
        | none => false
    else k = 12 && shapeOf o = shapeOf a && none' (ldB d) && none' (ldC d) && none' (ldO2 d)
  | _, _ => false

/-- Operands and results a descriptor names. -/
def ldInputs (d : List Byte) : List Nat := [ldA d, ldB d, ldC d].filter (· ≠ noTensor)
def ldOutputs (d : List Byte) : List Nat := [ldO1 d, ldO2 d].filter (· ≠ noTensor)

/-- Size limits of R94 on a descriptor. -/
def ldSizeOk (d : List Byte) (tn : Nat → Option (List Byte)) : Bool :=
  let k := ldKind d
  match tn (ldA d), tn (ldB d) with
  | some a, some b =>
    if k = 1 ∨ k = 2 then decide (tnD0 b ≤ 8192) && decide (tnD1 b ≤ 8192)
    else if k = 3 then decide (tnD1 a ≤ 8192) && decide (tnD1 b ≤ 8192)
    else if k = 6 ∨ k = 7 then decide (tnD1 a ≤ 8192)
    else if k = 9 then decide (2 ≤ tnD1 b) && decide (tnD1 b ≤ 256) && decide (tnD2 b ≤ 1024)
    else true
  | some a, none => if k = 8 then decide (2 ≤ tnD1 a) && decide (tnD1 a ≤ 256) && decide (tnD2 a ≤ 1024) else true
  | _, _ => true

/-- Every operand is a run input, a resident weight, an HBM tensor or written earlier (R102), and no result is a resident
weight or a run input. -/
def flowOk (g : Seg) : List Nat → List (List Byte) → Bool
  | _, [] => true
  | done', d :: r =>
    let place := fun t => tnPlace (tabGet [] g.tens t)
    (ldInputs d).all (fun t => place t = 4 || place t = 1 || place t = 2 || done'.contains t)
    && (ldOutputs d).all (fun t => place t ≠ 1 && place t ≠ 4)
    && flowOk g (ldOutputs d ++ done') r

/-- A segment's tensors and descriptors in index order. -/
def segTens (g : Seg) : List (List Byte) := tabRange [] g.tens 0 g.nTens
def segDescs (g : Seg) : List (List Byte) := tabRange [] g.descs 0 g.nDesc
def segTensor (g : Seg) (i : Nat) : Option (List Byte) := if i < g.nTens then tabFind g.tens i else none

/-- Resident weight bytes; a weight with ROWS has its rows at max_rows. -/
def weightBytes (g : Seg) : Nat := sumNat ((segTens g).map fun t => if tnPlace t = 1 then tnBytes t g.maxRows else 0)

/-- The check of sealing: a status, or none (R102). A size limit is one of a tensor or of a descriptor; the total of the weights is
checked at placement alone. -/
def sealCheck (g : Seg) : Option Nat :=
  let ds := segDescs g
  if g.tens.length < g.nTens ∨ g.descs.length < g.nDesc then some stBadParam
  else if !((segTens g).all tensorOk) || !(ds.all fun d => ldFieldsOk d && ldParamOk d && kindOk d (segTensor g))
      || !flowOk g [] ds then some stBadParam
  else if (segTens g).any (fun t => tnPlace t = 1 && decide (tnBytes t 1 > 67108864)) || ds.any (fun d => !ldSizeOk d (segTensor g)) then some stNoResource
  else none

/-! ### Segments -/

/-- A segment by index. -/
def segOf (i : Nat) (s : State) : Option Seg := tabFind s.layer.segs i

/-- Store a segment. -/
def putSeg (i : Nat) (g : Seg) (s : State) : State := { s with layer := { s.layer with segs := tabPut s.layer.segs i g } }

/-- Change a Bay's record. -/
def modBay (b : Nat) (f : BayPart → BayPart) (s : State) : State :=
  { s with layer := { s.layer with bays := tabSet {} s.layer.bays b (f (tabGet {} s.layer.bays b)) } }

/-- The Bays of a segment, and those on their way to it, go back to the pour Shop at once: no descriptor runs on them. -/
def returnBays (i : Nat) (s : State) : State :=
  { s with layer := { s.layer with bays := s.layer.bays.filter fun e =>
      !(e.2.seg = some i || (match e.2.transfer with | some (_, x, _) => x = i | none => false)) } }

/-- Pages of a segment go back to the memory Shop. -/
def freeSegPages (i : Nat) (s : State) : State :=
  (s.mem.frames.filter fun e => e.2.use = .segment i).foldl (fun s e => releaseFrame e.1 s) s

/-- LAYER_SEG_BEGIN. -/
def execLayerSegBegin (m : CmdMeta) (heat seg descs tensors : Nat) (s : State) : Out :=
  command m 0x0700 (fun c s =>
    if seg > 15 ∨ descs = 0 ∨ tensors = 0 then refuse c stBadParam s
    else if descs > 1024 ∨ tensors > 1024 then refuse c stNoResource s
    else match segOf seg s with
      | some g => if g.state = .defining then
          done c (putSeg seg { state := .defining, heat := heat, nDesc := descs, nTens := tensors } s)
        else refuse c stBadState s
      | none => done c (putSeg seg { state := .defining, heat := heat, nDesc := descs, nTens := tensors } s)) s

/-- Write 32-byte entries at consecutive indices. -/
def putEntries (t : Tab (List Byte)) (first : Nat) (entries : List Nat) : Tab (List Byte) :=
  (List.range entries.length).foldl (fun t i => tabPut t (first + i) (leBytes 32 (entries.getD i 0))) t

/-- The checks shared by the two writes; an entry with a reserved bit set is refused (R8). -/
def writeEntries (c : CmdRef) (seg first : Nat) (entries : List Nat) (resvOk : List Byte → Bool) (limit : Seg → Nat)
    (k : Seg → Seg) (s : State) : State :=
  if entries = [] ∨ entries.length > 60 then refuse c stBadLength s
  else if seg > 15 ∨ !(entries.all fun e => resvOk (leBytes 32 e)) then refuse c stBadParam s
  else match segOf seg s with
    | none => refuse c stBadState s
    | some g =>
      if g.state ≠ .defining then refuse c stBadState s
      else if first + entries.length > limit g then refuse c stBadParam s
      else done c (putSeg seg (k g) s)

/-- LAYER_TENSOR_WRITE. -/
def execLayerTensorWrite (m : CmdMeta) (seg first : Nat) (entries : List Nat) (s : State) : Out :=
  command m 0x0701 (fun c s =>
    writeEntries c seg first entries tensorResvOk (·.nTens) (fun g => { g with tens := putEntries g.tens first entries }) s) s

/-- LAYER_DESC_WRITE. -/
def execLayerDescWrite (m : CmdMeta) (seg first : Nat) (entries : List Nat) (s : State) : Out :=
  command m 0x0702 (fun c s =>
    writeEntries c seg first entries ldResvOk (·.nDesc) (fun g => { g with descs := putEntries g.descs first entries }) s) s

/-- LAYER_SEG_SEAL: checks, seals and answers the digest. -/
def execLayerSegSeal (m : CmdMeta) (seg : Nat) (s : State) : Out :=
  command m 0x0703 (fun c s =>
    if seg > 15 then refuse c stBadParam s
    else match segOf seg s with
      | none => refuse c stBadState s
      | some g =>
        if g.state ≠ .defining then refuse c stBadState s
        else match sealCheck g with
          | some st => refuse c st s
          | none =>
            let dg := shake256 64 ((segTens g).flatMap id ++ (segDescs g).flatMap id)
            answer c stDone dg (putSeg seg { g with state := .closed, digest := dg } s)) s

/-! ### Placement (R20, R21, R96, R97) -/

/-- Saved tensors in the order of the descriptors that write them. -/
def savedOrder (g : Seg) : List Nat :=
  dedupNat ((segDescs g).flatMap fun d => (ldOutputs d).filter fun t => tnPlace (tabGet [] g.tens t) = 3)

/-- The longest suffix of at most four saved tensors that fits the budget. -/
def savedSuffix (g : Seg) (maxRows budget : Nat) : List Nat → List Nat
  | [] => []
  | t :: r =>
    if (t :: r).length ≤ 4 ∧ sumNat ((t :: r).map fun x => tnBytes (tabGet [] g.tens x) maxRows) ≤ budget then t :: r
    else savedSuffix g maxRows budget r

/-- Bytes of Bay SRAM for saved activations. -/
def savedBudget (bays : Nat) : Nat := min 402653184 (4194304 * bays)

/-- Pages a placement takes: saved tensors in HBM, what of the working tensors does not fit in 1.375 MiB per Bay, and one
shadow of each receive-linked weight. -/
def segPages (g : Seg) (sram maxRows bays : Nat) : Nat :=
  let pg := fun n => ceilDiv n pageBytes
  let saved := sumNat ((savedOrder g).map fun t => if sram.testBit t then 0 else pg (tnBytes (tabGet [] g.tens t) maxRows))
  let work := sumNat ((segTens g).map fun t => if tnPlace t = 0 then tnBytes t maxRows else 0)
  let shadows := sumNat ((segTens g).map fun t => if tnPlace t = 1 ∧ tensLink t = 2 then pg (tnBytes t maxRows) else 0)
  saved + pg (work - 1441792 * bays) + shadows

/-- Take `n` frames for a segment: the frames and the state; none when they run out. -/
def takeSegPages (i heat : Nat) : Nat → List Nat → State → Option (List Nat × State)
  | 0, l, s => some (l, s)
  | n + 1, l, s => match freeSoft s with
    | none => none
    | some f => takeSegPages i heat n (l ++ [f]) (putFrame f { use := .segment i, owner := heat, rw := true } s)

/-- The pages [lo, hi) of a segment's store that back a tensor: saved tensors held in HBM come first, in the order of R97; the
pages after them back the working tensors together (log entry 125). -/
def tensPages (g : Seg) (t : Nat) : Nat × Nat :=
  let pg := fun x => if g.sram.testBit x then 0 else ceilDiv (tnBytes (tabGet [] g.tens x) g.maxRows) pageBytes
  let order := savedOrder g
  let at' := sumNat ((order.takeWhile (· ≠ t)).map pg)
  if order.contains t then (at', at' + pg t) else (sumNat (order.map pg), g.pages.length)

/-- A page that backs a tensor has lost its contents (R123). -/
def backLost (g : Seg) (t : Nat) : Bool :=
  let (lo, hi) := tensPages g t
  ((g.pages.take hi).drop lo).any fun f => g.lost.contains f

/-- A placement fails: its Bays go back and the segment stays sealed (R96). -/
def failPlace (i status : Nat) (s : State) : State :=
  match segOf i s with
  | none => s
  | some g => finishOpt g.placeCmd status []
      (putSeg i { g with state := .closed, bays := [], want := 0, placeCmd := none, placeErr := status } (freeSegPages i (returnBays i s)))

/-- A placement starts: Bays are asked for, when the weights fit them. -/
def startPlace (seg : Nat) (g : Seg) (c : Option CmdRef) (bays maxRows : Nat) (s : State) : State :=
  let g := { g with state := .placing, want := bays, maxRows := maxRows, placeCmd := c, placeAt := s.time.now, placeErr := 0 }
  let s := putSeg seg g s
  if weightBytes g > 4194304 * bays then failPlace seg stNoResource s
  else ((pourBays s).take bays).foldl (fun s b =>
    modBay b (fun y => { y with transfer := some (true, seg, s.time.now) }) s) s

/-- LAYER_SEG_PLACE: the lowest-numbered Bays of the pour Shop are asked for (log entry 30). -/
def execLayerSegPlace (m : CmdMeta) (seg bays maxRows : Nat) (s : State) : Out :=
  command m 0x0704 (fun c s =>
    if seg > 15 ∨ bays = 0 ∨ bays > 100 ∨ maxRows = 0 ∨ maxRows > 16777216 then refuse c stBadParam s
    else match segOf seg s with
      | none => refuse c stBadState s
      | some g =>
        if g.state ≠ .closed then refuse c stBadState s
        else accept c (startPlace seg g (some c) bays maxRows) s) s

/-- Chunks whose owner Flask lies in a Bay have all left it (R20 step 2). -/
def bayClear (b : Nat) (s : State) : Bool :=
  !(s.pour.pours.any fun p => p.chunks.any fun k => k.2.bay = b && decide (1 ≤ k.2.st) && decide (k.2.st ≤ 3))

/-- A segment that is being removed has given back its last Bay (R98). -/
def settleRemove (i : Nat) (s : State) : State :=
  match segOf i s with
  | none => s
  | some g =>
    if g.state ≠ .removing ∨ s.layer.bays.any (fun e => e.2.seg = some i) then s
    else finishOpt g.placeCmd stDone [] { s with layer := { s.layer with segs := tabDel s.layer.segs i } }

/-- BAY_OWNERSHIP_TRANSFER: the owner field is written once the Bay is clear. -/
def execBayOwnershipTransfer (bay : Nat) (s : State) : Out :=
  if bay ≥ 100 then .next s
  else decided s <| .next (
    let y := tabGet {} s.layer.bays bay
    match y.transfer with
    | none => s
    | some (true, i, _) =>
      if !bayClear bay s then s
      else
        let s := modBay bay (fun _ => { seg := some i, transfer := none }) s
        wakeBay bay (modSeg i (fun g => { g with bays := g.bays ++ [bay] }) s)
    | some (false, i, _) =>
      let s := modBay bay (fun _ => {}) s
      settleRemove i (modSeg i (fun g => { g with bays := g.bays.filter (· ≠ bay) }) s))

/-- 10 ms after the placement, a Bay is still missing (R21). -/
def missBays (seg : Nat) (s : State) : State :=
  match segOf seg s with
  | none => s
  | some g => if g.state ≠ .placing ∨ g.bays.length ≥ g.want then s
    else failPlace seg stNoResource (advanceTo (g.placeAt + 10000000) s)

/-- Elements of a tensor read at a GFA. -/
def readElems (b : List Byte) (gfa m : Nat) (s : State) : List Nat :=
  match tnFmt b with | some f => elemsOf f (spanRead gfa (tnBytes b m) s) | none => []

/-- Why a placement fails on its tensors (R96): a gfa in a page of another Heat; a weight that cannot be read. A page that is FREE,
or a gfa that names none, belongs to no other Heat: such a weight cannot return correct data, and any other tensor there is no
matter of the placement (DESIGN CHOICE, log entry 125). -/
def segAccess (g : Seg) (s : State) : Option Nat :=
  let l := (segTens g).filter fun t => [1, 2, 4, 5].contains (tnPlace t)
  let check := fun t => spanCheck g.heat (tnGfa t) (tnBytes t g.maxRows) s
  if l.any (fun t => (piecesOf (tnGfa t) (tnBytes t g.maxRows)).any fun e => engineCheck g.heat e.1 s = some .denied) then
    some stDenied
  else if l.any (fun t => tnPlace t = 1 && (check t).isSome) then some stDataLost else none

/-- Load every resident weight. -/
def loadWeights (g : Seg) (s : State) : Tab (List Nat) :=
  g.tens.foldl (fun w t => if tnPlace t.2 = 1 then tabPut w t.1 (readElems t.2 (tnGfa t.2) g.maxRows s) else w) []

/-- The placement reply: the Bay bitmap and one bit per saved tensor in the order of R97. The manual does not say which value means
Flask SRAM; the model sets the bit for it (DESIGN CHOICE, log entry 125). -/
def placeReply (g : Seg) : List Byte :=
  let order := savedOrder g
  leBytes 13 (g.bays.foldl withBit 0)
  ++ leBytes (ceilDiv order.length 8) ((List.range order.length).foldl (fun v i =>
      if g.sram.testBit (order.getD i 0) then withBit v i else v) 0)

/-- The context of a Heat notes a placement (R336, R338). -/
def notePlaced (g : Seg) (s : State) : State :=
  modCtx g.heat (fun x => { x with placed := true })
    (leaf .prog g.heat 0x02 (g.digest ++ leBytes 1 g.bays.length ++ leBytes 4 g.maxRows) s)

/-- A segment whose Bays and tensors are ready takes the HBM pages it needs and is placed (R97). -/
def settlePlace (i : Nat) (g : Seg) (sram : Nat) (s : State) : State :=
  (takeSegPages i g.heat (segPages g sram g.maxRows g.want) [] s).elim (failPlace i stNoResource s) fun r =>
    let s := r.2
    let g := { g with state := .placed, sram := sram, weights := loadWeights g s, placeCmd := none, fresh := [], pages := r.1,
                      lost := [], work := [], dwMask := [] }
    finishOpt (match segOf i s with | some o => o.placeCmd | none => none) stDone (placeReply g) (notePlaced g (putSeg i g s))

/-- SEGMENT_PLACED: with its Bays in hand, the segment's weights are loaded and its pages taken. -/
def placeSegment (i : Nat) (s : State) : State :=
  match segOf i s with
  | none => s
  | some g =>
    if g.state ≠ .placing ∨ g.bays.length < g.want then s
    else match segAccess g s with
      | some st => failPlace i st s
      | none => settlePlace i g ((savedSuffix g g.maxRows (savedBudget g.want) (savedOrder g)).foldl withBit 0) s

/-- A segment begins to be removed: its pages and contents go, and its Bays are handed back (R98). -/
def beginRemove (seg : Nat) (g : Seg) (c : CmdRef) (s : State) : State :=
  let s := putSeg seg { g with state := .removing, placeCmd := some c, saved := [], savedTag := none, weights := [],
                               shadow := [], ready := [], work := [], dwMask := [], pages := [], lost := [] }
    (freeSegPages seg s)
  settleRemove seg (g.bays.foldl (fun s b =>
    modBay b (fun y => { y with transfer := some (false, seg, s.time.now) }) s) s)

/-- LAYER_SEG_REMOVE (R98). -/
def execLayerSegRemove (m : CmdMeta) (seg : Nat) (s : State) : Out :=
  command m 0x0705 (fun c s =>
    if seg > 15 then refuse c stBadParam s
    else match segOf seg s with
    | none => refuse c stBadState s
    | some g =>
      if g.state = .placing ∨ g.state = .removing ∨ g.running.isSome ∨ g.queue ≠ [] then refuse c stBadState s
      else accept c (beginRemove seg g c) s) s

/-! ### Runs (R121) -/

/-- A pair of a run may name this tensor: a run input or output; in pass 1 no input that the pass reads (R97). -/
def pairOkRun (g : Seg) (pass first last : Nat) (t : Nat) : Bool :=
  let b := tabGet [] g.tens t
  let reads := ((List.range (last + 1)).filter fun i => decide (first ≤ i)).any fun i => (ldInputs (tabGet [] g.descs i)).contains t
  decide (t < g.nTens) && (tnPlace b = 5 || (tnPlace b = 4 && !(pass = 1 && reads)))

/-- LAYER_RUN's parameters with deadline_ns zeroed (R336, R471). -/
def runBytes (heat seg pass runTag fwdTag rows first last : Nat) (pairs : List (Nat × Nat)) : List Byte :=
  packFields [(4, heat), (1, seg), (1, pass), (4, runTag), (4, fwdTag), (4, rows), (2, first), (2, last), (4, 0)]
  ++ pairs.flatMap fun p => packFields [(2, p.1), (8, p.2)]

/-- A run joins its segment's queue: its leaf, and its Bays are woken (R23, R121, R336). -/
def queueRun (seg : Nat) (r : Run) (bays : List Nat) (s : State) : State :=
  let s := stepLeaf r.heat 0x03 r.step (runBytes r.heat seg r.pass r.tag r.fwd r.rows r.first r.last r.pairs) s
  bays.foldl (fun s b => wakeBay b s) (modSeg seg (fun g => { g with queue := g.queue ++ [r] }) s)

/-- LAYER_RUN. A Heat that is not the segment's is answered BAD_PARAM, for which the manual names no status (DESIGN CHOICE, log entry
125); so are pairs that name other tensors, and a GFA with a reserved bit set (R8). -/
def execLayerRun (m : CmdMeta) (heat seg pass runTag fwdTag rows firstDesc lastDesc deadline : Nat) (pairs : List (Nat × Nat))
    (s : State) : Out :=
  command m 0x0706 (fun c s =>
    if seg > 15 ∨ pass > 2 ∨ pairs.length > 8 then refuse c stBadParam s
    else match segOf seg s with
      | none => refuse c stBadState s
      | some g =>
        if g.state ≠ .placed then refuse c stBadState s
        else if heat ≠ g.heat ∨ rows = 0 ∨ rows > g.maxRows ∨ firstDesc > lastDesc ∨ lastDesc ≥ g.nDesc
            ∨ pairs.any (fun p => !pairOkRun g pass firstDesc lastDesc p.1 || gResv p.2 ≠ 0) then refuse c stBadParam s
        else if s.det.paused.contains heat then refuse c stBadState s
        else if g.queue.length + (if g.running.isSome then 1 else 0) ≥ 4 then refuse c stNoResource s
        else
          let r : Run := { cmd := c, heat := heat, pass := pass, tag := runTag, fwd := fwdTag, rows := rows, first := firstDesc,
                           last := lastDesc, deadline := deadline, pairs := pairs, step := tabGet 0 s.det.steps heat }
          accept c (queueRun seg r g.bays) s) s

end Sys2Proof.Machine
end

