-- ==== Sys2Proof/Machine/LayerRun.lean ====
section
/-! DEFINITION. Runs: reading and writing tensors, the layer kinds (R103 to R117), starting and ending a run (R118 to R125)
and the other commands of range 0x07xx. -/
namespace Sys2Proof.Machine

/-! ### Tensors during a run (R95, R97, R118) -/

/-- The GFA of a tensor in a run: the run's own, the one pass 0 used, or the entry's. -/
def tensGfa (g : Seg) (r : Run) (t : Nat) : Nat :=
  match r.pairs.find? (fun p => p.1 = t) with
  | some p => p.2
  | none =>
    let own := tnGfa (tabGet [] g.tens t)
    if r.pass = 1 then tabGet own g.savedGfa t else own

/-- What reading a tensor gives: its elements, or the failing access. -/
inductive TRead where
  | ok (xs : List Nat)
  | err (e : AccErr) (gfa : Nat)
  deriving DecidableEq, Repr

/-- `n` open elements of a format: what a working or saved tensor holds that no descriptor of the run has written (log entry
29). -/
def openElems (f : Fmt) (n base t : Nat) : List Nat :=
  (List.range n).map fun i => Config.freePart base (t * 2 ^ 32 + i) % 2 ^ f.width

/-- Elements of a list, open ones past its end. -/
def fillOpen (f : Fmt) (n base t : Nat) (xs : List Nat) : List Nat :=
  xs.take n ++ openElems f (n - xs.length) base t

/-- Read a tensor. A working tensor holds what a run wrote last, a saved one what this run or the held pass 0 wrote; both fail where
a page that backs them is lost (R95, R118, R123). -/
def readTensor (g : Seg) (rs : RunState) (t : Nat) (s : State) : TRead :=
  let b := tabGet [] g.tens t
  let n := tensCount b rs.run.rows
  let place := tnPlace b
  match tnFmt b with
  | none => .ok []
  | some f =>
    if place = 1 then .ok ((tabGet [] g.weights t).take n)
    else if place = 2 ∨ place = 4 ∨ place = 5 then
      let a := tensGfa g rs.run t
      match spanCheck g.heat a (tnBytes b rs.run.rows) s with
      | some (e, x) => .err e x
      | none => .ok (readElems b a rs.run.rows s)
    else if backLost g t then .err (.lost false) 0
    else if place = 0 then .ok (fillOpen f n s.freeCtr t (tabGet [] g.work t))
    else match tabFind rs.work t with
      | some xs => .ok (fillOpen f n s.freeCtr t xs)
      | none =>
        if rs.run.pass = 1 then .ok (fillOpen f n s.freeCtr t (tabGet [] g.saved t))
        else .ok (fillOpen f n s.freeCtr t [])

/-! ### The layer kinds -/

/-- Element (i, j) of a row-major matrix with `c` columns. -/
def at2 {α : Type} (xs : List α) (c i j : Nat) (d : α) : α := xs.getD (i * c + j) d

/-- Decoded operands with their flush flags. -/
def decodeAll (f : Fmt) (xs : List Nat) : List Val × AFlags :=
  (xs.map fun x => (decodeVal f x).1, xs.foldl (fun a x => orFlags a (decodeVal f x).2) noFlags)

/-- A matrix of results, row by row. -/
def matrix {α : Type} (r c : Nat) (f : Nat → Nat → α) : List α := (List.range r).flatMap fun i => (List.range c).map fun j => f i j

/-- Row and column slices of a decoded matrix. -/
def rowOf (xs : List Val) (c i : Nat) : List Val := (xs.drop (i * c)).take c
def colOf (xs : List Val) (r c j : Nat) : List Val := (List.range r).map fun i => at2 xs c i j (.zero false)

/-- DENSE (R103). -/
def denseOp (m k n : Nat) (x w : List Val) (bias : Option (List Nat)) : List FV :=
  matrix m n fun i j =>
    let t := dotFixed 512 (rowOf x k i) (colOf w k n j)
    match bias with | some b => vAdd t (fk (b.getD j 0)) | none => t

/-- DENSE_BWD_DATA (R110). -/
def denseBackData (m k n : Nat) (dy w : List Val) : List FV :=
  matrix m k fun i j => dotFixed 512 (rowOf dy n i) (rowOf w n j)

/-- DENSE_BWD_WEIGHT (R110): dW, and db as the sum over the rows with the same panels. -/
def denseBackWeight (m k n : Nat) (x dy : List Val) : List FV :=
  matrix k n fun i j => dotFixed panelW (colOf x m k i) (colOf dy m n j)
def denseBackBias (m n : Nat) (dy : List Val) : List FV :=
  (List.range n).map fun j => dotFixed panelW (colOf dy m n j) (List.replicate m (.fin false 1 0))

/-- The column of a pair of features (R104). -/
def pairCol (f i j : Nat) : Nat := let a := min i j; let b := max i j; a * f - a * (a + 1) / 2 + (b - a - 1)

/-- INTERACT (R104). -/
def interactOp (m f d : Nat) (e : List Val) : List FV :=
  (List.range m).flatMap fun r => (List.range f).flatMap fun i =>
    ((List.range f).filter fun j => decide (i < j)).map fun j => dotFixed 512 (rowOf e d (r * f + i)) (rowOf e d (r * f + j))

/-- INTERACT_BWD (R115). -/
def interactBack (m f d : Nat) (dy e : List Val) : List FV :=
  let p := f * (f - 1) / 2
  (List.range m).flatMap fun r => matrix f d fun i q =>
    ((List.range f).filter fun j => j ≠ i).foldl (fun acc j =>
      fma32 (at2 dy p r (pairCol f i j) (.zero false)) (at2 e d (r * f + j) q (.zero false)) acc) (fk 0)

/-- Elements (i, j) of dW that a mask clears (R116). -/
def maskedAt (d : List Byte) (mask : List Byte) (n i j : Nat) : Bool :=
  if ldRowMask d then !bitmapBit mask i
  else if ldBlkMask d then !bitmapBit mask ((i / 64) * ceilDiv n 64 + j / 64)
  else false

/-- Bytes of a descriptor's mask. -/
def maskLen (d : List Byte) (k n : Nat) : Nat :=
  ceilDiv (if ldRowMask d then k else ceilDiv k 64 * ceilDiv n 64) 8

/-- What a descriptor delivers: tensors with their elements, and flags. -/
abbrev Delivered := List (Nat × List Nat) × AFlags

/-- One result tensor from values with flags. -/
def deliver (t : Nat) (l : List FV) : List (Nat × List Nat) × AFlags :=
  ([(t, l.map (·.1))], l.foldl (fun a x => orFlags a x.2) noFlags)

/-- Two sets of results. -/
def both (a b : Delivered) : Delivered := (a.1 ++ b.1, orFlags a.2 b.2)

/-- Execute one descriptor from its operands' elements: `ea`, `eb`, `ec`, and `old`, the present contents of t_o1. Of the device it
reads only the segment, the Heat and the step (R328). -/
def runKind (g : Seg) (rs : RunState) (i : Nat) (ea eb ec old : List Nat) : Delivered :=
  let d := tabGet [] g.descs i
  let ta := tabGet [] g.tens (ldA d)
  let tb := tabGet [] g.tens (ldB d)
  let m := rs.run.rows
  let k := ldKind d
  let fa := (tnFmt ta).getD .fp32
  let fb := (tnFmt tb).getD .fp32
  let (va, fla) := decodeAll fa ea
  let (vb, flb) := decodeAll fb eb
  let fl := orFlags fla flb
  let note := fun (x : Delivered) => (x.1, orFlags x.2 fl)
  let a32 := ea.map (toF32 fa)
  let b32 := eb.map (toF32 fb)
  let c1 := tnD1 ta
  if k = 1 then note (deliver (ldO1 d) (denseOp m c1 (tnD1 tb) va vb (if ldC d = noTensor then none else some ec)))
  else if k = 2 then note (deliver (ldO1 d) (denseBackData m (tnD0 tb) c1 va vb))
  else if k = 3 then
    let n := tnD1 tb
    let mask := tabGet [] rs.masks i
    let dw := denseBackWeight m c1 n va vb
    let (res, fw) := deliver (ldO1 d) (matrix c1 n fun x y =>
      if maskedAt d mask n x y then fk (at2 old n x y 0) else at2 dw n x y (fk 0))
    note (if ldO2 d = noTensor then (res, fw) else both (res, fw) (deliver (ldO2 d) (denseBackBias m n vb)))
  else if k = 4 then deliver (ldO1 d) (a32.map (actForward (ldAct d) (ldParam d)))
  else if k = 5 then
    deliver (ldO1 d) ((a32.zip b32).map fun x => vMul x.1 (actDeriv (ldAct d) (ldParam d) x.2))
  else if k = 6 then
    let rows := (List.range m).map fun r =>
      layerNormRow fa (ldParam d) (eb.take c1) (eb.drop c1) ((ea.drop (r * c1)).take c1)
    both (deliver (ldO1 d) (rows.flatMap (·.1))) (deliver (ldO2 d) (rows.flatMap fun x => x.2.1 ++ [x.2.2]))
  else if k = 7 then
    let xh := fun r => (ec.drop (r * (c1 + 1))).take c1
    let rs' := fun r => ec.getD (r * (c1 + 1) + c1) 0
    let dyr := fun r => (a32.drop (r * c1)).take c1
    let dx := (List.range m).flatMap fun r => layerNormBack (dyr r) (eb.take c1) (xh r) (rs' r)
    let dg := (List.range c1).map fun j => sumFV ((List.range m).map fun r => vMul ((dyr r).getD j (fk 0)) (fk ((xh r).getD j 0)))
    let db := (List.range c1).map fun j => sumOf fa ((List.range m).map fun r => at2 ea c1 r j 0)
    both (deliver (ldO1 d) dx) (deliver (ldO2 d) (dg ++ db))
  else if k = 8 then note (deliver (ldO1 d) (interactOp m c1 (tnD2 ta) va))
  else if k = 9 then note (deliver (ldO1 d) (interactBack m (tnD1 tb) (tnD2 tb) va vb))
  else if k = 10 then deliver (ldO1 d) ((a32.zip b32).map fun x => vAdd x.1 x.2)
  else if k = 11 then
    if ldSplit d then
      let p := tnD1 (tabGet [] g.tens (ldO1 d))
      let cut := fun lo n => (List.range m).flatMap fun r => ((ea.drop (r * c1)).drop lo).take n
      ([(ldO1 d, cut 0 p), (ldO2 d, cut p (c1 - p))], noFlags)
    else
      let c2 := tnD1 tb
      ([(ldO1 d, (List.range m).flatMap fun r => (ea.drop (r * c1)).take c1 ++ (eb.drop (r * c2)).take c2)], noFlags)
  else
    let fo := (tnFmt (tabGet [] g.tens (ldO1 d))).getD .fp32
    deliver (ldO1 d) ((List.range ea.length).map fun e =>
      convert fa fo (roundingOf (ldRc d) rs.run.heat rs.run.step 0 e) (ea.getD e 0))

/-! ### Ending a run (R118, R122, R123, R125) -/

/-- Causes of R122. -/
def rcAborted : Nat := 1
def rcNoForward : Nat := 2
def rcSavedHeld : Nat := 3
def rcHeat : Nat := 4
def rcFlask : Nat := 5
def rcRemote : Nat := 6

/-- The completion record (R122). -/
def runRecord (i : Nat) (g : Seg) (rs : RunState) (status cause completed failedAt elapsed : Nat) : List Byte :=
  let hbm := (savedOrder g).any fun t => !g.sram.testBit t
  leBytes 24 (rs.run.tag % 2 ^ 32 + rs.run.heat % 2 ^ 32 * 2 ^ 32 + status % 2 ^ 16 * 2 ^ 64 + cause % 256 * 2 ^ 80
    + b2n rs.flags.ovf * 2 ^ 88 + b2n rs.flags.nanOut * 2 ^ 89 + b2n rs.flags.flushIn * 2 ^ 90 + b2n rs.flags.flushOut * 2 ^ 91
    + b2n hbm * 2 ^ 92 + b2n rs.reloaded * 2 ^ 93 + i % 16 * 2 ^ 96 + rs.run.pass % 4 * 2 ^ 100 + completed % 2 ^ 16 * 2 ^ 128
    + failedAt % 2 ^ 16 * 2 ^ 144 + min elapsed 0xFFFFFFFF * 2 ^ 160) ++ g.digest.take 8

/-- Tensors that descriptors of the run up to `upto` (not included) write. -/
def runWrites (g : Seg) (r : Run) (upto : Nat) : List Nat :=
  dedupNat (((List.range upto).filter fun i => decide (r.first ≤ i)).flatMap fun i => ldOutputs (tabGet [] g.descs i))

/-- A contribute-linked tensor's elements with the positions of a masked dW, or of a CONVERT of one, as zero bits (R117), whichever
run computed the dW. -/
def zeroMasked (g : Seg) (t : Nat) (xs : List Nat) : List Nat :=
  match tabFind g.dwMask t with
  | none => xs
  | some (i, mask) =>
    let d := tabGet [] g.descs i
    let n := tnD1 (tabGet [] g.tens (ldB d))
    (List.range xs.length).map fun e => if maskedAt d mask n (e / n) (e % n) then 0 else xs.getD e 0

/-- What a finished descriptor leaves known of the masks its results were computed under: a DENSE_BWD_WEIGHT notes its own, a
CONVERT hands on its operand's, any other result has none. -/
def noteMask (rs : RunState) (i : Nat) (d : List Byte) (g : Seg) : Seg :=
  let mask := tabGet [] rs.masks i
  let from' := if ldKind d = 3 ∧ mask ≠ [] then some (i, mask) else if ldKind d = 12 then tabFind g.dwMask (ldA d) else none
  let rest := (ldOutputs d).foldl (fun l t => tabDel l t) g.dwMask
  { g with dwMask := match from' with | some x => tabPut rest (ldO1 d) x | none => rest }

/-- A run that ends DONE sets the ready flag of each contribute-linked tensor it wrote. -/
def setReady (i : Nat) (g : Seg) (rs : RunState) (s : State) : State :=
  ((runWrites g rs.run (rs.run.last + 1)).filter fun t => tensLink (tabGet [] g.tens t) = 1).foldl (fun s t =>
    match readTensor g rs t s with
    | .ok xs => modSeg i (fun g => { g with ready := tabPut g.ready t (zeroMasked g t xs) }) s
    | .err _ _ => s) s

/-- All run outputs of a failed run hold undefined contents: open bytes; its working tensors are forgotten (R123). -/
def spoilOutputs (i : Nat) (g : Seg) (rs : RunState) (s : State) : State :=
  let ts := runWrites g rs.run (rs.run.last + 1)
  let s := modSeg i (fun g => { g with work := g.work.filter fun e => !ts.contains e.1 }) s
  (ts.filter fun t => tnPlace (tabGet [] g.tens t) = 5).foldl (fun s t =>
    let b := tabGet [] g.tens t
    let a := tensGfa g rs.run t
    let n := tnBytes b rs.run.rows
    match spanCheck g.heat a n s with
    | some _ => s
    | none => useFree (spanWrite a ((List.range n).map fun k => BitVec.ofNat 8 (Config.freePart s.freeCtr k)) s)) s

/-- What a run's end does to the saved activations (R118). -/
def settleSaved (ok : Bool) (rs : RunState) (g : Seg) : Seg :=
  if rs.run.pass = 0 then
    if ok then
      { g with saved := rs.work.filter fun e => tnPlace (tabGet [] g.tens e.1) = 3, savedTag := some rs.run.tag,
               savedGfa := (rs.run.pairs.filter fun p => tnPlace (tabGet [] g.tens p.1) = 4).foldl (fun t p => tabPut t p.1 p.2) [] }
    else g
  else if rs.run.pass = 1 ∧ ok then { g with saved := [], savedTag := none, savedGfa := [] }
  else g

/-- The running run ends. -/
def endRun (i status cause failedAt : Nat) (s : State) : State :=
  match segOf i s with
  | none => s
  | some g => match g.running with
    | none => s
    | some rs =>
      let ok := decide (status = stDone)
      let rec' := runRecord i g rs status cause (rs.next - rs.run.first) failedAt (s.time.now - rs.startAt)
      let s := if ok then setReady i g rs s else spoilOutputs i g rs s
      let s := modSeg i (fun g => { settleSaved ok rs g with running := none, lastRec := rec' }) s
      let s := incReg (if ok then .laRunsDone else .laRunsFailed) 0 s
      let s := leaf .result g.heat 0x31 (packFields [(4, rs.run.tag), (2, status), (1, cause), (2, failedAt),
        (1, b2n rs.flags.ovf), (1, b2n rs.flags.nanOut), (1, b2n rs.flags.flushIn), (1, b2n rs.flags.flushOut),
        (1, b2n rs.reloaded)]) s
      contributeAll (finish rs.run.cmd status rec' s)

/-- An access of the running run failed (R123). -/
def failAccess (i : Nat) (e : AccErr) (gfa at' : Nat) (s : State) : State :=
  match segOf i s with
  | none => s
  | some g =>
    let tag := match g.running with | some rs => rs.run.tag | none => 0
    match e with
    | .lost remote => endRun i stDataLost (if remote then rcRemote else 0) at' s
    | _ => endRun i stDenied rcHeat at' (logEvent 0x0701 sevW 0x70 0xFF (packFields [(1, i), (4, tag), (8, gfa)])
        (incReg .laHeatDeniedCnt 0 s))

/-! ### Starting a run (R116, R118, R121, R124) -/

/-- Load the new copies of receive-linked weights. -/
def reloadWeights (i : Nat) (g : Seg) (s : State) : State :=
  g.fresh.foldl (fun s t =>
    let b := tabGet [] g.tens t
    incReg .laReloadCnt 0 (modSeg i (fun g => { g with weights := tabPut g.weights t (readElems b (tnGfa b) 0 s),
                                                       fresh := g.fresh.filter (· ≠ t) }) s)) s

/-- The masks of a run's descriptors, read at its start; or the failing access with its descriptor. -/
def readMasks (g : Seg) (r : Run) (s : State) : Tab (List Byte) × Option (AccErr × Nat × Nat) :=
  (((List.range (r.last + 1)).filter fun i => decide (r.first ≤ i)).filter fun i => ldMask (tabGet [] g.descs i) ≠ 0).foldl
    (fun acc i =>
      let d := tabGet [] g.descs i
      let n := maskLen d (tnD1 (tabGet [] g.tens (ldA d))) (tnD1 (tabGet [] g.tens (ldB d)))
      match spanCheck g.heat (ldMask d) n s with
      | some (e, x) => (acc.1, acc.2.orElse fun _ => some (e, x, i))
      | none => (tabPut acc.1 i (spanRead (ldMask d) n s), acc.2)) ([], none)

/-- The wake of the last of a segment's Bays is over (R23). -/
def bayReadyAt (g : Seg) (s : State) : Nat := maxNat (g.bays.map fun b => match tabFind s.power.bayWake b with | some t => t | none => 0)

/-- LAYER_RUN_START: the first queued run of a segment with none running. -/
def startRun (i : Nat) (s : State) : State :=
  match segOf i s with
  | none => s
  | some g => match g.running, g.queue with
    | none, r :: rest =>
      if paused s then s
      else
        let s := advanceTo (bayReadyAt g s) s
        let rs : RunState := { run := r, next := r.first, startAt := s.time.now, flags := noFlags,
                               reloaded := false, work := [], aborted := false }
        let s := modSeg i (fun g => { g with queue := rest, running := some rs }) s
        if r.pass = 1 ∧ g.savedTag ≠ some r.fwd then endRun i stBadState rcNoForward r.first s
        else if r.pass = 0 ∧ g.saved ≠ [] then endRun i stBadState rcSavedHeld r.first s
        else
          let s := reloadWeights i g s
          let (masks, bad) := readMasks g r s
          let rs := { rs with masks := masks, reloaded := decide (g.fresh ≠ []) }
          let s := modSeg i (fun g => { g with running := some rs }) s
          match bad with
          | some (e, x, d) => failAccess i e x d s
          | none => s
    | _, _ => s

/-- LAYER_RUN_START. -/
def execLayerRunStart (seg : Nat) (s : State) : Out := .next (startRun seg s)

/-! ### A descriptor finishes (R100, R123, R126) -/

/-- Write one result tensor: a working one in Bay SRAM, a saved one in the run's own store, any other at its GFA. -/
def writeTensor (i : Nat) (g : Seg) (rs : RunState) (w : Nat × List Nat) (s : State) : State :=
  let b := tabGet [] g.tens w.1
  match tnFmt b with
  | none => s
  | some f =>
    if tnPlace b = 2 ∨ tnPlace b = 5 then spanWrite (tensGfa g rs.run w.1) (packElems f w.2) s
    else if tnPlace b = 0 then modSeg i (fun g => { g with work := tabPut g.work w.1 w.2 }) s
    else modSeg i (fun g => { g with running := g.running.map fun rs => { rs with work := tabPut rs.work w.1 w.2 } }) s

/-- The first failing access of a descriptor: its operands, then its results. -/
def descAccess (g : Seg) (rs : RunState) (d : List Byte) (s : State) : Option (AccErr × Nat) :=
  (ldInputs d ++ ldOutputs d).findSome? fun t => match readTensor g rs t s with | .err e x => some (e, x) | .ok _ => none

/-- A descriptor that writes a contribute-linked tensor waits until the tensor of an earlier run has been read out (R125). -/
def waitsReadout (g : Seg) (d : List Byte) : Bool :=
  (ldOutputs d).any fun t => tensLink (tabGet [] g.tens t) = 1 && (tabFind g.ready t).isSome

/-- Elements of an operand that can be read. -/
def elemsRead (g : Seg) (rs : RunState) (t : Nat) (s : State) : List Nat :=
  if t = noTensor then [] else match readTensor g rs t s with | .ok xs => xs | .err _ _ => []

/-- The boundary after a descriptor: an abort, a missed deadline, the end, or the next one. -/
def boundary (i : Nat) (s : State) : State :=
  match segOf i s with
  | none => s
  | some g => match g.running with
    | none => s
    | some rs =>
      let ranOver := decide (rs.next > rs.run.last)
      let at' := if ranOver then 0xFFFF else rs.next
      let late := rs.missed || (rs.run.deadline ≠ 0 && decide (s.time.now > rs.startAt + rs.run.deadline))
      if rs.aborted then endRun i stBadState rcAborted at' s
      else if late then
        endRun i stDeadlineMissed 0 at' (logEvent 0x0401 sevW 0x70 0xFF (packFields [(1, 2), (4, rs.run.tag), (2, at')]) s)
      else if ranOver then endRun i stDone 0 0xFFFF s
      else s

/-- One descriptor of the running run is executed, its flags are raised in the arithmetic status of a Flask of the segment (R57),
and its boundary is reached. -/
def runDescriptor (i : Nat) (s : State) : State :=
  match segOf i s with
  | none => s
  | some g => match g.running with
    | none => s
    | some rs =>
      let d := tabGet [] g.descs rs.next
      if paused s then s
      else if waitsReadout g d then boundary i s
      else match descAccess g rs d s with
        | some (e, x) => failAccess i e x rs.next s
        | none =>
          let (res, fl) := runKind g rs rs.next (elemsRead g rs (ldA d) s) (elemsRead g rs (ldB d) s)
            (elemsRead g rs (ldC d) s) (elemsRead g rs (ldO1 d) s)
          let s := res.foldl (fun s w => writeTensor i g rs w s) (useFree s)
          let s := modSeg i (fun g => noteMask rs rs.next d { g with running := g.running.map fun rs =>
            { rs with next := rs.next + 1, flags := orFlags rs.flags fl } }) s
          boundary i (raiseSomewhere g.bays fl s)

/-- LAYER_DESCRIPTOR_DONE. -/
def execLayerDescriptorDone (seg : Nat) (s : State) : Out := .next (runDescriptor seg s)

/-- LAYER_RUN_DEADLINE: the run stops at its next boundary. -/
def execLayerRunDeadline (seg : Nat) (s : State) : Out :=
  .next (match segOf seg s with
    | none => s
    | some g => match g.running with
      | none => s
      | some rs =>
        if rs.run.deadline = 0 ∨ rs.missed then s
        else modSeg seg (fun g => { g with running := some { rs with missed := true } })
          (advanceTo (rs.startAt + rs.run.deadline) s))

/-! ### Abort, query, saved activations, statistics -/

/-- A queued run ends before it starts. -/
def endQueued (i : Nat) (r : Run) (s : State) : State :=
  match segOf i s with
  | none => s
  | some g =>
    let rs : RunState := { run := r, next := r.first, startAt := s.time.now, flags := noFlags, reloaded := false, work := [],
                           aborted := true }
    let rec' := runRecord i g rs stBadState rcAborted 0 0xFFFF 0
    let s := incReg .laRunsFailed 0 (modSeg i (fun g => { g with lastRec := rec' }) s)
    let s := leaf .result r.heat 0x31 (packFields [(4, r.tag), (2, stBadState), (1, rcAborted), (2, 0xFFFF), (1, 0), (1, 0), (1, 0),
      (1, 0), (1, 0)]) s
    finish r.cmd stBadState rec' s

/-- A segment's runs are aborted: the running one at its next boundary, every queued one now (R123). -/
def abortRuns (seg : Nat) (g : Seg) (s : State) : State :=
  g.queue.foldl (fun s r => endQueued seg r s)
    (modSeg seg (fun g => { g with queue := [], running := g.running.map fun rs => { rs with aborted := true } }) s)

/-- LAYER_ABORT: the running run at its next boundary, every queued run now (R123). -/
def execLayerAbort (m : CmdMeta) (heat seg : Nat) (s : State) : Out :=
  command m 0x0707 (fun c s =>
    if seg > 15 then refuse c stBadParam s
    else match segOf seg s with
    | none => refuse c stBadState s
    | some g =>
      if g.state ≠ .placed ∨ g.heat ≠ heat then refuse c stBadState s
      else done c (abortRuns seg g s)) s

/-- Code of a segment's state, in the order R128 lists them. -/
def segCode : SegState → Nat
  | .defining => 0
  | .closed => 1
  | .placing => 2
  | .placed => 3
  | .removing => 4

/-- What LAYER_QUERY answers (R128). -/
def segBody (g : Seg) : List Byte :=
  let order := savedOrder g
  leBytes 1 (segCode g.state) ++ leBytes 13 (g.bays.foldl withBit 0)
  ++ leBytes 1 (g.queue.length + b2n g.running.isSome) ++ leBytes 4 (g.savedTag.getD 0)
  ++ leBytes (ceilDiv order.length 8) ((List.range order.length).foldl (fun v i =>
      if (tabFind g.saved (order.getD i 0)).isSome then withBit v i else v) 0)
  ++ padTo 32 g.lastRec

/-- LAYER_QUERY: state, Bays, queue depth, held run_tag, saved bitmap, last record. -/
def execLayerQuery (m : CmdMeta) (seg : Nat) (s : State) : Out :=
  command m 0x0708 (fun c s =>
    match segOf seg s with
    | none => refuse c stBadParam s
    | some g => answer c stDone (segBody g) s) s

/-- LAYER_SAVED_RELEASE. While a pass-1 run that reads them is running the saved tensors are not released: BAD_STATE (R118 names no
answer: DESIGN CHOICE, log entry 125). -/
def execLayerSavedRelease (m : CmdMeta) (seg runTag : Nat) (s : State) : Out :=
  command m 0x0709 (fun c s =>
    if seg > 15 then refuse c stBadParam s
    else match segOf seg s with
    | none => refuse c stBadState s
    | some g =>
      if g.state ≠ .placed ∨ g.savedTag ≠ some runTag ∨ g.running.any (fun rs => rs.run.pass = 1) then
        refuse c stBadState s
      else done c (modSeg seg (fun g => { g with saved := [], savedTag := none, savedGfa := [] }) s)) s

/-- LAYER_STATS: the four counters of R127. -/
def execLayerStats (m : CmdMeta) (s : State) : Out :=
  command m 0x070A (fun c s => answer c stDone (readWords 0x70000010 4 s) s) s

end Sys2Proof.Machine
end

