-- ==== Sys2Proof/Machine/Det.lean ====
section
/-! DEFINITION. Determinism and audit records: contexts, Ihlil records, slice closes, SAVE_HEAT and RESUME_HEAT (R328 to R350),
and the clock plan (R404). -/
namespace Sys2Proof.Machine

/-! ### Digests of the timing part (R330, R404) -/

/-- The clock plan record (R404). -/
def clockPlan (s : State) : List Byte :=
  leBytes 4 (if Config.gradeK then 1800000 else 2000000) ++ leBytes 4 1600000 ++ leBytes 4 1000000
  ++ (List.range 52).flatMap fun l => leBytes 1 (if reg .lkState l s = 4 then reg .lkRate l s else 0xFF)

/-- The clock plan digest. -/
def clockDigest (s : State) : List Byte := shake256 8 (clockPlan s)

/-- The placement digest (R330), its values packed as R471 packs fields (log entry 31). -/
def placementDigest (heat : Nat) (s : State) : List Byte :=
  let b := (bindOf heat s).getD { heat := heat, f := 0, c := 0, mask := 0 }
  shake256 8 (packFields [(1, b.f), (1, b.c), (4, b.mask)]
    ++ (s.route.reserved.flatMap fun e => packFields [(1, e.1), (4, e.2)])
    ++ ((s.layer.segs.filter fun g => g.2.heat = heat ∧ g.2.state = .placed).flatMap fun g => leBytes 13 (g.2.bays.foldl withBit 0))
    ++ packFields [(1, reg .rtSpread 0 s), (1, reg .meMigOn 0 s)])

/-! ### Contexts as bytes -/

/-- An accumulator in 72 bytes, and back. -/
def accBytes (a : Accum) : List Byte := leBytes 64 a.sum ++ leBytes 8 a.count
def accOf (b : List Byte) : Accum := { sum := fieldAt b 0 64, count := fieldAt b 64 8 }

/-- Sum of two accumulators (R342). -/
def accAdd (a b : Accum) : Accum := { sum := (a.sum + b.sum) % 2 ^ 512, count := (a.count + b.count) % 2 ^ 64 }

/-- What one device brings to a record: its context, its signature where it placed a segment, and its three digests. -/
structure CtxPart where
  prog    : Accum
  weights : Accum
  inputs  : Accum
  result  : Accum
  pats    : Nat
  sigs    : List Nat
  first   : Nat
  last    : Nat
  openAt  : Nat
  closeAt : Nat
  clk     : List Byte
  prof    : List Byte
  place   : List Byte
  flags   : Nat
  resend  : Nat
  spill   : Nat
  miss    : Nat
  ecc     : Nat
  deriving DecidableEq, Repr

/-- This device's part of a record. -/
def ownPart (c : DetCtx) (s : State) : CtxPart :=
  { prog := c.prog, weights := c.weights, inputs := c.inputs, result := c.result, pats := c.pats,
    sigs := if c.placed then [signature] else [], first := (c.steps.getD (0, 0)).1, last := (c.steps.getD (0, 0)).2,
    openAt := c.openAt, closeAt := timeBase s, clk := c.clk, prof := c.prof, place := c.place, flags := c.flags,
    resend := c.resend, spill := c.spill, miss := c.miss, ecc := c.ecc }

/-- A part as the body of a close reply (its layout is the model's, log entry 1), and back. -/
def partBytes (p : CtxPart) : List Byte :=
  accBytes p.prog ++ accBytes p.weights ++ accBytes p.inputs ++ accBytes p.result
  ++ packFields [(1, p.pats), (2, p.sigs.headD 0), (4, p.first), (4, p.last), (6, p.openAt), (6, p.closeAt)]
  ++ padTo 8 p.clk ++ padTo 8 p.prof ++ padTo 8 p.place
  ++ packFields [(4, p.flags), (4, p.resend), (4, p.spill), (4, p.miss), (4, p.ecc)]

def partOf (b : List Byte) : CtxPart :=
  let g := fieldAt b 289 2
  { prog := accOf b, weights := accOf (b.drop 72), inputs := accOf (b.drop 144), result := accOf (b.drop 216),
    pats := fieldAt b 288 1, sigs := if g = 0 then [] else [g], first := fieldAt b 291 4, last := fieldAt b 295 4,
    openAt := fieldAt b 299 6, closeAt := fieldAt b 305 6, clk := (b.drop 311).take 8, prof := (b.drop 319).take 8,
    place := (b.drop 327).take 8, flags := fieldAt b 335 4, resend := fieldAt b 339 4, spill := fieldAt b 343 4,
    miss := fieldAt b 347 4, ecc := fieldAt b 351 4 }

/-- Parts of a slice merged (R342); the devices' digests stand in device order. -/
def mergeParts (l : List CtxPart) : CtxPart :=
  let sum := fun f => l.foldl (fun a p => accAdd a (f p)) ({} : Accum)
  let withSteps := l.filter fun p => p.prog.count ≠ 0
  { prog := sum (·.prog), weights := sum (·.weights), inputs := sum (·.inputs), result := sum (·.result),
    pats := l.foldl (fun a p => a ||| p.pats) 0, sigs := dedupNat (l.flatMap (·.sigs)),
    first := withSteps.foldl (fun a p => min a p.first) (match withSteps with | p :: _ => p.first | [] => 0),
    last := maxNat (withSteps.map (·.last)),
    openAt := l.foldl (fun a p => min a p.openAt) (match l with | p :: _ => p.openAt | [] => 0),
    closeAt := maxNat (l.map (·.closeAt)), clk := shake256 8 (l.flatMap (·.clk)), prof := shake256 8 (l.flatMap (·.prof)),
    place := shake256 8 (l.flatMap (·.place)), flags := l.foldl (fun a p => a ||| p.flags) 0,
    resend := sumNat (l.map (·.resend)), spill := sumNat (l.map (·.spill)), miss := sumNat (l.map (·.miss)),
    ecc := sumNat (l.map (·.ecc)) }

/-! ### Records (R338 to R340) -/

/-- The settings record (R339): signatures in ascending order, at least the collecting device's own. -/
def settingsRecord (sigs : List Nat) (pats : Nat) : List Byte :=
  let l := if sigs = [] then [signature] else sigs
  let asc := ([0x0101, 0x0201].filter l.contains) ++ l.filter fun x => x ≠ 0x0101 ∧ x ≠ 0x0201
  let l := asc.take 4
  leBytes 1 l.length ++ leBytes 1 (pats % 4) ++ padTo 8 (l.flatMap (leBytes 2)) ++ leBytes 6 0

/-- The record's bytes, unsigned (R338). The record digest covers the five parts alone: no flag, time, count or timing digest enters it
(R341). The device's stepping is in the settings' signatures, its ordering code has no field (log entry 122). -/
def recordBytes (kind heat record : Nat) (p : CtxPart) (sign : Bool) (s : State) : List Byte :=
  let settings := settingsRecord (if kind = 0 then [signature] else p.sigs) p.pats
  let five := accDigest p.prog ++ accDigest p.weights ++ accDigest p.inputs ++ settings ++ accDigest p.result
  packFields [(2, 0x4C49), (1, 1), (1, kind), (4, heat), (4, record), (4, p.first), (4, p.last)]
  ++ five ++ shake256 64 five
  ++ packFields [(6, p.openAt), (6, p.closeAt)] ++ padTo 8 p.clk ++ padTo 8 p.prof ++ padTo 8 p.place
  ++ packFields [(4, p.flags), (4, min p.resend 0xFFFFFFFF), (4, min p.spill 0xFFFFFFFF), (4, min p.miss 0xFFFFFFFF),
      (4, min p.ecc 0xFFFFFFFF), (2, ownDev s), (1, b2n sign), (1, 0)]
  ++ leBytes 120 0

/-- The key engine's queue has room (R435). -/
def signRoom (s : State) : Bool := decide (s.sec.signQ.length < 16)

/-- A record is formed: this device's context closes, the record is held, and answered at once or when signed. -/
def formRecord (kind heat : Nat) (c : DetCtx) (p : CtxPart) (sign : Bool) (cmd : CmdRef) (s : State) : State :=
  let body := recordBytes kind heat c.record p sign s
  let s := { s with det := { s.det with ctxs := s.det.ctxs.filter (fun x => x.heat ≠ heat), held := tabPut s.det.held heat body } }
  let s := incReg .deRecordCnt 0 s
  if sign then { s with sec := { s.sec with signQ := s.sec.signQ ++ [.record cmd body] } } else finish cmd stDone body s

/-! ### Commands of range 0x0Dxx -/

/-- A command for a Heat that must be bound (R350). -/
def boundOr (heat : Nat) (c : CmdRef) (k : State → State) (s : State) : State := requires (isBound heat s) c stBadState k s

/-- What DET_STATUS answers (R350). -/
def detBody (heat : Nat) (s : State) : List Byte :=
  let step := tabGet 0 s.det.steps heat
  let recNo := tabGet 0 s.det.records heat
  match ctxOfHeat heat s with
  | some x => packFields [(4, step), (4, recNo), (1, 1), (4, x.flags), (4, x.resend), (4, x.spill), (4, x.miss), (4, x.ecc)]
  | none => packFields [(4, step), (4, recNo), (1, 0), (4, 0), (4, 0), (4, 0), (4, 0), (4, 0)]

/-- DET_STATUS. -/
def execDetStatus (m : CmdMeta) (heat : Nat) (s : State) : Out :=
  command m 0x0D00 (fun c s => boundOr heat c (fun s => answer c stDone (detBody heat s) s) s) s

/-- A context as it opens, with the three digests of that moment. -/
def freshDetCtx (heat record scope : Nat) (s : State) : DetCtx :=
  { heat := heat, record := record, scope := scope, openAt := timeBase s, clk := clockDigest s, prof := profileDigest s,
    place := placementDigest heat s }

/-- DET_RECORD_OPEN. -/
def execDetRecordOpen (m : CmdMeta) (heat record scope : Nat) (s : State) : Out :=
  command m 0x0D01 (fun c s =>
    if scope > 1 then refuse c stBadParam s
    else boundOr heat c (fun s =>
      if (ctxOfHeat heat s).isSome then refuse c stBadState s
      else if s.det.ctxs.length ≥ 1024 then refuse c stNoResource s
      else done c { s with det := { s.det with ctxs := s.det.ctxs ++ [freshDetCtx heat record scope s],
                                               records := tabSet 0 s.det.records heat record,
                                               held := tabDel s.det.held heat } }) s) s

/-- DET_DIGEST_RANGE. -/
def execDetDigestRange (m : CmdMeta) (heat kind gfa length : Nat) (s : State) : Out :=
  command m 0x0D02 (fun c s =>
    if kind > 2 ∨ length = 0 ∨ length > 2 ^ 40 ∨ ¬ gfaOk gfa then refuse c stBadParam s
    else boundOr heat c (fun s =>
      if (ctxOfHeat heat s).isNone then refuse c stBadState s
      else accept c (fun s =>
        { s with det := { s.det with digests := s.det.digests ++
            [{ heat := heat, kind := kind, gfa := gfa, len := length, cmd := c }] } }) s) s) s

/-- The bytes of a range enter their accumulator as one leaf, which is the reply (R336, R350). -/
def addRange (j : DigestJob) (s : State) : State :=
  let body := leBytes 8 j.gfa ++ leBytes 8 j.len ++ spanRead j.gfa j.len s
  let (a, k) := if j.kind = 0 then (Acc.weights, 0x10) else if j.kind = 1 then (.inputs, 0x21) else (.result, 0x32)
  finish j.cmd stDone (leafOf k body) (leaf a j.heat k body s)

/-- DIGEST_RANGE_DONE: the first range of the Heat has been read. -/
def execDigestRangeDone (heat : Nat) (s : State) : Out :=
  .next (match s.det.digests.find? (fun j => j.heat = heat) with
    | none => s
    | some j =>
      let s := { s with det := { s.det with digests := s.det.digests.erase j } }
      match spanCheck heat j.gfa j.len s with
      | some (.denied, _) => finish j.cmd stDenied [] s
      | some (.lost _, _) => finish j.cmd stDataLost [] s
      | some (.bad, _) => finish j.cmd stBadParam [] s
      | none => addRange j s)

/-- Work of the Heat that forbids a close (R344). -/
def closeBlocked (heat : Nat) (s : State) : Bool :=
  s.pour.pours.any (fun p => p.heat = heat && p.endAt.isNone && decide (p.state ≤ 4))
  || s.layer.segs.any (fun g => g.2.heat = heat && (g.2.running.isSome || g.2.queue ≠ []))

/-- A close is performed: a device record or a slice of one at once, else every other device of the slice is asked (R338, R342). -/
def closeRecord (heat : Nat) (x : DetCtx) (scope : Nat) (sign : Bool) (c : CmdRef) (s : State) : State :=
  let others := (sliceDevs heat s).filter fun d => d ≠ ownDev s && presentDev d s
  if scope = 0 then formRecord 0 heat x (ownPart x s) sign c s
  else if others = [] then formRecord 1 heat x (mergeParts [ownPart x s]) sign c s
  else emitCtl others .recordClose [ownDev s, heat, x.record] []
    { s with det := { s.det with closes := s.det.closes ++
        [{ heat := heat, sign := sign, awaiting := others, got := [], since := s.time.now, cmd := c }] } }

/-- DET_RECORD_CLOSE. -/
def execDetRecordClose (m : CmdMeta) (heat scope sign : Nat) (s : State) : Out :=
  command m 0x0D03 (fun c s =>
    if scope > 1 ∨ sign > 1 then refuse c stBadParam s
    else boundOr heat c (fun s =>
      match ctxOfHeat heat s with
      | none => refuse c stBadState s
      | some x =>
        if closeBlocked heat s ∨ s.det.closes.any (fun j => j.heat = heat) then refuse c stBadState s
        else if sign = 1 ∧ ¬ signRoom s then refuse c stNoResource (incReg .seSignBusyCnt 0 s)
        else accept c (closeRecord heat x scope (sign = 1) c) s) s) s

/-- The slice record is formed from every part, in device order (R342). -/
def finishClose (j : CloseJob) (s : State) : State :=
  let s := { s with det := { s.det with closes := s.det.closes.filter fun x => x.heat ≠ j.heat } }
  match ctxOfHeat j.heat s with
  | none => finish j.cmd stBadState [] s
  | some x =>
    let devs := (List.range 2320).filter fun d => d = ownDev s || j.got.any fun e => e.1 = d
    let parts := devs.filterMap fun d => if d = ownDev s then some (ownPart x s)
      else (j.got.find? fun e => e.1 = d).map fun e => partOf e.2
    if j.sign ∧ ¬ signRoom s then finish j.cmd stNoResource [] (incReg .seSignBusyCnt 0 s)
    else formRecord 1 j.heat x (mergeParts parts) j.sign j.cmd s

/-- RECORD_CLOSE_REPLY. -/
def execRecordCloseReply (peer heat : Nat) (body : List Byte) (s : State) : Out :=
  .next (match s.det.closes.find? (fun j => j.heat = heat) with
    | none => s
    | some j =>
      if !j.awaiting.contains peer then s
      else
        let j' := { j with awaiting := j.awaiting.filter (· ≠ peer), got := j.got ++ [(peer, body)] }
        if j'.awaiting = [] then finishClose j' s
        else { s with det := { s.det with closes := s.det.closes.map fun x => if x.heat = heat then j' else x } })

/-- RECORD_CLOSE_TIMEOUT: 1 ms; the first device that did not answer is named. -/
def execRecordCloseTimeout (heat : Nat) (s : State) : Out :=
  .next (match s.det.closes.find? (fun j => j.heat = heat) with
    | none => s
    | some j =>
      let s := advanceTo (j.since + 1000000) s
      let s := { s with det := { s.det with closes := s.det.closes.filter fun x => x.heat ≠ heat } }
      finish j.cmd stMemberFenced (leBytes 4 (epOf (j.awaiting.headD 0) 56)) s)

/-- DET_RECORD_READ. -/
def execDetRecordRead (m : CmdMeta) (heat : Nat) (s : State) : Out :=
  command m 0x0D04 (fun c s => boundOr heat c (fun s =>
    match tabFind s.det.held heat with
    | some b => answer c stDone b s
    | none => refuse c stBadState s) s) s

/-- DET_STEP_SET. -/
def execDetStepSet (m : CmdMeta) (heat step : Nat) (s : State) : Out :=
  command m 0x0D10 (fun c s => boundOr heat c (fun s =>
    done c { s with det := { s.det with steps := tabSet 0 s.det.steps heat (step % 2 ^ 32) } }) s) s

/-! ### The image (R346). The manual names its contents and not their packing, which is log entry 34. -/

/-- A byte string behind its length, and back. -/
def lenBytes (b : List Byte) : List Byte := leBytes 4 b.length ++ b
def takeLen (b : List Byte) : List Byte × List Byte := let n := fieldAt b 0 4; ((b.drop 4).take n, (b.drop 4).drop n)

/-- Items behind their count, and back. -/
def listBytes (l : List (List Byte)) : List Byte := leBytes 4 l.length ++ l.flatMap lenBytes
def takeItems : Nat → List Byte → List (List Byte)
  | 0, _ => []
  | n + 1, b => let (x, r) := takeLen b; x :: takeItems n r
def itemsOf (b : List Byte) : List (List Byte) := takeItems (fieldAt b 0 4) (b.drop 4)

/-- Section 2: the open context, or nothing. -/
def ctxSection (heat : Nat) (s : State) : List Byte :=
  match ctxOfHeat heat s with
  | none => []
  | some c => partBytes (ownPart c s) ++ packFields [(4, c.record), (1, c.scope), (1, b2n c.placed), (1, b2n c.steps.isSome)]

/-- A context from section 2, with RESUMED set. -/
def ctxFromSection (heat : Nat) (b : List Byte) : DetCtx :=
  let p := partOf b
  { heat := heat, record := fieldAt b 355 4, scope := fieldAt b 359 1, openAt := p.openAt, prog := p.prog, weights := p.weights,
    inputs := p.inputs, result := p.result, steps := if fieldAt b 361 1 = 1 then some (p.first, p.last) else none,
    placed := fieldAt b 360 1 = 1, pats := p.pats, flags := p.flags ||| detResumed, resend := p.resend, spill := p.spill,
    miss := p.miss, ecc := p.ecc, clk := p.clk, prof := p.prof, place := p.place }

/-- Items of section 3. -/
def ruleItem (e : Nat × List Byte) : List Byte := leBytes 2 e.1 ++ e.2
def setItem (e : Nat × MSet) : List Byte :=
  leBytes 2 e.1 ++ leBytes 1 (b2n e.2.closed) ++ leBytes 1 e.2.kind ++ leBytes 4 e.2.count
  ++ e.2.entries.flatMap fun x => leBytes 4 x.1 ++ leBytes 4 x.2
def stateItem (u : UpdState) : List Byte :=
  packFields [(8, u.base), (8, u.elems), (1, u.kind), (1, u.slot), (4, u.t), (4, u.prevT), (1, b2n u.canRevert)]
  ++ listBytes (u.masks.map fun x => packFields [(1, x.region), (8, x.o), (8, x.k), (8, x.n), (1, x.kind)] ++ x.bitmap)
def tableItem (t : EmbTable) : List Byte :=
  packFields [(8, t.base), (8, t.rows), (2, t.dim), (1, t.fmt), (1, t.kind), (4, t.buckets), (2, t.setIndex)]
def segItem (e : Nat × Seg) : List Byte :=
  packFields [(1, e.1), (2, e.2.nDesc), (2, e.2.nTens), (1, e.2.bays.length), (4, e.2.maxRows), (1, b2n (e.2.state = .placed))]
  ++ (segTens e.2).flatMap (padTo 32) ++ (segDescs e.2).flatMap (padTo 32)

/-- And back. -/
def ruleFrom (b : List Byte) : Nat × List Byte := (fieldAt b 0 2, (b.drop 2).take 32)
def setFrom (b : List Byte) : Nat × MSet :=
  let l := chunksOf 8 (b.length / 8 + 1) (b.drop 8)
  (fieldAt b 0 2, { count := fieldAt b 4 4, closed := fieldAt b 2 1 = 1, kind := fieldAt b 3 1,
                    entries := l.foldl (fun t x => tabPut t (fieldAt x 0 4) (fieldAt x 4 4)) [] })
def stateFrom (heat : Nat) (b : List Byte) : UpdState :=
  { heat := heat, base := fieldAt b 0 8, elems := fieldAt b 8 8, kind := fieldAt b 16 1, slot := fieldAt b 17 1, t := fieldAt b 18 4,
    prevT := fieldAt b 22 4, canRevert := fieldAt b 26 1 = 1,
    masks := (itemsOf (b.drop 27)).map fun x => { region := fieldAt x 0 1, o := fieldAt x 1 8, k := fieldAt x 9 8,
                                                  n := fieldAt x 17 8, kind := fieldAt x 25 1, bitmap := x.drop 26 } }
def tableFrom (heat : Nat) (b : List Byte) : EmbTable :=
  { heat := heat, base := fieldAt b 0 8, rows := fieldAt b 8 8, dim := fieldAt b 16 2, fmt := fieldAt b 18 1, kind := fieldAt b 19 1,
    buckets := fieldAt b 20 4, setIndex := fieldAt b 24 2 }
def segFrom (heat : Nat) (b : List Byte) : Nat × Seg × Nat × Bool :=
  let nd := fieldAt b 1 2
  let nt := fieldAt b 3 2
  let cut := fun off n => (List.range n).foldl (fun (t : Tab (List Byte)) i => tabPut t i ((b.drop (off + 32 * i)).take 32)) []
  let g : Seg := { state := .closed, heat := heat, nDesc := nd, nTens := nt, tens := cut 11 nt, descs := cut (11 + 32 * nt) nd,
                   maxRows := fieldAt b 6 4 }
  (fieldAt b 0 1, { g with digest := shake256 64 ((segTens g).flatMap id ++ (segDescs g).flatMap id) }, fieldAt b 5 1,
    fieldAt b 10 1 = 1)

/-- The image: a 64-byte header and five sections. -/
def saveImage (heat : Nat) (s : State) : List Byte :=
  let s1 := leBytes 4 (tabGet 0 s.det.steps heat) ++ leBytes 4 (tabGet 0 s.det.records heat)
  let s2 := ctxSection heat s
  let s3 := lenBytes (listBytes (s.upd.rules.map ruleItem)) ++ lenBytes (listBytes (s.pour.sets.map setItem))
    ++ lenBytes (listBytes ((s.upd.states.filter fun u => u.heat = heat).map stateItem))
    ++ lenBytes (listBytes ((s.upd.tables.filter fun t => t.heat = heat).map tableItem))
  let s4 := listBytes ((s.layer.segs.filter fun g => g.2.heat = heat ∧ (g.2.state = .placed ∨ g.2.state = .closed)).map segItem)
  let s5 := match bindOf heat s with | some b => packFields [(1, b.f), (1, b.c), (4, b.mask)] | none => []
  padTo 64 (packFields [(2, 0x5348), (1, 1), (1, 0), (4, heat), (2, ownDev s), (2, signature), (4, s1.length), (4, s2.length),
    (4, s3.length), (4, s4.length), (4, s5.length)]) ++ s1 ++ s2 ++ s3 ++ s4 ++ s5

/-- An image taken apart. -/
structure Image where
  heat   : Nat
  step   : Nat
  record : Nat
  ctx    : Option DetCtx
  rules  : List (Nat × List Byte)
  sets   : List (Nat × MSet)
  states : List UpdState
  tables : List EmbTable
  segs   : List (Nat × Seg × Nat × Bool)
  f      : Nat
  c      : Nat
  mask   : Nat
  deriving DecidableEq, Repr

/-- Read an image; none when its header or its lengths are wrong. -/
def readImage (b : List Byte) : Option Image :=
  let heat := fieldAt b 4 4
  let n := fun i => fieldAt b (12 + 4 * i) 4
  let part := fun i => (b.drop (64 + sumNat ((List.range i).map n))).take (n i)
  if b.length < 64 ∨ fieldAt b 0 2 ≠ 0x5348 ∨ fieldAt b 2 1 ≠ 1 ∨ b.length ≠ 64 + sumNat ((List.range 5).map n) then none
  else
    let (r, t) := takeLen (part 2)
    let (st, t) := takeLen t
    let (us, t) := takeLen t
    let (ts, _) := takeLen t
    some { heat := heat, step := fieldAt (part 0) 0 4, record := fieldAt (part 0) 4 4, ctx := if part 1 = [] then none else some (ctxFromSection heat (part 1)),
           rules := (itemsOf r).map ruleFrom, sets := (itemsOf st).map setFrom, states := (itemsOf us).map (stateFrom heat),
           tables := (itemsOf ts).map (tableFrom heat), segs := (itemsOf (part 3)).map (segFrom heat),
           f := fieldAt (part 4) 0 1, c := fieldAt (part 4) 1 1, mask := fieldAt (part 4) 2 4 }

/-! ### SAVE_HEAT (R345) -/

/-- The pause of a Heat ends. -/
def liftPause (heat : Nat) (s : State) : State := { s with det := { s.det with paused := s.det.paused.filter (· ≠ heat) } }

/-- A save ends: its job goes, and the pause with it unless it succeeded without CONTINUE. -/
def endSave (j : SaveJob) (status : Nat) (body : List Byte) (keep : Bool) (s : State) : State :=
  let s := { s with det := { s.det with saves := s.det.saves.filter fun x => x.heat ≠ j.heat } }
  finish j.cmd status body (if keep then s else liftPause j.heat s)

/-- A save begins: the Heat is paused (R345). -/
def beginSave (j : SaveJob) (s : State) : State :=
  { s with det := { s.det with paused := s.det.paused.filter (· ≠ j.heat) ++ [j.heat], saves := s.det.saves ++ [j] } }

/-- SAVE_HEAT; the wait limit is in milliseconds, 1 to 10,000 (log entry 32). -/
def execSaveHeat (m : CmdMeta) (heat endpoint offset waitLimit cont : Nat) (s : State) : Out :=
  command m 0x0D20 (fun c s =>
    if endpoint ≥ 2 ^ 18 ∨ waitLimit = 0 ∨ waitLimit > 10000 ∨ cont > 1 then refuse c stBadParam s
    else boundOr heat c (fun s =>
      if s.det.saves.any (fun j => j.heat = heat) then refuse c stBadState s
      else accept c (beginSave { heat := heat, endp := endpoint, offset := offset, limit := waitLimit * 1000000,
                                 cont := decide (cont = 1), since := s.time.now, writing := false, image := [], cmd := c }) s) s) s

/-- No Pour of the Heat lies between OPEN and DELIVERING and no run of it is running. -/
def heatQuiet (heat : Nat) (s : State) : Bool :=
  !(s.pour.pours.any fun p => p.heat = heat && p.openAt.isSome && p.endAt.isNone && decide (p.state ≤ 4))
  && !(s.layer.segs.any fun g => g.2.heat = heat && g.2.running.isSome)

/-- Requests of a save or a resume are tagged by this number. -/
def saveReq (heat : Nat) : Nat := 2 ^ 40 + heat

/-- Send the image by PUT packets from port 57. -/
def sendImage (j : SaveJob) (img : List Byte) (s : State) : State :=
  (List.range (ceilDiv img.length 2560)).foldl (fun s k =>
    sendFrom { typ := tyPut, last := true, cls := min j.cmd.cls 4, dst := j.endp, src := ownEp 57 s, heat := j.heat,
               addr := (j.offset + 2560 * k) % 2 ^ 64, payload := (img.drop (2560 * k)).take 2560 }
      [j.endp] (.request (saveReq j.heat)) s) s

/-- SAVE_HEAT_WAIT_DONE. -/
def execSaveHeatWaitDone (heat : Nat) (s : State) : Out :=
  .next (match s.det.saves.find? (fun j => j.heat = heat) with
    | none => s
    | some j =>
      if j.writing ∨ ¬ heatQuiet heat s then s
      else if s.layer.segs.any (fun g => g.2.heat = heat && g.2.saved ≠ []) then endSave j stBadState [] false s
      else
        let img := saveImage heat s
        sendImage j img { s with det := { s.det with saves := s.det.saves.map fun x =>
          if x.heat = heat then { j with writing := true, image := img } else x } })

/-- SAVE_HEAT_WAIT_TIMEOUT. -/
def execSaveHeatWaitTimeout (heat : Nat) (s : State) : Out :=
  .next (match s.det.saves.find? (fun j => j.heat = heat) with
    | none => s
    | some j => if j.writing then s else endSave j stBadState [] false (advanceTo (j.since + j.limit) s))

/-- A request tagged `id` is unanswered or waiting. -/
def requestsOut (id : Nat) (s : State) : Bool :=
  s.net.streams.any fun o => o.unacked.any (fun x => x.why = .request id) || o.waiting.any (fun x => x.2.2 = .request id)

/-- Saves whose PUT packets are all acknowledged are answered. -/
def settleSaves (s : State) : State :=
  (s.det.saves.filter fun j => j.writing && !requestsOut (saveReq j.heat) s).foldl (fun s j =>
    endSave j stDone (shake256 64 j.image ++ leBytes 8 j.image.length) (!j.cont) (incReg .deSaveCnt 0 s)) s

/-- A PUT of a save was given up (R350). -/
def failSave (id : Nat) (s : State) : State :=
  match s.det.saves.find? (fun j => j.writing && saveReq j.heat = id) with
  | some j => endSave j stDataLost [] false s
  | none => s

/-! ### RESUME_HEAT (R347) -/

/-- Requests of a resume are tagged by its place among the outstanding commands: its tag and source. -/
def resumeReq (c : CmdRef) : Nat := 2 ^ 48 + c.src * 2 ^ 16 + c.tag

/-- A resume begins: GET packets of up to 65,536 bytes ask for the image (R347). -/
def beginResume (j : ResumeJob) (s : State) : State :=
  let s := { s with det := { s.det with resumes := s.det.resumes ++ [j] } }
  (List.range (ceilDiv j.len 65536)).foldl (fun s k =>
    let n := min 65536 (j.len - 65536 * k)
    sendFrom { typ := tyGet, last := true, cls := min j.cmd.cls 4, dst := j.endp, src := ownEp 57 s,
               addr := (j.offset + 65536 * k) % 2 ^ 64, args := n - 1 } [j.endp] (.request (resumeReq j.cmd)) s) s

/-- RESUME_HEAT. -/
def execResumeHeat (m : CmdMeta) (endpoint offset length : Nat) (digest : List Byte) (s : State) : Out :=
  command m 0x0D21 (fun c s =>
    if endpoint ≥ 2 ^ 18 ∨ length < 64 then refuse c stBadParam s
    else accept c (beginResume { endp := endpoint, offset := offset, len := length, digest := digest, image := [], heat := 0,
                                 placing := none, cmd := c }) s) s

/-- Objects of an image that already exist here. -/
def imageClash (i : Image) (s : State) : Bool :=
  isBound i.heat s || i.rules.any (fun e => (tabFind s.upd.rules e.1).isSome)
  || i.sets.any (fun e => (tabFind s.pour.sets e.1).isSome)
  || i.states.any (fun u => (stateAt u.base s).isSome) || i.tables.any (fun t => (tableAt t.base s).isSome)
  || i.segs.any (fun g => (segOf g.1 s).isSome) || (i.ctx.isSome && (ctxOfHeat i.heat s).isSome)

/-- Restore everything but the placements. -/
def restoreImage (i : Image) (s : State) : State :=
  let s := putBind i.heat i.f i.c i.mask s
  let s := { s with det := { s.det with steps := tabSet 0 s.det.steps i.heat i.step,
                                        records := tabSet 0 s.det.records i.heat i.record,
                                        ctxs := s.det.ctxs ++ (match i.ctx with | some c => [c] | none => []) } }
  let s := { s with upd := { s.upd with rules := i.rules.foldl (fun (t : Tab (List Byte)) (e : Nat × List Byte) => tabPut t e.1 e.2) s.upd.rules,
                                        states := s.upd.states ++ i.states, tables := s.upd.tables ++ i.tables } }
  let s := { s with pour := { s.pour with sets := i.sets.foldl (fun (t : Tab MSet) (e : Nat × MSet) => tabPut t e.1 e.2) s.pour.sets } }
  i.segs.foldl (fun s g => putSeg g.1 g.2.1 s) s

/-- Take back what a failed resume restored. -/
def undoImage (i : Image) (s : State) : State :=
  let s := i.segs.foldl (fun s g =>
    { freeSegPages g.1 (returnBays g.1 s) with layer := { (returnBays g.1 s).layer with segs := tabDel s.layer.segs g.1 } }) s
  { s with coord := { s.coord with binds := s.coord.binds.filter fun b => b.heat ≠ i.heat },
           det := { s.det with steps := tabSet 0 s.det.steps i.heat 0, records := tabSet 0 s.det.records i.heat 0, ctxs := s.det.ctxs.filter fun c => c.heat ≠ i.heat },
           upd := { s.upd with rules := i.rules.foldl (fun (t : Tab (List Byte)) (e : Nat × List Byte) => tabDel t e.1) s.upd.rules,
                               states := s.upd.states.filter (fun u => u.heat ≠ i.heat),
                               tables := s.upd.tables.filter (fun t => t.heat ≠ i.heat) },
           pour := { s.pour with sets := i.sets.foldl (fun (t : Tab MSet) (e : Nat × MSet) => tabDel t e.1) s.pour.sets } }

/-- A resume ends. -/
def endResume (j : ResumeJob) (status : Nat) (body : List Byte) (s : State) : State :=
  finish j.cmd status body { s with det := { s.det with resumes := s.det.resumes.filter fun x => x.cmd ≠ j.cmd } }

/-- The image bytes of a resume. -/
def imageOf (j : ResumeJob) : List Byte := (j.image.flatMap (·.2)).take j.len

/-- Resumes whose segments are all placed, or of which one failed, are answered. -/
def settleResumes (s : State) : State :=
  s.det.resumes.foldl (fun s j => match j.placing, readImage (imageOf j) with
    | some segs, some i =>
      match segs.findSome? (fun g => match segOf g s with
          | some x => if x.placeErr ≠ 0 then some x.placeErr else none | none => some stInternalFault) with
      | some st => endResume j st [] (undoImage i s)
      | none => if segs.all (fun g => match segOf g s with | some x => x.state = .placed | none => false) then
          endResume j stDone (leBytes 4 i.heat) (incReg .deResumeCnt 0 s) else s
    | _, _ => s) s

/-- Every byte of the image has come: it is checked and restored, and its placed segments are placed again. -/
def applyResume (j : ResumeJob) (s : State) : State :=
  let b := imageOf j
  if shake256 64 b ≠ j.digest then endResume j stMismatch [] s
  else match readImage b with
    | none => endResume j stMismatch [] s
    | some i =>
      if imageClash i s then endResume j stBadState [] s
      else
        let st := bindCheck i.heat i.f i.c i.mask s
        if st ≠ stDone then endResume j st [] s
        else if i.ctx.isSome ∧ s.det.ctxs.length ≥ 1024 then endResume j stNoResource [] s
        else
          let s := restoreImage i s
          let placed := i.segs.filter fun g => g.2.2.2
          let s := placed.foldl (fun s g => startPlace g.1 g.2.1 none g.2.2.1 g.2.1.maxRows s) s
          let s := { s with det := { s.det with resumes := s.det.resumes.map fun x =>
            if x.cmd = j.cmd then { j with heat := i.heat, placing := some (placed.map (·.1)) } else x } }
          settleResumes s

/-- Image bytes of a GET_REPLY: its address word names the request, its argument the packet of the reply. -/
def takeImage (p : Packet) (s : State) : State :=
  s.det.resumes.foldl (fun s j =>
    let off := subMod p.addr j.offset (2 ^ 64) + 2560 * (p.args % 256)
    if j.endp ≠ p.src ∨ j.placing.isSome ∨ off ≥ j.len then s
    else
      let j' := { j with image := tabPut j.image off p.payload }
      let s := { s with det := { s.det with resumes := s.det.resumes.map fun x => if x.cmd = j.cmd then j' else x } }
      if sumNat (j'.image.map fun e => e.2.length) ≥ j.len then applyResume j' s else s) s

/-- A GET of a resume was given up or refused. -/
def failResume (id status : Nat) (s : State) : State :=
  match s.det.resumes.find? (fun j => j.placing.isNone && resumeReq j.cmd = id) with
  | some j => endResume j status [] s
  | none => s

/-! ### Placement events, which a resume may await -/

/-- SEGMENT_PLACED. -/
def execSegmentPlaced (seg : Nat) (s : State) : Out := decided s (.next (settleResumes (placeSegment seg s)))

/-- BAY_TRANSFER_TIMEOUT. -/
def execBayTransferTimeout (seg : Nat) (s : State) : Out := .next (settleResumes (missBays seg s))

/-! ### GET_REPLY at port 57 (R164, R244) -/

/-- Port 57 takes a GET_REPLY: acknowledged; the request it answers ends with the last packet. -/
def replyPort (p : Packet) (s : State) : State :=
  let jobs := s.det.resumes.filter fun j => j.endp = p.src
  let s := takeImage p (digestPacket p s)
  let s := if p.last then
      jobs.foldl (fun s j =>
        let l := s.net.streams.map fun o =>
          leaveUnacked (o.unacked.filter fun x => !(x.why = .request (resumeReq j.cmd) && x.pkt.addr = p.addr)) o
        { s with net := { s.net with streams := l } }) s
    else s
  portDone p true true (sendAnswer (mkAck p (ownEp 57 s) p.seq 1) s)

end Sys2Proof.Machine
end

