-- ==== Sys2Proof/Machine/Fence.lean ====
section
/-! DEFINITION. Fencing of endpoints and devices (R280, R281) and what a fence does to memory (R178, R180), trees (R284) and
Pours (R84). -/
namespace Sys2Proof.Machine

/-- How a whole device is named in fence lists and notices: by its port 56 (log entry 42). -/
def devEp (d : Nat) : Nat := epOf d 56

/-- The endpoint names a whole device. -/
def namesDev (e : Nat) : Bool := decide (portOf e ≥ 56)

/-- The fence list of ROUTE_FENCE_LIST. -/
def fenceList (s : State) : List Nat := s.route.fence ++ s.route.fenceDev.map devEp

/-! ### Memory (R178, R180) -/

/-- The book promotes a class 2 page's mirror: the home becomes the former mirror, DEGRADED is set, and a new mirror is
chosen (R178). The frame of another device's mirror is not in the entry and is a free value. -/
def promoteMirror (p lost : Nat) (s : State) : State :=
  let e := bookEntry p s
  let here := e.mirror = ownDev s
  let fr := if here then (mirrorFrame p s).getD 0 else freeNat s % frameTotal
  let new (e : PageEnt) : PageEnt := { e with state := pgValid, home := e.mirror, frame := fr, mirror := 0xFFF, degraded := true }
  let s := if here then putFrame fr (mapRec false p (new e) s) s else useFree s
  chooseMirror p lost (remap p new (markFlag detMigration s))

/-- One page of a served book meets the fence of a device: of its home, of its mirror, or of the target of its move. -/
def fencePage (d p : Nat) (s : State) : State :=
  let e := bookEntry p s
  if e.state = pgFree ∨ e.state = pgLost then s
  else if e.home = d then
    if e.cls ≠ 2 ∨ e.degraded ∨ e.mirror = 0xFFF ∨ fencedDev e.mirror s then losePage p 3 s
    else releaseWalks p (promoteMirror p d (endMoves (fun m => m.page = p) s))
  else if e.cls = 2 ∧ e.mirror = d then renewMirror p d s
  else if s.mem.moves.any (fun m => m.page = p && m.kind = .migrate && m.target = d) then
    let s := endMoves (fun m => m.page = p && m.kind = .migrate) s
    releaseWalks p (releaseHeld p (remap p (fun e => { e with state := pgValid }) s))
  else s

/-- Pages of the books this device serves. -/
def servedPages (s : State) : List Nat :=
  s.mem.book.map (fun e => ownDev s * 2 ^ 23 + e.1) ++
    (s.mem.partner.filter fun e => servesBook (pageBook e.1) s).map (·.1)

/-- Messages awaited from a fenced device are awaited no more, its forwarded requests are forgotten (R252 step 5), and its walks go to
its book partner (R158, R180). -/
def strikeDevice (d : Nat) (s : State) : State :=
  let done' := s.mem.frees.filter fun j => j.awaiting = [d]
  let frees := (s.mem.frees.filter fun j => j.awaiting ≠ [d]).map fun j => { j with awaiting := j.awaiting.filter (· ≠ d) }
  let invals := s.mem.invals.map fun i => { i with awaiting := i.awaiting.filter (· ≠ d) }
  let s := settleInvals { s with mem := { s.mem with frees := frees, invals := invals } }
  let s := done'.foldl (fun s j => performFree { j with awaiting := [] } s) s
  let s := { s with net := { s.net with fwdHome := s.net.fwdHome.filter fun e => e.entry ≠ d } }
  let walks := s.mem.walks.filter fun w => pageBook w.1 = d
  walks.foldl (fun s w => match bookServer d s with
    | some b => emit (.ctl b .walk [w.1] []) s
    | none =>
      let s := { s with mem := { s.mem with walks := s.mem.walks.filter fun x => x.1 ≠ w.1 } }
      w.2.foldl (fun s p => endRequest p (.nak stDataLost) s) s) s

/-- Requests this device forwarded to a fenced home: class 0 and 1 are answered DATA_LOST at once (R180). -/
def failForwarded (d : Nat) (s : State) : State :=
  let go := s.net.entry.filter fun e => e.home = d && gCls e.pkt.addr ≠ 2
  let s := { s with net := { s.net with entry := s.net.entry.filter fun e => !(e.home = d && gCls e.pkt.addr ≠ 2) } }
  go.foldl (fun s e => nakAs (ownEp 57 s) e.pkt stDataLost (incReg .meDataLostCnt 0 s)) s

/-- Writes that waited for a fenced mirror's confirmation are answered: no copy is left to wait for (R178). -/
def releaseMirrorWaits (d : Nat) (s : State) : State :=
  let waits (w : Packet × List Byte) : Bool := (mapEntry (gPage w.1.addr) s).any fun e => e.mirror = d
  let go := s.mem.mirrorWait.filter waits
  let s := { s with mem := { s.mem with mirrorWait := s.mem.mirrorWait.filter fun w => !waits w } }
  go.foldl (fun s w => endRequest w.1 (if w.2 = [] then .ack else .data w.2 0) s) s

/-- What the fence of a device does to memory. -/
def fenceMemory (d : Nat) (s : State) : State :=
  let s := releaseMirrorWaits d (failForwarded d (strikeDevice d s))
  (servedPages s).foldl (fun s p => fencePage d p s) s

/-! ### Taking a fence -/

/-- A new fence takes effect here: the list, trees (a fenced device's answer to a set-up is awaited no more, R283), Pours and memory, logged with the declaring device. -/
def takeFence (e declarer : Nat) (s : State) : State :=
  let d := devOf e
  let known := if namesDev e then fencedDev d s else s.route.fence.contains e
  if known then s
  else
    let s := if namesDev e then { s with route := { s.route with fenceDev := s.route.fenceDev ++ [d],
                                                                 probes := s.route.probes.filter fun x => x.1 ≠ d } }
      else { s with route := { s.route with fence := s.route.fence ++ [e] } }
    let s := logEvent 0x0203 sevW 0x20 0xFF
      (packFields [(4, e), (2, declarer)]) (markFlag detFence s)
    if namesDev e then
      let s := fencePours (fun x => devOf x = d) (some d) (pruneSets (fun x => devOf x = d) s)
      let s := (s.route.builds.map (·.tree)).foldl (fun s t => takeTreeReply d t true s) s
      if d = ownDev s then s else fenceMemory d s
    else fencePours (fun x => x = e) none (pruneLeaf e (pruneSets (fun x => x = e) s))

/-- A fence ends here. -/
def dropFence (e : Nat) (s : State) : State :=
  if namesDev e then
    { s with route := { s.route with fenceDev := s.route.fenceDev.filter (· ≠ devOf e),
                                     reports := s.route.reports.filter fun r => r.1 ≠ devOf e } }
  else { s with route := { s.route with fence := s.route.fence.filter (· ≠ e) } }

/-- Every other member of the own group that is present and not fenced. -/
def groupPeers (s : State) : List Nat :=
  ((List.range 16).map fun k => ownGroup s * 16 + k).filter fun d => d ≠ ownDev s && presentDev d s && !fencedDev d s

/-- Devices that a declaring device tells (R280): its own group, and one member of each other group. -/
def noticeTargets (s : State) : List Nat :=
  let others := (List.range (s.coord.count.getD 1)).filterMap fun g =>
    if g = ownGroup s then none
    else ((List.range 16).map fun k => g * 16 + k).find? fun d => !fencedDev d s
  groupPeers s ++ others

/-- This device declares a fence (R280): counted, taken here, and told. -/
def declareFence (e : Nat) (s : State) : State :=
  if fenceList s |>.contains e then s
  else
    let s := takeFence e (ownDev s) (incReg .rtFenceCnt 1 (incReg .rtFenceCnt 0 s))
    emitCtl (noticeTargets s) .fenceNotice [e, ownDev s] [] s

/-- This device ends a fence it declared (R281). -/
def declareUnfence (e : Nat) (s : State) : State :=
  if !(fenceList s).contains e then s
  else emitCtl (noticeTargets s) .unfenceNotice [e, ownDev s] [] (dropFence e s)

/-- A notice from another group is passed on to the members of this one. -/
def passNotice (peer e : Nat) (k : CtlKind) (s : State) : State :=
  if groupOf peer = ownGroup s then s else emitCtl ((groupPeers s).filter (· ≠ peer)) k [e, peer] [] s

/-- FENCE_NOTICE. -/
def execFenceNotice (peer endpoint : Nat) (s : State) : Out :=
  .next (if (fenceList s).contains endpoint then s
    else takeFence endpoint peer (passNotice peer endpoint .fenceNotice s))

/-- UNFENCE_NOTICE. -/
def execUnfenceNotice (peer endpoint : Nat) (s : State) : Out :=
  .next (if !(fenceList s).contains endpoint then s
    else dropFence endpoint (passNotice peer endpoint .unfenceNotice s))

/-! ### Probes of a GN-52 (R280) -/

/-- A suspected endpoint was found live: logged, and nothing is fenced. -/
def foundLive (e : Nat) (s : State) : State := logEvent 0x0204 sevI 0x20 0xFF (packFields [(4, e)]) s

/-- The lowest-numbered live member of the own group, a suspected device aside. -/
def lowestLive (suspect : Nat) (s : State) : Nat :=
  (((List.range 16).map fun k => ownGroup s * 16 + k).find? fun d =>
    d ≠ suspect && presentDev d s && !fencedDev d s).getD (ownDev s)

/-- Reports that make a device suspect: two of its group peers', or the one peer's where it has no second live peer (R280). -/
def reportsNeeded (d : Nat) (s : State) : Nat :=
  min 2 (((List.range 16).map fun k => groupOf d * 16 + k).filter fun x => x ≠ d && presentDev x s && !fencedDev x s).length

/-- Probe a device of the own group that two of its peers report lost, when this device is the one to declare. The probe goes
over a relay member: the lowest one both ends reach. -/
def probeIfDue (d : Nat) (s : State) : State :=
  let reports := (s.route.reports.filter fun r => r.1 = d).length
  if reports < reportsNeeded d s ∨ reports = 0 ∨ lowestLive d s ≠ ownDev s ∨ fencedDev d s ∨ groupOf d ≠ ownGroup s ∨ s.route.probes.any (fun x => x.1 = d)
  then s
  else
    let t := s.route.active
    let relay := ((List.range 16).find? fun k => k ≠ s.coord.member && k ≠ memberOf d
      && directUp t s (ownGroup s) s.coord.member k && directUp t s (ownGroup s) k (memberOf d)).getD (memberOf d)
    emit (.ctl d .probe [relay] [])
      { s with route := { s.route with probes := s.route.probes ++ [(d, relay, s.time.now)] } }

/-- A peer reports its direct link to a device of the own group lost, or back. -/
def noteReport (d peer : Nat) (lost : Bool) (s : State) : State :=
  let l := s.route.reports.filter fun r => r ≠ (d, peer)
  if lost then probeIfDue d { s with route := { s.route with reports := l ++ [(d, peer)] } }
  else { s with route := { s.route with reports := l } }

/-- FENCE_PROBE: the switch die of the probed device answers. -/
def execFenceProbe (peer : Nat) (s : State) : Out := .next (emit (.ctl peer .probeReply [ownDev s] []) s)

/-- FENCE_PROBE_REPLY: the device lives. -/
def execFenceProbeReply (device : Nat) (s : State) : Out :=
  .next (if s.route.probes.any (fun x => x.1 = device) then
      foundLive (devEp device) { s with route := { s.route with probes := s.route.probes.filter fun x => x.1 ≠ device } }
    else s)

/-- FENCE_PROBE_TIMEOUT: 10 µs after the probe. -/
def execFenceProbeTimeout (device : Nat) (s : State) : Out :=
  .next (match s.route.probes.find? (fun x => x.1 = device) with
    | none => s
    | some x =>
      let s := advanceTo (x.2.2 + 10000) s
      declareFence (devEp device) { s with route := { s.route with probes := s.route.probes.filter fun x => x.1 ≠ device } })

/-! ### Give-up reports (R244, R280) -/

/-- Cells wait for an endpoint's link. -/
def cellsWait (l : Nat) (s : State) : Bool := portQueues l s ≠ []

/-- When the present stall of an endpoint's credit began: the last grant, or the arrival of the oldest packet that waits. -/
def stallStart (l : Nat) (s : State) : Nat :=
  let heads := (portQueues l s).filterMap fun e => e.2.ents.head?.map (·.at')
  max (link l s).creditGrow (heads.foldl min s.time.now)

/-- A give-up report reaches the output device of the destination. -/
def takeGiveUp (e : Nat) (s : State) : State :=
  let d := devOf e
  let l := portOf e
  if namesDev e then
    (if d = ownDev s then foundLive e s
     else if groupOf d = ownGroup s then probeIfDue d s else s)
  else if d ≠ ownDev s ∨ !isEdge l then s
  else if reg .lkState l s ≠ 4 then declareFence e s
  else if !cellsWait l s then foundLive e s
  else if s.time.now ≥ stallStart l s + 100000 then declareFence e s
  else modLink l (fun k => { k with giveUpAt := some s.time.now }) s

/-- GIVE_UP_REPORT. -/
def execGiveUpReport (_peer endpoint : Nat) (s : State) : Out := .next (takeGiveUp endpoint s)

/-- ENDPOINT_CREDIT_STALL: 100 µs without credit under a give-up report. -/
def execEndpointCreditStall (l : Nat) (s : State) : Out :=
  if !isEdge l then .next s
  else .next (match (link l s).giveUpAt with
    | none => s
    | some _ =>
      let s := advanceTo (stallStart l s + 100000) (modLink l (fun k => { k with giveUpAt := none }) s)
      if cellsWait l s then declareFence (ownEp l s) s else foundLive (ownEp l s) s)

/-- This device gives up a packet: the output device of the destination is told (R244, R280). -/
def reportGiveUp (e : Nat) (s : State) : State :=
  if devOf e = ownDev s then takeGiveUp e s else emit (.ctl (devOf e) .giveUp [e] []) s

/-! ### Forwarded requests given up (R252 step 4) -/

/-- A copy is forwarded again, at most 4 times, then given up (R252 step 4); a re-forward after TABLE_FULL does not count (step 5). -/
def reforward (e : EntryCopy) (s : State) : State :=
  let src := e.pkt.src
  let stream := e.pkt.stream
  let seq := e.pkt.seq
  if e.tries ≥ 4 ∧ e.full = false then
    let s := logEvent 0x0202 sevW (0x38 + sendDie stream s) 0xFF
      (packFields [(4, epOf e.home 57), (4, stream), (4, seq)]) (incReg .scGiveupCnt (sendDie stream s) s)
    reportGiveUp (epOf e.home 57) (releaseFwd src stream (gPage e.pkt.addr) (dropCopy src stream seq s))
  else
    let l := s.net.entry.map fun x => if x.pkt.src = src ∧ x.pkt.stream = stream ∧ x.pkt.seq = seq then
      { x with at' := s.time.now, tries := if x.full then x.tries else x.tries + 1, full := false } else x
    launchFwd e.home e.pkt (countResend (sendDie stream s) { s with net := { s.net with entry := l } })

/-- RESEND_US passes without FWD_DONE. -/
def execFwdReforwardTimeout (src stream seq : Nat) (s : State) : Out :=
  match entryCopy src stream seq s with
  | none => .next s
  | some e =>
    if !e.sent then .next s
    else .next (reforward e (advanceTo (e.at' + resendNs s) s))

end Sys2Proof.Machine
end

