-- ==== Sys2Proof/Machine/Route.lean ====
section
/-! DEFINITION. Changes of the route tables (R261, R273 to R279), credits (R270 to R272), the Vent's escape (R265) and the commands of range
0x02xx (R288). -/
namespace Sys2Proof.Machine

/-! ### The tables (R261) -/

/-- A global link of a member of the own group is ACTIVE or not: the member's links, and its bit for the far group. -/
def withGlobal (s : State) (m l : Nat) (up : Bool) (t : RouteTables) : RouteTables :=
  let mask := putBit (tabGet 0 t.globals m) (l - 39) up
  match wiredTo (s.coord.count.getD 1) (ownGroup s) m l with
  | none => t
  | some e =>
    let g := groupOf e.dev
    let into := (List.range 9).any fun i => mask.testBit i &&
      (match wiredTo (s.coord.count.getD 1) (ownGroup s) m (39 + i) with | some x => groupOf x.dev = g | none => false)
    { t with globals := tabSet 0 t.globals m mask, members := tabSet 0 t.members g (putBit (tabGet 0 t.members g) m into) }

/-- The link between two members of a group is ACTIVE or not. -/
def withIntra (grp a b : Nat) (up : Bool) (t : RouteTables) : RouteTables :=
  if a = b then t else { t with intra := tabSet 0 t.intra grp (putBit (tabGet 0 t.intra grp) (pairBit a b) up) }

/-- The count a device's link is wired by: this device keeps one for each of its links (R197). -/
def wireCount (dev l : Nat) (s : State) : Nat := if dev = ownDev s then linkCount l s else s.coord.count.getD 1

/-- A change of any device's link, as far as the tables of this device hold it. -/
def withLink (s : State) (dev l : Nat) (up : Bool) (t : RouteTables) : RouteTables :=
  match wiredTo (wireCount dev l s) (groupOf dev) (memberOf dev) l with
  | none => t
  | some e =>
    if isIntra l then withIntra (groupOf dev) (memberOf dev) (memberOf e.dev) up t
    else if groupOf dev = ownGroup s then withGlobal s (memberOf dev) l up t
    else if groupOf e.dev = ownGroup s then withGlobal s (memberOf e.dev) e.link up t
    else t

/-- A change of an own link: the tables' own mask and its rate weight too (4, 2 or 1 at rate code 0, 1 or 2). -/
def withOwnLink (s : State) (l : Nat) (up : Bool) (t : RouteTables) : RouteTables :=
  let t := withLink s (ownDev s) l up t
  { t with linkUp := putBit t.linkUp l up, weights := if up then tabSet 4 t.weights l (4 / 2 ^ reg .lkRate l s) else t.weights }

/-- Write the shadow (R273). -/
def writeShadow (f : RouteTables → RouteTables) (s : State) : State :=
  { s with route := { s.route with shadow := f s.route.shadow } }

/-- Devices a change of an own link is sent to (R261). -/
def changeTargets (l : Nat) (s : State) : List Nat :=
  let ds := if isIntra l then List.range (16 * s.coord.count.getD 1)
    else match farEnd l s with
      | some e => (List.range 16).map (ownGroup s * 16 + ·) ++ (List.range 16).map (groupOf e.dev * 16 + ·)
      | none => []
  ds.filter fun d => d ≠ ownDev s && presentDev d s && !fencedDev d s

/-- Destination groups whose routes a device's link serves: of a global link the far group, seen from either of its groups;
of an intra-group link the group itself and, at its ends, the groups that the far member is a gateway for. -/
def servedGroups (dev l : Nat) (s : State) : List Nat :=
  match wiredTo (wireCount dev l s) (groupOf dev) (memberOf dev) l with
  | none => []
  | some e =>
    if isIntra l then
      groupOf dev :: (if dev ≠ ownDev s then [] else
        (List.range (s.coord.count.getD 1)).filter fun g => g ≠ ownGroup s && (tabGet 0 s.route.active.members g).testBit (memberOf e.dev))
    else if groupOf dev = ownGroup s then [groupOf e.dev]
    else if groupOf e.dev = ownGroup s then [groupOf dev]
    else []

/-- Pin new packets for some groups; 0 marks a pin whose change has not flipped. -/
def pinGroups (gs : List Nat) (s : State) : State :=
  { s with route := { s.route with pinned := gs.foldl (fun t g => tabPut t g 0) s.route.pinned } }

/-! ### The procedure (R275 to R277) -/

/-- A change of an own link, if one is under way. -/
def changeOf (l : Nat) (s : State) : Option RouteChange := s.route.changes.find? (fun c => c.link = l)

/-- Replace or end a link's change. -/
def putChange (l : Nat) (c : Option RouteChange) (s : State) : State :=
  { s with route := { s.route with changes := (s.route.changes.filter fun x => x.link ≠ l) ++ c.toList } }

/-- Every acknowledgement is there: a link to be added may flip, a closing one drains (R275 steps 2 and 3, R277). -/
def settleAcks (l : Nat) (s : State) : State :=
  match changeOf l s with
  | none => s
  | some c =>
    if c.awaiting ≠ [] ∨ c.step ≠ 2 then s
    else if c.add then writeShadow (withOwnLink s l true) (putChange l (some { c with step := 4, since := s.time.now }) s)
    else putChange l (some { c with step := 3, since := s.time.now }) s

/-- Steps 1 and 2: the link is CLOSING or being added, new packets are pinned, and the change is sent. -/
def startChange (l : Nat) (add : Bool) (cmd : Option CmdRef) (powerOff : Bool) (s : State) : State :=
  let s := pinGroups (servedGroups (ownDev s) l s) (modLink l (fun k => { k with closing := !add }) s)
  let ds := changeTargets l s
  let c : RouteChange := { link := l, add := add, awaiting := ds, step := 2, since := s.time.now, cmd := cmd, powerOff := powerOff }
  let s := emitCtl ds .routeUpdate [ownDev s, l, b2n add] [] (putChange l (some c) s)
  let s := if add then s else match farEnd l s with
    | some e => emit (.ctl e.dev .closeAsk [e.link] []) s
    | none => s
  settleAcks l s

/-- Reopen a link whose close failed: the shadow keeps nothing of it, and the devices told are told again (R276). -/
def reopenLink (l : Nat) (c : RouteChange) (s : State) : State :=
  let s := putChange l none (modLink l (fun k => { k with closing := false }) s)
  let gs := servedGroups (ownDev s) l s
  let s := { s with route := { s.route with pinned := s.route.pinned.filter fun e => !(gs.contains e.1 && e.2 = 0) } }
  let s := if c.add then s else emitCtl (changeTargets l s) .routeUpdate [ownDev s, l, 1] [] s
  let o := (link l s).openCmd
  finishOpt o stBadState [] (finishOpt c.cmd stBadState [] (modLink l (fun k => { k with openCmd := none }) s))

/-- Power a link down (R219 OFF, R275 step 5); the endpoint of an ACTIVE edge link is fenced (R280). -/
def powerDown (l : Nat) (s : State) : State :=
  let was := reg .lkState l s
  let s := setReg .lkP1 l 0 (setReg .lkLevel l 0 (setLinkState l 0 s))
  let s := modLink l (fun k => { k with step := 0, closing := false, restartAt := none, identSeen := false, peerSeen := false,
                                        checksDone := false, rxSwapJob := none, txSwapJob := none }) s
  if isEdge l ∧ was = 4 then declareFence (ownEp l s) s else s

/-- The shadow becomes active on both dies (R273), the changes that waited for it end, and pinning runs 1 ms more. -/
def flipTables (s : State) : State :=
  let ready := s.route.changes.filter fun c => c.step = 4
  let left := s.route.changes.filter fun c => c.step ≠ 4
  let held := left.flatMap fun c => servedGroups (ownDev s) c.link s
  let pins := s.route.pinned.map fun e => if e.2 = 0 ∧ ¬ held.contains e.1 then (e.1, s.time.now + 1000000) else e
  let g := reg .rtGen 0 s + 1
  let s := { s with route := { s.route with active := s.route.shadow, changes := left, pinned := pins } }
  let s := markFlag detRoute (setReg .rtGen 1 g (setReg .rtGen 0 g s))
  ready.foldl (fun s c =>
    let s := finishOpt c.cmd stDone [] (if c.add ∨ ¬ c.powerOff then s else powerDown c.link s)
    if c.add then
      let o := (link c.link s).openCmd
      finishOpt o stDone [] (modLink c.link (fun k => { k with openCmd := none }) s)
    else s) s

/-- ROUTE_TABLE_FLIP. -/
def execRouteTableFlip (s : State) : Out :=
  .next (if s.route.shadow = s.route.active ∧ ¬ s.route.changes.any (fun c => c.step = 4) then s else flipTables s)

/-- ROUTE_UPDATE: another device's change is written to the shadow and acknowledged. A change of the far end of an own
ACTIVE link that takes it out of service closes this end too (R275), and one that puts it back reopens this end (R276); the loss of a link inside the group is a report about its
far device (R280). -/
def execRouteUpdate (peer l : Nat) (add : Bool) (s : State) : Out :=
  .next (
    let s := writeShadow (withLink s peer l add) (pinGroups (servedGroups peer l s) s)
    let s := emit (.ctl peer .routeAck [ownDev s, l] []) s
    match wiredTo (s.coord.count.getD 1) (groupOf peer) (memberOf peer) l with
    | none => s
    | some e =>
      if e.dev = ownDev s then
        (match changeOf e.link s with
          | none => if !add && reg .lkState e.link s = 4 then startChange e.link false none true s else s
          | some c => if add && !c.add && c.step ≠ 4 then reopenLink e.link c s else s)
      else if isIntra l ∧ groupOf peer = ownGroup s then noteReport e.dev peer (!add) s
      else s)

/-- ROUTE_CHANGE_ACK. -/
def execRouteChangeAck (peer l : Nat) (s : State) : Out :=
  .next (match changeOf l s with
    | none => s
    | some c => settleAcks l (putChange l (some { c with awaiting := c.awaiting.filter (· ≠ peer) }) s))

/-- A closing link is quiet: its output queues are empty and every VC's credit is back at its allowance (R275 step 3). -/
def linkQuiet (l : Nat) (s : State) : Bool :=
  portQueues l s = [] && (List.range 8).all fun v => creditAvail l v s = (vcOf l v s).farA

/-- LINK_DRAINED. -/
def execLinkDrained (l : Nat) (s : State) : Out :=
  if l ≥ 52 then .next s
  else .next (match changeOf l s with
    | none => s
    | some c =>
      if c.add ∨ c.step ≠ 3 ∨ ¬ linkQuiet l s then s
      else writeShadow (withOwnLink s l false) (putChange l (some { c with step := 4, since := s.time.now }) s))

/-- DRAIN_TIMEOUT: step 2 exceeds 20 µs, or step 3 DRAIN_MAX. -/
def execDrainTimeout (l : Nat) (s : State) : Out :=
  if l ≥ 52 then .next s
  else .next (match changeOf l s with
    | none => s
    | some c =>
      if c.step = 4 then s
      else reopenLink l c (advanceTo (c.since + (if c.step = 2 then 20000 else reg .rtDrainMax 0 s * 1000)) s))

/-- PINNING_END: 1 ms after a flip. -/
def execPinningEnd (group : Nat) (s : State) : Out :=
  .next (match tabFind s.route.pinned group with
    | none => s
    | some t => if t = 0 then s else
      let s := advanceTo t s
      { s with route := { s.route with pinned := tabDel s.route.pinned group } })

/-! ### A link lost, or up again (R277, R279, R280, R284) -/

/-- Trees that use an own link are repaired by their roots (R284). -/
def repairTrees (l : Nat) (s : State) : State :=
  let hit := s.route.trees.filter fun e => e.2.out.testBit l
  hit.foldl (fun s e =>
    if e.2.root = ownDev s then (match execTreeLinkRepair (ownDev s) e.2.tree l s with | .next t => t | _ => s)
    else emit (.ctl e.2.root .treeRepair [ownDev s, e.2.tree, l] []) s) s

/-- A link leaves ACTIVE without a drain (R279): queued packets are discarded, a fabric link leaves the tables at once and
the others are told; the endpoint of an edge link is fenced (R280). -/
def linkGone (l : Nat) (s : State) : State :=
  let s := discardPort l s
  if isEdge l then declareFence (ownEp l s) s
  else
    let s := match changeOf l s with
      | some c => finishOpt c.cmd stBadState [] (putChange l none s)
      | none => s
    let s := modLink l (fun k => { k with closing := false }) s
    if !s.route.active.linkUp.testBit l then s
    else
      let ds := changeTargets l s
      let s := flipTables (writeShadow (withOwnLink s l false) s)
      let s := emitCtl ds .routeUpdate [ownDev s, l, 0] [] s
      let s := repairTrees l s
      match farEnd l s with
      | some e => if isIntra l then noteReport e.dev (ownDev s) true s else s
      | none => s

/-- A link reaches ACTIVE: a fabric link enters service by R277, the endpoint of an edge link returns (R281). -/
def linkInService (l : Nat) (s : State) : State :=
  if isEdge l then declareUnfence (ownEp l s) s
  else
    let s := match farEnd l s with
      | some e => if isIntra l then
          noteReport e.dev (ownDev s) false { s with coord := { s.coord with seen := withBit s.coord.seen (memberOf e.dev) } } else s
      | none => s
    startChange l true none false s

/-! ### Credits (R270, R271, R302) -/

/-- The four counts of a half-block and their VCs. -/
def halfVcs (h : Nat) : List Nat := (List.range 4).map (4 * h + ·)

/-- The CREDIT block of a half (R269). -/
def creditBlock (l h : Nat) (s : State) : List Byte :=
  controlBlock ([0x01#8] ++ leBytes 1 h ++ (halfVcs h).flatMap fun v => leBytes 3 (vcOf l v s).c)

/-- Send one half-block now. -/
def sendCredit (l h : Nat) (s : State) : State :=
  let s := sendBlock l (creditBlock l h s) s
  (halfVcs h).foldl (fun s v => modVc l v (fun c => { c with lastC := c.c, lastAt := s.time.now }) s) s

/-- CREDIT_SEND_TICK: within 100 ns of a count's growth by 256, else 1 µs after the last block. -/
def execCreditSendTick (l h : Nat) (s : State) : Out :=
  if l ≥ 52 ∨ h ≥ 2 then .next s
  else .next (
    let up := reg .lkState l s = 3 || reg .lkState l s = 4 || (reg .lkState l s = 1 && (link l s).step = 7)
    if !up then s
    else
      let grown := (halfVcs h).any fun v => decide (subMod (vcOf l v s).c (vcOf l v s).lastC (2 ^ 24) ≥ 256)
      sendCredit l h (if grown then s else advanceTo ((vcOf l (4 * h) s).lastAt + 1000) s))

/-- The counts of a received CREDIT block; the first of a training are the far end's allowances. -/
def takeCounts (l h : Nat) (counts : List Nat) (s : State) : State :=
  let first := !(link l s).creditSeen.testBit h
  let grew := (List.range 4).any fun i => (vcOf l (4 * h + i) s).far ≠ counts.getD i 0 % 2 ^ 24
  let s := (List.range 4).foldl (fun s i => modVc l (4 * h + i) (fun c =>
    let n := counts.getD i 0 % 2 ^ 24
    { c with far := n, farA := if first then n else c.farA }) s) s
  let s := modLink l (fun k => { k with creditRx := s.time.now, creditSeen := withBit k.creditSeen h,
                                        creditGrow := if grew then s.time.now else k.creditGrow }) s
  if grew && (link l s).giveUpAt.isSome then foundLive (ownEp l s) (modLink l (fun k => { k with giveUpAt := none }) s) else s

/-- Credit at the start of step 7 of a training: each count at its allowance, nothing sent (R270, R272). -/
def resetCredit (l : Nat) (s : State) : State :=
  let s := modLink l (fun k => { k with creditSeen := 0, creditRx := s.time.now }) s
  (List.range 8).foldl (fun s v => modVc l v (fun c =>
    { c with allow := c.allowCfg, c := c.allowCfg % 2 ^ 24, sent := 0, far := 0, farA := 0, x := 0, lastC := c.allowCfg,
             lastAt := s.time.now }) s) s

/-- LEVEL_FALL_RELEASE (R302 item 2). -/
def execLevelFallRelease (l v : Nat) (s : State) : Out :=
  if l ≥ 52 ∨ v ≥ 5 then .next s else .next (releaseLevel l v s)

/-! ### The Vent (R265) -/

/-- Take the head packet off a queue without sending it. -/
def unqueueHead (i : Nat) (q : OutQueue) (s : State) : State :=
  match q.ents with
  | [] => s
  | _ :: r =>
    let q' : OutQueue := match r with
      | [] => { q with ents := [] }
      | n :: r' => { q with ents := { n with headAt := s.time.now } :: r', tag := headTag q false n.cells s }
    if q'.ents = [] ∧ q'.dflt then delQueue i s else putQueue i q' s

/-- A fabric link that has a far end is not ACTIVE: an escape then is one under loss (R332; DEDUCED, log entry 130). -/
def underLoss (s : State) : Bool := (List.range 48).any fun l => linkUsed l s && decide (reg .lkState l s ≠ 4)

/-- The head of a queue has waited VENT_WAIT for credit: it is counted, and at an escape point it moves to VC 5 of its Vent
route; its cells stay where they are (a multicast copy stays on its link, R283). -/
def ventHead (i : Nat) (q : OutQueue) (e : QEnt) (s : State) : State :=
  let s := incReg .crWaitCnt (16 * q.port + q.vc) s
  let go := fun (l : Nat) (p : Packet) (s : State) =>
    let s := if underLoss s then markFlag detRoute s else s
    enqueue l 5 p e.cells e.hold (incReg .rtVentCnt (dieOfLink l) (unqueueHead i q s))
  let vented := fun (ghops : Nat) => { e.pkt with
    route := mkRoute (rsVia e.pkt) (rsNonmin e.pkt) true (rsDl e.pkt) (rsHops e.pkt) ghops }
  if e.pkt.mcast then go q.port (vented (rsGhops e.pkt)) s
  else if !isEscape s.route.active s (devOf e.pkt.dst) then s
  else match ventLink s.route.active s e.pkt with
    | none => s
    | some (l, br) =>
      let ghops := rsGhops e.pkt - (if isGlobal q.port then 1 else 0) + (if isGlobal l then 1 else 0)
      let s := if br then noteBreach (dieOfLink l) s else s
      go l (vented ghops) s

/-- VENT_ESCAPE: a head that its window holds back does not wait for credit (R311). -/
def execVentEscape (queue : Nat) (s : State) : Out :=
  .next (match queueOf queue s with
    | none => s
    | some q => match q.ents with
      | [] => s
      | e :: _ =>
        if q.vc ≥ 5 ∨ ¬ isFabric q.port ∨ creditAvail q.port q.vc s ≥ e.cells ∨ ¬ classOpen q.port q.vc s
            ∨ ¬ fitsWindow q.port q.vc e.cells s then s
        else ventHead queue q e (advanceTo (e.headAt + reg .rtVentWait 0 s) s))

/-! ### Commands of range 0x02xx (R288) -/

/-- Set a field on both dies. -/
def setBoth (f : Fld) (v : Nat) (s : State) : State := setReg f 1 v (setReg f 0 v s)

/-- ROUTE_STATUS. -/
def execRouteStatus (m : CmdMeta) (s : State) : Out :=
  command m 0x0200 (fun c s => answer c stDone (packFields [(2, reg .rtGen 0 s), (1, reg .rtSpread 0 s), (1, reg .rtTest 0 s),
    (4, (fenceList s).length)]) s) s

/-- ROUTE_LINK_CLOSE. -/
def execRouteLinkClose (m : CmdMeta) (link' : Nat) (s : State) : Out :=
  command m 0x0201 (fun c s =>
    if !isFabric link' then refuse c stBadParam s
    else if reg .lkState link' s ≠ 4 ∨ (link link' s).closing ∨ (changeOf link' s).isSome then refuse c stBadState s
    else accept c (startChange link' false (some c) true) s) s

/-- A link may be opened by command: ACTIVE and not in service, or powered down and able to train (log entry 43). -/
def mayOpen (l : Nat) (s : State) : Bool :=
  let st := reg .lkState l s
  (changeOf l s).isNone && (link l s).openCmd.isNone &&
    ((st = 4 && !s.route.active.linkUp.testBit l) || (st = 0 && (farEnd l s).isSome && flag .lkEnable l s))

/-- ROUTE_PARAM_SET. -/
def execRouteParamSet (m : CmdMeta) (ventWait nmBias drainMax : Nat) (s : State) : Out :=
  command m 0x0203 (fun c s =>
    requires (decide (100 ≤ ventWait) && decide (ventWait < 65536) && decide (nmBias < 65536) && decide (10 ≤ drainMax)
      && decide (drainMax < 65536)) c stBadParam
      (fun s => done c (setBoth .rtVentWait ventWait (setBoth .rtNmBias nmBias (setBoth .rtDrainMax drainMax s)))) s) s

/-- ROUTE_SPREAD (R274): the first enabling ends start-up (R253). -/
def execRouteSpread (m : CmdMeta) (on : Nat) (s : State) : Out :=
  command m 0x0204 (fun c s =>
    requires (decide (on ≤ 1)) c stBadParam (fun s =>
      let s := if on = 1 then { s with route := { s.route with startUp := false } } else s
      done c (setBoth .rtSpread on s)) s) s

/-- ROUTE_TEST (R253). -/
def execRouteTest (m : CmdMeta) (on : Nat) (s : State) : Out :=
  command m 0x0205 (fun c s => requires (decide (on ≤ 1)) c stBadParam (fun s => done c (setBoth .rtTest on s)) s) s

/-- ROUTE_RESERVE (R278): bits 0 to 23 of the mask are links 24 to 47; Heat 0 clears. -/
def execRouteReserve (m : CmdMeta) (mask heat : Nat) (s : State) : Out :=
  command m 0x0206 (fun c s =>
    let ls := (bitList 24 mask).map (· + 24)
    if mask ≥ 2 ^ 24 then refuse c stBadParam s
    else if heat = 0 then
      done c { s with route := { s.route with reserved := ls.foldl tabDel s.route.reserved } }
    else if ls.any (fun l => reservedAgainst s heat l) then refuse c stBadState s
    else done c { s with route := { s.route with reserved := ls.foldl (fun t l => tabPut t l heat) s.route.reserved } }) s

/-- Configured allowances of every link and VC, one replaced. -/
def allowSum (l v a : Nat) (vcs : List Nat) (s : State) : Nat :=
  sumNat ((List.range 52).flatMap fun k => vcs.map fun w => if k = l ∧ w = v then a else (vcOf k w s).allowCfg)

/-- ROUTE_CREDIT_SET (R272, R297): in force at the link's next training. An edge link grants no credit on VCs 5 to 7 (R257). -/
def execRouteCreditSet (m : CmdMeta) (link' vc allowance : Nat) (s : State) : Out :=
  command m 0x0210 (fun c s =>
    if link' ≥ 52 ∨ vc ≥ 8 ∨ (¬ isFabric link' ∧ vc ≥ 5) ∨ allowance < 65 ∨ allowance > 4194304 then refuse c stBadParam s
    else if allowSum link' vc allowance (List.range 8) s > 5242880
        ∨ allowSum link' vc allowance [5, 6, 7] s > min (reg .tuReserve 0 s) (reg .tuReserve 1 s) - 16384 then
      refuse c stNoResource s
    else done c (modVc link' vc (fun x => { x with allowCfg := allowance }) s)) s

/-- ROUTE_TREE_READ (R282): an entry this device does not hold reads as none, BAD_PARAM. -/
def execRouteTreeRead (m : CmdMeta) (root tree : Nat) (s : State) : Out :=
  command m 0x0220 (fun c s =>
    match tabFind s.route.trees (treeKey root tree) with
    | some e => if root < 2320 ∧ tree < 2 ^ 18 then answer c stDone (treeBytes e) s else refuse c stBadParam s
    | none => refuse c stBadParam s) s

/-- ROUTE_FENCE_LIST. -/
def execRouteFenceList (m : CmdMeta) (first : Nat) (s : State) : Out :=
  command m 0x0221 (fun c s =>
    if first > (fenceList s).length then refuse c stBadParam s
    else answer c stDone ((((fenceList s).drop first).take 256).flatMap (leBytes 4)) s) s

/-- ROUTE_STATS: the counters of R286 of both dies. -/
def execRouteStats (m : CmdMeta) (s : State) : Out :=
  command m 0x0230 (fun c s => answer c stDone (readWords 0x20000010 7 s ++ readWords 0x21000010 7 s) s) s

end Sys2Proof.Machine
end

