-- ==== Sys2Proof/Machine/Sched.lean ====
section
/-! DEFINITION. Time windows, policers, sampling and the commands of range 0x04xx (R314 to R327). -/
namespace Sys2Proof.Machine

/-! ### Windows (R314 to R320) -/

/-- A window deadline fault (R320): bound packets of a class are left when the window closes. -/
def windowFault (p idx cls left : Nat) (s : State) : State :=
  let s := setReg .sdSchedFault p (withBit (reg .sdSchedFault p s) cls) (incReg .sdDlMissCnt p s)
  logEvent 0x0401 sevW 0x40 p (packFields [(1, 3), (2, idx), (1, cls), (4, left)]) s

/-- Packets of a class still bound at a port. -/
def boundLeft (p cls : Nat) (s : State) : Nat :=
  sumNat (s.sw.queues.map fun e => if e.2.port = p ∧ e.2.vc = cls then (e.2.ents.filter (·.bound)).length else 0)

/-- Mark the packets that stand in a port's queues of some classes as bound, or no packet of the port. -/
def bindPackets (p mask : Nat) (s : State) : State :=
  { s with sw := { s.sw with queues := s.sw.queues.map fun e =>
      if e.2.port ≠ p ∨ e.2.vc ≥ 5 then e
      else (e.1, { e.2 with ents := e.2.ents.map fun x => { x with bound := mask.testBit e.2.vc } }) } }

/-- The open window of a port closes: a DL window is judged (R320). -/
def closeWindow (p : Nat) (s : State) : State :=
  match (schedOf p s).openWin with
  | none => s
  | some i =>
    let e := (activeTable p s).getD i 0
    let s := if winDl e then
        (bitList 5 (winOpen e)).foldl (fun s c => let n := boundLeft p c s; if n = 0 then s else windowFault p i c n s) s
      else s
    modSched p (fun k => { k with openWin := none }) (bindPackets p 0 s)

/-- The window that contains the present phase opens: a DL window binds the packets that stand in its classes. -/
def openWindow (p : Nat) (s : State) : State :=
  match windowAt (activeTable p s) (phaseAt p (timeBase s) s) with
  | none => s
  | some (i, e) =>
    let s := modSched p (fun k => { k with openWin := some i }) s
    if winDl e then bindPackets p (winOpen e) s else s

/-- The window that should be open is open. -/
def settleWindow (p : Nat) (s : State) : State :=
  if !flag .sdWinOn p s || (schedOf p s).halted then s
  else
    let cur := (windowAt (activeTable p s) (phaseAt p (timeBase s) s)).map (·.1)
    if cur = (schedOf p s).openWin then s else openWindow p (closeWindow p s)

/-- Set CUR_START. -/
def setCurStart (p t : Nat) (s : State) : State :=
  setReg .sdCurStartHi p (t % 2 ^ 48 / 2 ^ 32) (setReg .sdCurStartLo p (t % 2 ^ 32) s)

/-- WINDOW_EDGE: time passes to the next edge of the port's cycle. -/
def execWindowEdge (port : Nat) (s : State) : Out :=
  onUnit (decide (port < 52)) s (
    if !flag .sdWinOn port s || (schedOf port s).halted then s
    else
      let ph := phaseAt port (timeBase s) s
      let es := (edgesAfter (activeTable port s) (reg .sdCycleNs port s) ph).filter fun x => decide (x < reg .sdCycleNs port s)
      match es.foldl (fun m x => match m with | none => some x | some y => some (min x y)) none with
      | none => settleWindow port s
      | some x => settleWindow port (advance (x - ph) s))

/-- CYCLE_START: CUR_START advances by CYCLE_NS, and a schedule halted by a time step resumes (R318, R319). -/
def execCycleStart (port : Nat) (s : State) : Out :=
  onUnit (decide (port < 52)) s (
    if !flag .sdWinOn port s then s
    else
      let cyc := reg .sdCycleNs port s
      let d := subMod (timeBase s) (curStart port s) (2 ^ 48)
      let s := advance (cyc - d) s
      let s := setCurStart port (curStart port s + cyc) (closeWindow port s)
      openWindow port (modSched port (fun k => { k with halted := false }) s))

/-- A step of the time base closes every class of a schedule; a DL window cut short is judged (R319). -/
def haltSchedule (p : Nat) (s : State) : State :=
  if !flag .sdWinOn p s then s else modSched p (fun k => { k with halted := true }) (closeWindow p s)

/-- After a step, the schedule's next cycle start is computed from CUR_START against the new time (R319). -/
def realignSchedule (p : Nat) (s : State) : State :=
  if !flag .sdWinOn p s then s
  else
    let cyc := reg .sdCycleNs p s
    let cur := curStart p s
    let d := subMod (timeBase s) cur (2 ^ 48)
    let next := if d < 2 ^ 47 then cur + ceilDiv d cyc * cyc else cur + 2 ^ 48 - (2 ^ 48 - d) / cyc * cyc
    setCurStart p (next + 2 ^ 48 - cyc) s

/-- SCHEDULE_FLIP: the shadow table becomes active, or the schedule is removed (R316). -/
def execScheduleFlip (port : Nat) (s : State) : Out :=
  onUnit (decide (port < 52)) s (match (schedOf port s).flip with
    | none => s
    | some j =>
      let s := advance (flipWait port j.at' s) s
      let s := modSched port (fun k => { k with flip := none, halted := false }) (closeWindow port s)
      let s := if j.off then
          setReg .sdWinOn port 0 (setReg .sdEntries port 0 (setReg .sdCycleNs port 0 (setReg .sdIdleMask port 31 s)))
        else
          let s := setReg .sdActiveTable port (1 - reg .sdActiveTable port s) (setReg .sdEntries port j.count s)
          let s := setReg .sdIdleMask port j.idle (setReg .sdGuardNs port j.guard (setReg .sdCycleNs port j.cycle s))
          openWindow port (setCurStart port (timeBase s) (setReg .sdWinOn port 1 s))
      finish j.cmd stDone [] s)

/-! ### Policers (R324, R325) -/

/-- The policer of a packet on an edge link: its stream's, else its class's; the flag says which. -/
def policerOf (l : Nat) (p : Packet) (s : State) : Option (Bool × Nat × Policer) :=
  match tabFind (schedOf l s).streams (p.stream * 8 + p.cls) with
  | some x => some (true, p.stream * 8 + p.cls, x)
  | none => (tabFind (schedOf l s).classes p.cls).map fun x => (false, p.cls, x)

/-- Store a policer. -/
def putPolicer (l : Nat) (stream : Bool) (key : Nat) (x : Policer) (s : State) : State :=
  modSched l (fun k => if stream then { k with streams := tabPut k.streams key x } else { k with classes := tabPut k.classes key x }) s

/-- Police a packet that passed R201: whether it conforms, with the tokens taken or the drop counted and logged (R325). -/
def police (l : Nat) (p : Packet) (s : State) : Bool × State :=
  match policerOf l p s with
  | none => (true, s)
  | some (st, key, x) =>
    let h := cellsOf p
    if x.tokens ≥ h then (true, putPolicer l st key { x with tokens := x.tokens - h } s)
    else
      let s := incReg .sdPolicedCnt l s
      let recent := x.logAt.any fun t => decide (s.time.now < t + 1000000000)
      (false, if recent then s else logEvent 0x0402 sevI 0x40 l (packFields [(4, p.stream), (1, p.cls)])
        (putPolicer l st key { x with logAt := some s.time.now } s))

/-- One refill of a policer. -/
def refill (x : Policer) : Policer := { x with tokens := min x.b (x.tokens + x.r) }

/-- POLICER_REFILL: every 1,024 ns. -/
def execPolicerRefill (port : Nat) (s : State) : Out :=
  onUnit (decide (port < 52) && isEdge port) s (
    let k := schedOf port s
    if k.streams = [] ∧ k.classes = [] then s
    else modSched port (fun k => { k with streams := k.streams.map fun e => (e.1, refill e.2),
                                          classes := k.classes.map fun e => (e.1, refill e.2),
                                          refillAt := k.refillAt + 1024 }) (advanceTo (k.refillAt + 1024) s))

/-! ### Commands of range 0x04xx (R327) -/

/-- A command about a link port: above 51, BAD_PARAM. -/
def portCommand (m : CmdMeta) (op port : Nat) (k : CmdRef → State → State) (s : State) : Out :=
  command m op (fun c s => requires (decide (port < 52)) c stBadParam (k c) s) s

/-- SCHED_STATUS. -/
def execSchedStatus (m : CmdMeta) (port : Nat) (s : State) : Out :=
  portCommand m 0x0400 port (fun c s => answer c stDone (readWords (0x40000000 + port * 0x1000) 8 s) s) s

/-- Set one class weight of a port. -/
def setClassWeight (cls w : Nat) (p : Nat) (s : State) : State :=
  if cls = 4 then setReg .sdClassW4 p w s
  else
    let old := reg .sdClassW03 p s
    setReg .sdClassW03 p (old - bitsOf old (8 * cls + 7) (8 * cls) * 2 ^ (8 * cls) + w * 2 ^ (8 * cls)) s

/-- SCHED_CLASS_WEIGHT. -/
def execSchedClassWeight (m : CmdMeta) (port cls weight : Nat) (s : State) : Out :=
  command m 0x0401 (fun c s =>
    requires ((decide (port < 52) || port = 0xFF) && decide (cls ≤ 4) && decide (1 ≤ weight) && decide (weight ≤ 255)) c stBadParam
      (fun s => done c ((if port = 0xFF then List.range 52 else [port]).foldl (fun s p => setClassWeight cls weight p s) s)) s) s

/-- SCHED_QUEUE_WEIGHT. -/
def execSchedQueueWeight (m : CmdMeta) (queue weight : Nat) (s : State) : Out :=
  command m 0x0402 (fun c s =>
    if queue < 440 ∨ queue ≥ 262144 ∨ weight = 0 ∨ weight > 255 then refuse c stBadParam s
    else match tabFind s.sw.queues queue with
      | none => refuse c stBadState s
      | some q => if q.port ≥ 52 then refuse c stBadParam s else done c (putQueue queue { q with weight := weight } s)) s

/-- Change the shadow table of a port. -/
def modShadow (p : Nat) (f : Tab Nat → Tab Nat) (s : State) : State :=
  if flag .sdActiveTable p s then modSched p (fun k => { k with table0 := f k.table0 }) s
  else modSched p (fun k => { k with table1 := f k.table1 }) s

/-- The shadow table of a port, from an index. -/
def shadowTable (p first n : Nat) (s : State) : List Nat :=
  tabRange 0 (if flag .sdActiveTable p s then (schedOf p s).table0 else (schedOf p s).table1) first n

/-- SCHED_WIN_WRITE. -/
def execSchedWinWrite (m : CmdMeta) (port first : Nat) (entries : List Nat) (s : State) : Out :=
  portCommand m 0x0410 port (fun c s =>
    if entries = [] ∨ entries.length > 128 then refuse c stBadLength s
    else if first + entries.length > 1024 ∨ entries.any (fun e => decide (e ≥ 2 ^ 62)) then refuse c stBadParam s
    else if (schedOf port s).flip.isSome then refuse c stBadState s
    else done c (modShadow port (fun t => tabFill 0 t first entries) s)) s

/-- Each entry ends at or before the next one starts. -/
def windowsApart : List Nat → Bool
  | [] => true
  | [_] => true
  | a :: b :: r => decide (winStart a < winStart b) && decide (winStart a + winLen a ≤ winStart b) && windowsApart (b :: r)

/-- The conditions of R315 on a table. -/
def windowsOk (es : List Nat) (cycle guard : Nat) : Bool :=
  decide (1000 ≤ cycle) && decide (cycle < 2 ^ 32) && windowsApart es && decide (guard ≤ 1000) &&
  es.all fun e => decide (winStart e + winLen e ≤ cycle) && decide (winLen e ≥ guard + 59) && winOpen e ≠ 0

/-- ACTIVATE_AT lies 0 to 2^47 − 1 ns ahead. -/
def activateOk (at' : Nat) (s : State) : Bool := decide (at' < 2 ^ 48) && decide (subMod at' (timeBase s) (2 ^ 48) < 2 ^ 47)

/-- SCHED_WIN_COMMIT. -/
def execSchedWinCommit (m : CmdMeta) (port count cycleNs idleMask guardNs activateAt : Nat) (s : State) : Out :=
  portCommand m 0x0411 port (fun c s =>
    if count > 1024 ∨ idleMask > 31 ∨ ¬ windowsOk (shadowTable port 0 count s) cycleNs guardNs ∨ ¬ activateOk activateAt s then
      refuse c stBadParam s
    else if (schedOf port s).flip.isSome then refuse c stBadState s
    else accept c (modSched port (fun k => { k with flip := some { at' := activateAt, off := false, count := count,
                                                                    cycle := cycleNs, idle := idleMask, guard := guardNs,
                                                                    cmd := c } })) s) s

/-- SCHED_WIN_OFF: BAD_STATE where no schedule runs, or one awaits its boundary. -/
def execSchedWinOff (m : CmdMeta) (port activateAt : Nat) (s : State) : Out :=
  portCommand m 0x0412 port (fun c s =>
    if !activateOk activateAt s then refuse c stBadParam s
    else if (schedOf port s).flip.isSome ∨ !flag .sdWinOn port s then refuse c stBadState s
    else accept c (modSched port (fun k => { k with flip := some { at' := activateAt, off := true, count := 0, cycle := 0,
                                                                    idle := 31, guard := 0, cmd := c } })) s) s

/-- SCHED_WIN_READ. -/
def execSchedWinRead (m : CmdMeta) (port table first : Nat) (s : State) : Out :=
  portCommand m 0x0413 port (fun c s =>
    if table > 1 ∨ first ≥ 1024 then refuse c stBadParam s
    else
      let es := if table = 0 then ((activeTable port s).drop first).take 128 else shadowTable port first (min 128 (1024 - first)) s
      answer c stDone (es.flatMap (leBytes 8)) s) s

/-- The parameters that name a policer are in range. -/
def policerNamed (port kind stream cls : Nat) : Bool :=
  isEdge port && decide (kind ≤ 1) && decide (stream < 2 ^ 20) && decide (cls ≤ 4)

/-- POLICER_SET: r = 0 removes. -/
def execPolicerSet (m : CmdMeta) (port kind stream cls r b : Nat) (s : State) : Out :=
  portCommand m 0x0420 port (fun c s =>
    if !policerNamed port kind stream cls || decide (r > 4588) || (r ≠ 0 && (decide (b < 65) || decide (b > 1048575))) then
      refuse c stBadParam s
    else
      let k := schedOf port s
      let s := if k.streams = [] ∧ k.classes = [] then modSched port (fun k => { k with refillAt := s.time.now }) s else s
      let key := stream * 8 + cls
      let x : Policer := { r := r, b := b, tokens := b, logAt := none }
      if r = 0 then
        done c (modSched port (fun k => if kind = 0 then { k with streams := tabDel k.streams key }
          else { k with classes := tabDel k.classes cls }) s)
      else if kind = 1 then done c (putPolicer port false cls x s)
      else if (tabFind k.streams key).isNone ∧ k.streams.length ≥ 1024 then refuse c stNoResource s
      else done c (putPolicer port true key x s)) s

/-- POLICER_READ: r, b and the count; zeros where none is set (log entry 46). -/
def execPolicerRead (m : CmdMeta) (port kind stream cls : Nat) (s : State) : Out :=
  portCommand m 0x0421 port (fun c s =>
    if !policerNamed port kind stream cls then refuse c stBadParam s
    else
      let k := schedOf port s
      let x := (if kind = 0 then tabFind k.streams (stream * 8 + cls) else tabFind k.classes cls).getD
        { r := 0, b := 0, tokens := 0, logAt := none }
      answer c stDone (packFields [(2, x.r), (4, x.b), (4, x.tokens)]) s) s

/-- SCHED_SAMPLE (R322). -/
def execSchedSample (m : CmdMeta) (queue on : Nat) (s : State) : Out :=
  command m 0x0430 (fun c s =>
    if on > 1 ∨ (queueOf queue s).isNone ∨ queue ≥ 262144 then refuse c stBadParam s
    else if on = 0 then done c { s with samples := tabDel s.samples queue }
    else if (tabFind s.samples queue).isSome then done c s
    else if s.samples.length ≥ 1024 then refuse c stNoResource s
    else done c { s with samples := tabPut s.samples queue {} }) s

/-- The counts of a sampled queue as bytes. -/
def sampleBytes (q : Sample) : List Byte := q.depth.flatMap (leBytes 4) ++ q.delay.flatMap (leBytes 4) ++ leBytes 4 q.worst

/-- SCHED_HIST_READ: zero counts with BAD_STATE for a queue that is not sampled (R323). -/
def execSchedHistRead (m : CmdMeta) (queue clear : Nat) (s : State) : Out :=
  command m 0x0431 (fun c s =>
    if clear > 1 ∨ queue ≥ 262144 then refuse c stBadParam s
    else match tabFind s.samples queue with
      | none => answer c stBadState (sampleBytes {}) s
      | some q =>
        answer c stDone (sampleBytes q) (if clear = 1 then { s with samples := tabPut s.samples queue { count := q.count } } else s)) s

/-- SCHED_SAMPLE_RATE. -/
def execSchedSampleRate (m : CmdMeta) (shift : Nat) (s : State) : Out :=
  command m 0x0432 (fun c s => requires (decide (shift ≤ 15)) c stBadParam (fun s => done c (setReg .spSampleShift 0 shift s)) s) s

/-- SCHED_STATS: DL_MISS_CNT, NOFIT_CNT and POLICED_CNT. -/
def execSchedStats (m : CmdMeta) (port : Nat) (s : State) : Out :=
  portCommand m 0x0440 port (fun c s => answer c stDone (readWords (0x40000020 + port * 0x1000) 3 s) s) s

end Sys2Proof.Machine
end

