-- ==== Sys2Proof/Machine/Link.lean ====
section
/-! DEFINITION. The links: training, identity, quarantine, loss, lane swaps, start-of-frame markers and the commands of
range 0x01xx (chapter 08; R193, R195 to R197). -/
namespace Sys2Proof.Machine

/-! ### States and causes (R219, R229) -/

def lkOff : Nat := 0
def lkTraining : Nat := 1
def lkWaiting : Nat := 2
def lkQuarantined : Nat := 3
def lkActive : Nat := 4
def lkFailed : Nat := 5
def lcClockLock : Nat := 1
def lcSymbolLock : Nat := 2
def lcLaneOrder : Nat := 3
def lcDeskew : Nat := 4
def lcIdentTimeout : Nat := 5
def lcMismatch : Nat := 6
def lcSelf : Nat := 7
def lcLevel : Nat := 8
def lcCredit : Nat := 9
def lcLanes : Nat := 10
def lcLostLock : Nat := 11
def lcRate : Nat := 12
def lcCoord : Nat := 13

/-- State of a link. -/
def lkStateOf (l : Nat) (s : State) : Nat := reg .lkState l s

/-! ### Equalization (R214, R215) -/

/-- Index of an entry of the equalization table. -/
def eqIdx (l lane rate : Nat) : Nat := (l * 10 + lane) * 3 + rate

/-- The built-in default entry. -/
def eqDefault : Nat := 4 + 48 * 2 ^ 8 + 8 * 2 ^ 16 + 12 * 2 ^ 24 + 32 * 2 ^ 48

/-- The entry in force: the table's, else the default. -/
def eqEntry (i : Nat) (s : State) : Nat := (tabFind s.eq i).getD eqDefault

/-- An entry the table may hold: its taps sum to at most 63 and its reserved fields are zero. -/
def eqOk (e : Nat) : Bool :=
  decide (bitsOf e 5 0 + bitsOf e 13 8 + bitsOf e 21 16 ≤ 63) && bitsOf e 7 6 = 0 && bitsOf e 15 14 = 0
    && bitsOf e 23 22 = 0 && bitsOf e 31 29 = 0 && bitsOf e 63 56 = 0

/-- EQ_DEFAULT of a link: some entry of it is the default. -/
def noteEqDefault (l : Nat) (s : State) : State :=
  setReg .lkEqDefault l (b2n ((List.range 30).any fun i => (tabFind s.eq (l * 30 + i)).isNone)) s

/-- The equalization region of the board flash, an erased byte where nothing is written. -/
def eqFlashBytes (off n : Nat) (s : State) : List Byte := tabRange 0xFF#8 s.eqFlash off n

/-- The header of the table is good (R214): magic, version, count and digest. -/
def eqHeaderGood (s : State) : Bool :=
  leNat (eqFlashBytes 0 4 s) = 0x4A455131 && leNat (eqFlashBytes 4 2 s) = 1 && leNat (eqFlashBytes 8 2 s) = 1560
    && eqFlashBytes 24 8 s = shake256 8 (eqFlashBytes 32 12480 s)

/-- Load the table at main power-on and COLD reset (R214, R215). -/
def loadEq (s : State) : State :=
  let s := if eqHeaderGood s then
      (List.range 1560).foldl (fun s i =>
        let e := leNat (eqFlashBytes (32 + 8 * i) 8 s)
        if eqOk e then { s with eq := tabPut s.eq i e }
        else logEvent 0x0104 sevW 0x10 (i / 30) (packFields [(2, i / 3 % 10)]) s) { s with eq := [] }
    else logEvent 0x0104 sevW 0x10 0xFF (packFields [(2, 0xFFFF)]) { s with eq := [] }
  (List.range 52).foldl (fun s l => noteEqDefault l s) s

/-! ### Unused slots (R190) -/

/-- A slot that turns out to be unused, once the coordinates are set, is powered down (R190). -/
def dropUnused (l : Nat) (s : State) : State :=
  if isGlobal l && coordsSet s && !linkUsed l s && lkStateOf l s ≠ lkOff then powerDown l s else s

/-- Every unused slot of this device is powered down. -/
def settleSlots (s : State) : State := (List.range 9).foldl (fun s i => dropUnused (39 + i) s) s

/-- When every global link has adopted the pending count, it is the device's count in force (R197). -/
def settleCount (s : State) : State :=
  match s.coord.pendCount with
  | none => s
  | some n =>
    if (List.range 9).any fun i => (link (39 + i) s).pendingCnt.isSome then s
    else { s with coord := { s.coord with count := some n, pendCount := none } }

/-- A link adopts its pending count. -/
def adoptCount (l : Nat) (s : State) : State :=
  match (link l s).pendingCnt with
  | none => s
  | some n => settleCount (modLink l (fun k => { k with expectCnt := n, pendingCnt := none }) s)

/-! ### Attempts (R217, R219) -/

/-- Answer a LINK_RETRAIN with the state reached; a ROUTE_LINK_OPEN whose link does not come up fails. -/
def answerRetrain (l : Nat) (s : State) : State :=
  let k := link l s
  let s := modLink l (fun k => { k with retrainCmd := none }) s
  let s := finishOpt k.retrainCmd stDone (leBytes 1 (lkStateOf l s)) s
  if lkStateOf l s = lkActive then s
  else finishOpt k.openCmd stBadState [] (modLink l (fun k => { k with openCmd := none }) s)

/-- The switch half of a link is asked to leave the Banked state (R394). -/
def askHalf (d : Nat) (s : State) : State :=
  if halfBanked d s && (tabFind s.sw.wakeAt d).isNone then
    { s with sw := { s.sw with wakeAt := tabPut s.sw.wakeAt d s.time.now } }
  else s

/-- An attempt begins at step 1: at the lanes' power-up where CK runs, else at its first edge (R217). -/
def beginAttempt (l : Nat) (s : State) : State :=
  modLink l (fun k => { k with ckSeen := true, stepAt := s.time.now }) (incReg .lkTrainCnt l s)

/-- The lanes power up, their disparities negative (R207), with the settings that take effect at a training (R206, R215, R222, R224,
R226): the training sets go out, and the attempt begins once CK is seen. A link that is disabled, or an unused slot, stays OFF. -/
def powerUp (l : Nat) (s : State) : State :=
  let s := modLink l (fun k => { k with restartAt := none, step := 0 }) (adoptCount l s)
  if !flag .lkEnable l s || !linkUsed l s then answerRetrain l (setLinkState l lkOff s)
  else
    let s := if (link l s).clearSwap then setReg .lkTxSwap l noSwap (setReg .lkRxSwap l noSwap s) else s
    let ceil1 := flag .lkCeil1 l s
    let thresh := reg .lkCvThresh l s
    let rate := reg .lkRateSel l s
    let entries := (List.range 10).map fun lane => eqEntry (eqIdx l lane rate) s
    let s := modLink l (fun k => { k with step := 1, stepAt := s.time.now, obs := none, txTs2 := false, ceilUse := ceil1,
                                          clearSwap := false, identSeen := false, peerSeen := false, checksDone := false,
                                          rxSwapJob := none, txSwapJob := none, ckSeen := false, cutNext := false,
                                          rxRd := 0, txCols := false, cvThresh := thresh, eqUse := entries }) (noteEqDefault l s)
    let s := sendTraining l (modLine l (fun k => { k with rd := 0 }) (setReg .lkRate l rate (setLinkState l lkTraining s)))
    askHalf (dieOfLink l) (if flag .ckPresent (0x40 + l) s then beginAttempt l s else s)

/-- An attempt fails: the lanes are powered down for 1 ms; the third in a row makes the link FAILED. -/
def failAttempt (l cause : Nat) (s : State) : State :=
  let s := setReg .lkCause l cause (incReg .lkTrainFailCnt l s)
  let n := (link l s).fails + 1
  if n ≥ 3 then
    let s := modLink l (fun k => { k with step := 0, fails := n, restartAt := none }) (setLinkState l lkFailed s)
    answerRetrain l (logEvent 0x0101 sevW 0x10 l (packFields [(1, cause)]) s)
  else modLink l (fun k => { k with step := 0, fails := n, restartAt := some (s.time.now + 1000000) }) s

/-- A step of an attempt ends. -/
def toStep (l n : Nat) (s : State) : State := modLink l (fun k => { k with step := n, stepAt := s.time.now }) s

/-- The clock of a rate code in kHz (R213). -/
def ckKhz (rate : Nat) : Nat := 14000000 / 2 ^ rate

/-- A measured frequency is within 1 % of a rate's clock. -/
def ckNear (measured rate : Nat) : Bool :=
  decide (measured * 100 ≥ ckKhz rate * 99) && decide (measured * 100 ≤ ckKhz rate * 101)

/-- LANE_CK_LOCK: step 1 ends, or fails on the rate. -/
def execLaneCkLock (l measured : Nat) (s : State) : Out :=
  if l ≥ 52 then .next s
  else .next (
    if lkStateOf l s ≠ lkTraining ∨ (link l s).step ≠ 1 then s
    else
      let s := if (link l s).ckSeen then s else beginAttempt l s
      if ckNear measured (reg .lkRate l s) then toStep l 2 s
      else if (List.range 3).any fun r => ckNear measured r then failAttempt l lcRate s
      else failAttempt l lcClockLock s)

/-- Contacts in use. -/
def contactsUsed (swap : Nat) : List Nat := (List.range 9).filter fun k => k ≠ swap

/-- The lane order an observation shows, over the positions that locked: straight or reversed (R218). -/
def laneOrder (swap : Nat) (o : TrainObs) : Option Bool :=
  let ok := fun (rev : Bool) => (List.range 9).all fun p =>
    let k := if rev then 8 - p else p
    !o.lock.testBit p || k = swap || o.ids.getD p 15 = contactId swap k
  if ok false then some false else if ok true then some true else none

/-- Steps 2 to 4 from what the receiver saw (R217, R218): the lane order is read once symbol 1 is, and step 4 then ends with
TS2 sent; where the far end sends TS2 already, idle columns follow (R217 step 5, R228 item 4). -/
def trainLanes (l : Nat) (o : TrainObs) (s : State) : State :=
  let swap := reg .lkRxSwap l s
  let locked := (List.range 9).filter fun p => o.lock.testBit p
  if locked = [] then failAttempt l lcSymbolLock s
  else if o.ids = [] then toStep l 4 s
  else match laneOrder swap o with
    | none => if locked.length < 8 then failAttempt l lcLanes s else failAttempt l lcLaneOrder s
    | some rev =>
      let posOf := fun k => if rev then 8 - k else k
      let bad := (contactsUsed swap).filter fun k => !o.lock.testBit (posOf k)
      let go := fun (s : State) =>
        let s := setReg .lkPolInv l (o.inverted % 512) (setReg .lkReversed l (b2n rev) s)
        let s := sendTraining l (modLink l (fun k => { k with txTs2 := true, obs := some o }) (toStep l 5 s))
        if o.ts2 then startColumns l s else s
      match bad with
      | [] => go (setReg .lkSpDown l 0 s)
      | [k] =>
        if swap ≠ noSwap then failAttempt l lcLanes s
        else if k = 8 then go (setReg .lkSpDown l 1 s)
        else go (setReg .lkRxSwap l k (setReg .lkSpDown l 0 s))
      | _ => failAttempt l lcLanes s

/-- Every contact in use has locked. -/
def allLocked (l : Nat) (o : TrainObs) (s : State) : Bool :=
  let swap := reg .lkRxSwap l s
  let n := ((List.range 9).filter fun p => o.lock.testBit p).length
  decide (n ≥ (contactsUsed swap).length)

/-- TRAINING_SET: what the receiver sees is kept; steps 2 to 4 end once every lane has locked and its ID is read. In step 5 the far
end's TS2 starts this end's columns. -/
def execTrainingSet (l : Nat) (obs : TrainObs) (s : State) : Out :=
  if l ≥ 52 then .next s
  else .next (
    let n := (link l s).step
    if lkStateOf l s ≠ lkTraining then s
    else if n = 2 ∨ n = 4 then
      let s := modLink l (fun k => { k with obs := some obs }) s
      if n = 4 ∧ obs.ids = [] ∨ n = 2 ∧ !allLocked l obs s then s else trainLanes l obs s
    else if n = 5 ∧ obs.ts2 then startColumns l s
    else s)

/-- LINK_DESKEW: step 5 ends with the skew found; markers are numbered from here. -/
def execLinkDeskew (l skew : Nat) (s : State) : Out :=
  if l ≥ 52 then .next s
  else .next (
    if lkStateOf l s ≠ lkTraining ∨ (link l s).step ≠ 5 then s
    else
      let s := setReg .lkMaxSkew l (min skew 127) s
      if skew > 64 then failAttempt l lcDeskew s
      else modLink l (fun k => { k with markerAt := s.time.now, identSent := s.time.now }) (toStep l 6 (startColumns l s)))

/-! ### Reaching ACTIVE -/

/-- Step 8 (R217): the link is ACTIVE. Frame numbers count from 0 again (R227). -/
def activate (l : Nat) (s : State) : State :=
  let s := modLink l (fun k => { k with step := 8, fails := 0, frameNo := 0, sofAt := s.time.now, expectCnt := linkCount l s,
                                        creditRx := s.time.now }) s
  let s := { s with time := { s.time with frames := tabDel s.time.frames l } }
  linkInService l (answerRetrain l (setLinkState l lkActive s))

/-- The switch half of a link has its Tundish rebuilt (R295, R394). -/
def halfReady (d : Nat) (s : State) : Bool := !halfBanked d s && (half d s).rebuilt

/-- Step 6 is complete on both ends (R220): step 7 begins and both credit halves are sent. -/
def tryStep6 (l : Nat) (s : State) : State :=
  let k := link l s
  if lkStateOf l s = lkTraining ∧ k.step = 6 ∧ k.identSeen ∧ k.peerSeen ∧ k.checksDone ∧ halfReady (dieOfLink l) s then
    sendCredit l 1 (sendCredit l 0 (resetCredit l (toStep l 7 s)))
  else s

/-- The link is held in quarantine: management traffic only (R196, R221, R222). -/
def quarantine (l cause : Nat) (s : State) : State :=
  let s := setReg .lkCause l cause (setLinkState l lkQuarantined s)
  let s := modLink l (fun k => { k with fails := 0, step := 8 }) s
  let s := sendCredit l 1 (sendCredit l 0 (resetCredit l s))
  answerRetrain l (if cause = lcMismatch ∨ cause = lcSelf then
    logEvent 0x0103 sevW 0x10 l ((leBytes 16 (leNat ((List.range 4).flatMap fun i => leBytes 4 (reg .lkNeigh (16 * l + i) s)))).drop 1 |>.take 4) s
    else s)

/-- The last IDENT received, as its 16 bytes. -/
def neighBytes (l : Nat) (s : State) : List Byte := (List.range 4).flatMap fun i => leBytes 4 (reg .lkNeigh (16 * l + i) s)

/-- The far end's identity is the expected one (R195, R221 check 3). -/
def identityOk (l : Nat) (b : List Byte) (s : State) : Bool :=
  let ty := fieldAt b 1 1
  if isAccel l then
    ty = 2 && fieldAt b 3 1 = (accelAt s.coord.member l).1 && fieldAt b 4 1 = (accelAt s.coord.member l).2
  else if isService l then ty = 3 || ty = 4
  else match farEnd l s with
    | some e => ty = 1 && fieldAt b 2 1 = groupOf e.dev && fieldAt b 3 1 = memberOf e.dev && fieldAt b 4 1 = e.link
    | none => false

/-- The far end reports this device's own group and member. -/
def isSelf (b : List Byte) (s : State) : Bool :=
  fieldAt b 1 1 = 1 && fieldAt b 2 1 = ownGroup s && fieldAt b 3 1 = s.coord.member

/-- The device's protocol level (R222). -/
def ownLevel : Nat := 2

/-- The Pattern ceiling of a link: 1 where its setting or the strap says so. -/
def linkCeiling (l : Nat) (s : State) : Nat := if (link l s).ceilUse || s.pins.pattern = 1 then 1 else 2

/-- The checks of R221 and R222 on the last IDENT. In recovery the service links come up QUARANTINED (R432). -/
def identChecks (l : Nat) (s : State) : State :=
  let b := neighBytes l s
  let farCoord := bitAt (fieldAt b 7 1) 1
  let level := fieldAt b 6 1
  if flag .seRecovery 0 s ∧ isService l then quarantine l (reg .lkCause l s) s
  else if !coordsSet s then
    (if isService l then quarantine l lcCoord s else answerRetrain l (setLinkState l lkWaiting s))
  else if isFabric l && fieldAt b 1 1 = 1 && !farCoord then answerRetrain l (setLinkState l lkWaiting s)
  else if !identityOk l b s then quarantine l (if isSelf b s then lcSelf else lcMismatch) s
  else if level = 0 ∨ level > ownLevel + 1 then quarantine l lcLevel s
  else
    let p1 := min (linkCeiling l s) (fieldAt b 5 1 % 16) = 1
    let s := setReg .lkP1 l (b2n p1) (setReg .lkLevel l (min level ownLevel) s)
    tryStep6 l (modLink l (fun k => { k with checksDone := true }) s)

/-- A link in WAITING, or QUARANTINED for COORD_UNSET, resumes at step 6 once the missing coordinates are set (R221). -/
def resumable (l : Nat) (s : State) : Bool :=
  let st := lkStateOf l s
  coordsSet s && ((st = lkWaiting && (!isFabric l || bitAt (fieldAt (neighBytes l s) 7 1) 1 || fieldAt (neighBytes l s) 1 1 ≠ 1))
    || (st = lkQuarantined && reg .lkCause l s = lcCoord))

/-- Resume at step 6, with the step's bound restarted. -/
def resumeIdent (l : Nat) (s : State) : State :=
  modLink l (fun k => { k with identSeen := false, peerSeen := false, checksDone := false }) (toStep l 6 (setLinkState l lkTraining s))

/-- COORDINATES_SET_RESUME: an unused slot is powered down instead. -/
def execCoordinatesSetResume (l : Nat) (s : State) : Out :=
  if l ≥ 52 then .next s
  else .next (let s := dropUnused l s; if resumable l s then resumeIdent l s else s)

/-- An IDENT block is stored, and in step 6 it is checked (R220, R221). -/
def takeIdent (l : Nat) (body : List Byte) (s : State) : State :=
  let b := padTo 16 body
  let s := (List.range 4).foldl (fun s i => setReg .lkNeigh (16 * l + i) (fieldAt b (4 * i) 4) s) s
  let s := if resumable l s then resumeIdent l s else s
  if lkStateOf l s = lkTraining ∧ (link l s).step = 6 then
    let s := modLink l (fun k => { k with identSeen := true, peerSeen := k.peerSeen || bitAt (fieldAt b 7 1) 0 }) s
    if (link l s).checksDone then tryStep6 l s else identChecks l s
  else s

/-- IDENT: a block whose CRC fails, or whose kind is reserved, is discarded and counted (R211). -/
def execIdent (l : Nat) (body : List Byte) (s : State) : Out :=
  if l ≥ 52 then .next s
  else .next (
    let st := lkStateOf l s
    let on := (st = lkTraining ∧ (link l s).step ≥ 6) ∨ st = lkWaiting ∨ st = lkQuarantined ∨ st = lkActive
    if !on then s
    else if !blockGood body then incReg .lkCbErrCnt l s
    else if fieldAt body 0 1 ≠ 0x10 then s
    else takeIdent l body s)

/-- The IDENT block this end sends (R220). -/
def identBlock (l : Nat) (s : State) : List Byte :=
  controlBlock ([0x10#8, 0x01#8] ++ leBytes 1 (match s.coord.group with | some g => g | none => 0xFF)
    ++ leBytes 1 s.coord.member ++ leBytes 1 l ++ leBytes 1 (linkCeiling l s) ++ leBytes 1 ownLevel
    ++ leBytes 1 (b2n (link l s).identSeen + 2 * b2n (coordsSet s)) ++ leBytes 2 signature)

/-- IDENT_SEND_TICK: every 1 µs in WAITING and from step 6 until the far end has completed it too, which its CREDIT blocks of
step 7 show (R220). -/
def execIdentSendTick (l : Nat) (s : State) : Out :=
  if l ≥ 52 then .next s
  else .next (
    if (lkStateOf l s = lkTraining ∧ (link l s).step ≥ 6) ∨ lkStateOf l s = lkWaiting then
      let s := advanceTo ((link l s).identSent + 1000) s
      modLink l (fun k => { k with identSent := s.time.now }) (sendBlock l (identBlock l s) s)
    else s)

/-- CREDIT: the counts are taken, and step 7 ends when both halves have come (R270, R271, R217). -/
def execCredit (l h : Nat) (counts : List Nat) (s : State) : Out :=
  if l ≥ 52 ∨ h ≥ 2 then .next s
  else .next (
    let st := lkStateOf l s
    let step7 := st = lkTraining ∧ (link l s).step = 7
    if ¬ (step7 ∨ st = lkQuarantined ∨ st = lkActive) then s
    else
      let s := takeCounts l h counts s
      if step7 ∧ (link l s).creditSeen = 3 then activate l s else s)

/-- TRAINING_STEP_TIMEOUT: the step's bound passes (R217). The wait at step 1 for a far end that sends no CK has none. Step 6 is not counted while the switch half is rebuilt (R394). -/
def execTrainingStepTimeout (l : Nat) (s : State) : Out :=
  if l ≥ 52 then .next s
  else .next (
    let k := link l s
    let at' := fun n => advanceTo (k.stepAt + n) s
    if lkStateOf l s ≠ lkTraining then s
    else if k.step = 1 then (if k.ckSeen then failAttempt l lcClockLock (at' 50000) else s)
    else if k.step = 2 then
      (match k.obs with
        | some o => trainLanes l o (at' 10000)
        | none => failAttempt l lcSymbolLock (at' 10000))
    else if k.step = 4 then failAttempt l lcLaneOrder (at' 1000)
    else if k.step = 5 then failAttempt l lcDeskew (at' 5000)
    else if k.step = 6 then (if halfReady (dieOfLink l) s then failAttempt l lcIdentTimeout (at' 20000) else s)
    else if k.step = 7 then failAttempt l lcCredit (at' 10000)
    else s)

/-- The lanes power up again when the pause of 1 ms ends. -/
def restart (l : Nat) (s : State) : State :=
  match (link l s).restartAt with
  | none => s
  | some t => powerUp l (advanceTo t s)

/-- TRAINING_RESTART: 1 ms after a failed attempt. -/
def execTrainingRestart (l : Nat) (s : State) : Out :=
  if l ≥ 52 then .next s else .next (if (link l s).fails = 0 then s else restart l s)

/-- LOST_LOCK_RETRAIN: 1 ms after a loss. -/
def execLostLockRetrain (l : Nat) (s : State) : Out :=
  if l ≥ 52 then .next s else .next (if (link l s).fails = 0 then restart l s else s)

/-! ### Leaving ACTIVE (R223, R271, R382) -/

/-- An armed TIME_SET on a link that leaves ACTIVE answers BAD_STATE (R382). -/
def dropTimeSet (l : Nat) (s : State) : State :=
  match s.time.armed with
  | some a => if a.link = l then finish a.cmd stBadState [] { s with time := { s.time with armed := none } } else s
  | none => s

/-- A swap under way ends with its link's training. -/
def dropSwaps (l : Nat) (s : State) : State :=
  let c := (link l s).rxSwapJob.bind (·.cmd)
  finishOpt c stBadState [] (modLink l (fun k => { k with rxSwapJob := none, txSwapJob := none }) s)

/-- An ACTIVE or QUARANTINED link leaves its state: packets, credit and swaps on it end, routing is told. -/
def leaveLink (l : Nat) (s : State) : State :=
  let was := lkStateOf l s
  let s := setReg .lkP1 l 0 (setReg .lkLevel l 0 (setLinkState l lkTraining s))
  let s := modLink l (fun k => { k with step := 0, giveUpAt := none }) (dropTimeSet l (dropSwaps l s))
  if was = lkActive then linkGone l s else if was = lkQuarantined then discardPort l s else s

/-- The link is lost: it trains again after 1 ms. -/
def loseLink (l cause : Nat) (s : State) : State :=
  let s := markFlag detRoute (logEvent 0x0102 sevW 0x10 l [] (setReg .lkCause l cause (leaveLink l s)))
  modLink l (fun k => { k with fails := 0, restartAt := some (s.time.now + 1000000) }) s

/-- LINK_LOST: CK lock is lost (`ck`), or symbol lock on two lanes or two markers. A link that trains or waits fails its attempt when
CK goes (R213); one in service leaves its state (R223), with cause CLOCK_LOCK where CK went. -/
def execLinkLost (l : Nat) (ck : Bool) (s : State) : Out :=
  if l ≥ 52 then .next s
  else .next (
    let st := lkStateOf l s
    if st = lkActive ∨ st = lkQuarantined then loseLink l (if ck then lcClockLock else lcLostLock) s
    else if ck ∧ (st = lkWaiting ∨ (st = lkTraining ∧ (link l s).step ≥ 2)) then
      failAttempt l lcClockLock (setLinkState l lkTraining s)
    else s)

/-- CREDIT_TIMEOUT: 10 µs without a valid CREDIT block on an ACTIVE link. -/
def execCreditTimeout (l : Nat) (s : State) : Out :=
  if l ≥ 52 then .next s
  else .next (if lkStateOf l s = lkActive then loseLink l lcCredit (advanceTo ((link l s).creditRx + 10000) s) else s)

/-- CONTROL_BLOCK_DISCARD: the receiver tests a block's CRC and its kind (R211). -/
def execControlBlockDiscard (l : Nat) (body : List Byte) (s : State) : Out :=
  onUnit (decide (l < 52)) s (if blockGood body then s else incReg .lkCbErrCnt l s)

/-- The nine positions whose violations count: not SP's where it is not kept locked (R218). -/
def countedPositions (l : Nat) (ps : List Nat) (s : State) : List Nat :=
  if flag .lkSpDown l s then ps.filter fun p => p ≠ positionOf (flag .lkReversed l s) noSwap 8 else ps

/-- BAD_COLUMN: a column outside a packet (R212). The receiver decodes the groups of its nine positions at the disparity it holds, or
at `rd` where columns that are no commands came before; violations are counted and the column is dropped. -/
def execBadColumn (l : Nat) (rd : Option Nat) (groups : List Nat) (s : State) : Out :=
  onUnit (decide (l < 52)) s (
    let inv := reg .lkPolInv l s
    let rd := rd.getD (link l s).rxRd
    let bad := columnViolations (isService l) (flag .lkReversed l s) (reg .lkRxSwap l s) inv rd groups
    countViolations l (countedPositions l bad s) (modLink l (fun k => { k with rxRd := rdReceived inv rd groups }) s))

/-! ### Lane swaps (R224 to R226) -/

/-- Columns of a direction up to a time since its first marker: 22.4 in a nanosecond at rate code 0 (R206). -/
def columnsIn (rate ns : Nat) : Nat := ns * 224 / (10 * 2 ^ rate)

/-- Nanoseconds from the first marker until a number of columns has passed. -/
def columnsNs (rate n : Nat) : Nat := ceilDiv (n * 10 * 2 ^ rate) 224

/-- Markers of a direction up to now, the first not counted: it stands at every 4,096th column (R210). -/
def markersOf (l at' : Nat) (s : State) : Nat := columnsIn (reg .lkRate l s) (s.time.now - at') / 4096

/-- Number of the current marker of a link's receive direction. -/
def markerNow (l : Nat) (s : State) : Nat := markersOf l (link l s).markerAt s % 65536

/-- Code violations of a lane in the last second, at the position where it arrives. -/
def cvGrowth (l lane : Nat) (s : State) : Nat :=
  errsSince (link l s).cvLog (positionOf (flag .lkReversed l s) noSwap lane) spanLane s.time.now

/-- Send a SWAP_REQ with a marker 4 to 64 ahead; which one is not fixed (a free value). -/
def sendSwapReq (l lane attempt : Nat) (cmd : Option CmdRef) (s : State) : State :=
  let n := (markerNow l s + 4 + freeNat s % 61) % 65536
  let s := sendBlock l (controlBlock ([0x11#8] ++ leBytes 1 lane ++ leBytes 2 n)) (useFree s)
  modLink l (fun k => { k with rxSwapJob := some { lane := lane, marker := n, acked := false, attempt := attempt, cmd := cmd } }) s

/-- Why a swap of the receive direction cannot start (R224 step 1, R225, R230): one of the link in either direction is in progress. -/
def swapRefusal (l : Nat) (s : State) : Option Nat :=
  let k := link l s
  if lkStateOf l s ≠ lkActive ∨ k.rxSwapJob.isSome ∨ k.txSwapJob.isSome ∨ reg .lkLevel l s = 1 then some stBadState
  else if reg .lkRxSwap l s ≠ noSwap ∨ flag .lkSpDown l s ∨ cvGrowth l 8 s > k.cvThresh then some stNoResource
  else none

/-- CV_THRESHOLD_SWAP_PROPOSAL: a lane's count has grown by more than CV_THRESH within the last second. With automatic swap of lanes
off, the trigger is logged alone (R409). -/
def execCvThresholdSwapProposal (l lane : Nat) (s : State) : Out :=
  if l ≥ 52 ∨ lane ≥ 8 then .next s
  else decided s <| .next (
    if cvGrowth l lane s ≤ (link l s).cvThresh then s
    else
      let s := logEvent 0x0A01 sevI 0x10 l (packFields [(1, 1), (4, 100 * l + lane), (4, cvGrowth l lane s)]) s
      if !(reg .reAuto 0 s).testBit 1 then s
      else
        let s := incReg .reProposalCnt 0 s
        if (swapRefusal l s).isSome then s else sendSwapReq l lane 0 none s)

/-- SWAP_REQ: the transmitting device answers in hardware, and swaps at the marker. -/
def execSwapReq (l lane marker : Nat) (s : State) : Out :=
  if l ≥ 52 ∨ lane ≥ 8 then .next s
  else .next (
    if lkStateOf l s ≠ lkActive ∨ reg .lkLevel l s < 2 then s
    else
      let s := sendBlock l (controlBlock ([0x12#8] ++ leBytes 1 lane ++ leBytes 2 marker)) s
      modLink l (fun k => { k with txSwapJob := some { lane := lane, marker := marker % 65536, acked := true, attempt := 0,
                                                       cmd := none } }) s)

/-- SWAP_ACK: the swap is agreed. -/
def execSwapAck (l lane marker : Nat) (s : State) : Out :=
  onUnit (decide (l < 52)) s (modLink l (fun k => match k.rxSwapJob with
    | some j => if j.lane = lane ∧ j.marker = marker then { k with rxSwapJob := some { j with acked := true } } else k
    | none => k) s)

/-- Log a swap: direction 0 receive, 1 transmit. -/
def logSwap (l dir : Nat) (j : SwapJob) (s : State) : State :=
  markFlag detRiser (incReg .reSwapCnt 0 (incReg .lkSwapCnt l
    (logEvent 0x0105 sevI 0x10 l (packFields [(1, dir), (1, j.lane), (2, j.marker)]) s)))

/-- Time passes up to the next marker numbered `n` of the direction whose first marker stood at `at'`. -/
def toMarker (l at' n : Nat) (s : State) : State :=
  let cur := markersOf l at' s
  advanceTo (at' + columnsNs (reg .lkRate l s) (4096 * (cur + subMod n (cur % 65536) 65536))) s

/-- SWAP_MARKER_REACHED, at the transmitter or at the receiver (R224 steps 4 and 5, R225); `straddles` where a packet is arriving whose
columns lie on both sides of the marker, which the receiver ends with K30.7. -/
def execSwapMarkerReached (l : Nat) (tx straddles : Bool) (s : State) : Out :=
  if l ≥ 52 then .next s
  else .next (match (if tx then (link l s).txSwapJob else (link l s).rxSwapJob) with
    | none => s
    | some j =>
      let s := toMarker l (if tx then (link l s).txMarkerAt else (link l s).markerAt) j.marker s
      if tx then logSwap l 1 j (modLink l (fun k => { k with txSwapJob := none }) (setReg .lkTxSwap l j.lane s))
      else if j.acked then
        finishOpt j.cmd stDone [] (logSwap l 0 j
          (modLink l (fun k => { k with rxSwapJob := none, cutNext := straddles }) (setReg .lkRxSwap l j.lane s)))
      else if j.attempt = 0 then sendSwapReq l j.lane 1 j.cmd s
      else
        let s := setReg .lkRxSwap l j.lane (leaveLink l s)
        powerUp l (modLink l (fun k => { k with fails := 0 }) s))

/-! ### Start-of-frame markers (R227) -/

/-- The step of R382: the time base takes T, the wrap count grows when T is below the old value. Elapsed time does not change,
so no interval in progress includes the step. -/
def timeStep (t : Nat) (s : State) : State :=
  let old := s.time.base
  let s := (List.range 52).foldl (fun s p => haltSchedule p s) s
  let w := if t % 2 ^ 48 < old then (s.time.wrap + 1) % 65536 else s.time.wrap
  let s := { s with time := { s.time with base := t % 2 ^ 48, wrap := w } }
  let s := (List.range 52).foldl (fun s p => realignSchedule p s) s
  incReg .ckStepCnt 0 (logEvent 0x0909 sevI 0x90 0xFF (packFields [(6, old), (6, t)]) s)

/-- START_OF_FRAME: on a link that is no service link the K28.7 column counts as a violation of its eight lanes (R209; log entry 127).
Else it is stamped into SOF_TIME, and an armed TIME_SET of this frame steps the time base. -/
def execStartOfFrame (l frameNo : Nat) (s : State) : Out :=
  if l ≥ 52 then .next s
  else if !isService l then
    .next (countViolations l ((List.range 8).map (positionOf (flag .lkReversed l s) (reg .lkRxSwap l s))) s)
  else .next (
    if lkStateOf l s ≠ lkActive ∧ lkStateOf l s ≠ lkQuarantined then s
    else
      let s := match s.time.armed with
        | some a => if a.link = l ∧ a.frame = frameNo then
            finish a.cmd stDone (leBytes 8 (timeBase s) ++ leBytes 8 a.time)
              (timeStep a.time { s with time := { s.time with armed := none } }) else s
        | none => s
      let s := setReg .lkSofTimeHi l (timeBase s / 2 ^ 32) (setReg .lkSofTimeLo l (timeBase s % 2 ^ 32) s)
      { s with time := { s.time with frames := tabPut s.time.frames l (frameNo % 2 ^ 48) } })

/-- START_OF_FRAME_SEND: every 125 µs from the link's entry into ACTIVE. -/
def execStartOfFrameSend (l : Nat) (s : State) : Out :=
  if !isService l then .next s
  else .next (
    if lkStateOf l s ≠ lkActive then s
    else
      let s := advanceTo ((link l s).sofAt + 125000) s
      let s := sendSof l (link l s).frameNo s
      modLink l (fun k => { k with frameNo := (k.frameNo + 1) % 2 ^ 48, sofAt := k.sofAt + 125000 }) s)

/-! ### Commands of range 0x01xx (R230) -/

/-- A command about a link: above 51, BAD_PARAM. -/
def linkCommand (m : CmdMeta) (op l : Nat) (k : CmdRef → State → State) (s : State) : Out :=
  command m op (fun c s => requires (decide (l < 52)) c stBadParam (k c) s) s

/-- LINK_STATUS. -/
def execLinkStatus (m : CmdMeta) (l : Nat) (s : State) : Out :=
  linkCommand m 0x0100 l (fun c s => answer c stDone (readWords (0x10000000 + 0x1000 * l) 3 s) s) s

/-- The settings of LINK_CONFIG, in force at the next training (R206, R222, R226); a FAILED link trains again. -/
def configLink (l rate ceiling cvThresh enable clearSwap : Nat) (s : State) : State :=
  let wasOff := lkStateOf l s = lkOff && !flag .lkEnable l s && enable = 1
  let s := setReg .lkRateSel l rate (setReg .lkCeil1 l (b2n (ceiling = 1 || s.pins.pattern = 1)) s)
  let s := setReg .lkEnable l enable (setReg .lkCvThresh l cvThresh s)
  let s := modLink l (fun k => { k with clearSwap := k.clearSwap || clearSwap = 1 }) s
  if lkStateOf l s = lkFailed ∨ wasOff then powerUp l (modLink l (fun k => { k with fails := 0 }) s) else s

/-- LINK_CONFIG. -/
def execLinkConfig (m : CmdMeta) (l rate ceiling cvThresh enable clearSwap : Nat) (s : State) : Out :=
  linkCommand m 0x0101 l (fun c s =>
    requires (decide (rate ≤ 2) && (ceiling = 1 || ceiling = 2) && decide (cvThresh < 65536) && decide (enable ≤ 1)
      && decide (clearSwap ≤ 1)) c stBadParam (fun s =>
        done c (configLink l rate ceiling cvThresh enable clearSwap s)) s) s

/-- The command came over this service link. -/
def cameOver (m : CmdMeta) (l : Nat) (s : State) : Bool := isService l && m.src = ownEp l s

/-- A link is trained again for a command. -/
def retrainLink (l : Nat) (c : CmdRef) (s : State) : State :=
  let s := if lkStateOf l s = lkActive ∨ lkStateOf l s = lkQuarantined then leaveLink l s else s
  powerUp l (modLink l (fun k => { k with fails := 0, retrainCmd := some c }) s)

/-- LINK_RETRAIN: BAD_STATE for a link that trains, that a change of R275 closes, or that has no far end under the count in force nor
under a pending one (R190, R197; log entry 127). -/
def execLinkRetrain (m : CmdMeta) (l : Nat) (s : State) : Out :=
  linkCommand m 0x0102 l (fun c s =>
    if cameOver m l s then refuse c stDenied s
    else if lkStateOf l s = lkTraining ∨ !(linkUsed l s || usedUnder (linkCount l s) l s) ∨ (link l s).closing then
      refuse c stBadState s
    else accept c (fun s => retrainLink l c s) s) s

/-- A link is powered down at once for a command, which is answered. -/
def dropLink (l : Nat) (c : CmdRef) (s : State) : State :=
  let s := if lkStateOf l s = lkActive ∨ lkStateOf l s = lkQuarantined then leaveLink l s else s
  finish c stDone [] (answerRetrain l (powerDown l s))

/-- LINK_DOWN: at once with the force flag or where nothing is to drain, else by the procedure of R275. -/
def execLinkDown (m : CmdMeta) (l force : Nat) (s : State) : Out :=
  linkCommand m 0x0103 l (fun c s =>
    if force > 1 then refuse c stBadParam s
    else if cameOver m l s then refuse c stDenied s
    else if (link l s).closing then refuse c stBadState s
    else accept c (fun s =>
      if force = 1 ∨ lkStateOf l s ≠ lkActive then dropLink l c s
      else startChange l false (some c) true s) s) s

/-- LINK_LANE_SWAP. -/
def execLinkLaneSwap (m : CmdMeta) (l lane : Nat) (s : State) : Out :=
  linkCommand m 0x0104 l (fun c s =>
    if lane ≥ 8 then refuse c stBadParam s
    else match swapRefusal l s with
      | some st => refuse c st s
      | none => accept c (fun s => sendSwapReq l lane 0 (some c) s) s) s

/-- LINK_EQ_READ: the entry and its default flag. -/
def execLinkEqRead (m : CmdMeta) (l lane rate : Nat) (s : State) : Out :=
  linkCommand m 0x0105 l (fun c s =>
    requires (decide (lane ≤ 9) && decide (rate ≤ 2)) c stBadParam (fun s =>
      let i := eqIdx l lane rate
      answer c stDone (leBytes 8 (eqEntry i s) ++ leBytes 1 (b2n (tabFind s.eq i).isNone)) s) s) s

/-- LINK_EQ_SET (R215): in force, with EQ_DEFAULT, at the link's next training. -/
def execLinkEqSet (m : CmdMeta) (l lane rate entry : Nat) (s : State) : Out :=
  linkCommand m 0x0106 l (fun c s =>
    requires (decide (lane ≤ 9) && decide (rate ≤ 2) && decide (entry < 2 ^ 64) && eqOk entry) c stBadParam (fun s =>
      done c { s with eq := tabPut s.eq (eqIdx l lane rate) entry }) s) s

/-- LINK_NEIGHBOUR: the last IDENT received. -/
def execLinkNeighbour (m : CmdMeta) (l : Nat) (s : State) : Out :=
  linkCommand m 0x0107 l (fun c s => answer c stDone (neighBytes l s) s) s

/-- LINK_STATS: the counters of R229. -/
def execLinkStats (m : CmdMeta) (l : Nat) (s : State) : Out :=
  linkCommand m 0x0110 l (fun c s =>
    answer c stDone (readWords (0x10000010 + 0x1000 * l) 9 s ++ readWords (0x10000040 + 0x1000 * l) 5 s) s) s

/-- A link is opened for a command: into service at once, or after it has trained. -/
def openLink (l : Nat) (c : CmdRef) (s : State) : State :=
  let s := modLink l (fun k => { k with openCmd := some c, fails := 0 }) s
  if lkStateOf l s = lkActive then startChange l true none false s else powerUp l s

/-- ROUTE_LINK_OPEN (R277): an ACTIVE link enters service; one powered down trains first (log entry 43). -/
def execRouteLinkOpen (m : CmdMeta) (link' : Nat) (s : State) : Out :=
  command m 0x0202 (fun c s =>
    if !isFabric link' then refuse c stBadParam s
    else if !mayOpen link' s then refuse c stBadState s
    else accept c (fun s => openLink link' c s) s) s

end Sys2Proof.Machine
end

