-- ==== Sys2Proof/Machine/Firmware.lean ====
section
/-! DEFINITION. Firmware images, the boot ROM, identity, attestation, the rollback counter and the commands of range 0x0Bxx
(chapter 17); the firmware commands of range 0x00xx and the switch-over (R361, R369, R370). -/
namespace Sys2Proof.Machine

/-! ### Keys (R428, R434) -/

/-- Context strings of R428, by number: 0 GN52-FW, 1 GN52-DC, 2 GN52-AT, 3 GN52-IH, 4 GN52-SK. -/
def kxFw : Nat := 0
def kxAt : Nat := 2
def kxIh : Nat := 3
def kxSk : Nat := 4

/-- The private seed of the device identity key: 57 bytes of SHAKE256 over GN52-ID and the device secret. -/
def identitySeed : BitVec 456 :=
  BitVec.ofNat 456 (leNat (shake256 57 ([0x47#8, 0x4E#8, 0x35#8, 0x32#8, 0x2D#8, 0x49#8, 0x44#8]
    ++ leBytes 32 Config.deviceSecret.toNat)))

/-- The device identity public key, 57 bytes. -/
def identityKey : List Byte := leBytes 57 (Config.ed448Public identitySeed).toNat

/-- First 8 bytes of SHAKE256 over the public key. -/
def identityDigest : List Byte := shake256 8 identityKey

/-- A signature of the device identity key under a context, 114 bytes. -/
def deviceSign (context : Nat) (msg : List Byte) : List Byte :=
  leBytes 114 (Config.ed448Sign identitySeed context msg).toNat

/-- Ordering and stepping codes (R362). -/
def orderingCode : Nat := if Config.gradeK then 2 else 1
def steppingCode : Nat := if Config.steppingS2 then 2 else 1

/-- The device certificate (R434). -/
def deviceCert : List Byte :=
  leBytes 8 Config.serial.toNat ++ leBytes 1 orderingCode ++ leBytes 1 steppingCode ++ leBytes 6 0 ++ identityKey
  ++ leBytes 69 0 ++ leBytes 114 Config.certSignature.toNat

/-! ### Verification of a slot (R430, R431) -/

/-- Change a slot. -/
def modSlot (i : Nat) (f : Slot → Slot) (s : State) : State :=
  if i = 0 then { s with sec := { s.sec with slotA := f s.sec.slotA } }
  else { s with sec := { s.sec with slotB := f s.sec.slotB } }

/-- The image digest: SHAKE256-512 of header bytes 0 to 255. -/
def imageDigest (c : SlotContent) : List Byte := shake256 64 (slotBytes c 0 256)

/-- Check 1 on written bytes: magic, format, reserved bytes, lengths. -/
def formatGood (c : SlotContent) : Bool :=
  let f := fun off n => leNat (slotBytes c off n)
  f 0 4 = 0x57463532 && f 4 2 = 1 && f 6 2 = 0 && f 13 3 = 0 && f 85 11 = 0 && f 160 96 = 0 && f 370 14 = 0
    && decide (1 ≤ f 16 4) && decide (f 16 4 ≤ 16776832) && decide (f 20 4 + f 24 4 ≤ f 16 4)

/-- The cause of the first check of R431 that fails; none when the slot passes. The image Plynvik shipped passes checks 1 to 4. -/
def verifyCause (c : SlotContent) (s : State) : Option Nat :=
  let rollback := if slotSec c < s.sec.fuses then some 5 else none
  match c with
  | .empty => some 1
  | .factory _ _ => rollback
  | .bytes _ _ =>
    let pub := slotBytes c 28 57
    if !formatGood c then some 1
    else if shake256 32 pub ≠ leBytes 32 Config.rootHash.toNat then some 2
    else if slotBytes c 96 64 ≠ shake256 64 (slotBytes c 384 (leNat (slotBytes c 16 4))) then some 3
    else if !Config.ed448Verify (BitVec.ofNat 456 (leNat pub)) kxFw (slotBytes c 0 256)
        (BitVec.ofNat 912 (leNat (slotBytes c 256 114))) then some 4
    else rollback

/-- Verify a slot: a failure is logged and kept as LAST_CAUSE, a pass makes the slot verified. -/
def verifySlot (i : Nat) (s : State) : Option Nat × State :=
  match verifyCause (slotOf i s).content s with
  | some k => (some k, logEvent 0x0B03 sevW 0xB1 0xFF (packFields [(1, i), (1, k)]) (setReg .imLastCause i k s))
  | none => (none, modSlot i (fun x => { x with verified := true }) s)

/-! ### Boot (R432, R433, R462) -/

/-- The boot directory in force: the valid copy with the higher sequence number (R433). -/
def bootDir (s : State) : Option (Nat × Nat) :=
  match s.sec.dirA, s.sec.dirB with
  | some a, some b => if a.2 < b.2 then some b else some a
  | some a, none => some a
  | none, b => b

/-- The directory names a slot: the older copy, or one that is not valid, is written (R433). -/
def writeDir (slot : Nat) (s : State) : State :=
  let e := some (slot, match bootDir s with | some (_, q) => (q + 1) % 2 ^ 32 | none => 1)
  let onB := match s.sec.dirA, s.sec.dirB with
    | some a, some b => decide (b.2 ≤ a.2)
    | some _, none => true
    | none, _ => false
  { s with sec := if onB then { s.sec with dirB := e } else { s.sec with dirA := e } }

/-- The slot the directory names: slot A when neither copy is valid. -/
def dirSlot (s : State) : Nat := match bootDir s with | some (x, _) => x | none => 0

/-- The slots the boot ROM tries, by BOOT_SEL. -/
def bootOrder (s : State) : List Nat :=
  match s.pins.bootSel % 4 with
  | 0 => [dirSlot s, 1 - dirSlot s]
  | 1 => [0, 1]
  | 2 => [1, 0]
  | _ => []

/-- A slot's image is started. -/
def startSlot (i : Nat) (s : State) : State :=
  setReg .foreActiveSlot 0 i (setReg .seBootedSlot 0 i (setReg .seRecovery 0 0 s))

/-- The boot ROM stays in recovery. -/
def enterRecovery (causeA causeB : Nat) (s : State) : State :=
  let s := setReg .foreActiveSlot 0 0 (setReg .seBootedSlot 0 0 (setReg .seRecovery 0 1 s))
  assertFault (logEvent 0x0B02 sevF 0xB0 0xFF (packFields [(1, causeA), (1, causeB)]) s)

/-- Step 3 of R390. -/
def bootRom (s : State) : State :=
  match bootOrder s with
  | [a, b] =>
    let (ca, s) := verifySlot a s
    match ca with
    | none =>
      let s := if s.pins.bootSel % 4 = 0 ∧ (bootDir s).isNone then writeDir a s else s
      startSlot a s
    | some ka =>
      let (cb, s) := verifySlot b s
      match cb with
      | none =>
        let s := setReg .seFallback 0 1 (logEvent 0x0B01 sevW 0xB0 0xFF (packFields [(1, a), (1, ka)]) s)
        startSlot b (if s.pins.bootSel % 4 = 0 then writeDir b s else s)
      | some kb => if a = 0 then enterRecovery ka kb s else enterRecovery kb ka s
  | _ => enterRecovery 0 0 s

/-- The boot ROM is in recovery. -/
def recovery (s : State) : Bool := flag .seRecovery 0 s

/-- The running slot: none in recovery. -/
def runningSlot (s : State) : Option Nat := if recovery s then none else some (reg .foreActiveSlot 0 s)

/-! ### Firmware commands (R361) -/

/-- A switch-over is in progress. -/
def switching (s : State) : Bool := s.fore.switch.isSome

/-- The fields of FW_STATUS: version, security version and state of both slots, the active slot, and role and readiness of each
core (role 0 active, 1 standby). -/
def fwStatusBody (s : State) : List Byte :=
  let slot := fun i => leBytes 4 (slotVersion (slotOf i s).content) ++ leBytes 1 (slotSec (slotOf i s).content)
    ++ leBytes 1 (slotState (slotOf i s))
  let act := reg .foreActiveCore 0 s
  let core := fun i => leBytes 1 (if i = act then 0 else 1)
    ++ leBytes 1 (if i = act then 1 else reg .foreStandbyReady 0 s)
  slot 0 ++ slot 1 ++ leBytes 1 (reg .foreActiveSlot 0 s) ++ core 0 ++ core 1

/-- FW_STATUS. -/
def execFwStatus (m : CmdMeta) (s : State) : Out := command m 0x0020 (fun c s => answer c stDone (fwStatusBody s) s) s

/-- Slots of 16 MiB. -/
def slotSize : Nat := 16777216

/-- A slot's content with bytes written at an offset; unwritten flash bytes read 0xFF. -/
def writtenContent (x : SlotContent) (offset : Nat) (data : List Byte) : SlotContent :=
  let old := match x with
    | .bytes b _ => b
    | .empty => []
    | .factory _ _ => tabFill 0xFF#8 [] 0 (slotBytes x 0 Config.factoryLength)
  let len := match x with
    | .bytes _ n => n
    | .empty => 0
    | .factory _ _ => Config.factoryLength
  .bytes (tabFill 0xFF#8 old offset data) (max len (offset + data.length))

/-- FW_WRITE. -/
def execFwWrite (m : CmdMeta) (slot offset : Nat) (data : List Byte) (s : State) : Out :=
  command m 0x0021 (fun c s =>
    if data = [] ∨ data.length > 2048 then refuse c stBadLength s
    else if slot > 1 ∨ offset + data.length > slotSize then refuse c stBadParam s
    else if runningSlot s = some slot ∨ switching s then refuse c stBadState s
    else done c (modSlot slot (fun f => { content := writtenContent f.content offset data, verified := false }) s)) s

/-- FW_SWITCH steps 1 and 2: the checks, ACCEPTED, and the standby core resets and loads. -/
def execFwSwitch (m : CmdMeta) (slot : Nat) (s : State) : Out :=
  command m 0x0023 (fun c s =>
    if slot > 1 then refuse c stBadParam s
    else if switching s ∨ runningSlot s = some slot ∨ (slotOf slot s).verified = false ∨ ¬ flag .foreStandbyReady 0 s then
      refuse c stBadState s
    else if slotSec (slotOf slot s).content < s.sec.fuses then refuse c stDenied s
    else accept c (fun s =>
      let s := setReg .foreSwitching 0 1 (setReg .foreStandbyReady 0 0 s)
      { s with fore := { s.fore with switch := some { slot := slot, step := 2, since := s.time.now, cmd := c } } }) s) s

/-- A step of the switch-over fails or misses its bound: the standby is stopped and the active core continues (R369). -/
def endSwitch (s : State) : State :=
  match s.fore.switch with
  | none => s
  | some w =>
    let s := setReg .foreSwitching 0 0 { s with fore := { s.fore with switch := none } }
    if w.step ≤ 5 then finish w.cmd stInternalFault [] s else s

/-- FW_SWITCH_STANDBY_LOADED: steps 2 and 3 end, and the Shops quiesce (step 4). -/
def execFwSwitchStandbyLoaded (ok : Bool) (s : State) : Out :=
  .next (match s.fore.switch with
    | none => s
    | some w =>
      if w.step ≠ 2 then s
      else
        let (bad, s) := verifySlot w.slot s
        if !ok || bad.isSome then endSwitch s
        else { s with fore := { s.fore with switch := some { w with step := 4, since := s.time.now } } })

/-- FW_SWITCH_HANDOVER: the standby becomes active and resumes the queues; the final DONE goes (steps 5 and 6). -/
def execFwSwitchHandover (s : State) : Out :=
  .next (match s.fore.switch with
    | none => s
    | some w =>
      if w.step ≠ 4 then s
      else
        let old := reg .foreActiveSlot 0 s
        let s := setReg .foreActiveCore 0 (1 - reg .foreActiveCore 0 s) (setReg .foreActiveSlot 0 w.slot s)
        let s := markFlag detFwSwitch { s with fore := { s.fore with
          switch := some { w with step := 7, since := s.time.now }, lastHeartbeat := s.time.now, activeAlive := true } }
        let s := logEvent 0x0003 sevI 0x00 0xFF
          (packFields [(1, old), (1, w.slot), (4, slotVersion (slotOf w.slot s).content)]) s
        finish w.cmd stDone [] s)

/-- FW_SWITCH_DIRECTORY_DONE: the directory names the new slot, and the old core is the standby (step 7). -/
def execFwSwitchDirectoryDone (s : State) : Out :=
  .next (match s.fore.switch with
    | none => s
    | some w =>
      if w.step ≠ 7 then s
      else
        let s := writeDir w.slot { s with fore := { s.fore with switch := none } }
        incReg .foreSwitchCnt 0 (setReg .foreStandbyReady 0 1 (setReg .foreSwitching 0 0 s)))

/-- The bound of a step of R369 in ns: 400 ms and 50 ms for steps 2 and 3, 1 ms and 100 µs for 4 and 5, 500 ms for 7. -/
def switchBound (step : Nat) : Nat := if step = 2 then 450000000 else if step = 4 then 1100000 else 500000000

/-- FW_SWITCH_STEP_TIMEOUT. -/
def execFwSwitchStepTimeout (s : State) : Out :=
  .next (match s.fore.switch with
    | none => s
    | some w => endSwitch (advanceTo (w.since + switchBound w.step) s))

/-! ### The key engine (R435) -/

/-- A command's first reply is out: its queue may start the next (R357). -/
def freeQueue (c : CmdRef) (s : State) : State :=
  { s with fore := { s.fore with busy := s.fore.busy.filter fun e => e.2 ≠ c } }

/-- A command's first reply waits: its queue starts nothing meanwhile. -/
def holdQueue (q : Nat) (c : CmdRef) (s : State) : State :=
  { s with fore := { s.fore with busy := tabPut s.fore.busy q c } }

/-- A signature is asked for; a full queue answers NO_RESOURCE. -/
def askSignature (x : SignFor) (q : Nat) (c : CmdRef) (s : State) : State :=
  if signRoom s then holdQueue q c { s with sec := { s.sec with signQ := s.sec.signQ ++ [x] } }
  else refuse c stNoResource (incReg .seSignBusyCnt 0 s)

/-- Bytes 0 to 255 of the attestation report (R436). -/
def attestBody (nonce : List Byte) (s : State) : List Byte :=
  let run := reg .foreActiveSlot 0 s
  let cur := (slotOf run s).content
  let oth := slotOf (1 - run) s
  let ok := oth.verified && oth.content ≠ .empty
  let eqDig := if eqHeaderGood s then eqFlashBytes 24 8 s else leBytes 8 0
  let p1 := sumNat ((List.range 52).map fun l => reg .lkP1 l s * 2 ^ l)
  packFields [(2, 0x5441), (1, 1), (1, 0)] ++ leBytes 8 Config.serial.toNat ++ padTo 32 nonce ++ leBytes 2 signature
  ++ packFields [(1, orderingCode), (1, steppingCode), (1, s.pins.pattern), (1, s.sec.fuses),
      (1, run % 2 + 2 * reg .foreStandbyReady 0 s + 4 * reg .seFallback 0 s), (1, slotSec cur), (4, slotVersion cur),
      (1, if ok then slotSec oth.content else 0xFF), (3, 0)]
  ++ imageDigest cur ++ (if ok then imageDigest oth.content else leBytes 64 0)
  ++ leBytes 8 Config.bootRomDigest.toNat ++ clockDigest s ++ profileDigest s ++ eqDig
  ++ packFields [(7, p1), (1, 0), (6, timeBase s)] ++ identityDigest ++ leBytes 14 0

/-- SEC_ATTEST: the report is formed and its signature queued; one asked for during a switch-over takes its fields when it is signed,
from the core then active (R436). -/
def execSecAttest (m : CmdMeta) (nonce : List Byte) (s : State) : Out :=
  command m 0x0B01 (fun c s =>
    if nonce.length ≠ 32 then refuse c stBadLength s
    else askSignature (.attest c nonce (if switching s then [] else attestBody nonce s)) 8 c s) s

/-- SIGNATURE_DONE: the oldest request is signed and answered. -/
def execSignatureDone (s : State) : Out :=
  .next (match s.sec.signQ with
    | [] => s
    | x :: r =>
      let s := incReg .seSignCnt 0 { s with sec := { s.sec with signQ := r } }
      match x with
      | .attest c nonce body =>
        let b := if body = [] then attestBody nonce s else body
        answer c stDone (b ++ deviceSign kxAt b) (freeQueue c s)
      | .shakeout c body => answer c stDone (body ++ deviceSign kxSk body) (freeQueue c s)
      | .record c body =>
        let b := body.take 416 ++ deviceSign kxIh (body.take 416) ++ body.drop 530
        let heat := fieldAt body 4 4
        let s := if tabFind s.det.held heat = some body then
            { s with det := { s.det with held := tabPut s.det.held heat b } } else s
        finish c stDone b s)

/-! ### Anti-rollback (R437) -/

/-- The conditions of R437. -/
def commitAllowed (v : Nat) (s : State) : Bool :=
  let run := reg .foreActiveSlot 0 s
  let oth := slotOf (1 - run) s
  decide (v > s.sec.fuses) && decide (slotSec (slotOf run s).content ≥ v) && !recovery s
    && (oth.content = .empty || (oth.verified && decide (slotSec oth.content ≥ v)))
    && !switching s && !flag .pwWarning 0 s && s.sec.rollback.isNone

/-- SEC_ROLLBACK_COMMIT: the fuses blow one after another. -/
def execSecRollbackCommit (m : CmdMeta) (v : Nat) (s : State) : Out :=
  command m 0x0B03 (fun c s =>
    if v > 64 then refuse c stBadParam s
    else if !commitAllowed v s then refuse c stBadState s
    else holdQueue 8 c { s with sec := { s.sec with rollback := some { target := v, from' := s.sec.fuses, cmd := c } } }) s

/-- ROLLBACK_FUSE_BLOWN: a fuse reads back blown, or the command fails. -/
def execRollbackFuseBlown (ok : Bool) (s : State) : Out :=
  .next (match s.sec.rollback with
    | none => s
    | some r =>
      if !ok then
        let s := freeQueue r.cmd { s with sec := { s.sec with rollback := none } }
        answer r.cmd stInternalFault (leBytes 1 s.sec.fuses)
          (logEvent 0x0B05 sevW 0xB0 0xFF (packFields [(1, s.sec.fuses)]) s)
      else
        let n := s.sec.fuses + 1
        let s := { s with sec := { s.sec with fuses := n } }
        if n < r.target then s
        else
          let s := freeQueue r.cmd { s with sec := { s.sec with rollback := none } }
          answer r.cmd stDone (leBytes 1 n) (logEvent 0x0B04 sevI 0xB0 0xFF (packFields [(1, r.from'), (1, n)]) s))

/-! ### Commands of range 0x0Bxx (R441) -/

/-- SEC_STATUS: R439 at offsets 0x0 to 0x8 and R440 of both slots. -/
def execSecStatus (m : CmdMeta) (s : State) : Out :=
  command m 0x0B00 (fun c s =>
    answer c stDone (readWords 0xB0000000 3 s ++ readWords 0xB1000000 3 s ++ readWords 0xB1000010 3 s) s) s

/-- SEC_IDENTITY_READ. -/
def execSecIdentityRead (m : CmdMeta) (s : State) : Out := command m 0x0B02 (fun c s => answer c stDone deviceCert s) s

/-- SEC_ROOT_READ. -/
def execSecRootRead (m : CmdMeta) (s : State) : Out :=
  command m 0x0B04 (fun c s => answer c stDone (leBytes 32 Config.rootHash.toNat) s) s

/-- SEC_STATS. -/
def execSecStats (m : CmdMeta) (s : State) : Out :=
  command m 0x0B10 (fun c s => answer c stDone (readWords 0xB0000030 2 s) s) s

end Sys2Proof.Machine
end

