-- ==== Sys2Proof/Machine/Tundish.lean ====
section
/-! DEFINITION. The Tundish and the output queues: their events and the commands of range 0x03xx (R294, R299, R305, R309). -/
namespace Sys2Proof.Machine

/-! ### The free store (R294) -/

/-- TUNDISH_RING_TRANSFER: fewer than 8,192 cached pointers read 4,096 from the ring's head, more than 24,576 write 4,096 to its
tail. -/
def execTundishRingTransfer (half' : Nat) (s : State) : Out :=
  onUnit (decide (half' < 2)) s (
    let h := half half' s
    let n := runCount h.cache
    if n < 8192 ∧ h.ring ≠ [] then
      let (a, r) := splitRuns 4096 h.ring
      incReg .tuRingXferCnt half' (modHalf half' (fun h => { h with cache := h.cache ++ a, ring := r }) s)
    else if n > 24576 then
      let (a, r) := splitRuns 4096 h.cache
      incReg .tuRingXferCnt half' (modHalf half' (fun h => { h with cache := r, ring := h.ring ++ a }) s)
    else s)

/-! ### Banks (R305) -/

/-- A list of runs without the groups of a bank. -/
def cutBank (b : Nat) (l : List (Nat × Nat)) : List (Nat × Nat) :=
  let lo := b * 6144
  let hi := lo + 6144
  (l.flatMap fun e => [(e.1, min (e.1 + e.2) lo - e.1), (max e.1 hi, e.1 + e.2 - max e.1 hi)]).filter fun e => e.2 ≠ 0

/-- A second failing bank is mapped out: its groups leave the free store, and the half shrinks. -/
def mapOutBank (d b : Nat) (s : State) : State :=
  if (half d s).mapped.contains b then s
  else
    let s := modHalf d (fun h => { h with mapped := h.mapped ++ [b], cache := cutBank b h.cache, ring := cutBank b h.ring,
                                          bankBad := h.bankBad.filter (· ≠ b), bankErrs := h.bankErrs.filter (·.1 ≠ b) }) s
    let s := { s with rel := { s.rel with mappedRec := s.rel.mappedRec ++ [(d, b)] } }
    logEvent 0x0303 sevW (0x30 + d) d (packFields [(1, b)]) (setReg .tuReduced d 1 s)

/-- The copy to the Riser bank begins (steps 1 and 2). -/
def startBankSwap (d b : Nat) (cmd : Option CmdRef) (s : State) : State :=
  modHalf d (fun h => { h with swap := some { bank := b, since := s.time.now, cmd := cmd } }) s

/-- A bank swap the reliability Shop proposes: to the Riser bank, or mapped out where that is in use. -/
def proposeBank (d b : Nat) (s : State) : State :=
  if (half d s).swap.isSome then s
  else if flag .tuRiserUsed d s then mapOutBank d b s
  else startBankSwap d b none s

/-- The packets held with one of some cells are damaged. -/
def damageCells (d : Nat) (ptrs : List Nat) (s : State) : State :=
  let hit := s.sw.holds.filter fun e => e.2.die = d && e.2.ptrs.any fun p => ptrs.contains p
  resendMarked (hit.foldl (fun s e => damageHold e.1 s) s)

/-- BANK_SWAP_COPY_DONE: the bank map switches, and the old bank is powered down and logged (steps 3 and 4); the copy of the cells `lost`,
named by pointer, met an uncorrectable error. -/
def execBankSwapCopyDone (half' : Nat) (lost : List Nat) (s : State) : Out :=
  onUnit (decide (half' < 2)) s (match (half half' s).swap with
    | none => s
    | some j =>
      let mine := lost.filter fun p => bitsOf p 22 17 = half' * 32 + j.bank
      let s := mine.foldl (fun s p => logEvent 0x0304 sevW (0x30 + half') half' (packFields [(4, p)]) s) s
      let s := damageCells half' mine (addReg .tuEccUncorrCnt half' mine.length s)
      let s := modHalf half' (fun h => { h with swap := none, bankBad := h.bankBad.filter (· ≠ j.bank),
                                                bankErrs := h.bankErrs.filter (·.1 ≠ j.bank) }) s
      let s := setReg .tuRiserFor half' j.bank (setReg .tuRiserUsed half' 1 s)
      let s := logEvent 0x0302 sevI (0x30 + half') half' (packFields [(1, j.bank)]) s
      let s := markFlag detRiser (incReg .reSwapCnt 0 (addHistory 3 (100 * half' + j.bank) j.bank 32 s))
      finishOpt j.cmd stDone [] s)

/-! ### Commands of range 0x03xx (R309) -/

/-- TUNDISH_STATUS. -/
def execTundishStatus (m : CmdMeta) (half' : Nat) (s : State) : Out :=
  command m 0x0300 (fun c s => requires (decide (half' ≤ 1)) c stBadParam
    (fun s => answer c stDone (readWords (0x30000000 + half' * 0x1000000) 8 s) s) s) s

/-- TUNDISH_THRESH_SET (R300). -/
def execTundishThreshSet (m : CmdMeta) (port cls warn slow stop : Nat) (s : State) : Out :=
  command m 0x0301 (fun c s =>
    requires (decide (port < 52) && decide (cls ≤ 4) && decide (warn < slow) && decide (slow < stop) && decide (stop ≤ halfCells))
      c stBadParam (fun s =>
        let i := threshIdx port cls
        done c (setReg .thWarn i warn (setReg .thSlow i slow (setReg .thStop i stop s)))) s) s

/-- Sum of the allowances of VCs 5 to 7 (R297). -/
def highAllow (s : State) : Nat :=
  sumNat ((List.range 52).flatMap fun k => [5, 6, 7].map fun w => (vcOf k w s).allowCfg)

/-- TUNDISH_POOL_SET (R297, R301). -/
def execTundishPoolSet (m : CmdMeta) (half' warn slow stop reserve : Nat) (s : State) : Out :=
  command m 0x0302 (fun c s =>
    if half' > 1 ∨ warn ≥ 2 ^ 22 ∨ ¬ (warn > slow ∧ slow > stop ∧ stop > reserve) then refuse c stBadParam s
    else if highAllow s > reserve - 16384 then refuse c stNoResource s
    else done c (setReg .tuPoolWarn half' warn (setReg .tuPoolSlow half' slow (setReg .tuPoolStop half' stop
      (setReg .tuReserve half' reserve s))))) s

/-- TUNDISH_BANK_SWAP. -/
def execTundishBankSwap (m : CmdMeta) (half' bank : Nat) (s : State) : Out :=
  command m 0x0303 (fun c s =>
    if half' > 1 ∨ bank > 31 then refuse c stBadParam s
    else if (half half' s).swap.isSome then refuse c stBadState s
    else if flag .tuRiserUsed half' s then refuse c stNoResource s
    else accept c (startBankSwap half' bank (some c)) s) s

/-- Queues allocated beyond the default ones, at a port and in all. -/
def extraQueues (s : State) : Tab OutQueue := s.sw.queues.filter fun e => !e.2.dflt

/-- The lowest index from 440 that no queue has. -/
def freeQueueIdx (s : State) : Nat := firstGap 440 ((extraQueues s).filter fun e => decide (e.1 ≥ 440))

/-- QUEUE_ALLOC (R298, R299). -/
def execQueueAlloc (m : CmdMeta) (port cls heat : Nat) (s : State) : Out :=
  command m 0x0310 (fun c s =>
    let okPort := decide (port < 52) || (decide (56 ≤ port) && decide (port ≤ 58))
    if !okPort || decide (cls > 4) || heat = 0 then refuse c stBadParam s
    else if (extraQueues s).any (fun e => e.2.port = port && e.2.vc = cls && e.2.heat = heat) then refuse c stBadState s
    else
      let i := freeQueueIdx s
      if i ≥ 262144 ∨ ((extraQueues s).filter fun e => e.2.port = port).length + 8 ≥ 16384 then
        refuse c stNoResource (incReg .qpAllocFailCnt 0 s)
      else
        let q : OutQueue := { port := port, vc := cls, dflt := false, pend := !isFabric port, heat := heat, ents := [], tag := 0,
                              weight := classWeight port cls s }
        answer c stDone (leBytes 4 i) (settleBindings (putQueue i q s))) s

/-- QUEUE_FREE: the packets are relinked to the tail of the default queue (R299). -/
def execQueueFree (m : CmdMeta) (queue : Nat) (s : State) : Out :=
  command m 0x0311 (fun c s =>
    if queue ≥ 262144 then refuse c stBadParam s
    else if queue < 440 then refuse c stBadState s
    else match tabFind s.sw.queues queue with
      | none => refuse c stBadParam s
      | some q =>
        let i := defaultQueueIdx q.port q.vc
        let s := delQueue queue { s with samples := tabDel s.samples queue }
        let d := (queueOf i s).getD (emptyQueue i)
        let s := match q.ents with
          | [] => s
          | e :: _ =>
            let tag := if d.ents = [] then headTag d true e.cells s else d.tag
            putQueue i { d with ents := d.ents ++ q.ents.map (fun x => { x with sample := none }), tag := tag } s
        done c s) s

/-- The descriptor of R298. The index of the scheduler entry is not stated: a free value. -/
def queueDesc (q : OutQueue) (s : State) : List Byte :=
  let ptrOf := fun (e : Option QEnt) (last : Bool) => match e with
    | none => 0
    | some e => match tabFind s.sw.holds e.hold with
      | some h => (if last then h.ptrs.getLast? else h.ptrs.head?).getD 0
      | none => 0
  leBytes 32 (q.port + q.vc * 2 ^ 6 + b2n q.dflt * 2 ^ 9 + b2n q.pend * 2 ^ 10 + q.heat % 2 ^ 32 * 2 ^ 32
    + sumNat (q.ents.map (·.cells)) % 2 ^ 22 * 2 ^ 64 + q.ents.length % 2 ^ 24 * 2 ^ 96 + ptrOf q.ents.head? false * 2 ^ 128
    + ptrOf q.ents.getLast? true * 2 ^ 160 + freeNat s % 2 ^ 16 * 2 ^ 192)

/-- QUEUE_QUERY. -/
def execQueueQuery (m : CmdMeta) (queue : Nat) (s : State) : Out :=
  command m 0x0312 (fun c s => match queueOf queue s with
    | some q => if queue < 262144 then answer c stDone (queueDesc q s) (useFree s) else refuse c stBadParam s
    | none => refuse c stBadParam s) s

/-- TUNDISH_STATS: the counters of R306, R307 and R308 (log entry 45: in block order). -/
def execTundishStats (m : CmdMeta) (s : State) : Out :=
  command m 0x0320 (fun c s => answer c stDone (readWords 0x30000020 6 s ++ readWords 0x31000020 6 s ++ readWords 0x32000000 5 s
    ++ readWords 0x33000000 5 s ++ readWords 0x34000004 1 s) s) s

end Sys2Proof.Machine
end

