-- ==== Sys2Proof/Machine/Reset.lean ====
section
/-! DEFINITION. The resets of the data plane: what each keeps (R403), the bring-up (R390), the WARM reset (R400) and its end. -/
namespace Sys2Proof.Machine

/-! ### Work that a reset discards (R98, R344, R400) -/

/-- Log the Pours and runs in flight, the segments and the Ihlil contexts that a reset discards. -/
def logWork (s : State) : State :=
  let pours := s.pour.pours.filter fun p => decide (p.state ≤ 4)
  let runs := s.layer.segs.flatMap fun e => (e.2.running.map (·.run)).toList ++ e.2.queue
  let s := pours.foldl (fun s p => logEvent 0x090B sevW 0x60 0xFF (packFields [(1, 0), (4, p.pourId), (4, p.heat)]) s) s
  let s := runs.foldl (fun s r => logEvent 0x090B sevW 0x70 0xFF (packFields [(1, 1), (4, r.tag), (4, r.heat)]) s) s
  let n := s.layer.segs.length
  let s := if n = 0 then s else logEvent 0x0703 sevW 0x70 0xFF (packFields [(1, n)]) s
  let k := s.det.ctxs.length
  if k = 0 then s else logEvent 0x0D01 sevW 0xD0 0xFF (packFields [(2, k)]) s

/-! ### Registers a reset keeps (R403) -/

/-- The number of the field of a register key. -/
def fldNo (key : Nat) : Nat := key % 512

/-- The entries of the fields of some blocks and of single fields. -/
def keepRegs (blocks : List Nat) (fields : List Fld) (t : Tab Nat) : Tab Nat :=
  t.filter fun e => (blocks.any fun b => decide ((fldSpan b).1 ≤ fldNo e.1) && decide (fldNo e.1 < (fldSpan b).2))
    || fields.any fun f => fldNo e.1 = f.code

/-- Fields kept while main power goes: the standby domain's, the trim, STEP_CNT, and what mirrors inputs and boot. -/
def mainKept : List Fld :=
  [.ckTrim, .ckStepCnt, .pwInputMv, .pwWarning, .pwThrottle, .pwDieMaxC, .pwHbmMaxC, .hbTemp, .hbRefresh2x, .seFallback]

/-- Fields a WARM reset keeps beside whole blocks: LINK_CONFIG settings, Riser lane swaps, EQ_DEFAULT, the Tundish bank map,
temperatures, the settings of RISER_POLICY, boot and verification results. -/
def warmKept : List Fld :=
  [.lkRateSel, .lkCeil1, .lkEnable, .lkCvThresh, .lkRxSwap, .lkTxSwap, .lkEqDefault, .tuRiserUsed, .tuRiserFor, .tuReduced,
   .hbTemp, .hbRefresh2x, .reAuto, .reAgeMinPs, .reFlaskCorrLimit, .reFrameCorrLimit, .reHbmScrubH,
   .seBootedSlot, .seFallback, .seRecovery, .imLastCause]

/-- The clock fields a WARM reset returns to their reset values: CLKOBS and CLK_EN (R388). -/
def warmClk : List Fld := [.ckClkEn, .ckClkobsSel, .ckClkobsBusy, .ckClkobsDiv]

/-- A rollback commit that a loss of power cuts: the fuse in hand reads as either (R437). -/
def cutRollback (s : State) : State :=
  match s.sec.rollback with
  | none => s
  | some _ => useFree { s with sec := { s.sec with rollback := none, fuses := s.sec.fuses + freeNat s % 2 } }

/-! ### The Tundish after a reset (R295, R305) -/

/-- A half whose rings are to be rebuilt from its bank map. -/
def freshHalf (mapped : List Nat) : TundishHalf :=
  let z : TundishHalf := {}
  { z with cache := mapped.foldl (fun l b => cutBank b l) z.cache, ring := mapped.foldl (fun l b => cutBank b l) z.ring,
           mapped := mapped }

/-- Both halves emptied, with the banks mapped out in each. -/
def freshSwitch (a b : List Nat) : SwitchPart :=
  let z : SwitchPart := {}
  { z with x0 := freshHalf a, x1 := freshHalf b }

/-! ### Loss of main power, the reset level, COLD: everything but the standby domain -/

/-- The state while the main domain is held in reset: the standby domain, the Assay island, the fuses, the board flash and its
reliability records stay (R391, R403). -/
def clearMain (s : State) : State :=
  let s := cutRollback s
  let z := State.reset
  { z with
    pending := s.pending, out := s.out, freeCtr := s.freeCtr, csr := keepRegs [0xA1, 0xA2] mainKept s.csr
    time := { s.time with latched := false, frames := [], armed := none, absentAt := none, presentAt := none }
    pins := s.pins
    coord := { s.coord with binds := [], unbound := [], seen := 0 }
    power := { z.power with state := s.power.state, standbyAt := s.power.standbyAt, p48Good := s.power.p48Good,
                            settled := s.power.settled, shutdown := s.power.shutdown, resetLevel := s.power.resetLevel,
                            warnAt := s.power.warnAt, minMv := s.power.minMv, throttleAt := s.power.throttleAt,
                            coolFail := s.power.coolFail, sensors := s.power.sensors, needMain := s.power.needMain,
                            awaitReset := s.power.awaitReset }
    sb := s.sb, jtag := s.jtag, eqFlash := s.eqFlash
    rel := { z.rel with entries := s.rel.entries, writer := s.rel.writer, history := s.rel.history, risers := s.rel.risers,
                        degraded := s.rel.degraded, mappedRec := s.rel.mappedRec, pllRec := s.rel.pllRec }
    sec := { s.sec with signQ := [], rollback := none }
    assay := { s.assay with rx := none, rxAt := 0, attrib := [], weights := [] }
    mem := { z.mem with retired := s.mem.retired, lostStacks := s.mem.lostStacks } }

/-- The main domain is held in reset (R391): its work is logged, every transmitter stops. -/
def enterReset (st : PowerState) (s : State) : State :=
  let s := clearMain (logWork s)
  driveAlert { s with power := { s.power with state := st } }

/-! ### Bring-up (R390) -/

/-- Pending coordinates are applied at main power-on and COLD reset (R193, R197). -/
def applyPending (s : State) : State :=
  { s with coord := { s.coord with group := s.coord.pendGroup.or s.coord.group, count := s.coord.pendCount.or s.coord.count,
                                   pendGroup := none, pendCount := none } }

/-- Straps are sampled: MEMBER_ID and BOOT_SEL at every bring-up, PATTERN_REV at main power-on (R462). -/
def sampleStraps (s : State) : State :=
  let t := s.pins.straps
  { s with pins := { s.pins with bootSel := t.bootSel % 4,
                                 pattern := if s.power.needMain then (if t.patternRev = 1 then 1 else 2) else s.pins.pattern }
           coord := { s.coord with member := t.member % 16 } }

/-- The links of a list begin to train (step 6). -/
def trainLinks (ls : List Nat) (s : State) : State := ls.foldl (fun s l => powerUp l s) s

/-- The links a reset's end trains: a FAILED one waits for LINK_RETRAIN, LINK_CONFIG, main power-on or a COLD reset (R219). -/
def trainable (s : State) : List Nat := (List.range 52).filter fun l => lkStateOf l s ≠ lkFailed

/-- Steps 4 to 6 once an image runs: records and tables are loaded, clocks lock, zeroing begins, the links train. -/
def dataPlaneUp (s : State) : State :=
  let s := setReg .ckAclkSrc 0 s.rel.pllRec (setReg .ckPll0Lock 0 (b2n (s.rel.pllRec = 1)) (setReg .ckPll1Lock 0 (b2n (s.rel.pllRec = 2)) s))
  let s := applyRetired s.mem.retired { s with mem := { s.mem with frames := [], promoted := [], turn := 0, bootZeroAt := none } }
  let s := { s with mem := { s.mem with bootZeroAt := some s.time.now, bootZeroed := [] }
                    power := { s.power with state := .running } }
  trainLinks (trainable s) s

/-- The Tundish halves with the mapped-out banks re-applied (R305, R410). -/
def freshTundish (s : State) : State :=
  let banks := fun d => (s.rel.mappedRec.filter fun e => e.1 = d).map (·.2)
  let s := setReg .tuReduced 1 (b2n (banks 1 ≠ [])) (setReg .tuReduced 0 (b2n (banks 0 ≠ [])) s)
  { s with sw := freshSwitch (banks 0) (banks 1), power := { s.power with halfBanked := 0 } }

/-- The whole bring-up: the links then train and wait for coordinates. In recovery only the service links train. -/
def bringUp (s : State) : State :=
  let s := sampleStraps (applyPending s)
  let main := s.power.needMain
  let s := if main then setReg .seFallback 0 0 { s with mem := { s.mem with lostStacks := 0 } } else s
  let s := { s with power := { s.power with state := .inReset, needMain := false, shutdown := false }
                    pins := { s.pins with refclk := true }
                    fore := { s.fore with bringUpAt := s.time.now, lastHeartbeat := s.time.now, activeAlive := true } }
  let s := setReg .ckHalved 0 (b2n (paused s)) (setReg .sbMainSnap 0 1 (setReg .ckRefclkOk 0 1 s))
  let s := if s.pins.pattern = 1 then (List.range 52).foldl (fun s l => setReg .lkCeil1 l 1 s) s else s
  let s := freshTundish (loadEq (bootRom s))
  if recovery s then trainLinks [48, 49, 50, 51] s else dataPlaneUp s

/-- The release level of a sensor: dies 0 to 5 (X0, X1, C0 to C3) and stacks 6 to 17 (R397; the numbers are log entry 48). -/
def releaseC (sensor : Nat) : Nat := if sensor < 6 then 100 else 90

/-- Every sensor is below its release level, and no coolant fault is in force. -/
def sensorsCool (s : State) : Bool := s.power.sensors.all fun e => decide (e.2 < releaseC e.1)

/-- The bring-up starts when standby power has settled, main power is good and RESET_N is released (R390, R468); after a shutdown only
once a COLD reset or a main power-on has come and the sensors are cool (R397). -/
def tryBringUp (s : State) : State :=
  let p := s.power
  if (p.state = .standbyOnly ∨ p.state = .inReset) ∧ s.pins.p12sb ∧ p.settled ∧ p.p48Good ∧ ¬ p.resetLevel ∧ s.pins.resetN
      ∧ ¬ recovery s ∧ (¬ p.shutdown ∨ ¬ p.awaitReset ∧ sensorsCool s) then bringUp s
  else s

/-! ### WARM reset (R182, R400) -/

/-- Replies already queued leave before the reset takes the queues (step 1: ACCEPTED is sent). -/
def flushReplies (s : State) : State :=
  let l := s.sw.queues.flatMap fun e => (e.2.ents.filter fun q => q.pkt.typ = tyCmdReply && q.pkt.src = ownEp 56 s).map
    fun q => (e.2.port, q.pkt)
  l.foldl (fun s e => if e.1 < 52 then sendPacket e.1 e.2 false s else s) s

/-- The memory a WARM reset keeps (R182): frames of discarded work return to the free frames, and moves in progress end where they
began. A class 2 copy under resynchronisation has its bytes from the start and goes on being DEGRADED until it is resynchronised. -/
def warmMemory (s : State) : MemPart :=
  let keep := s.mem.frames.map fun e => match e.2.use with
    | .spill | .segment _ | .reserved _ | .stub _ _ _ => (e.1, { use := FrameUse.zeroing })
    | _ => e
  let moving := s.mem.moves.map (·.page)
  let settle (p : Nat) (e : PageEnt) : PageEnt := if e.state = pgMoving ∧ moving.contains p then { e with state := pgValid } else e
  let z : MemPart := {}
  { z with hbm := s.mem.hbm, frames := keep, book := s.mem.book.map fun e => (e.1, settle (ownDev s * 2 ^ 23 + e.1) e.2),
           partner := s.mem.partner.map fun e => (e.1, settle e.1 e.2), bootZeroAt := s.mem.bootZeroAt,
           bootZeroed := s.mem.bootZeroed, retired := s.mem.retired, lostStacks := s.mem.lostStacks,
           promoted := s.mem.promoted, turn := s.mem.turn, remapAt := s.mem.remapAt,
           moves := s.mem.moves.filter fun m => m.kind = .resync }

/-- A device that was fenced rejoins (R180): its home map is emptied, every frame is zeroed, and its book slice and its copies of
partners' books are empty until its partner's messages fill them again (`keepCopy`), before port 57 serves. -/
def rejoinMemory (s : State) : State :=
  let z : MemPart := {}
  let s := applyRetired s.mem.retired { s with mem := { z with retired := s.mem.retired, lostStacks := s.mem.lostStacks } }
  { s with mem := { s.mem with bootZeroAt := some s.time.now, rejoining := true } }

/-- A link after a WARM reset: the count it passed R196 with and a pending count stay; a clear-swap request stays a setting. -/
def warmLink (k : LinkPart) : LinkPart :=
  { expectCnt := k.expectCnt, pendingCnt := k.pendingCnt, clearSwap := k.clearSwap }

/-- Step 2: every link, switch half, Bay, engine and stream context is reset; the Foreman's state, the coordinates, the link
settings, the equalization entries and HBM are kept. -/
def clearWarm (s : State) : State :=
  let z := State.reset
  let gates := ((List.range 52).filter fun l => reg .lkState l s ≠ 0 && reg .lkState l s ≠ lkFailed) ++
    ((List.range 100).filter fun b => reg .pwBayState b s = 0).map epochBay ++
    ((List.range 2).filter fun d => halfBanked d s).map epochHalf
  let s := gates.foldl (fun s k => bumpEpoch k s) s
  let s := if fencedDev (ownDev s) s then rejoinMemory s else { s with mem := warmMemory s }
  let csr := keepRegs [0x00, 0x91, 0x92, 0xA1, 0xA2] warmKept s.csr
    ++ (keepRegs [0x90] [] s.csr).filter fun e => !(warmClk.any fun f => fldNo e.1 = f.code)
  let csr := csr.filter fun e => fldNo e.1 ≠ Fld.pwBayState.code ∧ fldNo e.1 ≠ Fld.ckCpllRun.code
  let failed := s.csr.filter fun e =>
    (fldNo e.1 = Fld.lkState.code && e.2 = lkFailed) || (fldNo e.1 = Fld.lkCause.code && decide (lkStateOf (e.1 / 512) s = lkFailed))
  let csr := csr ++ failed
  let csr : Tab Nat := csr.foldl (fun t e => tabPut t e.1 e.2) []
  { z with
    pending := s.pending, out := s.out, freeCtr := s.freeCtr, csr := csr
    time := { s.time with frames := [], armed := none }
    pins := s.pins
    coord := { s.coord with binds := [], unbound := [], seen := 0 }
    power := { s.power with domains := [], aclkSwap := none, obsCur := 0, obsNext := none, bayWake := [], bayIdle := [],
                            cpllWait := [], wakeWait := [], halfBanked := 0 }
    fore := s.fore, sb := s.sb, jtag := s.jtag
    links := (s.links.map fun e => (e.1, warmLink e.2)).filter fun e => e.2 ≠ {}
    eq := s.eq, eqFlash := s.eqFlash
    sw := freshSwitch s.sw.x0.mapped s.sw.x1.mapped
    rel := { s.rel with proposals := [], lapsed := [], flaskErrs := [], frameErrs := [], frameBad := [], badLines := [] }
    sec := s.sec, assay := { s.assay with attrib := [], weights := [] }, mem := s.mem }

/-- HBM controllers are gated or ungated: self-refresh begins or ends (R364, R386). -/
def gateStacks (s : State) : State :=
  ((List.range 12).filter fun st => !s.mem.lostStacks.testBit st).foldl (fun s st => bumpEpoch (epochStack st) s) s

/-- A WARM reset begins (steps 1 and 2), or the one in progress goes on (R401). Commands between ACCEPTED and their final reply
get none, but for the one that asked for the reset (R98; log entry 49). -/
def beginWarm (cause : Nat) (cmd : Option CmdRef) (held : Bool) (s : State) : State :=
  if s.power.state = .warm then { s with power := { s.power with refHeld := s.power.refHeld || held } }
  else if s.power.state ≠ .running then s
  else
    let s := logEvent 0x090A (if cause = 1 then sevF else sevW) 0x91 0xFF (packFields [(1, cause)]) s
    let s := gateStacks (clearWarm (flushReplies (logWork s)))
    let s := { s with power := { s.power with state := .warm, refHeld := held,
                                              warm := some { cause := cause, since := s.time.now, cmd := cmd } }
                      fore := { s.fore with outstanding := s.fore.outstanding.filter fun c => some c = cmd } }
    if held then s else trainLinks (trainable s) s

/-- A half's rings are rebuilt: the links of its die may pass step 6 (R217, R295). -/
def rebuildDone (d : Nat) (s : State) : State :=
  if halfBanked d s then s
  else
    let s := modHalf d (fun h => { h with rebuilt := true }) s
    ((List.range 52).filter fun l => dieOfLink l = d).foldl (fun s l => tryStep6 l s) s

/-- WARM_RESET_DONE: HBM leaves self-refresh, the Tundish is rebuilt, the data plane is in service and the final reply goes on a
new stream (steps 3 to 5). -/
def execWarmResetDone (s : State) : Out :=
  .next (match s.power.warm with
    | none => s
    | some w =>
      if s.power.state ≠ .warm ∨ s.power.refHeld then s
      else
        let s := gateStacks { s with power := { s.power with state := .running, warm := none }
                                     mem := { s.mem with rejoining := false } }
        finishOpt w.cmd stDone [] (rebuildDone 1 (rebuildDone 0 s)))

/-- TUNDISH_REBUILD_DONE. -/
def execTundishRebuildDone (half' : Nat) (s : State) : Out := onUnit (decide (half' < 2)) s (rebuildDone half' s)

/-- DEV_RESET_WARM (R361, R401). -/
def execDevResetWarm (m : CmdMeta) (confirm : Nat) (s : State) : Out :=
  command m 0x0008 (fun c s =>
    if confirm ≠ 0x5741524D then refuse c stBadParam s
    else if switching s ∨ s.power.state = .warm then refuse c stBadState s
    else accept c (fun s => beginWarm 0 (some c) false s) s) s

/-- FW_VERIFY: in recovery a slot that passes is started at once, with the directory rewritten to name it (R431, R432). -/
def execFwVerify (m : CmdMeta) (slot : Nat) (s : State) : Out :=
  command m 0x0022 (fun c s =>
    if slot > 1 then refuse c stBadParam s
    else if (slotOf slot s).content = .empty ∨ switching s then refuse c stBadState s
    else
      let (bad, s) := verifySlot slot s
      if bad.isSome then refuse c stDenied s
      else
        let was := recovery s
        let s := answer c stDone (imageDigest (slotOf slot s).content) s
        if was then dataPlaneUp (startSlot slot (writeDir slot s)) else s) s

end Sys2Proof.Machine
end

