-- ==== Sys2Proof/Machine/Power.lean ====
section
/-! DEFINITION. Power: supplies and RESET_N, brownout, thermal levels, coolant, REFCLK, Banked and Fired Bays, switch halves, domain
resets and the power commands of range 0x09xx (chapter 15; R462, R468, R469). -/
namespace Sys2Proof.Machine

/-! ### Dispatch pauses and resumes (R396, R397) -/

/-- HALVED and ALERT_N follow the warning and the throttle (R398). -/
def settleHalving (s : State) : State := driveAlert (setReg .ckHalved 0 (b2n (paused s)) s)

/-- Dispatch resumes once neither a warning nor a throttle is in force: waiting wakes start (R395) and Pours open (R77). -/
def resumeDispatch (s : State) : State :=
  let s := settleHalving s
  if paused s then s
  else
    let w := s.power.wakeWait
    let s := w.foldl (fun s b => wakeBay b s) { s with power := { s.power with wakeWait := [] } }
    s.pour.pours.foldl (fun s p => tryOpen p.heat p.pourId s) s

/-- Main power is present (the power Shop samples the input). -/
def mainOn (s : State) : Bool := s.power.p48Good

/-- A brownout warning begins at an input voltage. -/
def beginWarning (mv : Nat) (s : State) : State :=
  let s := setReg .pwInputMv 0 mv { s with power := { s.power with warnAt := some s.time.now, minMv := mv } }
  let s := incReg .pwBrownoutCnt 0 (setReg .pwWarning 0 1 s)
  settleHalving (markFlag detBrownout (logEvent 0x0904 sevW 0x91 0xFF (packFields [(2, mv)]) s))

/-- BROWNOUT_WARNING: below 42.0 V. -/
def execBrownoutWarning (mv : Nat) (s : State) : Out :=
  .next (
    if !mainOn s || decide (mv ≥ 42000) || decide (mv < 38000) then s
    else if flag .pwWarning 0 s then
      setReg .pwInputMv 0 mv { s with power := { s.power with minMv := min s.power.minMv mv } }
    else beginWarning mv s)

/-- BROWNOUT_RELEASE: at or above 43.0 V for 1 ms. The input itself is then a free value in that range. -/
def execBrownoutRelease (s : State) : Out :=
  .next (
    if !flag .pwWarning 0 s then s
    else
      let t := s.power.warnAt.getD s.time.now
      let s := logEvent 0x0905 sevI 0x91 0xFF (packFields [(4, (s.time.now - t) / 1000), (2, s.power.minMv)]) s
      let s := useFree (setReg .pwInputMv 0 (43000 + freeNat s % 17001) s)
      resumeDispatch (setReg .pwWarning 0 0 { s with power := { s.power with warnAt := none } }))

/-! ### Thermal levels and coolant (R397, R469) -/

/-- The throttle and shutdown levels of a sensor. -/
def throttleC (sensor : Nat) : Nat := if sensor < 6 then 105 else 95
def shutdownC (sensor : Nat) : Nat := if sensor < 6 then 115 else 105

/-- A sensor's reading: DIE_MAX_C, HBM_MAX_C and a stack's TEMP show the readings last reported (log entry 48). -/
def noteSensor (sensor celsius : Nat) (s : State) : State :=
  let s := { s with power := { s.power with sensors := tabSet 0 s.power.sensors sensor celsius } }
  let hot := fun (lo hi : Nat) => maxNat ((s.power.sensors.filter fun e => decide (lo ≤ e.1) && decide (e.1 < hi)).map (·.2))
  let s := setReg .pwDieMaxC 0 (min 255 (hot 0 6)) (setReg .pwHbmMaxC 0 (min 255 (hot 6 18)) s)
  if 6 ≤ sensor then setReg .hbTemp (sensor - 6) (min 255 celsius) s else s

/-- The throttle action for a sensor, logged; a throttle in force halves ACLK once. -/
def throttle (sensor celsius : Nat) (s : State) : State :=
  let s := logEvent 0x0907 sevW 0x91 0xFF (packFields [(1, sensor), (1, celsius)]) s
  let s := if flag .pwThrottle 0 s then s
    else incReg .pwThrottleCnt 0 (setReg .pwThrottle 0 1 { s with power := { s.power with throttleAt := some s.time.now } })
  settleHalving (markFlag detThrottle s)

/-- THERMAL_THROTTLE. -/
def execThermalThrottle (sensor celsius : Nat) (s : State) : Out :=
  if sensor ≥ 18 then .next s
  else .next (
    if celsius < throttleC sensor ∨ ¬ mainOn s then noteSensor sensor celsius s
    else throttle sensor celsius (noteSensor sensor celsius s))

/-- Every reported sensor is now below its release level, at a value the manual leaves open. -/
def coolSensors (s : State) : State :=
  s.power.sensors.foldl (fun s e =>
    if e.2 < releaseC e.1 then s else useFree (noteSensor e.1 (freeNat s % releaseC e.1) s)) s

/-- The throttle ends when COOL_FAIL_N is high and every sensor is below its release level. -/
def endThrottle (s : State) : State :=
  let s := coolSensors s
  if !flag .pwThrottle 0 s || !s.pins.coolFailN then s
  else resumeDispatch (setReg .pwThrottle 0 0 { s with power := { s.power with throttleAt := none } })

/-- THROTTLE_RELEASE. -/
def execThrottleRelease (s : State) : Out := .next (tryBringUp (endThrottle s))

/-- The actions of R391 for a fault that stops the device until it is started again. -/
def stopMain (s : State) : State :=
  let s := enterReset .inReset s
  driveAlert (setReg .pwWarning 0 0 { s with power := { s.power with needMain := true, warnAt := none } })

/-- The shutdown action (R397): FAULT_N is asserted, the main domains are held until a COLD reset or main power-on. -/
def shutdown (sensor celsius : Nat) (s : State) : State :=
  if s.power.state = .standbyOnly ∨ s.power.shutdown then s
  else
    let s := assertFault (logEvent 0x0908 sevF 0x91 0xFF (packFields [(1, sensor), (1, celsius)]) s)
    let s := stopMain s
    { s with power := { s.power with shutdown := true, awaitReset := true } }

/-- THERMAL_SHUTDOWN. -/
def execThermalShutdown (sensor celsius : Nat) (s : State) : Out :=
  if sensor ≥ 18 then .next s
  else .next (
    let s := noteSensor sensor celsius s
    if celsius < shutdownC sensor then s else shutdown sensor celsius s)

/-- COOL_FAIL_ASSERT: the throttle action for sensor 0xFF. -/
def execCoolFailAssert (s : State) : Out :=
  .next (
    if !s.pins.coolFailN then s
    else
      let s := { s with pins := { s.pins with coolFailN := false }, power := { s.power with coolFail := some s.time.now } }
      if mainOn s then throttle 0xFF 0 s else s)

/-- COOL_FAIL_SHUTDOWN: COOL_FAIL_N low for 10 s. -/
def execCoolFailShutdown (s : State) : Out :=
  .next (match s.power.coolFail with
    | none => s
    | some t => shutdown 0xFF 0 (advanceTo (t + 10000000000) s))

/-- COOL_FAIL_RELEASE: COOL_FAIL_N high for 1 ms with every sensor below its release level. -/
def execCoolFailRelease (s : State) : Out :=
  .next (
    if s.pins.coolFailN then s
    else endThrottle { s with pins := { s.pins with coolFailN := true }, power := { s.power with coolFail := none } })

/-- REFRESH_2X_CHANGE: a stack crosses 85 °C (R154). -/
def execRefresh2xChange (stack celsius : Nat) (s : State) : Out :=
  onUnit (decide (stack < 12)) s (setReg .hbRefresh2x stack (b2n (decide (celsius ≥ 85))) (noteSensor (6 + stack) celsius s))

/-! ### Supplies and RESET_N (R390, R391, R396, R399, R468) -/

/-- STANDBY_POWER_ON: the standby domain starts cleared; the board flash, the fuses and the Assay island are not touched (R403). -/
def execStandbyPowerOn (i2cAddr : Nat) (s : State) : Out :=
  let z := State.reset
  let s := { z with
    pending := s.pending, out := s.out, freeCtr := s.freeCtr
    time := { z.time with now := s.time.now }
    pins := { z.pins with p12sb := true, straps := s.pins.straps, resetN := s.pins.resetN, coolFailN := s.pins.coolFailN,
                          pattern := if s.pins.straps.patternRev = 1 then 1 else 2, i2cAddr := i2cAddr % 8 }
    power := { z.power with standbyAt := s.time.now }
    eqFlash := s.eqFlash
    rel := { z.rel with history := s.rel.history, risers := s.rel.risers, degraded := s.rel.degraded,
                        mappedRec := s.rel.mappedRec, pllRec := s.rel.pllRec }
    sec := { s.sec with signQ := [], rollback := none }
    assay := { s.assay with rx := none, rxAt := 0, attrib := [], weights := [] }
    mem := { z.mem with retired := s.mem.retired } }
  .next (setReg .sbAddr 0 (0x60 + i2cAddr % 8) s)

/-- STANDBY_POWER_LOSS: the actions of R391, and the standby domain is lost (R468). -/
def execStandbyPowerLoss (s : State) : Out :=
  let s := enterReset .standbyOnly s
  let z := State.reset
  .next { s with
    csr := [], time := { z.time with now := s.time.now }
    pins := { s.pins with p12sb := false, alertN := true, faultN := true }
    coord := z.coord
    power := { z.power with standbyAt := s.time.now, sensors := s.power.sensors }
    sb := z.sb, jtag := z.jtag
    rel := { s.rel with entries := [], writer := [] }
    mem := { s.mem with lostStacks := 0 } }

/-- STANDBY_POWER_SETTLED: 10 ms after standby power-on (R390). -/
def execStandbyPowerSettled (s : State) : Out :=
  .next (
    if !s.pins.p12sb || s.power.settled then s
    else
      let s := advanceTo (s.power.standbyAt + 10000000) s
      tryBringUp { s with power := { s.power with settled := true } })

/-- MAIN_POWER_GOOD: 1 ms at or above 40.0 V, with the input then at `mv`; below 42.0 V the warning is in force from the start. After
the reset level the restart waits for its own condition (R390). -/
def execMainPowerGood (mv : Nat) (s : State) : Out :=
  .next (
    if !s.pins.p12sb || s.power.p48Good || s.power.resetLevel || decide (mv < 40000) then s
    else
      let s := setReg .sbMainSnap 0 1 (setReg .pwInputMv 0 mv s)
      let st := if s.power.state = .standbyOnly then .inReset else s.power.state
      let s := { s with power := { s.power with p48Good := true, needMain := true, awaitReset := false, state := st } }
      tryBringUp (if mv < 42000 then beginWarning mv s else s))

/-- RESET_N_RELEASE: the straps stand at the given levels (log entry 3). -/
def execResetNRelease (straps : Straps) (s : State) : Out :=
  .next (
    if s.pins.resetN then s
    else tryBringUp { s with pins := { s.pins with resetN := true, straps := straps },
                             power := { s.power with awaitReset := false } })

/-- RESET_N_ASSERT: held low for 10 µs, a COLD reset (R391, R399). -/
def execResetNAssert (s : State) : Out :=
  .next (
    if !s.pins.resetN then s
    else
      let on := s.power.state ≠ .standbyOnly ∧ s.power.p48Good
      let s := { s with pins := { s.pins with resetN := false } }
      if ¬ on then s
      else
        let mv := if flag .pwWarning 0 s then s.power.minMv else reg .pwInputMv 0 s
        enterReset .inReset (logEvent 0x0906 sevW 0x91 0xFF (packFields [(2, mv), (1, 1)]) s))

/-- RESET_LEVEL: the input falls below 38.0 V. Fatal while RESET_N was released, a warning when RESET_N was already held low. -/
def execResetLevel (mv : Nat) (s : State) : Out :=
  .next (
    if !s.power.p48Good || decide (mv ≥ 38000) then s
    else
      let low := if flag .pwWarning 0 s then min s.power.minMv mv else mv
      let s := logEvent 0x0906 (if s.pins.resetN then sevF else sevW) 0x91 0xFF (packFields [(2, low), (1, 0)]) s
      let s := if s.pins.resetN then assertFault s else s
      let s := setReg .sbMainSnap 0 0 (setReg .pwInputMv 0 mv (stopMain s))
      { s with power := { s.power with p48Good := false, resetLevel := true, state := .standbyOnly } })

/-- RESET_LEVEL_RESTART: 10 ms at or above 43.0 V. -/
def execResetLevelRestart (s : State) : Out :=
  .next (
    if !s.power.resetLevel || !s.pins.p12sb then s
    else
      let s := useFree (setReg .pwInputMv 0 (43000 + freeNat s % 17001) s)
      let s := setReg .sbMainSnap 0 1 s
      let p := { s.power with p48Good := true, resetLevel := false, awaitReset := false, state := .inReset }
      tryBringUp { s with power := p })

/-! ### REFCLK (R377) -/

/-- REFCLK_LOSS: the PLLs hold; ALERT_N is asserted. -/
def execRefclkLoss (s : State) : Out :=
  .next (
    if !s.pins.refclk || s.power.state = .standbyOnly then s
    else
      let s := { s with pins := { s.pins with refclk := false }, power := { s.power with refLossAt := some s.time.now } }
      driveAlert (incReg .pwRefclkLossCnt 0 (setReg .ckRefclkOk 0 0 s)))

/-- The loss is logged with its duration. -/
def logLoss (since : Nat) (s : State) : State :=
  logEvent 0x0901 sevW 0x90 0xFF (packFields [(4, (s.time.now - since) / 1000)]) s

/-- REFCLK_LOSS_TIMEOUT: absent for 100 ms; a WARM reset that is held until REFCLK has been present for 1 ms. -/
def execRefclkLossTimeout (s : State) : Out :=
  .next (match s.power.refLossAt with
    | none => s
    | some t =>
      if s.power.refHeld then s
      else
        let s := advanceTo (t + 100000000) s
        beginWarm 1 none true (logLoss t s))

/-- REFCLK_RETURN. -/
def execRefclkReturn (s : State) : Out :=
  .next (match s.power.refLossAt with
    | none => s
    | some t =>
      let held := s.power.refHeld
      let s := if held then advance 1000000 s else logLoss t s
      let s := { s with pins := { s.pins with refclk := true }, power := { s.power with refLossAt := none, refHeld := false } }
      let s := driveAlert (setReg .ckRefclkOk 0 1 s)
      if held ∧ s.power.state = .warm then trainLinks (trainable s) s else s)

/-! ### Banked and Fired Bays (R379, R392, R393) -/

/-- The fields of the profile. -/
def profB1 (s : State) : Nat := fieldAt s.power.profile 0 2
def profB2 (s : State) : Nat := fieldAt s.power.profile 2 2
def profB3 (s : State) : Nat := fieldAt s.power.profile 4 2
def profDeepest (s : State) : Nat := fieldAt s.power.profile 6 1
def profMinFired (s : State) : Nat := fieldAt s.power.profile 7 1

/-- CPLL_LOCK: a compute die's PLL runs; every Bay of the die that waits for this lock has only its own 20 µs left (R379, R392). -/
def execCpllLock (die : Nat) (s : State) : Out :=
  onUnit (decide (die < 4)) s (
    if s.power.cpllWait.contains die then
      let wakes := s.power.bayWake.map fun e =>
        if dieOfBay e.1 = die then (e.1, min e.2 (s.time.now + 20000)) else e
      setReg .ckCpllRun 0 (withBit (reg .ckCpllRun 0 s) die)
        { s with power := { s.power with cpllWait := s.power.cpllWait.filter (· ≠ die), bayWake := wakes } }
    else s)

/-- BAY_WAKE_DONE: the Bay is FIRED, with its CPLL running. -/
def execBayWakeDone (bay : Nat) (s : State) : Out :=
  onUnit (decide (bay < 100)) s (match tabFind s.power.bayWake bay with
    | none => s
    | some t =>
      let s := advanceTo t s
      let d := dieOfBay bay
      let s := { s with power := { s.power with bayWake := tabDel s.power.bayWake bay,
                                                bayIdle := tabPut s.power.bayIdle bay s.time.now,
                                                cpllWait := s.power.cpllWait.filter (· ≠ d) } }
      let s := setReg .ckCpllRun 0 (withBit (reg .ckCpllRun 0 s) d) s
      incReg .pwWakeCnt 0 (setBayState bay 0 s))

/-- The segment a Bay is held by. -/
def baySeg (bay : Nat) (s : State) : Option Seg :=
  match (tabGet {} s.layer.bays bay).seg with | some i => segOf i s | none => none

/-- The owning Shop reports a Bay idle (R393). -/
def bayIdleNow (bay : Nat) (s : State) : Bool :=
  match baySeg bay s with
  | some g => g.running.isNone && g.queue = []
  | none => !(s.pour.pours.any fun p => p.chunks.any fun k => k.2.bay = bay && decide (1 ≤ k.2.st) && decide (k.2.st ≤ 4))
      && (tabGet {} s.layer.bays bay).transfer.isNone

/-- A Bay's Flasks hold resident weights or saved activations (R119). -/
def bayHolds (bay : Nat) (s : State) : Bool :=
  match baySeg bay s with | some g => g.weights ≠ [] || g.saved ≠ [] | none => false

/-- The Bays MIN_FIRED keeps FIRED: the lowest-numbered pour-held ones. -/
def keptFired (s : State) : List Nat :=
  ((List.range 100).filter fun b => (tabGet {} s.layer.bays b).seg.isNone && !s.rel.degraded.contains b).take (profMinFired s)

/-- The next deeper state the profile allows a Bay, with its idle time in ns. -/
def nextBank (bay : Nat) (s : State) : Option (Nat × Nat) :=
  let deepest := if bayHolds bay s then min 2 (profDeepest s) else profDeepest s
  let l := [(1, profB1 s * 1000), (2, profB2 s * 1000), (3, profB3 s * 1000000)]
  l.find? fun e => decide (e.1 > reg .pwBayState bay s) && decide (e.1 ≤ deepest) && decide (e.2 ≠ 0)

/-- A CPLL stops when every Bay of its die is in B2 or B3 (R379). -/
def settleCpll (die : Nat) (s : State) : State :=
  if (List.range 25).all fun i => decide (reg .pwBayState (25 * die + i) s ≥ 2) then
    setReg .ckCpllRun 0 (withoutBit (reg .ckCpllRun 0 s) die) s
  else s

/-- The Flasks of a Bay lose their status registers (R57, R392, R402). -/
def clearFlasks (bay : Nat) (s : State) : State :=
  (List.range 100).foldl (fun s f => resetInst [.baOvf, .baNanOut, .baFlushIn, .baFlushOut] (bay * 100 + f) s) s

/-- Working tensors of the segment on a Bay are lost with its Flask SRAM. -/
def dropWork (bay : Nat) (s : State) : State :=
  match (tabGet {} s.layer.bays bay).seg with
  | some i => modSeg i (fun g => { g with work := [] }) s
  | none => s

/-- A Bay enters a Banked state; in B3 its Flasks lose their contents. -/
def bankBay (bay st : Nat) (s : State) : State :=
  let s := setBayState bay st s
  let s := if st = 3 then dropWork bay (clearFlasks bay s) else s
  settleCpll (dieOfBay bay) s

/-- A Bay that MIN_FIRED keeps FIRED is Fired if it is Banked. -/
def fireKept (bay : Nat) (s : State) : State := if reg .pwBayState bay s = 0 then s else wakeBay bay s

/-- BAY_IDLE_TIMER: an idle Bay is Banked one step deeper; one that MIN_FIRED keeps FIRED is Fired instead (R23, R393; log entry
130). -/
def execBayIdleTimer (bay : Nat) (s : State) : Out :=
  decided s <| onUnit (decide (bay < 100)) s (
    if !bayIdleNow bay s || (tabFind s.power.bayWake bay).isSome then s
    else if (keptFired s).contains bay then fireKept bay s
    else match nextBank bay s with
      | none => s
      | some (st, ns) =>
        let s := match tabFind s.power.bayIdle bay with | some t => advanceTo (t + ns) s | none => s
        bankBay bay st s)

/-! ### Switch halves (R394) -/

/-- Links of a die. -/
def linksOfDie (d : Nat) : List Nat := (List.range 52).filter fun l => dieOfLink l = d

/-- SWITCH_HALF_BANK: every link of the die is OFF and the half carries nothing. -/
def execSwitchHalfBank (half' : Nat) (s : State) : Out :=
  onUnit (decide (half' < 2)) s (
    if halfBanked half' s || (linksOfDie half').any (fun l => reg .lkState l s ≠ 0) || decide ((half half' s).used ≠ 0) then s
    else
      let s := modHalf half' (fun h => { freshHalf h.mapped with norLog := h.norLog, bankErrs := h.bankErrs, bankBad := h.bankBad }) s
      let s := bumpEpoch (epochHalf half') (resetFld .spSampleShift { s with samples := [] })
      { s with power := { s.power with halfBanked := withBit s.power.halfBanked half' } })

/-- SWITCH_HALF_WAKE: a link of the half powers up; the half is powered and its Tundish rebuilt. -/
def execSwitchHalfWake (half' : Nat) (s : State) : Out :=
  onUnit (decide (half' < 2)) s (
    if !halfBanked half' s || (tabFind s.sw.wakeAt half').isNone then s
    else
      let s := bumpEpoch (epochHalf half') { s with power := { s.power with halfBanked := withoutBit s.power.halfBanked half' },
                                                    sw := { s.sw with wakeAt := tabDel s.sw.wakeAt half' } }
      rebuildDone half' s)

/-! ### Domain resets (R402) -/

/-- A domain is in reset or waits for one. -/
def inDomainReset (kind index : Nat) (s : State) : Bool := s.power.domains.any fun j => j.kind = kind && j.index = index

/-- A domain reset's effect; before that of a stack its metadata frames move to Riser frames of other stacks. -/
def resetDomain (kind index : Nat) (s : State) : State :=
  if kind = 0 then
    let s := clearFlasks index { s with power := { s.power with bayWake := tabDel s.power.bayWake index,
                                                                bayIdle := tabDel s.power.bayIdle index,
                                                                wakeWait := s.power.wakeWait.filter (· ≠ index) } }
    settleCpll (dieOfBay index) (setBayState index 3 s)
  else if kind = 1 then
    let st := reg .lkState index s
    let s := if st = lkActive ∨ st = lkQuarantined then leaveLink index s else s
    let s := resetInst [.lkCbErrCnt, .lkAbortRxCnt, .lkTrainCnt, .lkTrainFailCnt, .lkSwapCnt] index s
    let s := (List.range 9).foldl (fun s i => setReg .lkCvCnt (16 * index + i) 0 s) s
    let s := (List.range 8).foldl (fun s v => setReg .crWaitCnt (16 * index + v) 0 s) s
    powerUp index (modLink index (fun k => { k with fails := 0 }) s)
  else bumpEpoch (epochStack index) (resetInst [.hbCorrCnt, .hbUncorrCnt] index (rebuildMeta index s))

/-- A domain reset begins, or waits. -/
def addDomain (j : DomainJob) (s : State) : State := { s with power := { s.power with domains := s.power.domains ++ [j] } }

/-- DEV_RESET_DOMAIN (R361, R401, R402). -/
def execDevResetDomain (m : CmdMeta) (kind index : Nat) (s : State) : Out :=
  command m 0x0009 (fun c s =>
    let homes := s.mem.frames.any fun e => match e.2.use with
      | .home _ => decide (stackOf e.1 = index) | _ => false
    if kind > 2 ∨ index ≥ (if kind = 0 then 100 else if kind = 1 then 52 else 12) then refuse c stBadParam s
    else if s.power.state = .warm ∨ inDomainReset kind index s then refuse c stBadState s
    else if kind = 0 ∧ (tabGet {} s.layer.bays index).seg.isSome then refuse c stBadState s
    else if kind = 1 ∧ cameOver m index s then refuse c stDenied s
    else if kind = 2 ∧ homes then refuse c stBadState s
    else accept c (fun s =>
      let j : DomainJob := { kind := kind, index := index, since := s.time.now, waiting := decide (kind = 0), cmd := c }
      let s := addDomain j s
      if kind = 0 then s else resetDomain kind index s) s) s

/-- DOMAIN_RESET_DONE: a Bay's chunks have left it and it is reset, a link has trained, a stack is retrained. -/
def execDomainResetDone (kind index : Nat) (s : State) : Out :=
  .next (match s.power.domains.find? (fun j => j.kind = kind && j.index = index) with
    | none => s
    | some j =>
      if kind = 0 ∧ ¬ bayClear index s then s
      else
        let s := { s with power := { s.power with domains := s.power.domains.filter fun x => x ≠ j } }
        let s := if kind = 0 then resetDomain 0 index s else if kind = 2 then bumpEpoch (epochStack index) s else s
        finish j.cmd stDone [] s)

/-- DOMAIN_RESET_WAIT_TIMEOUT: 10 ms without the Bay's chunks leaving; nothing is reset. -/
def execDomainResetWaitTimeout (bay : Nat) (s : State) : Out :=
  .next (match s.power.domains.find? (fun j => j.kind = 0 && j.index = bay) with
    | none => s
    | some j =>
      let s := advanceTo (j.since + 10000000) { s with power := { s.power with domains := s.power.domains.filter fun x => x ≠ j } }
      finish j.cmd stBadState [] s)

/-! ### Commands (R407) -/

/-- PWR_STATUS: block 0x91 at offsets 0x0 to 0xC and 100 Bay states of 2 bits. -/
def execPwrStatus (m : CmdMeta) (s : State) : Out :=
  command m 0x0910 (fun c s =>
    let bays := sumNat ((List.range 100).map fun b => reg .pwBayState b s * 4 ^ b)
    answer c stDone (readWords 0x91000000 4 s ++ leBytes 25 bays) s) s

/-- The checks of PWR_PROFILE_SET (R393). -/
def profileOk (p : List Byte) : Bool :=
  let b1 := fieldAt p 0 2
  let b2 := fieldAt p 2 2
  let b3 := fieldAt p 4 2 * 1000
  let ts := [b1, b2, b3].filter (· ≠ 0)
  decide (fieldAt p 6 1 ≤ 3) && decide (fieldAt p 7 1 ≤ 100) && fieldAt p 8 8 = 0
    && (ts.zip (ts.drop 1)).all fun e => decide (e.1 < e.2)

/-- PWR_PROFILE_SET. -/
def execPwrProfileSet (m : CmdMeta) (profile : List Byte) (s : State) : Out :=
  command m 0x0911 (fun c s =>
    if profile.length ≠ 16 then refuse c stBadLength s
    else if !profileOk profile then refuse c stBadParam s
    else
      let s := { s with power := { s.power with profile := profile } }
      answer c stDone (profileDigest s) s) s

/-- PWR_PROFILE_READ. -/
def execPwrProfileRead (m : CmdMeta) (s : State) : Out :=
  command m 0x0912 (fun c s => answer c stDone (s.power.profile ++ profileDigest s) s) s

/-- PWR_STATS. -/
def execPwrStats (m : CmdMeta) (s : State) : Out :=
  command m 0x0913 (fun c s => answer c stDone (readWords 0x91000018 4 s) s) s

end Sys2Proof.Machine
end

