-- ==== Sys2Proof/Machine/Clock.lean ====
section
/-! DEFINITION. Clocks: multiplexers, the clock monitors, CLKOBS, the ACLK swap, the trim and the time base, with the clock commands
of range 0x09xx (chapter 15). -/
namespace Sys2Proof.Machine

/-! ### Clock codes (R387) -/

/-- A code of R387. -/
def clockCode (k : Nat) : Bool :=
  decide (k ≤ 6) || (decide (8 ≤ k) && decide (k ≤ 0x0B)) || (decide (0x10 ≤ k) && decide (k ≤ 0x1C))
    || (decide (0x40 ≤ k) && decide (k ≤ 0x73))

/-- Nominal ACLK in kHz. -/
def aclkKhz : Nat := if Config.gradeK then 1800000 else 2000000

/-- The nominal frequency of a clock in kHz. -/
def nominalKhz (k : Nat) (s : State) : Nat :=
  let a := if flag .ckHalved 0 s then aclkKhz / 2 else aclkKhz
  if k = 1 then 33 else if k = 2 then 100000 else if k = 3 then 156250 else if k = 4 ∨ k = 5 then aclkKhz
  else if k = 6 then a else if 8 ≤ k ∧ k ≤ 0x0B then a else if 0x10 ≤ k ∧ k ≤ 0x1B then 1600000
  else if k = 0x1C then 1000000 else if 0x40 ≤ k then 2800000 / 2 ^ reg .lkRate (k - 0x40) s else 0

/-- The clock code of an ACLK source (R387, R405): OSC, PLL0 or PLL1. -/
def sourceCode (source : Nat) : Nat := if source = 0 then 2 else 3 + source

/-- A clock runs, by its monitor; code 0x00 is no clock. -/
def clockRuns (k : Nat) (s : State) : Bool := k = 0 || flag .ckPresent k s

/-- The check of R385: PRESENT and within 1 % of nominal. -/
def clockGood (k : Nat) (s : State) : Bool :=
  let f := reg .ckFreqKhz k s
  let n := nominalKhz k s
  k = 0 || (flag .ckPresent k s && decide ((f - n) * 100 ≤ n) && decide ((n - f) * 100 ≤ n))

/-- A link that waits at step 1 begins its attempt at the first edge of CK that its monitor counts (R217). -/
def noteEdge (k : Nat) (s : State) : State :=
  let l := k - 0x40
  if k ≥ 0x40 ∧ flag .ckPresent k s ∧ lkStateOf l s = lkTraining ∧ (link l s).step = 1 ∧ ¬ (link l s).ckSeen then beginAttempt l s
  else s

/-- CLOCK_MONITOR_WINDOW: each monitor's frequency, in kHz, over 10 µs; a clock without an edge reads 0. -/
def execClockMonitorWindow (readings : List (Nat × Nat)) (s : State) : Out :=
  let s := advance (10000 - s.time.now % 10000) s
  .next (((List.range 0x74).filter clockCode).foldl (fun s k =>
    let f := match tabFind readings k with | some f => f | none => 0
    noteEdge k (setReg .ckPresent k (b2n (decide (f ≠ 0))) (setReg .ckFreqKhz k (min f (2 ^ 24 - 1)) s))) s)

/-! ### CLKOBS (R383, R386, R388, R405) -/

/-- CLKOBS_SEL takes a code; the multiplexer starts its handshake. -/
def selectObs (code : Nat) (s : State) : State :=
  let s := setReg .ckClkobsSel 0 code s
  if s.power.obsNext.isNone ∧ s.power.obsCur = code then s
  else setReg .ckClkobsBusy 0 1 { s with power := { s.power with obsNext := some code } }

/-- The multiplexer takes CLKOBS_SEL at once. -/
def resetObs (s : State) : State :=
  setReg .ckClkobsBusy 0 0 { s with power := { s.power with obsCur := reg .ckClkobsSel 0 s, obsNext := none } }

/-- CLKOBS_SEL_WRITE: no check is made; a reserved code writes nothing. -/
def execClkobsSelWrite (value : Nat) (s : State) : Out := .next (if clockCode (value % 256) then selectObs (value % 256) s else s)

/-- CLKOBS_RST. -/
def execClkobsRst (s : State) : Out := .next (resetObs s)

/-- CLKOBS_MUX_RELEASE: low phases of the old and of the new input; it does not come while either is stopped. -/
def execClkobsMuxRelease (s : State) : Out :=
  .next (match s.power.obsNext with
    | none => s
    | some k => if clockRuns s.power.obsCur s && clockRuns k s then resetObs s else s)

/-- CLK_EN_WRITE. -/
def execClkEnWrite (value : Nat) (s : State) : Out := .next (setReg .ckClkEn 0 (value % 8) s)

/-- TIME_LO_READ: TIME_HI and WRAP_CNT are latched for the next read (R380). -/
def latchTime (s : State) : State :=
  { s with time := { s.time with latchHi := s.time.base / 2 ^ 32, latchWrap := s.time.wrap, latched := true } }

def execTimeLoRead (s : State) : Out := .next (latchTime s)

/-! ### ACLK (R384, R385, R409) -/

/-- The lock bit of a PLL source. -/
def setLock (source : Nat) (on : Bool) (s : State) : State :=
  if source = 1 then setReg .ckPll0Lock 0 (b2n on) s else if source = 2 then setReg .ckPll1Lock 0 (b2n on) s else s

/-- CLK_ACLK_SWAP: the Riser PLL is started. -/
def execClkAclkSwap (m : CmdMeta) (source : Nat) (s : State) : Out :=
  command m 0x0901 (fun c s =>
    if source ≠ 1 ∧ source ≠ 2 then refuse c stBadParam s
    else if reg .ckAclkSrc 0 s = source ∨ s.power.aclkSwap.isSome then refuse c stBadState s
    else accept c (fun s =>
      { s with power := { s.power with aclkSwap := some { source := source, since := s.time.now, cmd := some c } } }) s) s

/-- ACLK moves to another PLL: the switch, the old PLL stops, the swap is recorded and logged (R409, steps 4 and 5). -/
def switchAclk (j : AclkSwap) (s : State) : State :=
  let old := reg .ckAclkSrc 0 s
  let s := setLock old false (setLock j.source true (setReg .ckAclkSrc 0 j.source s))
  let s := { s with rel := { s.rel with pllRec := j.source } }
  let s := markFlag detRiser (incReg .reSwapCnt 0 (addHistory 4 0 old j.source s))
  finishOpt j.cmd stDone [] (logEvent 0x0903 sevI 0x90 0xFF (packFields [(1, old), (1, j.source)]) s)

/-- ACLK_SWAP_LOCKED: the check of R385, the switch, the old PLL stops (steps 3 to 5). -/
def execAclkSwapLocked (s : State) : Out :=
  .next (match s.power.aclkSwap with
    | none => s
    | some j =>
      let old := reg .ckAclkSrc 0 s
      let s := { s with power := { s.power with aclkSwap := none } }
      if !clockGood (sourceCode old) s || !clockGood (sourceCode j.source) s then finishOpt j.cmd stBadState [] s
      else switchAclk j s)

/-- The lock bit of a PLL source. -/
def lockedPll (source : Nat) (s : State) : Bool := if source = 1 then flag .ckPll0Lock 0 s else flag .ckPll1Lock 0 s

/-- ACLK_HANG: a WARM reset with the other PLL forced where that one is locked; else the first that locks, which the manual leaves
open. -/
def execAclkHang (s : State) : Out :=
  .next (
    if s.power.state ≠ .running ∧ s.power.state ≠ .warm then s
    else
      let old := reg .ckAclkSrc 0 s
      let other := if old = 1 then 2 else 1
      let new := if lockedPll other s then other else 1 + freeNat s % 2
      let s := if lockedPll other s then s else useFree s
      let s := assertFault (logEvent 0x0902 sevF 0x90 0xFF (packFields [(1, new)]) s)
      let s := beginWarm 2 none false s
      setLock old false (setLock new true (setReg .ckAclkSrc 0 new s)))

/-- Log a trigger and count a proposal (R409, R410): kind, unit, trigger value. -/
def logTrigger (kind unit value blk inst : Nat) (s : State) : State :=
  logEvent 0x0A01 sevI blk inst (packFields [(1, kind), (4, unit), (4, value)]) s

/-- PLL_FAULT_PROPOSAL: PLL0 loses lock or drifts. With automatic swap off the trigger is only logged; without a Riser PLL it is
RISER_EXHAUSTED. -/
def execPllFaultProposal (s : State) : Out :=
  decided s <| .next (
    if s.power.state ≠ .running ∨ s.power.aclkSwap.isSome then s
    else if reg .ckAclkSrc 0 s ≠ 1 then logEvent 0x0A03 sevW 0x90 0xFF (packFields [(1, 4), (4, 0)]) s
    else
      let s := logTrigger 4 0 0 0x90 0xFF s
      if !(reg .reAuto 0 s).testBit 4 then s
      else
        let s := incReg .reProposalCnt 0 s
        { s with power := { s.power with aclkSwap := some { source := 2, since := s.time.now, cmd := none } } })

/-! ### Trim and time base (R380 to R382) -/

/-- The selected trim source is present. -/
def trimPresent (s : State) : Bool :=
  match reg .ckTrimSrc 0 s with
  | 0 => s.pins.refclk
  | 1 =>
    let l := 48 + reg .ckSofLink 0 s
    reg .lkState l s = lkActive && (tabFind s.time.frames l).isSome
  | _ => true

/-- Falls back after 1 ms of absence, returns after 10 ms of presence. -/
def trimFallback (s : State) : State :=
  let now := s.time.now
  if trimPresent s then
    let p := s.time.presentAt.getD now
    let s := { s with time := { s.time with absentAt := none, presentAt := some p } }
    if flag .ckFallback 0 s && decide (now ≥ p + 10000000) then setReg .ckFallback 0 0 s else s
  else
    let since := if reg .ckTrimSrc 0 s = 0 then s.power.refLossAt.getD (s.time.absentAt.getD now) else s.time.absentAt.getD now
    let s := { s with time := { s.time with absentAt := some since, presentAt := none } }
    if now ≥ since + 1000000 then setReg .ckFallback 0 1 s else s

/-- TRIM_UPDATE: `reference` is the period offset, in TRIM's units of 0.01 ppm, that the source in use shows. For 10 ms after standby
power-on it is taken directly; later the trim moves by at most 10 ppm per second. -/
def execTrimUpdate (reference : Nat) (s : State) : Out :=
  let s := trimFallback s
  let now := s.time.now
  let cur := toSigned 24 (reg .ckTrim 0 s)
  let aim := toSigned 24 reference
  let room : Int := (((now - s.time.lastTrim) * 1000 / 1000000000 : Nat) : Int)
  let next := if now ≤ s.power.standbyAt + 10000000 then aim else max (cur - room) (min (cur + room) aim)
  let bound : Int := if flag .ckFallback 0 s then 0 else if reg .ckTrimSrc 0 s = 0 then 100 else if reg .ckTrimSrc 0 s = 1 then 10 else 0
  let locked := decide (next - aim ≤ bound) && decide (aim - next ≤ bound)
  let s := setReg .ckTrimLocked 0 (b2n locked) (setReg .ckTrim 0 (ofSigned 24 next) s)
  .next { s with time := { s.time with lastTrim := if room = 0 then s.time.lastTrim else now } }

/-- TIME_BASE_WRAP: the 48-bit time base passes its end. -/
def execTimeBaseWrap (s : State) : Out := .next (advance (2 ^ 48 - s.time.base) s)

/-- CLK_TRIM. -/
def execClkTrim (m : CmdMeta) (source link' : Nat) (s : State) : Out :=
  command m 0x0903 (fun c s =>
    if source > 2 ∨ link' < 48 ∨ link' > 51 then refuse c stBadParam s
    else
      let s := setReg .ckFallback 0 0 (setReg .ckSofLink 0 (link' - 48) (setReg .ckTrimSrc 0 source s))
      done c { s with time := { s.time with absentAt := none, presentAt := none } }) s

/-- TIME_SET: armed until the marker of frame N arrives on link L (R382). Before the first marker of a link its frame 0 is still to
come. -/
def execTimeSet (m : CmdMeta) (link' frame time : Nat) (s : State) : Out :=
  command m 0x0904 (fun c s =>
    if link' < 48 ∨ link' > 51 ∨ time ≥ 2 ^ 48 then refuse c stBadParam s
    else
      let ahead := match tabFind s.time.frames link' with
        | some f => subMod frame f (2 ^ 48)
        | none => frame + 1
      if frame ≥ 2 ^ 48 ∨ ahead = 0 ∨ ahead > 8000 then refuse c stBadParam s
      else if lkStateOf link' s ≠ lkActive ∨ s.time.armed.isSome then refuse c stBadState s
      else accept c (fun s => { s with time := { s.time with
        armed := some { link := link', frame := frame, time := time, cmd := c } } }) s) s

/-! ### Other commands (R407) -/

/-- CLK_STATUS: block 0x90 at offsets 0x0 to 0x20. -/
def execClkStatus (m : CmdMeta) (s : State) : Out :=
  command m 0x0900 (fun c s => answer c stDone (readWords 0x90000000 9 s) s) s

/-- CLKOBS_SET: checked, and CLK_EN[0] on; code 0x00 turns it off. -/
def execClkobsSet (m : CmdMeta) (code divider : Nat) (s : State) : Out :=
  command m 0x0902 (fun c s =>
    if !clockCode code ∨ divider = 0 ∨ divider > 65536 then refuse c stBadParam s
    else if reg .ckFreqKhz code s > 250000 * divider then refuse c stBadParam s
    else if !clockGood s.power.obsCur s || !clockGood code s then refuse c stBadState s
    else
      let s := setReg .ckClkobsDiv 0 (divider - 1) s
      let en := reg .ckClkEn 0 s
      let s := setReg .ckClkEn 0 (if code = 0 then withoutBit en 0 else withBit en 0) s
      done c (selectObs code s)) s

/-- CLK_MON_READ. -/
def execClkMonRead (m : CmdMeta) (code : Nat) (s : State) : Out :=
  command m 0x0905 (fun c s =>
    requires (clockCode code) c stBadParam (fun s =>
      answer c stDone (leBytes 4 (reg .ckFreqKhz code s) ++ leBytes 1 (reg .ckPresent code s)) s) s) s

/-- CLK_PLAN: record and digest (R404). -/
def execClkPlan (m : CmdMeta) (s : State) : Out :=
  command m 0x0906 (fun c s => answer c stDone (clockPlan s ++ clockDigest s) s) s

end Sys2Proof.Machine
end

