-- ==== Sys2Proof/Machine/Device.lean ====
section
/-! DEFINITION. The device commands of range 0x00xx that the Foreman serves itself, CSR access, and the two Foreman cores (R351, R352,
R361 to R367, R372). -/
namespace Sys2Proof.Machine

/-! ### Records (R362, R372, R376) -/

/-- The JTAG IDCODE. -/
def jtagIdcode : Nat := steppingCode * 2 ^ 28 + 0x0052 * 2 ^ 12 + Config.jtagManufacturer.toNat * 2 + 1

/-- The identity record, 64 bytes. -/
def identityRecord (s : State) : List Byte :=
  let run := reg .foreActiveSlot 0 s
  leBytes 8 Config.serial.toNat ++ packFields [(1, orderingCode), (1, steppingCode), (2, signature), (4, jtagIdcode),
    (1, s.coord.member), (1, s.coord.group.getD 0xFF), (1, s.coord.pendGroup.getD 0xFF), (1, s.coord.count.getD 0),
    (1, s.coord.pendCount.getD 0), (1, reg .foreActiveCore 0 s + 2 * reg .foreStandbyReady 0 s),
    (1, if recovery s then 0xFF else run), (1, s.pins.pattern),
    (4, if recovery s then 0 else slotVersion (slotOf run s).content), (4, slotVersion (slotOf (1 - run) s).content)]
  ++ identityDigest ++ leBytes 6 (timeBase s) ++ leBytes 18 0

/-- The power state byte of the health summary. -/
def powerCode (s : State) : Nat :=
  match s.power.state with | .standbyOnly => 0 | .inReset => 1 | .running => 2 | .warm => 3

/-- Links in a state. -/
def linksIn (st : Nat) (s : State) : Nat := ((List.range 52).filter fun l => reg .lkState l s = st).length

/-- The health summary, 32 bytes; what needs main power is zero without it, flags too (R373; log entry 130). -/
def healthRecord (s : State) : List Byte :=
  let main := s.power.state ≠ .standbyOnly
  let v := fun (n : Nat) => if main then n else 0
  let flags := v (reg .pwWarning 0 s + 2 * reg .pwThrottle 0 s + 8 * b2n (linksIn lkFailed s ≠ 0)
      + 16 * b2n (s.mem.lostStacks ≠ 0) + 32 * (1 - reg .foreStandbyReady 0 s) + 64 * (1 - reg .arArriving 0 s))
    + 4 * reg .shFrozen 0 s + 128 * b2n (!coordsSet s)
  packFields [(1, powerCode s), (1, flags), (1, v (reg .pwDieMaxC 0 s)), (1, v (reg .pwHbmMaxC 0 s)),
    (2, v (readReg .pwModuleW 0 s)), (1, v (linksIn lkActive s)), (1, v (linksIn lkQuarantined s)), (1, v (linksIn lkFailed s)),
    (1, v (readReg .pwBaysFired 0 s)), (2, s.rel.entries.length),
    (4, v ((s.time.now - s.fore.bringUpAt) / 1000000000)), (16, 0)]

/-- DEV_IDENTIFY. -/
def execDevIdentify (m : CmdMeta) (s : State) : Out := command m 0x0000 (fun c s => answer c stDone (identityRecord s) s) s

/-- DEV_HEALTH. -/
def execDevHealth (m : CmdMeta) (s : State) : Out := command m 0x0001 (fun c s => answer c stDone (healthRecord s) s) s

/-- DEV_ECHO. -/
def execDevEcho (m : CmdMeta) (data : List Byte) (s : State) : Out :=
  command m 0x0030 (fun c s => if data.length > 2560 then refuse c stBadLength s else answer c stDone data s) s

/-! ### CSR blocks (R363 to R366) -/

/-- Block ID and offset of an address; a Bay's window is a block of its own. -/
def csrBlock (addr : Nat) : Nat := bitsOf addr 31 24
def csrOffset (addr : Nat) : Nat := bitsOf addr 23 0

/-- Offsets [lowest, highest] that a row of the map defines in a block, within a Bay's window for a Bay. -/
def rowSpan (b : Nat) (r : RegRow) : Option (Nat × Nat) :=
  let k := b - csrBlock r.base
  let n := match r.dims.find? (fun d => d.2.1 = 0x1000000) with | some d => d.1 | none => 1
  if b < csrBlock r.base ∨ k ≥ n then none
  else
    let inner := r.dims.filter fun d => d.2.1 ≠ 0x1000000 && !(decide (b ≥ 0xE0) && d.2.1 = 0x10000)
    some (csrOffset r.base, csrOffset r.base + sumNat (inner.map fun d => (d.1 - 1) * d.2.1))

/-- The offsets a block's map defines, from its first word to its last. -/
def blockSpan (b : Nat) : Option (Nat × Nat) :=
  (regMap.filterMap (rowSpan b)).foldl (fun o e => match o with
    | none => some e
    | some (lo, hi) => some (min lo e.1, max hi e.2)) none

/-- A word lies inside its block's map. -/
def wordDefined (addr : Nat) : Bool :=
  let b := csrBlock addr
  let off := if b ≥ 0xE0 then csrOffset addr % 0x10000 else csrOffset addr
  let window := decide (b < 0xE0) || decide (csrOffset addr / 0x10000 < 25)
  match blockSpan b with
  | some (lo, hi) => window && decide (lo ≤ off) && decide (off ≤ hi)
  | none => false

/-- The Bay of an address of blocks 0xE0 to 0xE3. -/
def csrBay (addr : Nat) : Nat := (csrBlock addr - 0xE0) * 25 + csrOffset addr / 0x10000

/-- Owner of the block at an address: a Shop ID, or 0xFF for the Foreman (R364). -/
def blockOwner (addr : Nat) (s : State) : Nat :=
  let b := csrBlock addr
  if b = 0 then 0xFF else if b = 0x10 then 0 else if b < 0x50 then 1 else if b < 0x60 then 2 else if b < 0x70 then 3
  else if b < 0x80 then 4 else if b < 0x90 then 3 else if b < 0xA0 then 5 else if b < 0xB0 then 6 else if b < 0xE0 then 7
  else if (tabGet {} s.layer.bays (csrBay addr)).seg.isSome then 4 else 3

/-- The gate of the block at an address: its epoch key and whether it is gated now; none for a block that is never gated. -/
def blockGate (addr : Nat) (s : State) : Option (Nat × Bool) :=
  let b := csrBlock addr
  if b = 0x10 ∨ b = 0x40 then
    let l := csrOffset addr / 0x1000
    some (l, reg .lkState l s = lkOff)
  else if 0x30 ≤ b ∧ b ≤ 0x33 then some (epochHalf (b % 2), halfBanked (b % 2) s)
  else if 0x51 ≤ b ∧ b ≤ 0x5C then
    let st := b - 0x51
    some (epochStack st, s.mem.lostStacks.testBit st || s.power.state = .warm || inDomainReset 2 st s)
  else if b ≥ 0xE0 then some (epochBay (csrBay addr), decide (reg .pwBayState (csrBay addr) s ≠ 0))
  else none

/-- The block at an address is gated. -/
def blockGated (addr : Nat) (s : State) : Bool := match blockGate addr s with | some (_, g) => g | none => false

/-- A field whose peripheral's clock CLK_EN has stopped reads zero (R386). -/
def fieldStopped (f : Fld) (s : State) : Bool :=
  let en := reg .ckClkEn 0 s
  match f with
  | .ckClkobsSel | .ckClkobsBusy | .ckClkobsDiv => !en.testBit 0
  | .reAgeMarginPs => !en.testBit 1
  | .spSampled | .spSampleShift => !en.testBit 2
  | _ => false

/-- The word a CSR_READ returns: zero in a gated block (R366). -/
def csrWord (addr : Nat) (s : State) : Nat :=
  if blockGated addr s then 0
  else sumNat ((wordRows addr).map fun e =>
    if e.1.acc = .wo ∨ fieldStopped e.1.fld s then 0 else readReg e.1.fld e.2 s * 2 ^ e.1.lo)

/-- What reading a word does: TIME_LO latches, and a read of the latched word ends the latch (R380). -/
def afterRead (addr : Nat) (s : State) : State :=
  if addr = 0x90000018 then latchTime s
  else if addr = 0x9000001C then { s with time := { s.time with latched := false } }
  else s

/-- Read consecutive words in increasing order. -/
def csrRead : Nat → Nat → State → List Byte × State
  | 0, _, s => ([], s)
  | n + 1, addr, s =>
    let b := leBytes 4 (csrWord addr s)
    let (r, s) := csrRead n (addr + 4) (afterRead addr s)
    (b ++ r, s)

/-- The address and the words of a CSR command are defined (R363). -/
def csrAddrOk (addr count : Nat) : Bool :=
  addr % 4 = 0 && decide (addr < 2 ^ 32) && (List.range count).all fun k => wordDefined (addr + 4 * k)

/-- CSR_READ. -/
def execCsrRead (m : CmdMeta) (addr count : Nat) (s : State) : Out :=
  command m 0x0010 (fun c s =>
    if count = 0 ∨ count > 64 ∨ ¬ csrAddrOk addr count then refuse c stBadParam s
    else
      let (b, s) := csrRead count addr s
      answer c stDone b s) s

/-- Write one field of a word (R7). -/
def writeField (w : Nat) (e : RegRow × Nat) (s : State) : State :=
  let v := bitsOf w e.1.hi e.1.lo
  match e.1.acc with
  | .ro => s
  | .w1c => setReg e.1.fld e.2 (andNot (reg e.1.fld e.2 s) v) s
  | .wo => if e.1.fld = .ckClkobsRst ∧ v = 1 then resetObs s else s
  | .rw =>
    if e.1.fld = .ckClkobsSel then selectObs v s
    else if e.1.fld = .scResendUs ∨ e.1.fld = .scResendMax then setReg e.1.fld 1 v (setReg e.1.fld 0 v s)
    else setReg e.1.fld e.2 v s

/-- Write one word: stored fields first, then those that act on what was stored. -/
def writeWord (addr w : Nat) (s : State) : State :=
  let l := wordRows addr
  let s := (l.filter fun e => e.1.acc ≠ .wo).foldl (fun s e => writeField w e s) s
  (l.filter fun e => e.1.acc = .wo).foldl (fun s e => writeField w e s) s

/-- The domain of the block at an address is in reset (R16, R401). -/
def domainInReset (addr : Nat) (s : State) : Bool :=
  let b := csrBlock addr
  (s.power.state = .warm && ((decide (0x10 ≤ b) && decide (b ≤ 0x80)) || decide (b ≥ 0xD0)))
    || (b = 0x10 && inDomainReset 1 (csrOffset addr / 0x1000) s)
    || (b = 0x40 && inDomainReset 1 (csrOffset addr / 0x1000) s)
    || (decide (b ≥ 0xE0) && inDomainReset 0 (csrBay addr) s)

/-- A write of a word reaches the block agent from a Shop (0xFF: the Foreman itself): the agent takes it only from the Shop
in its owner field; any other write is discarded and logged with the writer and the place (R15, DISCARDED_WRITE). -/
def agentWrite (shop addr w : Nat) (s : State) : State :=
  if shop = blockOwner addr s then writeWord addr w s
  else logEvent 0x0001 sevW (csrBlock addr) 0xFF (packFields [(1, shop), (1, csrBlock addr), (4, csrOffset addr)]) s

/-- Why a CSR_WRITE of a word is refused (R16, R365). -/
def writeRefusal (addr : Nat) (s : State) : Option Nat :=
  let b := csrBlock addr
  if b = 0x92 ∨ b = 0xA1 ∨ b = 0xB0 ∨ b = 0xB1 then some stDenied
  else if b ≥ 0xE0 ∧ (tabGet {} s.layer.bays (csrBay addr)).transfer.isSome then some stBadState
  else if blockGated addr s ∨ domainInReset addr s then some stBadState
  else none

/-- CSR_WRITE: the Foreman performs each word through the Shop that owns its block (R16). -/
def execCsrWrite (m : CmdMeta) (addr count : Nat) (words : List Nat) (s : State) : Out :=
  command m 0x0011 (fun c s =>
    let addrs := (List.range count).map fun k => addr + 4 * k
    let badCode := (addrs.zip words).any fun e => e.1 = 0x90000008 && !clockCode (e.2 % 256)
    if words.length ≠ count then refuse c stBadLength s
    else if count = 0 ∨ count > 64 ∨ ¬ csrAddrOk addr count ∨ badCode then refuse c stBadParam s
    else match addrs.findSome? fun a => writeRefusal a s with
      | some st => refuse c st s
      | none => done c ((addrs.zip words).foldl (fun s e => agentWrite (blockOwner e.1 s) e.1 e.2 s) s)) s

/-- DEV_BLOCK_STATE: owner, GATED and gate epoch (R366). -/
def execDevBlockState (m : CmdMeta) (addr : Nat) (s : State) : Out :=
  command m 0x0012 (fun c s =>
    if ¬ csrAddrOk addr 1 then refuse c stBadParam s
    else
      let (k, g) := match blockGate addr s with | some (k, g) => (some k, g) | none => (none, false)
      let epoch := match k with | some k => tabGet 0 s.fore.gateEpoch k | none => 0
      answer c stDone (packFields [(1, blockOwner addr s), (1, b2n g), (2, epoch)]) s) s

/-! ### The two cores (R351, R352) -/

/-- HEARTBEAT: every 100 µs from the active core. -/
def execHeartbeat (s : State) : Out :=
  .next (
    if !s.fore.activeAlive then s
    else
      let s := advanceTo (s.fore.lastHeartbeat + 100000) s
      { s with fore := { s.fore with lastHeartbeat := s.time.now } })

/-- Commands that had started and have no completion record are answered INTERNAL_FAULT (R352). -/
def failStarted (s : State) : State :=
  let long := s.fore.outstanding
  let short := s.fore.busy.map (·.2)
  let s := long.foldl (fun s c => finish c stInternalFault [] s) s
  let s := { s with fore := { s.fore with busy := [] } }
  short.foldl (fun s c => if long.contains c then s else answer c stInternalFault [] s) s

/-- Work whose reply was still to come has no one to answer any more. -/
def orphanShort (s : State) : State :=
  let keep := s.sec.signQ.filter fun x => match x with | .record _ _ => true | _ => false
  { s with sec := { s.sec with signQ := keep, rollback := none } }

/-- The standby core takes over: it becomes the active one, and commands that had started end INTERNAL_FAULT (R352). -/
def takeOver (s : State) : State :=
  let old := reg .foreActiveCore 0 s
  let s := useFree (logEvent 0x0002 sevW 0x00 0xFF (packFields [(1, old), (1, freeNat s % 2)]) s)
  let s := setReg .foreStandbyReady 0 0 (setReg .foreActiveCore 0 (1 - old) (incReg .foreTakeoverCnt 0 s))
  let s := markFlag detFwSwitch { s with fore := { s.fore with lastHeartbeat := s.time.now } }
  orphanShort (failStarted s)

/-- The device is fenced as by a loss of main power: the fabric loses each of its links (R279, R423). -/
def dropLinks (s : State) : State :=
  (List.range 52).foldl (fun s l =>
    let st := lkStateOf l s
    powerDown l (if st = lkActive ∨ st = lkQuarantined then leaveLink l s else s)) s

/-- CORE_TAKEOVER: 1 ms without a heartbeat. With no standby ready no core can run: FOREMAN_FATAL, and every
link is lost (R423; DEDUCED, log entry 130). Whether the failed core passes its
self-test is not known yet: a free value in the entry. -/
def execCoreTakeover (s : State) : Out :=
  .next (
    if !s.fore.activeAlive then s
    else
      let s := advanceTo (s.fore.lastHeartbeat + 1000000) s
      if !flag .foreStandbyReady 0 s then
        let s := useFree (logEvent 0x0005 sevF 0x00 0xFF (packFields [(1, freeNat s % 256)]) s)
        dropLinks (assertFault { s with fore := { s.fore with activeAlive := false } })
      else takeOver s)

/-- STANDBY_CORE_READY: the standby core follows the journal, or the device runs without one (R351, R367). -/
def execStandbyCoreReady (pass : Bool) (s : State) : Out :=
  .next (
    if !s.fore.activeAlive || recovery s || switching s || s.power.state = .standbyOnly || s.power.state = .inReset then s
    else if pass then setReg .foreStandbyReady 0 1 s else s)

end Sys2Proof.Machine
end

