-- ==== Sys2Proof/Machine/Sideband.lean ====
section
/-! DEFINITION. The I²C sideband (R193, R197, R371 to R374) and the JTAG port (R375, R376). -/
namespace Sys2Proof.Machine

/-! ### The snapshot (R371 to R373) -/

/-- The block of SB_COORD. -/
def coordBytes (s : State) : List Byte :=
  packFields [(1, s.coord.member), (1, s.coord.group.getD 0xFF), (1, s.coord.pendGroup.getD 0xFF), (1, s.coord.count.getD 0),
    (1, s.coord.pendCount.getD 0)]

/-- A Shakeout entry's 32 bytes (R416). -/
def entryBytes (e : ShEntry) : List Byte :=
  packFields [(8, e.time), (4, e.sclk), (2, e.code), (1, e.blk), (1, e.inst)] ++ padTo 16 e.args

/-- The block of SB_SHAKEOUT: entry count, frozen flag, newest entry. -/
def shakeBytes (s : State) : List Byte :=
  packFields [(2, s.rel.entries.length), (1, reg .shFrozen 0 s)]
  ++ (match s.rel.entries.getLast? with | some e => entryBytes e | none => leBytes 32 0)

/-- The block of SB_ASSAY: the Foreman's copy of the 48 V energy, its age in ms, whether readings arrive. -/
def assayBytes (s : State) : List Byte :=
  leBytes 8 (frameField (frameChan 0) 8 s) ++ leBytes 4 (readReg .arAgeMs 0 s) ++ leBytes 1 (reg .arArriving 0 s)

/-- What the sequencer puts in a snapshot: 24, 5, 32, 35 and 13 bytes. -/
def snapBytes (s : State) : List Byte :=
  (identityRecord s).take 24 ++ coordBytes s ++ healthRecord s ++ shakeBytes s ++ assayBytes s

/-- The snapshot reads are answered from; before the first refresh it is what the first would hold (log entry 50). -/
def snapshot (s : State) : List Byte := if s.sb.snapshot = [] then snapBytes s else s.sb.snapshot

/-- SB_SNAPSHOT_REFRESH: every 10 ms on main power, every 100 ms on standby power. -/
def execSbSnapshotRefresh (s : State) : Out :=
  .next (
    if !s.pins.p12sb then s
    else
      let s := advanceTo (s.sb.snapAt + if flag .sbMainSnap 0 s then 10000000 else 100000000) s
      { s with sb := { s.sb with snapshot := snapBytes s, snapAt := s.time.now } })

/-! ### Block reads and writes (R371) -/

/-- A block with its byte count and PEC, as an SMBus block read returns it. -/
def smbusBlock (addr code : Nat) (b : List Byte) : List Byte :=
  let body := leBytes 1 b.length ++ b
  body ++ leBytes 1 (crc8 (packFields [(1, addr * 2), (1, code), (1, addr * 2 + 1)] ++ body))

/-- The PEC of a block write. -/
def writePec (addr code : Nat) (data : List Byte) : Nat :=
  crc8 (packFields [(1, addr * 2), (1, code), (1, data.length)] ++ data)

/-- A block read is served. -/
def sbRead (code : Nat) (b : List Byte) (s : State) : State :=
  emit (.sideband (smbusBlock (reg .sbAddr 0 s) code b)) (incReg .sbReadCnt 0 s)

/-- A read of a listed code, from the snapshot. -/
def sbSnapRead (code off n : Nat) (s : State) : Out :=
  .next (if s.pins.p12sb then sbRead code (((snapshot s).drop off).take n) s else s)

/-- Outcomes of a write (R373). -/
def sbDone : Nat := 0
def sbPending : Nat := 1
def sbRefused : Nat := 2
def sbBadPec : Nat := 3
def sbBadCmd : Nat := 4
def sbBadLength : Nat := 5

/-- A block write is received: a bad PEC ignores it; else its outcome is recorded. -/
def sbWrite (code : Nat) (data : List Byte) (pec : Nat) (k : State → Nat × State) (s : State) : Out :=
  .next (
    if !s.pins.p12sb then s
    else
      let s := setReg .sbLastCmd 0 code (incReg .sbWriteCnt 0 s)
      if pec ≠ writePec (reg .sbAddr 0 s) code data then setReg .sbLastStatus 0 sbBadPec (incReg .sbPecErrCnt 0 s)
      else
        let (st, s) := k s
        setReg .sbLastStatus 0 st (if st = sbRefused ∨ st ≥ sbBadCmd then incReg .sbRefusedCnt 0 s else s))

/-! ### Coordinates (R193, R197) -/

/-- The data plane runs, or a WARM reset is in progress. -/
def planeRuns (s : State) : Bool := s.power.state = .running || s.power.state = .warm

/-- A group number is written. -/
def setGroup (g : Nat) (s : State) : Nat × State :=
  match s.coord.lastCount with
  | none => (sbRefused, s)
  | some n =>
    if g > 144 ∨ g ≥ n then (sbRefused, s)
    else if s.coord.group.isNone then (sbDone, settleSlots { s with coord := { s.coord with group := some g } })
    else if planeRuns s then (sbPending, { s with coord := { s.coord with pendGroup := some g } })
    else (sbDone, { s with coord := { s.coord with group := some g, pendGroup := none } })

/-- A global link whose far end is the same under both counts adopts a pending count at once. -/
def offerCount (n l : Nat) (s : State) : State :=
  let s' := modLink l (fun k => { k with pendingCnt := some n }) s
  if wiredTo n (ownGroup s) s.coord.member l = wiredTo (linkCount l s) (ownGroup s) s.coord.member l then adoptCount l s' else s'

/-- A group count is written. -/
def setCount (n : Nat) (s : State) : Nat × State :=
  if n = 0 ∨ n > 145 ∨ s.coord.group.any (fun g => decide (n ≤ g)) ∨ s.coord.pendGroup.any (fun g => decide (n ≤ g)) then
    (sbRefused, s)
  else
    let s := { s with coord := { s.coord with lastCount := some n } }
    if s.coord.count.isNone then (sbDone, settleSlots { s with coord := { s.coord with count := some n } })
    else if !planeRuns s then
      let s := { s with coord := { s.coord with count := some n, pendCount := none } }
      (sbDone, (List.range 9).foldl (fun s i => modLink (39 + i) (fun k => { k with expectCnt := 0, pendingCnt := none }) s) s)
    else
      let s := { s with coord := { s.coord with pendCount := some n } }
      let s := (List.range 9).foldl (fun s i => modLink (39 + i) (fun k => { k with pendingCnt := some n }) s) s
      (sbPending, (List.range 9).foldl (fun s i => offerCount n (39 + i) s) s)

/-- SB_GROUP_SET. -/
def execSbGroupSet (data : List Byte) (pec : Nat) (s : State) : Out :=
  sbWrite 0x03 data pec (fun s => match data with | [g] => setGroup g.toNat s | _ => (sbBadLength, s)) s

/-- SB_COUNT_SET. -/
def execSbCountSet (data : List Byte) (pec : Nat) (s : State) : Out :=
  sbWrite 0x04 data pec (fun s => match data with | [n] => setCount n.toNat s | _ => (sbBadLength, s)) s

/-! ### The reads (R373) -/

/-- SB_IDENTIFY. -/
def execSbIdentify (s : State) : Out := sbSnapRead 0x01 0 24 s
/-- SB_COORD. -/
def execSbCoord (s : State) : Out := sbSnapRead 0x02 24 5 s
/-- SB_HEALTH. -/
def execSbHealth (s : State) : Out := sbSnapRead 0x05 29 32 s
/-- SB_SHAKEOUT. -/
def execSbShakeout (s : State) : Out := sbSnapRead 0x06 61 35 s
/-- SB_ASSAY. -/
def execSbAssay (s : State) : Out := sbSnapRead 0x07 96 13 s
/-- SB_STATUS: answered live. -/
def execSbStatus (s : State) : Out := .next (if s.pins.p12sb then sbRead 0x08 (leBytes 1 (reg .sbLastStatus 0 s)) s else s)

/-- SB_UNDEFINED_CODE: a write gives BAD_CMD; a read returns an empty block and sets BAD_CMD. -/
def execSbUndefinedCode (code : Nat) (write : Bool) (data : List Byte) (pec : Nat) (s : State) : Out :=
  if write then sbWrite code data pec (fun s => (sbBadCmd, s)) s
  else .next (if s.pins.p12sb then setReg .sbLastStatus 0 sbBadCmd (sbRead code [] s) else s)

/-! ### JTAG (R375, R376) -/

/-- Instructions: 0 BYPASS, 1 IDCODE, 2 SAMPLE/PRELOAD, 3 EXTEST, 4 CLAMP, 5 HIGHZ. -/
def setJtag (k : Nat) (s : State) : State := { s with jtag := { s.jtag with instr := k } }

/-- The instruction in effect: EXTEST, CLAMP and HIGHZ act as BYPASS unless RESET_N is asserted. -/
def jtagEffective (s : State) : Nat := if s.jtag.instr ≥ 3 ∧ s.pins.resetN then 0 else s.jtag.instr

/-- The one-bit bypass register is shifted out. -/
def jtagBypass (s : State) : State := emit (.jtag 0 1) s

/-- BYPASS. -/
def execBypass (s : State) : Out := .next (jtagBypass (setJtag 0 s))
/-- IDCODE. -/
def execIdcode (s : State) : Out := .next (emit (.jtag jtagIdcode 32) (setJtag 1 s))

/-- The boundary register captures the contacts and is shifted out; its length and the order of its cells are open. -/
def captureBoundary (s : State) : State :=
  let bits := freeNat s
  let s := useFree s
  let width := freeNat s
  useFree (emit (.jtag bits width) s)

/-- SAMPLE/PRELOAD: the contacts are captured and `bits` preloaded. -/
def execSamplePreload (bits : Nat) (s : State) : Out :=
  let s := captureBoundary (setJtag 2 s)
  .next { s with jtag := { s.jtag with boundary := bits } }

/-- EXTEST: while RESET_N is asserted the boundary register drives the contacts and captures them. -/
def execExtest (s : State) : Out :=
  let s := setJtag 3 s
  .next (if jtagEffective s = 0 then jtagBypass s else captureBoundary s)

/-- CLAMP: the contacts hold the boundary register's values behind the bypass register. -/
def execClamp (s : State) : Out := .next (jtagBypass (setJtag 4 s))
/-- HIGHZ: the outputs float behind the bypass register. -/
def execHighz (s : State) : Out := .next (jtagBypass (setJtag 5 s))

end Sys2Proof.Machine
end

