-- ==== Sys2Proof/Machine/Assay.lean ====
section
/-! DEFINITION. The Assay island, its own port, its channel to X0 and the commands of range 0x0Cxx (chapter 18; R465). -/
namespace Sys2Proof.Machine

/-! ### Channels and parameters (R444, R448) -/

/-- A channel as manufactured: channel 0 is enabled. -/
def chanDefault (c : Nat) : AssayChan := let z : AssayChan := {}; { z with enable := b2n (c = 0) }

/-- A channel. -/
def chan (c : Nat) (nv : AssayNv) : AssayChan := tabGet (chanDefault c) nv.chans c

/-- Change what the island holds. -/
def modLive (f : AssayNv → AssayNv) (s : State) : State := { s with assay := { s.assay with live := f s.assay.live } }

/-- Change a channel. -/
def modChan (c : Nat) (f : AssayChan → AssayChan) (s : State) : State :=
  modLive (fun nv => { nv with chans := tabSet (chanDefault c) nv.chans c (f (chan c nv)) }) s

/-- Full scale of a sample (R442, R465): channel 0 in µV and µA of the input itself, the others in µV at VSNS and nV at ISNS. -/
def fullScale (c : Nat) : Nat × Nat := if c = 0 then (64000000, 75000000) else (1000000, 50000000)

/-- The voltage in µV that a sample stands for: at VSNS × the divider ratio (R444). -/
def sensedVolts (c v : Nat) (k : AssayChan) : Nat := if c = 0 then v else v * k.divider / 1000

/-- The current in µA that a sample stands for: across ISNS / the shunt resistance (R444). -/
def sensedAmps (c : Nat) (i : Int) (k : AssayChan) : Int := if c = 0 then i else i * 1000000 / (k.shunt : Int)

/-- The calibration of a channel; without gain and offset the sensed current stands (log entry 74). -/
def calibrated (k : AssayChan) (i : Int) : Int := if k.gain = 0 ∧ k.offset = 0 then i else Config.assayCalibrated k.gain k.offset i

/-- A printable ASCII byte. -/
def printable (b : Byte) : Bool := decide (0x20 ≤ b.toNat) && decide (b.toNat ≤ 0x7E)

/-- A parameter of a channel as an 8-byte value; none when it is not defined there. -/
def paramOf (id c : Nat) (k : AssayChan) : Option Nat :=
  if c > 8 ∨ (c = 0 ∧ id ≠ 1 ∧ id ≠ 4 ∧ id ≠ 5) then none
  else match id with
    | 1 => some k.enable | 2 => some k.divider | 3 => some k.shunt | 4 => some (ofSigned 64 k.gain)
    | 5 => some (ofSigned 64 k.offset) | 6 => some k.label | _ => none

/-- A value lies within its parameter's range; channel 0's ENABLE stays 1. -/
def paramInRange (id c v : Nat) : Bool :=
  let i := toSigned 64 v
  match id with
  | 1 => decide (v ≤ 1) && (c ≠ 0 || v = 1)
  | 2 => decide (1000 ≤ v) && decide (v ≤ 1000000)
  | 3 => decide (1000 ≤ v) && decide (v ≤ 10000000)
  | 4 => decide (-20000 ≤ i) && decide (i ≤ 20000)
  | 5 => decide (-500 ≤ i) && decide (i ≤ 500)
  | 6 => (leBytes 8 v).all printable
  | _ => false

/-- Store a parameter. -/
def putParam (id v : Nat) (k : AssayChan) : AssayChan :=
  match id with
  | 1 => { k with enable := v } | 2 => { k with divider := v } | 3 => { k with shunt := v }
  | 4 => { k with gain := toSigned 64 v } | 5 => { k with offset := toSigned 64 v } | 6 => { k with label := v } | _ => k

/-! ### Measurement (R442, R443) -/

/-- pW·samples of one mWh at 16,000 samples per second. -/
def mwhUnit : Int := 57600000000000000

/-- A value clipped to full scale. -/
def clipInt (lim : Nat) (i : Int) : Int := max (-(lim : Int)) (min (lim : Int) i)

/-- One sample at the sense point: clipped, scaled, integrated, whole mWh moved. -/
def sampleChan (c volts : Nat) (amps : Int) (k : AssayChan) : AssayChan :=
  let v := min volts (fullScale c).1
  let i := clipInt (fullScale c).2 amps
  let uv := sensedVolts c v k
  let p := (uv : Int) * calibrated k (sensedAmps c i k)
  let r := k.residue + p
  let k := { k with power := p / 1000000000, milliV := uv / 1000,
                    ovr := k.ovr || decide (v ≠ volts) || decide (i ≠ amps) }
  if 0 ≤ r then { k with residue := r % mwhUnit, delivered := k.delivered + (r / mwhUnit).toNat }
  else { k with residue := -((-r) % mwhUnit), returned := k.returned + ((-r) / mwhUnit).toNat }

/-- ASSAY_SAMPLE: the voltage and the current that the converter of a channel reads at its sense point. -/
def execAssaySample (channel volts : Nat) (amps : Int) (s : State) : Out :=
  onUnit (decide (channel ≤ 8)) s (
    if !s.assay.vddGood || (chan channel s.assay.live).enable = 0 then s
    else modChan channel (sampleChan channel volts amps) s)

/-! ### Supply, commits and the seal (R445, R446, R465) -/

/-- Commit the non-volatile memory. -/
def commitNv (s : State) : State := { s with assay := { s.assay with committed := s.assay.live } }

/-- ASSAY_NV_COMMIT: every second of the island, which is also counted. -/
def execAssayNvCommit (s : State) : Out :=
  .next (
    if !s.assay.vddGood then s
    else
      let s := advanceTo (s.assay.secAt + 1000000000) s
      let s := modLive (fun nv => { nv with seconds := nv.seconds + 1 }) s
      commitNv { s with assay := { s.assay with secAt := s.time.now } })

/-- ASSAY_VDD_GOOD: OUTAGE rises, the straps are sampled, measurement resumes from what was committed. -/
def execAssayVddGood (straps : Nat) (s : State) : Out :=
  .next (
    if s.assay.vddGood then s
    else { s with assay := { s.assay with
      vddGood := true, straps := straps % 4, secAt := s.time.now, status := 0, signing := none, reading := [], frameSeq := 0,
      live := { s.assay.committed with outage := (s.assay.committed.outage + 1) % 2 ^ 32 } } })

/-- ASSAY_VDD_FALLING: the island commits within the hold-up time, and stops. -/
def execAssayVddFalling (s : State) : Out :=
  .next (if !s.assay.vddGood then s
    else let s := commitNv s; { s with assay := { s.assay with vddGood := false, signing := none, reading := [] } })

/-- SEAL_OPEN_CHANGE. -/
def execSealOpenChange (isOpen : Bool) (s : State) : Out := .next { s with assay := { s.assay with sealOpen := isOpen } }

/-! ### The island's port (R447, R449, R452, R453) -/

/-- Statuses. -/
def asDone : Nat := 0
def asPending : Nat := 1
def asSealed : Nat := 2
def asSignature : Nat := 3
def asCounter : Nat := 4
def asTrailFull : Nat := 5
def asBadValue : Nat := 6
def asBadCmd : Nat := 7
def asBadPec : Nat := 8

def asStatus (st : Nat) (s : State) : State := { s with assay := { s.assay with status := st } }

/-- The port's address. -/
def asAddr (s : State) : Nat := 0x58 + s.assay.straps

/-- A block the island returns. -/
def asBlock (code : Nat) (b : List Byte) (s : State) : State := emit (.assay (smbusBlock (asAddr s) code b)) s

/-- A read, while the island has its supply. -/
def asRead (code : Nat) (b : State → List Byte) (s : State) : Out := .next (if s.assay.vddGood then asBlock code (b s) s else s)

/-- A write with its PEC. -/
def asWrite (code : Nat) (data : List Byte) (pec : Nat) (k : State → State) (s : State) : Out :=
  .next (if !s.assay.vddGood then s else if pec ≠ writePec (asAddr s) code data then asStatus asBadPec s else k s)

/-- The island key's signature under a context: 5 ASSAY-DC, 6 ASSAY-RD, 7 ASSAY-CH. -/
def kxReading : Nat := 6
def kxChange : Nat := 7

/-- AS_IDENT. -/
def execAsIdent (s : State) : Out :=
  asRead 0x01 (fun s => leBytes 4 Config.assayFwVersion.toNat ++ leBytes 32 Config.assaySoftwareDigest.toNat
    ++ leBytes 8 Config.assaySerial.toNat ++ leBytes 4 s.assay.live.event ++ leBytes 2 s.assay.live.trail.length) s

/-- AS_SIGN: a reading of one channel is asked for. -/
def execAsSign (channel : Nat) (nonce : List Byte) (pec : Nat) (s : State) : Out :=
  asWrite 0x02 (leBytes 1 channel ++ nonce) pec (fun s =>
    if channel > 8 ∨ nonce.length ≠ 16 then asStatus asBadValue s
    else asStatus asDone { s with assay := { s.assay with signing := some (channel, nonce) } }) s

/-- The 72-byte body of a signed reading. -/
def readingBody (c : Nat) (nonce : List Byte) (s : State) : List Byte :=
  let nv := s.assay.live
  let k := chan c nv
  leBytes 8 Config.assaySerial.toNat ++ padTo 16 nonce
  ++ packFields [(1, c), (1, b2n s.assay.sealOpen + 2 * b2n k.ovrLast + 4 * k.enable + 8 * b2n (decide (nv.trail.length ≥ 256))), (2, 0),
      (4, nv.event), (4, nv.outage), (8, nv.seconds), (8, k.delivered), (8, k.returned), (4, Config.assayFwVersion.toNat)]
  ++ leBytes 8 Config.assaySoftwareDigest.toNat

/-- Signatures of the last second (R452). -/
def signsLately (s : State) : List Nat := s.assay.signTimes.filter fun t => decide (s.time.now < t + 1000000000)

/-- AS_SIGNED_READING_READY: the registers are read at the moment of signing; the 21st signature of a second waits. -/
def execAsSignedReadingReady (s : State) : Out :=
  .next (match s.assay.signing with
    | none => s
    | some (c, nonce) =>
      if (signsLately s).length ≥ 20 then s
      else
        let b := readingBody c nonce s
        let sig := leBytes 114 (Config.ed448Sign Config.assayKeySeed kxReading b).toNat
        { s with assay := { s.assay with signing := none, reading := b ++ sig, signTimes := signsLately s ++ [s.time.now] } })

/-- AS_READING: the last signed reading; PENDING before it is ready. -/
def execAsReading (s : State) : Out :=
  .next (
    if !s.assay.vddGood then s
    else if s.assay.signing.isSome ∨ s.assay.reading = [] then asStatus asPending (asBlock 0x03 [] s)
    else asBlock 0x03 s.assay.reading s)

/-- AS_PARAM. -/
def execAsParam (param channel pec : Nat) (s : State) : Out :=
  asWrite 0x04 (packFields [(1, channel), (1, param)]) pec (fun s =>
    match paramOf param channel (chan channel s.assay.live) with
    | some v => asStatus asDone (asBlock 0x04 (leBytes 8 v) s)
    | none => asStatus asBadValue (asBlock 0x04 [] s)) s

/-- AS_TRAIL. -/
def execAsTrail (index pec : Nat) (s : State) : Out :=
  asWrite 0x05 (leBytes 1 index) pec (fun s =>
    match s.assay.live.trail[index]? with
    | some e => asStatus asDone (asBlock 0x05 e s)
    | none => asStatus asBadValue (asBlock 0x05 [] s)) s

/-- AS_CERT. -/
def execAsCert (s : State) : Out :=
  asRead 0x06 (fun _ => leBytes 8 Config.assaySerial.toNat ++ leBytes 57 (Config.ed448Public Config.assayKeySeed).toNat
    ++ leBytes 114 Config.assayCertSignature.toNat) s

/-- The status of the first check of R447 that fails on a 128-byte command block. -/
def changeCheck (b : List Byte) (s : State) : Nat :=
  let id := fieldAt b 4 1
  let c := fieldAt b 5 1
  if !s.assay.sealOpen then asSealed
  else if !Config.ed448Verify Config.assayAuthority kxChange (b.take 14) (BitVec.ofNat 912 (fieldAt b 14 114)) then asSignature
  else if fieldAt b 0 4 ≠ s.assay.live.event then asCounter
  else if s.assay.live.trail.length ≥ 256 then asTrailFull
  else if (paramOf id c (chan c s.assay.live)).isNone || !paramInRange id c (fieldAt b 6 8) then asBadValue
  else asDone

/-- The new value, the audit-trail entry and the counter are committed in one write (R447, R449). -/
def commitChange (b : List Byte) (s : State) : State :=
  let id := fieldAt b 4 1
  let c := fieldAt b 5 1
  let old := (paramOf id c (chan c s.assay.live)).getD 0
  let n := (s.assay.live.event + 1) % 2 ^ 32
  let e := packFields [(4, n), (1, id), (1, c), (2, 0), (8, old), (8, fieldAt b 6 8), (8, s.assay.live.seconds)] ++ shake256 8 b
  let s := modChan c (putParam id (fieldAt b 6 8)) s
  commitNv (modLive (fun nv => { nv with event := n, trail := nv.trail ++ [e] }) s)

/-- AS_CHANGE: expected counter (4), parameter (1), channel (1), value (8), signature (114). -/
def execAsChange (block : List Byte) (pec : Nat) (s : State) : Out :=
  asWrite 0x10 block pec (fun s =>
    if block.length ≠ 128 then asStatus asBadCmd s
    else
      let st := changeCheck block s
      asStatus st (if st = asDone then commitChange block s else s)) s

/-- AS_STATUS. -/
def execAsStatus (s : State) : Out := asRead 0x11 (fun s => leBytes 1 s.assay.status) s

/-- AS_UNDEFINED_CODE. -/
def execAsUndefinedCode (code : Nat) (write : Bool) (s : State) : Out :=
  .next (if !s.assay.vddGood then s else asStatus asBadCmd (if write then s else asBlock code [] s))

/-! ### The channel to X0 (R454 to R456) -/

/-- A channel's 24 bytes of a frame. -/
def chanRecord (c : Nat) (s : State) : List Byte :=
  let k := chan c s.assay.live
  packFields [(8, k.delivered), (8, k.returned), (4, ofSigned 32 k.power), (2, k.milliV), (2, k.enable + 2 * b2n k.ovr)]

/-- A frame of 252 bytes. -/
def assayFrame (s : State) : List Byte :=
  let nv := s.assay.live
  let b := packFields [(2, 0x5341), (1, 1), (1, b2n s.assay.sealOpen + 2 * b2n (decide (nv.trail.length ≥ 256))),
      (4, s.assay.frameSeq), (8, nv.seconds), (4, nv.event), (4, nv.outage), (8, Config.assaySoftwareDigest.toNat)]
    ++ (List.range 9).flatMap fun c => chanRecord c s
  b ++ leBytes 4 (crc32c b)

/-- A frame goes to X0; the reading interval ends with it, and its OVR flags are those of the last interval (R443, R454). -/
def sendAssayFrame (s : State) : State :=
  let s := emit (.assayFrame (assayFrame s)) s
  let s := { s with assay := { s.assay with frameSeq := (s.assay.frameSeq + 1) % 2 ^ 32 } }
  (List.range 9).foldl (fun s c => modChan c (fun k => { k with ovr := false, ovrLast := k.ovr }) s) s

/-- ASSAY_FRAME_SEND: every 100 ms; the OVR flags of the interval end with it. -/
def execAssayFrameSend (s : State) : Out :=
  .next (
    if !s.assay.vddGood then s
    else sendAssayFrame (advance (100000000 - s.time.now % 100000000) s))

/-- A Heat executes Pour chunks or a layer run on FIRED Flasks. -/
def heatRuns (heat : Nat) (s : State) : Bool :=
  (s.pour.pours.any fun p => p.heat = heat && decide (1 ≤ p.state) && decide (p.state ≤ 4))
    || s.layer.segs.any fun e => e.2.running.any fun r => r.run.heat = heat

/-- A bound Heat's weight over the interval, in units of 1/4,480 µs: the cells sent for it, and its Flask-microseconds, which the
model keeps no time for: a free value (log entry 51). -/
def heatWeights : List Nat → State → List (Nat × Nat) × State
  | [], s => ([], s)
  | h :: r, s =>
    let cells := tabGet 0 s.assay.weights h
    let (w, s) := if heatRuns h s then (cells + 4480 * freeNat s, useFree s) else (cells, s)
    let (l, s) := heatWeights r s
    ((h, w) :: l, s)

/-- Book energy to a Heat, and count its interval. -/
def bookEnergy (heat mwh : Nat) (s : State) : State :=
  let old := match tabFind s.assay.attrib heat with | some x => x | none => (0, 0)
  { s with assay := { s.assay with attrib := tabPut s.assay.attrib heat (old.1 + mwh, old.2 + 1) } }

/-- A share in whole mWh: rounded down or up, which the manual leaves open. -/
def bookShare (rise total : Nat) (e : Nat × Nat) (s : State) : State :=
  let q := rise * e.2 / total
  let up := if rise * e.2 % total = 0 then 0 else freeNat s % 2
  bookEnergy e.1 (q + up) (useFree s)

/-- The rise of channel 0's energy is divided among the Heats. -/
def attributeRise (rise : Nat) (s : State) : State :=
  let (l, s) := heatWeights (s.coord.binds.map (·.heat)) s
  let total := sumNat (l.map (·.2))
  let s := if total = 0 then bookEnergy 0 rise (l.foldl (fun s e => bookEnergy e.1 0 s) s)
    else l.foldl (fun s e => bookShare rise total e s) s
  { s with assay := { s.assay with weights := [] } }

/-- A good frame is taken: the rise of channel 0's energy since the last one is attributed (R456, R457). -/
def takeFrameBytes (bytes : List Byte) (s : State) : State :=
  let new := fieldAt bytes (frameChan 0) 8
  let s := match s.assay.rx with
    | some b => attributeRise (new - fieldAt b (frameChan 0) 8) s
    | none => s
  setReg .arArriving 0 1 { s with assay := { s.assay with rx := some bytes, rxAt := s.time.now } }

/-- ASSAY_FRAME: the receiver on X0. -/
def execAssayFrame (bytes : List Byte) (s : State) : Out :=
  .next (
    if s.power.state = .standbyOnly ∨ s.power.state = .inReset then s
    else if bytes.length ≠ 252 ∨ fieldAt bytes 0 2 ≠ 0x5341 ∨ fieldAt bytes 248 4 ≠ crc32c (bytes.take 248) then
      incReg .arCrcErrCnt 0 s
    else takeFrameBytes bytes s)

/-- ASSAY_SILENT: 1 s without a good frame. -/
def execAssaySilent (s : State) : Out :=
  .next (
    if !flag .arArriving 0 s then s
    else
      let s := advanceTo (s.assay.rxAt + 1000000000) s
      let s := logEvent 0x0C01 sevW 0x92 0xFF (packFields [(4, readReg .arAgeMs 0 s)]) s
      incReg .arSilentCnt 0 (setReg .arArriving 0 0 s))

/-! ### Commands of range 0x0Cxx (R458) -/

/-- ASSAY_STATUS. -/
def execAssayStatus (m : CmdMeta) (s : State) : Out :=
  command m 0x0C00 (fun c s =>
    answer c stDone (readWords 0x92000000 7 s ++ leBytes 1 (frameField 3 1 s) ++ leBytes 8 (frameField 24 8 s)) s) s

/-- ASSAY_READ. -/
def execAssayRead (m : CmdMeta) (channel : Nat) (s : State) : Out :=
  command m 0x0C01 (fun c s =>
    if channel > 8 then refuse c stBadParam s
    else match s.assay.rx with
      | none => refuse c stBadState s
      | some b => answer c stDone ((b.drop (frameChan channel)).take 24 ++ leBytes 4 (readReg .arFrameSeq 0 s)
          ++ leBytes 4 (readReg .arAgeMs 0 s)) s) s

/-- ASSAY_ATTRIB. -/
def execAssayAttrib (m : CmdMeta) (heat : Nat) (s : State) : Out :=
  command m 0x0C02 (fun c s =>
    if !isBound heat s then refuse c stBadState s
    else
      let x := match tabFind s.assay.attrib heat with | some x => x | none => (0, 0)
      answer c stDone (leBytes 8 x.1 ++ leBytes 4 x.2) s) s

/-- ASSAY_ATTRIB_LIST: up to 100 pairs from a first index. -/
def execAssayAttribList (m : CmdMeta) (first : Nat) (s : State) : Out :=
  command m 0x0C03 (fun c s =>
    requires (decide (first < 1025)) c stBadParam (fun s =>
      answer c stDone (((s.assay.attrib.drop first).take 100).flatMap fun e => leBytes 4 e.1 ++ leBytes 8 e.2.1) s) s) s

end Sys2Proof.Machine
end

