-- ==== Sys2Proof/Machine/Parse.lean ====
section
/-! DEFINITION. The parameter form of every command (R471) and the reading of a command's parameter bytes (R356 checks 2
and 3). -/
namespace Sys2Proof.Machine

/-- What follows the fixed fields of a parameter form: nothing; a byte string of bounded length; a list of numbers of a width
and of bounded count; numbers of a width, as many as an earlier field says; or up to that many pairs of tensor index (2)
and GFA (8). -/
inductive FormTail where
  | none
  | bytes (lo hi : Nat)
  | list (width lo hi : Nat)
  | counted (field width : Nat)
  | pairs (most : Nat)
  deriving DecidableEq, Repr

/-- A parameter form: opcode, widths of the fixed fields in bytes, the tail, and the command that values spell. -/
structure CmdForm where
  op     : Nat
  widths : List Nat
  tail   : FormTail
  build  : CmdMeta → List Nat → List Byte → Instr

/-- A tail as numbers of `w` bytes. -/
def numbers (w : Nat) (b : List Byte) : List Nat := (takeList w b).getD []

/-- A tail as pairs of a 2-byte and an 8-byte number. -/
def numberPairs (b : List Byte) : List (Nat × Nat) := (chunksOf 10 (b.length / 10) b).map fun c => (fieldAt c 0 2, fieldAt c 2 8)

/-- The rest of the parameters fits the tail of the form. -/
def tailFits (t : FormTail) (v : List Nat) (b : List Byte) : Bool :=
  match t with
  | .none => b = []
  | .bytes lo hi => decide (lo ≤ b.length) && decide (b.length ≤ hi)
  | .list w lo hi => b.length % w = 0 && decide (lo ≤ b.length / w) && decide (b.length / w ≤ hi)
  | .counted i w => decide (b.length = w * v.getD i 0)
  | .pairs k => b.length % 10 = 0 && decide (b.length / 10 ≤ k)

/-- Forms of range 0x00xx (R361). -/
def deviceForms : List CmdForm :=
  [ ⟨0x0000, [], .none, fun m _ _ => .devIdentify m⟩
  , ⟨0x0001, [], .none, fun m _ _ => .devHealth m⟩
  , ⟨0x0002, [4, 1, 1, 4], .none, fun m v _ => .heatBind m (v.getD 0 0) (v.getD 1 0) (v.getD 2 0) (v.getD 3 0)⟩
  , ⟨0x0003, [4], .none, fun m v _ => .heatUnbind m (v.getD 0 0)⟩
  , ⟨0x0004, [2], .none, fun m v _ => .heatList m (v.getD 0 0)⟩
  , ⟨0x0008, [4], .none, fun m v _ => .devResetWarm m (v.getD 0 0)⟩
  , ⟨0x0009, [1, 1], .none, fun m v _ => .devResetDomain m (v.getD 0 0) (v.getD 1 0)⟩
  , ⟨0x0010, [4, 1], .none, fun m v _ => .csrRead m (v.getD 0 0) (v.getD 1 0)⟩
  , ⟨0x0011, [4, 1], .counted 1 4, fun m v b => .csrWrite m (v.getD 0 0) (v.getD 1 0) (numbers 4 b)⟩
  , ⟨0x0012, [4], .none, fun m v _ => .devBlockState m (v.getD 0 0)⟩
  , ⟨0x0020, [], .none, fun m _ _ => .fwStatus m⟩
  , ⟨0x0021, [1, 4], .bytes 1 2048, fun m v b => .fwWrite m (v.getD 0 0) (v.getD 1 0) b⟩
  , ⟨0x0022, [1], .none, fun m v _ => .fwVerify m (v.getD 0 0)⟩
  , ⟨0x0023, [1], .none, fun m v _ => .fwSwitch m (v.getD 0 0)⟩
  , ⟨0x0030, [], .bytes 0 2560, fun m _ b => .devEcho m b⟩ ]

/-- Forms of range 0x01xx (R230). -/
def linkForms : List CmdForm :=
  [ ⟨0x0100, [1], .none, fun m v _ => .linkStatus m (v.getD 0 0)⟩
  , ⟨0x0101, [1, 1, 1, 2, 1, 1], .none, fun m v _ => .linkConfig m (v.getD 0 0) (v.getD 1 0) (v.getD 2 0) (v.getD 3 0) (v.getD 4 0) (v.getD 5 0)⟩
  , ⟨0x0102, [1], .none, fun m v _ => .linkRetrain m (v.getD 0 0)⟩
  , ⟨0x0103, [1, 1], .none, fun m v _ => .linkDown m (v.getD 0 0) (v.getD 1 0)⟩
  , ⟨0x0104, [1, 1], .none, fun m v _ => .linkLaneSwap m (v.getD 0 0) (v.getD 1 0)⟩
  , ⟨0x0105, [1, 1, 1], .none, fun m v _ => .linkEqRead m (v.getD 0 0) (v.getD 1 0) (v.getD 2 0)⟩
  , ⟨0x0106, [1, 1, 1, 8], .none, fun m v _ => .linkEqSet m (v.getD 0 0) (v.getD 1 0) (v.getD 2 0) (v.getD 3 0)⟩
  , ⟨0x0107, [1], .none, fun m v _ => .linkNeighbour m (v.getD 0 0)⟩
  , ⟨0x0110, [1], .none, fun m v _ => .linkStats m (v.getD 0 0)⟩ ]

/-- Forms of range 0x02xx (R288). -/
def routeForms : List CmdForm :=
  [ ⟨0x0200, [], .none, fun m _ _ => .routeStatus m⟩
  , ⟨0x0201, [1], .none, fun m v _ => .routeLinkClose m (v.getD 0 0)⟩
  , ⟨0x0202, [1], .none, fun m v _ => .routeLinkOpen m (v.getD 0 0)⟩
  , ⟨0x0203, [2, 2, 2], .none, fun m v _ => .routeParamSet m (v.getD 0 0) (v.getD 1 0) (v.getD 2 0)⟩
  , ⟨0x0204, [1], .none, fun m v _ => .routeSpread m (v.getD 0 0)⟩
  , ⟨0x0205, [1], .none, fun m v _ => .routeTest m (v.getD 0 0)⟩
  , ⟨0x0206, [4, 4], .none, fun m v _ => .routeReserve m (v.getD 0 0) (v.getD 1 0)⟩
  , ⟨0x0210, [1, 1, 4], .none, fun m v _ => .routeCreditSet m (v.getD 0 0) (v.getD 1 0) (v.getD 2 0)⟩
  , ⟨0x0220, [2, 4], .none, fun m v _ => .routeTreeRead m (v.getD 0 0) (v.getD 1 0)⟩
  , ⟨0x0221, [4], .none, fun m v _ => .routeFenceList m (v.getD 0 0)⟩
  , ⟨0x0230, [], .none, fun m _ _ => .routeStats m⟩ ]

/-- Forms of range 0x03xx (R309). -/
def tundishForms : List CmdForm :=
  [ ⟨0x0300, [1], .none, fun m v _ => .tundishStatus m (v.getD 0 0)⟩
  , ⟨0x0301, [1, 1, 4, 4, 4], .none, fun m v _ => .tundishThreshSet m (v.getD 0 0) (v.getD 1 0) (v.getD 2 0) (v.getD 3 0) (v.getD 4 0)⟩
  , ⟨0x0302, [1, 4, 4, 4, 4], .none, fun m v _ => .tundishPoolSet m (v.getD 0 0) (v.getD 1 0) (v.getD 2 0) (v.getD 3 0) (v.getD 4 0)⟩
  , ⟨0x0303, [1, 1], .none, fun m v _ => .tundishBankSwap m (v.getD 0 0) (v.getD 1 0)⟩
  , ⟨0x0310, [1, 1, 4], .none, fun m v _ => .queueAlloc m (v.getD 0 0) (v.getD 1 0) (v.getD 2 0)⟩
  , ⟨0x0311, [4], .none, fun m v _ => .queueFree m (v.getD 0 0)⟩
  , ⟨0x0312, [4], .none, fun m v _ => .queueQuery m (v.getD 0 0)⟩
  , ⟨0x0320, [], .none, fun m _ _ => .tundishStats m⟩ ]

/-- Forms of range 0x04xx (R327). -/
def schedForms : List CmdForm :=
  [ ⟨0x0400, [1], .none, fun m v _ => .schedStatus m (v.getD 0 0)⟩
  , ⟨0x0401, [1, 1, 1], .none, fun m v _ => .schedClassWeight m (v.getD 0 0) (v.getD 1 0) (v.getD 2 0)⟩
  , ⟨0x0402, [4, 1], .none, fun m v _ => .schedQueueWeight m (v.getD 0 0) (v.getD 1 0)⟩
  , ⟨0x0410, [1, 2], .list 8 1 128, fun m v b => .schedWinWrite m (v.getD 0 0) (v.getD 1 0) (numbers 8 b)⟩
  , ⟨0x0411, [1, 2, 4, 1, 2, 8], .none, fun m v _ => .schedWinCommit m (v.getD 0 0) (v.getD 1 0) (v.getD 2 0) (v.getD 3 0) (v.getD 4 0) (v.getD 5 0)⟩
  , ⟨0x0412, [1, 8], .none, fun m v _ => .schedWinOff m (v.getD 0 0) (v.getD 1 0)⟩
  , ⟨0x0413, [1, 1, 2], .none, fun m v _ => .schedWinRead m (v.getD 0 0) (v.getD 1 0) (v.getD 2 0)⟩
  , ⟨0x0420, [1, 1, 4, 1, 2, 4], .none, fun m v _ => .policerSet m (v.getD 0 0) (v.getD 1 0) (v.getD 2 0) (v.getD 3 0) (v.getD 4 0) (v.getD 5 0)⟩
  , ⟨0x0421, [1, 1, 4, 1], .none, fun m v _ => .policerRead m (v.getD 0 0) (v.getD 1 0) (v.getD 2 0) (v.getD 3 0)⟩
  , ⟨0x0430, [4, 1], .none, fun m v _ => .schedSample m (v.getD 0 0) (v.getD 1 0)⟩
  , ⟨0x0431, [4, 1], .none, fun m v _ => .schedHistRead m (v.getD 0 0) (v.getD 1 0)⟩
  , ⟨0x0432, [1], .none, fun m v _ => .schedSampleRate m (v.getD 0 0)⟩
  , ⟨0x0440, [1], .none, fun m v _ => .schedStats m (v.getD 0 0)⟩ ]

/-- Forms of range 0x05xx (R185). -/
def memForms : List CmdForm :=
  [ ⟨0x0500, [4, 1, 4, 1, 1, 2, 2, 4, 2], .none, fun m v _ => .allocPages m (v.getD 0 0) (v.getD 1 0) (v.getD 2 0) (v.getD 3 0) (v.getD 4 0) (v.getD 5 0) (v.getD 6 0) (v.getD 7 0) (v.getD 8 0)⟩
  , ⟨0x0501, [8, 4, 4], .none, fun m v _ => .freePages m (v.getD 0 0) (v.getD 1 0) (v.getD 2 0)⟩
  , ⟨0x0502, [4], .none, fun m v _ => .memHeatFree m (v.getD 0 0)⟩
  , ⟨0x0503, [8], .none, fun m v _ => .memPageQuery m (v.getD 0 0)⟩
  , ⟨0x0504, [8, 4, 1, 1, 4, 4], .none, fun m v _ => .memPageSet m (v.getD 0 0) (v.getD 1 0) (v.getD 2 0) (v.getD 3 0) (v.getD 4 0) (v.getD 5 0)⟩
  , ⟨0x0505, [8, 4], .none, fun m v _ => .memPageClearLost m (v.getD 0 0) (v.getD 1 0)⟩
  , ⟨0x0506, [8, 2], .none, fun m v _ => .memMigrate m (v.getD 0 0) (v.getD 1 0)⟩
  , ⟨0x0507, [8, 2], .none, fun m v _ => .memMirrorSet m (v.getD 0 0) (v.getD 1 0)⟩
  , ⟨0x0510, [1, 1, 1, 1], .none, fun m v _ => .memArbSet m (v.getD 0 0) (v.getD 1 0) (v.getD 2 0) (v.getD 3 0)⟩
  , ⟨0x0511, [1], .none, fun m v _ => .memMigrateCtrl m (v.getD 0 0)⟩
  , ⟨0x0520, [], .none, fun m _ _ => .memStats m⟩
  , ⟨0x0521, [], .none, fun m _ _ => .memCacheFlush m⟩ ]

/-- Forms of range 0x06xx (R92). -/
def pourForms : List CmdForm :=
  [ ⟨0x0600, [], .bytes 0 2560, fun m _ b => .pourRegister m b⟩
  , ⟨0x0601, [4, 4], .none, fun m v _ => .pourAbort m (v.getD 0 0) (v.getD 1 0)⟩
  , ⟨0x0602, [4, 4], .none, fun m v _ => .pourQuery m (v.getD 0 0) (v.getD 1 0)⟩
  , ⟨0x0603, [4, 4, 1], .none, fun m v _ => .pourFenceMap m (v.getD 0 0) (v.getD 1 0) (v.getD 2 0)⟩
  , ⟨0x0610, [2, 2], .none, fun m v _ => .msetBegin m (v.getD 0 0) (v.getD 1 0)⟩
  , ⟨0x0611, [2, 2], .list 4 1 600, fun m v b => .msetWrite m (v.getD 0 0) (v.getD 1 0) (numbers 4 b)⟩
  , ⟨0x0612, [2, 1], .none, fun m v _ => .msetSeal m (v.getD 0 0) (v.getD 1 0)⟩
  , ⟨0x0613, [2], .none, fun m v _ => .msetFree m (v.getD 0 0)⟩
  , ⟨0x0614, [2, 2], .none, fun m v _ => .msetRead m (v.getD 0 0) (v.getD 1 0)⟩
  , ⟨0x0620, [1, 1], .none, fun m v _ => .pourClassSet m (v.getD 0 0) (v.getD 1 0)⟩
  , ⟨0x0621, [4], .none, fun m v _ => .pourSpillReserve m (v.getD 0 0)⟩
  , ⟨0x0630, [], .none, fun m _ _ => .pourStats m⟩ ]

/-- Forms of range 0x07xx (R128). -/
def layerForms : List CmdForm :=
  [ ⟨0x0700, [4, 1, 2, 2], .none, fun m v _ => .layerSegBegin m (v.getD 0 0) (v.getD 1 0) (v.getD 2 0) (v.getD 3 0)⟩
  , ⟨0x0701, [1, 2], .list 32 1 60, fun m v b => .layerTensorWrite m (v.getD 0 0) (v.getD 1 0) (numbers 32 b)⟩
  , ⟨0x0702, [1, 2], .list 32 1 60, fun m v b => .layerDescWrite m (v.getD 0 0) (v.getD 1 0) (numbers 32 b)⟩
  , ⟨0x0703, [1], .none, fun m v _ => .layerSegSeal m (v.getD 0 0)⟩
  , ⟨0x0704, [1, 1, 4], .none, fun m v _ => .layerSegPlace m (v.getD 0 0) (v.getD 1 0) (v.getD 2 0)⟩
  , ⟨0x0705, [1], .none, fun m v _ => .layerSegRemove m (v.getD 0 0)⟩
  , ⟨0x0706, [4, 1, 1, 4, 4, 4, 2, 2, 4], .pairs 8, fun m v b => .layerRun m (v.getD 0 0) (v.getD 1 0) (v.getD 2 0) (v.getD 3 0) (v.getD 4 0) (v.getD 5 0) (v.getD 6 0) (v.getD 7 0) (v.getD 8 0) (numberPairs b)⟩
  , ⟨0x0707, [4, 1], .none, fun m v _ => .layerAbort m (v.getD 0 0) (v.getD 1 0)⟩
  , ⟨0x0708, [1], .none, fun m v _ => .layerQuery m (v.getD 0 0)⟩
  , ⟨0x0709, [1, 4], .none, fun m v _ => .layerSavedRelease m (v.getD 0 0) (v.getD 1 0)⟩
  , ⟨0x070A, [], .none, fun m _ _ => .layerStats m⟩ ]

/-- Forms of range 0x08xx (R149). -/
def updateForms : List CmdForm :=
  [ ⟨0x0800, [2], .bytes 32 32, fun m v b => .updRuleSet m (v.getD 0 0) b⟩
  , ⟨0x0801, [2], .none, fun m v _ => .updRuleRead m (v.getD 0 0)⟩
  , ⟨0x0810, [4, 8, 8, 1, 1, 4], .none, fun m v _ => .updStateDefine m (v.getD 0 0) (v.getD 1 0) (v.getD 2 0) (v.getD 3 0) (v.getD 4 0) (v.getD 5 0)⟩
  , ⟨0x0811, [8, 1, 8, 8, 8, 1, 8], .none, fun m v _ => .updStateMask m (v.getD 0 0) (v.getD 1 0) (v.getD 2 0) (v.getD 3 0) (v.getD 4 0) (v.getD 5 0) (v.getD 6 0)⟩
  , ⟨0x0812, [8], .none, fun m v _ => .updStateQuery m (v.getD 0 0)⟩
  , ⟨0x0813, [8], .none, fun m v _ => .updStateRevert m (v.getD 0 0)⟩
  , ⟨0x0814, [8], .none, fun m v _ => .updStateFree m (v.getD 0 0)⟩
  , ⟨0x0820, [4, 8, 8, 2, 1, 1, 4, 2], .none, fun m v _ => .embTableDefine m (v.getD 0 0) (v.getD 1 0) (v.getD 2 0) (v.getD 3 0) (v.getD 4 0) (v.getD 5 0) (v.getD 6 0) (v.getD 7 0)⟩
  , ⟨0x0821, [8], .none, fun m v _ => .embTableQuery m (v.getD 0 0)⟩
  , ⟨0x0822, [8], .none, fun m v _ => .embTableFree m (v.getD 0 0)⟩
  , ⟨0x0830, [], .none, fun m _ _ => .updStats m⟩ ]

/-- Forms of range 0x09xx (R407). -/
def powerForms : List CmdForm :=
  [ ⟨0x0900, [], .none, fun m _ _ => .clkStatus m⟩
  , ⟨0x0901, [1], .none, fun m v _ => .clkAclkSwap m (v.getD 0 0)⟩
  , ⟨0x0902, [1, 4], .none, fun m v _ => .clkobsSet m (v.getD 0 0) (v.getD 1 0)⟩
  , ⟨0x0903, [1, 1], .none, fun m v _ => .clkTrim m (v.getD 0 0) (v.getD 1 0)⟩
  , ⟨0x0904, [1, 8, 8], .none, fun m v _ => .timeSet m (v.getD 0 0) (v.getD 1 0) (v.getD 2 0)⟩
  , ⟨0x0905, [1], .none, fun m v _ => .clkMonRead m (v.getD 0 0)⟩
  , ⟨0x0906, [], .none, fun m _ _ => .clkPlan m⟩
  , ⟨0x0910, [], .none, fun m _ _ => .pwrStatus m⟩
  , ⟨0x0911, [], .bytes 16 16, fun m _ b => .pwrProfileSet m b⟩
  , ⟨0x0912, [], .none, fun m _ _ => .pwrProfileRead m⟩
  , ⟨0x0913, [], .none, fun m _ _ => .pwrStats m⟩ ]

/-- Forms of range 0x0Axx (R427). -/
def relForms : List CmdForm :=
  [ ⟨0x0A00, [], .none, fun m _ _ => .relStatus m⟩
  , ⟨0x0A01, [1, 1, 1, 1, 1], .none, fun m v _ => .riserPolicy m (v.getD 0 0) (v.getD 1 0) (v.getD 2 0) (v.getD 3 0) (v.getD 4 0)⟩
  , ⟨0x0A02, [1, 1], .none, fun m v _ => .riserFlaskSwap m (v.getD 0 0) (v.getD 1 0)⟩
  , ⟨0x0A03, [4], .none, fun m v _ => .frameRetire m (v.getD 0 0)⟩
  , ⟨0x0A04, [1], .none, fun m v _ => .stackFail m (v.getD 0 0)⟩
  , ⟨0x0A05, [1], .none, fun m v _ => .agingRead m (v.getD 0 0)⟩
  , ⟨0x0A06, [2], .none, fun m v _ => .riserHistoryRead m (v.getD 0 0)⟩
  , ⟨0x0A10, [], .none, fun m _ _ => .shakeoutStatus m⟩
  , ⟨0x0A11, [4, 1, 16, 1], .none, fun m v _ => .shakeoutRead m (v.getD 0 0) (v.getD 1 0) (leBytes 16 (v.getD 2 0)) (v.getD 3 0)⟩
  , ⟨0x0A12, [4], .none, fun m v _ => .shakeoutUnfreeze m (v.getD 0 0)⟩
  , ⟨0x0A20, [4, 1, 1], .none, fun m v _ => .faultSubscribe m (v.getD 0 0) (v.getD 1 0) (v.getD 2 0)⟩
  , ⟨0x0A21, [4], .none, fun m v _ => .faultUnsubscribe m (v.getD 0 0)⟩
  , ⟨0x0A30, [], .none, fun m _ _ => .relStats m⟩ ]

/-- Forms of range 0x0Bxx (R441). -/
def secForms : List CmdForm :=
  [ ⟨0x0B00, [], .none, fun m _ _ => .secStatus m⟩
  , ⟨0x0B01, [], .bytes 32 32, fun m _ b => .secAttest m b⟩
  , ⟨0x0B02, [], .none, fun m _ _ => .secIdentityRead m⟩
  , ⟨0x0B03, [1], .none, fun m v _ => .secRollbackCommit m (v.getD 0 0)⟩
  , ⟨0x0B04, [], .none, fun m _ _ => .secRootRead m⟩
  , ⟨0x0B10, [], .none, fun m _ _ => .secStats m⟩ ]

/-- Forms of range 0x0Cxx (R458). -/
def assayForms : List CmdForm :=
  [ ⟨0x0C00, [], .none, fun m _ _ => .assayStatus m⟩
  , ⟨0x0C01, [1], .none, fun m v _ => .assayRead m (v.getD 0 0)⟩
  , ⟨0x0C02, [4], .none, fun m v _ => .assayAttrib m (v.getD 0 0)⟩
  , ⟨0x0C03, [2], .none, fun m v _ => .assayAttribList m (v.getD 0 0)⟩ ]

/-- Forms of range 0x0Dxx (R350). -/
def detForms : List CmdForm :=
  [ ⟨0x0D00, [4], .none, fun m v _ => .detStatus m (v.getD 0 0)⟩
  , ⟨0x0D01, [4, 4, 1], .none, fun m v _ => .detRecordOpen m (v.getD 0 0) (v.getD 1 0) (v.getD 2 0)⟩
  , ⟨0x0D02, [4, 1, 8, 8], .none, fun m v _ => .detDigestRange m (v.getD 0 0) (v.getD 1 0) (v.getD 2 0) (v.getD 3 0)⟩
  , ⟨0x0D03, [4, 1, 1], .none, fun m v _ => .detRecordClose m (v.getD 0 0) (v.getD 1 0) (v.getD 2 0)⟩
  , ⟨0x0D04, [4], .none, fun m v _ => .detRecordRead m (v.getD 0 0)⟩
  , ⟨0x0D10, [4, 4], .none, fun m v _ => .detStepSet m (v.getD 0 0) (v.getD 1 0)⟩
  , ⟨0x0D20, [4, 4, 8, 2, 1], .none, fun m v _ => .saveHeat m (v.getD 0 0) (v.getD 1 0) (v.getD 2 0) (v.getD 3 0) (v.getD 4 0)⟩
  , ⟨0x0D21, [4, 8, 8], .bytes 64 64, fun m v b => .resumeHeat m (v.getD 0 0) (v.getD 1 0) (v.getD 2 0) b⟩ ]

/-- Every parameter form. -/
def cmdForms : List CmdForm :=
  deviceForms ++ linkForms ++ routeForms ++ tundishForms ++ schedForms ++ memForms ++ pourForms
  ++ layerForms ++ updateForms ++ powerForms ++ relForms ++ secForms ++ assayForms ++ detForms

/-- What the parameter bytes of an opcode spell. -/
inductive Parsed where
  | badOpcode
  | badLength
  | ok (i : Instr)
  deriving DecidableEq, Repr

/-- Read parameters by a form. -/
def parseForm (f : CmdForm) (m : CmdMeta) (b : List Byte) : Parsed :=
  match takeFront f.widths b with
  | some (v, t) => if tailFits f.tail v t then .ok (f.build m v t) else .badLength
  | none => .badLength

/-- Read the parameters of an opcode (R356 checks 2 and 3). -/
def parseCommand (m : CmdMeta) (op : Nat) (b : List Byte) : Parsed :=
  match cmdForms.find? (fun f => f.op = op) with
  | none => .badOpcode
  | some f => parseForm f m b

end Sys2Proof.Machine
end

