-- ==== Sys2Proof/Machine/Reliab.lean ====
section
/-! DEFINITION. Reliability: Riser swaps, scrubbing, aging, the Shakeout record and fault notices, with the commands of range
0x0Axx (chapter 16). -/
namespace Sys2Proof.Machine

/-- The next boundary of a periodic duty; now, where it falls on one. -/
def toBoundary (period : Nat) (s : State) : State := advance ((period - s.time.now % period) % period) s

/-- Automatic swap is on for a kind: 0 Flask, 1 lane, 2 frame, 3 bank, 4 PLL (R409, R425). -/
def autoOn (kind : Nat) (s : State) : Bool := (reg .reAuto 0 s).testBit kind

/-- A kind has no Riser left (R410). -/
def logExhausted (kind unit blk inst : Nat) (s : State) : State :=
  logEvent 0x0A03 sevW blk inst (packFields [(1, kind), (4, unit)]) s

/-! ### Riser Flasks (R411 to R413) -/

/-- The CSR block of a Bay's window, as the Shakeout record names it. -/
def bayBlock (b : Nat) : Nat := 0xE0 + b / 25

/-- A Riser Flask is promised to a swap in progress. -/
def riserTaken (b k : Nat) (s : State) : Bool := s.rel.proposals.any fun j => j.unit / 100 = b && j.riser = k

/-- The lowest free Riser Flask of a Bay. -/
def freeRiserFlask (b : Nat) (s : State) : Option Nat :=
  (List.range 4).find? fun k =>
    let r := riserFlask (4 * b + k) s
    r.logical = 0x7F && !r.failed && !riserTaken b k s

/-- A swap in a Bay is in progress. -/
def flaskSwapping (b : Nat) (s : State) : Bool := s.rel.proposals.any fun j => j.unit / 100 = b

/-- A Bay is on its way from one Shop to another (R20). -/
def bayMoving (b : Nat) (s : State) : Bool := (tabGet {} s.layer.bays b).transfer.isSome

/-- The Riser map gives a logical Flask to a Riser; a Riser that served it before has failed. -/
def mapRiser (b f k : Nat) (s : State) : State :=
  let t := (List.range 4).foldl (fun t j =>
    if (tabGet {} t (4 * b + j)).logical = f then tabSet {} t (4 * b + j) { logical := 0x7F, failed := true } else t) s.rel.risers
  { s with rel := { s.rel with risers := tabSet {} t (4 * b + k) { logical := f, failed := false } } }

/-- The swap is logged and recorded (step 5): the map changes, and the Flask's errors start anew. -/
def swapFlask (b f k : Nat) (s : State) : State :=
  let old := flaskPos b f s
  let s := mapRiser b f k s
  let s := { s with rel := { s.rel with flaskErrs := s.rel.flaskErrs.filter (·.1 ≠ 100 * b + f) } }
  let s := logEvent 0x0A02 sevI (bayBlock b) b (packFields [(1, 0), (4, 100 * b + f), (2, old), (2, 100 + k)]) s
  markFlag detRiser (incReg .reSwapCnt 0 (addHistory 0 (100 * b + f) old (100 + k) s))

/-- The Flask trigger of R409, with its value: the aging margin while the monitors run (R386), else the
corrected errors of the last hour. -/
def flaskTrigger (b f : Nat) (s : State) : Option Nat :=
  let n := errsSince s.rel.flaskErrs (100 * b + f) spanFlask s.time.now
  let margin := if (reg .ckClkEn 0 s).testBit 1 then tabFind s.rel.margins (b * 104 + flaskPos b f s) else none
  match margin with
  | some x => if x < reg .reAgeMinPs 0 s then some x else if n > reg .reFlaskCorrLimit 0 s then some n else none
  | none => if n > reg .reFlaskCorrLimit 0 s then some n else none

/-- The owning Shop accepts a swap (step 1). -/
def acceptFlaskSwap (unit k : Nat) (c : Option CmdRef) (s : State) : State :=
  let j : Proposal := { unit := unit, riser := k, since := s.time.now, cmd := c }
  { s with rel := { s.rel with proposals := s.rel.proposals ++ [j],
                               lapsed := s.rel.lapsed.filter fun x => x.unit ≠ unit } }

/-- The Flask proposal of a trigger evaluation. A lapsed swap is proposed again after 1 s (R411). -/
def proposeFlask (b f : Nat) (s : State) : State :=
  let unit := 100 * b + f
  if s.rel.degraded.contains b || bayMoving b s || flaskSwapping b s then s
  else match s.rel.lapsed.find? (fun x => x.unit = unit) with
    | some x =>
      if s.time.now < x.since + 1000000000 then s
      else match freeRiserFlask b s with
        | none => finishOpt x.cmd stNoResource [] (logExhausted 0 unit (bayBlock b) b
            { s with rel := { s.rel with lapsed := s.rel.lapsed.filter fun x => x.unit ≠ unit } })
        | some k => acceptFlaskSwap unit k x.cmd (incReg .reProposalCnt 0 (logTrigger 0 unit 0 (bayBlock b) b s))
    | none => match flaskTrigger b f s with
      | none => s
      | some v => match freeRiserFlask b s with
        | none => logExhausted 0 unit (bayBlock b) b s
        | some k =>
          let s := logTrigger 0 unit v (bayBlock b) b s
          if autoOn 0 s then acceptFlaskSwap unit k none (incReg .reProposalCnt 0 s) else s

/-- L's chunks have left ROUNDING and their RESULT packets have left the Bay (step 2). -/
def flaskClear (b f : Nat) (s : State) : Bool :=
  !(s.pour.pours.any fun p => p.chunks.any fun k =>
    k.2.bay = b && k.2.flask = f && decide (1 ≤ k.2.st) && decide (k.2.st ≤ 3))

/-- RISER_FLASK_COPIED: the copy and the Riser map (steps 3 to 5). -/
def execRiserFlaskCopied (bay flask : Nat) (s : State) : Out :=
  onUnit (decide (bay < 100) && decide (flask < 100)) s (
    match s.rel.proposals.find? (fun j => j.unit = 100 * bay + flask) with
    | none => s
    | some j =>
      if !flaskClear bay flask s then s
      else
        let s := { s with rel := { s.rel with proposals := s.rel.proposals.filter fun x => x.unit ≠ j.unit } }
        finishOpt j.cmd stDone [] (swapFlask bay flask j.riser s))

/-- RISER_PROPOSAL_LAPSE: step 2 exceeded 10 ms. Only the wait of a Flask has such a bound. The entry is another RISER_PROPOSED with
value 0: R420 has no code of its own for it. -/
def execRiserProposalLapse (kind unit : Nat) (s : State) : Out :=
  onUnit (decide (kind ≤ 4)) s (
    if kind ≠ 0 then s
    else match s.rel.proposals.find? (fun j => j.unit = unit) with
      | none => s
      | some j =>
        let s := advanceTo (j.since + 10000000) s
        let s := { s with rel := { s.rel with proposals := s.rel.proposals.filter fun x => x.unit ≠ unit,
                                              lapsed := s.rel.lapsed ++ [{ j with since := s.time.now }] } }
        logTrigger 0 unit 0 (bayBlock (unit / 100)) (unit / 100) s)

/-- Elements of a weight reloaded from its GFA: the share of the failed Flask takes the new values, and which elements it holds is
open (a free value for each). -/
def reloadShare (base t : Nat) (old new : List Nat) : List Nat :=
  (List.range new.length).map fun i => if Config.freePart base (t * 2 ^ 32 + i) % 2 = 1 then new.getD i 0 else old.getD i 0

/-- A Flask of a layer-held Bay fails (R119): the run ends, saved activations it held are discarded, and its share of the resident
weights is reloaded. Whether it held saved activations is open. -/
def failFlaskLayer (i : Nat) (s : State) : State :=
  match segOf i s with
  | none => s
  | some g =>
    let s := match g.running with | some rs => endRun i stInternalFault rcFlask rs.next s | none => s
    let held := g.saved ≠ [] && g.sram ≠ 0 && freeNat s % 2 = 1
    let base := s.freeCtr
    let new := loadWeights g s
    let s := useFree s
    modSeg i (fun g =>
      let g := { g with work := [], weights := g.weights.map fun e => (e.1, reloadShare base e.1 e.2 (tabGet e.2 new e.1)) }
      if held then { g with saved := [], savedTag := none, savedGfa := [] } else g) s

/-- Pours with a chunk on some Flasks of this device fail as for a home device lost (R412, R84). -/
def failFlaskPours (hit : Chunk → Bool) (s : State) : State :=
  let ps := s.pour.pours.filter fun p => p.endAt.isNone && p.chunks.any fun k =>
    hit k.2 && decide (1 ≤ k.2.st) && decide (k.2.st ≤ if p.committed then 4 else 3)
  ps.foldl (fun s p => failPour p.heat p.pourId stMemberFenced cHomeLost (ownEp 58 s) s) s

/-- The fifth Flask of a Bay must leave service (R413): the Bay is returned to the pour Shop and stays in B3. -/
def degradeBay (b : Nat) (s : State) : State :=
  let gone := s.rel.proposals.filter fun j => j.unit / 100 = b
  let seg := (tabGet {} s.layer.bays b).seg
  let s := failFlaskPours (fun k => k.bay = b) s
  let s := match seg with
    | some i => modSeg i (fun g => { g with bays := g.bays.filter (· ≠ b) }) s
    | none => s
  let s := { s with
    rel := { s.rel with degraded := s.rel.degraded ++ [b], proposals := s.rel.proposals.filter fun j => j.unit / 100 ≠ b,
                        lapsed := s.rel.lapsed.filter fun j => j.unit / 100 ≠ b }
    layer := { s.layer with bays := tabDel s.layer.bays b }
    power := { s.power with bayWake := tabDel s.power.bayWake b, bayIdle := tabDel s.power.bayIdle b,
                            wakeWait := s.power.wakeWait.filter (· ≠ b) } }
  let s := logEvent 0x0A04 sevW (bayBlock b) b [] (bankBay b 3 s)
  let s := match seg with | some i => settleRemove i s | none => s
  gone.foldl (fun s j => finishOpt j.cmd stBadState [] s) s

/-- The failed Flask's place is taken: by the lowest free Riser, its SRAM zeroed and nothing copied (R412); with none left the Bay
becomes degraded. -/
def replaceFlask (b f : Nat) (s : State) : State :=
  let unit := 100 * b + f
  let job := s.rel.proposals.find? fun j => j.unit = unit
  let s := { s with rel := { s.rel with proposals := s.rel.proposals.filter (fun j => j.unit ≠ unit),
                                        lapsed := s.rel.lapsed.filter fun j => j.unit ≠ unit } }
  match freeRiserFlask b s with
  | none => degradeBay b (logExhausted 0 unit (bayBlock b) b s)
  | some k =>
    let s := incReg .reProposalCnt 0 (logTrigger 0 unit 0 (bayBlock b) b s)
    let s := resetInst [.baOvf, .baNanOut, .baFlushIn, .baFlushOut] unit s
    finishOpt (job.bind (·.cmd)) stDone [] (swapFlask b f k s)

/-- FLASK_UNCORRECTABLE. -/
def execFlaskUncorrectable (bay flask : Nat) (s : State) : Out :=
  onUnit (decide (bay < 100) && decide (flask < 100)) s (
    if s.rel.degraded.contains bay then s
    else
      let s := incReg .reFlaskUncorrCnt 0 s
      let s := logEvent 0x0702 sevW (bayBlock bay) bay (packFields [(1, flask), (1, flaskPos bay flask s)]) s
      let s := match (tabGet {} s.layer.bays bay).seg with
        | some i => failFlaskLayer i s
        | none => failFlaskPours (fun k => k.bay = bay && k.flask = flask) s
      replaceFlask bay flask s)

/-- AGING_MONITOR_REPORT: once per second, the margin of each position; the monitors run while CLK_EN[1] is set and the Bay is
FIRED. -/
def execAgingMonitorReport (margins : List Nat) (s : State) : Out :=
  let s := toBoundary 1000000000 s
  .next (if !(reg .ckClkEn 0 s).testBit 1 then s
    else
      let ks := (List.range margins.length).filter fun i => decide (i < 10400) && decide (reg .pwBayState (i / 104) s = 0)
        && !s.rel.degraded.contains (i / 104)
      { s with rel := { s.rel with margins := ks.foldl (fun t i => tabPut t i (min 255 (margins.getD i 0))) s.rel.margins } })

/-! ### Frames (R152, R153, R176, R177, R179) -/

/-- A frame is allocated. -/
def frameAllocated (f : Nat) (s : State) : Bool :=
  match frameRec f s with
  | some r => (match r.use with
    | .home _ | .mirror _ | .spill | .segment _ => true
    | .stub _ _ _ | .reserved _ | .zeroing | .retired | .metadata => false)
  | none => false

/-- The page whose move a frame's retirement is; a frame of spilled or segment data moves under a number of its own. -/
def framePage (f : Nat) (s : State) : Nat :=
  match frameRec f s with
  | some r => (match r.use with | .home p | .mirror p => p | _ => 2 ^ 40 + f)
  | none => 2 ^ 40 + f

/-- The frame a retirement takes (R176). -/
def retireTarget (f : Nat) (s : State) : Option Nat := freeRiser (stackOf f) s

/-- Start a retirement: the book sets the page MOVING, here or on this home's word (step 1 of R175). -/
def startRetire (f new : Nat) (c : Option CmdRef) (s : State) : State :=
  let p := framePage f s
  let home := (frameRec f s).any fun r => r.use = .home p
  let owner := match frameRec f s with | some r => r.owner | none => 0
  let s := putFrame new { use := .reserved p, owner := owner } s
  let s := if !home then s
    else if servesBook (pageBook p) s then remap p (fun e => { e with state := pgMoving }) s
    else tellBook p .moving (entryAt p s) s
  { s with mem := { s.mem with moves := s.mem.moves ++
    [{ page := p, kind := .retire, target := ownDev s, old := f, new := new, frozen := false, since := s.time.now, cmd := c }] } }

/-- No frame is left for a retirement: the refusal is logged, and the page stays on its frame. -/
def logRetireRefused (f : Nat) (s : State) : State := logEvent 0x0503 sevW 0x50 0xFF (leBytes 4 f) s

/-- The frame trigger of R409 with its value, the corrected lines of the last 24 h. -/
def frameTrigger (f : Nat) (s : State) : Option Nat :=
  let n := errsSince s.rel.frameErrs f spanFrame s.time.now
  if n > reg .reFrameCorrLimit 0 s || s.rel.frameBad.contains f then some n else none

/-- The frame proposal of a trigger evaluation. A frame that holds no page has nothing to move. -/
def proposeFrame (f : Nat) (s : State) : State :=
  match frameTrigger f s with
  | none => s
  | some v =>
    if s.mem.moves.any (fun m => m.old = f) || pageBusy (framePage f s) s then s
    else
      let s := { s with rel := { s.rel with frameErrs := s.rel.frameErrs.filter (·.1 ≠ f),
                                            frameBad := s.rel.frameBad.filter (· ≠ f) } }
      match retireTarget f s with
      | none => logRetireRefused f (logExhausted 2 f 0x50 0xFF s)
      | some new =>
        let s := logTrigger 2 f v 0x50 0xFF s
        if !autoOn 2 s || !frameAllocated f s then s
        else startRetire f new none (incReg .reProposalCnt 0 s)

/-- HBM_SCRUB: the Fettler reads an allocated or Riser frame, `corrected` lines corrected and the uncorrectable ones given as (line,
channel). A pass ends when the rotation begins again. -/
def execHbmScrub (frame corrected : Nat) (uncorrected : List (Nat × Nat)) (s : State) : Out :=
  if frame ≥ frameTotal then .next s
  else .next (
    if onFailed frame s || !(frameAllocated frame s || decide (frame ≥ riserBase)) then s
    else
      let s := if frame < s.rel.scrubPos then incReg .reScrubPassCnt 0 s else s
      let s := noteLines frame corrected uncorrected { s with rel := { s.rel with scrubPos := frame + 1 } }
      if uncorrected = [] then s else frameUncorrectable frame s)

/-! ### Stacks (R181, R415) -/

/-- Declare a stack failed: logged with the channels that showed uncorrectable lines in the last 1 ms, and R181 follows. -/
def declareStack (st : Nat) (s : State) : State :=
  let chans := (s.rel.badLines.filter fun e => e.2.1 = st && decide (s.time.now < e.1 + 1000000)).foldl (fun v e => withBit v e.2.2) 0
  failStack st (logEvent 0x0504 sevW (0x51 + st) st (leBytes 2 chans) s)

/-- STACK_FAILURE_DETECTED. -/
def execStackFailureDetected (stack : Nat) (s : State) : Out :=
  onUnit (decide (stack < 12)) s (if s.mem.lostStacks.testBit stack then s else declareStack stack s)

/-! ### Other scrubs (R414) -/

/-- FLASK_SRAM_SCRUB: (100 × Bay + Flask, corrected errors) of the Flasks of FIRED and B1 Bays. -/
def execFlaskSramScrub (counts : List (Nat × Nat)) (s : State) : Out :=
  let s := toBoundary 1000000000 s
  .next ((counts.filter fun e => decide (e.1 < 10000) && decide (reg .pwBayState (e.1 / 100) s ≤ 1)).foldl (fun s e =>
    addReg .reFlaskCorrCnt 0 e.2 { s with rel := { s.rel with
      flaskErrs := noteErrs e.1 e.2 spanFlask s.time.now s.rel.flaskErrs } }) s)

/-- TUNDISH_SCRUB: (bank, errors) of a half, corrected and uncorrectable, counted toward R305. -/
def execTundishScrub (half' : Nat) (corrected uncorrected : List (Nat × Nat)) (s : State) : Out :=
  if half' ≥ 2 then .next s
  else
    let s := toBoundary 10000000000 s
    let cor := corrected.filter fun e => decide (e.1 < 32)
    let unc := uncorrected.filter fun e => decide (e.1 < 32) && e.2 ≠ 0
    let s := noteCorrected (sumNat (cor.map (·.2))) <| addReg .tuEccCorrCnt half' (sumNat (cor.map (·.2))) (addReg .tuEccUncorrCnt half' (sumNat (unc.map (·.2))) s)
    .next (modHalf half' (fun h => { h with
      bankErrs := cor.foldl (fun l e => noteErrs e.1 e.2 spanBank s.time.now l) h.bankErrs,
      bankBad := dedupNat (h.bankBad ++ unc.map (·.1)) }) s)

/-! ### Trigger evaluation (R409) -/

/-- The bank trigger: more than 64 corrected errors in 1 s, or an uncorrectable one (R305). With the Riser bank in use the bank is
mapped out. -/
def proposeBankOf (d b : Nat) (s : State) : State :=
  let h := half d s
  let n := errsSince h.bankErrs b spanBank s.time.now
  if ¬ (n > 64 ∨ h.bankBad.contains b) ∨ h.swap.isSome ∨ h.mapped.contains b then s
  else
    let used := flag .tuRiserUsed d s
    let s := if used then logExhausted 3 (100 * d + b) (0x30 + d) d s else logTrigger 3 (100 * d + b) n (0x30 + d) d s
    if !autoOn 3 s then s
    else proposeBank d b (if used then s else incReg .reProposalCnt 0 s)

/-- RISER_PROPOSAL: a unit is a Flask as 100 × Bay + Flask, a lane as 100 × link + lane, a frame, a bank as 100 × half + bank, or the
PLL. -/
def execRiserProposal (kind unit : Nat) (s : State) : Out := decided s <|
  let s := toBoundary 1000000 s
  if kind = 0 then onUnit (decide (unit < 10000)) s (proposeFlask (unit / 100) (unit % 100) s)
  else if kind = 1 then execCvThresholdSwapProposal (unit / 100) (unit % 100) s
  else if kind = 2 then onUnit (decide (unit < frameTotal)) s (proposeFrame unit s)
  else if kind = 3 then onUnit (decide (unit / 100 < 2) && decide (unit % 100 < 32)) s (proposeBankOf (unit / 100) (unit % 100) s)
  else if kind = 4 then execPllFaultProposal s
  else .next s

/-! ### The Shakeout record (R416 to R418) and fault notices (R422) -/

/-- The status a notice carries. -/
def noticeStatus (code sev : Nat) : Nat :=
  if code = 0x0401 then stDeadlineMissed
  else if code = 0x0501 ∨ code = 0x0504 then stDataLost
  else if code = 0x0203 then stMemberFenced
  else if code = 0x0103 then stCableMismatch
  else if sev = sevF then stInternalFault else stDone

/-- Port 56 can send: the data plane runs and a core is alive. -/
def port56Works (s : State) : Bool := s.power.state = .running && s.fore.activeAlive

/-- FAULT_NOTICE to one subscriber, at most 1,000 in a second. -/
def notify (e : ShEntry) (x : Subscriber) (s : State) : State :=
  if e.sev < x.sev ∨ ¬ port56Works s then s
  else
    let x := if s.time.now ≥ x.secAt + 1000000000 then { x with secAt := s.time.now, sent := 0 } else x
    if x.sent ≥ 1000 then incReg .reNoticeDropCnt 0 s
    else
      let x := { x with sent := x.sent + 1 }
      let s := { s with rel := { s.rel with subs := s.rel.subs.map fun y => if y.endpoint = x.endpoint then x else y } }
      let p : Packet := { typ := tyMgmt, last := true, dst := x.endpoint, src := ownEp 56 s, cls := x.cls, addr := e.seq,
                          args := noticeStatus e.code e.sev, payload := entryBytes e }
      sendFrom p [x.endpoint] .plain s

/-- An entry is written; a fatal one freezes the record and asserts FAULT_N. -/
def writeEntry (e : ShEntry) (s : State) : State :=
  let seq := reg .shNextSeq 0 s
  let e := { e with seq := seq }
  let l := if s.rel.entries.length ≥ 8192 then s.rel.entries.drop 1 else s.rel.entries
  let s := setReg .shNextSeq 0 ((seq + 1) % 2 ^ 32) { s with rel := { s.rel with entries := l ++ [e] } }
  let s := if e.sev = sevF then
      assertFault (setReg .shFreezeCode 0 e.code (setReg .shFreezeSeq 0 seq (setReg .shFrozen 0 1 s)))
    else s
  s.rel.subs.foldl (fun s x => notify e x s) s

/-- SHAKEOUT_WRITE: one event per 10 ns; while the record is frozen it is counted lost. -/
def execShakeoutWrite (s : State) : Out :=
  .next (match s.rel.writer with
    | [] => s
    | e :: r =>
      let s := advance 10 { s with rel := { s.rel with writer := r } }
      if flag .shFrozen 0 s then incReg .shLostCnt 0 s else writeEntry e s)

/-! ### Commands of range 0x0Axx (R427) -/

/-- Risers left, in the order of R408: Flasks, lanes, frames, banks, PLL1, the standby core. -/
def riserCounts (s : State) : List Byte :=
  let lanes := sumNat ((List.range 52).map fun l =>
    b2n (reg .lkRxSwap l s = noSwap && !flag .lkSpDown l s) + b2n (reg .lkTxSwap l s = noSwap))
  let banks := sumNat ((List.range 2).map fun d => b2n (!flag .tuRiserUsed d s))
  packFields [(2, riserFlasksFree s), (1, lanes), (2, riserFree s), (1, banks), (1, b2n (reg .ckAclkSrc 0 s = 1)),
    (1, reg .foreStandbyReady 0 s)]

/-- REL_STATUS. -/
def execRelStatus (m : CmdMeta) (s : State) : Out :=
  command m 0x0A00 (fun c s => answer c stDone (riserCounts s
    ++ packFields [(1, s.rel.degraded.length), (1, reg .shFrozen 0 s), (1, s.rel.subs.length)]) s) s

/-- RISER_POLICY. -/
def execRiserPolicy (m : CmdMeta) (auto ageMin flaskLimit frameLimit scrubH : Nat) (s : State) : Out :=
  command m 0x0A01 (fun c s =>
    requires (decide (auto < 32) && decide (1 ≤ ageMin) && decide (ageMin ≤ 255) && decide (flaskLimit ≤ 255)
      && decide (frameLimit ≤ 255) && decide (1 ≤ scrubH) && decide (scrubH ≤ 12)) c stBadParam (fun s =>
        done c (setReg .reAuto 0 auto (setReg .reAgeMinPs 0 ageMin (setReg .reFlaskCorrLimit 0 flaskLimit
          (setReg .reFrameCorrLimit 0 frameLimit (setReg .reHbmScrubH 0 scrubH s)))))) s) s

/-- RISER_FLASK_SWAP. -/
def execRiserFlaskSwap (m : CmdMeta) (bay flask : Nat) (s : State) : Out :=
  command m 0x0A02 (fun c s =>
    if bay ≥ 100 ∨ flask ≥ 100 then refuse c stBadParam s
    else if s.rel.degraded.contains bay || bayMoving bay s || flaskSwapping bay s then refuse c stBadState s
    else match freeRiserFlask bay s with
      | none => refuse c stNoResource s
      | some k => accept c (acceptFlaskSwap (100 * bay + flask) k (some c)) s) s

/-- FRAME_RETIRE. -/
def execFrameRetire (m : CmdMeta) (frame : Nat) (s : State) : Out :=
  command m 0x0A03 (fun c s =>
    if frame ≥ frameTotal then refuse c stBadParam s
    else if !frameAllocated frame s || s.mem.moves.any (fun x => x.old = frame) || pageBusy (framePage frame s) s then
      refuse c stBadState s
    else match retireTarget frame s with
      | none => refuse c stNoResource (logRetireRefused frame s)
      | some new => accept c (startRetire frame new (some c)) s) s

/-- STACK_FAIL. -/
def execStackFail (m : CmdMeta) (stack : Nat) (s : State) : Out :=
  command m 0x0A04 (fun c s =>
    if stack > 11 then refuse c stBadParam s
    else if s.mem.lostStacks.testBit stack then refuse c stBadState s
    else accept c (fun s => finish c stDone [] (declareStack stack s)) s) s

/-- AGING_READ: 104 margins by physical position; 0 for one that never reported. -/
def execAgingRead (m : CmdMeta) (bay : Nat) (s : State) : Out :=
  command m 0x0A05 (fun c s =>
    if bay ≥ 100 then refuse c stBadParam s
    else if !(reg .ckClkEn 0 s).testBit 1 then refuse c stBadState s
    else answer c stDone ((List.range 104).flatMap fun i => leBytes 1 (tabGet 0 s.rel.margins (bay * 104 + i))) s) s

/-- RISER_HISTORY_READ. -/
def execRiserHistoryRead (m : CmdMeta) (first : Nat) (s : State) : Out :=
  command m 0x0A06 (fun c s =>
    requires (decide (first < 65536)) c stBadParam (fun s =>
      answer c stDone ((s.rel.history.drop first).take 64).flatten s) s) s

/-- SHAKEOUT_STATUS. -/
def execShakeoutStatus (m : CmdMeta) (s : State) : Out :=
  command m 0x0A10 (fun c s => answer c stDone (readWords 0xA1000000 5 s) s) s

/-- The entries a read returns: from the first number asked for, or from the oldest held (R419). -/
def entriesFrom (first count : Nat) (s : State) : List ShEntry :=
  (s.rel.entries.filter fun e => decide (subMod e.seq first (2 ^ 32) < 2 ^ 31)).take count

/-- The 48-byte header and the entries. -/
def shakeoutBody (first count : Nat) (nonce : List Byte) (s : State) : List Byte :=
  let l := entriesFrom first count s
  let start := match l with | e :: _ => e.seq | [] => first
  leBytes 8 Config.serial.toNat ++ padTo 16 nonce
    ++ packFields [(4, start), (1, l.length), (1, reg .shFrozen 0 s), (4, reg .shNextSeq 0 s), (4, reg .shLostCnt 0 s)]
    ++ leBytes 10 0 ++ l.flatMap entryBytes

/-- SHAKEOUT_READ. -/
def execShakeoutRead (m : CmdMeta) (first count : Nat) (nonce : List Byte) (sign : Nat) (s : State) : Out :=
  command m 0x0A11 (fun c s =>
    if count = 0 ∨ count > 64 ∨ sign > 1 ∨ first ≥ 2 ^ 32 ∨ nonce.length ≠ 16 then refuse c stBadParam s
    else
      let body := shakeoutBody first count nonce s
      if sign = 0 then answer c stDone body s else askSignature (.shakeout c body) 7 c s) s

/-- SHAKEOUT_UNFREEZE. -/
def execShakeoutUnfreeze (m : CmdMeta) (freezeSeq : Nat) (s : State) : Out :=
  command m 0x0A12 (fun c s =>
    if !flag .shFrozen 0 s then refuse c stBadState s
    else if freezeSeq ≠ reg .shFreezeSeq 0 s then refuse c stBadParam s
    else
      let s := setReg .shFrozen 0 0 { s with pins := { s.pins with faultN := true } }
      done c (logEvent 0x0A05 sevI 0xA1 0xFF (leBytes 4 (reg .shLostCnt 0 s)) s)) s

/-- FAULT_SUBSCRIBE: an endpoint already registered takes the new class and severity. -/
def execFaultSubscribe (m : CmdMeta) (endpoint cls severity : Nat) (s : State) : Out :=
  command m 0x0A20 (fun c s =>
    let known := s.rel.subs.any fun x => x.endpoint = endpoint
    let okEp := decide (devOf endpoint ≤ 2319) && (isEdge (portOf endpoint) || (decide (56 ≤ portOf endpoint) && decide (portOf endpoint ≤ 58)))
    if !okEp || decide (cls > 4) || decide (severity > 2) then refuse c stBadParam s
    else if !known && decide (s.rel.subs.length ≥ 4) then refuse c stNoResource s
    else
      let x : Subscriber := { endpoint := endpoint, cls := cls, sev := severity, secAt := s.time.now, sent := 0 }
      done c { s with rel := { s.rel with subs := s.rel.subs.filter (fun y => y.endpoint ≠ endpoint) ++ [x] } }) s

/-- FAULT_UNSUBSCRIBE. -/
def execFaultUnsubscribe (m : CmdMeta) (endpoint : Nat) (s : State) : Out :=
  command m 0x0A21 (fun c s =>
    requires (s.rel.subs.any fun x => x.endpoint = endpoint) c stBadParam (fun s =>
      done c { s with rel := { s.rel with subs := s.rel.subs.filter fun y => y.endpoint ≠ endpoint } }) s) s

/-- REL_STATS. -/
def execRelStats (m : CmdMeta) (s : State) : Out :=
  command m 0x0A30 (fun c s => answer c stDone (readWords 0xA000000C 6 s) s) s

end Sys2Proof.Machine
end

