-- ==== Sys2Proof/Machine/Perform.lean ====
section
/-! DEFINITION. The command a started CMD spells is performed by the same meaning as its row (R356, R357). -/
namespace Sys2Proof.Machine

/-- Perform a command of port 56; the other rows are no commands of port 56. -/
def runCommand (i : Instr) (s : State) : Out :=
  match i with
  | .devIdentify m => execDevIdentify m s
  | .devHealth m => execDevHealth m s
  | .heatBind m heat f c mask => execHeatBind m heat f c mask s
  | .heatUnbind m heat => execHeatUnbind m heat s
  | .heatList m first => execHeatList m first s
  | .devResetWarm m confirm => execDevResetWarm m confirm s
  | .devResetDomain m kind index => execDevResetDomain m kind index s
  | .csrRead m addr count => execCsrRead m addr count s
  | .csrWrite m addr count words => execCsrWrite m addr count words s
  | .devBlockState m addr => execDevBlockState m addr s
  | .fwStatus m => execFwStatus m s
  | .fwWrite m slot offset data => execFwWrite m slot offset data s
  | .fwVerify m slot => execFwVerify m slot s
  | .fwSwitch m slot => execFwSwitch m slot s
  | .devEcho m data => execDevEcho m data s
  | .linkStatus m link => execLinkStatus m link s
  | .linkConfig m link rate ceiling cvThresh enable clearSwap => execLinkConfig m link rate ceiling cvThresh enable clearSwap s
  | .linkRetrain m link => execLinkRetrain m link s
  | .linkDown m link force => execLinkDown m link force s
  | .linkLaneSwap m link lane => execLinkLaneSwap m link lane s
  | .linkEqRead m link lane rate => execLinkEqRead m link lane rate s
  | .linkEqSet m link lane rate entry => execLinkEqSet m link lane rate entry s
  | .linkNeighbour m link => execLinkNeighbour m link s
  | .linkStats m link => execLinkStats m link s
  | .routeStatus m => execRouteStatus m s
  | .routeLinkClose m link => execRouteLinkClose m link s
  | .routeLinkOpen m link => execRouteLinkOpen m link s
  | .routeParamSet m ventWait nmBias drainMax => execRouteParamSet m ventWait nmBias drainMax s
  | .routeSpread m on => execRouteSpread m on s
  | .routeTest m on => execRouteTest m on s
  | .routeReserve m mask heat => execRouteReserve m mask heat s
  | .routeCreditSet m link vc allowance => execRouteCreditSet m link vc allowance s
  | .routeTreeRead m root tree => execRouteTreeRead m root tree s
  | .routeFenceList m first => execRouteFenceList m first s
  | .routeStats m => execRouteStats m s
  | .tundishStatus m half => execTundishStatus m half s
  | .tundishThreshSet m port cls warn slow stop => execTundishThreshSet m port cls warn slow stop s
  | .tundishPoolSet m half warn slow stop reserve => execTundishPoolSet m half warn slow stop reserve s
  | .tundishBankSwap m half bank => execTundishBankSwap m half bank s
  | .queueAlloc m port cls heat => execQueueAlloc m port cls heat s
  | .queueFree m queue => execQueueFree m queue s
  | .queueQuery m queue => execQueueQuery m queue s
  | .tundishStats m => execTundishStats m s
  | .schedStatus m port => execSchedStatus m port s
  | .schedClassWeight m port cls weight => execSchedClassWeight m port cls weight s
  | .schedQueueWeight m queue weight => execSchedQueueWeight m queue weight s
  | .schedWinWrite m port first entries => execSchedWinWrite m port first entries s
  | .schedWinCommit m port count cycleNs idleMask guardNs activateAt => execSchedWinCommit m port count cycleNs idleMask guardNs activateAt s
  | .schedWinOff m port activateAt => execSchedWinOff m port activateAt s
  | .schedWinRead m port table first => execSchedWinRead m port table first s
  | .policerSet m port kind stream cls r b => execPolicerSet m port kind stream cls r b s
  | .policerRead m port kind stream cls => execPolicerRead m port kind stream cls s
  | .schedSample m queue on => execSchedSample m queue on s
  | .schedHistRead m queue clear => execSchedHistRead m queue clear s
  | .schedSampleRate m shift => execSchedSampleRate m shift s
  | .schedStats m port => execSchedStats m port s
  | .allocPages m heat cls count rw migEn homeSet first stripe mirrorStep => execAllocPages m heat cls count rw migEn homeSet first stripe mirrorStep s
  | .freePages m gfa count heat => execFreePages m gfa count heat s
  | .memHeatFree m heat => execMemHeatFree m heat s
  | .memPageQuery m gfa => execMemPageQuery m gfa s
  | .memPageSet m gfa count rw migEn oldHeat newHeat => execMemPageSet m gfa count rw migEn oldHeat newHeat s
  | .memPageClearLost m gfa heat => execMemPageClearLost m gfa heat s
  | .memMigrate m gfa target => execMemMigrate m gfa target s
  | .memMirrorSet m gfa mirror => execMemMirrorSet m gfa mirror s
  | .memArbSet m fabric pour layer fettler => execMemArbSet m fabric pour layer fettler s
  | .memMigrateCtrl m on => execMemMigrateCtrl m on s
  | .memStats m => execMemStats m s
  | .memCacheFlush m => execMemCacheFlush m s
  | .pourRegister m desc => execPourRegister m desc s
  | .pourAbort m heat pourId => execPourAbort m heat pourId s
  | .pourQuery m heat pourId => execPourQuery m heat pourId s
  | .pourFenceMap m heat pourId select => execPourFenceMap m heat pourId select s
  | .msetBegin m index count => execMsetBegin m index count s
  | .msetWrite m index first entries => execMsetWrite m index first entries s
  | .msetSeal m index kind => execMsetSeal m index kind s
  | .msetFree m index => execMsetFree m index s
  | .msetRead m index first => execMsetRead m index first s
  | .pourClassSet m cls weight => execPourClassSet m cls weight s
  | .pourSpillReserve m pages => execPourSpillReserve m pages s
  | .pourStats m => execPourStats m s
  | .layerSegBegin m heat seg descs tensors => execLayerSegBegin m heat seg descs tensors s
  | .layerTensorWrite m seg first entries => execLayerTensorWrite m seg first entries s
  | .layerDescWrite m seg first entries => execLayerDescWrite m seg first entries s
  | .layerSegSeal m seg => execLayerSegSeal m seg s
  | .layerSegPlace m seg bays maxRows => execLayerSegPlace m seg bays maxRows s
  | .layerSegRemove m seg => execLayerSegRemove m seg s
  | .layerRun m heat seg pass runTag fwdTag rows firstDesc lastDesc deadline pairs => execLayerRun m heat seg pass runTag fwdTag rows firstDesc lastDesc deadline pairs s
  | .layerAbort m heat seg => execLayerAbort m heat seg s
  | .layerQuery m seg => execLayerQuery m seg s
  | .layerSavedRelease m seg runTag => execLayerSavedRelease m seg runTag s
  | .layerStats m => execLayerStats m s
  | .updRuleSet m index entry => execUpdRuleSet m index entry s
  | .updRuleRead m index => execUpdRuleRead m index s
  | .updStateDefine m heat base elems kind slot t => execUpdStateDefine m heat base elems kind slot t s
  | .updStateMask m base region o k n kind bitmap => execUpdStateMask m base region o k n kind bitmap s
  | .updStateQuery m base => execUpdStateQuery m base s
  | .updStateRevert m base => execUpdStateRevert m base s
  | .updStateFree m base => execUpdStateFree m base s
  | .embTableDefine m heat base rows dim fmt kind buckets setIndex => execEmbTableDefine m heat base rows dim fmt kind buckets setIndex s
  | .embTableQuery m base => execEmbTableQuery m base s
  | .embTableFree m base => execEmbTableFree m base s
  | .updStats m => execUpdStats m s
  | .clkStatus m => execClkStatus m s
  | .clkAclkSwap m source => execClkAclkSwap m source s
  | .clkobsSet m code divider => execClkobsSet m code divider s
  | .clkTrim m source link => execClkTrim m source link s
  | .timeSet m link frame time => execTimeSet m link frame time s
  | .clkMonRead m code => execClkMonRead m code s
  | .clkPlan m => execClkPlan m s
  | .pwrStatus m => execPwrStatus m s
  | .pwrProfileSet m profile => execPwrProfileSet m profile s
  | .pwrProfileRead m => execPwrProfileRead m s
  | .pwrStats m => execPwrStats m s
  | .relStatus m => execRelStatus m s
  | .riserPolicy m auto ageMin flaskLimit frameLimit scrubH => execRiserPolicy m auto ageMin flaskLimit frameLimit scrubH s
  | .riserFlaskSwap m bay flask => execRiserFlaskSwap m bay flask s
  | .frameRetire m frame => execFrameRetire m frame s
  | .stackFail m stack => execStackFail m stack s
  | .agingRead m bay => execAgingRead m bay s
  | .riserHistoryRead m first => execRiserHistoryRead m first s
  | .shakeoutStatus m => execShakeoutStatus m s
  | .shakeoutRead m first count nonce sign => execShakeoutRead m first count nonce sign s
  | .shakeoutUnfreeze m freezeSeq => execShakeoutUnfreeze m freezeSeq s
  | .faultSubscribe m endpoint cls severity => execFaultSubscribe m endpoint cls severity s
  | .faultUnsubscribe m endpoint => execFaultUnsubscribe m endpoint s
  | .relStats m => execRelStats m s
  | .secStatus m => execSecStatus m s
  | .secAttest m nonce => execSecAttest m nonce s
  | .secIdentityRead m => execSecIdentityRead m s
  | .secRollbackCommit m v => execSecRollbackCommit m v s
  | .secRootRead m => execSecRootRead m s
  | .secStats m => execSecStats m s
  | .assayStatus m => execAssayStatus m s
  | .assayRead m channel => execAssayRead m channel s
  | .assayAttrib m heat => execAssayAttrib m heat s
  | .assayAttribList m first => execAssayAttribList m first s
  | .detStatus m heat => execDetStatus m heat s
  | .detRecordOpen m heat record scope => execDetRecordOpen m heat record scope s
  | .detDigestRange m heat kind gfa length => execDetDigestRange m heat kind gfa length s
  | .detRecordClose m heat scope sign => execDetRecordClose m heat scope sign s
  | .detRecordRead m heat => execDetRecordRead m heat s
  | .detStepSet m heat step => execDetStepSet m heat step s
  | .saveHeat m heat endpoint offset waitLimit cont => execSaveHeat m heat endpoint offset waitLimit cont s
  | .resumeHeat m endpoint offset length digest => execResumeHeat m endpoint offset length digest s
  | _ => .next s

end Sys2Proof.Machine
end

