-- ==== Sys2Proof/Machine/Deliver.lean ====
section
/-! DEFINITION. Packets on the links and at the ports: PACKET_RECEIVE and PACKET_DEPART, answers, re-sends and gaps (R201, R202,
R232 to R252, R289 to R304, R310), and the command endpoint that queues and starts commands (R353 to R358). -/
namespace Sys2Proof.Machine

/-- What follows an answer or a packet taken at a port: packets answered DAMAGED go again, streams that may go on are flushed, and Pours and saves whose packets
are all answered end (R77, R247, R345). -/
def settleAnswers (s : State) : State :=
  let s := resendMarked s
  settleSaves (settlePours (flushPort (ownEp 58 s) (flushPort (ownEp 57 s) (flushPort (ownEp 56 s) s))))

/-! ### Packets that reach ports 57 and 58 -/

/-- PUT reaches port 57 (R163); `copy` where the home of a class 2 page forwards a performed write to this device, its mirror
(R177). -/
def execPut (p : Packet) (copy : Bool) (s : State) : Out :=
  .next (settleAnswers (if copy then mirrorStore p s else memPort { p with typ := tyPut } s))
/-- GET reaches port 57 (R164), with the lines its read finds corrected, and the uncorrectable ones as (line, channel) (R153). -/
def execGet (p : Packet) (corrected : Nat) (uncorrected : List (Nat × Nat)) (s : State) : Out :=
  .next (settleAnswers (memPort { p with typ := tyGet } s corrected uncorrected))
/-- GATHER_ROWS reaches port 57 (R143), with the lines its read meets. -/
def execGatherRows (p : Packet) (corrected : Nat) (uncorrected : List (Nat × Nat)) (s : State) : Out :=
  .next (settleAnswers (gatherPort { p with typ := tyGet } s corrected uncorrected))
/-- ATOMIC reaches port 57 (R166), with the lines its read meets. -/
def execAtomic (p : Packet) (corrected : Nat) (uncorrected : List (Nat × Nat)) (s : State) : Out :=
  .next (settleAnswers (memPort { p with typ := tyAtomic } s corrected uncorrected))
/-- GET_REPLY reaches the port that asked (R244). -/
def execGetReply (pkt : Packet) (s : State) : Out := .next (settleAnswers (replyPort pkt s))
/-- CONTRIB reaches port 58 (R71). -/
def execContrib (pkt : Packet) (s : State) : Out := .next (settleAnswers (contribPort pkt s))
/-- RESULT reaches port 58 (R124). -/
def execResult (pkt : Packet) (s : State) : Out := .next (settleAnswers (resultPort pkt s))
/-- CHUNK_MARK reaches port 58 (R74). -/
def execChunkMark (pkt : Packet) (s : State) : Out := .next (settleAnswers (markPort pkt s))

/-! ### Port 56: acceptance (R354, R355) -/

/-- The queue an opcode belongs to: 0 the Foreman's, 1 to 8 those of Shops 0 to 7 (R15, R355). -/
def queueOfOp (op : Nat) : Nat :=
  match op / 256 with
  | 0x01 => 1
  | 0x02 | 0x03 | 0x04 => 2
  | 0x05 => 3
  | 0x06 | 0x08 => 4
  | 0x07 => 5
  | 0x09 | 0x0C => 6
  | 0x0A => 7
  | 0x0B | 0x0D => 8
  | _ => 0

/-- Commands a queue holds. -/
def queueRoom (q : Nat) : Nat := if q = 0 then 64 else 256

/-- A source that port 56 accepts a CMD from: an endpoint on a service link, or port 56 of another GN-52 (R354). -/
def cmdSourceOk (src : Nat) (s : State) : Bool :=
  isService (portOf src) || (portOf src = 56 && decide (devOf src ≠ ownDev s))

/-- Fields of a CMD (R353). -/
def cmdOp (p : Packet) : Nat := bitsOf p.addr 15 0
def cmdTag (p : Packet) : Nat := bitsOf p.addr 31 16
def cmdLen (p : Packet) : Nat := bitsOf p.addr 43 32
def cmdResv (p : Packet) : Nat := bitsOf p.addr 63 44 + p.args % 2 ^ 32 * 2 ^ 20

/-- Port 56 takes a packet: it is acknowledged and the next of its stream follows. -/
def ackFore (p : Packet) (s : State) : State :=
  portDone p true true (sendAnswer (mkAck p (ownEp 56 s) p.seq 1) (digestPacket p s))

/-- Port 56 refuses a packet. -/
def nakFore (p : Packet) (cause : Nat) (s : State) : State :=
  portDone p (!resendCause cause) false (nakAs (ownEp 56 s) p cause s)

/-- The commands waiting in a queue. -/
def cmdQueue (q : Nat) (s : State) : List QCmd := tabGet [] s.fore.queues q

/-- The queue entry of an accepted CMD. -/
def entryOfCmd (p : Packet) (no : Nat) : QCmd :=
  { ref := { src := p.src, tag := cmdTag p, op := cmdOp p, cls := p.cls }, resv := cmdResv p, len := cmdLen p,
    payload := p.payload, no := no }

/-- Put an accepted CMD at the tail of its queue. -/
def acceptCmd (p : Packet) (s : State) : State :=
  let q := queueOfOp (cmdOp p)
  { s with fore := { s.fore with queues := tabPut s.fore.queues q (cmdQueue q s ++ [entryOfCmd p s.fore.accepted]),
                                 accepted := s.fore.accepted + 1 } }

/-- Port 56 deals with a CMD (R354, R355). -/
def cmdPort (p : Packet) (s : State) : State :=
  if !cmdSourceOk p.src s then nakFore p stDenied (incReg .foreCmdDeniedCnt 0 s)
  else if (cmdQueue (queueOfOp (cmdOp p)) s).length ≥ queueRoom (queueOfOp (cmdOp p)) then
    nakFore p stNoResource (incReg .foreQueueFullCnt 0 s)
  else ackFore p (acceptCmd p (incReg .foreCmdCnt 0 s))

/-- Port 56 deals with a packet: a CMD is queued, a CMD_REPLY or an MGMT packet is taken; the manual defines no contents of the
latter, and no other type for port 56 (R14, R234). -/
def forePort (p : Packet) (s : State) : State :=
  if p.typ = tyCmd then cmdPort p s
  else if p.typ = tyMgmt ∨ p.typ = tyCmdReply then ackFore p s
  else nakFore p stBadParam s

/-- CMD. -/
def execCmd (pkt : Packet) (s : State) : Out := .next (settleAnswers (forePort { pkt with typ := tyCmd } s))

/-- MGMT. -/
def execMgmt (pkt : Packet) (s : State) : Out := .next (settleAnswers (forePort { pkt with typ := tyMgmt } s))

/-! ### Port 56: a queue starts its next command (R356, R357) -/

/-- An earlier command of the same source and tag still awaits its final reply (R356 check 4). -/
def tagInUse (c : QCmd) (s : State) : Bool :=
  let same := fun (r : CmdRef) => r.src = c.ref.src && r.tag = c.ref.tag
  s.fore.outstanding.any same || s.fore.busy.any (fun e => same e.2)
    || s.fore.queues.any fun e => e.2.any fun x => same x.ref && decide (x.no < c.no)

/-- The metadata under which a started command runs. -/
def metaOfCmd (c : QCmd) : CmdMeta := { src := c.ref.src, tag := c.ref.tag, cls := c.ref.cls, resv := c.resv }

/-- Checks 1 to 4 of R356, then the command with its own checks 5 and 6. -/
def startCmd (c : QCmd) (s : State) : Out :=
  if c.len ≠ c.payload.length then .next (refuse c.ref stBadLength s)
  else match parseCommand (metaOfCmd c) c.ref.op c.payload with
    | .badOpcode => .next (refuse c.ref stBadOpcode s)
    | .badLength => .next (refuse c.ref stBadLength s)
    | .ok i => if tagInUse c s then .next (refuse c.ref stBadState s) else runCommand i s

/-- A queue may start its next command. -/
def mayStart (q : Nat) (s : State) : Bool :=
  s.fore.activeAlive && !shopsWait s && (tabFind s.fore.busy q).isNone && cmdQueue q s ≠ []

/-- COMMAND_START. -/
def execCommandStart (queue : Nat) (s : State) : Out :=
  if queue > 8 then .next s
  else if !mayStart queue s then .next s
  else match cmdQueue queue s with
    | [] => .next s
    | c :: r => startCmd c { s with fore := { s.fore with queues := tabSet [] s.fore.queues queue r } }

/-! ### ACK and NAK (R240 to R245) -/

/-- An endpoint on one of this device's links acknowledged: A of its context rises (R246). -/
def noteAcked (p : Packet) (s : State) : State :=
  if p.typ ≠ tyAck ∨ devOf p.src ≠ ownDev s ∨ ¬ isEdge (portOf p.src) then s
  else match tabFind s.net.ctxs (ctxKey p.dst p.stream p.src) with
    | none => s
    | some c =>
      let c := { c with sent := c.sent.filter fun e => !seqCovered p.seq (ackCount p) e.1 }
      putCtx (if subMod p.seq c.a (2 ^ 24) < 2 ^ 23 then { c with a := p.seq } else c)
        (touchCtx (ctxKey p.dst p.stream p.src) (dieOfPort (portOf p.src) p.stream s) s)

/-- What a port of this device awaited with a packet. -/
def purposeOf (src stream seq : Nat) (s : State) : Option Purpose :=
  s.net.streams.findSome? fun o =>
    if o.src = src ∧ o.stream = stream then (o.unacked.find? fun x => x.pkt.seq = seq).map (·.why) else none

/-- A NAK that ends a packet (last row of R243). -/
def finalNak (p : Packet) (s : State) : Bool :=
  let c := nakCause p
  p.typ = tyNak && c ≠ nakDamaged && c ≠ nakNoStream && c ≠ nakGapTimeout && c ≠ stBadState && c ≠ stNoResource
    && c ≠ stPoliced && !awaitsTree p.dst p.stream p.seq s

/-- The function that sent a packet learns that it ended without an answer (R243, R244, R347, R350). -/
def failPurpose (w : Option Purpose) (status : Nat) (s : State) : State :=
  match w with
  | some (.request id) => failResume id status (failSave id s)
  | _ => s

/-- An ACK or NAK arrives: a block of an endpoint becomes a fabric answer, one for an endpoint here becomes a block, and one for
a port of this device is acted on (R242 to R244). -/
def takeAnswer (p : Packet) (s : State) : State :=
  let mine := decide (devOf p.dst = ownDev s) && !isEdge (portOf p.dst)
  let w := if mine && finalNak p s then purposeOf p.dst p.stream p.seq s else none
  settleAnswers (failPurpose w (nakCause p) (sendAnswer p (noteAcked p s)))

/-- The fields of an endpoint's ACK or NAK block (R242): far endpoint, stream, sequence, count less one or cause; none where a field that
the table gives as zero is not (log entry 128). -/
def blockFields (b : List Byte) : Option (Nat × Nat × Nat × Nat) :=
  let w := if fieldAt b 0 1 = 2 then 1 else 2
  if fieldAt b 1 3 ≥ 2 ^ 18 ∨ fieldAt b 4 3 ≥ 2 ^ 20 ∨ fieldAt b (10 + w) (4 - w) ≠ 0 then none
  else some (fieldAt b 1 3, fieldAt b 4 3, fieldAt b 7 3, fieldAt b 10 w)

/-- An endpoint's block becomes the fabric ACK or NAK from that endpoint, in the Heat and class of the packet it answers (R241, R242); an
answer that names no packet the endpoint holds unacknowledged is dropped (log entry 128). -/
def blockAnswer (l : Nat) (b : List Byte) (s : State) : Option Packet :=
  (blockFields b).bind fun f =>
    (tabFind s.net.ctxs (ctxKey f.1 f.2.1 (ownEp l s))).bind fun c =>
      (c.sent.find? fun e => e.1 = f.2.2.1).map fun e =>
        let p : Packet := { typ := 0, dst := ownEp l s, src := f.1, stream := f.2.1, seq := f.2.2.1, heat := e.2.1, cls := e.2.2 }
        if fieldAt b 0 1 = 2 then mkAck p (ownEp l s) p.seq (f.2.2.2 + 1) else mkNak p (ownEp l s) f.2.2.2

/-- A block comes on an edge link: one whose CRC or kind fails is discarded and counted (R211). -/
def takeBlock (kind l : Nat) (b : List Byte) (s : State) : State :=
  if !isEdge l || !(reg .lkState l s = 4 || reg .lkState l s = 3) then s
  else if !blockGood b then incReg .lkCbErrCnt l s
  else if fieldAt b 0 1 ≠ kind then s
  else match blockAnswer l b s with
    | some p => takeAnswer p s
    | none => s

/-- ACK. -/
def execAck (ans : AnswerIn) (s : State) : Out :=
  .next (match ans with
    | .packet p => takeAnswer { p with typ := tyAck } s
    | .block l b => takeBlock 2 l b s)

/-- NAK. -/
def execNak (ans : AnswerIn) (s : State) : Out :=
  .next (match ans with
    | .packet p => takeAnswer { p with typ := tyNak } s
    | .block l b => takeBlock 3 l b s)

/-! ### Departure (R202, R303, R310, R317) -/

/-- Cells sent for a bound Heat count toward its share of energy (R455). -/
def noteWeight (heat cells : Nat) (s : State) : State :=
  if heat = 0 ∨ (bindOf heat s).isNone then s
  else { s with assay := { s.assay with weights := tabSet 0 s.assay.weights heat (tabGet 0 s.assay.weights heat + cells) } }

/-- A packet leaves on a link: its cells count against the credit, and a DIGEST packet to an endpoint is hashed (R270, R337). -/
def sendOut (port vc cells : Nat) (p : Packet) (aborted : Bool) (s : State) : State :=
  let s := modVc port vc (fun c => { c with sent := (c.sent + cells) % 2 ^ 24 }) s
  let s := noteWeight p.heat cells s
  sendPacket port p aborted (if isEdge port then digestPacket p s else s)

/-- The head of a queue of a link port leaves; where its cells take an uncorrectable error in the Tundish it is damaged and held whole
(R238, R239). R202 is checked at an edge link. -/
def sendHead (port i : Nat) (aborted : Bool) (ecc : CellErrs) (s : State) : State :=
  match popQueue i s with
  | none => s
  | some (e, q, s) =>
    let s := settleBindings (dropHold e.hold (noteCellErrs e.hold ecc s))
    if ecc.uncorrected ≠ [] then dropDamagedAt (dieOfLink port) e.pkt s
    else if isEdge port && !exitAllowed port e.pkt s then nak e.pkt stDenied s
    else sendOut port q.vc e.cells e.pkt aborted s

/-- A packet that a QUARANTINED link carries (R196). -/
def managementPkt (p : Packet) : Bool := p.heat = 0 && (p.typ = tyCmd || p.typ = tyCmdReply || p.typ = tyMgmt)

/-- The queue whose head leaves a port now; a QUARANTINED link carries management alone. -/
def departing (port : Nat) (s : State) : Option Nat :=
  let el := (portQueues port s).filter fun e => headEligible e.2 s
  selectOf port (if port < 52 ∧ reg .lkState port s = 3 then
    el.filter (fun e => e.2.ents.head?.any fun x => managementPkt x.pkt) else el)

/-- A head packet waits because it does not fit its window. -/
def notFitting (port : Nat) (q : OutQueue) (s : State) : Bool :=
  match q.ents with
  | [] => false
  | e :: _ => decide (q.vc < 5) && !e.noFit && decide (creditAvail port q.vc s ≥ e.cells) && classOpen port q.vc s
      && !fitsWindow port q.vc e.cells s

/-- Waits for fit are counted once each (R317). -/
def noteNoFit (port : Nat) (s : State) : State :=
  ((portQueues port s).filter fun e => notFitting port e.2 s).foldl (fun s e =>
    let ents := match e.2.ents with | [] => [] | x :: r => { x with noFit := true } :: r
    incReg .sdNofitCnt port (putQueue e.1 { e.2 with ents := ents } s)) s

/-- The link sends packets: ACTIVE or QUARANTINED. -/
def linkSends (l : Nat) (s : State) : Bool := reg .lkState l s = 4 || reg .lkState l s = 3

/-- An internal port takes its next packet (R240). -/
def portTakes (port : Nat) (p : Packet) (s : State) : State :=
  if port = 56 then forePort p s
  else if port = 57 then (if p.typ = tyGetReply then replyPort p s else memPort p s)
  else pourPort p s

/-- An internal port serves its queues; a packet whose cells an uncorrectable error struck is not delivered (R239, R240). -/
def departPort (port : Nat) (ecc : CellErrs) (s : State) : State :=
  match departing port s with
  | none => s
  | some i =>
    match popQueue i s with
    | none => s
    | some (e, _, s) =>
      let s := settleBindings (dropHold e.hold (noteCellErrs e.hold ecc s))
      settleAnswers (if ecc.uncorrected ≠ [] then portDone e.pkt false false (dropDamaged e.pkt s) else portTakes port e.pkt s)

/-- A link port selects and sends the next packet. -/
def departLink (l : Nat) (ecc : CellErrs) (s : State) : State :=
  if !linkSends l s then s
  else
    let s := noteNoFit l s
    match departing l s with
    | none => s
    | some i => sendHead l i false ecc s

/-- PACKET_DEPART; `ecc` are the errors that the packet's cells meet in the Tundish (R238, R304). -/
def execPacketDepart (port : Nat) (ecc : CellErrs) (s : State) : Out :=
  if port < 52 then .next (resendMarked (departLink port ecc s))
  else onUnit (decide (56 ≤ port) && decide (port ≤ 58)) s (departPort port ecc s)

/-! ### Arrival (R201, R232 to R239, R252, R289 to R292) -/

/-- An opening packet that opens or resets its context: what is remembered of the old stream's forwarded requests goes. -/
def reopens (p : Packet) (s : State) : Bool :=
  p.sos && (match ctxOf p s with
    | none => true
    | some c => c.held = [] && !c.handed && decide (s.time.now ≥ c.last + 1000000))

/-- A copy of a forwarded request that reached its entry device again (R252 step 6); none when R246 alone applies. -/
def dupRequest (p : Packet) (s : State) : Option State :=
  let request := p.typ = tyPut ∨ p.typ = tyAtomic ∨ (p.typ = tyGet ∧ getForm p ≠ 1)
  if ¬ request ∨ portOf p.dst ≠ 57 ∨ p.fwd ∨ reopens p s then none
  else match ctxOf p s with
    | none => none
    | some c =>
      if subMod p.seq c.n (2 ^ 24) < 2 ^ 23 ∨ (p.sos ∧ c.n ≠ 1) ∨ ¬ payloadCrcGood p then none
      else if (entryCopy p.src p.stream p.seq s).isSome then some (incReg .scDupCnt (dieOfDst p s) s)
      else match s.net.fwdDone.find? (fun e => e.1 = p.src && e.2.1 = p.stream && e.2.2.1 = p.seq) with
        | some e =>
          let s := incReg .scDupCnt (dieOfDst p s) s
          if p.typ = tyPut ∨ (p.typ = tyAtomic ∧ atOp p = 3) then some (sendAnswer (mkAck p (epOf e.2.2.2 57) p.seq 1) s)
          else some s
        | none =>
          if s.net.fwdGone.contains (p.src, p.stream, p.seq) then
            some (memPort p { s with net := { s.net with fwdGone := s.net.fwdGone.filter (· ≠ (p.src, p.stream, p.seq)) } })
          else none

/-- Forget the forwarded requests of a stream. -/
def forgetFwd (src stream : Nat) (s : State) : State :=
  { s with net := { s.net with fwdDone := s.net.fwdDone.filter fun e => !(e.1 = src && e.2.1 = stream),
                               fwdGone := s.net.fwdGone.filter fun e => !(e.1 = src && e.2.1 = stream) } }

/-- A packet for this device: an answer, a copy of a forwarded request, or a packet to put in sequence. A damaged packet whose
cells were taken is dropped (R239). `n` cells came on link `l`, VC `v`. -/
def receiveOwn (l v n : Nat) (damaged : Bool) (p : Packet) (s : State) : State :=
  let d := dieOfPort (portOf p.dst) p.stream s
  let answer := decide (p.typ = tyAck) || decide (p.typ = tyNak)
  if answer || damaged then
    if !admits d p.cls n s then nak p stNoResource (noteNoRoom d (portOf p.dst) p.cls (giveCredit (some l) v n s))
    else if damaged then dropDamaged p (returnCredit l v n s)
    else takeAnswer p (returnCredit l v n s)
  else match dupRequest p s with
    | some s => settleAnswers (giveCredit (some l) v n s)
    | none => arriveHere (some l) v p (if reopens p s then forgetFwd p.src p.stream s else s)

/-- The conditions of R291 for a packet from link `l` that is queued toward a hop. -/
def cutsThrough (l : Nat) (h : Hop) (n : Nat) (s : State) : Bool :=
  linkSends h.link s && portQueues h.link s = [] && decide (reg .lkRate h.link s ≥ reg .lkRate l s)
    && decide (creditAvail h.link h.vc s ≥ n)
    && (decide (h.vc ≥ 5) || (classOpen h.link h.vc s && fitsWindow h.link h.vc n s))

/-- Cells that enter on one die and leave on the other cross the bridge (R12, R307). -/
def noteBridge (l d n : Nat) (s : State) : State :=
  if dieOfLink l = d then s else modHalf d (fun h => { h with xferCells := h.xferCells + n }) s

/-- A packet in transit: routed, admitted, and cut through, dropped damaged, or stored (R239, R262 to R264, R289 to R296). -/
def receiveTransit (l v n : Nat) (damaged : Bool) (p0 : Packet) (s0 : State) : State :=
  let first := isEdge l
  let ps := if first then preparePath (some l) p0 s0 else (p0, s0)
  let p := ps.1
  let s := ps.2
  match nextHop first p s with
  | none => nak p nakDamaged (incReg .rtNorouteCnt (dieOfLink l) (giveCredit (some l) v n s))
  | some h =>
    let s := noteHop first h s
    let d := dieOfLink h.link
    match holdCells d h.link h.vc n 1 (some l) v s with
    | none => nak p stNoResource (noteNoRoom d h.link h.vc (giveCredit (some l) v n s))
    | some (id, s) =>
      let s := noteBridge l d n s
      let q := { p with route := h.route }
      if cutsThrough l h n s then
        sendHead h.link (queueFor h.link h.vc q.heat s) damaged {} (incReg .xbCutCnt d (enqueue h.link h.vc q n id s))
      else if damaged then dropDamagedAt d p (dropHold id s)
      else incReg .xbStoreCnt d (enqueue h.link h.vc q n id s)

/-- A packet that passed the checks of its header and of its input goes on. -/
def receiveOn (l v n : Nat) (damaged : Bool) (p : Packet) (s : State) : State :=
  if p.mcast then
    if damaged then dropDamagedAt (dieOfLink l) p (giveCredit (some l) v n s) else replicate (some l) v p s
  else if devOf p.dst = ownDev s then receiveOwn l v n damaged p s
  else receiveTransit l v n damaged p s

/-- The input VC of a packet: its class on an edge link; by class and route state on a fabric link (R256, R257). -/
def inputVc (l : Nat) (p : Packet) : Nat :=
  if isEdge l then p.cls else if p.cls ≥ 6 then (if rsDl p then 7 else 6) else if rsVent p then 5 else p.cls

/-- The checks of an edge link (R201, R235, R252), then the policers (R325). -/
def receiveEdge (l v n : Nat) (damaged : Bool) (p : Packet) (s : State) : State :=
  let back := giveCredit (if v < 5 then some l else none) v n
  match entryCheck l p s with
  | .spoof => logEvent 0x0201 sevW 0x10 l (packFields [(4, p.src)])
      (modLink l (fun k => { k with spoofCnt := satAdd32 k.spoofCnt 1 }) (back s))
  | .nak c => nak p c (back s)
  | .pass =>
    let (ok, s) := police l p s
    if ok then receiveOn l v n damaged p s else nak p stPoliced (back s)

/-- The checks of a header whose CRC is good: reserved fields, type, and on a QUARANTINED link the kind of packet and its
destination (R196, R232, R234). A packet whose source is not the link's endpoint is dropped before any of them is answered (R201). -/
def receiveHeader (l n : Nat) (damaged : Bool) (p : Packet) (s : State) : State :=
  let v := inputVc l p
  let back := giveCredit (if isEdge l ∧ v ≥ 5 then none else some l) v n
  if isEdge l ∧ p.src ≠ ownEp l s then receiveEdge l v n damaged p s
  else if p.resv ≠ 0 then nak p stBadParam (back s)
  else if !typeDefined p.typ then nak p stBadParam (incReg .scBadtypeCnt (dieOfLink l) (back s))
  else if reg .lkState l s = 3 && !(managementPkt p && p.dst = ownEp 56 s) then back s
  else if isEdge l then receiveEdge l v n damaged p s
  else receiveOn l v n damaged p s

/-- A packet that came on a link is damaged (R239). -/
def frameDamaged (f : Frame) : Bool := f.viol ≠ [] || f.abort || !framingGood f

/-- The columns of a frame as they came (R208). -/
def frameColumns (f : Frame) : List Column :=
  [kColumn k277] ++ dataColumns (f.hdr ++ f.cells) ++ [kColumn (if f.abort then k307 else k297)]

/-- A frame on a link that carries packets, as it is taken: its violations are counted (R212), as is an end in K30.7, which a packet
cut by a lane swap gets too (R225). -/
def takeFrameOn (l : Nat) (f0 : Frame) (s : State) : Frame × State :=
  let f := if (link l s).cutNext then { f0 with abort := true } else f0
  let rd := rdArrived (flag .lkReversed l s) (reg .lkRxSwap l s) (frameColumns f0) (link l s).rxRd
  let s := modLink l (fun k => { k with cutNext := false, rxRd := rd }) (countViolations l f.viol s)
  (f, if f.abort then incReg .lkAbortRxCnt l s else s)

/-- A frame on a link that carries packets: its header is tested, then its checks; `ecc` are the errors its cells meet. -/
def receiveFrame (l : Nat) (f0 : Frame) (ecc : CellErrs) (s : State) : State :=
  let (f, s) := takeFrameOn l f0 s
  if !headerCrcGood f.hdr then incReg .scHdrCrcCnt (dieOfLink l) s
  else receiveHeader l (1 + f.cells.length / 40) (frameDamaged f || ecc.uncorrected ≠ []) (frameToPacket f)
    (noteCorrected ecc.corrected.length (addReg .xbEccCnt (dieOfLink l) ecc.corrected.length s))

/-- PACKET_RECEIVE; `ecc` are the errors that its cells meet in the crossbar (R238, R307). -/
def execPacketReceive (l : Nat) (f : Frame) (ecc : CellErrs) (s : State) : Out :=
  onUnit (decide (l < 52)) s (if linkSends l s then resendMarked (receiveFrame l f ecc s) else s)

/-! ### Re-send and gap timeouts (R244, R245, R250) -/

/-- A packet that a port of this device awaits an answer for, by stream and sequence. -/
def sentPkt (src dst stream seq : Nat) (s : State) : Option SentPkt :=
  (s.net.streams.find? fun o => o.src = src && o.dst = dst && o.stream = stream).bind fun o =>
    o.unacked.find? fun x => x.pkt.seq = seq && decide (x.tries < stopTries)

/-- A given-up packet's purpose: a reply is lost and logged, a save or resume fails (R244, R350, R358). -/
def givenUp (x : SentPkt) (s : State) : State :=
  match x.why with
  | .reply tag op => logEvent 0x0004 sevW 0x00 0xFF (packFields [(4, x.pkt.dst), (2, tag), (2, op)]) (incReg .foreReplyGiveupCnt 0 s)
  | w => failPurpose (some w) stDataLost s

/-- PACKET_GIVEUP: counted, logged, reported; the packet is sent no more. -/
def giveUp (src stream : Nat) (x : SentPkt) (s : State) : State :=
  let d := sendDie stream s
  let s := logEvent 0x0202 sevW (0x38 + d) 0xFF (packFields [(4, x.pkt.dst), (4, stream), (4, x.pkt.seq)]) (incReg .scGiveupCnt d s)
  let s := dropSent src stream x.pkt.seq s
  settleAnswers (givenUp x (x.awaiting.foldl (fun s e => reportGiveUp e s) s))

/-- A reopened stream whose 1 ms has passed sends its waiting packets (R248). -/
def sendReopened (src dst stream : Nat) (s : State) : State :=
  match s.net.streams.find? (fun o => o.src = src ∧ o.dst = dst ∧ o.stream = stream) with
  | none => s
  | some o => if o.opened || o.waiting = [] || o.unacked.any (fun x => decide (x.tries < stopTries)) then s else flushOne src dst stream (advanceTo o.openAt s)

/-- RESEND_TIMEOUT: of a packet sent, or of the waiting packets of a reopened stream. -/
def execResendTimeout (src dst stream seq : Nat) (s : State) : Out :=
  .next (match sentPkt src dst stream seq s with
    | none => sendReopened src dst stream s
    | some x =>
      let s := if x.again then s else advanceTo (x.at' + resendNs s) s
      if x.tries ≥ resendMax s then giveUp src stream x s else resendKept src dst stream x s)

/-- The oldest held packet of a context. -/
def oldestHeld (c : Ctx) : Nat := c.held.foldl (fun t h => min t h.at') ((c.held.head?.map (·.at')).getD 0)

/-- Every held packet is discarded with NAK GAP_TIMEOUT, and the context is removed. -/
def breakStream (c : Ctx) (s : State) : State :=
  let s := c.held.foldl (fun s h => nak h.pkt nakGapTimeout (dropHold h.hold s)) s
  delCtx (ctxKey c.src c.stream c.dst) (incReg .scGapTimeoutCnt (dieOfPort (portOf c.dst) c.stream s) s)

/-- GAP_TIMEOUT. -/
def execGapTimeout (src stream dst : Nat) (s : State) : Out :=
  .next (match tabFind s.net.ctxs (ctxKey src stream dst) with
    | none => s
    | some c => if c.held = [] ∨ c.handed then s else resendMarked <| breakStream c (advanceTo (oldestHeld c + 1000000) s))

end Sys2Proof.Machine
end

