-- ==== Sys2Proof/Machine/Dispatch.lean ====
section
/-! DEFINITION. The dispatch: one arm per command, each one call of its meaning. -/
namespace Sys2Proof.Machine

/-- The effect of a command on everything but the queue. -/
def exec (i : Instr) (s : State) : Host.Outcome State Fault Refusal :=
  match i with
  | .devIdentify m => Sys2Proof.Machine.execDevIdentify m s
  | .devHealth m => Sys2Proof.Machine.execDevHealth m s
  | .heatBind m heat f c mask => Sys2Proof.Machine.execHeatBind m heat f c mask s
  | .heatUnbind m heat => Sys2Proof.Machine.execHeatUnbind m heat s
  | .heatList m first => Sys2Proof.Machine.execHeatList m first s
  | .devResetWarm m confirm => Sys2Proof.Machine.execDevResetWarm m confirm s
  | .devResetDomain m kind index => Sys2Proof.Machine.execDevResetDomain m kind index s
  | .csrRead m addr count => Sys2Proof.Machine.execCsrRead m addr count s
  | .csrWrite m addr count words => Sys2Proof.Machine.execCsrWrite m addr count words s
  | .devBlockState m addr => Sys2Proof.Machine.execDevBlockState m addr s
  | .fwStatus m => Sys2Proof.Machine.execFwStatus m s
  | .fwWrite m slot offset data => Sys2Proof.Machine.execFwWrite m slot offset data s
  | .fwVerify m slot => Sys2Proof.Machine.execFwVerify m slot s
  | .fwSwitch m slot => Sys2Proof.Machine.execFwSwitch m slot s
  | .devEcho m data => Sys2Proof.Machine.execDevEcho m data s
  | .linkStatus m link => Sys2Proof.Machine.execLinkStatus m link s
  | .linkConfig m link rate ceiling cvThresh enable clearSwap => Sys2Proof.Machine.execLinkConfig m link rate ceiling cvThresh enable clearSwap s
  | .linkRetrain m link => Sys2Proof.Machine.execLinkRetrain m link s
  | .linkDown m link force => Sys2Proof.Machine.execLinkDown m link force s
  | .linkLaneSwap m link lane => Sys2Proof.Machine.execLinkLaneSwap m link lane s
  | .linkEqRead m link lane rate => Sys2Proof.Machine.execLinkEqRead m link lane rate s
  | .linkEqSet m link lane rate entry => Sys2Proof.Machine.execLinkEqSet m link lane rate entry s
  | .linkNeighbour m link => Sys2Proof.Machine.execLinkNeighbour m link s
  | .linkStats m link => Sys2Proof.Machine.execLinkStats m link s
  | .routeStatus m => Sys2Proof.Machine.execRouteStatus m s
  | .routeLinkClose m link => Sys2Proof.Machine.execRouteLinkClose m link s
  | .routeLinkOpen m link => Sys2Proof.Machine.execRouteLinkOpen m link s
  | .routeParamSet m ventWait nmBias drainMax => Sys2Proof.Machine.execRouteParamSet m ventWait nmBias drainMax s
  | .routeSpread m on => Sys2Proof.Machine.execRouteSpread m on s
  | .routeTest m on => Sys2Proof.Machine.execRouteTest m on s
  | .routeReserve m mask heat => Sys2Proof.Machine.execRouteReserve m mask heat s
  | .routeCreditSet m link vc allowance => Sys2Proof.Machine.execRouteCreditSet m link vc allowance s
  | .routeTreeRead m root tree => Sys2Proof.Machine.execRouteTreeRead m root tree s
  | .routeFenceList m first => Sys2Proof.Machine.execRouteFenceList m first s
  | .routeStats m => Sys2Proof.Machine.execRouteStats m s
  | .tundishStatus m half => Sys2Proof.Machine.execTundishStatus m half s
  | .tundishThreshSet m port cls warn slow stop => Sys2Proof.Machine.execTundishThreshSet m port cls warn slow stop s
  | .tundishPoolSet m half warn slow stop reserve => Sys2Proof.Machine.execTundishPoolSet m half warn slow stop reserve s
  | .tundishBankSwap m half bank => Sys2Proof.Machine.execTundishBankSwap m half bank s
  | .queueAlloc m port cls heat => Sys2Proof.Machine.execQueueAlloc m port cls heat s
  | .queueFree m queue => Sys2Proof.Machine.execQueueFree m queue s
  | .queueQuery m queue => Sys2Proof.Machine.execQueueQuery m queue s
  | .tundishStats m => Sys2Proof.Machine.execTundishStats m s
  | .schedStatus m port => Sys2Proof.Machine.execSchedStatus m port s
  | .schedClassWeight m port cls weight => Sys2Proof.Machine.execSchedClassWeight m port cls weight s
  | .schedQueueWeight m queue weight => Sys2Proof.Machine.execSchedQueueWeight m queue weight s
  | .schedWinWrite m port first entries => Sys2Proof.Machine.execSchedWinWrite m port first entries s
  | .schedWinCommit m port count cycleNs idleMask guardNs activateAt => Sys2Proof.Machine.execSchedWinCommit m port count cycleNs idleMask guardNs activateAt s
  | .schedWinOff m port activateAt => Sys2Proof.Machine.execSchedWinOff m port activateAt s
  | .schedWinRead m port table first => Sys2Proof.Machine.execSchedWinRead m port table first s
  | .policerSet m port kind stream cls r b => Sys2Proof.Machine.execPolicerSet m port kind stream cls r b s
  | .policerRead m port kind stream cls => Sys2Proof.Machine.execPolicerRead m port kind stream cls s
  | .schedSample m queue on => Sys2Proof.Machine.execSchedSample m queue on s
  | .schedHistRead m queue clear => Sys2Proof.Machine.execSchedHistRead m queue clear s
  | .schedSampleRate m shift => Sys2Proof.Machine.execSchedSampleRate m shift s
  | .schedStats m port => Sys2Proof.Machine.execSchedStats m port s
  | .allocPages m heat cls count rw migEn homeSet first stripe mirrorStep => Sys2Proof.Machine.execAllocPages m heat cls count rw migEn homeSet first stripe mirrorStep s
  | .freePages m gfa count heat => Sys2Proof.Machine.execFreePages m gfa count heat s
  | .memHeatFree m heat => Sys2Proof.Machine.execMemHeatFree m heat s
  | .memPageQuery m gfa => Sys2Proof.Machine.execMemPageQuery m gfa s
  | .memPageSet m gfa count rw migEn oldHeat newHeat => Sys2Proof.Machine.execMemPageSet m gfa count rw migEn oldHeat newHeat s
  | .memPageClearLost m gfa heat => Sys2Proof.Machine.execMemPageClearLost m gfa heat s
  | .memMigrate m gfa target => Sys2Proof.Machine.execMemMigrate m gfa target s
  | .memMirrorSet m gfa mirror => Sys2Proof.Machine.execMemMirrorSet m gfa mirror s
  | .memArbSet m fabric pour layer fettler => Sys2Proof.Machine.execMemArbSet m fabric pour layer fettler s
  | .memMigrateCtrl m on => Sys2Proof.Machine.execMemMigrateCtrl m on s
  | .memStats m => Sys2Proof.Machine.execMemStats m s
  | .memCacheFlush m => Sys2Proof.Machine.execMemCacheFlush m s
  | .pourRegister m desc => Sys2Proof.Machine.execPourRegister m desc s
  | .pourAbort m heat pourId => Sys2Proof.Machine.execPourAbort m heat pourId s
  | .pourQuery m heat pourId => Sys2Proof.Machine.execPourQuery m heat pourId s
  | .pourFenceMap m heat pourId select => Sys2Proof.Machine.execPourFenceMap m heat pourId select s
  | .msetBegin m index count => Sys2Proof.Machine.execMsetBegin m index count s
  | .msetWrite m index first entries => Sys2Proof.Machine.execMsetWrite m index first entries s
  | .msetSeal m index kind => Sys2Proof.Machine.execMsetSeal m index kind s
  | .msetFree m index => Sys2Proof.Machine.execMsetFree m index s
  | .msetRead m index first => Sys2Proof.Machine.execMsetRead m index first s
  | .pourClassSet m cls weight => Sys2Proof.Machine.execPourClassSet m cls weight s
  | .pourSpillReserve m pages => Sys2Proof.Machine.execPourSpillReserve m pages s
  | .pourStats m => Sys2Proof.Machine.execPourStats m s
  | .layerSegBegin m heat seg descs tensors => Sys2Proof.Machine.execLayerSegBegin m heat seg descs tensors s
  | .layerTensorWrite m seg first entries => Sys2Proof.Machine.execLayerTensorWrite m seg first entries s
  | .layerDescWrite m seg first entries => Sys2Proof.Machine.execLayerDescWrite m seg first entries s
  | .layerSegSeal m seg => Sys2Proof.Machine.execLayerSegSeal m seg s
  | .layerSegPlace m seg bays maxRows => Sys2Proof.Machine.execLayerSegPlace m seg bays maxRows s
  | .layerSegRemove m seg => Sys2Proof.Machine.execLayerSegRemove m seg s
  | .layerRun m heat seg pass runTag fwdTag rows firstDesc lastDesc deadline pairs => Sys2Proof.Machine.execLayerRun m heat seg pass runTag fwdTag rows firstDesc lastDesc deadline pairs s
  | .layerAbort m heat seg => Sys2Proof.Machine.execLayerAbort m heat seg s
  | .layerQuery m seg => Sys2Proof.Machine.execLayerQuery m seg s
  | .layerSavedRelease m seg runTag => Sys2Proof.Machine.execLayerSavedRelease m seg runTag s
  | .layerStats m => Sys2Proof.Machine.execLayerStats m s
  | .updRuleSet m index entry => Sys2Proof.Machine.execUpdRuleSet m index entry s
  | .updRuleRead m index => Sys2Proof.Machine.execUpdRuleRead m index s
  | .updStateDefine m heat base elems kind slot t => Sys2Proof.Machine.execUpdStateDefine m heat base elems kind slot t s
  | .updStateMask m base region o k n kind bitmap => Sys2Proof.Machine.execUpdStateMask m base region o k n kind bitmap s
  | .updStateQuery m base => Sys2Proof.Machine.execUpdStateQuery m base s
  | .updStateRevert m base => Sys2Proof.Machine.execUpdStateRevert m base s
  | .updStateFree m base => Sys2Proof.Machine.execUpdStateFree m base s
  | .embTableDefine m heat base rows dim fmt kind buckets setIndex => Sys2Proof.Machine.execEmbTableDefine m heat base rows dim fmt kind buckets setIndex s
  | .embTableQuery m base => Sys2Proof.Machine.execEmbTableQuery m base s
  | .embTableFree m base => Sys2Proof.Machine.execEmbTableFree m base s
  | .updStats m => Sys2Proof.Machine.execUpdStats m s
  | .clkStatus m => Sys2Proof.Machine.execClkStatus m s
  | .clkAclkSwap m source => Sys2Proof.Machine.execClkAclkSwap m source s
  | .clkobsSet m code divider => Sys2Proof.Machine.execClkobsSet m code divider s
  | .clkTrim m source link => Sys2Proof.Machine.execClkTrim m source link s
  | .timeSet m link frame time => Sys2Proof.Machine.execTimeSet m link frame time s
  | .clkMonRead m code => Sys2Proof.Machine.execClkMonRead m code s
  | .clkPlan m => Sys2Proof.Machine.execClkPlan m s
  | .pwrStatus m => Sys2Proof.Machine.execPwrStatus m s
  | .pwrProfileSet m profile => Sys2Proof.Machine.execPwrProfileSet m profile s
  | .pwrProfileRead m => Sys2Proof.Machine.execPwrProfileRead m s
  | .pwrStats m => Sys2Proof.Machine.execPwrStats m s
  | .relStatus m => Sys2Proof.Machine.execRelStatus m s
  | .riserPolicy m auto ageMin flaskLimit frameLimit scrubH => Sys2Proof.Machine.execRiserPolicy m auto ageMin flaskLimit frameLimit scrubH s
  | .riserFlaskSwap m bay flask => Sys2Proof.Machine.execRiserFlaskSwap m bay flask s
  | .frameRetire m frame => Sys2Proof.Machine.execFrameRetire m frame s
  | .stackFail m stack => Sys2Proof.Machine.execStackFail m stack s
  | .agingRead m bay => Sys2Proof.Machine.execAgingRead m bay s
  | .riserHistoryRead m first => Sys2Proof.Machine.execRiserHistoryRead m first s
  | .shakeoutStatus m => Sys2Proof.Machine.execShakeoutStatus m s
  | .shakeoutRead m first count nonce sign => Sys2Proof.Machine.execShakeoutRead m first count nonce sign s
  | .shakeoutUnfreeze m freezeSeq => Sys2Proof.Machine.execShakeoutUnfreeze m freezeSeq s
  | .faultSubscribe m endpoint cls severity => Sys2Proof.Machine.execFaultSubscribe m endpoint cls severity s
  | .faultUnsubscribe m endpoint => Sys2Proof.Machine.execFaultUnsubscribe m endpoint s
  | .relStats m => Sys2Proof.Machine.execRelStats m s
  | .secStatus m => Sys2Proof.Machine.execSecStatus m s
  | .secAttest m nonce => Sys2Proof.Machine.execSecAttest m nonce s
  | .secIdentityRead m => Sys2Proof.Machine.execSecIdentityRead m s
  | .secRollbackCommit m v => Sys2Proof.Machine.execSecRollbackCommit m v s
  | .secRootRead m => Sys2Proof.Machine.execSecRootRead m s
  | .secStats m => Sys2Proof.Machine.execSecStats m s
  | .assayStatus m => Sys2Proof.Machine.execAssayStatus m s
  | .assayRead m channel => Sys2Proof.Machine.execAssayRead m channel s
  | .assayAttrib m heat => Sys2Proof.Machine.execAssayAttrib m heat s
  | .assayAttribList m first => Sys2Proof.Machine.execAssayAttribList m first s
  | .detStatus m heat => Sys2Proof.Machine.execDetStatus m heat s
  | .detRecordOpen m heat record scope => Sys2Proof.Machine.execDetRecordOpen m heat record scope s
  | .detDigestRange m heat kind gfa length => Sys2Proof.Machine.execDetDigestRange m heat kind gfa length s
  | .detRecordClose m heat scope sign => Sys2Proof.Machine.execDetRecordClose m heat scope sign s
  | .detRecordRead m heat => Sys2Proof.Machine.execDetRecordRead m heat s
  | .detStepSet m heat step => Sys2Proof.Machine.execDetStepSet m heat step s
  | .saveHeat m heat endpoint offset waitLimit cont => Sys2Proof.Machine.execSaveHeat m heat endpoint offset waitLimit cont s
  | .resumeHeat m endpoint offset length digest => Sys2Proof.Machine.execResumeHeat m endpoint offset length digest s
  | .sbIdentify => Sys2Proof.Machine.execSbIdentify s
  | .sbCoord => Sys2Proof.Machine.execSbCoord s
  | .sbGroupSet data pec => Sys2Proof.Machine.execSbGroupSet data pec s
  | .sbCountSet data pec => Sys2Proof.Machine.execSbCountSet data pec s
  | .sbHealth => Sys2Proof.Machine.execSbHealth s
  | .sbShakeout => Sys2Proof.Machine.execSbShakeout s
  | .sbAssay => Sys2Proof.Machine.execSbAssay s
  | .sbStatus => Sys2Proof.Machine.execSbStatus s
  | .sbUndefinedCode code write data pec => Sys2Proof.Machine.execSbUndefinedCode code write data pec s
  | .sbSnapshotRefresh => Sys2Proof.Machine.execSbSnapshotRefresh s
  | .asIdent => Sys2Proof.Machine.execAsIdent s
  | .asSign channel nonce pec => Sys2Proof.Machine.execAsSign channel nonce pec s
  | .asSignedReadingReady => Sys2Proof.Machine.execAsSignedReadingReady s
  | .asReading => Sys2Proof.Machine.execAsReading s
  | .asParam param channel pec => Sys2Proof.Machine.execAsParam param channel pec s
  | .asTrail index pec => Sys2Proof.Machine.execAsTrail index pec s
  | .asCert => Sys2Proof.Machine.execAsCert s
  | .asChange block pec => Sys2Proof.Machine.execAsChange block pec s
  | .asStatus => Sys2Proof.Machine.execAsStatus s
  | .asUndefinedCode code write => Sys2Proof.Machine.execAsUndefinedCode code write s
  | .bypass => Sys2Proof.Machine.execBypass s
  | .idcode => Sys2Proof.Machine.execIdcode s
  | .samplePreload bits => Sys2Proof.Machine.execSamplePreload bits s
  | .extest => Sys2Proof.Machine.execExtest s
  | .clamp => Sys2Proof.Machine.execClamp s
  | .highz => Sys2Proof.Machine.execHighz s
  | .clkobsSelWrite value => Sys2Proof.Machine.execClkobsSelWrite value s
  | .clkobsRst => Sys2Proof.Machine.execClkobsRst s
  | .clkEnWrite value => Sys2Proof.Machine.execClkEnWrite value s
  | .timeLoRead => Sys2Proof.Machine.execTimeLoRead s
  | .clkobsMuxRelease => Sys2Proof.Machine.execClkobsMuxRelease s
  | .cmd pkt => Sys2Proof.Machine.execCmd pkt s
  | .commandStart queue => Sys2Proof.Machine.execCommandStart queue s
  | .packetReceive link frame ecc => Sys2Proof.Machine.execPacketReceive link frame ecc s
  | .packetDepart port ecc => Sys2Proof.Machine.execPacketDepart port ecc s
  | .contrib pkt => Sys2Proof.Machine.execContrib pkt s
  | .chunkRounded heat pourId chunk => Sys2Proof.Machine.execChunkRounded heat pourId chunk s
  | .result pkt => Sys2Proof.Machine.execResult pkt s
  | .chunkMark pkt => Sys2Proof.Machine.execChunkMark pkt s
  | .mgmt pkt => Sys2Proof.Machine.execMgmt pkt s
  | .ack ans => Sys2Proof.Machine.execAck ans s
  | .nak ans => Sys2Proof.Machine.execNak ans s
  | .resendTimeout src dst stream seq => Sys2Proof.Machine.execResendTimeout src dst stream seq s
  | .gapTimeout src stream dst => Sys2Proof.Machine.execGapTimeout src stream dst s
  | .put pkt copy => Sys2Proof.Machine.execPut pkt copy s
  | .get pkt corrected uncorrected => Sys2Proof.Machine.execGet pkt corrected uncorrected s
  | .gatherRows pkt corrected uncorrected => Sys2Proof.Machine.execGatherRows pkt corrected uncorrected s
  | .atomic pkt corrected uncorrected => Sys2Proof.Machine.execAtomic pkt corrected uncorrected s
  | .getReply pkt => Sys2Proof.Machine.execGetReply pkt s
  | .fwdDone src stream seq home result cause => Sys2Proof.Machine.execFwdDone src stream seq home result cause s
  | .fwdAck src stream seq entry => Sys2Proof.Machine.execFwdAck src stream seq entry s
  | .fwdReforwardTimeout src stream seq => Sys2Proof.Machine.execFwdReforwardTimeout src stream seq s
  | .fwdDoneResendTimeout src stream seq => Sys2Proof.Machine.execFwdDoneResendTimeout src stream seq s
  | .credit link half counts => Sys2Proof.Machine.execCredit link half counts s
  | .creditSendTick link half => Sys2Proof.Machine.execCreditSendTick link half s
  | .creditTimeout link => Sys2Proof.Machine.execCreditTimeout link s
  | .ventEscape queue => Sys2Proof.Machine.execVentEscape queue s
  | .levelFallRelease link vc => Sys2Proof.Machine.execLevelFallRelease link vc s
  | .policerRefill port => Sys2Proof.Machine.execPolicerRefill port s
  | .windowEdge port => Sys2Proof.Machine.execWindowEdge port s
  | .cycleStart port => Sys2Proof.Machine.execCycleStart port s
  | .scheduleFlip port => Sys2Proof.Machine.execScheduleFlip port s
  | .ident link body => Sys2Proof.Machine.execIdent link body s
  | .identSendTick link => Sys2Proof.Machine.execIdentSendTick link s
  | .trainingSet link obs => Sys2Proof.Machine.execTrainingSet link obs s
  | .laneCkLock link measured => Sys2Proof.Machine.execLaneCkLock link measured s
  | .linkDeskew link skew => Sys2Proof.Machine.execLinkDeskew link skew s
  | .trainingStepTimeout link => Sys2Proof.Machine.execTrainingStepTimeout link s
  | .trainingRestart link => Sys2Proof.Machine.execTrainingRestart link s
  | .linkLost link ck => Sys2Proof.Machine.execLinkLost link ck s
  | .lostLockRetrain link => Sys2Proof.Machine.execLostLockRetrain link s
  | .coordinatesSetResume link => Sys2Proof.Machine.execCoordinatesSetResume link s
  | .cvThresholdSwapProposal link lane => Sys2Proof.Machine.execCvThresholdSwapProposal link lane s
  | .swapReq link lane marker => Sys2Proof.Machine.execSwapReq link lane marker s
  | .swapAck link lane marker => Sys2Proof.Machine.execSwapAck link lane marker s
  | .swapMarkerReached link tx straddles => Sys2Proof.Machine.execSwapMarkerReached link tx straddles s
  | .startOfFrame link frameNo => Sys2Proof.Machine.execStartOfFrame link frameNo s
  | .startOfFrameSend link => Sys2Proof.Machine.execStartOfFrameSend link s
  | .registerPour lead desc step ruleDig stateDig => Sys2Proof.Machine.execRegisterPour lead desc step ruleDig stateDig s
  | .regAck home heat pourId tag setOk accepted p1 => Sys2Proof.Machine.execRegAck home heat pourId tag setOk accepted p1 s
  | .regAckTimeout heat pourId => Sys2Proof.Machine.execRegAckTimeout heat pourId s
  | .openPour heat pourId p1 => Sys2Proof.Machine.execOpenPour heat pourId p1 s
  | .roundDone home heat pourId status ovf => Sys2Proof.Machine.execRoundDone home heat pourId status ovf s
  | .commitPour heat pourId => Sys2Proof.Machine.execCommitPour heat pourId s
  | .rowUpdate peer heat pourId base rule rc step row delta => Sys2Proof.Machine.execRowUpdate peer heat pourId base rule rc step row delta s
  | .fenceQuery heat pourId member => Sys2Proof.Machine.execFenceQuery heat pourId member s
  | .fenceReply home heat pourId member complete => Sys2Proof.Machine.execFenceReply home heat pourId member complete s
  | .abortPour heat pourId status => Sys2Proof.Machine.execAbortPour heat pourId status s
  | .abortAck home heat pourId rounded => Sys2Proof.Machine.execAbortAck home heat pourId rounded s
  | .abortAckTimeout heat pourId => Sys2Proof.Machine.execAbortAckTimeout heat pourId s
  | .endPour heat pourId status cause committed => Sys2Proof.Machine.execEndPour heat pourId status cause committed s
  | .pourDeadline heat pourId => Sys2Proof.Machine.execPourDeadline heat pourId s
  | .tombstoneExpiry heat pourId => Sys2Proof.Machine.execTombstoneExpiry heat pourId s
  | .bayOwnershipTransfer bay => Sys2Proof.Machine.execBayOwnershipTransfer bay s
  | .bayTransferTimeout seg => Sys2Proof.Machine.execBayTransferTimeout seg s
  | .layerRunStart seg => Sys2Proof.Machine.execLayerRunStart seg s
  | .layerDescriptorDone seg => Sys2Proof.Machine.execLayerDescriptorDone seg s
  | .layerRunDeadline seg => Sys2Proof.Machine.execLayerRunDeadline seg s
  | .flaskUncorrectable bay flask => Sys2Proof.Machine.execFlaskUncorrectable bay flask s
  | .segmentPlaced seg => Sys2Proof.Machine.execSegmentPlaced seg s
  | .patternBookWalk peer gfa => Sys2Proof.Machine.execPatternBookWalk peer gfa s
  | .walkReply gfa entry => Sys2Proof.Machine.execWalkReply gfa entry s
  | .invalidation gfa entry peer note => Sys2Proof.Machine.execInvalidation gfa entry peer note s
  | .invalidationAck gfa peer => Sys2Proof.Machine.execInvalidationAck gfa peer s
  | .migrationCopyDone gfa => Sys2Proof.Machine.execMigrationCopyDone gfa s
  | .migrationRemap gfa => Sys2Proof.Machine.execMigrationRemap gfa s
  | .forwardingStubExpiry gfa => Sys2Proof.Machine.execForwardingStubExpiry gfa s
  | .frameRetirementDone frame => Sys2Proof.Machine.execFrameRetirementDone frame s
  | .mirrorResyncDone gfa => Sys2Proof.Machine.execMirrorResyncDone gfa s
  | .stackFailed stack => Sys2Proof.Machine.execStackFailed stack s
  | .stackFailureDetected stack => Sys2Proof.Machine.execStackFailureDetected stack s
  | .frameZeroed frame => Sys2Proof.Machine.execFrameZeroed frame s
  | .sliceRecordQuery peer heat gfas => Sys2Proof.Machine.execSliceRecordQuery peer heat gfas s
  | .fenceNotice peer endpoint => Sys2Proof.Machine.execFenceNotice peer endpoint s
  | .unfenceNotice peer endpoint => Sys2Proof.Machine.execUnfenceNotice peer endpoint s
  | .giveUpReport peer endpoint => Sys2Proof.Machine.execGiveUpReport peer endpoint s
  | .fenceProbeTimeout device => Sys2Proof.Machine.execFenceProbeTimeout device s
  | .endpointCreditStall link => Sys2Proof.Machine.execEndpointCreditStall link s
  | .routeUpdate peer link add => Sys2Proof.Machine.execRouteUpdate peer link add s
  | .routeTableFlip => Sys2Proof.Machine.execRouteTableFlip s
  | .linkDrained link => Sys2Proof.Machine.execLinkDrained link s
  | .drainTimeout link => Sys2Proof.Machine.execDrainTimeout link s
  | .pinningEnd group => Sys2Proof.Machine.execPinningEnd group s
  | .treeSetup peer entry => Sys2Proof.Machine.execTreeSetup peer entry s
  | .treeSetupReply peer tree ok => Sys2Proof.Machine.execTreeSetupReply peer tree ok s
  | .treeLinkRepair peer tree link => Sys2Proof.Machine.execTreeLinkRepair peer tree link s
  | .tundishRingTransfer half => Sys2Proof.Machine.execTundishRingTransfer half s
  | .tundishRebuildDone half => Sys2Proof.Machine.execTundishRebuildDone half s
  | .bankSwapCopyDone half lost => Sys2Proof.Machine.execBankSwapCopyDone half lost s
  | .heartbeat => Sys2Proof.Machine.execHeartbeat s
  | .coreTakeover => Sys2Proof.Machine.execCoreTakeover s
  | .standbyCoreReady pass => Sys2Proof.Machine.execStandbyCoreReady pass s
  | .fwSwitchStandbyLoaded ok => Sys2Proof.Machine.execFwSwitchStandbyLoaded ok s
  | .fwSwitchHandover => Sys2Proof.Machine.execFwSwitchHandover s
  | .fwSwitchDirectoryDone => Sys2Proof.Machine.execFwSwitchDirectoryDone s
  | .standbyPowerOn i2cAddr => Sys2Proof.Machine.execStandbyPowerOn i2cAddr s
  | .standbyPowerLoss => Sys2Proof.Machine.execStandbyPowerLoss s
  | .mainPowerGood mv => Sys2Proof.Machine.execMainPowerGood mv s
  | .resetNRelease straps => Sys2Proof.Machine.execResetNRelease straps s
  | .resetNAssert => Sys2Proof.Machine.execResetNAssert s
  | .resetLevel mv => Sys2Proof.Machine.execResetLevel mv s
  | .resetLevelRestart => Sys2Proof.Machine.execResetLevelRestart s
  | .brownoutWarning mv => Sys2Proof.Machine.execBrownoutWarning mv s
  | .brownoutRelease => Sys2Proof.Machine.execBrownoutRelease s
  | .thermalThrottle sensor celsius => Sys2Proof.Machine.execThermalThrottle sensor celsius s
  | .throttleRelease => Sys2Proof.Machine.execThrottleRelease s
  | .thermalShutdown sensor celsius => Sys2Proof.Machine.execThermalShutdown sensor celsius s
  | .coolFailAssert => Sys2Proof.Machine.execCoolFailAssert s
  | .coolFailShutdown => Sys2Proof.Machine.execCoolFailShutdown s
  | .coolFailRelease => Sys2Proof.Machine.execCoolFailRelease s
  | .refclkLoss => Sys2Proof.Machine.execRefclkLoss s
  | .refclkLossTimeout => Sys2Proof.Machine.execRefclkLossTimeout s
  | .refclkReturn => Sys2Proof.Machine.execRefclkReturn s
  | .aclkHang => Sys2Proof.Machine.execAclkHang s
  | .aclkSwapLocked => Sys2Proof.Machine.execAclkSwapLocked s
  | .pllFaultProposal => Sys2Proof.Machine.execPllFaultProposal s
  | .clockMonitorWindow readings => Sys2Proof.Machine.execClockMonitorWindow readings s
  | .trimUpdate reference => Sys2Proof.Machine.execTrimUpdate reference s
  | .timeBaseWrap => Sys2Proof.Machine.execTimeBaseWrap s
  | .cpllLock die => Sys2Proof.Machine.execCpllLock die s
  | .bayWakeDone bay => Sys2Proof.Machine.execBayWakeDone bay s
  | .bayIdleTimer bay => Sys2Proof.Machine.execBayIdleTimer bay s
  | .switchHalfBank half => Sys2Proof.Machine.execSwitchHalfBank half s
  | .switchHalfWake half => Sys2Proof.Machine.execSwitchHalfWake half s
  | .warmResetDone => Sys2Proof.Machine.execWarmResetDone s
  | .domainResetDone kind index => Sys2Proof.Machine.execDomainResetDone kind index s
  | .riserProposal kind unit => Sys2Proof.Machine.execRiserProposal kind unit s
  | .riserFlaskCopied bay flask => Sys2Proof.Machine.execRiserFlaskCopied bay flask s
  | .riserProposalLapse kind unit => Sys2Proof.Machine.execRiserProposalLapse kind unit s
  | .agingMonitorReport margins => Sys2Proof.Machine.execAgingMonitorReport margins s
  | .hbmScrub frame corrected uncorrected => Sys2Proof.Machine.execHbmScrub frame corrected uncorrected s
  | .pageCacheRevalidate => Sys2Proof.Machine.execPageCacheRevalidate s
  | .flaskSramScrub counts => Sys2Proof.Machine.execFlaskSramScrub counts s
  | .tundishScrub half corrected uncorrected => Sys2Proof.Machine.execTundishScrub half corrected uncorrected s
  | .shakeoutWrite => Sys2Proof.Machine.execShakeoutWrite s
  | .signatureDone => Sys2Proof.Machine.execSignatureDone s
  | .rollbackFuseBlown ok => Sys2Proof.Machine.execRollbackFuseBlown ok s
  | .saveHeatWaitDone heat => Sys2Proof.Machine.execSaveHeatWaitDone heat s
  | .saveHeatWaitTimeout heat => Sys2Proof.Machine.execSaveHeatWaitTimeout heat s
  | .recordCloseReply peer heat body => Sys2Proof.Machine.execRecordCloseReply peer heat body s
  | .recordCloseTimeout heat => Sys2Proof.Machine.execRecordCloseTimeout heat s
  | .assaySample channel volts amps => Sys2Proof.Machine.execAssaySample channel volts amps s
  | .assayNvCommit => Sys2Proof.Machine.execAssayNvCommit s
  | .assayVddGood straps => Sys2Proof.Machine.execAssayVddGood straps s
  | .assayVddFalling => Sys2Proof.Machine.execAssayVddFalling s
  | .sealOpenChange isOpen => Sys2Proof.Machine.execSealOpenChange isOpen s
  | .assayFrameSend => Sys2Proof.Machine.execAssayFrameSend s
  | .assayFrame bytes => Sys2Proof.Machine.execAssayFrame bytes s
  | .assaySilent => Sys2Proof.Machine.execAssaySilent s
  | .fwSwitchStepTimeout => Sys2Proof.Machine.execFwSwitchStepTimeout s
  | .domainResetWaitTimeout bay => Sys2Proof.Machine.execDomainResetWaitTimeout bay s
  | .digestRangeDone heat => Sys2Proof.Machine.execDigestRangeDone heat s
  | .controlBlockDiscard link body => Sys2Proof.Machine.execControlBlockDiscard link body s
  | .badColumn link rd groups => Sys2Proof.Machine.execBadColumn link rd groups s
  | .fenceProbe peer => Sys2Proof.Machine.execFenceProbe peer s
  | .fenceProbeReply device => Sys2Proof.Machine.execFenceProbeReply device s
  | .standbyPowerSettled => Sys2Proof.Machine.execStandbyPowerSettled s
  | .refresh2xChange stack celsius => Sys2Proof.Machine.execRefresh2xChange stack celsius s
  | .mirrorConfirm src stream seq => Sys2Proof.Machine.execMirrorConfirm src stream seq s
  | .routeChangeAck peer link => Sys2Proof.Machine.execRouteChangeAck peer link s
  | .sliceRecordReply peer gfa covers => Sys2Proof.Machine.execSliceRecordReply peer gfa covers s

end Sys2Proof.Machine
end

