-- ==== Sys2Proof/Machine/Params.lean ====
section
/-! DEFINITION. The opcode and the parameter bytes an endpoint sends for each command of port 56 (R353, R471). -/
namespace Sys2Proof.Machine

/-- The bytes of a list of `w`-byte numbers. -/
def numberBytes (w : Nat) (l : List Nat) : List Byte := l.flatMap (leBytes w)

/-- The bytes of a list of pairs of a 2-byte and an 8-byte number. -/
def pairBytes (l : List (Nat × Nat)) : List Byte := l.flatMap fun x => leBytes 2 x.1 ++ leBytes 8 x.2

/-- What a CMD of a command carries: its metadata, opcode and parameter bytes; none for a row that is no command of port 56. -/
def paramsOf (i : Instr) : Option (CmdMeta × Nat × List Byte) :=
  match i with
  | .devIdentify m => some (m, 0x0000, [])
  | .devHealth m => some (m, 0x0001, [])
  | .heatBind m heat f c mask => some (m, 0x0002, packFields [(4, heat), (1, f), (1, c), (4, mask)])
  | .heatUnbind m heat => some (m, 0x0003, packFields [(4, heat)])
  | .heatList m first => some (m, 0x0004, packFields [(2, first)])
  | .devResetWarm m confirm => some (m, 0x0008, packFields [(4, confirm)])
  | .devResetDomain m kind index => some (m, 0x0009, packFields [(1, kind), (1, index)])
  | .csrRead m addr count => some (m, 0x0010, packFields [(4, addr), (1, count)])
  | .csrWrite m addr count words => some (m, 0x0011, packFields [(4, addr), (1, count)] ++ numberBytes 4 words)
  | .devBlockState m addr => some (m, 0x0012, packFields [(4, addr)])
  | .fwStatus m => some (m, 0x0020, [])
  | .fwWrite m slot offset data => some (m, 0x0021, packFields [(1, slot), (4, offset)] ++ data)
  | .fwVerify m slot => some (m, 0x0022, packFields [(1, slot)])
  | .fwSwitch m slot => some (m, 0x0023, packFields [(1, slot)])
  | .devEcho m data => some (m, 0x0030, data)
  | .linkStatus m link => some (m, 0x0100, packFields [(1, link)])
  | .linkConfig m link rate ceiling cvThresh enable clearSwap => some (m, 0x0101, packFields [(1, link), (1, rate), (1, ceiling), (2, cvThresh), (1, enable), (1, clearSwap)])
  | .linkRetrain m link => some (m, 0x0102, packFields [(1, link)])
  | .linkDown m link force => some (m, 0x0103, packFields [(1, link), (1, force)])
  | .linkLaneSwap m link lane => some (m, 0x0104, packFields [(1, link), (1, lane)])
  | .linkEqRead m link lane rate => some (m, 0x0105, packFields [(1, link), (1, lane), (1, rate)])
  | .linkEqSet m link lane rate entry => some (m, 0x0106, packFields [(1, link), (1, lane), (1, rate), (8, entry)])
  | .linkNeighbour m link => some (m, 0x0107, packFields [(1, link)])
  | .linkStats m link => some (m, 0x0110, packFields [(1, link)])
  | .routeStatus m => some (m, 0x0200, [])
  | .routeLinkClose m link => some (m, 0x0201, packFields [(1, link)])
  | .routeLinkOpen m link => some (m, 0x0202, packFields [(1, link)])
  | .routeParamSet m ventWait nmBias drainMax => some (m, 0x0203, packFields [(2, ventWait), (2, nmBias), (2, drainMax)])
  | .routeSpread m on => some (m, 0x0204, packFields [(1, on)])
  | .routeTest m on => some (m, 0x0205, packFields [(1, on)])
  | .routeReserve m mask heat => some (m, 0x0206, packFields [(4, mask), (4, heat)])
  | .routeCreditSet m link vc allowance => some (m, 0x0210, packFields [(1, link), (1, vc), (4, allowance)])
  | .routeTreeRead m root tree => some (m, 0x0220, packFields [(2, root), (4, tree)])
  | .routeFenceList m first => some (m, 0x0221, packFields [(4, first)])
  | .routeStats m => some (m, 0x0230, [])
  | .tundishStatus m half => some (m, 0x0300, packFields [(1, half)])
  | .tundishThreshSet m port cls warn slow stop => some (m, 0x0301, packFields [(1, port), (1, cls), (4, warn), (4, slow), (4, stop)])
  | .tundishPoolSet m half warn slow stop reserve => some (m, 0x0302, packFields [(1, half), (4, warn), (4, slow), (4, stop), (4, reserve)])
  | .tundishBankSwap m half bank => some (m, 0x0303, packFields [(1, half), (1, bank)])
  | .queueAlloc m port cls heat => some (m, 0x0310, packFields [(1, port), (1, cls), (4, heat)])
  | .queueFree m queue => some (m, 0x0311, packFields [(4, queue)])
  | .queueQuery m queue => some (m, 0x0312, packFields [(4, queue)])
  | .tundishStats m => some (m, 0x0320, [])
  | .schedStatus m port => some (m, 0x0400, packFields [(1, port)])
  | .schedClassWeight m port cls weight => some (m, 0x0401, packFields [(1, port), (1, cls), (1, weight)])
  | .schedQueueWeight m queue weight => some (m, 0x0402, packFields [(4, queue), (1, weight)])
  | .schedWinWrite m port first entries => some (m, 0x0410, packFields [(1, port), (2, first)] ++ numberBytes 8 entries)
  | .schedWinCommit m port count cycleNs idleMask guardNs activateAt => some (m, 0x0411, packFields [(1, port), (2, count), (4, cycleNs), (1, idleMask), (2, guardNs), (8, activateAt)])
  | .schedWinOff m port activateAt => some (m, 0x0412, packFields [(1, port), (8, activateAt)])
  | .schedWinRead m port table first => some (m, 0x0413, packFields [(1, port), (1, table), (2, first)])
  | .policerSet m port kind stream cls r b => some (m, 0x0420, packFields [(1, port), (1, kind), (4, stream), (1, cls), (2, r), (4, b)])
  | .policerRead m port kind stream cls => some (m, 0x0421, packFields [(1, port), (1, kind), (4, stream), (1, cls)])
  | .schedSample m queue on => some (m, 0x0430, packFields [(4, queue), (1, on)])
  | .schedHistRead m queue clear => some (m, 0x0431, packFields [(4, queue), (1, clear)])
  | .schedSampleRate m shift => some (m, 0x0432, packFields [(1, shift)])
  | .schedStats m port => some (m, 0x0440, packFields [(1, port)])
  | .allocPages m heat cls count rw migEn homeSet first stripe mirrorStep => some (m, 0x0500, packFields [(4, heat), (1, cls), (4, count), (1, rw), (1, migEn), (2, homeSet), (2, first), (4, stripe), (2, mirrorStep)])
  | .freePages m gfa count heat => some (m, 0x0501, packFields [(8, gfa), (4, count), (4, heat)])
  | .memHeatFree m heat => some (m, 0x0502, packFields [(4, heat)])
  | .memPageQuery m gfa => some (m, 0x0503, packFields [(8, gfa)])
  | .memPageSet m gfa count rw migEn oldHeat newHeat => some (m, 0x0504, packFields [(8, gfa), (4, count), (1, rw), (1, migEn), (4, oldHeat), (4, newHeat)])
  | .memPageClearLost m gfa heat => some (m, 0x0505, packFields [(8, gfa), (4, heat)])
  | .memMigrate m gfa target => some (m, 0x0506, packFields [(8, gfa), (2, target)])
  | .memMirrorSet m gfa mirror => some (m, 0x0507, packFields [(8, gfa), (2, mirror)])
  | .memArbSet m fabric pour layer fettler => some (m, 0x0510, packFields [(1, fabric), (1, pour), (1, layer), (1, fettler)])
  | .memMigrateCtrl m on => some (m, 0x0511, packFields [(1, on)])
  | .memStats m => some (m, 0x0520, [])
  | .memCacheFlush m => some (m, 0x0521, [])
  | .pourRegister m desc => some (m, 0x0600, desc)
  | .pourAbort m heat pourId => some (m, 0x0601, packFields [(4, heat), (4, pourId)])
  | .pourQuery m heat pourId => some (m, 0x0602, packFields [(4, heat), (4, pourId)])
  | .pourFenceMap m heat pourId select => some (m, 0x0603, packFields [(4, heat), (4, pourId), (1, select)])
  | .msetBegin m index count => some (m, 0x0610, packFields [(2, index), (2, count)])
  | .msetWrite m index first entries => some (m, 0x0611, packFields [(2, index), (2, first)] ++ numberBytes 4 entries)
  | .msetSeal m index kind => some (m, 0x0612, packFields [(2, index), (1, kind)])
  | .msetFree m index => some (m, 0x0613, packFields [(2, index)])
  | .msetRead m index first => some (m, 0x0614, packFields [(2, index), (2, first)])
  | .pourClassSet m cls weight => some (m, 0x0620, packFields [(1, cls), (1, weight)])
  | .pourSpillReserve m pages => some (m, 0x0621, packFields [(4, pages)])
  | .pourStats m => some (m, 0x0630, [])
  | .layerSegBegin m heat seg descs tensors => some (m, 0x0700, packFields [(4, heat), (1, seg), (2, descs), (2, tensors)])
  | .layerTensorWrite m seg first entries => some (m, 0x0701, packFields [(1, seg), (2, first)] ++ numberBytes 32 entries)
  | .layerDescWrite m seg first entries => some (m, 0x0702, packFields [(1, seg), (2, first)] ++ numberBytes 32 entries)
  | .layerSegSeal m seg => some (m, 0x0703, packFields [(1, seg)])
  | .layerSegPlace m seg bays maxRows => some (m, 0x0704, packFields [(1, seg), (1, bays), (4, maxRows)])
  | .layerSegRemove m seg => some (m, 0x0705, packFields [(1, seg)])
  | .layerRun m heat seg pass runTag fwdTag rows firstDesc lastDesc deadline pairs => some (m, 0x0706, packFields [(4, heat), (1, seg), (1, pass), (4, runTag), (4, fwdTag), (4, rows), (2, firstDesc), (2, lastDesc), (4, deadline)] ++ pairBytes pairs)
  | .layerAbort m heat seg => some (m, 0x0707, packFields [(4, heat), (1, seg)])
  | .layerQuery m seg => some (m, 0x0708, packFields [(1, seg)])
  | .layerSavedRelease m seg runTag => some (m, 0x0709, packFields [(1, seg), (4, runTag)])
  | .layerStats m => some (m, 0x070A, [])
  | .updRuleSet m index entry => some (m, 0x0800, packFields [(2, index)] ++ entry)
  | .updRuleRead m index => some (m, 0x0801, packFields [(2, index)])
  | .updStateDefine m heat base elems kind slot t => some (m, 0x0810, packFields [(4, heat), (8, base), (8, elems), (1, kind), (1, slot), (4, t)])
  | .updStateMask m base region o k n kind bitmap => some (m, 0x0811, packFields [(8, base), (1, region), (8, o), (8, k), (8, n), (1, kind), (8, bitmap)])
  | .updStateQuery m base => some (m, 0x0812, packFields [(8, base)])
  | .updStateRevert m base => some (m, 0x0813, packFields [(8, base)])
  | .updStateFree m base => some (m, 0x0814, packFields [(8, base)])
  | .embTableDefine m heat base rows dim fmt kind buckets setIndex => some (m, 0x0820, packFields [(4, heat), (8, base), (8, rows), (2, dim), (1, fmt), (1, kind), (4, buckets), (2, setIndex)])
  | .embTableQuery m base => some (m, 0x0821, packFields [(8, base)])
  | .embTableFree m base => some (m, 0x0822, packFields [(8, base)])
  | .updStats m => some (m, 0x0830, [])
  | .clkStatus m => some (m, 0x0900, [])
  | .clkAclkSwap m source => some (m, 0x0901, packFields [(1, source)])
  | .clkobsSet m code divider => some (m, 0x0902, packFields [(1, code), (4, divider)])
  | .clkTrim m source link => some (m, 0x0903, packFields [(1, source), (1, link)])
  | .timeSet m link frame time => some (m, 0x0904, packFields [(1, link), (8, frame), (8, time)])
  | .clkMonRead m code => some (m, 0x0905, packFields [(1, code)])
  | .clkPlan m => some (m, 0x0906, [])
  | .pwrStatus m => some (m, 0x0910, [])
  | .pwrProfileSet m profile => some (m, 0x0911, profile)
  | .pwrProfileRead m => some (m, 0x0912, [])
  | .pwrStats m => some (m, 0x0913, [])
  | .relStatus m => some (m, 0x0A00, [])
  | .riserPolicy m auto ageMin flaskLimit frameLimit scrubH => some (m, 0x0A01, packFields [(1, auto), (1, ageMin), (1, flaskLimit), (1, frameLimit), (1, scrubH)])
  | .riserFlaskSwap m bay flask => some (m, 0x0A02, packFields [(1, bay), (1, flask)])
  | .frameRetire m frame => some (m, 0x0A03, packFields [(4, frame)])
  | .stackFail m stack => some (m, 0x0A04, packFields [(1, stack)])
  | .agingRead m bay => some (m, 0x0A05, packFields [(1, bay)])
  | .riserHistoryRead m first => some (m, 0x0A06, packFields [(2, first)])
  | .shakeoutStatus m => some (m, 0x0A10, [])
  | .shakeoutRead m first count nonce sign => some (m, 0x0A11, packFields [(4, first), (1, count)] ++ nonce ++ packFields [(1, sign)])
  | .shakeoutUnfreeze m freezeSeq => some (m, 0x0A12, packFields [(4, freezeSeq)])
  | .faultSubscribe m endpoint cls severity => some (m, 0x0A20, packFields [(4, endpoint), (1, cls), (1, severity)])
  | .faultUnsubscribe m endpoint => some (m, 0x0A21, packFields [(4, endpoint)])
  | .relStats m => some (m, 0x0A30, [])
  | .secStatus m => some (m, 0x0B00, [])
  | .secAttest m nonce => some (m, 0x0B01, nonce)
  | .secIdentityRead m => some (m, 0x0B02, [])
  | .secRollbackCommit m v => some (m, 0x0B03, packFields [(1, v)])
  | .secRootRead m => some (m, 0x0B04, [])
  | .secStats m => some (m, 0x0B10, [])
  | .assayStatus m => some (m, 0x0C00, [])
  | .assayRead m channel => some (m, 0x0C01, packFields [(1, channel)])
  | .assayAttrib m heat => some (m, 0x0C02, packFields [(4, heat)])
  | .assayAttribList m first => some (m, 0x0C03, packFields [(2, first)])
  | .detStatus m heat => some (m, 0x0D00, packFields [(4, heat)])
  | .detRecordOpen m heat record scope => some (m, 0x0D01, packFields [(4, heat), (4, record), (1, scope)])
  | .detDigestRange m heat kind gfa length => some (m, 0x0D02, packFields [(4, heat), (1, kind), (8, gfa), (8, length)])
  | .detRecordClose m heat scope sign => some (m, 0x0D03, packFields [(4, heat), (1, scope), (1, sign)])
  | .detRecordRead m heat => some (m, 0x0D04, packFields [(4, heat)])
  | .detStepSet m heat step => some (m, 0x0D10, packFields [(4, heat), (4, step)])
  | .saveHeat m heat endpoint offset waitLimit cont => some (m, 0x0D20, packFields [(4, heat), (4, endpoint), (8, offset), (2, waitLimit), (1, cont)])
  | .resumeHeat m endpoint offset length digest => some (m, 0x0D21, packFields [(4, endpoint), (8, offset), (8, length)] ++ digest)
  | _ => none

end Sys2Proof.Machine
end

