-- ==== Sys2Proof/WellFormed.lean ====
section
/-! DEFINITION. Well-formed commands: every operand lies within the field the manual gives it (R13, R14, R194, R232, R353, R471).
The meanings do not assume this: they refuse, fault or answer as the manual says. -/
namespace Sys2Proof

/-- A number lies below a bound. -/
def under (b n : Nat) : Bool := decide (n < b)

/-- A number fits a field of `w` bytes (R471). -/
def fits (w n : Nat) : Bool := decide (n < 256 ^ w)

/-- A list has between `lo` and `hi` elements. -/
def lengthIn {α : Type} (lo hi : Nat) (l : List α) : Bool := decide (lo ≤ l.length) && decide (l.length ≤ hi)

/-- Every number of a list fits a field of `w` bytes. -/
def allFit (w : Nat) (l : List Nat) : Bool := l.all (fits w)

/-- Every pair is a tensor index and a GFA (R128). -/
def pairsOk (l : List (Nat × Nat)) : Bool := l.all fun x => fits 2 x.1 && fits 8 x.2

/-- Header fields of a CMD (R353). -/
def metaOk (m : CmdMeta) : Bool :=
  decide (m.src < 2 ^ 18) && decide (m.tag < 2 ^ 16) && decide (m.cls < 8) && decide (m.resv < 2 ^ 52)

/-- Header fields of a packet (R232) and a payload of at most 64 cells (R231). -/
def packetOk (p : Packet) : Bool :=
  decide (p.typ < 2 ^ 8) && decide (p.cls < 8) && decide (p.dst < 2 ^ 18) && decide (p.src < 2 ^ 18)
  && decide (p.stream < 2 ^ 20) && decide (p.seq < 2 ^ 24) && decide (p.heat < 2 ^ 32) && decide (p.addr < 2 ^ 64)
  && decide (p.args < 2 ^ 32) && decide (p.route < 2 ^ 16) && decide (p.resv < 2 ^ 18) && decide (p.pcrc < 2 ^ 32)
  && decide (p.payload.length ≤ 2560)

/-- A header cell and whole payload cells (R231). -/
def frameOk (f : Frame) : Bool := decide (f.hdr.length = 40) && decide (f.cells.length % 40 = 0) && f.viol.all (under 9)

/-- An answer in packet form, or a control block of 16 bytes. -/
def answerOk (a : AnswerIn) : Bool :=
  match a with
  | .packet p => packetOk p
  | .block l b => under 52 l && decide (b.length = 16)

/-- A command is well formed. -/
def wellFormed (i : Instr) : Bool :=
  match i with
  | .devIdentify m => metaOk m
  | .devHealth m => metaOk m
  | .heatBind m heat f c mask => metaOk m && fits 4 heat && fits 1 f && fits 1 c && fits 4 mask
  | .heatUnbind m heat => metaOk m && fits 4 heat
  | .heatList m first => metaOk m && fits 2 first
  | .devResetWarm m confirm => metaOk m && fits 4 confirm
  | .devResetDomain m kind index => metaOk m && fits 1 kind && fits 1 index
  | .csrRead m addr count => metaOk m && fits 4 addr && fits 1 count
  | .csrWrite m addr count words => metaOk m && fits 4 addr && fits 1 count && lengthIn count count words && allFit 4 words
  | .devBlockState m addr => metaOk m && fits 4 addr
  | .fwStatus m => metaOk m
  | .fwWrite m slot offset data => metaOk m && fits 1 slot && fits 4 offset && lengthIn 1 2048 data
  | .fwVerify m slot => metaOk m && fits 1 slot
  | .fwSwitch m slot => metaOk m && fits 1 slot
  | .devEcho m data => metaOk m && lengthIn 0 2560 data
  | .linkStatus m link => metaOk m && fits 1 link
  | .linkConfig m link rate ceiling cvThresh enable clearSwap => metaOk m && fits 1 link && fits 1 rate && fits 1 ceiling && fits 2 cvThresh && fits 1 enable && fits 1 clearSwap
  | .linkRetrain m link => metaOk m && fits 1 link
  | .linkDown m link force => metaOk m && fits 1 link && fits 1 force
  | .linkLaneSwap m link lane => metaOk m && fits 1 link && fits 1 lane
  | .linkEqRead m link lane rate => metaOk m && fits 1 link && fits 1 lane && fits 1 rate
  | .linkEqSet m link lane rate entry => metaOk m && fits 1 link && fits 1 lane && fits 1 rate && fits 8 entry
  | .linkNeighbour m link => metaOk m && fits 1 link
  | .linkStats m link => metaOk m && fits 1 link
  | .routeStatus m => metaOk m
  | .routeLinkClose m link => metaOk m && fits 1 link
  | .routeLinkOpen m link => metaOk m && fits 1 link
  | .routeParamSet m ventWait nmBias drainMax => metaOk m && fits 2 ventWait && fits 2 nmBias && fits 2 drainMax
  | .routeSpread m on => metaOk m && fits 1 on
  | .routeTest m on => metaOk m && fits 1 on
  | .routeReserve m mask heat => metaOk m && fits 4 mask && fits 4 heat
  | .routeCreditSet m link vc allowance => metaOk m && fits 1 link && fits 1 vc && fits 4 allowance
  | .routeTreeRead m root tree => metaOk m && fits 2 root && fits 4 tree
  | .routeFenceList m first => metaOk m && fits 4 first
  | .routeStats m => metaOk m
  | .tundishStatus m half => metaOk m && fits 1 half
  | .tundishThreshSet m port cls warn slow stop => metaOk m && fits 1 port && fits 1 cls && fits 4 warn && fits 4 slow && fits 4 stop
  | .tundishPoolSet m half warn slow stop reserve => metaOk m && fits 1 half && fits 4 warn && fits 4 slow && fits 4 stop && fits 4 reserve
  | .tundishBankSwap m half bank => metaOk m && fits 1 half && fits 1 bank
  | .queueAlloc m port cls heat => metaOk m && fits 1 port && fits 1 cls && fits 4 heat
  | .queueFree m queue => metaOk m && fits 4 queue
  | .queueQuery m queue => metaOk m && fits 4 queue
  | .tundishStats m => metaOk m
  | .schedStatus m port => metaOk m && fits 1 port
  | .schedClassWeight m port cls weight => metaOk m && fits 1 port && fits 1 cls && fits 1 weight
  | .schedQueueWeight m queue weight => metaOk m && fits 4 queue && fits 1 weight
  | .schedWinWrite m port first entries => metaOk m && fits 1 port && fits 2 first && lengthIn 1 128 entries && allFit 8 entries
  | .schedWinCommit m port count cycleNs idleMask guardNs activateAt => metaOk m && fits 1 port && fits 2 count && fits 4 cycleNs && fits 1 idleMask && fits 2 guardNs && fits 8 activateAt
  | .schedWinOff m port activateAt => metaOk m && fits 1 port && fits 8 activateAt
  | .schedWinRead m port table first => metaOk m && fits 1 port && fits 1 table && fits 2 first
  | .policerSet m port kind stream cls r b => metaOk m && fits 1 port && fits 1 kind && fits 4 stream && fits 1 cls && fits 2 r && fits 4 b
  | .policerRead m port kind stream cls => metaOk m && fits 1 port && fits 1 kind && fits 4 stream && fits 1 cls
  | .schedSample m queue on => metaOk m && fits 4 queue && fits 1 on
  | .schedHistRead m queue clear => metaOk m && fits 4 queue && fits 1 clear
  | .schedSampleRate m shift => metaOk m && fits 1 shift
  | .schedStats m port => metaOk m && fits 1 port
  | .allocPages m heat cls count rw migEn homeSet first stripe mirrorStep => metaOk m && fits 4 heat && fits 1 cls && fits 4 count && fits 1 rw && fits 1 migEn && fits 2 homeSet && fits 2 first && fits 4 stripe && fits 2 mirrorStep
  | .freePages m gfa count heat => metaOk m && fits 8 gfa && fits 4 count && fits 4 heat
  | .memHeatFree m heat => metaOk m && fits 4 heat
  | .memPageQuery m gfa => metaOk m && fits 8 gfa
  | .memPageSet m gfa count rw migEn oldHeat newHeat => metaOk m && fits 8 gfa && fits 4 count && fits 1 rw && fits 1 migEn && fits 4 oldHeat && fits 4 newHeat
  | .memPageClearLost m gfa heat => metaOk m && fits 8 gfa && fits 4 heat
  | .memMigrate m gfa target => metaOk m && fits 8 gfa && fits 2 target
  | .memMirrorSet m gfa mirror => metaOk m && fits 8 gfa && fits 2 mirror
  | .memArbSet m fabric pour layer fettler => metaOk m && fits 1 fabric && fits 1 pour && fits 1 layer && fits 1 fettler
  | .memMigrateCtrl m on => metaOk m && fits 1 on
  | .memStats m => metaOk m
  | .memCacheFlush m => metaOk m
  | .pourRegister m desc => metaOk m && lengthIn 0 2560 desc
  | .pourAbort m heat pourId => metaOk m && fits 4 heat && fits 4 pourId
  | .pourQuery m heat pourId => metaOk m && fits 4 heat && fits 4 pourId
  | .pourFenceMap m heat pourId select => metaOk m && fits 4 heat && fits 4 pourId && fits 1 select
  | .msetBegin m index count => metaOk m && fits 2 index && fits 2 count
  | .msetWrite m index first entries => metaOk m && fits 2 index && fits 2 first && lengthIn 1 600 entries && allFit 4 entries
  | .msetSeal m index kind => metaOk m && fits 2 index && fits 1 kind
  | .msetFree m index => metaOk m && fits 2 index
  | .msetRead m index first => metaOk m && fits 2 index && fits 2 first
  | .pourClassSet m cls weight => metaOk m && fits 1 cls && fits 1 weight
  | .pourSpillReserve m pages => metaOk m && fits 4 pages
  | .pourStats m => metaOk m
  | .layerSegBegin m heat seg descs tensors => metaOk m && fits 4 heat && fits 1 seg && fits 2 descs && fits 2 tensors
  | .layerTensorWrite m seg first entries => metaOk m && fits 1 seg && fits 2 first && lengthIn 1 60 entries && allFit 32 entries
  | .layerDescWrite m seg first entries => metaOk m && fits 1 seg && fits 2 first && lengthIn 1 60 entries && allFit 32 entries
  | .layerSegSeal m seg => metaOk m && fits 1 seg
  | .layerSegPlace m seg bays maxRows => metaOk m && fits 1 seg && fits 1 bays && fits 4 maxRows
  | .layerSegRemove m seg => metaOk m && fits 1 seg
  | .layerRun m heat seg pass runTag fwdTag rows firstDesc lastDesc deadline pairs => metaOk m && fits 4 heat && fits 1 seg && fits 1 pass && fits 4 runTag && fits 4 fwdTag && fits 4 rows && fits 2 firstDesc && fits 2 lastDesc && fits 4 deadline && lengthIn 0 8 pairs && pairsOk pairs
  | .layerAbort m heat seg => metaOk m && fits 4 heat && fits 1 seg
  | .layerQuery m seg => metaOk m && fits 1 seg
  | .layerSavedRelease m seg runTag => metaOk m && fits 1 seg && fits 4 runTag
  | .layerStats m => metaOk m
  | .updRuleSet m index entry => metaOk m && fits 2 index && lengthIn 32 32 entry
  | .updRuleRead m index => metaOk m && fits 2 index
  | .updStateDefine m heat base elems kind slot t => metaOk m && fits 4 heat && fits 8 base && fits 8 elems && fits 1 kind && fits 1 slot && fits 4 t
  | .updStateMask m base region o k n kind bitmap => metaOk m && fits 8 base && fits 1 region && fits 8 o && fits 8 k && fits 8 n && fits 1 kind && fits 8 bitmap
  | .updStateQuery m base => metaOk m && fits 8 base
  | .updStateRevert m base => metaOk m && fits 8 base
  | .updStateFree m base => metaOk m && fits 8 base
  | .embTableDefine m heat base rows dim fmt kind buckets setIndex => metaOk m && fits 4 heat && fits 8 base && fits 8 rows && fits 2 dim && fits 1 fmt && fits 1 kind && fits 4 buckets && fits 2 setIndex
  | .embTableQuery m base => metaOk m && fits 8 base
  | .embTableFree m base => metaOk m && fits 8 base
  | .updStats m => metaOk m
  | .clkStatus m => metaOk m
  | .clkAclkSwap m source => metaOk m && fits 1 source
  | .clkobsSet m code divider => metaOk m && fits 1 code && fits 4 divider
  | .clkTrim m source link => metaOk m && fits 1 source && fits 1 link
  | .timeSet m link frame time => metaOk m && fits 1 link && fits 8 frame && fits 8 time
  | .clkMonRead m code => metaOk m && fits 1 code
  | .clkPlan m => metaOk m
  | .pwrStatus m => metaOk m
  | .pwrProfileSet m profile => metaOk m && lengthIn 16 16 profile
  | .pwrProfileRead m => metaOk m
  | .pwrStats m => metaOk m
  | .relStatus m => metaOk m
  | .riserPolicy m auto ageMin flaskLimit frameLimit scrubH => metaOk m && fits 1 auto && fits 1 ageMin && fits 1 flaskLimit && fits 1 frameLimit && fits 1 scrubH
  | .riserFlaskSwap m bay flask => metaOk m && fits 1 bay && fits 1 flask
  | .frameRetire m frame => metaOk m && fits 4 frame
  | .stackFail m stack => metaOk m && fits 1 stack
  | .agingRead m bay => metaOk m && fits 1 bay
  | .riserHistoryRead m first => metaOk m && fits 2 first
  | .shakeoutStatus m => metaOk m
  | .shakeoutRead m first count nonce sign => metaOk m && fits 4 first && fits 1 count && lengthIn 16 16 nonce && fits 1 sign
  | .shakeoutUnfreeze m freezeSeq => metaOk m && fits 4 freezeSeq
  | .faultSubscribe m endpoint cls severity => metaOk m && fits 4 endpoint && fits 1 cls && fits 1 severity
  | .faultUnsubscribe m endpoint => metaOk m && fits 4 endpoint
  | .relStats m => metaOk m
  | .secStatus m => metaOk m
  | .secAttest m nonce => metaOk m && lengthIn 32 32 nonce
  | .secIdentityRead m => metaOk m
  | .secRollbackCommit m v => metaOk m && fits 1 v
  | .secRootRead m => metaOk m
  | .secStats m => metaOk m
  | .assayStatus m => metaOk m
  | .assayRead m channel => metaOk m && fits 1 channel
  | .assayAttrib m heat => metaOk m && fits 4 heat
  | .assayAttribList m first => metaOk m && fits 2 first
  | .detStatus m heat => metaOk m && fits 4 heat
  | .detRecordOpen m heat record scope => metaOk m && fits 4 heat && fits 4 record && fits 1 scope
  | .detDigestRange m heat kind gfa length => metaOk m && fits 4 heat && fits 1 kind && fits 8 gfa && fits 8 length
  | .detRecordClose m heat scope sign => metaOk m && fits 4 heat && fits 1 scope && fits 1 sign
  | .detRecordRead m heat => metaOk m && fits 4 heat
  | .detStepSet m heat step => metaOk m && fits 4 heat && fits 4 step
  | .saveHeat m heat endpoint offset waitLimit cont => metaOk m && fits 4 heat && fits 4 endpoint && fits 8 offset && fits 2 waitLimit && fits 1 cont
  | .resumeHeat m endpoint offset length digest => metaOk m && fits 4 endpoint && fits 8 offset && fits 8 length && lengthIn 64 64 digest
  | .sbIdentify => true
  | .sbCoord => true
  | .sbGroupSet data pec => lengthIn 0 2560 data && under 256 pec
  | .sbCountSet data pec => lengthIn 0 2560 data && under 256 pec
  | .sbHealth => true
  | .sbShakeout => true
  | .sbAssay => true
  | .sbStatus => true
  | .sbUndefinedCode code _ data pec => under 256 code && lengthIn 0 2560 data && under 256 pec
  | .sbSnapshotRefresh => true
  | .asIdent => true
  | .asSign channel nonce pec => under 256 channel && lengthIn 0 2560 nonce && under 256 pec
  | .asSignedReadingReady => true
  | .asReading => true
  | .asParam param channel pec => under (2 ^ 64) param && under 256 channel && under 256 pec
  | .asTrail index pec => under (2 ^ 64) index && under 256 pec
  | .asCert => true
  | .asChange block pec => lengthIn 0 2560 block && under 256 pec
  | .asStatus => true
  | .asUndefinedCode code _ => under 256 code
  | .bypass => true
  | .idcode => true
  | .samplePreload bits => under (2 ^ 64) bits
  | .extest => true
  | .clamp => true
  | .highz => true
  | .clkobsSelWrite value => under (2 ^ 32) value
  | .clkobsRst => true
  | .clkEnWrite value => under (2 ^ 32) value
  | .timeLoRead => true
  | .clkobsMuxRelease => true
  | .cmd pkt => packetOk pkt
  | .commandStart queue => under 9 queue
  | .packetReceive link frame _ => under 52 link && frameOk frame
  | .packetDepart port _ => under 59 port
  | .contrib pkt => packetOk pkt
  | .chunkRounded heat pourId chunk => under (2 ^ 32) heat && under (2 ^ 32) pourId && under (2 ^ 32) chunk
  | .result pkt => packetOk pkt
  | .chunkMark pkt => packetOk pkt
  | .mgmt pkt => packetOk pkt
  | .ack ans => answerOk ans
  | .nak ans => answerOk ans
  | .resendTimeout src dst stream seq => under (2 ^ 18) src && under (2 ^ 19) dst && under (2 ^ 20) stream && under (2 ^ 24) seq
  | .gapTimeout src stream dst => under (2 ^ 18) src && under (2 ^ 20) stream && under (2 ^ 18) dst
  | .put pkt _ => packetOk pkt
  | .get pkt corrected _ => packetOk pkt && under (2 ^ 64) corrected
  | .gatherRows pkt corrected _ => packetOk pkt && under (2 ^ 64) corrected
  | .atomic pkt corrected _ => packetOk pkt && under (2 ^ 64) corrected
  | .getReply pkt => packetOk pkt
  | .fwdDone src stream seq home result cause => under (2 ^ 18) src && under (2 ^ 20) stream && under (2 ^ 24) seq && under 2320 home && under (2 ^ 64) result && under (2 ^ 64) cause
  | .fwdAck src stream seq entry => under (2 ^ 18) src && under (2 ^ 20) stream && under (2 ^ 24) seq && under 2320 entry
  | .fwdReforwardTimeout src stream seq => under (2 ^ 18) src && under (2 ^ 20) stream && under (2 ^ 24) seq
  | .fwdDoneResendTimeout src stream seq => under (2 ^ 18) src && under (2 ^ 20) stream && under (2 ^ 24) seq
  | .credit link half counts => under 52 link && under 2 half && allFit 8 counts
  | .creditSendTick link half => under 52 link && under 2 half
  | .creditTimeout link => under 52 link
  | .ventEscape queue => under 262144 queue
  | .levelFallRelease link vc => under 52 link && under 8 vc
  | .policerRefill port => under 59 port
  | .windowEdge port => under 59 port
  | .cycleStart port => under 59 port
  | .scheduleFlip port => under 59 port
  | .ident link body => under 52 link && lengthIn 0 2560 body
  | .identSendTick link => under 52 link
  | .trainingSet link obs => under 52 link && under 512 obs.lock && under 512 obs.inverted
  | .laneCkLock link measured => under 52 link && under (2 ^ 64) measured
  | .linkDeskew link skew => under 52 link && under (2 ^ 64) skew
  | .trainingStepTimeout link => under 52 link
  | .trainingRestart link => under 52 link
  | .linkLost link _ => under 52 link
  | .lostLockRetrain link => under 52 link
  | .coordinatesSetResume link => under 52 link
  | .cvThresholdSwapProposal link lane => under 52 link && under 9 lane
  | .swapReq link lane marker => under 52 link && under 9 lane && under (2 ^ 16) marker
  | .swapAck link lane marker => under 52 link && under 9 lane && under (2 ^ 16) marker
  | .swapMarkerReached link _ _ => under 52 link
  | .startOfFrame link frameNo => under 52 link && under (2 ^ 64) frameNo
  | .startOfFrameSend link => under 52 link
  | .registerPour lead desc step ruleDig stateDig => under 2320 lead && lengthIn 0 2560 desc && under (2 ^ 64) step && under (2 ^ 64) ruleDig && under (2 ^ 64) stateDig
  | .regAck home heat pourId tag _ _ _ => under 2320 home && under (2 ^ 32) heat && under (2 ^ 32) pourId && under (2 ^ 64) tag
  | .regAckTimeout heat pourId => under (2 ^ 32) heat && under (2 ^ 32) pourId
  | .openPour heat pourId _ => under (2 ^ 32) heat && under (2 ^ 32) pourId
  | .roundDone home heat pourId status ovf => under 2320 home && under (2 ^ 32) heat && under (2 ^ 32) pourId && under (2 ^ 64) status && under (2 ^ 64) ovf
  | .commitPour heat pourId => under (2 ^ 32) heat && under (2 ^ 32) pourId
  | .rowUpdate peer heat pourId base rule rc step row delta => under 2320 peer && under (2 ^ 32) heat && under (2 ^ 32) pourId && under (2 ^ 64) base && under (2 ^ 64) rule && under (2 ^ 64) rc && under (2 ^ 64) step && under (2 ^ 64) row && allFit 8 delta
  | .fenceQuery heat pourId member => under (2 ^ 32) heat && under (2 ^ 32) pourId && under (2 ^ 64) member
  | .fenceReply home heat pourId member complete => under 2320 home && under (2 ^ 32) heat && under (2 ^ 32) pourId && under (2 ^ 64) member && under (2 ^ 64) complete
  | .abortPour heat pourId status => under (2 ^ 32) heat && under (2 ^ 32) pourId && under (2 ^ 64) status
  | .abortAck home heat pourId rounded => under 2320 home && under (2 ^ 32) heat && under (2 ^ 32) pourId && under (2 ^ 64) rounded
  | .abortAckTimeout heat pourId => under (2 ^ 32) heat && under (2 ^ 32) pourId
  | .endPour heat pourId status cause _ => under (2 ^ 32) heat && under (2 ^ 32) pourId && under (2 ^ 64) status && under (2 ^ 64) cause
  | .pourDeadline heat pourId => under (2 ^ 32) heat && under (2 ^ 32) pourId
  | .tombstoneExpiry heat pourId => under (2 ^ 32) heat && under (2 ^ 32) pourId
  | .bayOwnershipTransfer bay => under 100 bay
  | .bayTransferTimeout seg => under 256 seg
  | .layerRunStart seg => under 256 seg
  | .layerDescriptorDone seg => under 256 seg
  | .layerRunDeadline seg => under 256 seg
  | .flaskUncorrectable bay flask => under 100 bay && under 100 flask
  | .segmentPlaced seg => under 256 seg
  | .patternBookWalk peer gfa => under 2320 peer && under (2 ^ 64) gfa
  | .walkReply gfa entry => under (2 ^ 64) gfa && under (2 ^ 128) entry
  | .invalidation gfa entry peer _ => under (2 ^ 64) gfa && under (2 ^ 128) entry && under 2320 peer
  | .invalidationAck gfa peer => under (2 ^ 64) gfa && under 2320 peer
  | .migrationCopyDone gfa => under (2 ^ 64) gfa
  | .migrationRemap gfa => under (2 ^ 64) gfa
  | .forwardingStubExpiry gfa => under (2 ^ 64) gfa
  | .frameRetirementDone frame => under (2 ^ 22) frame
  | .mirrorResyncDone gfa => under (2 ^ 64) gfa
  | .stackFailed stack => under 12 stack
  | .stackFailureDetected stack => under 12 stack
  | .frameZeroed frame => under (2 ^ 22) frame
  | .sliceRecordQuery peer heat gfas => under 2320 peer && under (2 ^ 32) heat && allFit 8 gfas
  | .fenceNotice peer endpoint => under 2320 peer && under (2 ^ 18) endpoint
  | .unfenceNotice peer endpoint => under 2320 peer && under (2 ^ 18) endpoint
  | .giveUpReport peer endpoint => under 2320 peer && under (2 ^ 18) endpoint
  | .fenceProbeTimeout device => under 2320 device
  | .endpointCreditStall link => under 52 link
  | .routeUpdate peer link _ => under 2320 peer && under 52 link
  | .routeTableFlip => true
  | .linkDrained link => under 52 link
  | .drainTimeout link => under 52 link
  | .pinningEnd group => under 145 group
  | .treeSetup peer entry => under 2320 peer && under (2 ^ 128) entry
  | .treeSetupReply peer tree _ => under 2320 peer && under (2 ^ 64) tree
  | .treeLinkRepair peer tree link => under 2320 peer && under (2 ^ 64) tree && under 52 link
  | .tundishRingTransfer half => under 2 half
  | .tundishRebuildDone half => under 2 half
  | .bankSwapCopyDone half lost => under 2 half && allFit 8 lost
  | .heartbeat => true
  | .coreTakeover => true
  | .standbyCoreReady _ => true
  | .fwSwitchStandbyLoaded _ => true
  | .fwSwitchHandover => true
  | .fwSwitchDirectoryDone => true
  | .standbyPowerOn i2cAddr => under (2 ^ 64) i2cAddr
  | .standbyPowerLoss => true
  | .mainPowerGood mv => under (2 ^ 64) mv
  | .resetNRelease straps => under 16 straps.member
  | .resetNAssert => true
  | .resetLevel mv => under (2 ^ 64) mv
  | .resetLevelRestart => true
  | .brownoutWarning mv => under (2 ^ 64) mv
  | .brownoutRelease => true
  | .thermalThrottle sensor celsius => under (2 ^ 64) sensor && under (2 ^ 64) celsius
  | .throttleRelease => true
  | .thermalShutdown sensor celsius => under (2 ^ 64) sensor && under (2 ^ 64) celsius
  | .coolFailAssert => true
  | .coolFailShutdown => true
  | .coolFailRelease => true
  | .refclkLoss => true
  | .refclkLossTimeout => true
  | .refclkReturn => true
  | .aclkHang => true
  | .aclkSwapLocked => true
  | .pllFaultProposal => true
  | .clockMonitorWindow _ => true
  | .trimUpdate reference => under (2 ^ 64) reference
  | .timeBaseWrap => true
  | .cpllLock die => under 4 die
  | .bayWakeDone bay => under 100 bay
  | .bayIdleTimer bay => under 100 bay
  | .switchHalfBank half => under 2 half
  | .switchHalfWake half => under 2 half
  | .warmResetDone => true
  | .domainResetDone kind index => under (2 ^ 64) kind && under (2 ^ 64) index
  | .riserProposal kind unit => under (2 ^ 64) kind && under (2 ^ 64) unit
  | .riserFlaskCopied bay flask => under 100 bay && under 100 flask
  | .riserProposalLapse kind unit => under (2 ^ 64) kind && under (2 ^ 64) unit
  | .agingMonitorReport margins => allFit 8 margins
  | .hbmScrub frame corrected _ => under (2 ^ 22) frame && under (2 ^ 64) corrected
  | .pageCacheRevalidate => true
  | .flaskSramScrub _ => true
  | .tundishScrub half _ _ => under 2 half
  | .shakeoutWrite => true
  | .signatureDone => true
  | .rollbackFuseBlown _ => true
  | .saveHeatWaitDone heat => under (2 ^ 32) heat
  | .saveHeatWaitTimeout heat => under (2 ^ 32) heat
  | .recordCloseReply peer heat body => under 2320 peer && under (2 ^ 32) heat && lengthIn 0 2560 body
  | .recordCloseTimeout heat => under (2 ^ 32) heat
  | .assaySample channel volts _ => under 9 channel && under (2 ^ 64) volts
  | .assayNvCommit => true
  | .assayVddGood straps => under 32 straps
  | .assayVddFalling => true
  | .sealOpenChange _ => true
  | .assayFrameSend => true
  | .assayFrame bytes => lengthIn 0 2560 bytes
  | .assaySilent => true
  | .fwSwitchStepTimeout => true
  | .domainResetWaitTimeout bay => under 100 bay
  | .digestRangeDone heat => under (2 ^ 32) heat
  | .controlBlockDiscard link body => under 52 link && lengthIn 0 2560 body
  | .badColumn link rd groups => under 52 link && under 512 (rd.getD 0) && lengthIn 9 9 groups && groups.all (under 1024)
  | .fenceProbe peer => under 2320 peer
  | .fenceProbeReply device => under 2320 device
  | .standbyPowerSettled => true
  | .refresh2xChange stack celsius => under 12 stack && under (2 ^ 64) celsius
  | .mirrorConfirm src stream seq => under (2 ^ 18) src && under (2 ^ 20) stream && under (2 ^ 24) seq
  | .routeChangeAck peer link => under 2320 peer && under 52 link
  | .sliceRecordReply peer gfa _ => under 2320 peer && under (2 ^ 64) gfa

end Sys2Proof
end

