-- ==== Sys2Proof/Safety.lean ====
section
/-! DEFINITION. What claims call a safe run: a command completes with a next state; the sparse tables of the state stay in their
canonical form; hard-wired and reserved things read as the manual says. -/
namespace Sys2Proof

open Sys2Proof.Machine

/-- A command completes: it answers a next state. -/
def Completes (i : Instr) (s : State) : Prop := ∃ t, exec i s = .next t

/-- Port 56 performs a command of opcode `op` (R353, R356, R432): no reserved parameter bit is set, and the boot ROM is not in
recovery or serves the opcode there. -/
def Takes (m : CmdMeta) (op : Nat) (s : State) : Prop :=
  m.resv = 0 ∧ (flag .seRecovery 0 s = false ∨ recoveryOps.contains op = true)

/-- The same for a long command: one of the 1,024 places for commands that are outstanding is free (R357). -/
def TakesLong (m : CmdMeta) (op : Nat) (s : State) : Prop := Takes m op s ∧ s.fore.outstanding.length < 1024

/-- The state after a long command's first reply: outstanding, and answered ACCEPTED (R357). -/
def accepted (c : CmdRef) (s : State) : State :=
  reply c stAccepted false [] { s with fore := { s.fore with outstanding := s.fore.outstanding ++ [c] } }

/-- Nothing but registers changed, and of these only the listed ones (field, instance). -/
def OnlyRegs (ks : List (Fld × Nat)) (s t : State) : Prop :=
  { t with csr := s.csr } = s ∧ ∀ f i, (f, i) ∉ ks → reg f i t = reg f i s

/-- What sending a packet of a port of this device may change, blanked out: registers (the counters), the transport, the switch
with its schedulers and samples, the routing choice, the writer of the Shakeout record, the re-send counts, what was sent, and the
count of free values used. Two states with equal `rest` agree on everything else. -/
def rest (s : State) : State :=
  { s with out := [], freeCtr := 0, csr := [], net := {}, route := {}, sw := {}, sched := [], samples := [], rel := {}, det := {} }

/-- A request of port 57 is performed at this device (R161, R167): well formed, of a page homed on frame `f` here whose entry refuses
it on none of checks 2 to 5 (`entryRefusal`: its class, its Heat, its write permission, its book reachable), no remap or WARM reset
in progress, and not a forwarded one. -/
def ServedHere (p : Packet) (f : Nat) (s : State) : Prop :=
  requestOk p = true ∧ gBook p.addr ≤ 2319 ∧ ¬ (p.typ = tyGet ∧ getForm p = 1) ∧ p.fwd = false ∧ homeFrame (gPage p.addr) s = some f ∧
  (∃ e, mapEntry (gPage p.addr) s = some e ∧ entryRefusal e p s = none) ∧ s.power.state ≠ .warm ∧
  frozenPage (gPage p.addr) s = false

/-- HBM and the registers are in their canonical form: keys strictly rising, and no HBM byte listed that an unlisted address
reads as. -/
def Canonical (s : State) : Prop := Memory.wf s.mem.hbm = true ∧ tabSorted s.csr = true

/-- A run of the block that never stops, for `n` steps. -/
def RunsSafely : Nat → State → Prop
  | 0, _ => True
  | n + 1, s => ∃ t, step s = .next t ∧ RunsSafely n t

end Sys2Proof
end

