-- ==== Sys2Proof/Certificates/Slice0/Obligations.lean ====
section
/-! DEFINITION. What the provers are asked to prove. -/
open Sys2Proof Sys2Proof.Machine

/-- Device, CSR and slice-table commands complete (R199, R361 to R366, R372). In spec order: DEV_IDENTIFY, DEV_HEALTH, HEAT_BIND (new
and mask replaced), HEAT_UNBIND, HEAT_LIST, CSR_READ, CSR_WRITE, DEV_BLOCK_STATE (gated kind and never gated), DEV_ECHO. -/
def Obligations.DeviceCommandsComplete : Prop :=
  ∀ (m : CmdMeta) (s : State),
    (Takes m 0x0000 s → exec (.devIdentify m) s = .next (answer (refOf m 0x0000) stDone (identityRecord s) s)) ∧
    (Takes m 0x0001 s → exec (.devHealth m) s = .next (answer (refOf m 0x0001) stDone (healthRecord s) s)) ∧
    (∀ heat f c mask, Takes m 0x0002 s → heat ≠ 0 → 1 ≤ c → c ≤ 145 → f < 145 → mask < 2 ^ 28 →
      (∃ n own, s.coord.count = some n ∧ s.coord.group = some own ∧ sliceBelow f c n = true ∧ inSlice f c own = true) →
      (bindOf heat s = none → recentlyUnbound heat s = false → s.coord.binds.length < 1024 →
        exec (.heatBind m heat f c mask) s = .next (done (refOf m 0x0002)
          { s with coord := { s.coord with binds := s.coord.binds ++ [{ heat := heat, f := f, c := c, mask := mask }],
                                           unbound := s.coord.unbound.filter fun e => e.1 ≠ heat },
                   det := { s.det with steps := tabSet 0 s.det.steps heat 0, records := tabSet 0 s.det.records heat 0 } })) ∧
      (∀ b, bindOf heat s = some b → b.f = f → b.c = c →
        exec (.heatBind m heat f c mask) s = .next (done (refOf m 0x0002)
          { s with coord := { s.coord with binds := s.coord.binds.map fun x =>
              if x.heat = heat then { heat := heat, f := f, c := c, mask := mask } else x } }))) ∧
    (∀ heat, Takes m 0x0003 s → heat ≠ 0 → isBound heat s = true → heatInUse heat s = false →
      exec (.heatUnbind m heat) s = .next (done (refOf m 0x0003) (dropBind heat s))) ∧
    (∀ first, Takes m 0x0004 s → first < 1024 → exec (.heatList m first) s = .next (answer (refOf m 0x0004) stDone
      (((s.coord.binds.drop first).take 200).flatMap fun b =>
        packFields [(4, b.heat), (1, b.f), (1, b.c), (2, 0), (4, b.mask)]) s)) ∧
    (∀ addr count, Takes m 0x0010 s → 1 ≤ count → count ≤ 64 → csrAddrOk addr count = true →
      exec (.csrRead m addr count) s
        = .next (answer (refOf m 0x0010) stDone (csrRead count addr s).1 (csrRead count addr s).2)) ∧
    (∀ addr count words, Takes m 0x0011 s → 1 ≤ count → count ≤ 64 → words.length = count → csrAddrOk addr count = true →
      (∀ k < count, writeRefusal (addr + 4 * k) s = none) →
      (∀ k < count, addr + 4 * k = 0x90000008 → clockCode (words.getD k 0 % 256) = true) →
      exec (.csrWrite m addr count words) s = .next (done (refOf m 0x0011)
        ((((List.range count).map fun k => addr + 4 * k).zip words).foldl (fun s e => writeWord e.1 e.2 s) s))) ∧
    (∀ addr k g, Takes m 0x0012 s → csrAddrOk addr 1 = true → blockGate addr s = some (k, g) →
      exec (.devBlockState m addr) s = .next (answer (refOf m 0x0012) stDone
        (packFields [(1, blockOwner addr s), (1, b2n g), (2, tabGet 0 s.fore.gateEpoch k)]) s)) ∧
    (∀ addr, Takes m 0x0012 s → csrAddrOk addr 1 = true → blockGate addr s = none →
      exec (.devBlockState m addr) s = .next (answer (refOf m 0x0012) stDone
        (packFields [(1, blockOwner addr s), (1, 0), (2, 0)]) s)) ∧
    (∀ data, Takes m 0x0030 s → data.length ≤ 2560 →
      exec (.devEcho m data) s = .next (answer (refOf m 0x0030) stDone data s))

/-- The two Foreman cores (R351, R352): HEARTBEAT, CORE_TAKEOVER with and without a ready standby core, STANDBY_CORE_READY. -/
def Obligations.ForemanCoreEventsComplete : Prop :=
  ∀ (s : State),
    (s.fore.activeAlive = true → exec .heartbeat s = .next
      { advanceTo (s.fore.lastHeartbeat + 100000) s with
        fore := { s.fore with lastHeartbeat := (advanceTo (s.fore.lastHeartbeat + 100000) s).time.now } }) ∧
    (s.fore.activeAlive = true → flag .foreStandbyReady 0 s = true →
      exec .coreTakeover s = .next (takeOver (advanceTo (s.fore.lastHeartbeat + 1000000) s))) ∧
    (s.fore.activeAlive = true → flag .foreStandbyReady 0 s = false → ∃ t, exec .coreTakeover s = .next t ∧
      t.fore.activeAlive = false ∧ t.pins.faultN = false ∧
      t.time.now = max s.time.now (s.fore.lastHeartbeat + 1000000)) ∧
    (s.fore.activeAlive = true → recovery s = false → switching s = false → s.power.state = .running →
      exec (.standbyCoreReady true) s = .next (setReg .foreStandbyReady 0 1 s) ∧
      exec (.standbyCoreReady false) s = .next s)

/-- Reset, domain-reset and power commands complete (R361, R393, R400 to R402, R407, R431). DEV_RESET_WARM, DEV_RESET_DOMAIN of a Bay,
a link and a stack, FW_VERIFY outside recovery, PWR_STATUS, PWR_PROFILE_SET, PWR_PROFILE_READ, PWR_STATS. -/
def Obligations.PowerCommandsComplete : Prop :=
  ∀ (m : CmdMeta) (s : State),
    (TakesLong m 0x0008 s → switching s = false → s.power.state ≠ .warm →
      exec (.devResetWarm m 0x5741524D) s
        = .next (beginWarm 0 (some (refOf m 0x0008)) false (accepted (refOf m 0x0008) s))) ∧
    (∀ bay, TakesLong m 0x0009 s → bay < 100 → s.power.state ≠ .warm → inDomainReset 0 bay s = false →
      (tabGet {} s.layer.bays bay).seg = none →
      exec (.devResetDomain m 0 bay) s = .next
        (addDomain { kind := 0, index := bay, since := s.time.now, waiting := true, cmd := refOf m 0x0009 }
          (accepted (refOf m 0x0009) s))) ∧
    (∀ l, TakesLong m 0x0009 s → l < 52 → s.power.state ≠ .warm → inDomainReset 1 l s = false → cameOver m l s = false →
      exec (.devResetDomain m 1 l) s = .next (resetDomain 1 l
        (addDomain { kind := 1, index := l, since := s.time.now, waiting := false, cmd := refOf m 0x0009 }
          (accepted (refOf m 0x0009) s)))) ∧
    (∀ st, TakesLong m 0x0009 s → st < 12 → s.power.state ≠ .warm → inDomainReset 2 st s = false →
      (∀ e ∈ s.mem.frames, ∀ p, e.2.use = .home p → stackOf e.1 ≠ st) →
      exec (.devResetDomain m 2 st) s = .next (resetDomain 2 st
        (addDomain { kind := 2, index := st, since := s.time.now, waiting := false, cmd := refOf m 0x0009 }
          (accepted (refOf m 0x0009) s)))) ∧
    (∀ slot, Takes m 0x0022 s → slot ≤ 1 → (slotOf slot s).content ≠ .empty → switching s = false →
      (verifySlot slot s).1 = none → recovery (verifySlot slot s).2 = false →
      exec (.fwVerify m slot) s = .next (answer (refOf m 0x0022) stDone
        (imageDigest (slotOf slot (verifySlot slot s).2).content) (verifySlot slot s).2)) ∧
    (Takes m 0x0910 s → exec (.pwrStatus m) s = .next (answer (refOf m 0x0910) stDone
      (readWords 0x91000000 4 s ++ leBytes 25 (sumNat ((List.range 100).map fun b => reg .pwBayState b s * 4 ^ b))) s)) ∧
    (∀ p, Takes m 0x0911 s → p.length = 16 → profileOk p = true →
      exec (.pwrProfileSet m p) s = .next (answer (refOf m 0x0911) stDone
        (profileDigest { s with power := { s.power with profile := p } }) { s with power := { s.power with profile := p } })) ∧
    (Takes m 0x0912 s → exec (.pwrProfileRead m) s
      = .next (answer (refOf m 0x0912) stDone (s.power.profile ++ profileDigest s) s)) ∧
    (Takes m 0x0913 s → exec (.pwrStats m) s = .next (answer (refOf m 0x0913) stDone (readWords 0x91000018 4 s) s))

/-- Supplies, RESET_N and the resets they cause complete (R390, R391, R396, R399, R400, R468): STANDBY_POWER_ON, STANDBY_POWER_LOSS,
STANDBY_POWER_SETTLED, MAIN_POWER_GOOD, RESET_N_RELEASE, RESET_N_ASSERT, RESET_LEVEL, RESET_LEVEL_RESTART, WARM_RESET_DONE,
TUNDISH_REBUILD_DONE. -/
def Obligations.SupplyEventsComplete : Prop :=
  ∀ (s : State),
    (∀ a, a < 8 → ∃ t, exec (.standbyPowerOn a) s = .next t ∧ t.pins.p12sb = true ∧ t.power.state = .standbyOnly ∧
      t.rel.entries = [] ∧ t.coord.group = none ∧ reg .sbAddr 0 t = 0x60 + a ∧ t.pending = s.pending ∧ t.out = s.out) ∧
    (∃ t, exec .standbyPowerLoss s = .next t ∧ t.pins.p12sb = false ∧ t.power.state = .standbyOnly ∧ t.csr = [] ∧
      t.mem.hbm = [] ∧ t.rel.entries = [] ∧ t.pins.alertN = true ∧ t.pins.faultN = true) ∧
    (s.pins.p12sb = true → s.power.settled = false → exec .standbyPowerSettled s = .next (tryBringUp
      { advanceTo (s.power.standbyAt + 10000000) s with power := { s.power with settled := true } })) ∧
    (s.pins.p12sb = true → s.power.p48Good = false → s.power.resetLevel = false →
      s.power.settled = true → s.pins.resetN = true → recovery s = false → s.power.shutdown = false → s.power.state = .standbyOnly →
      ∀ mv, 40000 ≤ mv → ∃ t, exec (.mainPowerGood mv) s = .next (bringUp t) ∧ t.power.p48Good = true ∧ t.power.needMain = true ∧
        t.mem = s.mem ∧ reg .pwInputMv 0 t = mv ∧ (mv < 42000 → flag .pwWarning 0 t = true ∧ flag .ckHalved 0 t = true)) ∧
    (∀ straps, s.pins.resetN = false → exec (.resetNRelease straps) s
      = .next (tryBringUp { s with pins := { s.pins with resetN := true, straps := straps }, power := { s.power with awaitReset := false } })) ∧
    (s.pins.resetN = true → s.power.state ≠ .standbyOnly → s.power.p48Good = true → ∃ t, exec .resetNAssert s = .next t ∧
      t.power.state = .inReset ∧ t.pins.resetN = false ∧ t.mem.hbm = [] ∧ t.coord.binds = []) ∧
    (∀ mv, s.power.p48Good = true → mv < 38000 → ∃ t, exec (.resetLevel mv) s = .next t ∧ t.power.state = .standbyOnly ∧
      t.power.p48Good = false ∧ t.power.resetLevel = true ∧ t.mem.hbm = [] ∧ reg .pwInputMv 0 t = mv ∧
      (s.pins.resetN = true → t.pins.faultN = false)) ∧
    (s.power.resetLevel = true → s.pins.p12sb = true → s.power.settled = true → s.pins.resetN = true → recovery s = false →
      s.power.shutdown = false → ∃ t, exec .resetLevelRestart s = .next (bringUp t) ∧ t.power.resetLevel = false ∧
      t.power.p48Good = true ∧ t.mem = s.mem) ∧
    (∀ w, s.power.warm = some w → s.power.state = .warm → s.power.refHeld = false → exec .warmResetDone s = .next
      (finishOpt w.cmd stDone [] (rebuildDone 1 (rebuildDone 0
        (gateStacks { s with power := { s.power with state := .running, warm := none }, mem := { s.mem with rejoining := false } }))))) ∧
    (∀ d, d < 2 → exec (.tundishRebuildDone d) s = .next (rebuildDone d s))

/-- Brownout, thermal, coolant and REFCLK events complete (R377, R396 to R398, R421, R469): BROWNOUT_WARNING, BROWNOUT_RELEASE,
THERMAL_THROTTLE, THROTTLE_RELEASE, THERMAL_SHUTDOWN, COOL_FAIL_ASSERT, COOL_FAIL_SHUTDOWN, COOL_FAIL_RELEASE, REFRESH_2X_CHANGE,
REFCLK_LOSS, REFCLK_LOSS_TIMEOUT, REFCLK_RETURN. -/
def Obligations.SupervisionEventsComplete : Prop :=
  ∀ (s : State),
    (∀ mv, s.power.p48Good = true → 38000 ≤ mv → mv < 42000 → flag .pwWarning 0 s = false →
      ∃ t, exec (.brownoutWarning mv) s = .next t ∧ flag .pwWarning 0 t = true ∧ flag .ckHalved 0 t = true ∧
        t.pins.alertN = false ∧ t.power.minMv = mv ∧ t.power.warnAt = some s.time.now ∧ t.mem = s.mem) ∧
    (∀ mv, s.power.p48Good = true → 38000 ≤ mv → mv < 42000 → flag .pwWarning 0 s = true →
      exec (.brownoutWarning mv) s = .next
        { setReg .pwInputMv 0 mv s with power := { s.power with minMv := min s.power.minMv mv } }) ∧
    (flag .pwWarning 0 s = true → ∃ t, exec .brownoutRelease s = .next (resumeDispatch t) ∧ flag .pwWarning 0 t = false ∧
      t.power.warnAt = none ∧ t.mem = s.mem ∧ t.pour = s.pour) ∧
    (∀ sensor c, sensor < 18 → throttleC sensor ≤ c → s.power.p48Good = true →
      exec (.thermalThrottle sensor c) s = .next (throttle sensor c (noteSensor sensor c s))) ∧
    exec .throttleRelease s = .next (tryBringUp (endThrottle s)) ∧
    (∀ sensor c, sensor < 18 → shutdownC sensor ≤ c →
      exec (.thermalShutdown sensor c) s = .next (shutdown sensor c (noteSensor sensor c s))) ∧
    (s.pins.coolFailN = true → s.power.p48Good = true → exec .coolFailAssert s = .next (throttle 0xFF 0
      { s with pins := { s.pins with coolFailN := false }, power := { s.power with coolFail := some s.time.now } })) ∧
    (∀ t0, s.power.coolFail = some t0 → exec .coolFailShutdown s = .next (shutdown 0xFF 0 (advanceTo (t0 + 10000000000) s))) ∧
    (s.pins.coolFailN = false → exec .coolFailRelease s = .next (endThrottle
      { s with pins := { s.pins with coolFailN := true }, power := { s.power with coolFail := none } })) ∧
    (∀ st c, st < 12 → exec (.refresh2xChange st c) s
      = .next (setReg .hbRefresh2x st (b2n (decide (c ≥ 85))) (noteSensor (6 + st) c s))) ∧
    (s.pins.refclk = true → s.power.state ≠ .standbyOnly → ∃ t, exec .refclkLoss s = .next t ∧ t.pins.refclk = false ∧
      t.pins.alertN = false ∧ reg .ckRefclkOk 0 t = 0 ∧ t.power.refLossAt = some s.time.now ∧ t.mem = s.mem) ∧
    (∀ t0, s.power.refLossAt = some t0 → s.power.refHeld = false → exec .refclkLossTimeout s
      = .next (beginWarm 1 none true (logLoss t0 (advanceTo (t0 + 100000000) s)))) ∧
    (∀ t0, s.power.refLossAt = some t0 → s.power.refHeld = false → ∃ t, exec .refclkReturn s = .next t ∧
      t.pins.refclk = true ∧ reg .ckRefclkOk 0 t = 1 ∧ t.power.refLossAt = none ∧ t.time = s.time)

/-- Bay states, switch halves and domain resets complete (R379, R392 to R395, R402): CPLL_LOCK, BAY_WAKE_DONE, BAY_IDLE_TIMER,
SWITCH_HALF_BANK, SWITCH_HALF_WAKE, DOMAIN_RESET_DONE, DOMAIN_RESET_WAIT_TIMEOUT. -/
def Obligations.BayAndHalfEventsComplete : Prop :=
  ∀ (s : State),
    (∀ die, die < 4 → s.power.cpllWait.contains die = true → ∃ t, exec (.cpllLock die) s = .next t ∧
      (reg .ckCpllRun 0 t).testBit die = true ∧ t.power.cpllWait.contains die = false ∧ t.mem = s.mem) ∧
    (∀ bay t0, bay < 100 → tabFind s.power.bayWake bay = some t0 → ∃ t, exec (.bayWakeDone bay) s = .next t ∧
      reg .pwBayState bay t = 0 ∧ t.time.now = max s.time.now t0 ∧ t.mem = s.mem ∧ t.layer = s.layer) ∧
    (∀ bay st ns t0, bay < 100 → bayIdleNow bay s = true → tabFind s.power.bayWake bay = none →
      (keptFired s).contains bay = false → nextBank bay s = some (st, ns) → tabFind s.power.bayIdle bay = some t0 →
      shopsWait s = false →
      exec (.bayIdleTimer bay) s = .next (bankBay bay st (advanceTo (t0 + ns) s))) ∧
    (∀ d, d < 2 → halfBanked d s = false → (∀ l ∈ linksOfDie d, reg .lkState l s = 0) → (half d s).used = 0 →
      ∃ t, exec (.switchHalfBank d) s = .next t ∧ halfBanked d t = true ∧ t.mem = s.mem) ∧
    (∀ d t0, d < 2 → halfBanked d s = true → tabFind s.sw.wakeAt d = some t0 → ∃ t, exec (.switchHalfWake d) s = .next (rebuildDone d t) ∧
      halfBanked d t = false ∧ tabFind t.sw.wakeAt d = none) ∧
    (∀ j, s.power.domains.find? (fun x => x.kind = 0 && x.index = j.index) = some j → j.kind = 0 → bayClear j.index s = true →
      exec (.domainResetDone 0 j.index) s = .next (finish j.cmd stDone [] (resetDomain 0 j.index
        { s with power := { s.power with domains := s.power.domains.filter fun x => x ≠ j } }))) ∧
    (∀ j, s.power.domains.find? (fun x => x.kind = 1 && x.index = j.index) = some j → j.kind = 1 →
      exec (.domainResetDone 1 j.index) s = .next (finish j.cmd stDone []
        { s with power := { s.power with domains := s.power.domains.filter fun x => x ≠ j } })) ∧
    (∀ j, s.power.domains.find? (fun x => x.kind = 2 && x.index = j.index) = some j → j.kind = 2 →
      exec (.domainResetDone 2 j.index) s = .next (finish j.cmd stDone [] (bumpEpoch (epochStack j.index)
        { s with power := { s.power with domains := s.power.domains.filter fun x => x ≠ j } }))) ∧
    (∀ j, s.power.domains.find? (fun x => x.kind = 0 && x.index = j.index) = some j → j.kind = 0 →
      exec (.domainResetWaitTimeout j.index) s = .next (finish j.cmd stBadState []
        (advanceTo (j.since + 10000000) { s with power := { s.power with domains := s.power.domains.filter fun x => x ≠ j } })))

/-- Firmware and security commands complete (R361, R369, R435 to R441): FW_STATUS, FW_WRITE, FW_SWITCH, SEC_STATUS, SEC_ATTEST (its
reply comes with SIGNATURE_DONE), SEC_IDENTITY_READ, SEC_ROLLBACK_COMMIT (its reply comes with ROLLBACK_FUSE_BLOWN), SEC_ROOT_READ,
SEC_STATS. -/
def Obligations.FirmwareCommandsComplete : Prop :=
  ∀ (m : CmdMeta) (s : State),
    (Takes m 0x0020 s → exec (.fwStatus m) s = .next (answer (refOf m 0x0020) stDone (fwStatusBody s) s)) ∧
    (∀ slot off data, Takes m 0x0021 s → data ≠ [] → data.length ≤ 2048 → slot ≤ 1 → off + data.length ≤ 16777216 →
      runningSlot s ≠ some slot → switching s = false →
      exec (.fwWrite m slot off data) s = .next (done (refOf m 0x0021)
        (modSlot slot (fun f => { content := writtenContent f.content off data, verified := false }) s))) ∧
    (∀ slot, TakesLong m 0x0023 s → slot ≤ 1 → switching s = false → runningSlot s ≠ some slot →
      (slotOf slot s).verified = true → flag .foreStandbyReady 0 s = true → s.sec.fuses ≤ slotSec (slotOf slot s).content →
      ∃ t, exec (.fwSwitch m slot) s = .next t ∧ reg .foreSwitching 0 t = 1 ∧ reg .foreStandbyReady 0 t = 0 ∧
        t.fore.switch = some { slot := slot, step := 2, since := t.time.now, cmd := refOf m 0x0023 }) ∧
    (Takes m 0x0B00 s → exec (.secStatus m) s = .next (answer (refOf m 0x0B00) stDone
      (readWords 0xB0000000 3 s ++ readWords 0xB1000000 3 s ++ readWords 0xB1000010 3 s) s)) ∧
    (∀ nonce, Takes m 0x0B01 s → nonce.length = 32 → signRoom s = true →
      exec (.secAttest m nonce) s = .next (holdQueue 8 (refOf m 0x0B01)
        { s with sec := { s.sec with signQ := s.sec.signQ ++ [.attest (refOf m 0x0B01) nonce
          (if switching s then [] else attestBody nonce s)] } })) ∧
    (Takes m 0x0B02 s → exec (.secIdentityRead m) s = .next (answer (refOf m 0x0B02) stDone deviceCert s)) ∧
    (∀ v, Takes m 0x0B03 s → v ≤ 64 → commitAllowed v s = true →
      exec (.secRollbackCommit m v) s = .next (holdQueue 8 (refOf m 0x0B03)
        { s with sec := { s.sec with rollback := some { target := v, from' := s.sec.fuses, cmd := refOf m 0x0B03 } } })) ∧
    (Takes m 0x0B04 s → exec (.secRootRead m) s
      = .next (answer (refOf m 0x0B04) stDone (leBytes 32 Config.rootHash.toNat) s)) ∧
    (Takes m 0x0B10 s → exec (.secStats m) s = .next (answer (refOf m 0x0B10) stDone (readWords 0xB0000030 2 s) s))

/-- The switch-over, the key engine and the anti-rollback fuses complete (R369, R435 to R437): FW_SWITCH_STANDBY_LOADED,
FW_SWITCH_HANDOVER, FW_SWITCH_DIRECTORY_DONE, FW_SWITCH_STEP_TIMEOUT, SIGNATURE_DONE, ROLLBACK_FUSE_BLOWN. -/
def Obligations.FirmwareEventsComplete : Prop :=
  ∀ (s : State),
    (∀ w, s.fore.switch = some w → w.step = 2 → (verifySlot w.slot s).1 = none →
      exec (.fwSwitchStandbyLoaded true) s = .next
        { (verifySlot w.slot s).2 with fore :=
          { (verifySlot w.slot s).2.fore with switch := some { w with step := 4, since := (verifySlot w.slot s).2.time.now } } }) ∧
    (∀ w, s.fore.switch = some w → w.step = 4 → ∃ t, exec .fwSwitchHandover s = .next (finish w.cmd stDone [] t) ∧
      reg .foreActiveSlot 0 t = w.slot % 2 ∧ reg .foreActiveCore 0 t = (1 - reg .foreActiveCore 0 s) % 2 ∧
      t.fore.switch = some { w with step := 7, since := s.time.now } ∧ t.mem = s.mem ∧ t.pour = s.pour) ∧
    (∀ w, s.fore.switch = some w → w.step = 7 → ∃ t, exec .fwSwitchDirectoryDone s = .next t ∧ t.fore.switch = none ∧
      reg .foreStandbyReady 0 t = 1 ∧ reg .foreSwitching 0 t = 0 ∧ t.mem = s.mem) ∧
    (∀ w, s.fore.switch = some w → exec .fwSwitchStepTimeout s = .next (endSwitch (advanceTo (w.since + switchBound w.step) s))) ∧
    (∀ c nonce r, s.sec.signQ = .attest c nonce [] :: r → ∃ t, exec .signatureDone s = .next
      (answer c stDone (attestBody nonce t ++ deviceSign kxAt (attestBody nonce t)) (freeQueue c t)) ∧
      t = incReg .seSignCnt 0 { s with sec := { s.sec with signQ := r } }) ∧
    (∀ c nonce body r, s.sec.signQ = .attest c nonce body :: r → body ≠ [] →
      exec .signatureDone s = .next (answer c stDone (body ++ deviceSign kxAt body)
        (freeQueue c (incReg .seSignCnt 0 { s with sec := { s.sec with signQ := r } })))) ∧
    (∀ c body r, s.sec.signQ = .shakeout c body :: r →
      exec .signatureDone s = .next (answer c stDone (body ++ deviceSign kxSk body)
        (freeQueue c (incReg .seSignCnt 0 { s with sec := { s.sec with signQ := r } })))) ∧
    (∀ r, s.sec.rollback = some r → s.sec.fuses + 1 < r.target →
      exec (.rollbackFuseBlown true) s = .next { s with sec := { s.sec with fuses := s.sec.fuses + 1 } }) ∧
    (∀ r, s.sec.rollback = some r → r.target = s.sec.fuses + 1 → ∃ t, exec (.rollbackFuseBlown true) s
      = .next (answer r.cmd stDone (leBytes 1 (s.sec.fuses + 1)) t) ∧ t.sec.fuses = s.sec.fuses + 1 ∧ t.sec.rollback = none) ∧
    (∀ r, s.sec.rollback = some r → ∃ t, exec (.rollbackFuseBlown false) s
      = .next (answer r.cmd stInternalFault (leBytes 1 s.sec.fuses) t) ∧ t.sec.fuses = s.sec.fuses ∧ t.sec.rollback = none)

/-- Link commands complete (R215, R222, R224, R226, R229, R230, R275, R277): LINK_STATUS, LINK_CONFIG, LINK_RETRAIN, LINK_DOWN (forced,
and drained), LINK_LANE_SWAP, LINK_EQ_READ, LINK_EQ_SET, LINK_NEIGHBOUR, LINK_STATS, ROUTE_LINK_OPEN of an ACTIVE link and of one that
trains first. -/
def Obligations.LinkCommandsComplete : Prop :=
  ∀ (m : CmdMeta) (s : State) (l : Nat), l < 52 →
    (Takes m 0x0100 s → exec (.linkStatus m l) s
      = .next (answer (refOf m 0x0100) stDone (readWords (0x10000000 + 0x1000 * l) 3 s) s)) ∧
    (∀ rate ceiling cv en clr, Takes m 0x0101 s → rate ≤ 2 → (ceiling = 1 ∨ ceiling = 2) → cv < 65536 → en ≤ 1 → clr ≤ 1 →
      exec (.linkConfig m l rate ceiling cv en clr) s
        = .next (done (refOf m 0x0101) (configLink l rate ceiling cv en clr s))) ∧
    (TakesLong m 0x0102 s → cameOver m l s = false → lkStateOf l s ≠ lkTraining →
      (linkUsed l s || usedUnder (linkCount l s) l s) = true → (link l s).closing = false →
      exec (.linkRetrain m l) s = .next (retrainLink l (refOf m 0x0102) (accepted (refOf m 0x0102) s))) ∧
    (TakesLong m 0x0103 s → cameOver m l s = false → (link l s).closing = false →
      exec (.linkDown m l 1) s = .next (dropLink l (refOf m 0x0103) (accepted (refOf m 0x0103) s))) ∧
    (TakesLong m 0x0103 s → cameOver m l s = false → (link l s).closing = false →
      lkStateOf l (accepted (refOf m 0x0103) s) = lkActive →
      exec (.linkDown m l 0) s = .next (startChange l false (some (refOf m 0x0103)) true (accepted (refOf m 0x0103) s))) ∧
    (∀ lane, TakesLong m 0x0104 s → lane < 8 → swapRefusal l s = none →
      exec (.linkLaneSwap m l lane) s
        = .next (sendSwapReq l lane 0 (some (refOf m 0x0104)) (accepted (refOf m 0x0104) s))) ∧
    (∀ lane rate, Takes m 0x0105 s → lane ≤ 9 → rate ≤ 2 →
      exec (.linkEqRead m l lane rate) s = .next (answer (refOf m 0x0105) stDone
        (leBytes 8 (eqEntry (eqIdx l lane rate) s) ++ leBytes 1 (b2n (tabFind s.eq (eqIdx l lane rate)).isNone)) s)) ∧
    (∀ lane rate entry, Takes m 0x0106 s → lane ≤ 9 → rate ≤ 2 → entry < 2 ^ 64 → eqOk entry = true →
      exec (.linkEqSet m l lane rate entry) s = .next (done (refOf m 0x0106)
        { s with eq := tabPut s.eq (eqIdx l lane rate) entry })) ∧
    (Takes m 0x0107 s → exec (.linkNeighbour m l) s = .next (answer (refOf m 0x0107) stDone (neighBytes l s) s)) ∧
    (Takes m 0x0110 s → exec (.linkStats m l) s = .next (answer (refOf m 0x0110) stDone
      (readWords (0x10000010 + 0x1000 * l) 9 s ++ readWords (0x10000040 + 0x1000 * l) 5 s) s)) ∧
    (TakesLong m 0x0202 s → isFabric l = true → mayOpen l s = true →
      exec (.routeLinkOpen m l) s = .next (openLink l (refOf m 0x0202) (accepted (refOf m 0x0202) s)))

/-- Bring-up events complete (R216 to R222, R270, R394): LANE_CK_LOCK, TRAINING_SET, LINK_DESKEW, IDENT, IDENT_SEND_TICK, CREDIT (in
ACTIVE, and the second half of step 7), TRAINING_STEP_TIMEOUT of each step, TRAINING_RESTART, LOST_LOCK_RETRAIN,
COORDINATES_SET_RESUME. -/
def Obligations.LinkTrainingEventsComplete : Prop :=
  ∀ (s : State) (l : Nat), l < 52 →
    (∀ khz, lkStateOf l s = lkTraining → (link l s).step = 1 → ckNear khz (reg .lkRate l s) = true →
      exec (.laneCkLock l khz) s = .next (toStep l 2 (if (link l s).ckSeen then s else beginAttempt l s))) ∧
    (∀ o, lkStateOf l s = lkTraining → (link l s).step = 2 →
      allLocked l o (modLink l (fun k => { k with obs := some o }) s) = true →
      exec (.trainingSet l o) s = .next (trainLanes l o (modLink l (fun k => { k with obs := some o }) s))) ∧
    (∀ o, lkStateOf l s = lkTraining → (link l s).step = 2 →
      allLocked l o (modLink l (fun k => { k with obs := some o }) s) = false →
      exec (.trainingSet l o) s = .next (modLink l (fun k => { k with obs := some o }) s)) ∧
    (∀ o, lkStateOf l s = lkTraining → (link l s).step = 4 → o.ids ≠ [] →
      exec (.trainingSet l o) s = .next (trainLanes l o (modLink l (fun k => { k with obs := some o }) s))) ∧
    (∀ o, lkStateOf l s = lkTraining → (link l s).step = 5 → o.ts2 = true →
      exec (.trainingSet l o) s = .next (startColumns l s)) ∧
    (∀ skew, lkStateOf l s = lkTraining → (link l s).step = 5 → skew ≤ 64 → ∃ t, exec (.linkDeskew l skew) s = .next t ∧
      (link l t).step = 6 ∧ (link l t).markerAt = s.time.now ∧ reg .lkMaxSkew l t = skew ∧ t.mem = s.mem) ∧
    (∀ body, lkStateOf l s = lkTraining → 6 ≤ (link l s).step → blockGood body = true → fieldAt body 0 1 = 0x10 →
      exec (.ident l body) s = .next (takeIdent l body s)) ∧
    (lkStateOf l s = lkTraining → (link l s).step = 6 → ∃ t, exec (.identSendTick l) s = .next t ∧
      t.out = s.out ++ [.block l (identBlock l (advanceTo ((link l s).identSent + 1000) s))] ∧
      t.time.now = max s.time.now ((link l s).identSent + 1000)) ∧
    (∀ h counts, h < 2 → lkStateOf l s = lkActive → exec (.credit l h counts) s = .next (takeCounts l h counts s)) ∧
    (∀ h counts, h < 2 → lkStateOf l s = lkTraining → (link l s).step = 7 → (link l (takeCounts l h counts s)).creditSeen = 3 →
      exec (.credit l h counts) s = .next (activate l (takeCounts l h counts s))) ∧
    (lkStateOf l s = lkTraining →
      ((link l s).step = 1 → (link l s).ckSeen = true → exec (.trainingStepTimeout l) s
        = .next (failAttempt l lcClockLock (advanceTo ((link l s).stepAt + 50000) s))) ∧
      ((link l s).step = 4 → exec (.trainingStepTimeout l) s
        = .next (failAttempt l lcLaneOrder (advanceTo ((link l s).stepAt + 1000) s))) ∧
      ((link l s).step = 2 → (link l s).obs = none → exec (.trainingStepTimeout l) s
        = .next (failAttempt l lcSymbolLock (advanceTo ((link l s).stepAt + 10000) s))) ∧
      ((link l s).step = 5 → exec (.trainingStepTimeout l) s
        = .next (failAttempt l lcDeskew (advanceTo ((link l s).stepAt + 5000) s))) ∧
      ((link l s).step = 6 → halfReady (dieOfLink l) s = true → exec (.trainingStepTimeout l) s
        = .next (failAttempt l lcIdentTimeout (advanceTo ((link l s).stepAt + 20000) s))) ∧
      ((link l s).step = 7 → exec (.trainingStepTimeout l) s
        = .next (failAttempt l lcCredit (advanceTo ((link l s).stepAt + 10000) s)))) ∧
    (∀ t0, (link l s).fails ≠ 0 → (link l s).restartAt = some t0 →
      exec (.trainingRestart l) s = .next (powerUp l (advanceTo t0 s))) ∧
    (∀ t0, (link l s).fails = 0 → (link l s).restartAt = some t0 →
      exec (.lostLockRetrain l) s = .next (powerUp l (advanceTo t0 s))) ∧
    (resumable l (dropUnused l s) = true → exec (.coordinatesSetResume l) s = .next (resumeIdent l (dropUnused l s)))

/-- Events of links in service complete (R211, R212, R223 to R227, R271, R382): LINK_LOST, CREDIT_TIMEOUT, CONTROL_BLOCK_DISCARD,
BAD_COLUMN, CV_THRESHOLD_SWAP_PROPOSAL, SWAP_REQ, SWAP_ACK, SWAP_MARKER_REACHED at both ends, START_OF_FRAME, START_OF_FRAME_SEND. -/
def Obligations.LinkServiceEventsComplete : Prop :=
  ∀ (s : State) (l : Nat), l < 52 →
    (∀ ck, lkStateOf l s = lkActive ∨ lkStateOf l s = lkQuarantined →
      exec (.linkLost l ck) s = .next (loseLink l (if ck then lcClockLock else lcLostLock) s)) ∧
    (lkStateOf l s = lkWaiting ∨ (lkStateOf l s = lkTraining ∧ 2 ≤ (link l s).step) →
      exec (.linkLost l true) s = .next (failAttempt l lcClockLock (setLinkState l lkTraining s))) ∧
    (lkStateOf l s = lkActive → exec (.creditTimeout l) s
      = .next (loseLink l lcCredit (advanceTo ((link l s).creditRx + 10000) s))) ∧
    (∀ body, blockGood body = false → exec (.controlBlockDiscard l body) s = .next (incReg .lkCbErrCnt l s)) ∧
    (∀ rd groups bad, bad = columnViolations (isService l) (flag .lkReversed l s) (reg .lkRxSwap l s) (reg .lkPolInv l s)
        (rd.getD (link l s).rxRd) groups →
      exec (.badColumn l rd groups) s = .next (countViolations l (countedPositions l bad s)
        (modLink l (fun k => { k with rxRd := rdReceived (reg .lkPolInv l s) (rd.getD (link l s).rxRd) groups }) s))) ∧
    (∀ lane, lane < 8 → shopsWait s = false → (link l s).cvThresh < cvGrowth l lane s →
      ∃ t, exec (.cvThresholdSwapProposal l lane) s = .next t ∧
        ((reg .reAuto 0 s).testBit 1 = true → swapRefusal l s = none → s.rel.writer.length < 64 →
          ∃ j, (link l t).rxSwapJob = some j ∧ j.lane = lane ∧ j.acked = false ∧ j.attempt = 0)) ∧
    (∀ lane marker, lane < 8 → lkStateOf l s = lkActive → 2 ≤ reg .lkLevel l s → ∃ t, exec (.swapReq l lane marker) s = .next t ∧
      t.out = s.out ++ [.block l (controlBlock ([0x12#8] ++ leBytes 1 lane ++ leBytes 2 marker))] ∧
      (link l t).txSwapJob = some { lane := lane, marker := marker % 65536, acked := true, attempt := 0, cmd := none }) ∧
    (∀ j, (link l s).rxSwapJob = some j → ∃ t, exec (.swapAck l j.lane j.marker) s = .next t ∧
      (link l t).rxSwapJob = some { j with acked := true }) ∧
    (∀ j, (link l s).txSwapJob = some j → ∀ b, exec (.swapMarkerReached l true b) s = .next (logSwap l 1 j
      (modLink l (fun k => { k with txSwapJob := none }) (setReg .lkTxSwap l j.lane (toMarker l (link l s).txMarkerAt j.marker s))))) ∧
    (∀ j, (link l s).rxSwapJob = some j → j.acked = true → ∀ b, exec (.swapMarkerReached l false b) s
      = .next (finishOpt j.cmd stDone [] (logSwap l 0 j (modLink l (fun k => { k with rxSwapJob := none, cutNext := b })
        (setReg .lkRxSwap l j.lane (toMarker l (link l s).markerAt j.marker s)))))) ∧
    (∀ j, (link l s).rxSwapJob = some j → j.acked = false → j.attempt = 0 → ∀ b,
      exec (.swapMarkerReached l false b) s = .next (sendSwapReq l j.lane 1 j.cmd (toMarker l (link l s).markerAt j.marker s))) ∧
    (∀ n, isService l = true → lkStateOf l s = lkActive → s.time.armed = none → ∃ t, exec (.startOfFrame l n) s = .next t ∧
      reg .lkSofTimeLo l t = timeBase s % 2 ^ 32 ∧ tabFind t.time.frames l = some (n % 2 ^ 48) ∧ t.time.base = s.time.base) ∧
    (isService l = true → lkStateOf l s = lkActive → ∃ t, exec (.startOfFrameSend l) s = .next t ∧
      t.out = s.out ++ [.sof l (link l s).frameNo] ∧ (link l t).frameNo = ((link l s).frameNo + 1) % 2 ^ 48)

/-- Routing commands complete (R253, R272 to R278, R282, R286, R288, R297): ROUTE_STATUS, ROUTE_LINK_CLOSE, ROUTE_PARAM_SET,
ROUTE_SPREAD, ROUTE_TEST, ROUTE_RESERVE (set and clear), ROUTE_CREDIT_SET, ROUTE_TREE_READ, ROUTE_FENCE_LIST, ROUTE_STATS. -/
def Obligations.RouteCommandsComplete : Prop :=
  ∀ (m : CmdMeta) (s : State),
    (Takes m 0x0200 s → exec (.routeStatus m) s = .next (answer (refOf m 0x0200) stDone
      (packFields [(2, reg .rtGen 0 s), (1, reg .rtSpread 0 s), (1, reg .rtTest 0 s), (4, (fenceList s).length)]) s)) ∧
    (∀ l, TakesLong m 0x0201 s → isFabric l = true → lkStateOf l s = lkActive → (link l s).closing = false →
      changeOf l s = none → exec (.routeLinkClose m l) s
        = .next (startChange l false (some (refOf m 0x0201)) true (accepted (refOf m 0x0201) s))) ∧
    (∀ vent bias drain, Takes m 0x0203 s → 100 ≤ vent → vent < 65536 → bias < 65536 → 10 ≤ drain → drain < 65536 →
      ∃ t, exec (.routeParamSet m vent bias drain) s = .next (done (refOf m 0x0203) t) ∧ reg .rtVentWait 0 t = vent ∧
        reg .rtVentWait 1 t = vent ∧ reg .rtNmBias 0 t = bias ∧ reg .rtNmBias 1 t = bias ∧ reg .rtDrainMax 0 t = drain ∧
        reg .rtDrainMax 1 t = drain ∧ OnlyRegs [(.rtVentWait, 0), (.rtVentWait, 1), (.rtNmBias, 0), (.rtNmBias, 1),
          (.rtDrainMax, 0), (.rtDrainMax, 1)] s t) ∧
    (∀ on, Takes m 0x0204 s → on ≤ 1 → ∃ t, exec (.routeSpread m on) s = .next (done (refOf m 0x0204) t) ∧
      reg .rtSpread 0 t = on ∧ reg .rtSpread 1 t = on ∧ (on = 1 → t.route.startUp = false)) ∧
    (∀ on, Takes m 0x0205 s → on ≤ 1 → ∃ t, exec (.routeTest m on) s = .next (done (refOf m 0x0205) t) ∧
      reg .rtTest 0 t = on ∧ reg .rtTest 1 t = on ∧ OnlyRegs [(.rtTest, 0), (.rtTest, 1)] s t) ∧
    (∀ mask, Takes m 0x0206 s → mask < 2 ^ 24 → exec (.routeReserve m mask 0) s = .next (done (refOf m 0x0206)
      { s with route := { s.route with reserved := ((bitList 24 mask).map (· + 24)).foldl tabDel s.route.reserved } })) ∧
    (∀ mask heat, Takes m 0x0206 s → mask < 2 ^ 24 → heat ≠ 0 →
      (∀ l ∈ (bitList 24 mask).map (· + 24), reservedAgainst s heat l = false) →
      exec (.routeReserve m mask heat) s = .next (done (refOf m 0x0206) { s with route := { s.route with
        reserved := ((bitList 24 mask).map (· + 24)).foldl (fun t l => tabPut t l heat) s.route.reserved } })) ∧
    (∀ l v a, Takes m 0x0210 s → l < 52 → v < 8 → (v < 5 ∨ isFabric l = true) → 65 ≤ a → a ≤ 4194304 → allowSum l v a (List.range 8) s ≤ 5242880 →
      allowSum l v a [5, 6, 7] s ≤ min (reg .tuReserve 0 s) (reg .tuReserve 1 s) - 16384 →
      exec (.routeCreditSet m l v a) s
        = .next (done (refOf m 0x0210) (modVc l v (fun x => { x with allowCfg := a }) s))) ∧
    (∀ root tree e, Takes m 0x0220 s → root < 2320 → tree < 2 ^ 18 → tabFind s.route.trees (treeKey root tree) = some e →
      exec (.routeTreeRead m root tree) s = .next (answer (refOf m 0x0220) stDone (treeBytes e) s)) ∧
    (∀ first, Takes m 0x0221 s → first ≤ (fenceList s).length → exec (.routeFenceList m first) s = .next
      (answer (refOf m 0x0221) stDone ((((fenceList s).drop first).take 256).flatMap (leBytes 4)) s)) ∧
    (Takes m 0x0230 s → exec (.routeStats m) s = .next (answer (refOf m 0x0230) stDone
      (readWords 0x20000010 7 s ++ readWords 0x21000010 7 s) s))

/-- Routing and credit events complete (R265, R271, R273, R275 to R277, R302): CREDIT_SEND_TICK, VENT_ESCAPE, LEVEL_FALL_RELEASE,
ROUTE_UPDATE of a link elsewhere, ROUTE_TABLE_FLIP, LINK_DRAINED, DRAIN_TIMEOUT, PINNING_END, ROUTE_CHANGE_ACK. -/
def Obligations.RouteEventsComplete : Prop :=
  ∀ (s : State),
    (∀ l h, l < 52 → h < 2 → lkStateOf l s = lkActive →
      (∃ v ∈ halfVcs h, 256 ≤ subMod (vcOf l v s).c (vcOf l v s).lastC (2 ^ 24)) →
      exec (.creditSendTick l h) s = .next (sendCredit l h s)) ∧
    (∀ l h, l < 52 → h < 2 → lkStateOf l s = lkActive →
      (∀ v ∈ halfVcs h, subMod (vcOf l v s).c (vcOf l v s).lastC (2 ^ 24) < 256) →
      exec (.creditSendTick l h) s = .next (sendCredit l h (advanceTo ((vcOf l (4 * h) s).lastAt + 1000) s))) ∧
    (∀ i q e r, queueOf i s = some q → q.ents = e :: r → q.vc < 5 → isFabric q.port = true → creditAvail q.port q.vc s < e.cells →
      classOpen q.port q.vc s = true → fitsWindow q.port q.vc e.cells s = true →
      exec (.ventEscape i) s = .next (ventHead i q e (advanceTo (e.headAt + reg .rtVentWait 0 s) s))) ∧
    (∀ l v, l < 52 → v < 5 → exec (.levelFallRelease l v) s = .next (releaseLevel l v s)) ∧
    (∀ peer l add, (∀ e, wiredTo (s.coord.count.getD 1) (groupOf peer) (memberOf peer) l = some e → e.dev ≠ ownDev s) →
      isIntra l = false → exec (.routeUpdate peer l add) s = .next (emit (.ctl peer .routeAck [ownDev s, l] [])
        (writeShadow (withLink s peer l add) (pinGroups (servedGroups peer l s) s)))) ∧
    (s.route.shadow ≠ s.route.active → exec .routeTableFlip s = .next (flipTables s)) ∧
    (∀ l c, l < 52 → changeOf l s = some c → c.add = false → c.step = 3 → linkQuiet l s = true →
      exec (.linkDrained l) s = .next (writeShadow (withOwnLink s l false)
        (putChange l (some { c with step := 4, since := s.time.now }) s))) ∧
    (∀ l c, l < 52 → changeOf l s = some c → c.step = 2 →
      exec (.drainTimeout l) s = .next (reopenLink l c (advanceTo (c.since + 20000) s))) ∧
    (∀ l c, l < 52 → changeOf l s = some c → c.step = 3 →
      exec (.drainTimeout l) s = .next (reopenLink l c (advanceTo (c.since + reg .rtDrainMax 0 s * 1000) s))) ∧
    (∀ g t0, tabFind s.route.pinned g = some t0 → t0 ≠ 0 → ∃ t, exec (.pinningEnd g) s = .next t ∧
      t.route.pinned = tabDel s.route.pinned g ∧ t.time.now = max s.time.now t0) ∧
    (∀ peer l c, changeOf l s = some c → exec (.routeChangeAck peer l) s
      = .next (settleAcks l (putChange l (some { c with awaiting := c.awaiting.filter (· ≠ peer) }) s)))

/-- Fencing events complete (R280, R281): FENCE_NOTICE, UNFENCE_NOTICE, GIVE_UP_REPORT, FENCE_PROBE, FENCE_PROBE_REPLY,
FENCE_PROBE_TIMEOUT, ENDPOINT_CREDIT_STALL. -/
def Obligations.FenceEventsComplete : Prop :=
  ∀ (s : State),
    (∀ peer e, (fenceList s).contains e = false →
      exec (.fenceNotice peer e) s = .next (takeFence e peer (passNotice peer e .fenceNotice s))) ∧
    (∀ peer e, (fenceList s).contains e = true →
      exec (.unfenceNotice peer e) s = .next (dropFence e (passNotice peer e .unfenceNotice s))) ∧
    (∀ peer e, exec (.giveUpReport peer e) s = .next (takeGiveUp e s)) ∧
    (∀ peer, exec (.fenceProbe peer) s = .next (emit (.ctl peer .probeReply [ownDev s] []) s)) ∧
    (∀ d, s.route.probes.any (fun x => x.1 = d) = true → exec (.fenceProbeReply d) s = .next (foundLive (devEp d)
      { s with route := { s.route with probes := s.route.probes.filter fun x => x.1 ≠ d } })) ∧
    (∀ d x, s.route.probes.find? (fun x => x.1 = d) = some x → exec (.fenceProbeTimeout d) s = .next (declareFence (devEp d)
      { advanceTo (x.2.2 + 10000) s with route := { s.route with probes := s.route.probes.filter fun x => x.1 ≠ d } })) ∧
    (∀ l t0, isEdge l = true → (link l s).giveUpAt = some t0 → ∃ t, exec (.endpointCreditStall l) s
      = .next (if cellsWait l t then declareFence (ownEp l t) t else foundLive (ownEp l t) t) ∧ (link l t).giveUpAt = none)

/-- Tundish and output-queue commands complete (R297 to R300, R305, R309): TUNDISH_STATUS, TUNDISH_THRESH_SET, TUNDISH_POOL_SET,
TUNDISH_BANK_SWAP, QUEUE_ALLOC, QUEUE_FREE (packets relinked to the default queue's tail), QUEUE_QUERY, TUNDISH_STATS. -/
def Obligations.TundishCommandsComplete : Prop :=
  ∀ (m : CmdMeta) (s : State),
    (∀ h, Takes m 0x0300 s → h ≤ 1 → exec (.tundishStatus m h) s
      = .next (answer (refOf m 0x0300) stDone (readWords (0x30000000 + h * 0x1000000) 8 s) s)) ∧
    (∀ port cls warn slow stop, Takes m 0x0301 s → port < 52 → cls ≤ 4 → warn < slow → slow < stop → stop ≤ halfCells →
      ∃ t, exec (.tundishThreshSet m port cls warn slow stop) s = .next (done (refOf m 0x0301) t) ∧
        reg .thWarn (threshIdx port cls) t = warn ∧ reg .thSlow (threshIdx port cls) t = slow ∧
        reg .thStop (threshIdx port cls) t = stop ∧
        OnlyRegs [(.thWarn, threshIdx port cls), (.thSlow, threshIdx port cls), (.thStop, threshIdx port cls)] s t) ∧
    (∀ h warn slow stop res, Takes m 0x0302 s → h ≤ 1 → warn < 2 ^ 22 → slow < warn → stop < slow → res < stop →
      highAllow s ≤ res - 16384 → ∃ t, exec (.tundishPoolSet m h warn slow stop res) s = .next (done (refOf m 0x0302) t) ∧
        reg .tuPoolWarn h t = warn ∧ reg .tuPoolSlow h t = slow ∧ reg .tuPoolStop h t = stop ∧ reg .tuReserve h t = res ∧
        OnlyRegs [(.tuPoolWarn, h), (.tuPoolSlow, h), (.tuPoolStop, h), (.tuReserve, h)] s t) ∧
    (∀ h b, TakesLong m 0x0303 s → h ≤ 1 → b ≤ 31 → (half h s).swap = none → flag .tuRiserUsed h s = false →
      exec (.tundishBankSwap m h b) s
        = .next (startBankSwap h b (some (refOf m 0x0303)) (accepted (refOf m 0x0303) s))) ∧
    (∀ port cls heat, Takes m 0x0310 s → (port < 52 ∨ (56 ≤ port ∧ port ≤ 58)) → cls ≤ 4 → heat ≠ 0 →
      (∀ e ∈ extraQueues s, ¬ (e.2.port = port ∧ e.2.vc = cls ∧ e.2.heat = heat)) → freeQueueIdx s < 262144 →
      ((extraQueues s).filter fun e => e.2.port = port).length + 8 < 16384 →
      exec (.queueAlloc m port cls heat) s = .next (answer (refOf m 0x0310) stDone (leBytes 4 (freeQueueIdx s))
        (settleBindings (putQueue (freeQueueIdx s)
          { port := port, vc := cls, dflt := false, pend := !isFabric port, heat := heat, ents := [], tag := 0,
            weight := classWeight port cls s } s)))) ∧
    (∀ i q, Takes m 0x0311 s → 440 ≤ i → i < 262144 → tabFind s.sw.queues i = some q → q.ents = [] →
      exec (.queueFree m i) s = .next (done (refOf m 0x0311) (delQueue i { s with samples := tabDel s.samples i }))) ∧
    (∀ i q e r d, Takes m 0x0311 s → 440 ≤ i → i < 262144 → tabFind s.sw.queues i = some q → q.ents = e :: r →
      queueOf (defaultQueueIdx q.port q.vc) (delQueue i { s with samples := tabDel s.samples i }) = some d → d.ents ≠ [] →
      exec (.queueFree m i) s = .next (done (refOf m 0x0311) (putQueue (defaultQueueIdx q.port q.vc)
        { d with ents := d.ents ++ q.ents.map (fun x => { x with sample := none }) } (delQueue i { s with samples := tabDel s.samples i })))) ∧
    (∀ i q, Takes m 0x0312 s → i < 262144 → queueOf i s = some q →
      exec (.queueQuery m i) s = .next (answer (refOf m 0x0312) stDone (queueDesc q s) (useFree s))) ∧
    (Takes m 0x0320 s → exec (.tundishStats m) s = .next (answer (refOf m 0x0320) stDone (readWords 0x30000020 6 s
      ++ readWords 0x31000020 6 s ++ readWords 0x32000000 5 s ++ readWords 0x33000000 5 s ++ readWords 0x34000004 1 s) s))

/-- Tundish events complete (R294, R305): TUNDISH_RING_TRANSFER below 8,192, above 24,576 and between, BANK_SWAP_COPY_DONE. -/
def Obligations.TundishEventsComplete : Prop :=
  ∀ (s : State) (h : Nat), h < 2 →
    (runCount (half h s).cache < 8192 → (half h s).ring ≠ [] → exec (.tundishRingTransfer h) s
      = .next (incReg .tuRingXferCnt h (modHalf h (fun x => { x with
          cache := x.cache ++ (splitRuns 4096 (half h s).ring).1, ring := (splitRuns 4096 (half h s).ring).2 }) s))) ∧
    (24576 < runCount (half h s).cache → exec (.tundishRingTransfer h) s
      = .next (incReg .tuRingXferCnt h (modHalf h (fun x => { x with
          cache := (splitRuns 4096 (half h s).cache).2, ring := x.ring ++ (splitRuns 4096 (half h s).cache).1 }) s))) ∧
    (8192 ≤ runCount (half h s).cache → runCount (half h s).cache ≤ 24576 → exec (.tundishRingTransfer h) s = .next s) ∧
    (∀ j lost, (half h s).swap = some j → ∃ t, exec (.bankSwapCopyDone h lost) s = .next (finishOpt j.cmd stDone [] t) ∧
      reg .tuRiserUsed h t = 1 ∧ reg .tuRiserFor h t = j.bank % 32 ∧ (half h t).swap = none ∧ t.mem = s.mem ∧ t.links = s.links)

/-- Scheduler commands complete (R312, R315, R316, R322 to R324, R327): SCHED_STATUS, SCHED_CLASS_WEIGHT (one port, all ports),
SCHED_QUEUE_WEIGHT, SCHED_WIN_WRITE, SCHED_WIN_COMMIT, SCHED_WIN_OFF, SCHED_WIN_READ, POLICER_SET (removed, class, stream),
POLICER_READ, SCHED_SAMPLE (on, off), SCHED_HIST_READ, SCHED_SAMPLE_RATE, SCHED_STATS. -/
def Obligations.SchedCommandsComplete : Prop :=
  ∀ (m : CmdMeta) (s : State) (p : Nat), p < 52 →
    (Takes m 0x0400 s → exec (.schedStatus m p) s
      = .next (answer (refOf m 0x0400) stDone (readWords (0x40000000 + p * 0x1000) 8 s) s)) ∧
    (∀ cls w, Takes m 0x0401 s → cls ≤ 4 → 1 ≤ w → w ≤ 255 →
      exec (.schedClassWeight m p cls w) s = .next (done (refOf m 0x0401) (setClassWeight cls w p s)) ∧
      exec (.schedClassWeight m 0xFF cls w) s = .next (done (refOf m 0x0401)
        ((List.range 52).foldl (fun s k => setClassWeight cls w k s) s))) ∧
    (∀ i q w, Takes m 0x0402 s → 440 ≤ i → i < 262144 → 1 ≤ w → w ≤ 255 → tabFind s.sw.queues i = some q → q.port < 52 →
      exec (.schedQueueWeight m i w) s = .next (done (refOf m 0x0402) (putQueue i { q with weight := w } s))) ∧
    (∀ first es, Takes m 0x0410 s → es ≠ [] → es.length ≤ 128 → first + es.length ≤ 1024 → (∀ e ∈ es, e < 2 ^ 62) →
      (schedOf p s).flip = none →
      exec (.schedWinWrite m p first es) s = .next (done (refOf m 0x0410) (modShadow p (fun t => tabFill 0 t first es) s))) ∧
    (∀ n cyc idle guard at', TakesLong m 0x0411 s → n ≤ 1024 → idle ≤ 31 → windowsOk (shadowTable p 0 n s) cyc guard = true →
      activateOk at' s = true → (schedOf p s).flip = none →
      exec (.schedWinCommit m p n cyc idle guard at') s = .next (modSched p (fun k => { k with
          flip := some { at' := at', off := false, count := n, cycle := cyc, idle := idle, guard := guard, cmd := refOf m 0x0411 } })
        (accepted (refOf m 0x0411) s))) ∧
    (∀ at', TakesLong m 0x0412 s → activateOk at' s = true → (schedOf p s).flip = none → flag .sdWinOn p s = true →
      exec (.schedWinOff m p at') s = .next (modSched p (fun k => { k with
          flip := some { at' := at', off := true, count := 0, cycle := 0, idle := 31, guard := 0, cmd := refOf m 0x0412 } })
        (accepted (refOf m 0x0412) s))) ∧
    (∀ first, Takes m 0x0413 s → first < 1024 →
      exec (.schedWinRead m p 0 first) s = .next (answer (refOf m 0x0413) stDone
        ((((activeTable p s).drop first).take 128).flatMap (leBytes 8)) s) ∧
      exec (.schedWinRead m p 1 first) s = .next (answer (refOf m 0x0413) stDone
        ((shadowTable p first (min 128 (1024 - first)) s).flatMap (leBytes 8)) s)) ∧
    (∀ kind stream cls b, Takes m 0x0420 s → policerNamed p kind stream cls = true → ∃ t,
      exec (.policerSet m p kind stream cls 0 b) s = .next (done (refOf m 0x0420) t) ∧
      (kind = 0 → tabFind (schedOf p t).streams (stream * 8 + cls) = none) ∧
      (kind = 1 → tabFind (schedOf p t).classes cls = none)) ∧
    (∀ stream cls r b, Takes m 0x0420 s → policerNamed p 1 stream cls = true → 1 ≤ r → r ≤ 4588 → 65 ≤ b → b ≤ 1048575 → ∃ t,
      exec (.policerSet m p 1 stream cls r b) s = .next (done (refOf m 0x0420) t) ∧
      tabFind (schedOf p t).classes cls = some { r := r, b := b, tokens := b, logAt := none }) ∧
    (∀ stream cls r b, Takes m 0x0420 s → policerNamed p 0 stream cls = true → 1 ≤ r → r ≤ 4588 → 65 ≤ b → b ≤ 1048575 →
      (schedOf p s).streams.length < 1024 → ∃ t,
      exec (.policerSet m p 0 stream cls r b) s = .next (done (refOf m 0x0420) t) ∧
      tabFind (schedOf p t).streams (stream * 8 + cls) = some { r := r, b := b, tokens := b, logAt := none }) ∧
    (∀ stream cls x, Takes m 0x0421 s → policerNamed p 0 stream cls = true →
      tabFind (schedOf p s).streams (stream * 8 + cls) = some x → exec (.policerRead m p 0 stream cls) s
        = .next (answer (refOf m 0x0421) stDone (packFields [(2, x.r), (4, x.b), (4, x.tokens)]) s)) ∧
    (∀ stream cls x, Takes m 0x0421 s → policerNamed p 1 stream cls = true → tabFind (schedOf p s).classes cls = some x →
      exec (.policerRead m p 1 stream cls) s
        = .next (answer (refOf m 0x0421) stDone (packFields [(2, x.r), (4, x.b), (4, x.tokens)]) s)) ∧
    (∀ q, Takes m 0x0430 s → q < 262144 → queueOf q s ≠ none →
      exec (.schedSample m q 0) s = .next (done (refOf m 0x0430) { s with samples := tabDel s.samples q }) ∧
      (tabFind s.samples q = none → s.samples.length < 1024 → exec (.schedSample m q 1) s
        = .next (done (refOf m 0x0430) { s with samples := tabPut s.samples q {} }))) ∧
    (∀ q x, Takes m 0x0431 s → q < 262144 → tabFind s.samples q = some x →
      exec (.schedHistRead m q 0) s = .next (answer (refOf m 0x0431) stDone (sampleBytes x) s) ∧
      exec (.schedHistRead m q 1) s = .next (answer (refOf m 0x0431) stDone (sampleBytes x)
        { s with samples := tabPut s.samples q { count := x.count } })) ∧
    (∀ shift, Takes m 0x0432 s → shift ≤ 15 →
      exec (.schedSampleRate m shift) s = .next (done (refOf m 0x0432) (setReg .spSampleShift 0 shift s))) ∧
    (Takes m 0x0440 s → exec (.schedStats m p) s
      = .next (answer (refOf m 0x0440) stDone (readWords (0x40000020 + p * 0x1000) 3 s) s))

/-- Scheduler events complete (R316, R318, R320, R324): POLICER_REFILL, WINDOW_EDGE with an edge ahead, CYCLE_START, SCHEDULE_FLIP to
the shadow table and to none. -/
def Obligations.SchedEventsComplete : Prop :=
  ∀ (s : State) (p : Nat), p < 52 →
    (isEdge p = true → ((schedOf p s).streams ≠ [] ∨ (schedOf p s).classes ≠ []) → exec (.policerRefill p) s
      = .next (modSched p (fun k => { k with
          streams := k.streams.map fun e => (e.1, refill e.2),
          classes := k.classes.map fun e => (e.1, refill e.2), refillAt := k.refillAt + 1024 })
          (advanceTo ((schedOf p s).refillAt + 1024) s))) ∧
    (flag .sdWinOn p s = true → (schedOf p s).halted = false →
      ∀ x, x ∈ edgesAfter (activeTable p s) (reg .sdCycleNs p s) (phaseAt p (timeBase s) s) → x < reg .sdCycleNs p s →
        (∀ y ∈ edgesAfter (activeTable p s) (reg .sdCycleNs p s) (phaseAt p (timeBase s) s), x ≤ y) →
        exec (.windowEdge p) s = .next (settleWindow p (advance (x - phaseAt p (timeBase s) s) s))) ∧
    (flag .sdWinOn p s = true → ∃ t, exec (.cycleStart p) s = .next (openWindow p t) ∧
      curStart p t = (curStart p s + reg .sdCycleNs p s) % 2 ^ 48 ∧ (schedOf p t).halted = false ∧
      t.time.now = s.time.now + (reg .sdCycleNs p s - subMod (timeBase s) (curStart p s) (2 ^ 48))) ∧
    (∀ j, (schedOf p s).flip = some j → j.off = false → ∃ t, exec (.scheduleFlip p) s = .next (finish j.cmd stDone [] (openWindow p t)) ∧
      reg .sdActiveTable p t = (1 - reg .sdActiveTable p s) % 2 ∧ flag .sdWinOn p t = true ∧ (schedOf p t).flip = none ∧
      curStart p t = timeBase t ∧ t.time.now = s.time.now + flipWait p j.at' s) ∧
    (∀ j, (schedOf p s).flip = some j → j.off = true → ∃ t, exec (.scheduleFlip p) s = .next (finish j.cmd stDone [] t) ∧
      flag .sdWinOn p t = false ∧ reg .sdEntries p t = 0 ∧ reg .sdIdleMask p t = 31 ∧ (schedOf p t).flip = none)

/-- Commands on pages complete (R171, R173, R175, R178, R179, R185), from conditions on the state and the parameters alone.
ALLOC_PAGES: the run of free entries and the frames are taken, page by page, and the GFA of the first is the reply; where frames are
still being zeroed (R172) the allocation waits. FREE_PAGES and MEM_HEAT_FREE: the pages are freed and DONE is the reply where no
other device of the slice is to be asked; else the slice is asked. MEM_PAGE_SET, MEM_PAGE_CLEAR_LOST, MEM_MIGRATE, MEM_MIRROR_SET. -/
def Obligations.PageCommandsComplete : Prop :=
  ∀ (m : CmdMeta) (s : State),
    (∀ heat cls count rw mig set first stripe mstep homes j base, TakesLong m 0x0500 s → homesOf set s = some homes → homes ≠ [] →
      cls ≤ 2 → 1 ≤ count → count ≤ 8388608 → rw ≤ 1 → mig ≤ 1 → 1 ≤ stripe → stripe ≤ 65536 →
      (cls = 2 → 2 ≤ homes.length ∧ 1 ≤ mstep ∧ mstep < homes.length) →
      j = { heat := heat, cls := cls, count := count, rw := rw = 1, mig := mig = 1, homes := homes, first := first,
            stripe := stripe, mstep := mstep, cmd := refOf m 0x0500 } →
      allocRefusal j s = none → freeRun count 0 s.mem.book = some base →
      (framesReady j s = true → exec (.allocPages m heat cls count rw mig set first stripe mstep) s
        = .next (finish (refOf m 0x0500) stDone (leBytes 8 (pageGfa cls (ownDev s * 2 ^ 23 + base)))
          ((List.range count).foldl (fun s i => allocPage j base i s) (accepted (refOf m 0x0500) s)))) ∧
      (framesReady j s = false → ∃ t, exec (.allocPages m heat cls count rw mig set first stripe mstep) s = .next t ∧
        t.mem.allocs = s.mem.allocs ++ [j] ∧ t.mem.book = s.mem.book ∧ t.mem.frames = s.mem.frames)) ∧
    (∀ g count heat, TakesLong m 0x0501 s → runOk g count s = true → runUsed g count s = true → runOwned g count heat s = true →
      (∀ p ∈ runPages g count, pageBusy p s = false ∧ coversPage p s = false) →
      exec (.freePages m g count heat) s
        = .next (startFree (runPages g count) heat false (refOf m 0x0501) (accepted (refOf m 0x0501) s)) ∧
      ((∀ d ∈ sliceDevs heat s, d = ownDev s ∨ presentDev d s = false ∨ fencedDev d s = true) →
        exec (.freePages m g count heat) s = .next (finish (refOf m 0x0501) stDone []
          ((runPages g count).foldl (fun s p => freePage p s) (accepted (refOf m 0x0501) s))))) ∧
    (∀ heat pages, TakesLong m 0x0502 s →
      pages = ((s.mem.book.filter fun e => e.2.state ≠ pgFree && e.2.owner = heat).map fun e => ownDev s * 2 ^ 23 + e.1)
        ++ (s.mem.partner.filter fun e => e.2.state ≠ pgFree && e.2.owner = heat && servesBook (pageBook e.1) s).map (·.1) →
      (∀ p ∈ pages, pageBusy p s = false ∧ coversPage p s = false) →
      exec (.memHeatFree m heat) s
        = .next (startFree pages heat true (refOf m 0x0502) (accepted (refOf m 0x0502) s)) ∧
      ((∀ d ∈ sliceDevs heat s, d = ownDev s ∨ presentDev d s = false ∨ fencedDev d s = true) →
        exec (.memHeatFree m heat) s = .next (finish (refOf m 0x0502) stDone (leBytes 4 pages.length)
          (pages.foldl (fun s p => freePage p s) (accepted (refOf m 0x0502) s))))) ∧
    (∀ g count rw mig old new, Takes m 0x0504 s → runOk g count s = true → runUsed g count s = true → rw ≤ 1 → mig ≤ 1 → new ≠ 0 →
      runOwned g count old s = true → (∀ p ∈ runPages g count, pageBusy p s = false) →
      exec (.memPageSet m g count rw mig old new) s = .next (done (refOf m 0x0504)
        ((runPages g count).foldl (fun s p => setPage p (rw = 1) (mig = 1) new s) s))) ∧
    (∀ g heat h mr, Takes m 0x0505 s → runOk g 1 s = true → runUsed g 1 s = true → (bookEntry (gPage g) s).owner = heat →
      (bookEntry (gPage g) s).state = pgLost → (∀ x ∈ s.mem.moves, x.page ≠ gPage g) →
      clearHome (bookEntry (gPage g) s) s = some h → clearMirror (bookEntry (gPage g) s) h s = some mr →
      exec (.memPageClearLost m g heat) s = .next (restorePage (gPage g) h mr (refOf m 0x0505) s)) ∧
    (∀ g d, TakesLong m 0x0506 s → runOk g 1 s = true → runUsed g 1 s = true → d ≤ 2319 →
      devInSlice (bookEntry (gPage g) s).owner d s = true → pageBusy (gPage g) s = false → onTable (gPage g) s = false →
      (bookEntry (gPage g) s).state = pgValid → d ≠ (bookEntry (gPage g) s).home → d ≠ (bookEntry (gPage g) s).mirror →
      fencedDev d s = false → presentDev d s = true → suppliesFrame d s = true →
      exec (.memMigrate m g d) s = .next (beginMigrate (gPage g) d (refOf m 0x0506) (accepted (refOf m 0x0506) s))) ∧
    (∀ g d, TakesLong m 0x0507 s → runOk g 1 s = true → runUsed g 1 s = true → gCls g = 2 → d ≤ 2319 →
      devInSlice (bookEntry (gPage g) s).owner d s = true → pageBusy (gPage g) s = false →
      (bookEntry (gPage g) s).state = pgValid → d ≠ (bookEntry (gPage g) s).home →
      fencedDev d s = false → presentDev d s = true → suppliesFrame d s = true →
      exec (.memMirrorSet m g d) s = .next (beginMirror (gPage g) d (refOf m 0x0507) (accepted (refOf m 0x0507) s)))

/-- Commands of the memory Shop's engines and tables complete (R157, R174, R183, R185): MEM_PAGE_QUERY (the entry of a page homed
elsewhere; of one homed here, with the counters of the home map), MEM_ARB_SET, MEM_MIGRATE_CTRL, MEM_STATS, MEM_CACHE_FLUSH. -/
def Obligations.MemoryShopCommandsComplete : Prop :=
  ∀ (m : CmdMeta) (s : State),
    (∀ g, Takes m 0x0503 s → gfaOk g = true → bookServer (gBook g) s ≠ none → homeFrame (gPage g) s = none →
      exec (.memPageQuery m g) s = .next (answer (refOf m 0x0503) stDone (leBytes 16 (entBits (entryAt (gPage g) s))) s)) ∧
    (∀ g f r, Takes m 0x0503 s → gfaOk g = true → bookServer (gBook g) s ≠ none → homeFrame (gPage g) s = some f →
      frameRec f s = some r → exec (.memPageQuery m g) s = .next (answer (refOf m 0x0503) stDone
        (leBytes 16 (entBits { entryAt (gPage g) s with hotCnt := r.hotCnt, hotDev := r.hotDev })) s)) ∧
    (∀ wf wp wl we, Takes m 0x0510 s → 1 ≤ wf → wf ≤ 255 → 1 ≤ wp → wp ≤ 255 → 1 ≤ wl → wl ≤ 255 → 1 ≤ we → we ≤ 255 →
      ∃ t, exec (.memArbSet m wf wp wl we) s = .next (done (refOf m 0x0510) t) ∧ reg .meWFabric 0 t = wf ∧ reg .meWPour 0 t = wp ∧
        reg .meWLayer 0 t = wl ∧ reg .meWFettler 0 t = we ∧
        OnlyRegs [(.meWFabric, 0), (.meWPour, 0), (.meWLayer, 0), (.meWFettler, 0)] s t) ∧
    (∀ on, Takes m 0x0511 s → on ≤ 1 → ∃ t, exec (.memMigrateCtrl m on) s = .next (done (refOf m 0x0511) t) ∧
      reg .meMigOn 0 t = on ∧ OnlyRegs [(.meMigOn, 0)] s t) ∧
    (Takes m 0x0520 s → exec (.memStats m) s
      = .next (answer (refOf m 0x0520) stDone (readWords 0x50000000 11 s ++ readWords 0x50000030 2 s) s)) ∧
    (Takes m 0x0521 s → ∃ t, exec (.memCacheFlush m) s = .next (done (refOf m 0x0521) t) ∧ t.mem.cache = [] ∧
      { t with mem := { t.mem with cache := s.mem.cache } } = s)

/-- Pour commands complete (R61, R62, R66, R85, R86, R88, R91, R92): POUR_REGISTER, POUR_ABORT, POUR_QUERY, POUR_FENCE_MAP, MSET_BEGIN,
MSET_WRITE, MSET_SEAL, MSET_FREE, MSET_READ, POUR_CLASS_SET, POUR_SPILL_RESERVE (more, less), POUR_STATS. -/
def Obligations.PourCommandsComplete : Prop :=
  ∀ (m : CmdMeta) (s : State),
    (∀ desc, TakesLong m 0x0600 s → registerCheck desc s = none →
      exec (.pourRegister m desc) s = .next (registerLead desc (refOf m 0x0600) (accepted (refOf m 0x0600) s))) ∧
    (∀ heat id p, Takes m 0x0601 s → pourOf heat id s = some p → p.lead = true → p.endAt = none → p.state ≤ 3 →
      exec (.pourAbort m heat id) s = .next (done (refOf m 0x0601) (failPour heat id stDenied cAborted 0 s))) ∧
    (∀ heat id p, Takes m 0x0602 s → pourOf heat id s = some p → p.endAt = none →
      exec (.pourQuery m heat id) s = .next (answer (refOf m 0x0602) stDone
        (leBytes 1 p.state ++ (chunkCounts p s).flatMap (leBytes 3)) s)) ∧
    (∀ heat id p t0, Takes m 0x0602 s → pourOf heat id s = some p → p.endAt = some t0 →
      exec (.pourQuery m heat id) s = .next (answer (refOf m 0x0602) stDone
        (leBytes 1 p.state ++ p.counts.flatMap (leBytes 3) ++ completionRecord p t0) s)) ∧
    (∀ heat id p, Takes m 0x0603 s → pourOf heat id s = some p → p.lead = true →
      exec (.pourFenceMap m heat id 0) s
        = .next (answer (refOf m 0x0603) stDone (leBytes 2048 (p.memMap.foldl withBit 0)) s) ∧
      exec (.pourFenceMap m heat id 1) s
        = .next (answer (refOf m 0x0603) stDone (leBytes 2048 (p.destMap.foldl withBit 0)) s)) ∧
    (∀ i n, Takes m 0x0610 s → i ≤ 4095 → 1 ≤ n → n ≤ 16384 → setInUse i s = false → setEntriesUsed i s + n ≤ 4194304 →
      exec (.msetBegin m i n) s
        = .next (done (refOf m 0x0610) (putSet i { count := n, entries := [], closed := false, kind := 0 } s))) ∧
    (∀ i first es t, Takes m 0x0611 s → es ≠ [] → es.length ≤ 600 → i ≤ 4095 → tabFind s.pour.sets i = some t →
      first + es.length ≤ t.count → (∀ e ∈ es, e < 2 ^ 18) → setInUse i s = false → ∃ t', exec (.msetWrite m i first es) s
        = .next (done (refOf m 0x0611) (putSet i { t with entries := t', closed := false } s)) ∧
        (∀ k < es.length, tabFind t' (first + k) = es[k]?) ∧
        (∀ k, k < first ∨ first + es.length ≤ k → tabFind t' k = tabFind t.entries k)) ∧
    (∀ i kind t, Takes m 0x0612 s → i ≤ 4095 → kind ≤ 1 → tabFind s.pour.sets i = some t → setInUse i s = false →
      t.count ≤ t.entries.length → (kind = 1 → (setList t).length ≤ 2320) → (∀ e ∈ setList t, entryOk kind e = true) →
      (dedupNat (setList t)).length = (setList t).length →
      exec (.msetSeal m i kind) s = .next (answer (refOf m 0x0612) stDone (shake256 8 (setBytes (setList t)))
        (putSet i { t with closed := true, kind := kind } s))) ∧
    (∀ i t, Takes m 0x0613 s → i ≤ 4095 → tabFind s.pour.sets i = some t → setInUse i s = false →
      exec (.msetFree m i) s
        = .next (done (refOf m 0x0613) { s with pour := { s.pour with sets := tabDel s.pour.sets i } })) ∧
    (∀ i first t, Takes m 0x0614 s → i ≤ 4095 → tabFind s.pour.sets i = some t → first < t.count →
      exec (.msetRead m i first) s = .next (answer (refOf m 0x0614) stDone ((List.range (min 600 (t.count - first))).flatMap fun k =>
        leBytes 4 ((tabFind t.entries (first + k)).getD 0xFFFFFFFF)) s)) ∧
    (∀ cls w, Takes m 0x0620 s → cls ≤ 4 → 1 ≤ w → w ≤ 255 →
      exec (.pourClassSet m cls w) s = .next (done (refOf m 0x0620) (setReg .peClassWeight cls w s))) ∧
    (∀ n, Takes m 0x0621 s → n ≤ 1048575 → s.pour.spill < n → s.pour.spill < (growSpill n s).pour.spill →
      exec (.pourSpillReserve m n) s
        = .next (answer (refOf m 0x0621) stDone (leBytes 4 (growSpill n s).pour.spill) (growSpill n s))) ∧
    (∀ n, Takes m 0x0621 s → n ≤ 1048575 → n ≤ s.pour.spill → exec (.pourSpillReserve m n) s
      = .next (answer (refOf m 0x0621) stDone (leBytes 4 (shrinkSpill n s).pour.spill) (shrinkSpill n s))) ∧
    (Takes m 0x0630 s → exec (.pourStats m) s = .next (answer (refOf m 0x0630) stDone (readWords 0x60000010 6 s) s))

/-- Layer commands complete (R95 to R98, R102, R121 to R123, R128): LAYER_SEG_BEGIN, LAYER_TENSOR_WRITE, LAYER_DESC_WRITE,
LAYER_SEG_SEAL, LAYER_SEG_PLACE, LAYER_SEG_REMOVE, LAYER_RUN, LAYER_ABORT, LAYER_QUERY, LAYER_SAVED_RELEASE, LAYER_STATS. -/
def Obligations.LayerCommandsComplete : Prop :=
  ∀ (m : CmdMeta) (s : State) (i : Nat), i ≤ 15 →
    (∀ heat d t, Takes m 0x0700 s → 1 ≤ d → d ≤ 1024 → 1 ≤ t → t ≤ 1024 →
      (∀ g, segOf i s = some g → g.state = .defining) →
      exec (.layerSegBegin m heat i d t) s = .next (done (refOf m 0x0700)
        (putSeg i { state := .defining, heat := heat, nDesc := d, nTens := t } s))) ∧
    (∀ first es g, es ≠ [] → es.length ≤ 60 → segOf i s = some g → g.state = .defining →
      (Takes m 0x0701 s → (∀ e ∈ es, tensorResvOk (leBytes 32 e) = true) → first + es.length ≤ g.nTens → exec (.layerTensorWrite m i first es) s
        = .next (done (refOf m 0x0701) (putSeg i { g with tens := putEntries g.tens first es } s))) ∧
      (Takes m 0x0702 s → (∀ e ∈ es, ldResvOk (leBytes 32 e) = true) → first + es.length ≤ g.nDesc → exec (.layerDescWrite m i first es) s
        = .next (done (refOf m 0x0702) (putSeg i { g with descs := putEntries g.descs first es } s)))) ∧
    (∀ g, Takes m 0x0703 s → segOf i s = some g → g.state = .defining → sealCheck g = none → ∃ t,
      exec (.layerSegSeal m i) s = .next (answer (refOf m 0x0703) stDone
        (shake256 64 ((segTens g).flatten ++ (segDescs g).flatten)) t) ∧
      segOf i t = some { g with state := .closed, digest := shake256 64 ((segTens g).flatten ++ (segDescs g).flatten) } ∧
      t.mem = s.mem ∧ t.csr = s.csr) ∧
    (∀ g bays rows, TakesLong m 0x0704 s → segOf i s = some g → g.state = .closed → 1 ≤ bays → bays ≤ 100 → 1 ≤ rows →
      rows ≤ 16777216 → exec (.layerSegPlace m i bays rows) s
        = .next (startPlace i g (some (refOf m 0x0704)) bays rows (accepted (refOf m 0x0704) s))) ∧
    (∀ g, TakesLong m 0x0705 s → segOf i s = some g → g.state ≠ .placing → g.state ≠ .removing → g.running = none → g.queue = [] →
      exec (.layerSegRemove m i) s = .next (beginRemove i g (refOf m 0x0705) (accepted (refOf m 0x0705) s))) ∧
    (∀ g pass tag fwd rows first last dl pairs, TakesLong m 0x0706 s → segOf i s = some g → g.state = .placed → pass ≤ 2 →
      pairs.length ≤ 8 → 1 ≤ rows → rows ≤ g.maxRows → first ≤ last → last < g.nDesc →
      (∀ p ∈ pairs, pairOkRun g pass first last p.1 = true ∧ gResv p.2 = 0) → s.det.paused.contains g.heat = false →
      g.queue.length + b2n g.running.isSome < 4 →
      exec (.layerRun m g.heat i pass tag fwd rows first last dl pairs) s = .next (queueRun i
        { cmd := refOf m 0x0706, heat := g.heat, pass := pass, tag := tag, fwd := fwd, rows := rows, first := first,
          last := last, deadline := dl, pairs := pairs, step := tabGet 0 s.det.steps g.heat } g.bays
        (accepted (refOf m 0x0706) s))) ∧
    (∀ g, Takes m 0x0707 s → segOf i s = some g → g.state = .placed →
      exec (.layerAbort m g.heat i) s = .next (done (refOf m 0x0707) (abortRuns i g s))) ∧
    (∀ g, Takes m 0x0708 s → segOf i s = some g →
      exec (.layerQuery m i) s = .next (answer (refOf m 0x0708) stDone (segBody g) s)) ∧
    (∀ g tag, Takes m 0x0709 s → segOf i s = some g → g.state = .placed → g.savedTag = some tag →
      (∀ rs, g.running = some rs → rs.run.pass ≠ 1) → ∃ t, exec (.layerSavedRelease m i tag) s = .next (done (refOf m 0x0709) t) ∧
      segOf i t = some { g with saved := [], savedTag := none, savedGfa := [] } ∧ t.mem = s.mem ∧ t.csr = s.csr) ∧
    (Takes m 0x070A s → exec (.layerStats m) s = .next (answer (refOf m 0x070A) stDone (readWords 0x70000010 4 s) s))

/-- Layer events complete (R20, R21, R116, R118, R123, R124): BAY_OWNERSHIP_TRANSFER both ways, LAYER_RUN_START, LAYER_DESCRIPTOR_DONE,
LAYER_RUN_DEADLINE, SEGMENT_PLACED, BAY_TRANSFER_TIMEOUT. -/
def Obligations.LayerEventsComplete : Prop :=
  ∀ (s : State) (i : Nat),
    (∀ b t0, b < 100 → (tabGet {} s.layer.bays b).transfer = some (true, i, t0) → bayClear b s = true → shopsWait s = false → ∃ t,
      exec (.bayOwnershipTransfer b) s = .next (wakeBay b t) ∧ (tabGet {} t.layer.bays b).seg = some i ∧
      (tabGet {} t.layer.bays b).transfer = none ∧ t.csr = s.csr) ∧
    (∀ b t0, b < 100 → (tabGet {} s.layer.bays b).transfer = some (false, i, t0) → shopsWait s = false → ∃ t,
      exec (.bayOwnershipTransfer b) s = .next (settleRemove i t) ∧ (tabGet {} t.layer.bays b).seg = none ∧
      (tabGet {} t.layer.bays b).transfer = none ∧ t.csr = s.csr) ∧
    (∀ g r rest, segOf i s = some g → g.running = none → g.queue = r :: rest → paused s = false → r.pass = 2 → g.fresh = [] →
      (readMasks g r (advanceTo (bayReadyAt g s) s)).2 = none → ∃ t, exec (.layerRunStart i) s = .next t ∧
      (∃ g' rs, segOf i t = some g' ∧ g'.queue = rest ∧ g'.running = some rs ∧ rs.run = r ∧ rs.next = r.first ∧
        rs.startAt = max s.time.now (bayReadyAt g s))) ∧
    (∀ g rs d, segOf i s = some g → g.running = some rs → d = tabGet [] g.descs rs.next → paused s = false →
      waitsReadout g d = false → descAccess g rs d s = none → ∃ t, exec (.layerDescriptorDone i) s = .next (boundary i t) ∧
      (∃ g' rs', segOf i t = some g' ∧ g'.running = some rs' ∧ rs'.next = rs.next + 1)) ∧
    (∀ g rs, segOf i s = some g → g.running = some rs → rs.run.deadline ≠ 0 → rs.missed = false → ∃ t,
      exec (.layerRunDeadline i) s = .next t ∧ t.time.now = max s.time.now (rs.startAt + rs.run.deadline) ∧
      (∃ g' rs', segOf i t = some g' ∧ g'.running = some rs' ∧ rs'.missed = true)) ∧
    (shopsWait s = false → exec (.segmentPlaced i) s = .next (settleResumes (placeSegment i s))) ∧
    (∀ g g' sram l t, segOf i s = some g → g.state = .placing → g.want ≤ g.bays.length → segAccess g s = none →
      sram = (savedSuffix g g.maxRows (savedBudget g.want) (savedOrder g)).foldl withBit 0 →
      takeSegPages i g.heat (segPages g sram g.maxRows g.want) [] s = some (l, t) → segOf i t = some g →
      g' = { g with state := .placed, sram := sram, weights := loadWeights g t, placeCmd := none, fresh := [], pages := l, lost := [],
                    work := [], dwMask := [] } →
      placeSegment i s = finishOpt g.placeCmd stDone (placeReply g') (notePlaced g' (putSeg i g' t))) ∧
    (∀ g, segOf i s = some g → g.state = .placing → g.bays.length < g.want →
      exec (.bayTransferTimeout i) s = .next (settleResumes (failPlace i stNoResource (advanceTo (g.placeAt + 10000000) s))))

/-- Update commands complete (R129, R132, R133, R139, R141, R148, R149): UPD_RULE_SET, UPD_RULE_READ, UPD_STATE_DEFINE, UPD_STATE_MASK
(a region set, a region cleared), UPD_STATE_QUERY, UPD_STATE_REVERT, UPD_STATE_FREE, EMB_TABLE_DEFINE, EMB_TABLE_QUERY,
EMB_TABLE_FREE, UPD_STATS. -/
def Obligations.UpdateCommandsComplete : Prop :=
  ∀ (m : CmdMeta) (s : State),
    (∀ i e, Takes m 0x0800 s → 1 ≤ i → i ≤ 1023 → ruleOk e = true →
      pourUses (fun p => (pourOp p = 9 || pourOp p = 10) && pourRule p = i) s = false →
      exec (.updRuleSet m i e) s = .next (answer (refOf m 0x0800) stDone (ruleDigest e)
        { s with upd := { s.upd with rules := tabPut s.upd.rules i e } })) ∧
    (∀ i, Takes m 0x0801 s → 1 ≤ i → i ≤ 1023 → exec (.updRuleRead m i) s = .next (answer (refOf m 0x0801) stDone
      (tabGet (List.replicate 32 0) s.upd.rules i ++ ruleDigest (tabGet (List.replicate 32 0) s.upd.rules i)) s)) ∧
    (∀ heat base n kind slot t, Takes m 0x0810 s → 1 ≤ n → n ≤ 2 ^ 40 → 1 ≤ kind → kind ≤ 3 → slot ≤ 1 →
      (gCls base = 0 ∨ gCls base = 2) → gResv base = 0 → gOff base = 0 → rangeStatus heat base (stateBytes n kind) s = none →
      pourUses (fun p => pourOp p = 9 && pourBase p = base) s = false → updRoom s = true →
      exec (.updStateDefine m heat base n kind slot t) s = .next (answer (refOf m 0x0810) stDone
        (stateDigest { heat := heat, base := base, elems := n, kind := kind, slot := slot, t := t })
        { s with upd := { s.upd with states := (s.upd.states.filter fun x => x.base ≠ base) ++
          [{ heat := heat, base := base, elems := n, kind := kind, slot := slot, t := t }] } })) ∧
    (∀ base r o k n kind bitmap u, Takes m 0x0811 s → stateAt base s = some u → r ≤ 15 → kind ≤ 1 → 1 ≤ k → 1 ≤ n →
      o + k * n ≤ u.elems → (∀ x ∈ u.masks, x.region ≠ r → x.o + x.k * x.n ≤ o ∨ o + k * n ≤ x.o) →
      pourUses (fun p => pourOp p = 9 && pourBase p = base) s = false →
      rangeStatus u.heat bitmap (ceilDiv (maskBits k n kind) 8) s = none → ∃ u',
      exec (.updStateMask m base r o k n kind bitmap) s
        = .next (answer (refOf m 0x0811) stDone (stateDigest u') (modState base (fun _ => u') s)) ∧
      u' = { u with masks := (u.masks.filter fun x => x.region ≠ r) ++
        [{ region := r, o := o, k := k, n := n, kind := kind, bitmap := spanRead bitmap (ceilDiv (maskBits k n kind) 8) s }] }) ∧
    (∀ base r o k n bitmap u, Takes m 0x0811 s → stateAt base s = some u → r ≤ 15 →
      pourUses (fun p => pourOp p = 9 && pourBase p = base) s = false → ∃ u',
      exec (.updStateMask m base r o k n 0xFF bitmap) s
        = .next (answer (refOf m 0x0811) stDone (stateDigest u') (modState base (fun _ => u') s)) ∧
      u' = { u with masks := u.masks.filter fun x => x.region ≠ r }) ∧
    (∀ base u, Takes m 0x0812 s → stateAt base s = some u →
      exec (.updStateQuery m base) s = .next (answer (refOf m 0x0812) stDone (packFields [(1, u.slot), (4, u.t)] ++ stateDigest u
        ++ packFields [(4, u.lastPour), (1, b2n u.canRevert)]) s)) ∧
    (∀ base u, Takes m 0x0813 s → stateAt base s = some u → u.canRevert = true →
      pourUses (fun p => pourOp p = 9 && pourBase p = base) s = false →
      exec (.updStateRevert m base) s = .next (answer (refOf m 0x0813) stDone (packFields [(1, 1 - u.slot), (4, u.prevT)])
        (incReg .upRevertCnt 0 (modState base (fun _ => { u with slot := 1 - u.slot, t := u.prevT, canRevert := false }) s)))) ∧
    (∀ base u, Takes m 0x0814 s → stateAt base s = some u → pourUses (fun p => pourOp p = 9 && pourBase p = base) s = false →
      exec (.updStateFree m base) s = .next (done (refOf m 0x0814)
        { s with upd := { s.upd with states := s.upd.states.filter fun x => x.base ≠ base } })) ∧
    (∀ t x, Takes m 0x0820 s → t.lastPour = 0 → tableOk t = true → tabFind s.pour.sets t.setIndex = some x → x.closed = true →
      x.kind = 1 → pourUses (fun p => pourOp p = 10 && pourBase p = t.base) s = false →
      (∀ p ∈ piecesOf t.base (tablePages t * pageBytes), engineCheck t.heat p.1 s ≠ some .denied) → updRoom s = true →
      exec (.embTableDefine m t.heat t.base t.rows t.dim t.fmt t.kind t.buckets t.setIndex) s
        = .next (answer (refOf m 0x0820) stDone (tableDigest t)
          { s with upd := { s.upd with tables := (s.upd.tables.filter fun x => x.base ≠ t.base) ++ [t] } })) ∧
    (∀ base t, Takes m 0x0821 s → tableAt base s = some t → exec (.embTableQuery m base) s
      = .next (answer (refOf m 0x0821) stDone (packFields [(4, t.heat), (8, t.base), (8, t.rows), (2, t.dim), (1, t.fmt),
        (1, t.kind), (4, t.buckets), (2, t.setIndex)] ++ tableDigest t ++ leBytes 4 t.lastPour) s)) ∧
    (∀ base t, Takes m 0x0822 s → tableAt base s = some t → pourUses (fun p => pourOp p = 10 && pourBase p = base) s = false →
      exec (.embTableFree m base) s = .next (done (refOf m 0x0822)
        { s with upd := { s.upd with tables := s.upd.tables.filter fun x => x.base ≠ base } })) ∧
    (Takes m 0x0830 s → exec (.updStats m) s = .next (answer (refOf m 0x0830) stDone (readWords 0x80000008 6 s) s))

/-- Clock commands complete (R380 to R382, R384 to R388, R404, R407, R409): CLK_STATUS, CLK_ACLK_SWAP, CLKOBS_SET, CLK_TRIM, TIME_SET,
CLK_MON_READ, CLK_PLAN. -/
def Obligations.ClockCommandsComplete : Prop :=
  ∀ (m : CmdMeta) (s : State),
    (Takes m 0x0900 s → exec (.clkStatus m) s = .next (answer (refOf m 0x0900) stDone (readWords 0x90000000 9 s) s)) ∧
    (∀ k, TakesLong m 0x0901 s → k = 1 ∨ k = 2 → reg .ckAclkSrc 0 s ≠ k → s.power.aclkSwap = none → ∃ t,
      exec (.clkAclkSwap m k) s = .next t ∧
      t.power.aclkSwap = some { source := k, since := t.time.now, cmd := some (refOf m 0x0901) } ∧
      t.csr = (accepted (refOf m 0x0901) s).csr ∧ t.net = (accepted (refOf m 0x0901) s).net) ∧
    (∀ k div, Takes m 0x0902 s → clockCode k = true → 1 ≤ div → div ≤ 65536 → reg .ckFreqKhz k s ≤ 250000 * div →
      clockGood s.power.obsCur s = true → clockGood k s = true → ∃ t, exec (.clkobsSet m k div) s
        = .next (done (refOf m 0x0902) (selectObs k t)) ∧ reg .ckClkobsDiv 0 t = div - 1 ∧
        ((reg .ckClkEn 0 t).testBit 0 = decide (k ≠ 0)) ∧ t.power = s.power ∧ t.time = s.time) ∧
    (∀ src l, Takes m 0x0903 s → src ≤ 2 → 48 ≤ l → l ≤ 51 → ∃ t, exec (.clkTrim m src l) s = .next (done (refOf m 0x0903) t) ∧
      reg .ckTrimSrc 0 t = src ∧ reg .ckSofLink 0 t = l - 48 ∧ reg .ckFallback 0 t = 0) ∧
    (∀ l frame time f, TakesLong m 0x0904 s → 48 ≤ l → l ≤ 51 → time < 2 ^ 48 → frame < 2 ^ 48 →
      tabFind s.time.frames l = some f → 1 ≤ subMod frame f (2 ^ 48) → subMod frame f (2 ^ 48) ≤ 8000 →
      lkStateOf l s = lkActive → s.time.armed = none → ∃ t, exec (.timeSet m l frame time) s = .next t ∧
      t.time.armed = some { link := l, frame := frame, time := time, cmd := refOf m 0x0904 } ∧
      t.time.base = (accepted (refOf m 0x0904) s).time.base ∧ t.net = (accepted (refOf m 0x0904) s).net) ∧
    (∀ k, Takes m 0x0905 s → clockCode k = true → exec (.clkMonRead m k) s = .next (answer (refOf m 0x0905) stDone
      (leBytes 4 (reg .ckFreqKhz k s) ++ leBytes 1 (reg .ckPresent k s)) s)) ∧
    (Takes m 0x0906 s → exec (.clkPlan m) s = .next (answer (refOf m 0x0906) stDone (clockPlan s ++ clockDigest s) s))

/-- Clock events complete (R380, R381, R383 to R388, R405, R409): CLKOBS_SEL_WRITE, CLKOBS_RST, CLK_EN_WRITE, TIME_LO_READ,
CLKOBS_MUX_RELEASE, ACLK_HANG, ACLK_SWAP_LOCKED, PLL_FAULT_PROPOSAL, CLOCK_MONITOR_WINDOW, TRIM_UPDATE, TIME_BASE_WRAP. -/
def Obligations.ClockEventsComplete : Prop :=
  ∀ (s : State),
    (∀ v, clockCode (v % 256) = true → exec (.clkobsSelWrite v) s = .next (selectObs (v % 256) s)) ∧
    (∃ t, exec .clkobsRst s = .next t ∧ reg .ckClkobsBusy 0 t = 0 ∧ t.power.obsCur = reg .ckClkobsSel 0 s ∧
      t.power.obsNext = none ∧ t.time = s.time) ∧
    (∀ v, exec (.clkEnWrite v) s = .next (setReg .ckClkEn 0 (v % 8) s)) ∧
    (exec .timeLoRead s = .next { s with time := { s.time with
      latchHi := s.time.base / 2 ^ 32, latchWrap := s.time.wrap, latched := true } }) ∧
    (∀ k, s.power.obsNext = some k → clockRuns s.power.obsCur s = true → clockRuns k s = true →
      exec .clkobsMuxRelease s = .next (resetObs s)) ∧
    (s.power.state = .running → reg .ckAclkSrc 0 s = 1 → flag .ckPll1Lock 0 s = true → ∃ t, exec .aclkHang s = .next t ∧ reg .ckAclkSrc 0 t = 2 ∧
      flag .ckPll1Lock 0 t = true ∧ flag .ckPll0Lock 0 t = false ∧ t.pins.faultN = false) ∧
    (s.power.state = .running → reg .ckAclkSrc 0 s = 2 → flag .ckPll0Lock 0 s = true → ∃ t, exec .aclkHang s = .next t ∧ reg .ckAclkSrc 0 t = 1 ∧
      flag .ckPll0Lock 0 t = true ∧ flag .ckPll1Lock 0 t = false ∧ t.pins.faultN = false) ∧
    (∀ j, s.power.aclkSwap = some j → clockGood (sourceCode (reg .ckAclkSrc 0 s)) s = true → clockGood (sourceCode j.source) s = true →
      exec .aclkSwapLocked s = .next (switchAclk j { s with power := { s.power with aclkSwap := none } })) ∧
    (s.power.state = .running → s.power.aclkSwap = none → reg .ckAclkSrc 0 s = 1 → shopsWait s = false →
      (reg .reAuto 0 s).testBit 4 = true → ∃ t,
      exec .pllFaultProposal s = .next t ∧ t.power.aclkSwap = some { source := 2, since := t.time.now, cmd := none } ∧
      t.time = s.time ∧ t.mem = s.mem) ∧
    (∀ r, ∃ t, exec (.clockMonitorWindow r) s = .next t ∧ t.time.now % 10000 = 0 ∧ s.time.now < t.time.now ∧
      t.time.now ≤ s.time.now + 10000 ∧
      (∀ k f, clockCode k = true → tabFind r k = some f → f < 2 ^ 24 → 0 < f → reg .ckFreqKhz k t = f ∧ flag .ckPresent k t = true) ∧
      (∀ k, clockCode k = true → tabFind r k = none → reg .ckFreqKhz k t = 0 ∧ flag .ckPresent k t = false)) ∧
    (∀ r, ∃ t, exec (.trimUpdate r) s = .next t ∧ t.time.now = s.time.now ∧
      (s.time.now ≤ s.power.standbyAt + 10000000 → reg .ckTrim 0 t = r % 2 ^ 24)) ∧
    exec .timeBaseWrap s = .next (advance (2 ^ 48 - s.time.base) s)

/-- Reliability commands complete (R408 to R412, R415, R418, R419, R422, R427): REL_STATUS, RISER_POLICY, RISER_FLASK_SWAP, FRAME_RETIRE,
STACK_FAIL, AGING_READ, RISER_HISTORY_READ, SHAKEOUT_STATUS, SHAKEOUT_READ (unsigned), SHAKEOUT_UNFREEZE, FAULT_SUBSCRIBE,
FAULT_UNSUBSCRIBE, REL_STATS. -/
def Obligations.ReliabilityCommandsComplete : Prop :=
  ∀ (m : CmdMeta) (s : State),
    (Takes m 0x0A00 s → exec (.relStatus m) s = .next (answer (refOf m 0x0A00) stDone (riserCounts s
      ++ packFields [(1, s.rel.degraded.length), (1, reg .shFrozen 0 s), (1, s.rel.subs.length)]) s)) ∧
    (∀ auto age fl fr h, Takes m 0x0A01 s → auto < 32 → 1 ≤ age → age ≤ 255 → fl ≤ 255 → fr ≤ 255 → 1 ≤ h → h ≤ 12 → ∃ t,
      exec (.riserPolicy m auto age fl fr h) s = .next (done (refOf m 0x0A01) t) ∧ reg .reAuto 0 t = auto ∧
      reg .reAgeMinPs 0 t = age ∧ reg .reFlaskCorrLimit 0 t = fl ∧ reg .reFrameCorrLimit 0 t = fr ∧ reg .reHbmScrubH 0 t = h ∧
      OnlyRegs [(.reAuto, 0), (.reAgeMinPs, 0), (.reFlaskCorrLimit, 0), (.reFrameCorrLimit, 0), (.reHbmScrubH, 0)] s t) ∧
    (∀ b f k, TakesLong m 0x0A02 s → b < 100 → f < 100 → s.rel.degraded.contains b = false → bayMoving b s = false →
      flaskSwapping b s = false → freeRiserFlask b s = some k → exec (.riserFlaskSwap m b f) s
        = .next (acceptFlaskSwap (100 * b + f) k (some (refOf m 0x0A02)) (accepted (refOf m 0x0A02) s))) ∧
    (∀ f new, TakesLong m 0x0A03 s → f < frameTotal → frameAllocated f s = true → (∀ x ∈ s.mem.moves, x.old ≠ f) →
      pageBusy (framePage f s) s = false → retireTarget f s = some new → exec (.frameRetire m f) s
        = .next (startRetire f new (some (refOf m 0x0A03)) (accepted (refOf m 0x0A03) s))) ∧
    (∀ st, TakesLong m 0x0A04 s → st ≤ 11 → s.mem.lostStacks.testBit st = false → exec (.stackFail m st) s
      = .next (finish (refOf m 0x0A04) stDone [] (declareStack st (accepted (refOf m 0x0A04) s)))) ∧
    (∀ b, Takes m 0x0A05 s → b < 100 → (reg .ckClkEn 0 s).testBit 1 = true → exec (.agingRead m b) s
      = .next (answer (refOf m 0x0A05) stDone
        ((List.range 104).flatMap fun i => leBytes 1 (tabGet 0 s.rel.margins (b * 104 + i))) s)) ∧
    (∀ first, Takes m 0x0A06 s → first < 65536 → exec (.riserHistoryRead m first) s
      = .next (answer (refOf m 0x0A06) stDone ((s.rel.history.drop first).take 64).flatten s)) ∧
    (Takes m 0x0A10 s → exec (.shakeoutStatus m) s
      = .next (answer (refOf m 0x0A10) stDone (readWords 0xA1000000 5 s) s)) ∧
    (∀ first n nonce, Takes m 0x0A11 s → 1 ≤ n → n ≤ 64 → first < 2 ^ 32 → nonce.length = 16 →
      exec (.shakeoutRead m first n nonce 0) s
        = .next (answer (refOf m 0x0A11) stDone (shakeoutBody first n nonce s) s)) ∧
    (Takes m 0x0A12 s → flag .shFrozen 0 s = true → ∃ t, exec (.shakeoutUnfreeze m (reg .shFreezeSeq 0 s)) s
      = .next (done (refOf m 0x0A12) (logEvent 0x0A05 sevI 0xA1 0xFF (leBytes 4 (reg .shLostCnt 0 s)) t)) ∧
      flag .shFrozen 0 t = false ∧ t.pins.faultN = true ∧ t.rel = s.rel) ∧
    (∀ e cls sev, Takes m 0x0A20 s → devOf e ≤ 2319 → isEdge (portOf e) = true → cls ≤ 4 → sev ≤ 2 → s.rel.subs.length < 4 →
      exec (.faultSubscribe m e cls sev) s = .next (done (refOf m 0x0A20) { s with rel := { s.rel with
        subs := s.rel.subs.filter (fun y => y.endpoint ≠ e) ++
          [{ endpoint := e, cls := cls, sev := sev, secAt := s.time.now, sent := 0 }] } })) ∧
    (∀ e, Takes m 0x0A21 s → (∃ x ∈ s.rel.subs, x.endpoint = e) → exec (.faultUnsubscribe m e) s
      = .next (done (refOf m 0x0A21) { s with rel := { s.rel with subs := s.rel.subs.filter fun y => y.endpoint ≠ e } })) ∧
    (Takes m 0x0A30 s → exec (.relStats m) s = .next (answer (refOf m 0x0A30) stDone (readWords 0xA000000C 6 s) s))

/-- Riser events complete (R409 to R413): FLASK_UNCORRECTABLE, RISER_PROPOSAL of each kind, RISER_FLASK_COPIED, RISER_PROPOSAL_LAPSE,
AGING_MONITOR_REPORT. -/
def Obligations.RiserEventsComplete : Prop :=
  ∀ (s : State),
    (∀ b f, b < 100 → f < 100 → s.rel.degraded.contains b = false → (tabGet {} s.layer.bays b).seg = none → ∃ t,
      exec (.flaskUncorrectable b f) s = .next (replaceFlask b f (failFlaskPours (fun k => k.bay = b && k.flask = f) t)) ∧
      t.pour = s.pour ∧ t.mem = s.mem ∧
      reg .reFlaskUncorrCnt 0 t = min (reg .reFlaskUncorrCnt 0 s + 1) (2 ^ fldWidth .reFlaskUncorrCnt - 1)) ∧
    (∀ u, u < 10000 → shopsWait s = false → exec (.riserProposal 0 u) s = .next (proposeFlask (u / 100) (u % 100) (toBoundary 1000000 s))) ∧
    (∀ u, u < frameTotal → shopsWait s = false → exec (.riserProposal 2 u) s = .next (proposeFrame u (toBoundary 1000000 s))) ∧
    (∀ u, u / 100 < 2 → u % 100 < 32 → shopsWait s = false →
      exec (.riserProposal 3 u) s = .next (proposeBankOf (u / 100) (u % 100) (toBoundary 1000000 s))) ∧
    (∀ b f j, b < 100 → f < 100 → s.rel.proposals.find? (fun x => x.unit = 100 * b + f) = some j → flaskClear b f s = true →
      exec (.riserFlaskCopied b f) s = .next (finishOpt j.cmd stDone [] (swapFlask b f j.riser
        { s with rel := { s.rel with proposals := s.rel.proposals.filter fun x => x.unit ≠ j.unit } }))) ∧
    (∀ u j, s.rel.proposals.find? (fun x => x.unit = u) = some j → ∃ t, exec (.riserProposalLapse 0 u) s
      = .next (logTrigger 0 u 0 (bayBlock (u / 100)) (u / 100) t) ∧ t.time.now = max s.time.now (j.since + 10000000) ∧
      (∀ x ∈ t.rel.proposals, x.unit ≠ u) ∧ t.csr = s.csr ∧ t.mem = s.mem) ∧
    (∀ ms, (reg .ckClkEn 0 s).testBit 1 = true → ∃ t, exec (.agingMonitorReport ms) s = .next t ∧ t.time.now % 1000000000 = 0 ∧
      t.csr = s.csr ∧ (∀ i v, i < 10400 → ms[i]? = some v → v ≤ 255 → reg .pwBayState (i / 104) s = 0 →
        s.rel.degraded.contains (i / 104) = false → tabFind t.rel.margins i = some v))

/-- Scrubbing, stack failure and the Shakeout writer complete (R181, R305, R414 to R417): HBM_SCRUB, STACK_FAILURE_DETECTED,
FLASK_SRAM_SCRUB, TUNDISH_SCRUB, SHAKEOUT_WRITE (record open, record frozen). -/
def Obligations.ScrubEventsComplete : Prop :=
  ∀ (s : State),
    (∀ f n, f < frameTotal → onFailed f s = false → frameAllocated f s = true → ∃ t, exec (.hbmScrub f n []) s = .next t ∧
      t.rel.scrubPos = f + 1 ∧ t.mem = s.mem ∧
      reg .hbCorrCnt (stackOf f) t = min (reg .hbCorrCnt (stackOf f) s + n) (2 ^ fldWidth .hbCorrCnt - 1)) ∧
    (∀ st, st < 12 → s.mem.lostStacks.testBit st = false → exec (.stackFailureDetected st) s = .next (declareStack st s)) ∧
    (∀ u n, u < 10000 → reg .pwBayState (u / 100) s ≤ 1 → ∃ t, exec (.flaskSramScrub [(u, n)]) s = .next t ∧
      t.time.now % 1000000000 = 0 ∧ t.mem = s.mem ∧
      reg .reFlaskCorrCnt 0 t = min (reg .reFlaskCorrCnt 0 s + n) (2 ^ fldWidth .reFlaskCorrCnt - 1)) ∧
    (∀ d c u, d < 2 → ∃ t, exec (.tundishScrub d c u) s = .next t ∧ t.time.now % 10000000000 = 0 ∧ t.mem = s.mem ∧
      reg .tuEccCorrCnt d t = min (reg .tuEccCorrCnt d s + sumNat ((c.filter fun e => decide (e.1 < 32)).map (·.2)))
        (2 ^ fldWidth .tuEccCorrCnt - 1)) ∧
    (∀ e r, s.rel.writer = e :: r → flag .shFrozen 0 s = false → exec .shakeoutWrite s
      = .next (writeEntry e (advance 10 { s with rel := { s.rel with writer := r } }))) ∧
    (∀ e r, s.rel.writer = e :: r → flag .shFrozen 0 s = true → exec .shakeoutWrite s
      = .next (incReg .shLostCnt 0 (advance 10 { s with rel := { s.rel with writer := r } })))

/-- Assay commands of the fabric side complete (R455, R458): ASSAY_STATUS, ASSAY_READ, ASSAY_ATTRIB, ASSAY_ATTRIB_LIST. -/
def Obligations.AssayCommandsComplete : Prop :=
  ∀ (m : CmdMeta) (s : State),
    (Takes m 0x0C00 s → exec (.assayStatus m) s = .next (answer (refOf m 0x0C00) stDone
      (readWords 0x92000000 7 s ++ leBytes 1 (frameField 3 1 s) ++ leBytes 8 (frameField 24 8 s)) s)) ∧
    (∀ c b, Takes m 0x0C01 s → c ≤ 8 → s.assay.rx = some b → exec (.assayRead m c) s = .next (answer (refOf m 0x0C01) stDone
      ((b.drop (frameChan c)).take 24 ++ leBytes 4 (readReg .arFrameSeq 0 s) ++ leBytes 4 (readReg .arAgeMs 0 s)) s)) ∧
    (∀ heat x, Takes m 0x0C02 s → isBound heat s = true → tabFind s.assay.attrib heat = some x →
      exec (.assayAttrib m heat) s = .next (answer (refOf m 0x0C02) stDone (leBytes 8 x.1 ++ leBytes 4 x.2) s)) ∧
    (∀ first, Takes m 0x0C03 s → first < 1025 → exec (.assayAttribList m first) s = .next (answer (refOf m 0x0C03) stDone
      (((s.assay.attrib.drop first).take 100).flatMap fun e => leBytes 4 e.1 ++ leBytes 8 e.2.1) s))

/-- The island's own port completes (R447, R449 to R453): AS_IDENT, AS_SIGN, AS_SIGNED_READING_READY, AS_READING, AS_PARAM, AS_TRAIL,
AS_CERT, AS_CHANGE with a good block, AS_STATUS, AS_UNDEFINED_CODE. -/
def Obligations.IslandPortComplete : Prop :=
  ∀ (s : State), s.assay.vddGood = true →
    (exec .asIdent s = .next (asBlock 0x01 (leBytes 4 Config.assayFwVersion.toNat ++ leBytes 32 Config.assaySoftwareDigest.toNat
      ++ leBytes 8 Config.assaySerial.toNat ++ leBytes 4 s.assay.live.event ++ leBytes 2 s.assay.live.trail.length) s)) ∧
    (∀ c nonce, c ≤ 8 → nonce.length = 16 → exec (.asSign c nonce (writePec (asAddr s) 0x02 (leBytes 1 c ++ nonce))) s
      = .next { s with assay := { s.assay with signing := some (c, nonce), status := asDone } }) ∧
    (∀ c nonce, s.assay.signing = some (c, nonce) → (signsLately s).length < 20 → exec .asSignedReadingReady s
      = .next (let r := readingBody c nonce s ++ leBytes 114 (Config.ed448Sign Config.assayKeySeed kxReading (readingBody c nonce s)).toNat
        { s with assay := { s.assay with signing := none, signTimes := signsLately s ++ [s.time.now], reading := r } })) ∧
    (20 ≤ (signsLately s).length → exec .asSignedReadingReady s = .next s) ∧
    (s.assay.signing = none → s.assay.reading ≠ [] → exec .asReading s = .next (asBlock 0x03 s.assay.reading s)) ∧
    (∀ id c v, paramOf id c (chan c s.assay.live) = some v → exec (.asParam id c (writePec (asAddr s) 0x04
      (packFields [(1, c), (1, id)]))) s = .next (asStatus asDone (asBlock 0x04 (leBytes 8 v) s))) ∧
    (∀ i e, s.assay.live.trail[i]? = some e → exec (.asTrail i (writePec (asAddr s) 0x05 (leBytes 1 i))) s
      = .next (asStatus asDone (asBlock 0x05 e s))) ∧
    (exec .asCert s = .next (asBlock 0x06 (leBytes 8 Config.assaySerial.toNat
      ++ leBytes 57 (Config.ed448Public Config.assayKeySeed).toNat ++ leBytes 114 Config.assayCertSignature.toNat) s)) ∧
    (∀ b, b.length = 128 → exec (.asChange b (writePec (asAddr s) 0x10 b)) s = .next (
      if changeCheck b s = asDone then asStatus asDone (commitChange b s) else asStatus (changeCheck b s) s)) ∧
    (exec .asStatus s = .next (asBlock 0x11 (leBytes 1 s.assay.status) s)) ∧
    (∀ code, exec (.asUndefinedCode code true) s = .next (asStatus asBadCmd s) ∧
      exec (.asUndefinedCode code false) s = .next (asStatus asBadCmd (asBlock code [] s)))

/-- Measurement, supply, seal and frame events complete (R442, R443, R445, R446, R454 to R457): ASSAY_SAMPLE, ASSAY_NV_COMMIT,
ASSAY_VDD_GOOD, ASSAY_VDD_FALLING, SEAL_OPEN_CHANGE, ASSAY_FRAME_SEND, ASSAY_FRAME (good, damaged), ASSAY_SILENT. -/
def Obligations.AssayEventsComplete : Prop :=
  ∀ (s : State),
    (∀ c uv ua, c ≤ 8 → s.assay.vddGood = true → (chan c s.assay.live).enable = 1 →
      exec (.assaySample c uv ua) s = .next (modChan c (sampleChan c uv ua) s)) ∧
    (s.assay.vddGood = true → ∃ t, exec .assayNvCommit s = .next t ∧ t.assay.live.seconds = s.assay.live.seconds + 1 ∧
      t.assay.committed = t.assay.live ∧ t.time.now = max s.time.now (s.assay.secAt + 1000000000)) ∧
    (∀ straps, s.assay.vddGood = false → ∃ t, exec (.assayVddGood straps) s = .next t ∧ t.assay.vddGood = true ∧
      t.assay.straps = straps % 4 ∧ t.assay.live.outage = (s.assay.committed.outage + 1) % 2 ^ 32 ∧
      t.assay.live.chans = s.assay.committed.chans) ∧
    (s.assay.vddGood = true → ∃ t, exec .assayVddFalling s = .next t ∧ t.assay.vddGood = false ∧
      t.assay.committed = s.assay.live ∧ t.assay.live = s.assay.live) ∧
    (∀ b, exec (.sealOpenChange b) s = .next { s with assay := { s.assay with sealOpen := b } }) ∧
    (s.assay.vddGood = true → exec .assayFrameSend s
      = .next (sendAssayFrame (advance (100000000 - s.time.now % 100000000) s))) ∧
    (∀ b, s.power.state = .running → b.length = 252 → fieldAt b 0 2 = 0x5341 → fieldAt b 248 4 = crc32c (b.take 248) →
      exec (.assayFrame b) s = .next (takeFrameBytes b s)) ∧
    (∀ b, s.power.state = .running → fieldAt b 248 4 ≠ crc32c (b.take 248) →
      exec (.assayFrame b) s = .next (incReg .arCrcErrCnt 0 s)) ∧
    (flag .arArriving 0 s = true → ∃ t, exec .assaySilent s = .next t ∧ flag .arArriving 0 t = false ∧
      t.time.now = max s.time.now (s.assay.rxAt + 1000000000) ∧
      reg .arSilentCnt 0 t = min (reg .arSilentCnt 0 s + 1) (2 ^ fldWidth .arSilentCnt - 1))

/-- Record, save and resume commands complete (R331, R336, R338, R342 to R347, R350): DET_STATUS, DET_RECORD_OPEN, DET_DIGEST_RANGE,
DET_RECORD_CLOSE, DET_RECORD_READ, DET_STEP_SET, SAVE_HEAT, RESUME_HEAT. -/
def Obligations.RecordCommandsComplete : Prop :=
  ∀ (m : CmdMeta) (s : State) (heat : Nat), (isBound heat s = true →
    (Takes m 0x0D00 s → exec (.detStatus m heat) s = .next (answer (refOf m 0x0D00) stDone (detBody heat s) s)) ∧
    (∀ rec' scope, Takes m 0x0D01 s → scope ≤ 1 → ctxOfHeat heat s = none → s.det.ctxs.length < 1024 →
      exec (.detRecordOpen m heat rec' scope) s = .next (done (refOf m 0x0D01) { s with det := { s.det with
        ctxs := s.det.ctxs ++ [freshDetCtx heat rec' scope s], records := tabSet 0 s.det.records heat rec',
        held := tabDel s.det.held heat } })) ∧
    (∀ kind gfa n, TakesLong m 0x0D02 s → kind ≤ 2 → 1 ≤ n → n ≤ 2 ^ 40 → gfaOk gfa = true → ctxOfHeat heat s ≠ none → ∃ t,
      exec (.detDigestRange m heat kind gfa n) s = .next t ∧
      t.det.digests = s.det.digests ++ [{ heat := heat, kind := kind, gfa := gfa, len := n, cmd := refOf m 0x0D02 }] ∧
      t.net = (accepted (refOf m 0x0D02) s).net ∧ t.mem = s.mem) ∧
    (∀ x scope sign, TakesLong m 0x0D03 s → scope ≤ 1 → sign ≤ 1 → ctxOfHeat heat s = some x → closeBlocked heat s = false →
      (∀ j ∈ s.det.closes, j.heat ≠ heat) → (sign = 1 → signRoom s = true) →
      exec (.detRecordClose m heat scope sign) s
        = .next (closeRecord heat x scope (sign = 1) (refOf m 0x0D03) (accepted (refOf m 0x0D03) s))) ∧
    (∀ b, Takes m 0x0D04 s → tabFind s.det.held heat = some b →
      exec (.detRecordRead m heat) s = .next (answer (refOf m 0x0D04) stDone b s)) ∧
    (∀ n, Takes m 0x0D10 s → exec (.detStepSet m heat n) s
      = .next (done (refOf m 0x0D10) { s with det := { s.det with steps := tabSet 0 s.det.steps heat (n % 2 ^ 32) } })) ∧
    (∀ e off ms cont, TakesLong m 0x0D20 s → e < 2 ^ 18 → 1 ≤ ms → ms ≤ 10000 → cont ≤ 1 → (∀ j ∈ s.det.saves, j.heat ≠ heat) →
      ∃ t j, exec (.saveHeat m heat e off ms cont) s = .next t ∧ t.det.saves = s.det.saves ++ [j] ∧ j.heat = heat ∧ j.endp = e ∧
        j.offset = off ∧ j.limit = ms * 1000000 ∧ j.writing = false ∧ t.det.paused.contains heat = true)) ∧
    (∀ e off n dg, TakesLong m 0x0D21 s → e < 2 ^ 18 → 64 ≤ n → exec (.resumeHeat m e off n dg) s
      = .next (beginResume { endp := e, offset := off, len := n, digest := dg, image := [], heat := 0, placing := none,
                             cmd := refOf m 0x0D21 } (accepted (refOf m 0x0D21) s)))

/-- Record and save events complete (R336, R342, R345): SAVE_HEAT_WAIT_DONE, SAVE_HEAT_WAIT_TIMEOUT, RECORD_CLOSE_REPLY (not the last,
the last), RECORD_CLOSE_TIMEOUT, DIGEST_RANGE_DONE. -/
def Obligations.RecordEventsComplete : Prop :=
  ∀ (s : State) (heat : Nat),
    (∀ j, s.det.saves.find? (fun x => x.heat = heat) = some j → j.writing = false → heatQuiet heat s = true →
      (∀ g ∈ s.layer.segs, g.2.heat = heat → g.2.saved = []) → exec (.saveHeatWaitDone heat) s
        = .next (sendImage j (saveImage heat s) { s with det := { s.det with saves := s.det.saves.map fun x =>
            if x.heat = heat then { j with writing := true, image := saveImage heat s } else x } })) ∧
    (∀ j, s.det.saves.find? (fun x => x.heat = heat) = some j → j.writing = false →
      exec (.saveHeatWaitTimeout heat) s = .next (endSave j stBadState [] false (advanceTo (j.since + j.limit) s))) ∧
    (∀ j peer body, s.det.closes.find? (fun x => x.heat = heat) = some j → j.awaiting.contains peer = true →
      j.awaiting.filter (· ≠ peer) ≠ [] → ∃ t, exec (.recordCloseReply peer heat body) s = .next t ∧
      t.det.closes.find? (fun x => x.heat = heat)
        = some { j with awaiting := j.awaiting.filter (· ≠ peer), got := j.got ++ [(peer, body)] } ∧ t.mem = s.mem) ∧
    (∀ j peer body, s.det.closes.find? (fun x => x.heat = heat) = some j → j.awaiting = [peer] →
      exec (.recordCloseReply peer heat body) s
        = .next (finishClose { j with awaiting := [], got := j.got ++ [(peer, body)] } s)) ∧
    (∀ j, s.det.closes.find? (fun x => x.heat = heat) = some j → ∃ t, exec (.recordCloseTimeout heat) s
      = .next (finish j.cmd stMemberFenced (leBytes 4 (epOf (j.awaiting.headD 0) 56)) t) ∧ (∀ x ∈ t.det.closes, x.heat ≠ heat) ∧
      t.time.now = max s.time.now (j.since + 1000000) ∧ t.mem = s.mem) ∧
    (∀ j, s.det.digests.find? (fun x => x.heat = heat) = some j → spanCheck heat j.gfa j.len s = none →
      exec (.digestRangeDone heat) s
        = .next (addRange j { s with det := { s.det with digests := s.det.digests.erase j } }))

/-- The sideband completes (R193, R197, R371 to R374): SB_IDENTIFY, SB_COORD, SB_HEALTH, SB_SHAKEOUT and SB_ASSAY from the snapshot,
SB_STATUS live, SB_GROUP_SET and SB_COUNT_SET with a good PEC, SB_UNDEFINED_CODE, SB_SNAPSHOT_REFRESH. -/
def Obligations.SidebandComplete : Prop :=
  ∀ (s : State), s.pins.p12sb = true →
    (exec .sbIdentify s = .next (sbRead 0x01 ((snapshot s).take 24) s)) ∧
    (exec .sbCoord s = .next (sbRead 0x02 (((snapshot s).drop 24).take 5) s)) ∧
    (exec .sbHealth s = .next (sbRead 0x05 (((snapshot s).drop 29).take 32) s)) ∧
    (exec .sbShakeout s = .next (sbRead 0x06 (((snapshot s).drop 61).take 35) s)) ∧
    (exec .sbAssay s = .next (sbRead 0x07 (((snapshot s).drop 96).take 13) s)) ∧
    (exec .sbStatus s = .next (sbRead 0x08 (leBytes 1 (reg .sbLastStatus 0 s)) s)) ∧
    (∀ (g : Byte) n, s.coord.lastCount = some n → g.toNat ≤ 144 → g.toNat < n → s.coord.group = none → ∃ t,
      exec (.sbGroupSet [g] (writePec (reg .sbAddr 0 s) 0x03 [g])) s = .next t ∧ t.coord.group = some g.toNat ∧
      reg .sbLastStatus 0 t = sbDone ∧ reg .sbLastCmd 0 t = 3) ∧
    (∀ (n : Byte), n.toNat ≠ 0 → n.toNat ≤ 145 → s.coord.group = none → s.coord.pendGroup = none → s.coord.count = none → ∃ t,
      exec (.sbCountSet [n] (writePec (reg .sbAddr 0 s) 0x04 [n])) s = .next t ∧ t.coord.count = some n.toNat ∧
      t.coord.lastCount = some n.toNat ∧ reg .sbLastStatus 0 t = sbDone) ∧
    (∀ code data, ∃ t, exec (.sbUndefinedCode code true data (writePec (reg .sbAddr 0 s) code data)) s = .next t ∧
      reg .sbLastStatus 0 t = sbBadCmd ∧ t.coord = s.coord) ∧
    (∀ code data pec, exec (.sbUndefinedCode code false data pec) s = .next (setReg .sbLastStatus 0 sbBadCmd (sbRead code [] s))) ∧
    (∃ t, exec .sbSnapshotRefresh s = .next { t with sb := { t.sb with snapshot := snapBytes t, snapAt := t.time.now } } ∧
      t = advanceTo (s.sb.snapAt + if flag .sbMainSnap 0 s then 10000000 else 100000000) s)

/-- The JTAG port completes (R375, R376): BYPASS, IDCODE, SAMPLE_PRELOAD, EXTEST while RESET_N is asserted and otherwise, CLAMP,
HIGHZ. -/
def Obligations.JtagComplete : Prop :=
  ∀ (s : State),
    (exec .bypass s = .next (jtagBypass (setJtag 0 s))) ∧
    (exec .idcode s = .next (emit (.jtag jtagIdcode 32) (setJtag 1 s))) ∧
    (∀ b, ∃ t, exec (.samplePreload b) s = .next t ∧ t.jtag.instr = 2 ∧ t.jtag.boundary = b ∧ t.pins = s.pins) ∧
    (s.pins.resetN = false → exec .extest s = .next (captureBoundary (setJtag 3 s))) ∧
    (s.pins.resetN = true → exec .extest s = .next (jtagBypass (setJtag 3 s))) ∧
    (exec .clamp s = .next (jtagBypass (setJtag 4 s))) ∧
    (exec .highz s = .next (jtagBypass (setJtag 5 s)))

/-- Packets at the ports complete (R71, R74, R124, R143, R163 to R166, R242 to R244, R354): PUT, GET, GATHER_ROWS, ATOMIC, GET_REPLY,
CONTRIB, RESULT, CHUNK_MARK, CMD from an endpoint allowed to send it with room in its queue, MGMT, ACK, NAK. -/
def Obligations.PortPacketsComplete : Prop :=
  ∀ (p : Packet) (s : State),
    (∀ f q t, q = { p with typ := tyPut } → ServedHere q f s → gCls p.addr ≠ 1 →
      t = hotMigrate (gPage p.addr) f (sampleAccess (ownDev s) f (hbmWrite f (gOff p.addr) p.payload s)) →
      (mirrorOf (gPage p.addr) t = none → exec (.put p false) s = .next (settleAnswers (endRequest q .ack t))) ∧
      (∀ m, mirrorOf (gPage p.addr) t = some m → exec (.put p false) s = .next (settleAnswers (awaitMirror f m q .ack t)))) ∧
    (∀ f q u r t, q = { p with typ := tyPut } → ServedHere q f s → gCls p.addr = 1 → performOn f q s = (r, u) →
      t = hotMigrate (gPage p.addr) f (sampleAccess (ownDev s) f u) → mirrorOf (gPage p.addr) t = none →
      exec (.put p false) s = .next (settleAnswers (endRequest q r t))) ∧
    (exec (.put p true) s = .next (settleAnswers (mirrorStore p s))) ∧
    (∀ f q n u, q = { p with typ := tyGet } → ServedHere q f s → getForm p = 0 → u = noteLines f n [] s →
      exec (.get p n []) s = .next (settleAnswers (endRequest q (.data (hbmRead f (gOff p.addr) (getLow p + 1) u) 0)
        (hotMigrate (gPage p.addr) f (sampleAccess (ownDev s) f u))))) ∧
    (∀ f q n r u, q = { p with typ := tyGet } → ServedHere q f s → performOn f q (noteLines f n [] s) = (r, u) →
      exec (.get p n []) s = .next (settleAnswers (endRequest q r (hotMigrate (gPage p.addr) f (sampleAccess (ownDev s) f u))))) ∧
    (∀ f q n x unc, q = { p with typ := tyGet } → ServedHere q f s → gCls p.addr ≠ 2 → exec (.get p n (x :: unc)) s
      = .next (settleAnswers (endRequest q (.nak stDataLost) (frameLost (gPage p.addr) 1 (noteLines f n (x :: unc) s))))) ∧
    (∀ n b fl t u, s.power.state ≠ .warm → gatherRows { p with typ := tyGet } false s = (.data b fl, t) →
      u = (match (tableAt p.addr s).bind fun t => homeFrame (gPage (rowGfa t 0 (leNat (p.payload.take 8)))) s with
        | some f => noteLines f n [] (incReg .upGatherCnt 0 t)
        | none => incReg .upGatherCnt 0 t) →
      exec (.gatherRows p n []) s = .next (settleAnswers (endRequest { p with typ := tyGet } (.data b fl) u))) ∧
    (∀ f q n old new u t, q = { p with typ := tyAtomic } → ServedHere q f s → gCls p.addr = 0 ∨ gCls p.addr = 2 →
      atOp p = 1 ∨ atOp p = 2 → u = noteLines f n [] s → old = leNat (hbmRead f (gOff p.addr) 8 u) →
      new = (if atOp p = 1 then (old + leNat p.payload) % 2 ^ 64
        else if old = leNat (p.payload.take 8) then leNat (p.payload.drop 8) else old) →
      t = hotMigrate (gPage p.addr) f (sampleAccess (ownDev s) f (hbmWrite f (gOff p.addr) (leBytes 8 new) u)) →
      (mirrorOf (gPage p.addr) t = none →
        exec (.atomic p n []) s = .next (settleAnswers (endRequest q (.data (leBytes 8 old) 0) t))) ∧
      (∀ m, mirrorOf (gPage p.addr) t = some m →
        exec (.atomic p n []) s = .next (settleAnswers (awaitMirror f m q (.data (leBytes 8 old) 0) t)))) ∧
    (∀ f q n r u t, q = { p with typ := tyAtomic } → ServedHere q f s → atOp p = 3 → performOn f q (noteLines f n [] s) = (r, u) →
      t = hotMigrate (gPage p.addr) f (sampleAccess (ownDev s) f u) → mirrorOf (gPage p.addr) t = none →
      exec (.atomic p n []) s = .next (settleAnswers (endRequest q r t))) ∧
    (exec (.getReply p) s = .next (settleAnswers (replyPort p s))) ∧
    (∀ m q k t, contribFate p s = .fits m → pourOf p.heat (paPour p) s = some q →
      contribRoom q (paChunk p) p.payload s = some (k, t) →
      exec (.contrib p) s = .next (settleAnswers (acceptContrib q m p k t))) ∧
    (exec (.result p) s = .next (settleAnswers (resultPort p s))) ∧
    (exec (.chunkMark p) s = .next (settleAnswers (markPort p s))) ∧
    (cmdSourceOk p.src s = true → (cmdQueue (queueOfOp (cmdOp p)) s).length < queueRoom (queueOfOp (cmdOp p)) →
      exec (.cmd p) s = .next (settleAnswers (ackFore { p with typ := tyCmd }
        (acceptCmd { p with typ := tyCmd } (incReg .foreCmdCnt 0 s))))) ∧
    (exec (.mgmt p) s = .next (settleAnswers (ackFore { p with typ := tyMgmt } s))) ∧
    (exec (.ack (.packet p)) s = .next (settleAnswers (sendAnswer { p with typ := tyAck } (noteAcked { p with typ := tyAck } s)))) ∧
    (∀ l b q, isEdge l = true → (lkStateOf l s = lkActive ∨ lkStateOf l s = lkQuarantined) → blockGood b = true →
      blockAnswer l b s = some q → (fieldAt b 0 1 = 2 → exec (.ack (.block l b)) s = .next (takeAnswer q s)) ∧
      (fieldAt b 0 1 = 3 → exec (.nak (.block l b)) s = .next (takeAnswer q s))) ∧
    ((devOf p.dst ≠ ownDev s ∨ isEdge (portOf p.dst) = true) →
      exec (.nak (.packet p)) s = .next (settleAnswers (sendAnswer { p with typ := tyNak } s))) ∧
    (∀ c, nakCause p = c → c = nakDamaged ∨ c = nakNoStream ∨ c = nakGapTimeout ∨ c = stBadState ∨ c = stNoResource →
      exec (.nak (.packet p)) s = .next (settleAnswers (sendAnswer { p with typ := tyNak } s)))

/-- The switch and the command queues complete (R240, R244, R247, R250, R310, R356): PACKET_RECEIVE of a frame whose header CRC is
good, PACKET_DEPART at a link and at an internal port, COMMAND_START of a command that parses and of the queue's order,
RESEND_TIMEOUT of a kept packet and of one given up, GAP_TIMEOUT. -/
def Obligations.SwitchEventsComplete : Prop :=
  ∀ (s : State),
    (∀ l f f' ecc u, l < 52 → linkSends l s = true → takeFrameOn l f s = (f', u) → headerCrcGood f'.hdr = true →
      exec (.packetReceive l f ecc) s = .next (resendMarked (receiveHeader l (1 + f'.cells.length / 40)
        (frameDamaged f' || ecc.uncorrected ≠ []) (frameToPacket f')
        (noteCorrected ecc.corrected.length (addReg .xbEccCnt (dieOfLink l) ecc.corrected.length u))))) ∧
    (∀ l i ecc, l < 52 → linkSends l s = true → departing l (noteNoFit l s) = some i →
      exec (.packetDepart l ecc) s = .next (resendMarked (sendHead l i false ecc (noteNoFit l s)))) ∧
    (∀ port i e q t ecc, 56 ≤ port → port ≤ 58 → departing port s = some i → popQueue i s = some (e, q, t) →
      ecc.uncorrected = [] → exec (.packetDepart port ecc) s
        = .next (settleAnswers (portTakes port e.pkt (settleBindings (dropHold e.hold (noteCellErrs e.hold ecc t)))))) ∧
    (∀ q c r i, q ≤ 8 → mayStart q s = true → cmdQueue q s = c :: r → c.len = c.payload.length →
      parseCommand (metaOfCmd c) c.ref.op c.payload = .ok i →
      tagInUse c { s with fore := { s.fore with queues := tabSet [] s.fore.queues q r } } = false →
      exec (.commandStart q) s = runCommand i { s with fore := { s.fore with queues := tabSet [] s.fore.queues q r } } ∧
      ∃ t, exec (.commandStart q) s = .next t) ∧
    (∀ src dst stream seq x, sentPkt src dst stream seq s = some x → x.again = false → x.tries < resendMax s →
      exec (.resendTimeout src dst stream seq) s = .next (resendKept src dst stream x (advanceTo (x.at' + resendNs s) s))) ∧
    (∀ src dst stream seq x, sentPkt src dst stream seq s = some x → x.again = false → resendMax s ≤ x.tries →
      exec (.resendTimeout src dst stream seq) s = .next (giveUp src stream x (advanceTo (x.at' + resendNs s) s))) ∧
    (∀ src stream dst c, tabFind s.net.ctxs (ctxKey src stream dst) = some c → c.held ≠ [] → c.handed = false →
      exec (.gapTimeout src stream dst) s = .next (resendMarked (breakStream c (advanceTo (oldestHeld c + 1000000) s))))

/-- Messages between home devices and lead complete (R71, R73 to R77, R79, R80, R84, R87): CHUNK_ROUNDED, REGISTER, REG_ACK, OPEN,
ROUND_DONE, COMMIT, ROW_UPDATE, FENCE_QUERY, FENCE_REPLY, ABORT, ABORT_ACK, END. -/
def Obligations.PourMessagesComplete : Prop :=
  ∀ (s : State) (heat id : Nat) (q : Pour),
    (∀ lead desc step rd sd p t, pourOf (dHeat desc) (dPourId desc) s = none → setsMatch desc s = true →
      descTag desc = dTag desc → poursLive s < 65536 → s.det.paused.contains (dHeat desc) = false →
      homeCheck desc rd sd s = none → takeHome p s = some t →
      p = { heat := dHeat desc, pourId := dPourId desc, desc := desc, lead := false, leadDev := lead, step := step,
            p1 := usesP1 desc s, regAt := s.time.now } →
      exec (.registerPour lead desc step rd sd) s = .next (settleReg (dHeat desc) (dPourId desc) t)) ∧
    (pourOf heat id s = some q →
      (∀ c res rows fl t, (chunkOf q c).st = 2 → q.state ≤ 3 → patternKnown q = true → flaskReady (chunkOf q c) s = true →
        roundChunk q c (chunkOf q c) s = .ok res rows fl t →
        exec (.chunkRounded heat id c) s = .next (tryRoundDone heat id (storeRounded q c res rows fl t))) ∧
      (∀ home, q.lead = true → q.state = 0 → q.endAt = none → q.regWait.contains home = true → ∃ t,
        exec (.regAck home heat id (leNat (dTag q.desc)) true true false) s = .next (tryOpen heat id t) ∧
        t = modPour heat id (fun q => { q with regWait := q.regWait.filter (· ≠ home), p1 := q.p1 || false }) s) ∧
      (∀ p1, q.lead = false → q.state = 0 → q.openAt = none → exec (.openPour heat id p1) s = .next (openHere heat id p1 s)) ∧
      (∀ home fl, q.lead = true → q.endAt = none → q.roundWait.contains home = true → exec (.roundDone home heat id 0 fl) s
        = .next (tryCommit heat id (noteRounding heat id (modPour heat id (fun q => { q with
            state := if q.state = 1 ∧ ¬ dRepublish q.desc then 2 else q.state, spilled := q.spilled || bitAt fl 4,
            roundWait := q.roundWait.filter (· ≠ home), flags := orFlags q.flags (flagsOf fl) }) s)))) ∧
      (q.lead = false → q.committed = false → q.state ≤ 3 →
        exec (.commitPour heat id) s = .next (settleOne heat id (commitHere heat id s))) ∧
      (∀ k, q.lead = false → exec (.fenceQuery heat id k) s
        = .next (emit (.ctl q.leadDev .fenceReply [ownDev s, heat, id, k, b2n (holdsMember q k s)] []) s)) ∧
      (∀ home k, q.lead = true → q.state ≠ 7 → q.endAt = none → q.queries.find? (fun x => x.1 = k) = some (k, [home]) →
        exec (.fenceReply home heat id k 1) s = .next (markMember heat id k
          (modPour heat id (fun p => { p with queries := q.queries.filter fun y => y.1 ≠ k }) s)) ∧
        exec (.fenceReply home heat id k 0) s
          = .next (failPour heat id stMemberFenced 0 ((pMembers q s).getD k 0) s)) ∧
      (∀ st, q.lead = false → q.endAt = none → q.state ≠ 7 → exec (.abortPour heat id st) s
        = .next (emit (.ctl q.leadDev .abortAck [ownDev s, heat, id, roundedHere q] []) (trimSpill
          (modPour heat id (fun q => { q with state := 7, status := st, rounded := roundedHere q, chunks := [] }) s)))) ∧
      (∀ home n, q.lead = true → q.state = 7 → q.endAt = none → q.abortWait = [home] → exec (.abortAck home heat id n) s
        = .next (endPour heat id (modPour heat id (fun q => { q with abortWait := [], rounded := q.rounded + n }) s))) ∧
      (∀ cause c, q.lead = false → q.endAt = none → exec (.endPour heat id stDone cause c) s
        = .next (tombstone heat id 5 stDone cause (modPour heat id (fun q => { q with committed := q.committed || c }) s)))) ∧
    (∀ peer base rule rc step row d t fl u, tableAt base s = some t → row < t.rows → rowFaults t row s = [] →
      applyRow { heat := heat, pourId := id, base := base, rule := rule, rc := rc, step := step } t row d { s with upd := { s.upd with
        tables := s.upd.tables.map fun x => if x.base = base then { x with lastPour := id } else x } } = (fl, u) →
      exec (.rowUpdate peer heat id base rule rc step row d) s
        = .next (emit (.ctl peer .roundDone [ownDev s, heat, id, 2, flagBits fl] []) u))

/-- Pour timeouts and tree messages complete (R77, R79, R80, R83, R283, R284): REG_ACK_TIMEOUT, ABORT_ACK_TIMEOUT, POUR_DEADLINE,
TOMBSTONE_EXPIRY, TREE_SETUP, TREE_SETUP_REPLY, TREE_LINK_REPAIR. -/
def Obligations.PourTimersComplete : Prop :=
  ∀ (s : State) (heat id : Nat) (q : Pour),
    (pourOf heat id s = some q →
      (q.lead = true → q.state = 0 → q.regWait ≠ [] → exec (.regAckTimeout heat id) s
        = .next (failPour heat id stNoResource cHomeTimeout 0 (advanceTo (q.regAt + 1000000) s))) ∧
      (∀ t0, q.abortAt = some t0 → q.lead = true → q.state = 7 → q.endAt = none → q.abortWait ≠ [] →
        exec (.abortAckTimeout heat id) s = .next (endPour heat id (advanceTo (t0 + 1000000) s))) ∧
      (∀ t0, q.openAt = some t0 → q.lead = true → dDeadline q.desc ≠ 0 → 1 ≤ q.state → q.state ≤ 3 →
        exec (.pourDeadline heat id) s = .next (missDeadline heat id (advanceTo (t0 + dDeadline q.desc) s))) ∧
      (∀ t0, q.endAt = some t0 → ∃ t, exec (.tombstoneExpiry heat id) s = .next t ∧ pourOf heat id t = none ∧
        t.time.now = max s.time.now (t0 + 1000000000) ∧ t.mem = s.mem)) ∧
    (∀ peer e, treeRoom s = true → exec (.treeSetup peer e) s
      = .next (emit (.ctl peer .treeReply [ownDev s, (treeOfNat e).tree, 1] []) (putTree (treeOfNat e) s))) ∧
    (∀ peer tree b, s.route.builds.find? (fun x => x.tree = tree) = some b → b.awaiting.contains peer = true →
      exec (.treeSetupReply peer tree false) s = .next (treeSettled tree false (dropTree tree s)) ∧
      (b.awaiting.filter (· ≠ peer) = [] → exec (.treeSetupReply peer tree true) s = .next (treeSettled tree true
        { s with route := { s.route with builds := s.route.builds.filter fun x => x.tree ≠ tree } }))) ∧
    (∀ peer l tree x own live es, s.route.treeSets.find? (fun e => e.1 = tree) = some x →
      tabFind s.route.trees (treeKey (ownDev s) tree) = some own → live = x.2.filter (fun e => !fencedEp e s) →
      treePlan tree own.heat live s = some es → exec (.treeLinkRepair peer tree l) s
        = .next (es.foldl (fun s e => if e.1 = ownDev s then putTree { e.2 with gen := (own.gen + 1) % 2 ^ 16 } s
            else emit (.ctl e.1 .treeSetup [treeNat { e.2 with gen := (own.gen + 1) % 2 ^ 16 }] []) s) s))

/-- Forwarded requests, walks and invalidations complete (R159, R160, R252): FWD_DONE, FWD_ACK, FWD_REFORWARD_TIMEOUT,
FWD_DONE_RESEND_TIMEOUT, PATTERN_BOOK_WALK (answered, held), WALK_REPLY, INVALIDATION, INVALIDATION_ACK, PAGE_CACHE_REVALIDATE. -/
def Obligations.ForwardingEventsComplete : Prop :=
  ∀ (s : State) (src stream seq : Nat),
    (∀ home cause e, entryCopy src stream seq s = some e → ∃ t, exec (.fwdDone src stream seq home 0 cause) s
      = .next (releaseFwd src stream (gPage e.pkt.addr) t) ∧ t.net.fwdDone = s.net.fwdDone ++ [(src, stream, seq, home)] ∧
      entryCopy src stream seq t = none ∧ t.out = s.out ++ [.ctl home .fwdAck [src, stream, seq] []]) ∧
    (∀ d, ∃ t, exec (.fwdAck src stream seq d) s = .next t ∧ t.net.fwdHome = (s.net.fwdHome.filter fun e =>
      !(e.src = src && e.stream = stream && e.seq = seq)) ∧ t.mem = s.mem ∧ t.out = s.out) ∧
    (∀ e, entryCopy src stream seq s = some e → e.sent = true →
      exec (.fwdReforwardTimeout src stream seq) s = .next (reforward e (advanceTo (e.at' + resendNs s) s))) ∧
    (∀ e, s.net.fwdHome.find? (fun e => e.src = src && e.stream = stream && e.seq = seq && e.done) = some e → ∃ t,
      exec (.fwdDoneResendTimeout src stream seq) s = .next t ∧
      t.out = s.out ++ [.ctl e.entry .fwdDone [src, stream, seq, ownDev s, 0, 0] []] ∧
      t.time.now = max s.time.now (e.at' + resendNs s)) ∧
    (∀ peer g, servesBook (pageBook (gPage g)) s = true → (bookEntry (gPage g) s).state ≠ pgMoving →
      exec (.patternBookWalk peer g) s
        = .next (emit (.ctl peer .walkReply [gPage g, entBits (bookEntry (gPage g) s)] []) s)) ∧
    (∀ peer g, servesBook (pageBook (gPage g)) s = true → (bookEntry (gPage g) s).state = pgMoving →
      exec (.patternBookWalk peer g) s
        = .next { s with mem := { s.mem with walkHeld := s.mem.walkHeld ++ [(gPage g, peer)] } }) ∧
    (∀ g e, exec (.walkReply g e) s = .next (((s.mem.walks.filter fun w => w.1 = gPage g).flatMap (·.2)).foldl
      (fun s p => walked ((tabFind s.mem.cache (gPage g)).getD (entOfBits e)) p s) (cachePut (gPage g) (entOfBits e)
        { s with mem := { s.mem with walks := s.mem.walks.filter fun w => w.1 ≠ gPage g } }))) ∧
    (∀ g e peer fresh u, u = keepCopy (gPage g) (entOfBits e) peer (cacheUpdate (gPage g) (entOfBits e) s) →
      exec (.invalidation g e peer (.invalidate fresh)) s = .next (emit (.ctl peer .invalidateAck [gPage g] [])
        (if servesBook (pageBook (gPage g)) s then u else followEntry (gPage g) (entOfBits e) fresh u))) ∧
    (∀ g e peer, servesBook (pageBook (gPage g)) s = true → (bookEntry (gPage g) (keepCopy (gPage g) (entOfBits e) peer s)).home = peer →
      exec (.invalidation g e peer .copy) s = .next (amendEntry (gPage g) (fun o => { o with degraded := (entOfBits e).degraded })
        (keepCopy (gPage g) (entOfBits e) peer s))) ∧
    (∀ g e peer n, n = .lost ∨ n = .lostStack ∨ n = .mirrorFailed ∨ n = .moving ∨ n = .moved →
      exec (.invalidation g e peer n) s = .next (homeReport (gPage g) n (entOfBits e) peer s)) ∧
    (∀ g peer, exec (.invalidationAck g peer) s = .next (settleInvals { s with mem := { s.mem with
        invals := s.mem.invals.map fun i =>
          if i.page = gPage g then { i with awaiting := i.awaiting.filter (· ≠ peer) } else i } })) ∧
    (s.mem.cache = [] → exec .pageCacheRevalidate s
      = .next (advanceTo ((s.time.now / 100000000 + 1) * 100000000) s)) ∧
    (∀ pg e d, s.mem.cache = [(pg, e)] → bookServer (pageBook pg) s = some d → d ≠ ownDev s → ∃ t,
      exec .pageCacheRevalidate s = .next (emit (.ctl d .walk [pg] []) t) ∧
      t = incReg .meCacheMiss 0 (advanceTo ((s.time.now / 100000000 + 1) * 100000000) s))

/-- Page moves, stacks, frames and slice queries complete (R172, R173, R175 to R178, R181): MIGRATION_COPY_DONE, MIGRATION_REMAP,
FORWARDING_STUB_EXPIRY, FRAME_RETIREMENT_DONE, MIRROR_RESYNC_DONE, STACK_FAILED, FRAME_ZEROED, SLICE_RECORD_QUERY,
SLICE_RECORD_REPLY, MIRROR_CONFIRM. -/
def Obligations.PageEventsComplete : Prop :=
  ∀ (s : State) (g : Nat),
    (exec (.migrationCopyDone g) s = .next { s with mem := { s.mem with
        moves := s.mem.moves.map fun m =>
          if m.page = gPage g ∧ m.kind ≠ .resync then { m with frozen := true } else m } }) ∧
    (∀ mv, s.mem.moves.find? (fun m => m.page = gPage g && m.kind = .migrate && m.frozen) = some mv →
      exec (.migrationRemap g) s = .next (remapMoved (gPage g) mv s)) ∧
    (∀ f d t0 r, s.mem.frames = [(f, r)] → r.use = .stub (gPage g) d t0 →
      exec (.forwardingStubExpiry g) s = .next (releaseFrame f (advanceTo t0 s))) ∧
    (∀ f mv r, s.mem.moves.find? (fun m => m.old = f && m.kind = .retire) = some mv → frameRec f s = some r →
      exec (.frameRetirementDone f) s = .next (endRetire f mv r s)) ∧
    (∀ mv, s.mem.moves.find? (fun m => m.page = gPage g && m.kind = .resync) = some mv →
      exec (.mirrorResyncDone g) s = .next (endResync (gPage g) mv s)) ∧
    (∀ st, st < 12 → exec (.stackFailed st) s = .next (failStack st s)) ∧
    (∀ f r, f < frameTotal → frameRec f s = some r → r.use = .zeroing → exec (.frameZeroed f) s
      = .next (retryAllocs (wipeFrame f { s with mem := { s.mem with frames := tabDel s.mem.frames f } }))) ∧
    (∀ f, f < frameTotal → frameRec f s = none → frameZeroed f s = false → exec (.frameZeroed f) s
      = .next (retryAllocs { s with mem := { s.mem with bootZeroed := s.mem.bootZeroed ++ [f] } })) ∧
    (∀ peer heat gfas, exec (.sliceRecordQuery peer heat (g :: gfas)) s = .next (emit (.ctl peer .sliceReply
      [heat, g, b2n ((g :: gfas).any fun g => coversPage (gPage g) s)] []) s)) ∧
    (∀ peer j, s.mem.frees.find? (fun j => j.pages.headD 0 = gPage g && j.awaiting.contains peer) = some j →
      exec (.sliceRecordReply peer g true) s
        = .next (finish j.cmd stBadState [] { s with mem := { s.mem with frees := s.mem.frees.filter fun x => x ≠ j } }) ∧
      (j.awaiting = [peer] → exec (.sliceRecordReply peer g false) s = .next (performFree { j with awaiting := [] }
        { s with mem := { s.mem with frees := s.mem.frees.filter fun x => x ≠ j } }))) ∧
    (∀ src stream seq w, s.mem.mirrorWait.find? (fun w => w.1.src = src && w.1.stream = stream && w.1.seq = seq) = some w →
      exec (.mirrorConfirm src stream seq) s = .next (endRequest w.1 (if w.2 = [] then .ack else .data w.2 0)
        { s with mem := { s.mem with mirrorWait := s.mem.mirrorWait.erase w } }))

/-- One step takes the command at the front of the queue and runs it on the state with the queue's rest. -/
def Obligations.StepRunsTheFrontCommand : Prop :=
  ∀ (c : Instr) (r : List Instr) (s : State), step { s with pending := c :: r } = exec c { s with pending := r }

/-- DESIGN CHOICE (log entry 2): on an empty queue a step is one cycle of OSC. The time base and its wrap count (R380) advance by the
trimmed period, of which the part below 1 ns waits in `frac`, and everything else stays. -/
def Obligations.IdleStepIsOneClockCycle : Prop :=
  ∀ s : State, s.pending = [] → ∃ t ns, step s = .next t ∧ { t with time := s.time } = s ∧
    ns * 10000000 + t.time.frac = s.time.frac + oscPeriod s ∧ t.time.frac < 10000000 ∧ t.time.now = s.time.now + ns ∧
    t.time.wrap * 2 ^ 48 + t.time.base = (s.time.wrap * 2 ^ 48 + s.time.base + ns) % 2 ^ 64

/-- No command ever stops the block: whatever its parameters and whatever the state, its effect is a next state (of a command of port
56: one in which it has been answered or refused, R356, R357). And, the model's choice (log entry 115): an event of a unit the device
does not hold changes nothing: of a link from 52 on, a lane from 8 on, a switch half from 2 on, a Bay from 100 on, a Flask of a Bay
from 100 on, an HBM stack from 12 on, a compute die from 4 on, a temperature sensor from 18 on, a current channel from 9 on, an HBM
frame from 147,456 on, a marker sent on a link that is no service link (R10, R13, R150, R186, R397, R442). -/
def Obligations.NoCommandStops : Prop :=
  (∀ (i : Instr) (s : State), ∃ t, exec i s = .next t) ∧
  (∀ (l : Nat) (s : State), 52 ≤ l →
    (∀ ms, exec (.laneCkLock l ms) s = .next s) ∧ (∀ obs, exec (.trainingSet l obs) s = .next s) ∧
    (∀ skew, exec (.linkDeskew l skew) s = .next s) ∧ exec (.coordinatesSetResume l) s = .next s ∧
    (∀ body, exec (.ident l body) s = .next s) ∧ exec (.identSendTick l) s = .next s ∧
    (∀ h n, exec (.credit l h n) s = .next s) ∧ exec (.trainingStepTimeout l) s = .next s ∧
    exec (.trainingRestart l) s = .next s ∧ exec (.lostLockRetrain l) s = .next s ∧
    (∀ ck, exec (.linkLost l ck) s = .next s) ∧ exec (.creditTimeout l) s = .next s ∧
    (∀ b, exec (.controlBlockDiscard l b) s = .next s) ∧ (∀ rd gs, exec (.badColumn l rd gs) s = .next s) ∧
    (∀ k, exec (.cvThresholdSwapProposal l k) s = .next s) ∧
    (∀ k mk, exec (.swapReq l k mk) s = .next s) ∧ (∀ k mk, exec (.swapAck l k mk) s = .next s) ∧
    (∀ tx b, exec (.swapMarkerReached l tx b) s = .next s) ∧ exec (.linkDrained l) s = .next s ∧
    exec (.drainTimeout l) s = .next s ∧ (∀ h, exec (.creditSendTick l h) s = .next s) ∧
    (∀ vc, exec (.levelFallRelease l vc) s = .next s) ∧ (∀ f ecc, exec (.packetReceive l f ecc) s = .next s) ∧
    exec (.endpointCreditStall l) s = .next s ∧ exec (.windowEdge l) s = .next s ∧
    exec (.cycleStart l) s = .next s ∧ exec (.scheduleFlip l) s = .next s ∧
    exec (.policerRefill l) s = .next s) ∧
  (∀ (l : Nat) (s : State), 52 ≤ l → ∀ n, exec (.startOfFrame l n) s = .next s) ∧
  (∀ (l : Nat) (s : State), l < 48 ∨ 52 ≤ l → exec (.startOfFrameSend l) s = .next s) ∧
  (∀ (h : Nat) (s : State), 2 ≤ h →
    exec (.switchHalfBank h) s = .next s ∧ exec (.switchHalfWake h) s = .next s ∧
    exec (.tundishRingTransfer h) s = .next s ∧ (∀ lost, exec (.bankSwapCopyDone h lost) s = .next s) ∧
    exec (.tundishRebuildDone h) s = .next s ∧ (∀ c u, exec (.tundishScrub h c u) s = .next s)) ∧
  (∀ (b : Nat) (s : State), 100 ≤ b →
    exec (.bayWakeDone b) s = .next s ∧ exec (.bayIdleTimer b) s = .next s ∧
    exec (.bayOwnershipTransfer b) s = .next s ∧ (∀ k, exec (.riserFlaskCopied b k) s = .next s) ∧
    (∀ k, exec (.flaskUncorrectable b k) s = .next s) ∧ (∀ k, exec (.riserFlaskCopied k b) s = .next s) ∧
    (∀ k, exec (.flaskUncorrectable k b) s = .next s)) ∧
  (∀ (k : Nat) (s : State), 12 ≤ k → exec (.stackFailed k) s = .next s ∧
    exec (.stackFailureDetected k) s = .next s ∧ (∀ c, exec (.refresh2xChange k c) s = .next s)) ∧
  (∀ (d : Nat) (s : State), 4 ≤ d → exec (.cpllLock d) s = .next s) ∧
  (∀ (k c : Nat) (s : State), 18 ≤ k → exec (.thermalThrottle k c) s = .next s ∧
    exec (.thermalShutdown k c) s = .next s) ∧
  (∀ (k u i : Nat) (s : State), 9 ≤ k → exec (.assaySample k u i) s = .next s ∧
    exec (.commandStart k) s = .next s) ∧
  (∀ (f : Nat) (s : State), 147456 ≤ f → exec (.frameZeroed f) s = .next s ∧
    (∀ c u, exec (.hbmScrub f c u) s = .next s))

/-- Every command of port 56 is checked the same way before its own work, in whatever state it arrives. While the boot ROM is in
recovery a command it does not serve is answered BAD_STATE (R432); else a command with a reserved parameter bit set is answered
BAD_PARAM (R353, R356). Either way nothing else changes. -/
def Obligations.EveryCommandPassesTheGate : Prop :=
  ∀ (i : Instr) (m : CmdMeta) (op : Nat) (b : List Byte) (s : State), paramsOf i = some (m, op, b) →
    (flag .seRecovery 0 s = true → op ∉ recoveryOps → exec i s = .next (refuse (refOf m op) stBadState s)) ∧
    (flag .seRecovery 0 s = false ∨ op ∈ recoveryOps → m.resv ≠ 0 → exec i s = .next (refuse (refOf m op) stBadParam s))

/-- The header cell and the payload cells say all of a packet (R231 to R233, R236): the 40 header bytes of a well-formed packet carry
a good header CRC; with its payload cells, filled up with any bytes, they pass the framing rule; and read back, every field at every
value its field admits, they are that packet. -/
def Obligations.HeaderCellsSpellThePacket : Prop :=
  ∀ (p : Packet) (fill : List Byte) (viol : List Nat) (abort : Bool), packetOk p = true → p.payload.length + fill.length = 40 * payloadCells p →
    headerCrcGood (encodeHeader p) = true ∧
    framingGood { hdr := encodeHeader p, cells := p.payload ++ fill, viol := viol, abort := abort } = true ∧
    frameToPacket { hdr := encodeHeader p, cells := p.payload ++ fill, viol := viol, abort := abort } = p

/-- Every command of port 56 is spelt by its opcode and packed parameters and by nothing else (R353, R356, R471): the bytes of a
well-formed command are read as that command, with every parameter at every value its width admits, and parameter bytes that are
read as a command are the bytes of that command. -/
def Obligations.ParametersSpellTheCommand : Prop :=
  (∀ (i : Instr) (m : CmdMeta) (op : Nat) (b : List Byte), wellFormed i = true → paramsOf i = some (m, op, b) →
    parseCommand m op b = .ok i) ∧
  (∀ (i : Instr) (m : CmdMeta) (op : Nat) (b : List Byte), parseCommand m op b = .ok i → paramsOf i = some (m, op, b))

/-- A command that only reads changes nothing but what its reply's passage changes: every part of the state stays but the registers
(counters), the transport, the switch with its schedulers and samples, the routing choice and what was sent (the command
tables R92, R128, R149, R185, R230, R288, R309, R327, R350, R361, R407, R427, R441, R458). SCHED_HIST_READ may clear the samples it reads. -/
def Obligations.ReadingCommandsOnlyReply : Prop :=
  ∀ (i : Instr) (m : CmdMeta) (op : Nat) (b : List Byte) (s t : State), paramsOf i = some (m, op, b) →
    op ∈ [0x0000, 0x0001, 0x0004, 0x0012, 0x0020, 0x0030, 0x0100, 0x0105, 0x0107, 0x0110, 0x0200, 0x0220, 0x0221, 0x0230,
     0x0300, 0x0312, 0x0320, 0x0400, 0x0413, 0x0421, 0x0431, 0x0440, 0x0503, 0x0520, 0x0602, 0x0603, 0x0614, 0x0630,
     0x0708, 0x070A, 0x0801, 0x0812, 0x0821, 0x0830, 0x0900, 0x0905, 0x0906, 0x0910, 0x0912, 0x0913, 0x0A00, 0x0A05,
     0x0A06, 0x0A10, 0x0A30, 0x0B00, 0x0B02, 0x0B04, 0x0B10, 0x0C00, 0x0C01, 0x0C02, 0x0C03, 0x0D00, 0x0D04] →
    exec i s = .next t → rest t = rest s

/-- Right after standby power-on (R399) nothing waits and nothing has been sent; every register field of the CSR map reads its reset
value; HBM reads 0 at every address; no Heat is bound, no Pour, segment or record is open; and HBM and the registers are in their
canonical form. The reset values of fields the manual gives none are the model's choice (log entry 3). -/
def Obligations.ResetState : Prop :=
  Canonical State.reset ∧ State.reset.pending = [] ∧ State.reset.out = [] ∧
  (∀ (f : Fld) (i : Nat), reg f i State.reset = fldReset f) ∧
  (∀ f off n : Nat, hbmRead f off n State.reset = List.replicate n 0) ∧
  State.reset.coord.binds = [] ∧ State.reset.pour.pours = [] ∧ State.reset.layer.segs = [] ∧ State.reset.det.ctxs = []

/-- A global fabric address and a Pattern Book entry spell their fields at the bits of R155 and R157: an address built from a class,
a book device, an entry and an offset reads back as these, with reserved bits 0, and bits [59:21] are its page number; an entry packed
into 128 bits is unpacked as it was. -/
def Obligations.AddressesAndEntriesSpellTheirFields : Prop :=
  (∀ cls book entry off : Nat, cls < 16 → book < 2 ^ 12 → entry < 2 ^ 23 → off < 2 ^ 21 →
    gCls (pageGfa cls (book * 2 ^ 23 + entry) + off) = cls ∧ gResv (pageGfa cls (book * 2 ^ 23 + entry) + off) = 0 ∧
    gBook (pageGfa cls (book * 2 ^ 23 + entry) + off) = book ∧ gEntry (pageGfa cls (book * 2 ^ 23 + entry) + off) = entry ∧
    gOff (pageGfa cls (book * 2 ^ 23 + entry) + off) = off ∧
    gPage (pageGfa cls (book * 2 ^ 23 + entry) + off) = book * 2 ^ 23 + entry ∧
    pageBook (book * 2 ^ 23 + entry) = book ∧ pageEntry (book * 2 ^ 23 + entry) = entry) ∧
  (∀ e : PageEnt, e.state < 4 → e.cls < 4 → e.home < 2 ^ 12 → e.mirror < 2 ^ 12 → e.frame < 2 ^ 18 → e.hotCnt < 2 ^ 6 →
    e.hotDev < 2 ^ 12 → e.gen < 2 ^ 16 → e.owner < 2 ^ 32 → entBits e < 2 ^ 128 ∧ entOfBits (entBits e) = e)

/-- HBM returns what was stored: after bytes are stored in a frame they read back, every byte of every frame outside them reads as it
did, nothing else of the state changes, and the memory keeps its canonical form. -/
def Obligations.HbmReadsBackWhatWasStored : Prop :=
  ∀ (f off : Nat) (b : List Byte) (s : State),
    hbmRead f off b.length (hbmWrite f off b s) = b ∧
    (∀ g o n : Nat, g * pageBytes + o + n ≤ f * pageBytes + off ∨ f * pageBytes + off + b.length ≤ g * pageBytes + o →
      hbmRead g o n (hbmWrite f off b s) = hbmRead g o n s) ∧
    { hbmWrite f off b s with mem := { (hbmWrite f off b s).mem with hbm := s.mem.hbm } } = s ∧
    (Memory.wf s.mem.hbm = true → Memory.wf (hbmWrite f off b s).mem.hbm = true)

/-- What writing one field of a CSR word does, by its access code (R7): a read-only field ignores the write; a write-one-to-clear field
loses exactly the bits written as 1; a read-write field holds the value written (CLKOBS_SEL, R389, and the fields RESEND_US and
RESEND_MAX, which stand in both switch dies, act beyond one register). No other register and no other state changes. Bits of
the word outside its fields have no effect (R8), and every word of a gated block reads 0 (R366). -/
def Obligations.CsrFieldsFollowTheirAccessCode : Prop :=
  (∀ (addr w : Nat) (s : State) (e : RegRow × Nat), e ∈ wordRows addr →
    (e.1.acc = .ro → writeField w e s = s) ∧
    (e.1.acc = .w1c → OnlyRegs [(e.1.fld, e.2)] s (writeField w e s) ∧
      ∀ k, k < fldWidth e.1.fld → (reg e.1.fld e.2 (writeField w e s)).testBit k =
        ((reg e.1.fld e.2 s).testBit k && !(bitsOf w e.1.hi e.1.lo).testBit k)) ∧
    (e.1.acc = .rw → e.1.fld ∉ [.ckClkobsSel, .scResendUs, .scResendMax] →
      OnlyRegs [(e.1.fld, e.2)] s (writeField w e s) ∧ reg e.1.fld e.2 (writeField w e s) = bitsOf w e.1.hi e.1.lo)) ∧
  (∀ (addr w w' : Nat) (s : State), (∀ e ∈ wordRows addr, bitsOf w e.1.hi e.1.lo = bitsOf w' e.1.hi e.1.lo) →
    writeWord addr w s = writeWord addr w' s) ∧
  (∀ (addr : Nat) (s : State), blockGated addr s = true → csrWord addr s = 0)

/-- R365: a CSR_WRITE is refused, and none of its words is written, with DENIED to blocks 0x92, 0xA1, 0xB0 and 0xB1, with BAD_STATE to a
Bay in ownership transfer, and with BAD_STATE when any word lies in a block that is gated. The hypotheses are the checks that come
before (R356, R363): the parameters are in form and their addresses are defined. -/
def Obligations.CsrWriteRefusals : Prop :=
  ∀ (m : CmdMeta) (addr count : Nat) (words : List Nat) (s : State), Takes m 0x0011 s → words.length = count → 1 ≤ count →
    count ≤ 64 → csrAddrOk addr count = true →
    (∀ k < count, addr + 4 * k = 0x90000008 → clockCode (words.getD k 0 % 256) = true) →
    (csrBlock addr ∈ [0x92, 0xA1, 0xB0, 0xB1] →
      exec (.csrWrite m addr count words) s = .next (refuse (refOf m 0x0011) stDenied s)) ∧
    (0xE0 ≤ csrBlock addr → (tabGet {} s.layer.bays (csrBay addr)).transfer.isSome = true →
      exec (.csrWrite m addr count words) s = .next (refuse (refOf m 0x0011) stBadState s)) ∧
    ((∀ k < count, csrBlock (addr + 4 * k) ∉ [0x92, 0xA1, 0xB0, 0xB1]) → (∃ k < count, blockGated (addr + 4 * k) s = true) →
      exec (.csrWrite m addr count words) s = .next (refuse (refOf m 0x0011) stBadState s)) ∧
    ∀ st, rest (refuse (refOf m 0x0011) st s) = rest s

/-- An Ingot is the exact sum (R44, R47 to R49): entering elements of any format, the 320-bit integer is the sum of their values in units
of 2^-149, modulo 2^320, whatever the order; two Ingots of parts of the elements add up to the Ingot of all; and the side store and
the flags do not depend on the order either. -/
def Obligations.IngotIsTheExactSum : Prop :=
  ∀ (f : Fmt) (xs ys : List Nat),
    ((ingotOf f xs).1.i : Int) = (xs.map fun x => match (decodeVal f x).1 with
      | .fin neg m e => (if neg then -1 else 1) * (m : Int) * 2 ^ (e + 149).toNat
      | _ => 0).sum % 2 ^ 320 ∧
    (∀ (x : Nat) (neg : Bool) (m : Nat) (e : Int), (decodeVal f x).1 = .fin neg m e → 0 ≤ e + 149) ∧
    (xs.Perm ys → ingotOf f xs = ingotOf f ys) ∧
    (ingotOf f (xs ++ ys)).1 = ingotAdd (ingotOf f xs).1 (ingotOf f ys).1

/-- R335: an accumulator is a 512-bit sum with a 64-bit leaf count, both zero when the record opens; a leaf is the first 64 bytes of
SHAKE256 over its kind byte and its body; it is added modulo 2^512, read least significant byte first, and the count rises by one; a
digest is the first 64 bytes of SHAKE256 over the 64 bytes of the sum and the 8 of the count. The order in which leaves arrive does
not matter, nor which of two devices adds them, nor in which order packets with DIGEST set are accepted. -/
def Obligations.RecordDigestsIgnoreOrder : Prop :=
  (∀ (h r sc : Nat) (s : State), (freshDetCtx h r sc s).prog = ⟨0, 0⟩ ∧ (freshDetCtx h r sc s).weights = ⟨0, 0⟩ ∧
    (freshDetCtx h r sc s).inputs = ⟨0, 0⟩ ∧ (freshDetCtx h r sc s).result = ⟨0, 0⟩) ∧
  (∀ (k : Nat) (body : List Byte), leafOf k body = shake256 64 (BitVec.ofNat 8 k :: body)) ∧
  (∀ (a : Accum) (l : List Byte), (addLeaf a l).sum = (a.sum + leNat l) % 2 ^ 512 ∧ (addLeaf a l).count = (a.count + 1) % 2 ^ 64) ∧
  (∀ a : Accum, accDigest a = shake256 64 (leBytes 64 a.sum ++ leBytes 8 a.count)) ∧
  (∀ (a : Accum) (ls ms : List (List Byte)), ls.Perm ms → ls.foldl addLeaf a = ms.foldl addLeaf a) ∧
  (∀ ls ms : List (List Byte), (ls ++ ms).foldl addLeaf ⟨0, 0⟩ = accAdd (ls.foldl addLeaf ⟨0, 0⟩) (ms.foldl addLeaf ⟨0, 0⟩)) ∧
  (∀ (p q : Packet) (s : State), (digestPacket p (digestPacket q s)).det = (digestPacket q (digestPacket p s)).det)

/-- R187: member a reaches member b ≠ a of its own group on link 23 + d, where d = (b - a) mod 16; the far end is link 39 - d of member b;
so link 24 of a member joins link 38 of the next, modulo 16, and link 38 of it joins link 24 of the one before; both ends lie on switch
dies of the same parity. -/
def Obligations.IntraGroupWiring : Prop :=
  (∀ g grp a b : Nat, a < 16 → b < 16 → b ≠ a →
    intraLink a b = 23 + (b + 16 - a) % 16 ∧ isIntra (intraLink a b) = true ∧
    wiredTo g grp a (intraLink a b) = some { dev := grp * 16 + b, link := 39 - (b + 16 - a) % 16 } ∧
    dieOfLink (intraLink a b) = dieOfLink (39 - (b + 16 - a) % 16)) ∧
  (∀ g grp a : Nat, a < 16 →
    wiredTo g grp a 24 = some { dev := grp * 16 + (a + 1) % 16, link := 38 } ∧
    wiredTo g grp a 38 = some { dev := grp * 16 + (a + 15) % 16, link := 24 })

/-- Cables have two ends (R187, R189): in a machine of any size, where a link of a device of a group in the machine is wired to a link of
another device, that link is wired back to it, its device lies in the machine, and no GN-52 is wired to itself. -/
def Obligations.WiringIsSymmetric : Prop :=
  ∀ (g grp member l : Nat) (e : FarEnd), grp < g → member < 16 → wiredTo g grp member l = some e →
    wiredTo g (groupOf e.dev) (memberOf e.dev) e.link = some { dev := grp * 16 + member, link := l } ∧
    groupOf e.dev < g ∧ e.dev ≠ grp * 16 + member ∧ isFabric e.link = true

/-- R301: each half has three pool thresholds on its free cells, 1,048,576, 524,288 and 262,144 at reset; the pool level is 1, 2 or 3
while the free cells lie below the corresponding threshold, and 0 otherwise. The thresholds stand in the order
TUNDISH_POOL_SET keeps. -/
def Obligations.PoolLevelFollowsFreeCells : Prop :=
  (∀ d, reg .tuPoolWarn d State.reset = 1048576 ∧ reg .tuPoolSlow d State.reset = 524288 ∧ reg .tuPoolStop d State.reset = 262144) ∧
  ∀ (d : Nat) (s : State), reg .tuPoolStop d s ≤ reg .tuPoolSlow d s → reg .tuPoolSlow d s ≤ reg .tuPoolWarn d s →
    (readReg .tuPoolLevel d s = 3 ↔ freeCells d s < reg .tuPoolStop d s) ∧
    (readReg .tuPoolLevel d s = 2 ↔ reg .tuPoolStop d s ≤ freeCells d s ∧ freeCells d s < reg .tuPoolSlow d s) ∧
    (readReg .tuPoolLevel d s = 1 ↔ reg .tuPoolSlow d s ≤ freeCells d s ∧ freeCells d s < reg .tuPoolWarn d s) ∧
    (readReg .tuPoolLevel d s = 0 ↔ reg .tuPoolWarn d s ≤ freeCells d s)

/-- The invariant every step keeps: from any state in which HBM and the registers are in canonical form, whatever command is in front
and whatever it carries, the next state is in that form; it has taken exactly the front command from the queue, and its clock
has not run back. -/
def Obligations.StepsKeepTheCanonicalForm : Prop :=
  ∀ s t : State, Canonical s → step s = .next t →
    Canonical t ∧ t.pending = s.pending.tail ∧ s.time.now ≤ t.time.now
end

