-- ==== Sys2Proof/Laws/Command.lean ====
section
/-! SUPPORT. What the shared checks of a port 56 command do (R353, R356, R357, R432). -/
namespace Sys2Proof.Machine

/-- A command that port 56 performs goes to its own checks. -/
theorem command_of_takes {m : CmdMeta} {op : Nat} {s : State} (h : Takes m op s) (k : CmdRef → State → State) :
    command m op k s = .next (k (refOf m op) s) := by
  unfold command
  obtain ⟨h0, h1 | h1⟩ := h <;> rw [h1, h0] <;> simp

/-- In recovery, a command the boot ROM does not serve is answered BAD_STATE. -/
theorem command_in_recovery {m : CmdMeta} {op : Nat} {s : State} (h : flag .seRecovery 0 s = true)
    (ho : recoveryOps.contains op = false) (k : CmdRef → State → State) :
    command m op k s = .next (refuse (refOf m op) stBadState s) := by
  simp only [command, h, ho, Bool.not_false, Bool.and_self, if_true]

/-- A command with a reserved parameter bit set is answered BAD_PARAM. -/
theorem command_of_reserved {m : CmdMeta} {op : Nat} {s : State} (h : flag .seRecovery 0 s = false ∨ recoveryOps.contains op = true)
    (hr : m.resv ≠ 0) (k : CmdRef → State → State) : command m op k s = .next (refuse (refOf m op) stBadParam s) := by
  unfold command
  obtain h | h := h <;> rw [h] <;> simp [hr]

/-- A long command with a place among the outstanding ones starts its work after its ACCEPTED. -/
theorem accept_of_takesLong {m : CmdMeta} {op : Nat} {s : State} (h : TakesLong m op s) (c : CmdRef) (k : State → State) :
    accept c k s = k (accepted c s) := by
  have := h.2
  simp [accept, accepted, Nat.not_le.mpr this]

/-- The same from the bare bound. -/
theorem accept_of_room {s : State} (h : s.fore.outstanding.length < 1024) (c : CmdRef) (k : State → State) :
    accept c k s = k (accepted c s) := by
  simp [accept, accepted, Nat.not_le.mpr h]

/-- A condition that holds lets the command go on. -/
@[simp] theorem requires_true (c : CmdRef) (st : Nat) (k : State → State) (s : State) : requires true c st k s = k s := rfl

/-- A condition that fails is a refusal. -/
@[simp] theorem requires_false (c : CmdRef) (st : Nat) (k : State → State) (s : State) :
    requires false c st k s = refuse c st s := rfl

end Sys2Proof.Machine
end

