-- ==== Sys2Proof/Laws/Forms.lean ====
section
/-! SUPPORT. Byte strings and numbers, and the packing and cutting of parameter fields (R46, R471). -/
namespace Sys2Proof.Machine

@[simp] theorem leBytes_length : ∀ n v, (leBytes n v).length = n
  | 0, _ => rfl
  | n + 1, v => by simp [leBytes, leBytes_length n]

/-- Read back, the low bytes of a number are the number in that width. -/
theorem leNat_leBytes : ∀ n v, leNat (leBytes n v) = v % 256 ^ n
  | 0, v => by simp [leBytes, leNat, Nat.mod_one]
  | n + 1, v => by
    simp only [leBytes, leNat, leNat_leBytes n, BitVec.toNat_ofNat]
    rw [show 256 ^ (n + 1) = 256 * 256 ^ n by rw [pow_succ, Nat.mul_comm], Nat.mod_mul]

/-- A byte string is the bytes of the number it spells. -/
theorem leBytes_leNat : ∀ b : List Byte, leBytes b.length (leNat b) = b
  | [] => rfl
  | x :: r => by
    have hx := x.isLt
    have h : (x.toNat + 256 * leNat r) / 256 = leNat r := by omega
    simp only [List.length_cons, leBytes, leNat, h, leBytes_leNat r]
    congr 1
    apply BitVec.eq_of_toNat_eq
    rw [BitVec.toNat_ofNat]; omega

/-- The number a byte string spells fits its width. -/
theorem leNat_lt : ∀ b : List Byte, leNat b < 256 ^ b.length
  | [] => by simp [leNat]
  | x :: r => by
    have := x.isLt; have := leNat_lt r
    simp only [leNat, List.length_cons, pow_succ]; omega

/-- A number that fits its field is read back as it is. -/
theorem mod_of_fits {w n : Nat} (h : fits w n = true) : n % 256 ^ w = n := Nat.mod_eq_of_lt (by simpa [fits] using h)

/-- Cutting the field packed first. -/
theorem takeFront_pack (w v : Nat) (r : List Nat) (t : List Byte) :
    takeFront (w :: r) (leBytes w v ++ t) = (takeFront r t).map fun x => (v % 256 ^ w :: x.1, x.2) := by
  have hd : (leBytes w v ++ t).drop w = t := by simp
  have ht : (leBytes w v ++ t).take w = leBytes w v := by simp
  rw [takeFront, if_neg (by simp), hd, ht, leNat_leBytes]
  cases takeFront r t <;> rfl

/-- Cutting the field packed last. -/
theorem takeFront_pack_last (w v : Nat) (r : List Nat) :
    takeFront (w :: r) (leBytes w v) = (takeFront r []).map fun x => (v % 256 ^ w :: x.1, x.2) := by
  rw [← takeFront_pack, List.append_nil]

@[simp] theorem takeFront_nil (b : List Byte) : takeFront [] b = some ([], b) := rfl

/-- What was cut is what was packed. -/
theorem takeFront_inv {w : Nat} {r : List Nat} {b t : List Byte} {v : List Nat} (h : takeFront (w :: r) b = some (v, t)) :
    ∃ x v' b', v = x :: v' ∧ b = leBytes w x ++ b' ∧ x < 256 ^ w ∧ takeFront r b' = some (v', t) := by
  rw [takeFront] at h
  split at h
  · cases h
  · rename_i hl
    split at h
    · rename_i l u he
      cases h
      have hw : (b.take w).length = w := by simp; omega
      refine ⟨_, _, b.drop w, rfl, ?_, ?_, he⟩
      · have := leBytes_leNat (b.take w); rw [hw] at this; rw [this, List.take_append_drop]
      · have := leNat_lt (b.take w); rwa [hw] at this
    · cases h

/-- The bytes of a list of numbers, in number. -/
@[simp] theorem numberBytes_length (w : Nat) : ∀ l : List Nat, (numberBytes w l).length = w * l.length
  | [] => rfl
  | a :: l => by
    have := numberBytes_length w l
    simp only [numberBytes, List.flatMap_cons, List.length_append, leBytes_length, List.length_cons] at *
    rw [this, Nat.mul_add]; omega

/-- The bytes of a list of pairs, in number. -/
@[simp] theorem pairBytes_length : ∀ l : List (Nat × Nat), (pairBytes l).length = 10 * l.length
  | [] => rfl
  | a :: l => by
    have := pairBytes_length l
    simp only [pairBytes, List.flatMap_cons, List.length_append, leBytes_length, List.length_cons] at *
    omega

/-- Cut into pieces of `n`, `n` bytes and the rest give those `n` bytes and the rest's pieces. -/
theorem chunksOf_append {α : Type} (n k : Nat) (a l : List α) (ha : a.length = n) (hn : 0 < n) :
    chunksOf n (k + 1) (a ++ l) = a :: chunksOf n k l := by
  cases a with
  | nil => simp at ha; omega
  | cons x r =>
    have ht : (x :: r ++ l).take n = x :: r := by rw [← ha, List.take_left]
    have hd : (x :: r ++ l).drop n = l := by rw [← ha, List.drop_left]
    rw [List.cons_append] at ht hd ⊢
    simp only [chunksOf, ht, hd]

/-- A list of numbers that fit their width is read back. -/
theorem numbers_numberBytes {w : Nat} (hw : 0 < w) {l : List Nat} (h : allFit w l = true) : numbers w (numberBytes w l) = l := by
  have key : ∀ l : List Nat, allFit w l = true → (chunksOf w l.length (numberBytes w l)).map leNat = l := by
    intro l
    induction l with
    | nil => intro _; rfl
    | cons a l ih =>
      intro h
      simp only [allFit, List.all_cons, Bool.and_eq_true] at h
      rw [numberBytes, List.flatMap_cons, List.length_cons, chunksOf_append _ _ _ _ (leBytes_length w a) hw, List.map_cons,
        leNat_leBytes, mod_of_fits h.1]
      exact congrArg _ (ih h.2)
  rw [numbers, takeList, if_neg (by simp; omega), numberBytes_length, Nat.mul_div_cancel_left _ hw, Option.getD_some, key l h]

/-- A list of pairs that fit is read back. -/
theorem numberPairs_pairBytes {l : List (Nat × Nat)} (h : pairsOk l = true) : numberPairs (pairBytes l) = l := by
  rw [numberPairs, pairBytes_length, Nat.mul_div_cancel_left _ (by omega)]
  induction l with
  | nil => rfl
  | cons a l ih =>
    simp only [pairsOk, List.all_cons, Bool.and_eq_true] at h
    rw [pairBytes, List.flatMap_cons, List.length_cons, chunksOf_append _ _ _ _ (by simp) (by omega), List.map_cons]
    congr 1
    · simp only [fieldAt, List.drop_zero]
      rw [show (leBytes 2 a.1 ++ leBytes 8 a.2).take 2 = leBytes 2 a.1 by simp,
        show (leBytes 2 a.1 ++ leBytes 8 a.2).drop 2 = leBytes 8 a.2 by simp,
        show (leBytes 8 a.2).take 8 = leBytes 8 a.2 by simp, leNat_leBytes, leNat_leBytes, mod_of_fits h.1.1, mod_of_fits h.1.2]
    · exact ih h.2

/-- Whole numbers of a width are the bytes of what they are read as. -/
theorem numberBytes_numbers {w : Nat} (hw : 0 < w) : ∀ (k : Nat) (b : List Byte), b.length = w * k → numberBytes w (numbers w b) = b := by
  have key : ∀ (k : Nat) (b : List Byte), b.length = w * k → numberBytes w ((chunksOf w k b).map leNat) = b := by
    intro k
    induction k with
    | zero => intro b h; have : b = [] := List.length_eq_zero_iff.mp (by simpa using h); subst this; rfl
    | succ k ih =>
      intro b h
      have ht : (b.take w).length = w := by rw [Nat.mul_add] at h; simp; omega
      have hb := List.take_append_drop w b
      rw [← hb, chunksOf_append _ _ _ _ ht hw, List.map_cons, numberBytes, List.flatMap_cons]
      have := leBytes_leNat (b.take w); rw [ht] at this
      rw [this]
      exact congrArg _ (ih (b.drop w) (by rw [Nat.mul_add] at h; simp; omega))
  intro k b h
  rw [numbers, takeList, if_neg (by simp [h]; omega), Option.getD_some, h, Nat.mul_div_cancel_left _ hw]
  exact key k b h

/-- Whole pairs are the bytes of what they are read as. -/
theorem pairBytes_numberPairs : ∀ (k : Nat) (b : List Byte), b.length = 10 * k → pairBytes (numberPairs b) = b := by
  intro k b h
  rw [numberPairs, h, Nat.mul_div_cancel_left _ (by omega)]
  induction k generalizing b with
  | zero => have : b = [] := List.length_eq_zero_iff.mp (by simpa using h); subst this; rfl
  | succ k ih =>
    have ht : (b.take 10).length = 10 := by simp; omega
    have hb := List.take_append_drop 10 b
    rw [← hb, chunksOf_append _ _ _ _ ht (by omega), List.map_cons, pairBytes, List.flatMap_cons]
    have h1 : ((b.take 10).take 2).length = 2 := by rw [List.length_take, ht]; rfl
    have h2 : (((b.take 10).drop 2).take 8).length = 8 := by rw [List.length_take, List.length_drop, ht]; rfl
    have e1 := leBytes_leNat ((b.take 10).take 2); rw [h1] at e1
    have e2 := leBytes_leNat (((b.take 10).drop 2).take 8); rw [h2] at e2
    have e3 : ((b.take 10).drop 2).take 8 = (b.take 10).drop 2 := List.take_of_length_le (by rw [List.length_drop, ht])
    simp only [fieldAt, List.drop_zero]
    rw [e1, e2, e3, List.take_append_drop]
    exact congrArg _ (ih (b.drop 10) (by simp; omega))

end Sys2Proof.Machine
end

