-- ==== Sys2Proof/Laws/Table.lean ====
section
/-! SUPPORT. The laws of sparse tables: what is read after a change, and that every change keeps the canonical form. -/
namespace Sys2Proof.Machine

variable {α : Type}

/-- Nothing is listed at a key that was removed. -/
theorem tabGet_tabDel_self (d : α) (t : Tab α) (k : Nat) : tabGet d (tabDel t k) k = d := by
  induction t with
  | nil => rfl
  | cons e r ih =>
    obtain ⟨j, v⟩ := e
    by_cases h : j = k
    · subst h; simpa [tabDel] using ih
    · simp only [tabDel, ne_eq, List.filter_cons, h, not_false_eq_true, decide_true, if_true, tabGet, if_neg (Ne.symm h)]
      simpa [tabDel] using ih

/-- Removing a key leaves every other key alone. -/
theorem tabGet_tabDel_ne (d : α) (t : Tab α) {k j : Nat} (h : j ≠ k) : tabGet d (tabDel t k) j = tabGet d t j := by
  induction t with
  | nil => rfl
  | cons e r ih =>
    obtain ⟨i, v⟩ := e
    by_cases hi : i = k
    · subst hi; simpa [tabDel, tabGet, h] using ih
    · by_cases hj : j = i
      · subst hj; simp [tabDel, tabGet, hi]
      · simpa [tabDel, tabGet, hi, hj] using ih

/-- The entry put in is read back. -/
theorem tabGet_tabIns_self (d : α) (t : Tab α) (k : Nat) (v : α) (h : ∀ e ∈ t, e.1 ≠ k) :
    tabGet d (tabIns k v t) k = v := by
  induction t with
  | nil => simp [tabIns, tabGet]
  | cons e r ih =>
    obtain ⟨i, w⟩ := e
    have hi : i ≠ k := h (i, w) (by simp)
    by_cases hl : k < i
    · simp [tabIns, hl, tabGet]
    · simp only [tabIns, if_neg hl, tabGet, if_neg (Ne.symm hi)]
      exact ih fun e he => h e (by simp [he])

/-- Putting an entry in leaves every other key alone. -/
theorem tabGet_tabIns_ne (d : α) (t : Tab α) {k j : Nat} (v : α) (h : j ≠ k) :
    tabGet d (tabIns k v t) j = tabGet d t j := by
  induction t with
  | nil => simp [tabIns, tabGet, h]
  | cons e r ih =>
    obtain ⟨i, w⟩ := e
    by_cases hl : k < i
    · simp [tabIns, hl, tabGet, h]
    · simp only [tabIns, if_neg hl, tabGet, ih]

/-- A removed key is not listed. -/
theorem tabDel_keys (t : Tab α) (k : Nat) : ∀ e ∈ tabDel t k, e.1 ≠ k := by
  intro e he
  simpa using (List.mem_filter.mp he).2

/-- What is read after a change: the new value at its key, the old one everywhere else. -/
theorem tabGet_tabSet [DecidableEq α] (d : α) (t : Tab α) (k : Nat) (v : α) (j : Nat) :
    tabGet d (tabSet d t k v) j = if j = k then v else tabGet d t j := by
  by_cases hv : v = d
  · subst hv
    by_cases hj : j = k
    · subst hj; simp [tabSet, tabGet_tabDel_self]
    · simp [tabSet, hj, tabGet_tabDel_ne v t hj]
  · by_cases hj : j = k
    · subst hj; simp [tabSet, hv, tabGet_tabIns_self d _ j v (tabDel_keys t j)]
    · simp [tabSet, hv, hj, tabGet_tabIns_ne d _ v hj, tabGet_tabDel_ne d t hj]

/-! ### The canonical form -/

/-- The canonical form, entry by entry: the head's key lies below every later one, and no entry is what an unlisted key reads as. -/
theorem tabWf_cons [DecidableEq α] (d : α) (k : Nat) (v : α) (r : Tab α) :
    tabWf d ((k, v) :: r) = true ↔ v ≠ d ∧ (∀ e ∈ r, k < e.1) ∧ tabWf d r = true := by
  induction r generalizing k v with
  | nil => simp [tabWf]
  | cons e r ih =>
    obtain ⟨j, w⟩ := e
    constructor
    · intro h
      simp only [tabWf, ne_eq, Bool.and_eq_true, decide_eq_true_eq] at h
      refine ⟨h.1.1, ?_, h.2⟩
      intro e he
      rcases List.mem_cons.mp he with rfl | he
      · exact h.1.2
      · exact lt_trans h.1.2 (((ih j w).mp h.2).2.1 e he)
    · rintro ⟨hv, hk, hr⟩
      simp only [tabWf, ne_eq, Bool.and_eq_true, decide_eq_true_eq]
      exact ⟨⟨hv, hk (j, w) (by simp)⟩, hr⟩

/-- Keeping only some entries keeps the canonical form. -/
theorem tabWf_filter [DecidableEq α] (d : α) (p : Nat × α → Bool) (t : Tab α) (h : tabWf d t = true) :
    tabWf d (t.filter p) = true := by
  induction t with
  | nil => rfl
  | cons e r ih =>
    obtain ⟨k, v⟩ := e
    obtain ⟨hv, hk, hr⟩ := (tabWf_cons d k v r).mp h
    by_cases hp : p (k, v) = true
    · rw [List.filter_cons_of_pos hp]
      exact (tabWf_cons d k v _).mpr ⟨hv, fun e he => hk e (List.mem_filter.mp he).1, ih hr⟩
    · rw [List.filter_cons_of_neg hp]; exact ih hr

/-- The entries after one is put in. -/
theorem mem_tabIns (k : Nat) (v : α) (t : Tab α) (e : Nat × α) : e ∈ tabIns k v t ↔ e = (k, v) ∨ e ∈ t := by
  induction t with
  | nil => simp [tabIns]
  | cons x r ih =>
    obtain ⟨i, w⟩ := x
    by_cases h : k < i
    · simp [tabIns, h]
    · simp only [tabIns, if_neg h, List.mem_cons, ih]
      tauto

/-- Putting a new entry in keeps the canonical form. -/
theorem tabWf_tabIns [DecidableEq α] (d : α) (k : Nat) (v : α) (t : Tab α) (hv : v ≠ d) (hk : ∀ e ∈ t, e.1 ≠ k)
    (h : tabWf d t = true) : tabWf d (tabIns k v t) = true := by
  induction t with
  | nil => simp [tabIns, tabWf, hv]
  | cons x r ih =>
    obtain ⟨i, w⟩ := x
    obtain ⟨hw, hi, hr⟩ := (tabWf_cons d i w r).mp h
    by_cases hl : k < i
    · rw [tabIns, if_pos hl]
      refine (tabWf_cons d k v _).mpr ⟨hv, fun e he => ?_, h⟩
      rcases List.mem_cons.mp he with rfl | he
      · exact hl
      · exact lt_trans hl (hi e he)
    · rw [tabIns, if_neg hl]
      refine (tabWf_cons d i w _).mpr ⟨hw, fun e he => ?_, ih (fun e he => hk e (by simp [he])) hr⟩
      rcases (mem_tabIns k v r e).mp he with rfl | he
      · exact lt_of_le_of_ne (Nat.le_of_not_lt hl) (hk (i, w) (by simp))
      · exact hi e he

/-- A change keeps the canonical form. -/
theorem tabWf_tabSet [DecidableEq α] (d : α) (t : Tab α) (k : Nat) (v : α) (h : tabWf d t = true) :
    tabWf d (tabSet d t k v) = true := by
  unfold tabSet
  split
  · exact tabWf_filter d _ t h
  · rename_i hv
    exact tabWf_tabIns d k v _ hv (tabDel_keys t k) (tabWf_filter d _ t h)

/-- Several changes keep the canonical form. -/
theorem tabWf_tabFill [DecidableEq α] (d : α) (l : List α) (t : Tab α) (k : Nat) (h : tabWf d t = true) :
    tabWf d (tabFill d t k l) = true := by
  induction l generalizing t k with
  | nil => exact h
  | cons v r ih => exact ih _ _ (tabWf_tabSet d t k v h)

/-- The same for a list of changes at any keys. -/
theorem tabWf_foldl_tabSet [DecidableEq α] (d : α) (l : List (Nat × α)) (t : Tab α) (h : tabWf d t = true) :
    tabWf d (l.foldl (fun t e => tabSet d t e.1 e.2) t) = true := by
  induction l generalizing t with
  | nil => exact h
  | cons e r ih => exact ih _ (tabWf_tabSet d t e.1 e.2 h)

/-- What is read after consecutive values were stored. -/
theorem tabGet_tabFill [DecidableEq α] (d : α) (l : List α) (t : Tab α) (k j : Nat) :
    tabGet d (tabFill d t k l) j = if k ≤ j ∧ j < k + l.length then l.getD (j - k) d else tabGet d t j := by
  induction l generalizing t k with
  | nil => simp [tabFill]
  | cons v r ih =>
    rw [tabFill, ih, tabGet_tabSet]
    rcases lt_trichotomy j k with h | rfl | h
    · simp [Nat.not_le.mpr h, show ¬ k + 1 ≤ j by omega, show j ≠ k by omega]
    · simp
    · by_cases h2 : j < k + 1 + r.length
      · have e1 : j - k = (j - (k + 1)) + 1 := by omega
        rw [if_pos ⟨h, h2⟩, if_pos ⟨by omega, by simp only [List.length_cons]; omega⟩, e1, List.getD_cons_succ]
      · rw [if_neg (fun x => h2 x.2), if_neg (by omega), if_neg (fun x => h2 (by have := x.2; simp only [List.length_cons] at this; omega))]

/-- A range reads what each key reads. -/
theorem tabRange_eq (d : α) (t : Tab α) (k n : Nat) : tabRange d t k n = (List.range n).map fun i => tabGet d t (k + i) := by
  induction n generalizing k with
  | zero => rfl
  | succ n ih =>
    rw [tabRange, ih, List.range_succ_eq_map, List.map_cons, List.map_map]
    simp only [Nat.add_zero, List.cons.injEq, true_and]
    refine List.map_congr_left fun i _ => ?_
    simp only [Function.comp_apply, Nat.succ_eq_add_one]
    congr 1; omega

end Sys2Proof.Machine
end

