-- ==== Sys2Proof/Laws/State.lean ====
section
/-! SUPPORT. What each basic update of the state leaves alone: one lemma a field, and what a register reads as afterwards. -/
namespace Sys2Proof.Machine

/-! setReg changes `csr` alone. -/

@[simp] theorem setReg_pending (f : Fld) (i v : Nat) (s : State) : (setReg f i v s).pending = s.pending := rfl
@[simp] theorem setReg_out (f : Fld) (i v : Nat) (s : State) : (setReg f i v s).out = s.out := rfl
@[simp] theorem setReg_freeCtr (f : Fld) (i v : Nat) (s : State) : (setReg f i v s).freeCtr = s.freeCtr := rfl
@[simp] theorem setReg_time (f : Fld) (i v : Nat) (s : State) : (setReg f i v s).time = s.time := rfl
@[simp] theorem setReg_pins (f : Fld) (i v : Nat) (s : State) : (setReg f i v s).pins = s.pins := rfl
@[simp] theorem setReg_coord (f : Fld) (i v : Nat) (s : State) : (setReg f i v s).coord = s.coord := rfl
@[simp] theorem setReg_power (f : Fld) (i v : Nat) (s : State) : (setReg f i v s).power = s.power := rfl
@[simp] theorem setReg_fore (f : Fld) (i v : Nat) (s : State) : (setReg f i v s).fore = s.fore := rfl
@[simp] theorem setReg_sb (f : Fld) (i v : Nat) (s : State) : (setReg f i v s).sb = s.sb := rfl
@[simp] theorem setReg_jtag (f : Fld) (i v : Nat) (s : State) : (setReg f i v s).jtag = s.jtag := rfl
@[simp] theorem setReg_links (f : Fld) (i v : Nat) (s : State) : (setReg f i v s).links = s.links := rfl
@[simp] theorem setReg_eq (f : Fld) (i v : Nat) (s : State) : (setReg f i v s).eq = s.eq := rfl
@[simp] theorem setReg_eqFlash (f : Fld) (i v : Nat) (s : State) : (setReg f i v s).eqFlash = s.eqFlash := rfl
@[simp] theorem setReg_net (f : Fld) (i v : Nat) (s : State) : (setReg f i v s).net = s.net := rfl
@[simp] theorem setReg_route (f : Fld) (i v : Nat) (s : State) : (setReg f i v s).route = s.route := rfl
@[simp] theorem setReg_sw (f : Fld) (i v : Nat) (s : State) : (setReg f i v s).sw = s.sw := rfl
@[simp] theorem setReg_sched (f : Fld) (i v : Nat) (s : State) : (setReg f i v s).sched = s.sched := rfl
@[simp] theorem setReg_samples (f : Fld) (i v : Nat) (s : State) : (setReg f i v s).samples = s.samples := rfl
@[simp] theorem setReg_rel (f : Fld) (i v : Nat) (s : State) : (setReg f i v s).rel = s.rel := rfl
@[simp] theorem setReg_sec (f : Fld) (i v : Nat) (s : State) : (setReg f i v s).sec = s.sec := rfl
@[simp] theorem setReg_assay (f : Fld) (i v : Nat) (s : State) : (setReg f i v s).assay = s.assay := rfl
@[simp] theorem setReg_mem (f : Fld) (i v : Nat) (s : State) : (setReg f i v s).mem = s.mem := rfl
@[simp] theorem setReg_pour (f : Fld) (i v : Nat) (s : State) : (setReg f i v s).pour = s.pour := rfl
@[simp] theorem setReg_layer (f : Fld) (i v : Nat) (s : State) : (setReg f i v s).layer = s.layer := rfl
@[simp] theorem setReg_upd (f : Fld) (i v : Nat) (s : State) : (setReg f i v s).upd = s.upd := rfl
@[simp] theorem setReg_det (f : Fld) (i v : Nat) (s : State) : (setReg f i v s).det = s.det := rfl

/-! addReg changes `csr` alone. -/

@[simp] theorem addReg_pending (f : Fld) (i k : Nat) (s : State) : (addReg f i k s).pending = s.pending := rfl
@[simp] theorem addReg_out (f : Fld) (i k : Nat) (s : State) : (addReg f i k s).out = s.out := rfl
@[simp] theorem addReg_freeCtr (f : Fld) (i k : Nat) (s : State) : (addReg f i k s).freeCtr = s.freeCtr := rfl
@[simp] theorem addReg_time (f : Fld) (i k : Nat) (s : State) : (addReg f i k s).time = s.time := rfl
@[simp] theorem addReg_pins (f : Fld) (i k : Nat) (s : State) : (addReg f i k s).pins = s.pins := rfl
@[simp] theorem addReg_coord (f : Fld) (i k : Nat) (s : State) : (addReg f i k s).coord = s.coord := rfl
@[simp] theorem addReg_power (f : Fld) (i k : Nat) (s : State) : (addReg f i k s).power = s.power := rfl
@[simp] theorem addReg_fore (f : Fld) (i k : Nat) (s : State) : (addReg f i k s).fore = s.fore := rfl
@[simp] theorem addReg_sb (f : Fld) (i k : Nat) (s : State) : (addReg f i k s).sb = s.sb := rfl
@[simp] theorem addReg_jtag (f : Fld) (i k : Nat) (s : State) : (addReg f i k s).jtag = s.jtag := rfl
@[simp] theorem addReg_links (f : Fld) (i k : Nat) (s : State) : (addReg f i k s).links = s.links := rfl
@[simp] theorem addReg_eq (f : Fld) (i k : Nat) (s : State) : (addReg f i k s).eq = s.eq := rfl
@[simp] theorem addReg_eqFlash (f : Fld) (i k : Nat) (s : State) : (addReg f i k s).eqFlash = s.eqFlash := rfl
@[simp] theorem addReg_net (f : Fld) (i k : Nat) (s : State) : (addReg f i k s).net = s.net := rfl
@[simp] theorem addReg_route (f : Fld) (i k : Nat) (s : State) : (addReg f i k s).route = s.route := rfl
@[simp] theorem addReg_sw (f : Fld) (i k : Nat) (s : State) : (addReg f i k s).sw = s.sw := rfl
@[simp] theorem addReg_sched (f : Fld) (i k : Nat) (s : State) : (addReg f i k s).sched = s.sched := rfl
@[simp] theorem addReg_samples (f : Fld) (i k : Nat) (s : State) : (addReg f i k s).samples = s.samples := rfl
@[simp] theorem addReg_rel (f : Fld) (i k : Nat) (s : State) : (addReg f i k s).rel = s.rel := rfl
@[simp] theorem addReg_sec (f : Fld) (i k : Nat) (s : State) : (addReg f i k s).sec = s.sec := rfl
@[simp] theorem addReg_assay (f : Fld) (i k : Nat) (s : State) : (addReg f i k s).assay = s.assay := rfl
@[simp] theorem addReg_mem (f : Fld) (i k : Nat) (s : State) : (addReg f i k s).mem = s.mem := rfl
@[simp] theorem addReg_pour (f : Fld) (i k : Nat) (s : State) : (addReg f i k s).pour = s.pour := rfl
@[simp] theorem addReg_layer (f : Fld) (i k : Nat) (s : State) : (addReg f i k s).layer = s.layer := rfl
@[simp] theorem addReg_upd (f : Fld) (i k : Nat) (s : State) : (addReg f i k s).upd = s.upd := rfl
@[simp] theorem addReg_det (f : Fld) (i k : Nat) (s : State) : (addReg f i k s).det = s.det := rfl

/-! incReg changes `csr` alone. -/

@[simp] theorem incReg_pending (f : Fld) (i : Nat) (s : State) : (incReg f i s).pending = s.pending := rfl
@[simp] theorem incReg_out (f : Fld) (i : Nat) (s : State) : (incReg f i s).out = s.out := rfl
@[simp] theorem incReg_freeCtr (f : Fld) (i : Nat) (s : State) : (incReg f i s).freeCtr = s.freeCtr := rfl
@[simp] theorem incReg_time (f : Fld) (i : Nat) (s : State) : (incReg f i s).time = s.time := rfl
@[simp] theorem incReg_pins (f : Fld) (i : Nat) (s : State) : (incReg f i s).pins = s.pins := rfl
@[simp] theorem incReg_coord (f : Fld) (i : Nat) (s : State) : (incReg f i s).coord = s.coord := rfl
@[simp] theorem incReg_power (f : Fld) (i : Nat) (s : State) : (incReg f i s).power = s.power := rfl
@[simp] theorem incReg_fore (f : Fld) (i : Nat) (s : State) : (incReg f i s).fore = s.fore := rfl
@[simp] theorem incReg_sb (f : Fld) (i : Nat) (s : State) : (incReg f i s).sb = s.sb := rfl
@[simp] theorem incReg_jtag (f : Fld) (i : Nat) (s : State) : (incReg f i s).jtag = s.jtag := rfl
@[simp] theorem incReg_links (f : Fld) (i : Nat) (s : State) : (incReg f i s).links = s.links := rfl
@[simp] theorem incReg_eq (f : Fld) (i : Nat) (s : State) : (incReg f i s).eq = s.eq := rfl
@[simp] theorem incReg_eqFlash (f : Fld) (i : Nat) (s : State) : (incReg f i s).eqFlash = s.eqFlash := rfl
@[simp] theorem incReg_net (f : Fld) (i : Nat) (s : State) : (incReg f i s).net = s.net := rfl
@[simp] theorem incReg_route (f : Fld) (i : Nat) (s : State) : (incReg f i s).route = s.route := rfl
@[simp] theorem incReg_sw (f : Fld) (i : Nat) (s : State) : (incReg f i s).sw = s.sw := rfl
@[simp] theorem incReg_sched (f : Fld) (i : Nat) (s : State) : (incReg f i s).sched = s.sched := rfl
@[simp] theorem incReg_samples (f : Fld) (i : Nat) (s : State) : (incReg f i s).samples = s.samples := rfl
@[simp] theorem incReg_rel (f : Fld) (i : Nat) (s : State) : (incReg f i s).rel = s.rel := rfl
@[simp] theorem incReg_sec (f : Fld) (i : Nat) (s : State) : (incReg f i s).sec = s.sec := rfl
@[simp] theorem incReg_assay (f : Fld) (i : Nat) (s : State) : (incReg f i s).assay = s.assay := rfl
@[simp] theorem incReg_mem (f : Fld) (i : Nat) (s : State) : (incReg f i s).mem = s.mem := rfl
@[simp] theorem incReg_pour (f : Fld) (i : Nat) (s : State) : (incReg f i s).pour = s.pour := rfl
@[simp] theorem incReg_layer (f : Fld) (i : Nat) (s : State) : (incReg f i s).layer = s.layer := rfl
@[simp] theorem incReg_upd (f : Fld) (i : Nat) (s : State) : (incReg f i s).upd = s.upd := rfl
@[simp] theorem incReg_det (f : Fld) (i : Nat) (s : State) : (incReg f i s).det = s.det := rfl

/-! resetBlocks changes `csr` alone. -/

@[simp] theorem resetBlocks_pending (l : List Nat) (s : State) : (resetBlocks l s).pending = s.pending := rfl
@[simp] theorem resetBlocks_out (l : List Nat) (s : State) : (resetBlocks l s).out = s.out := rfl
@[simp] theorem resetBlocks_freeCtr (l : List Nat) (s : State) : (resetBlocks l s).freeCtr = s.freeCtr := rfl
@[simp] theorem resetBlocks_time (l : List Nat) (s : State) : (resetBlocks l s).time = s.time := rfl
@[simp] theorem resetBlocks_pins (l : List Nat) (s : State) : (resetBlocks l s).pins = s.pins := rfl
@[simp] theorem resetBlocks_coord (l : List Nat) (s : State) : (resetBlocks l s).coord = s.coord := rfl
@[simp] theorem resetBlocks_power (l : List Nat) (s : State) : (resetBlocks l s).power = s.power := rfl
@[simp] theorem resetBlocks_fore (l : List Nat) (s : State) : (resetBlocks l s).fore = s.fore := rfl
@[simp] theorem resetBlocks_sb (l : List Nat) (s : State) : (resetBlocks l s).sb = s.sb := rfl
@[simp] theorem resetBlocks_jtag (l : List Nat) (s : State) : (resetBlocks l s).jtag = s.jtag := rfl
@[simp] theorem resetBlocks_links (l : List Nat) (s : State) : (resetBlocks l s).links = s.links := rfl
@[simp] theorem resetBlocks_eq (l : List Nat) (s : State) : (resetBlocks l s).eq = s.eq := rfl
@[simp] theorem resetBlocks_eqFlash (l : List Nat) (s : State) : (resetBlocks l s).eqFlash = s.eqFlash := rfl
@[simp] theorem resetBlocks_net (l : List Nat) (s : State) : (resetBlocks l s).net = s.net := rfl
@[simp] theorem resetBlocks_route (l : List Nat) (s : State) : (resetBlocks l s).route = s.route := rfl
@[simp] theorem resetBlocks_sw (l : List Nat) (s : State) : (resetBlocks l s).sw = s.sw := rfl
@[simp] theorem resetBlocks_sched (l : List Nat) (s : State) : (resetBlocks l s).sched = s.sched := rfl
@[simp] theorem resetBlocks_samples (l : List Nat) (s : State) : (resetBlocks l s).samples = s.samples := rfl
@[simp] theorem resetBlocks_rel (l : List Nat) (s : State) : (resetBlocks l s).rel = s.rel := rfl
@[simp] theorem resetBlocks_sec (l : List Nat) (s : State) : (resetBlocks l s).sec = s.sec := rfl
@[simp] theorem resetBlocks_assay (l : List Nat) (s : State) : (resetBlocks l s).assay = s.assay := rfl
@[simp] theorem resetBlocks_mem (l : List Nat) (s : State) : (resetBlocks l s).mem = s.mem := rfl
@[simp] theorem resetBlocks_pour (l : List Nat) (s : State) : (resetBlocks l s).pour = s.pour := rfl
@[simp] theorem resetBlocks_layer (l : List Nat) (s : State) : (resetBlocks l s).layer = s.layer := rfl
@[simp] theorem resetBlocks_upd (l : List Nat) (s : State) : (resetBlocks l s).upd = s.upd := rfl
@[simp] theorem resetBlocks_det (l : List Nat) (s : State) : (resetBlocks l s).det = s.det := rfl

/-! resetFld changes `csr` alone. -/

@[simp] theorem resetFld_pending (f : Fld) (s : State) : (resetFld f s).pending = s.pending := rfl
@[simp] theorem resetFld_out (f : Fld) (s : State) : (resetFld f s).out = s.out := rfl
@[simp] theorem resetFld_freeCtr (f : Fld) (s : State) : (resetFld f s).freeCtr = s.freeCtr := rfl
@[simp] theorem resetFld_time (f : Fld) (s : State) : (resetFld f s).time = s.time := rfl
@[simp] theorem resetFld_pins (f : Fld) (s : State) : (resetFld f s).pins = s.pins := rfl
@[simp] theorem resetFld_coord (f : Fld) (s : State) : (resetFld f s).coord = s.coord := rfl
@[simp] theorem resetFld_power (f : Fld) (s : State) : (resetFld f s).power = s.power := rfl
@[simp] theorem resetFld_fore (f : Fld) (s : State) : (resetFld f s).fore = s.fore := rfl
@[simp] theorem resetFld_sb (f : Fld) (s : State) : (resetFld f s).sb = s.sb := rfl
@[simp] theorem resetFld_jtag (f : Fld) (s : State) : (resetFld f s).jtag = s.jtag := rfl
@[simp] theorem resetFld_links (f : Fld) (s : State) : (resetFld f s).links = s.links := rfl
@[simp] theorem resetFld_eq (f : Fld) (s : State) : (resetFld f s).eq = s.eq := rfl
@[simp] theorem resetFld_eqFlash (f : Fld) (s : State) : (resetFld f s).eqFlash = s.eqFlash := rfl
@[simp] theorem resetFld_net (f : Fld) (s : State) : (resetFld f s).net = s.net := rfl
@[simp] theorem resetFld_route (f : Fld) (s : State) : (resetFld f s).route = s.route := rfl
@[simp] theorem resetFld_sw (f : Fld) (s : State) : (resetFld f s).sw = s.sw := rfl
@[simp] theorem resetFld_sched (f : Fld) (s : State) : (resetFld f s).sched = s.sched := rfl
@[simp] theorem resetFld_samples (f : Fld) (s : State) : (resetFld f s).samples = s.samples := rfl
@[simp] theorem resetFld_rel (f : Fld) (s : State) : (resetFld f s).rel = s.rel := rfl
@[simp] theorem resetFld_sec (f : Fld) (s : State) : (resetFld f s).sec = s.sec := rfl
@[simp] theorem resetFld_assay (f : Fld) (s : State) : (resetFld f s).assay = s.assay := rfl
@[simp] theorem resetFld_mem (f : Fld) (s : State) : (resetFld f s).mem = s.mem := rfl
@[simp] theorem resetFld_pour (f : Fld) (s : State) : (resetFld f s).pour = s.pour := rfl
@[simp] theorem resetFld_layer (f : Fld) (s : State) : (resetFld f s).layer = s.layer := rfl
@[simp] theorem resetFld_upd (f : Fld) (s : State) : (resetFld f s).upd = s.upd := rfl
@[simp] theorem resetFld_det (f : Fld) (s : State) : (resetFld f s).det = s.det := rfl

/-! advance changes `time` alone. -/

@[simp] theorem advance_pending (ns : Nat) (s : State) : (advance ns s).pending = s.pending := rfl
@[simp] theorem advance_out (ns : Nat) (s : State) : (advance ns s).out = s.out := rfl
@[simp] theorem advance_freeCtr (ns : Nat) (s : State) : (advance ns s).freeCtr = s.freeCtr := rfl
@[simp] theorem advance_csr (ns : Nat) (s : State) : (advance ns s).csr = s.csr := rfl
@[simp] theorem advance_pins (ns : Nat) (s : State) : (advance ns s).pins = s.pins := rfl
@[simp] theorem advance_coord (ns : Nat) (s : State) : (advance ns s).coord = s.coord := rfl
@[simp] theorem advance_power (ns : Nat) (s : State) : (advance ns s).power = s.power := rfl
@[simp] theorem advance_fore (ns : Nat) (s : State) : (advance ns s).fore = s.fore := rfl
@[simp] theorem advance_sb (ns : Nat) (s : State) : (advance ns s).sb = s.sb := rfl
@[simp] theorem advance_jtag (ns : Nat) (s : State) : (advance ns s).jtag = s.jtag := rfl
@[simp] theorem advance_links (ns : Nat) (s : State) : (advance ns s).links = s.links := rfl
@[simp] theorem advance_eq (ns : Nat) (s : State) : (advance ns s).eq = s.eq := rfl
@[simp] theorem advance_eqFlash (ns : Nat) (s : State) : (advance ns s).eqFlash = s.eqFlash := rfl
@[simp] theorem advance_net (ns : Nat) (s : State) : (advance ns s).net = s.net := rfl
@[simp] theorem advance_route (ns : Nat) (s : State) : (advance ns s).route = s.route := rfl
@[simp] theorem advance_sw (ns : Nat) (s : State) : (advance ns s).sw = s.sw := rfl
@[simp] theorem advance_sched (ns : Nat) (s : State) : (advance ns s).sched = s.sched := rfl
@[simp] theorem advance_samples (ns : Nat) (s : State) : (advance ns s).samples = s.samples := rfl
@[simp] theorem advance_rel (ns : Nat) (s : State) : (advance ns s).rel = s.rel := rfl
@[simp] theorem advance_sec (ns : Nat) (s : State) : (advance ns s).sec = s.sec := rfl
@[simp] theorem advance_assay (ns : Nat) (s : State) : (advance ns s).assay = s.assay := rfl
@[simp] theorem advance_mem (ns : Nat) (s : State) : (advance ns s).mem = s.mem := rfl
@[simp] theorem advance_pour (ns : Nat) (s : State) : (advance ns s).pour = s.pour := rfl
@[simp] theorem advance_layer (ns : Nat) (s : State) : (advance ns s).layer = s.layer := rfl
@[simp] theorem advance_upd (ns : Nat) (s : State) : (advance ns s).upd = s.upd := rfl
@[simp] theorem advance_det (ns : Nat) (s : State) : (advance ns s).det = s.det := rfl

/-! advanceTo changes `time` alone. -/

@[simp] theorem advanceTo_pending (t : Nat) (s : State) : (advanceTo t s).pending = s.pending := rfl
@[simp] theorem advanceTo_out (t : Nat) (s : State) : (advanceTo t s).out = s.out := rfl
@[simp] theorem advanceTo_freeCtr (t : Nat) (s : State) : (advanceTo t s).freeCtr = s.freeCtr := rfl
@[simp] theorem advanceTo_csr (t : Nat) (s : State) : (advanceTo t s).csr = s.csr := rfl
@[simp] theorem advanceTo_pins (t : Nat) (s : State) : (advanceTo t s).pins = s.pins := rfl
@[simp] theorem advanceTo_coord (t : Nat) (s : State) : (advanceTo t s).coord = s.coord := rfl
@[simp] theorem advanceTo_power (t : Nat) (s : State) : (advanceTo t s).power = s.power := rfl
@[simp] theorem advanceTo_fore (t : Nat) (s : State) : (advanceTo t s).fore = s.fore := rfl
@[simp] theorem advanceTo_sb (t : Nat) (s : State) : (advanceTo t s).sb = s.sb := rfl
@[simp] theorem advanceTo_jtag (t : Nat) (s : State) : (advanceTo t s).jtag = s.jtag := rfl
@[simp] theorem advanceTo_links (t : Nat) (s : State) : (advanceTo t s).links = s.links := rfl
@[simp] theorem advanceTo_eq (t : Nat) (s : State) : (advanceTo t s).eq = s.eq := rfl
@[simp] theorem advanceTo_eqFlash (t : Nat) (s : State) : (advanceTo t s).eqFlash = s.eqFlash := rfl
@[simp] theorem advanceTo_net (t : Nat) (s : State) : (advanceTo t s).net = s.net := rfl
@[simp] theorem advanceTo_route (t : Nat) (s : State) : (advanceTo t s).route = s.route := rfl
@[simp] theorem advanceTo_sw (t : Nat) (s : State) : (advanceTo t s).sw = s.sw := rfl
@[simp] theorem advanceTo_sched (t : Nat) (s : State) : (advanceTo t s).sched = s.sched := rfl
@[simp] theorem advanceTo_samples (t : Nat) (s : State) : (advanceTo t s).samples = s.samples := rfl
@[simp] theorem advanceTo_rel (t : Nat) (s : State) : (advanceTo t s).rel = s.rel := rfl
@[simp] theorem advanceTo_sec (t : Nat) (s : State) : (advanceTo t s).sec = s.sec := rfl
@[simp] theorem advanceTo_assay (t : Nat) (s : State) : (advanceTo t s).assay = s.assay := rfl
@[simp] theorem advanceTo_mem (t : Nat) (s : State) : (advanceTo t s).mem = s.mem := rfl
@[simp] theorem advanceTo_pour (t : Nat) (s : State) : (advanceTo t s).pour = s.pour := rfl
@[simp] theorem advanceTo_layer (t : Nat) (s : State) : (advanceTo t s).layer = s.layer := rfl
@[simp] theorem advanceTo_upd (t : Nat) (s : State) : (advanceTo t s).upd = s.upd := rfl
@[simp] theorem advanceTo_det (t : Nat) (s : State) : (advanceTo t s).det = s.det := rfl

/-! emit changes `out` alone. -/

@[simp] theorem emit_pending (o : OutMsg) (s : State) : (emit o s).pending = s.pending := rfl
@[simp] theorem emit_freeCtr (o : OutMsg) (s : State) : (emit o s).freeCtr = s.freeCtr := rfl
@[simp] theorem emit_csr (o : OutMsg) (s : State) : (emit o s).csr = s.csr := rfl
@[simp] theorem emit_time (o : OutMsg) (s : State) : (emit o s).time = s.time := rfl
@[simp] theorem emit_pins (o : OutMsg) (s : State) : (emit o s).pins = s.pins := rfl
@[simp] theorem emit_coord (o : OutMsg) (s : State) : (emit o s).coord = s.coord := rfl
@[simp] theorem emit_power (o : OutMsg) (s : State) : (emit o s).power = s.power := rfl
@[simp] theorem emit_fore (o : OutMsg) (s : State) : (emit o s).fore = s.fore := rfl
@[simp] theorem emit_sb (o : OutMsg) (s : State) : (emit o s).sb = s.sb := rfl
@[simp] theorem emit_jtag (o : OutMsg) (s : State) : (emit o s).jtag = s.jtag := rfl
@[simp] theorem emit_links (o : OutMsg) (s : State) : (emit o s).links = s.links := rfl
@[simp] theorem emit_eq (o : OutMsg) (s : State) : (emit o s).eq = s.eq := rfl
@[simp] theorem emit_eqFlash (o : OutMsg) (s : State) : (emit o s).eqFlash = s.eqFlash := rfl
@[simp] theorem emit_net (o : OutMsg) (s : State) : (emit o s).net = s.net := rfl
@[simp] theorem emit_route (o : OutMsg) (s : State) : (emit o s).route = s.route := rfl
@[simp] theorem emit_sw (o : OutMsg) (s : State) : (emit o s).sw = s.sw := rfl
@[simp] theorem emit_sched (o : OutMsg) (s : State) : (emit o s).sched = s.sched := rfl
@[simp] theorem emit_samples (o : OutMsg) (s : State) : (emit o s).samples = s.samples := rfl
@[simp] theorem emit_rel (o : OutMsg) (s : State) : (emit o s).rel = s.rel := rfl
@[simp] theorem emit_sec (o : OutMsg) (s : State) : (emit o s).sec = s.sec := rfl
@[simp] theorem emit_assay (o : OutMsg) (s : State) : (emit o s).assay = s.assay := rfl
@[simp] theorem emit_mem (o : OutMsg) (s : State) : (emit o s).mem = s.mem := rfl
@[simp] theorem emit_pour (o : OutMsg) (s : State) : (emit o s).pour = s.pour := rfl
@[simp] theorem emit_layer (o : OutMsg) (s : State) : (emit o s).layer = s.layer := rfl
@[simp] theorem emit_upd (o : OutMsg) (s : State) : (emit o s).upd = s.upd := rfl
@[simp] theorem emit_det (o : OutMsg) (s : State) : (emit o s).det = s.det := rfl

/-! useFree changes `freeCtr` alone. -/

@[simp] theorem useFree_pending (s : State) : (useFree s).pending = s.pending := rfl
@[simp] theorem useFree_out (s : State) : (useFree s).out = s.out := rfl
@[simp] theorem useFree_csr (s : State) : (useFree s).csr = s.csr := rfl
@[simp] theorem useFree_time (s : State) : (useFree s).time = s.time := rfl
@[simp] theorem useFree_pins (s : State) : (useFree s).pins = s.pins := rfl
@[simp] theorem useFree_coord (s : State) : (useFree s).coord = s.coord := rfl
@[simp] theorem useFree_power (s : State) : (useFree s).power = s.power := rfl
@[simp] theorem useFree_fore (s : State) : (useFree s).fore = s.fore := rfl
@[simp] theorem useFree_sb (s : State) : (useFree s).sb = s.sb := rfl
@[simp] theorem useFree_jtag (s : State) : (useFree s).jtag = s.jtag := rfl
@[simp] theorem useFree_links (s : State) : (useFree s).links = s.links := rfl
@[simp] theorem useFree_eq (s : State) : (useFree s).eq = s.eq := rfl
@[simp] theorem useFree_eqFlash (s : State) : (useFree s).eqFlash = s.eqFlash := rfl
@[simp] theorem useFree_net (s : State) : (useFree s).net = s.net := rfl
@[simp] theorem useFree_route (s : State) : (useFree s).route = s.route := rfl
@[simp] theorem useFree_sw (s : State) : (useFree s).sw = s.sw := rfl
@[simp] theorem useFree_sched (s : State) : (useFree s).sched = s.sched := rfl
@[simp] theorem useFree_samples (s : State) : (useFree s).samples = s.samples := rfl
@[simp] theorem useFree_rel (s : State) : (useFree s).rel = s.rel := rfl
@[simp] theorem useFree_sec (s : State) : (useFree s).sec = s.sec := rfl
@[simp] theorem useFree_assay (s : State) : (useFree s).assay = s.assay := rfl
@[simp] theorem useFree_mem (s : State) : (useFree s).mem = s.mem := rfl
@[simp] theorem useFree_pour (s : State) : (useFree s).pour = s.pour := rfl
@[simp] theorem useFree_layer (s : State) : (useFree s).layer = s.layer := rfl
@[simp] theorem useFree_upd (s : State) : (useFree s).upd = s.upd := rfl
@[simp] theorem useFree_det (s : State) : (useFree s).det = s.det := rfl

/-! driveAlert changes `pins` alone. -/

@[simp] theorem driveAlert_pending (s : State) : (driveAlert s).pending = s.pending := rfl
@[simp] theorem driveAlert_out (s : State) : (driveAlert s).out = s.out := rfl
@[simp] theorem driveAlert_freeCtr (s : State) : (driveAlert s).freeCtr = s.freeCtr := rfl
@[simp] theorem driveAlert_csr (s : State) : (driveAlert s).csr = s.csr := rfl
@[simp] theorem driveAlert_time (s : State) : (driveAlert s).time = s.time := rfl
@[simp] theorem driveAlert_coord (s : State) : (driveAlert s).coord = s.coord := rfl
@[simp] theorem driveAlert_power (s : State) : (driveAlert s).power = s.power := rfl
@[simp] theorem driveAlert_fore (s : State) : (driveAlert s).fore = s.fore := rfl
@[simp] theorem driveAlert_sb (s : State) : (driveAlert s).sb = s.sb := rfl
@[simp] theorem driveAlert_jtag (s : State) : (driveAlert s).jtag = s.jtag := rfl
@[simp] theorem driveAlert_links (s : State) : (driveAlert s).links = s.links := rfl
@[simp] theorem driveAlert_eq (s : State) : (driveAlert s).eq = s.eq := rfl
@[simp] theorem driveAlert_eqFlash (s : State) : (driveAlert s).eqFlash = s.eqFlash := rfl
@[simp] theorem driveAlert_net (s : State) : (driveAlert s).net = s.net := rfl
@[simp] theorem driveAlert_route (s : State) : (driveAlert s).route = s.route := rfl
@[simp] theorem driveAlert_sw (s : State) : (driveAlert s).sw = s.sw := rfl
@[simp] theorem driveAlert_sched (s : State) : (driveAlert s).sched = s.sched := rfl
@[simp] theorem driveAlert_samples (s : State) : (driveAlert s).samples = s.samples := rfl
@[simp] theorem driveAlert_rel (s : State) : (driveAlert s).rel = s.rel := rfl
@[simp] theorem driveAlert_sec (s : State) : (driveAlert s).sec = s.sec := rfl
@[simp] theorem driveAlert_assay (s : State) : (driveAlert s).assay = s.assay := rfl
@[simp] theorem driveAlert_mem (s : State) : (driveAlert s).mem = s.mem := rfl
@[simp] theorem driveAlert_pour (s : State) : (driveAlert s).pour = s.pour := rfl
@[simp] theorem driveAlert_layer (s : State) : (driveAlert s).layer = s.layer := rfl
@[simp] theorem driveAlert_upd (s : State) : (driveAlert s).upd = s.upd := rfl
@[simp] theorem driveAlert_det (s : State) : (driveAlert s).det = s.det := rfl

/-! assertFault changes `pins` alone. -/

@[simp] theorem assertFault_pending (s : State) : (assertFault s).pending = s.pending := rfl
@[simp] theorem assertFault_out (s : State) : (assertFault s).out = s.out := rfl
@[simp] theorem assertFault_freeCtr (s : State) : (assertFault s).freeCtr = s.freeCtr := rfl
@[simp] theorem assertFault_csr (s : State) : (assertFault s).csr = s.csr := rfl
@[simp] theorem assertFault_time (s : State) : (assertFault s).time = s.time := rfl
@[simp] theorem assertFault_coord (s : State) : (assertFault s).coord = s.coord := rfl
@[simp] theorem assertFault_power (s : State) : (assertFault s).power = s.power := rfl
@[simp] theorem assertFault_fore (s : State) : (assertFault s).fore = s.fore := rfl
@[simp] theorem assertFault_sb (s : State) : (assertFault s).sb = s.sb := rfl
@[simp] theorem assertFault_jtag (s : State) : (assertFault s).jtag = s.jtag := rfl
@[simp] theorem assertFault_links (s : State) : (assertFault s).links = s.links := rfl
@[simp] theorem assertFault_eq (s : State) : (assertFault s).eq = s.eq := rfl
@[simp] theorem assertFault_eqFlash (s : State) : (assertFault s).eqFlash = s.eqFlash := rfl
@[simp] theorem assertFault_net (s : State) : (assertFault s).net = s.net := rfl
@[simp] theorem assertFault_route (s : State) : (assertFault s).route = s.route := rfl
@[simp] theorem assertFault_sw (s : State) : (assertFault s).sw = s.sw := rfl
@[simp] theorem assertFault_sched (s : State) : (assertFault s).sched = s.sched := rfl
@[simp] theorem assertFault_samples (s : State) : (assertFault s).samples = s.samples := rfl
@[simp] theorem assertFault_rel (s : State) : (assertFault s).rel = s.rel := rfl
@[simp] theorem assertFault_sec (s : State) : (assertFault s).sec = s.sec := rfl
@[simp] theorem assertFault_assay (s : State) : (assertFault s).assay = s.assay := rfl
@[simp] theorem assertFault_mem (s : State) : (assertFault s).mem = s.mem := rfl
@[simp] theorem assertFault_pour (s : State) : (assertFault s).pour = s.pour := rfl
@[simp] theorem assertFault_layer (s : State) : (assertFault s).layer = s.layer := rfl
@[simp] theorem assertFault_upd (s : State) : (assertFault s).upd = s.upd := rfl
@[simp] theorem assertFault_det (s : State) : (assertFault s).det = s.det := rfl

/-! modLink changes `links` alone. -/

@[simp] theorem modLink_pending (l : Nat) (g : LinkPart → LinkPart) (s : State) : (modLink l g s).pending = s.pending := rfl
@[simp] theorem modLink_out (l : Nat) (g : LinkPart → LinkPart) (s : State) : (modLink l g s).out = s.out := rfl
@[simp] theorem modLink_freeCtr (l : Nat) (g : LinkPart → LinkPart) (s : State) : (modLink l g s).freeCtr = s.freeCtr := rfl
@[simp] theorem modLink_csr (l : Nat) (g : LinkPart → LinkPart) (s : State) : (modLink l g s).csr = s.csr := rfl
@[simp] theorem modLink_time (l : Nat) (g : LinkPart → LinkPart) (s : State) : (modLink l g s).time = s.time := rfl
@[simp] theorem modLink_pins (l : Nat) (g : LinkPart → LinkPart) (s : State) : (modLink l g s).pins = s.pins := rfl
@[simp] theorem modLink_coord (l : Nat) (g : LinkPart → LinkPart) (s : State) : (modLink l g s).coord = s.coord := rfl
@[simp] theorem modLink_power (l : Nat) (g : LinkPart → LinkPart) (s : State) : (modLink l g s).power = s.power := rfl
@[simp] theorem modLink_fore (l : Nat) (g : LinkPart → LinkPart) (s : State) : (modLink l g s).fore = s.fore := rfl
@[simp] theorem modLink_sb (l : Nat) (g : LinkPart → LinkPart) (s : State) : (modLink l g s).sb = s.sb := rfl
@[simp] theorem modLink_jtag (l : Nat) (g : LinkPart → LinkPart) (s : State) : (modLink l g s).jtag = s.jtag := rfl
@[simp] theorem modLink_eq (l : Nat) (g : LinkPart → LinkPart) (s : State) : (modLink l g s).eq = s.eq := rfl
@[simp] theorem modLink_eqFlash (l : Nat) (g : LinkPart → LinkPart) (s : State) : (modLink l g s).eqFlash = s.eqFlash := rfl
@[simp] theorem modLink_net (l : Nat) (g : LinkPart → LinkPart) (s : State) : (modLink l g s).net = s.net := rfl
@[simp] theorem modLink_route (l : Nat) (g : LinkPart → LinkPart) (s : State) : (modLink l g s).route = s.route := rfl
@[simp] theorem modLink_sw (l : Nat) (g : LinkPart → LinkPart) (s : State) : (modLink l g s).sw = s.sw := rfl
@[simp] theorem modLink_sched (l : Nat) (g : LinkPart → LinkPart) (s : State) : (modLink l g s).sched = s.sched := rfl
@[simp] theorem modLink_samples (l : Nat) (g : LinkPart → LinkPart) (s : State) : (modLink l g s).samples = s.samples := rfl
@[simp] theorem modLink_rel (l : Nat) (g : LinkPart → LinkPart) (s : State) : (modLink l g s).rel = s.rel := rfl
@[simp] theorem modLink_sec (l : Nat) (g : LinkPart → LinkPart) (s : State) : (modLink l g s).sec = s.sec := rfl
@[simp] theorem modLink_assay (l : Nat) (g : LinkPart → LinkPart) (s : State) : (modLink l g s).assay = s.assay := rfl
@[simp] theorem modLink_mem (l : Nat) (g : LinkPart → LinkPart) (s : State) : (modLink l g s).mem = s.mem := rfl
@[simp] theorem modLink_pour (l : Nat) (g : LinkPart → LinkPart) (s : State) : (modLink l g s).pour = s.pour := rfl
@[simp] theorem modLink_layer (l : Nat) (g : LinkPart → LinkPart) (s : State) : (modLink l g s).layer = s.layer := rfl
@[simp] theorem modLink_upd (l : Nat) (g : LinkPart → LinkPart) (s : State) : (modLink l g s).upd = s.upd := rfl
@[simp] theorem modLink_det (l : Nat) (g : LinkPart → LinkPart) (s : State) : (modLink l g s).det = s.det := rfl

/-! modSched changes `sched` alone. -/

@[simp] theorem modSched_pending (p : Nat) (g : SchedPart → SchedPart) (s : State) : (modSched p g s).pending = s.pending := rfl
@[simp] theorem modSched_out (p : Nat) (g : SchedPart → SchedPart) (s : State) : (modSched p g s).out = s.out := rfl
@[simp] theorem modSched_freeCtr (p : Nat) (g : SchedPart → SchedPart) (s : State) : (modSched p g s).freeCtr = s.freeCtr := rfl
@[simp] theorem modSched_csr (p : Nat) (g : SchedPart → SchedPart) (s : State) : (modSched p g s).csr = s.csr := rfl
@[simp] theorem modSched_time (p : Nat) (g : SchedPart → SchedPart) (s : State) : (modSched p g s).time = s.time := rfl
@[simp] theorem modSched_pins (p : Nat) (g : SchedPart → SchedPart) (s : State) : (modSched p g s).pins = s.pins := rfl
@[simp] theorem modSched_coord (p : Nat) (g : SchedPart → SchedPart) (s : State) : (modSched p g s).coord = s.coord := rfl
@[simp] theorem modSched_power (p : Nat) (g : SchedPart → SchedPart) (s : State) : (modSched p g s).power = s.power := rfl
@[simp] theorem modSched_fore (p : Nat) (g : SchedPart → SchedPart) (s : State) : (modSched p g s).fore = s.fore := rfl
@[simp] theorem modSched_sb (p : Nat) (g : SchedPart → SchedPart) (s : State) : (modSched p g s).sb = s.sb := rfl
@[simp] theorem modSched_jtag (p : Nat) (g : SchedPart → SchedPart) (s : State) : (modSched p g s).jtag = s.jtag := rfl
@[simp] theorem modSched_links (p : Nat) (g : SchedPart → SchedPart) (s : State) : (modSched p g s).links = s.links := rfl
@[simp] theorem modSched_eq (p : Nat) (g : SchedPart → SchedPart) (s : State) : (modSched p g s).eq = s.eq := rfl
@[simp] theorem modSched_eqFlash (p : Nat) (g : SchedPart → SchedPart) (s : State) : (modSched p g s).eqFlash = s.eqFlash := rfl
@[simp] theorem modSched_net (p : Nat) (g : SchedPart → SchedPart) (s : State) : (modSched p g s).net = s.net := rfl
@[simp] theorem modSched_route (p : Nat) (g : SchedPart → SchedPart) (s : State) : (modSched p g s).route = s.route := rfl
@[simp] theorem modSched_sw (p : Nat) (g : SchedPart → SchedPart) (s : State) : (modSched p g s).sw = s.sw := rfl
@[simp] theorem modSched_samples (p : Nat) (g : SchedPart → SchedPart) (s : State) : (modSched p g s).samples = s.samples := rfl
@[simp] theorem modSched_rel (p : Nat) (g : SchedPart → SchedPart) (s : State) : (modSched p g s).rel = s.rel := rfl
@[simp] theorem modSched_sec (p : Nat) (g : SchedPart → SchedPart) (s : State) : (modSched p g s).sec = s.sec := rfl
@[simp] theorem modSched_assay (p : Nat) (g : SchedPart → SchedPart) (s : State) : (modSched p g s).assay = s.assay := rfl
@[simp] theorem modSched_mem (p : Nat) (g : SchedPart → SchedPart) (s : State) : (modSched p g s).mem = s.mem := rfl
@[simp] theorem modSched_pour (p : Nat) (g : SchedPart → SchedPart) (s : State) : (modSched p g s).pour = s.pour := rfl
@[simp] theorem modSched_layer (p : Nat) (g : SchedPart → SchedPart) (s : State) : (modSched p g s).layer = s.layer := rfl
@[simp] theorem modSched_upd (p : Nat) (g : SchedPart → SchedPart) (s : State) : (modSched p g s).upd = s.upd := rfl
@[simp] theorem modSched_det (p : Nat) (g : SchedPart → SchedPart) (s : State) : (modSched p g s).det = s.det := rfl

/-! bumpEpoch changes `fore` alone. -/

@[simp] theorem bumpEpoch_pending (k : Nat) (s : State) : (bumpEpoch k s).pending = s.pending := rfl
@[simp] theorem bumpEpoch_out (k : Nat) (s : State) : (bumpEpoch k s).out = s.out := rfl
@[simp] theorem bumpEpoch_freeCtr (k : Nat) (s : State) : (bumpEpoch k s).freeCtr = s.freeCtr := rfl
@[simp] theorem bumpEpoch_csr (k : Nat) (s : State) : (bumpEpoch k s).csr = s.csr := rfl
@[simp] theorem bumpEpoch_time (k : Nat) (s : State) : (bumpEpoch k s).time = s.time := rfl
@[simp] theorem bumpEpoch_pins (k : Nat) (s : State) : (bumpEpoch k s).pins = s.pins := rfl
@[simp] theorem bumpEpoch_coord (k : Nat) (s : State) : (bumpEpoch k s).coord = s.coord := rfl
@[simp] theorem bumpEpoch_power (k : Nat) (s : State) : (bumpEpoch k s).power = s.power := rfl
@[simp] theorem bumpEpoch_sb (k : Nat) (s : State) : (bumpEpoch k s).sb = s.sb := rfl
@[simp] theorem bumpEpoch_jtag (k : Nat) (s : State) : (bumpEpoch k s).jtag = s.jtag := rfl
@[simp] theorem bumpEpoch_links (k : Nat) (s : State) : (bumpEpoch k s).links = s.links := rfl
@[simp] theorem bumpEpoch_eq (k : Nat) (s : State) : (bumpEpoch k s).eq = s.eq := rfl
@[simp] theorem bumpEpoch_eqFlash (k : Nat) (s : State) : (bumpEpoch k s).eqFlash = s.eqFlash := rfl
@[simp] theorem bumpEpoch_net (k : Nat) (s : State) : (bumpEpoch k s).net = s.net := rfl
@[simp] theorem bumpEpoch_route (k : Nat) (s : State) : (bumpEpoch k s).route = s.route := rfl
@[simp] theorem bumpEpoch_sw (k : Nat) (s : State) : (bumpEpoch k s).sw = s.sw := rfl
@[simp] theorem bumpEpoch_sched (k : Nat) (s : State) : (bumpEpoch k s).sched = s.sched := rfl
@[simp] theorem bumpEpoch_samples (k : Nat) (s : State) : (bumpEpoch k s).samples = s.samples := rfl
@[simp] theorem bumpEpoch_rel (k : Nat) (s : State) : (bumpEpoch k s).rel = s.rel := rfl
@[simp] theorem bumpEpoch_sec (k : Nat) (s : State) : (bumpEpoch k s).sec = s.sec := rfl
@[simp] theorem bumpEpoch_assay (k : Nat) (s : State) : (bumpEpoch k s).assay = s.assay := rfl
@[simp] theorem bumpEpoch_mem (k : Nat) (s : State) : (bumpEpoch k s).mem = s.mem := rfl
@[simp] theorem bumpEpoch_pour (k : Nat) (s : State) : (bumpEpoch k s).pour = s.pour := rfl
@[simp] theorem bumpEpoch_layer (k : Nat) (s : State) : (bumpEpoch k s).layer = s.layer := rfl
@[simp] theorem bumpEpoch_upd (k : Nat) (s : State) : (bumpEpoch k s).upd = s.upd := rfl
@[simp] theorem bumpEpoch_det (k : Nat) (s : State) : (bumpEpoch k s).det = s.det := rfl

/-! markCtxs changes `det` alone. -/

@[simp] theorem markCtxs_pending (g : DetCtx → DetCtx) (s : State) : (markCtxs g s).pending = s.pending := rfl
@[simp] theorem markCtxs_out (g : DetCtx → DetCtx) (s : State) : (markCtxs g s).out = s.out := rfl
@[simp] theorem markCtxs_freeCtr (g : DetCtx → DetCtx) (s : State) : (markCtxs g s).freeCtr = s.freeCtr := rfl
@[simp] theorem markCtxs_csr (g : DetCtx → DetCtx) (s : State) : (markCtxs g s).csr = s.csr := rfl
@[simp] theorem markCtxs_time (g : DetCtx → DetCtx) (s : State) : (markCtxs g s).time = s.time := rfl
@[simp] theorem markCtxs_pins (g : DetCtx → DetCtx) (s : State) : (markCtxs g s).pins = s.pins := rfl
@[simp] theorem markCtxs_coord (g : DetCtx → DetCtx) (s : State) : (markCtxs g s).coord = s.coord := rfl
@[simp] theorem markCtxs_power (g : DetCtx → DetCtx) (s : State) : (markCtxs g s).power = s.power := rfl
@[simp] theorem markCtxs_fore (g : DetCtx → DetCtx) (s : State) : (markCtxs g s).fore = s.fore := rfl
@[simp] theorem markCtxs_sb (g : DetCtx → DetCtx) (s : State) : (markCtxs g s).sb = s.sb := rfl
@[simp] theorem markCtxs_jtag (g : DetCtx → DetCtx) (s : State) : (markCtxs g s).jtag = s.jtag := rfl
@[simp] theorem markCtxs_links (g : DetCtx → DetCtx) (s : State) : (markCtxs g s).links = s.links := rfl
@[simp] theorem markCtxs_eq (g : DetCtx → DetCtx) (s : State) : (markCtxs g s).eq = s.eq := rfl
@[simp] theorem markCtxs_eqFlash (g : DetCtx → DetCtx) (s : State) : (markCtxs g s).eqFlash = s.eqFlash := rfl
@[simp] theorem markCtxs_net (g : DetCtx → DetCtx) (s : State) : (markCtxs g s).net = s.net := rfl
@[simp] theorem markCtxs_route (g : DetCtx → DetCtx) (s : State) : (markCtxs g s).route = s.route := rfl
@[simp] theorem markCtxs_sw (g : DetCtx → DetCtx) (s : State) : (markCtxs g s).sw = s.sw := rfl
@[simp] theorem markCtxs_sched (g : DetCtx → DetCtx) (s : State) : (markCtxs g s).sched = s.sched := rfl
@[simp] theorem markCtxs_samples (g : DetCtx → DetCtx) (s : State) : (markCtxs g s).samples = s.samples := rfl
@[simp] theorem markCtxs_rel (g : DetCtx → DetCtx) (s : State) : (markCtxs g s).rel = s.rel := rfl
@[simp] theorem markCtxs_sec (g : DetCtx → DetCtx) (s : State) : (markCtxs g s).sec = s.sec := rfl
@[simp] theorem markCtxs_assay (g : DetCtx → DetCtx) (s : State) : (markCtxs g s).assay = s.assay := rfl
@[simp] theorem markCtxs_mem (g : DetCtx → DetCtx) (s : State) : (markCtxs g s).mem = s.mem := rfl
@[simp] theorem markCtxs_pour (g : DetCtx → DetCtx) (s : State) : (markCtxs g s).pour = s.pour := rfl
@[simp] theorem markCtxs_layer (g : DetCtx → DetCtx) (s : State) : (markCtxs g s).layer = s.layer := rfl
@[simp] theorem markCtxs_upd (g : DetCtx → DetCtx) (s : State) : (markCtxs g s).upd = s.upd := rfl

/-! putCtx changes `net` alone. -/

@[simp] theorem putCtx_pending (c : Ctx) (s : State) : (putCtx c s).pending = s.pending := rfl
@[simp] theorem putCtx_out (c : Ctx) (s : State) : (putCtx c s).out = s.out := rfl
@[simp] theorem putCtx_freeCtr (c : Ctx) (s : State) : (putCtx c s).freeCtr = s.freeCtr := rfl
@[simp] theorem putCtx_csr (c : Ctx) (s : State) : (putCtx c s).csr = s.csr := rfl
@[simp] theorem putCtx_time (c : Ctx) (s : State) : (putCtx c s).time = s.time := rfl
@[simp] theorem putCtx_pins (c : Ctx) (s : State) : (putCtx c s).pins = s.pins := rfl
@[simp] theorem putCtx_coord (c : Ctx) (s : State) : (putCtx c s).coord = s.coord := rfl
@[simp] theorem putCtx_power (c : Ctx) (s : State) : (putCtx c s).power = s.power := rfl
@[simp] theorem putCtx_fore (c : Ctx) (s : State) : (putCtx c s).fore = s.fore := rfl
@[simp] theorem putCtx_sb (c : Ctx) (s : State) : (putCtx c s).sb = s.sb := rfl
@[simp] theorem putCtx_jtag (c : Ctx) (s : State) : (putCtx c s).jtag = s.jtag := rfl
@[simp] theorem putCtx_links (c : Ctx) (s : State) : (putCtx c s).links = s.links := rfl
@[simp] theorem putCtx_eq (c : Ctx) (s : State) : (putCtx c s).eq = s.eq := rfl
@[simp] theorem putCtx_eqFlash (c : Ctx) (s : State) : (putCtx c s).eqFlash = s.eqFlash := rfl
@[simp] theorem putCtx_route (c : Ctx) (s : State) : (putCtx c s).route = s.route := rfl
@[simp] theorem putCtx_sw (c : Ctx) (s : State) : (putCtx c s).sw = s.sw := rfl
@[simp] theorem putCtx_sched (c : Ctx) (s : State) : (putCtx c s).sched = s.sched := rfl
@[simp] theorem putCtx_samples (c : Ctx) (s : State) : (putCtx c s).samples = s.samples := rfl
@[simp] theorem putCtx_rel (c : Ctx) (s : State) : (putCtx c s).rel = s.rel := rfl
@[simp] theorem putCtx_sec (c : Ctx) (s : State) : (putCtx c s).sec = s.sec := rfl
@[simp] theorem putCtx_assay (c : Ctx) (s : State) : (putCtx c s).assay = s.assay := rfl
@[simp] theorem putCtx_mem (c : Ctx) (s : State) : (putCtx c s).mem = s.mem := rfl
@[simp] theorem putCtx_pour (c : Ctx) (s : State) : (putCtx c s).pour = s.pour := rfl
@[simp] theorem putCtx_layer (c : Ctx) (s : State) : (putCtx c s).layer = s.layer := rfl
@[simp] theorem putCtx_upd (c : Ctx) (s : State) : (putCtx c s).upd = s.upd := rfl
@[simp] theorem putCtx_det (c : Ctx) (s : State) : (putCtx c s).det = s.det := rfl

/-! delCtx changes `net` alone. -/

@[simp] theorem delCtx_pending (k : Nat) (s : State) : (delCtx k s).pending = s.pending := rfl
@[simp] theorem delCtx_out (k : Nat) (s : State) : (delCtx k s).out = s.out := rfl
@[simp] theorem delCtx_freeCtr (k : Nat) (s : State) : (delCtx k s).freeCtr = s.freeCtr := rfl
@[simp] theorem delCtx_csr (k : Nat) (s : State) : (delCtx k s).csr = s.csr := rfl
@[simp] theorem delCtx_time (k : Nat) (s : State) : (delCtx k s).time = s.time := rfl
@[simp] theorem delCtx_pins (k : Nat) (s : State) : (delCtx k s).pins = s.pins := rfl
@[simp] theorem delCtx_coord (k : Nat) (s : State) : (delCtx k s).coord = s.coord := rfl
@[simp] theorem delCtx_power (k : Nat) (s : State) : (delCtx k s).power = s.power := rfl
@[simp] theorem delCtx_fore (k : Nat) (s : State) : (delCtx k s).fore = s.fore := rfl
@[simp] theorem delCtx_sb (k : Nat) (s : State) : (delCtx k s).sb = s.sb := rfl
@[simp] theorem delCtx_jtag (k : Nat) (s : State) : (delCtx k s).jtag = s.jtag := rfl
@[simp] theorem delCtx_links (k : Nat) (s : State) : (delCtx k s).links = s.links := rfl
@[simp] theorem delCtx_eq (k : Nat) (s : State) : (delCtx k s).eq = s.eq := rfl
@[simp] theorem delCtx_eqFlash (k : Nat) (s : State) : (delCtx k s).eqFlash = s.eqFlash := rfl
@[simp] theorem delCtx_route (k : Nat) (s : State) : (delCtx k s).route = s.route := rfl
@[simp] theorem delCtx_sw (k : Nat) (s : State) : (delCtx k s).sw = s.sw := rfl
@[simp] theorem delCtx_sched (k : Nat) (s : State) : (delCtx k s).sched = s.sched := rfl
@[simp] theorem delCtx_samples (k : Nat) (s : State) : (delCtx k s).samples = s.samples := rfl
@[simp] theorem delCtx_rel (k : Nat) (s : State) : (delCtx k s).rel = s.rel := rfl
@[simp] theorem delCtx_sec (k : Nat) (s : State) : (delCtx k s).sec = s.sec := rfl
@[simp] theorem delCtx_assay (k : Nat) (s : State) : (delCtx k s).assay = s.assay := rfl
@[simp] theorem delCtx_mem (k : Nat) (s : State) : (delCtx k s).mem = s.mem := rfl
@[simp] theorem delCtx_pour (k : Nat) (s : State) : (delCtx k s).pour = s.pour := rfl
@[simp] theorem delCtx_layer (k : Nat) (s : State) : (delCtx k s).layer = s.layer := rfl
@[simp] theorem delCtx_upd (k : Nat) (s : State) : (delCtx k s).upd = s.upd := rfl
@[simp] theorem delCtx_det (k : Nat) (s : State) : (delCtx k s).det = s.det := rfl

/-! putFrame changes `mem` alone. -/

@[simp] theorem putFrame_pending (f : Nat) (r : FrameRec) (s : State) : (putFrame f r s).pending = s.pending := rfl
@[simp] theorem putFrame_out (f : Nat) (r : FrameRec) (s : State) : (putFrame f r s).out = s.out := rfl
@[simp] theorem putFrame_freeCtr (f : Nat) (r : FrameRec) (s : State) : (putFrame f r s).freeCtr = s.freeCtr := rfl
@[simp] theorem putFrame_csr (f : Nat) (r : FrameRec) (s : State) : (putFrame f r s).csr = s.csr := rfl
@[simp] theorem putFrame_time (f : Nat) (r : FrameRec) (s : State) : (putFrame f r s).time = s.time := rfl
@[simp] theorem putFrame_pins (f : Nat) (r : FrameRec) (s : State) : (putFrame f r s).pins = s.pins := rfl
@[simp] theorem putFrame_coord (f : Nat) (r : FrameRec) (s : State) : (putFrame f r s).coord = s.coord := rfl
@[simp] theorem putFrame_power (f : Nat) (r : FrameRec) (s : State) : (putFrame f r s).power = s.power := rfl
@[simp] theorem putFrame_fore (f : Nat) (r : FrameRec) (s : State) : (putFrame f r s).fore = s.fore := rfl
@[simp] theorem putFrame_sb (f : Nat) (r : FrameRec) (s : State) : (putFrame f r s).sb = s.sb := rfl
@[simp] theorem putFrame_jtag (f : Nat) (r : FrameRec) (s : State) : (putFrame f r s).jtag = s.jtag := rfl
@[simp] theorem putFrame_links (f : Nat) (r : FrameRec) (s : State) : (putFrame f r s).links = s.links := rfl
@[simp] theorem putFrame_eq (f : Nat) (r : FrameRec) (s : State) : (putFrame f r s).eq = s.eq := rfl
@[simp] theorem putFrame_eqFlash (f : Nat) (r : FrameRec) (s : State) : (putFrame f r s).eqFlash = s.eqFlash := rfl
@[simp] theorem putFrame_net (f : Nat) (r : FrameRec) (s : State) : (putFrame f r s).net = s.net := rfl
@[simp] theorem putFrame_route (f : Nat) (r : FrameRec) (s : State) : (putFrame f r s).route = s.route := rfl
@[simp] theorem putFrame_sw (f : Nat) (r : FrameRec) (s : State) : (putFrame f r s).sw = s.sw := rfl
@[simp] theorem putFrame_sched (f : Nat) (r : FrameRec) (s : State) : (putFrame f r s).sched = s.sched := rfl
@[simp] theorem putFrame_samples (f : Nat) (r : FrameRec) (s : State) : (putFrame f r s).samples = s.samples := rfl
@[simp] theorem putFrame_rel (f : Nat) (r : FrameRec) (s : State) : (putFrame f r s).rel = s.rel := rfl
@[simp] theorem putFrame_sec (f : Nat) (r : FrameRec) (s : State) : (putFrame f r s).sec = s.sec := rfl
@[simp] theorem putFrame_assay (f : Nat) (r : FrameRec) (s : State) : (putFrame f r s).assay = s.assay := rfl
@[simp] theorem putFrame_pour (f : Nat) (r : FrameRec) (s : State) : (putFrame f r s).pour = s.pour := rfl
@[simp] theorem putFrame_layer (f : Nat) (r : FrameRec) (s : State) : (putFrame f r s).layer = s.layer := rfl
@[simp] theorem putFrame_upd (f : Nat) (r : FrameRec) (s : State) : (putFrame f r s).upd = s.upd := rfl
@[simp] theorem putFrame_det (f : Nat) (r : FrameRec) (s : State) : (putFrame f r s).det = s.det := rfl

/-! wipeFrame changes `mem` alone. -/

@[simp] theorem wipeFrame_pending (f : Nat) (s : State) : (wipeFrame f s).pending = s.pending := rfl
@[simp] theorem wipeFrame_out (f : Nat) (s : State) : (wipeFrame f s).out = s.out := rfl
@[simp] theorem wipeFrame_freeCtr (f : Nat) (s : State) : (wipeFrame f s).freeCtr = s.freeCtr := rfl
@[simp] theorem wipeFrame_csr (f : Nat) (s : State) : (wipeFrame f s).csr = s.csr := rfl
@[simp] theorem wipeFrame_time (f : Nat) (s : State) : (wipeFrame f s).time = s.time := rfl
@[simp] theorem wipeFrame_pins (f : Nat) (s : State) : (wipeFrame f s).pins = s.pins := rfl
@[simp] theorem wipeFrame_coord (f : Nat) (s : State) : (wipeFrame f s).coord = s.coord := rfl
@[simp] theorem wipeFrame_power (f : Nat) (s : State) : (wipeFrame f s).power = s.power := rfl
@[simp] theorem wipeFrame_fore (f : Nat) (s : State) : (wipeFrame f s).fore = s.fore := rfl
@[simp] theorem wipeFrame_sb (f : Nat) (s : State) : (wipeFrame f s).sb = s.sb := rfl
@[simp] theorem wipeFrame_jtag (f : Nat) (s : State) : (wipeFrame f s).jtag = s.jtag := rfl
@[simp] theorem wipeFrame_links (f : Nat) (s : State) : (wipeFrame f s).links = s.links := rfl
@[simp] theorem wipeFrame_eq (f : Nat) (s : State) : (wipeFrame f s).eq = s.eq := rfl
@[simp] theorem wipeFrame_eqFlash (f : Nat) (s : State) : (wipeFrame f s).eqFlash = s.eqFlash := rfl
@[simp] theorem wipeFrame_net (f : Nat) (s : State) : (wipeFrame f s).net = s.net := rfl
@[simp] theorem wipeFrame_route (f : Nat) (s : State) : (wipeFrame f s).route = s.route := rfl
@[simp] theorem wipeFrame_sw (f : Nat) (s : State) : (wipeFrame f s).sw = s.sw := rfl
@[simp] theorem wipeFrame_sched (f : Nat) (s : State) : (wipeFrame f s).sched = s.sched := rfl
@[simp] theorem wipeFrame_samples (f : Nat) (s : State) : (wipeFrame f s).samples = s.samples := rfl
@[simp] theorem wipeFrame_rel (f : Nat) (s : State) : (wipeFrame f s).rel = s.rel := rfl
@[simp] theorem wipeFrame_sec (f : Nat) (s : State) : (wipeFrame f s).sec = s.sec := rfl
@[simp] theorem wipeFrame_assay (f : Nat) (s : State) : (wipeFrame f s).assay = s.assay := rfl
@[simp] theorem wipeFrame_pour (f : Nat) (s : State) : (wipeFrame f s).pour = s.pour := rfl
@[simp] theorem wipeFrame_layer (f : Nat) (s : State) : (wipeFrame f s).layer = s.layer := rfl
@[simp] theorem wipeFrame_upd (f : Nat) (s : State) : (wipeFrame f s).upd = s.upd := rfl
@[simp] theorem wipeFrame_det (f : Nat) (s : State) : (wipeFrame f s).det = s.det := rfl

/-! hbmWrite changes `mem` alone. -/

@[simp] theorem hbmWrite_pending (f off : Nat) (b : List Byte) (s : State) : (hbmWrite f off b s).pending = s.pending := rfl
@[simp] theorem hbmWrite_out (f off : Nat) (b : List Byte) (s : State) : (hbmWrite f off b s).out = s.out := rfl
@[simp] theorem hbmWrite_freeCtr (f off : Nat) (b : List Byte) (s : State) : (hbmWrite f off b s).freeCtr = s.freeCtr := rfl
@[simp] theorem hbmWrite_csr (f off : Nat) (b : List Byte) (s : State) : (hbmWrite f off b s).csr = s.csr := rfl
@[simp] theorem hbmWrite_time (f off : Nat) (b : List Byte) (s : State) : (hbmWrite f off b s).time = s.time := rfl
@[simp] theorem hbmWrite_pins (f off : Nat) (b : List Byte) (s : State) : (hbmWrite f off b s).pins = s.pins := rfl
@[simp] theorem hbmWrite_coord (f off : Nat) (b : List Byte) (s : State) : (hbmWrite f off b s).coord = s.coord := rfl
@[simp] theorem hbmWrite_power (f off : Nat) (b : List Byte) (s : State) : (hbmWrite f off b s).power = s.power := rfl
@[simp] theorem hbmWrite_fore (f off : Nat) (b : List Byte) (s : State) : (hbmWrite f off b s).fore = s.fore := rfl
@[simp] theorem hbmWrite_sb (f off : Nat) (b : List Byte) (s : State) : (hbmWrite f off b s).sb = s.sb := rfl
@[simp] theorem hbmWrite_jtag (f off : Nat) (b : List Byte) (s : State) : (hbmWrite f off b s).jtag = s.jtag := rfl
@[simp] theorem hbmWrite_links (f off : Nat) (b : List Byte) (s : State) : (hbmWrite f off b s).links = s.links := rfl
@[simp] theorem hbmWrite_eq (f off : Nat) (b : List Byte) (s : State) : (hbmWrite f off b s).eq = s.eq := rfl
@[simp] theorem hbmWrite_eqFlash (f off : Nat) (b : List Byte) (s : State) : (hbmWrite f off b s).eqFlash = s.eqFlash := rfl
@[simp] theorem hbmWrite_net (f off : Nat) (b : List Byte) (s : State) : (hbmWrite f off b s).net = s.net := rfl
@[simp] theorem hbmWrite_route (f off : Nat) (b : List Byte) (s : State) : (hbmWrite f off b s).route = s.route := rfl
@[simp] theorem hbmWrite_sw (f off : Nat) (b : List Byte) (s : State) : (hbmWrite f off b s).sw = s.sw := rfl
@[simp] theorem hbmWrite_sched (f off : Nat) (b : List Byte) (s : State) : (hbmWrite f off b s).sched = s.sched := rfl
@[simp] theorem hbmWrite_samples (f off : Nat) (b : List Byte) (s : State) : (hbmWrite f off b s).samples = s.samples := rfl
@[simp] theorem hbmWrite_rel (f off : Nat) (b : List Byte) (s : State) : (hbmWrite f off b s).rel = s.rel := rfl
@[simp] theorem hbmWrite_sec (f off : Nat) (b : List Byte) (s : State) : (hbmWrite f off b s).sec = s.sec := rfl
@[simp] theorem hbmWrite_assay (f off : Nat) (b : List Byte) (s : State) : (hbmWrite f off b s).assay = s.assay := rfl
@[simp] theorem hbmWrite_pour (f off : Nat) (b : List Byte) (s : State) : (hbmWrite f off b s).pour = s.pour := rfl
@[simp] theorem hbmWrite_layer (f off : Nat) (b : List Byte) (s : State) : (hbmWrite f off b s).layer = s.layer := rfl
@[simp] theorem hbmWrite_upd (f off : Nat) (b : List Byte) (s : State) : (hbmWrite f off b s).upd = s.upd := rfl
@[simp] theorem hbmWrite_det (f off : Nat) (b : List Byte) (s : State) : (hbmWrite f off b s).det = s.det := rfl

/-! ### Registers -/

/-- A register is read from the registers alone. -/
theorem reg_congr {s t : State} (h : t.csr = s.csr) (f : Fld) (i : Nat) : reg f i t = reg f i s := by unfold reg; rw [h]

@[simp] theorem reg_advance (ns : Nat) (s : State) (h : Fld) (i : Nat) : reg h i (advance ns s) = reg h i s := rfl
@[simp] theorem flag_advance (ns : Nat) (s : State) (h : Fld) (i : Nat) : flag h i (advance ns s) = flag h i s := rfl
@[simp] theorem reg_advanceTo (t : Nat) (s : State) (h : Fld) (i : Nat) : reg h i (advanceTo t s) = reg h i s := rfl
@[simp] theorem flag_advanceTo (t : Nat) (s : State) (h : Fld) (i : Nat) : flag h i (advanceTo t s) = flag h i s := rfl
@[simp] theorem reg_emit (o : OutMsg) (s : State) (h : Fld) (i : Nat) : reg h i (emit o s) = reg h i s := rfl
@[simp] theorem flag_emit (o : OutMsg) (s : State) (h : Fld) (i : Nat) : flag h i (emit o s) = flag h i s := rfl
@[simp] theorem reg_useFree (s : State) (h : Fld) (i : Nat) : reg h i (useFree s) = reg h i s := rfl
@[simp] theorem flag_useFree (s : State) (h : Fld) (i : Nat) : flag h i (useFree s) = flag h i s := rfl
@[simp] theorem reg_driveAlert (s : State) (h : Fld) (i : Nat) : reg h i (driveAlert s) = reg h i s := rfl
@[simp] theorem flag_driveAlert (s : State) (h : Fld) (i : Nat) : flag h i (driveAlert s) = flag h i s := rfl
@[simp] theorem reg_assertFault (s : State) (h : Fld) (i : Nat) : reg h i (assertFault s) = reg h i s := rfl
@[simp] theorem flag_assertFault (s : State) (h : Fld) (i : Nat) : flag h i (assertFault s) = flag h i s := rfl
@[simp] theorem reg_modLink (l : Nat) (g : LinkPart → LinkPart) (s : State) (h : Fld) (i : Nat) : reg h i (modLink l g s) = reg h i s := rfl
@[simp] theorem flag_modLink (l : Nat) (g : LinkPart → LinkPart) (s : State) (h : Fld) (i : Nat) : flag h i (modLink l g s) = flag h i s := rfl
@[simp] theorem reg_modSched (p : Nat) (g : SchedPart → SchedPart) (s : State) (h : Fld) (i : Nat) : reg h i (modSched p g s) = reg h i s := rfl
@[simp] theorem flag_modSched (p : Nat) (g : SchedPart → SchedPart) (s : State) (h : Fld) (i : Nat) : flag h i (modSched p g s) = flag h i s := rfl
@[simp] theorem reg_bumpEpoch (k : Nat) (s : State) (h : Fld) (i : Nat) : reg h i (bumpEpoch k s) = reg h i s := rfl
@[simp] theorem flag_bumpEpoch (k : Nat) (s : State) (h : Fld) (i : Nat) : flag h i (bumpEpoch k s) = flag h i s := rfl
@[simp] theorem reg_markCtxs (g : DetCtx → DetCtx) (s : State) (h : Fld) (i : Nat) : reg h i (markCtxs g s) = reg h i s := rfl
@[simp] theorem flag_markCtxs (g : DetCtx → DetCtx) (s : State) (h : Fld) (i : Nat) : flag h i (markCtxs g s) = flag h i s := rfl
@[simp] theorem reg_putCtx (c : Ctx) (s : State) (h : Fld) (i : Nat) : reg h i (putCtx c s) = reg h i s := rfl
@[simp] theorem flag_putCtx (c : Ctx) (s : State) (h : Fld) (i : Nat) : flag h i (putCtx c s) = flag h i s := rfl
@[simp] theorem reg_delCtx (k : Nat) (s : State) (h : Fld) (i : Nat) : reg h i (delCtx k s) = reg h i s := rfl
@[simp] theorem flag_delCtx (k : Nat) (s : State) (h : Fld) (i : Nat) : flag h i (delCtx k s) = flag h i s := rfl
@[simp] theorem reg_putFrame (f : Nat) (r : FrameRec) (s : State) (h : Fld) (i : Nat) : reg h i (putFrame f r s) = reg h i s := rfl
@[simp] theorem flag_putFrame (f : Nat) (r : FrameRec) (s : State) (h : Fld) (i : Nat) : flag h i (putFrame f r s) = flag h i s := rfl
@[simp] theorem reg_wipeFrame (f : Nat) (s : State) (h : Fld) (i : Nat) : reg h i (wipeFrame f s) = reg h i s := rfl
@[simp] theorem flag_wipeFrame (f : Nat) (s : State) (h : Fld) (i : Nat) : flag h i (wipeFrame f s) = flag h i s := rfl
@[simp] theorem reg_hbmWrite (f off : Nat) (b : List Byte) (s : State) (h : Fld) (i : Nat) : reg h i (hbmWrite f off b s) = reg h i s := rfl
@[simp] theorem flag_hbmWrite (f off : Nat) (b : List Byte) (s : State) (h : Fld) (i : Nat) : flag h i (hbmWrite f off b s) = flag h i s := rfl

/-- Every field has a code of its own below 512. -/
theorem Fld.code_lt (f : Fld) : f.code < 512 := by cases f <;> decide

theorem Fld.code_inj {f g : Fld} (h : f.code = g.code) : f = g := by
  rw [← Fld.ofNat_ctorIdx f, ← Fld.ofNat_ctorIdx g]; exact congrArg Fld.ofNat h

/-- Two instances of two fields share a key only when they are the same. -/
theorem regKey_inj {f g : Fld} {i j : Nat} (h : regKey f i = regKey g j) : f = g ∧ i = j := by
  have hf := f.code_lt
  have hg := g.code_lt
  unfold regKey at h
  have hi : i = j := by omega
  subst hi
  exact ⟨Fld.code_inj (by omega), rfl⟩

/-- What a register reads as after one was set. -/
theorem reg_setReg (f : Fld) (i v : Nat) (s : State) (g : Fld) (j : Nat) :
    reg g j (setReg f i v s) = if g = f ∧ j = i then v % 2 ^ fldWidth f else reg g j s := by
  unfold reg setReg
  by_cases h : g = f ∧ j = i
  · obtain ⟨rfl, rfl⟩ := h
    simp [tabGet_tabSet]
  · rw [if_neg h]
    have hk : regKey g j ≠ regKey f i := fun e => h (regKey_inj e)
    by_cases hg : g = f
    · subst hg
      simp [tabGet_tabSet, hk]
    · have key : ∀ (d e : Nat) (t : Tab Nat), tabGet d (tabSet e t (regKey f i) (v % 2 ^ fldWidth f)) (regKey g j) = tabGet d t (regKey g j) := by
        intro d e t
        unfold tabSet
        split
        · exact tabGet_tabDel_ne d t hk
        · rw [tabGet_tabIns_ne d _ _ hk, tabGet_tabDel_ne d t hk]
      exact key _ _ _

@[simp] theorem reg_setReg_self (f : Fld) (i v : Nat) (s : State) : reg f i (setReg f i v s) = v % 2 ^ fldWidth f := by
  simp [reg_setReg]

theorem reg_setReg_ne {f g : Fld} {i j : Nat} (v : Nat) (s : State) (h : ¬ (g = f ∧ j = i)) :
    reg g j (setReg f i v s) = reg g j s := by rw [reg_setReg, if_neg h]

/-- A different field is left alone. -/
@[simp] theorem reg_setReg_fld {f g : Fld} {i j : Nat} (v : Nat) (s : State) (h : (g = f) = False) :
    reg g j (setReg f i v s) = reg g j s := reg_setReg_ne v s (by simp [h])

@[simp] theorem flag_setReg_fld {f g : Fld} {i j : Nat} (v : Nat) (s : State) (h : (g = f) = False) :
    flag g j (setReg f i v s) = flag g j s := by simp [flag, h]

@[simp] theorem reg_addReg_fld {f g : Fld} {i j : Nat} (v : Nat) (s : State) (h : (g = f) = False) :
    reg g j (addReg f i v s) = reg g j s := by simp [addReg, h]

@[simp] theorem flag_addReg_fld {f g : Fld} {i j : Nat} (v : Nat) (s : State) (h : (g = f) = False) :
    flag g j (addReg f i v s) = flag g j s := by simp [flag, h]

@[simp] theorem reg_incReg_fld {f g : Fld} {i j : Nat} (s : State) (h : (g = f) = False) :
    reg g j (incReg f i s) = reg g j s := by simp [incReg, h]

@[simp] theorem flag_incReg_fld {f g : Fld} {i j : Nat} (s : State) (h : (g = f) = False) :
    flag g j (incReg f i s) = flag g j s := by simp [flag, h]

/-- A counter saturates. -/
theorem reg_addReg_self (f : Fld) (i k : Nat) (s : State) :
    reg f i (addReg f i k s) = min (reg f i s + k) (2 ^ fldWidth f - 1) := by
  rw [addReg, reg_setReg_self]
  exact Nat.mod_eq_of_lt (lt_of_le_of_lt (Nat.min_le_right _ _) (Nat.sub_lt (Nat.two_pow_pos _) Nat.one_pos))

/-! ### Memory -/

/-- HBM keeps its canonical form under every operation that changes it. -/
theorem hbmWrite_wf (f off : Nat) (b : List Byte) (s : State) (h : Memory.wf s.mem.hbm = true) :
    Memory.wf (hbmWrite f off b s).mem.hbm = true := tabWf_tabFill 0 b _ _ h

theorem wipeFrame_wf (f : Nat) (s : State) (h : Memory.wf s.mem.hbm = true) :
    Memory.wf (wipeFrame f s).mem.hbm = true := tabWf_filter 0 _ _ h

theorem hbmCopy_wf (f g : Nat) (s : State) (h : Memory.wf s.mem.hbm = true) :
    Memory.wf (hbmCopy f g s).mem.hbm = true := tabWf_foldl_tabSet 0 _ _ (wipeFrame_wf g s h)

theorem reset_memory_wf : Memory.wf State.reset.mem.hbm = true := rfl

/-- What a byte of HBM reads as after a store: the byte stored at its address, the old one everywhere else. -/
theorem hbm_after_hbmWrite (f off : Nat) (b : List Byte) (s : State) (a : Nat) :
    tabGet 0 (hbmWrite f off b s).mem.hbm a =
      if f * pageBytes + off ≤ a ∧ a < f * pageBytes + off + b.length then b.getD (a - (f * pageBytes + off)) 0
      else tabGet 0 s.mem.hbm a := tabGet_tabFill 0 b _ _ a

end Sys2Proof.Machine
end

