-- ==== Sys2Proof/Laws/Keep.lean ====
section
/-! SUPPORT. What every operation keeps: the queue stays as it is, the clock does not run back, and HBM and the registers stay in
their canonical form. The rules by which the files Keep<Chapter> prove it, one lemma per operation. -/
namespace Sys2Proof.Machine

/-- A state with queue `q`, a clock not before `n`, and HBM and registers in canonical form. -/
def Keeps (q : List Instr) (n : Nat) (s : State) : Prop :=
  s.pending = q ∧ n ≤ s.time.now ∧ Memory.wf s.mem.hbm = true ∧ tabSorted s.csr = true

/-- Every next state that an outcome answers keeps them. -/
def Answers (q : List Instr) (n : Nat) (o : Out) : Prop := ∀ t, o = .next t → Keeps q n t

variable {q : List Instr} {n : Nat}

theorem keeps_of_canonical {s : State} (h : Canonical s) : Keeps s.pending s.time.now s := ⟨rfl, Nat.le_refl _, h⟩

theorem Keeps.canonical {s : State} (h : Keeps q n s) : Canonical s := h.2.2

theorem keeps_mk_iff {p o fc csr ti pi co po fo sb jt li eq ef ne ro sw sc sa re se as me pr la up de} :
    Keeps q n (State.mk p o fc csr ti pi co po fo sb jt li eq ef ne ro sw sc sa re se as me pr la up de) ↔
      p = q ∧ n ≤ ti.now ∧ Memory.wf me.hbm = true ∧ tabSorted csr = true := Iff.rfl

theorem keeps_parts {s : State} (h : Keeps q n s) : s.pending = q ∧ n ≤ s.time.now ∧ Memory.wf s.mem.hbm = true ∧
    tabSorted s.csr = true := h

theorem answers_next {s : State} (h : Keeps q n s) : Answers q n (.next s) := by
  intro t e; injection e with e; exact e ▸ h

theorem answers_fault (f : Fault) : Answers q n (.fault f) := by intro t e; cases e

theorem answers_refused (r : Refusal) : Answers q n (.refused r) := by intro t e; cases e

theorem ite_keeps {c : Prop} [Decidable c] {s t : State} (hs : Keeps q n s) (ht : Keeps q n t) : Keeps q n (if c then s else t) := by
  split <;> assumption

theorem ite_answers {c : Prop} [Decidable c] {a b : Out} (ha : Answers q n a) (hb : Answers q n b) :
    Answers q n (if c then a else b) := by
  split <;> assumption

theorem foldl_keeps {α : Type} (f : State → α → State) (h : ∀ s a, Keeps q n s → Keeps q n (f s a)) (l : List α) (s : State)
    (hs : Keeps q n s) : Keeps q n (l.foldl f s) := by
  induction l generalizing s with
  | nil => exact hs
  | cons a l ih => exact ih _ (h s a hs)

/-- The same for a fold that carries a value beside the state. -/
theorem foldl_pair_keeps {α β : Type} (f : β × State → α → β × State) (h : ∀ x a, Keeps q n x.2 → Keeps q n (f x a).2) (l : List α)
    (x : β × State) (hs : Keeps q n x.2) : Keeps q n (l.foldl f x).2 := by
  induction l generalizing x with
  | nil => exact hs
  | cons a l ih => exact ih _ (h x a hs)

/-! ### Sparse tables -/

theorem tabSorted_cons {α : Type} (k : Nat) (v : α) (r : Tab α) :
    tabSorted ((k, v) :: r) = true ↔ (∀ e ∈ r, k < e.1) ∧ tabSorted r = true := by
  cases r with
  | nil => simp [tabSorted]
  | cons e r =>
    obtain ⟨k', v'⟩ := e
    constructor
    · intro h
      simp only [tabSorted, Bool.and_eq_true, decide_eq_true_eq] at h
      refine ⟨?_, h.2⟩
      have key : ∀ (r : Tab α) (k' : Nat) (v' : α), tabSorted ((k', v') :: r) = true → ∀ e ∈ r, k' < e.1 := by
        intro r
        induction r with
        | nil => intro _ _ _ e he; cases he
        | cons e r ih =>
          intro k' v' h x hx
          simp only [tabSorted, Bool.and_eq_true, decide_eq_true_eq] at h
          rcases List.mem_cons.mp hx with rfl | hx
          · exact h.1
          · exact Nat.lt_trans h.1 (ih _ _ h.2 x hx)
      intro e he
      rcases List.mem_cons.mp he with rfl | he
      · exact h.1
      · exact Nat.lt_trans h.1 (key r k' v' h.2 e he)
    · rintro ⟨h, hr⟩
      simp only [tabSorted, Bool.and_eq_true, decide_eq_true_eq]
      exact ⟨h (k', v') (by simp), hr⟩

theorem tabSorted_filter {α : Type} {t : Tab α} (h : tabSorted t = true) (p : Nat × α → Bool) : tabSorted (t.filter p) = true := by
  induction t with
  | nil => rfl
  | cons e r ih =>
    obtain ⟨hk, hr⟩ := (tabSorted_cons e.1 e.2 r).mp h
    rw [List.filter_cons]
    split
    · exact (tabSorted_cons e.1 e.2 _).mpr ⟨fun x hx => hk x (List.mem_filter.mp hx).1, ih hr⟩
    · exact ih hr

theorem tabSorted_tabIns {α : Type} {t : Tab α} (h : tabSorted t = true) (k : Nat) (v : α) (hk : ∀ e ∈ t, e.1 ≠ k) :
    tabSorted (tabIns k v t) = true := by
  induction t with
  | nil => rfl
  | cons e r ih =>
    obtain ⟨i, w⟩ := e
    obtain ⟨hi, hr⟩ := (tabSorted_cons i w r).mp h
    simp only [tabIns]
    split
    · rename_i hl
      refine (tabSorted_cons k v _).mpr ⟨fun e he => ?_, h⟩
      rcases List.mem_cons.mp he with rfl | he
      · exact hl
      · exact Nat.lt_trans hl (hi e he)
    · rename_i hl
      have hne : i ≠ k := hk (i, w) (by simp)
      refine (tabSorted_cons i w _).mpr ⟨fun e he => ?_, ih hr fun e he => hk e (by simp [he])⟩
      have : ∀ (r : Tab α) (e : Nat × α), e ∈ tabIns k v r → e = (k, v) ∨ e ∈ r := by
        intro r
        induction r with
        | nil => intro e he; simpa [tabIns] using he
        | cons x r ih =>
          intro e he
          obtain ⟨j, u⟩ := x
          simp only [tabIns] at he
          split at he
          · simpa using he
          · rcases List.mem_cons.mp he with rfl | he
            · simp
            · rcases ih e he with h | h <;> simp [h]
      rcases this r e he with rfl | he
      · show i < k; omega
      · exact hi e he

theorem tabSorted_tabDel {α : Type} {t : Tab α} (h : tabSorted t = true) (k : Nat) : tabSorted (tabDel t k) = true :=
  tabSorted_filter h _

theorem tabSorted_tabPut {α : Type} {t : Tab α} (h : tabSorted t = true) (k : Nat) (v : α) : tabSorted (tabPut t k v) = true :=
  tabSorted_tabIns (tabSorted_tabDel h k) k v (tabDel_keys t k)

theorem tabSorted_tabSet {α : Type} [DecidableEq α] {d : α} {t : Tab α} (h : tabSorted t = true) (k : Nat) (v : α) :
    tabSorted (tabSet d t k v) = true := by
  unfold tabSet
  split
  · exact tabSorted_tabDel h k
  · exact tabSorted_tabIns (tabSorted_tabDel h k) k v (tabDel_keys t k)

/-! ### Registers, HBM and time -/

theorem setReg_keeps (f : Fld) (i v : Nat) (s : State) (h : Keeps q n s) : Keeps q n (setReg f i v s) :=
  ⟨h.1, h.2.1, h.2.2.1, tabSorted_tabSet h.2.2.2 _ _⟩

theorem resetBlocks_keeps (blocks : List Nat) (s : State) (h : Keeps q n s) : Keeps q n (resetBlocks blocks s) := by
  refine ⟨h.1, h.2.1, h.2.2.1, ?_⟩
  have key : ∀ (l : List Nat) (t : Tab Nat), tabSorted t = true →
      tabSorted (l.foldl (fun t b => clearSpan (fldSpan b) t) t) = true := by
    intro l
    induction l with
    | nil => exact fun _ h => h
    | cons b l ih => exact fun t h => ih _ (tabSorted_filter h _)
  exact key blocks _ h.2.2.2

theorem resetFld_keeps (f : Fld) (s : State) (h : Keeps q n s) : Keeps q n (resetFld f s) :=
  ⟨h.1, h.2.1, h.2.2.1, tabSorted_filter h.2.2.2 _⟩

theorem advance_keeps (ns : Nat) (s : State) (h : Keeps q n s) : Keeps q n (advance ns s) :=
  ⟨h.1, Nat.le_trans h.2.1 (Nat.le_add_right _ _), h.2.2⟩

theorem hbmWrite_keeps (f off : Nat) (b : List Byte) (s : State) (h : Keeps q n s) : Keeps q n (hbmWrite f off b s) :=
  ⟨h.1, h.2.1, hbmWrite_wf f off b s h.2.2.1, h.2.2.2⟩

theorem wipeFrame_keeps (f : Nat) (s : State) (h : Keeps q n s) : Keeps q n (wipeFrame f s) :=
  ⟨h.1, h.2.1, wipeFrame_wf f s h.2.2.1, h.2.2.2⟩

theorem hbmCopy_keeps (f g : Nat) (s : State) (h : Keeps q n s) : Keeps q n (hbmCopy f g s) :=
  ⟨h.1, h.2.1, hbmCopy_wf f g s h.2.2.1, h.2.2.2⟩

end Sys2Proof.Machine
end

