-- ==== Sys2Proof/Laws/KeepOps.lean ====
section
/-! SUPPORT. What the operations of Machine/Ops.lean keep: the queue, the clock and the canonical form of HBM and the registers. -/
namespace Sys2Proof.Machine

variable {q : List Instr} {n : Nat}

theorem onUnit_keeps (ok : Bool) (s : State) (x2 : State) (h : Keeps q n s) (hx2 : Keeps q n x2) :
    Answers q n (onUnit ok s x2) := by
  unfold onUnit
  repeat' first
    | with_reducible assumption
    | with_reducible intro _
    | with_reducible apply keeps_parts
    | with_reducible apply answers_next
    | with_reducible apply answers_fault
    | with_reducible apply answers_refused
    | with_reducible apply ite_answers
    | with_reducible apply ite_keeps
    | with_reducible apply foldl_keeps
    | with_reducible apply foldl_pair_keeps
    | split
    | rw [keeps_mk_iff]
    | dsimp only

theorem addReg_keeps (f : Fld) (i : Nat) (x2 : Nat) (s : State) (h : Keeps q n s) :
    Keeps q n (addReg f i x2 s) := by
  unfold addReg
  repeat' first
    | with_reducible assumption
    | with_reducible intro _
    | with_reducible apply keeps_parts
    | with_reducible apply setReg_keeps
    | with_reducible apply ite_keeps
    | with_reducible apply foldl_keeps
    | with_reducible apply foldl_pair_keeps
    | split
    | rw [keeps_mk_iff]
    | dsimp only

theorem incReg_keeps (f : Fld) (i : Nat) (s : State) (h : Keeps q n s) :
    Keeps q n (incReg f i s) := by
  unfold incReg
  repeat' first
    | with_reducible assumption
    | with_reducible intro _
    | with_reducible apply keeps_parts
    | with_reducible apply addReg_keeps
    | with_reducible apply ite_keeps
    | with_reducible apply foldl_keeps
    | with_reducible apply foldl_pair_keeps
    | split
    | rw [keeps_mk_iff]
    | dsimp only

theorem resetInst_keeps (fs : List Fld) (i : Nat) (s : State) (h : Keeps q n s) :
    Keeps q n (resetInst fs i s) := by
  unfold resetInst
  repeat' first
    | with_reducible assumption
    | with_reducible intro _
    | with_reducible apply keeps_parts
    | with_reducible apply setReg_keeps
    | with_reducible apply ite_keeps
    | with_reducible apply foldl_keeps
    | with_reducible apply foldl_pair_keeps
    | split
    | rw [keeps_mk_iff]
    | dsimp only

theorem raiseFlags_keeps (bay : Nat) (flask : Nat) (fl : AFlags) (s : State) (h : Keeps q n s) :
    Keeps q n (raiseFlags bay flask fl s) := by
  unfold raiseFlags
  repeat' first
    | with_reducible assumption
    | with_reducible intro _
    | with_reducible apply keeps_parts
    | with_reducible apply setReg_keeps
    | with_reducible apply ite_keeps
    | with_reducible apply foldl_keeps
    | with_reducible apply foldl_pair_keeps
    | split
    | rw [keeps_mk_iff]
    | dsimp only

theorem advanceTo_keeps (x0 : Nat) (s : State) (h : Keeps q n s) :
    Keeps q n (advanceTo x0 s) := by
  unfold advanceTo
  repeat' first
    | with_reducible assumption
    | with_reducible intro _
    | with_reducible apply keeps_parts
    | with_reducible apply advance_keeps
    | with_reducible apply ite_keeps
    | with_reducible apply foldl_keeps
    | with_reducible apply foldl_pair_keeps
    | split
    | rw [keeps_mk_iff]
    | dsimp only

theorem oscCycle_keeps (s : State) (h : Keeps q n s) :
    Keeps q n (oscCycle s) := by
  unfold oscCycle
  repeat' first
    | with_reducible assumption
    | with_reducible intro _
    | with_reducible apply keeps_parts
    | with_reducible apply advance_keeps
    | with_reducible apply ite_keeps
    | with_reducible apply foldl_keeps
    | with_reducible apply foldl_pair_keeps
    | split
    | rw [keeps_mk_iff]
    | dsimp only

theorem emit_keeps (o : OutMsg) (s : State) (h : Keeps q n s) :
    Keeps q n (emit o s) := by
  unfold emit
  repeat' first
    | with_reducible assumption
    | with_reducible intro _
    | with_reducible apply keeps_parts
    | with_reducible apply ite_keeps
    | with_reducible apply foldl_keeps
    | with_reducible apply foldl_pair_keeps
    | split
    | rw [keeps_mk_iff]
    | dsimp only

theorem emitCtl_keeps (devices : List Nat) (x1 : CtlKind) (fields : List Nat) (body : List Byte) (s : State) (h : Keeps q n s) :
    Keeps q n (emitCtl devices x1 fields body s) := by
  unfold emitCtl
  repeat' first
    | with_reducible assumption
    | with_reducible intro _
    | with_reducible apply keeps_parts
    | with_reducible apply emit_keeps
    | with_reducible apply ite_keeps
    | with_reducible apply foldl_keeps
    | with_reducible apply foldl_pair_keeps
    | split
    | rw [keeps_mk_iff]
    | dsimp only

theorem useFree_keeps (s : State) (h : Keeps q n s) :
    Keeps q n (useFree s) := by
  unfold useFree
  repeat' first
    | with_reducible assumption
    | with_reducible intro _
    | with_reducible apply keeps_parts
    | with_reducible apply ite_keeps
    | with_reducible apply foldl_keeps
    | with_reducible apply foldl_pair_keeps
    | split
    | rw [keeps_mk_iff]
    | dsimp only

theorem raiseSomewhere_keeps (bays : List Nat) (fl : AFlags) (s : State) (h : Keeps q n s) :
    Keeps q n (raiseSomewhere bays fl s) := by
  unfold raiseSomewhere
  repeat' first
    | with_reducible assumption
    | with_reducible intro _
    | with_reducible apply keeps_parts
    | with_reducible apply raiseFlags_keeps
    | with_reducible apply useFree_keeps
    | with_reducible apply ite_keeps
    | with_reducible apply foldl_keeps
    | with_reducible apply foldl_pair_keeps
    | split
    | rw [keeps_mk_iff]
    | dsimp only

theorem logEvent_keeps (code : Nat) (sev : Nat) (blk : Nat) (x3 : Nat) (args : List Byte) (s : State) (h : Keeps q n s) :
    Keeps q n (logEvent code sev blk x3 args s) := by
  unfold logEvent
  repeat' first
    | with_reducible assumption
    | with_reducible intro _
    | with_reducible apply keeps_parts
    | with_reducible apply incReg_keeps
    | with_reducible apply ite_keeps
    | with_reducible apply foldl_keeps
    | with_reducible apply foldl_pair_keeps
    | split
    | rw [keeps_mk_iff]
    | dsimp only

theorem addHistory_keeps (kind : Nat) (unit : Nat) (old : Nat) (new : Nat) (s : State) (h : Keeps q n s) :
    Keeps q n (addHistory kind unit old new s) := by
  unfold addHistory
  repeat' first
    | with_reducible assumption
    | with_reducible intro _
    | with_reducible apply keeps_parts
    | with_reducible apply ite_keeps
    | with_reducible apply foldl_keeps
    | with_reducible apply foldl_pair_keeps
    | split
    | rw [keeps_mk_iff]
    | dsimp only

theorem driveAlert_keeps (s : State) (h : Keeps q n s) :
    Keeps q n (driveAlert s) := by
  unfold driveAlert
  repeat' first
    | with_reducible assumption
    | with_reducible intro _
    | with_reducible apply keeps_parts
    | with_reducible apply ite_keeps
    | with_reducible apply foldl_keeps
    | with_reducible apply foldl_pair_keeps
    | split
    | rw [keeps_mk_iff]
    | dsimp only

theorem assertFault_keeps (s : State) (h : Keeps q n s) :
    Keeps q n (assertFault s) := by
  unfold assertFault
  repeat' first
    | with_reducible assumption
    | with_reducible intro _
    | with_reducible apply keeps_parts
    | with_reducible apply ite_keeps
    | with_reducible apply foldl_keeps
    | with_reducible apply foldl_pair_keeps
    | split
    | rw [keeps_mk_iff]
    | dsimp only

theorem modLink_keeps (l : Nat) (f : LinkPart → LinkPart) (s : State) (h : Keeps q n s) :
    Keeps q n (modLink l f s) := by
  unfold modLink
  repeat' first
    | with_reducible assumption
    | with_reducible intro _
    | with_reducible apply keeps_parts
    | with_reducible apply ite_keeps
    | with_reducible apply foldl_keeps
    | with_reducible apply foldl_pair_keeps
    | split
    | rw [keeps_mk_iff]
    | dsimp only

theorem modSched_keeps (p : Nat) (f : SchedPart → SchedPart) (s : State) (h : Keeps q n s) :
    Keeps q n (modSched p f s) := by
  unfold modSched
  repeat' first
    | with_reducible assumption
    | with_reducible intro _
    | with_reducible apply keeps_parts
    | with_reducible apply ite_keeps
    | with_reducible apply foldl_keeps
    | with_reducible apply foldl_pair_keeps
    | split
    | rw [keeps_mk_iff]
    | dsimp only

theorem modHalf_keeps (d : Nat) (f : TundishHalf → TundishHalf) (s : State) (h : Keeps q n s) :
    Keeps q n (modHalf d f s) := by
  unfold modHalf
  repeat' first
    | with_reducible assumption
    | with_reducible intro _
    | with_reducible apply keeps_parts
    | with_reducible apply ite_keeps
    | with_reducible apply foldl_keeps
    | with_reducible apply foldl_pair_keeps
    | split
    | rw [keeps_mk_iff]
    | dsimp only

theorem bumpEpoch_keeps (x0 : Nat) (s : State) (h : Keeps q n s) :
    Keeps q n (bumpEpoch x0 s) := by
  unfold bumpEpoch
  repeat' first
    | with_reducible assumption
    | with_reducible intro _
    | with_reducible apply keeps_parts
    | with_reducible apply ite_keeps
    | with_reducible apply foldl_keeps
    | with_reducible apply foldl_pair_keeps
    | split
    | rw [keeps_mk_iff]
    | dsimp only

theorem setLinkState_keeps (l : Nat) (st : Nat) (s : State) (h : Keeps q n s) :
    Keeps q n (setLinkState l st s) := by
  unfold setLinkState
  repeat' first
    | with_reducible assumption
    | with_reducible intro _
    | with_reducible apply keeps_parts
    | with_reducible apply bumpEpoch_keeps
    | with_reducible apply setReg_keeps
    | with_reducible apply ite_keeps
    | with_reducible apply foldl_keeps
    | with_reducible apply foldl_pair_keeps
    | split
    | rw [keeps_mk_iff]
    | dsimp only

theorem setBayState_keeps (b : Nat) (st : Nat) (s : State) (h : Keeps q n s) :
    Keeps q n (setBayState b st s) := by
  unfold setBayState
  repeat' first
    | with_reducible assumption
    | with_reducible intro _
    | with_reducible apply keeps_parts
    | with_reducible apply bumpEpoch_keeps
    | with_reducible apply setReg_keeps
    | with_reducible apply ite_keeps
    | with_reducible apply foldl_keeps
    | with_reducible apply foldl_pair_keeps
    | split
    | rw [keeps_mk_iff]
    | dsimp only

theorem forAll_keeps {α : Type} (l : List α) (f : α → State → State) (s : State) (hf : ∀ a0 a1, Keeps q n a1 → Keeps q n (f a0 a1)) (h : Keeps q n s) :
    Keeps q n (forAll l f s) := by
  unfold forAll
  repeat' first
    | with_reducible assumption
    | with_reducible intro _
    | with_reducible apply keeps_parts
    | with_reducible apply hf
    | with_reducible apply ite_keeps
    | with_reducible apply foldl_keeps
    | with_reducible apply foldl_pair_keeps
    | split
    | rw [keeps_mk_iff]
    | dsimp only

theorem markCtxs_keeps (f : DetCtx → DetCtx) (s : State) (h : Keeps q n s) :
    Keeps q n (markCtxs f s) := by
  unfold markCtxs
  repeat' first
    | with_reducible assumption
    | with_reducible intro _
    | with_reducible apply keeps_parts
    | with_reducible apply ite_keeps
    | with_reducible apply foldl_keeps
    | with_reducible apply foldl_pair_keeps
    | split
    | rw [keeps_mk_iff]
    | dsimp only

theorem markFlag_keeps (bit : Nat) (s : State) (h : Keeps q n s) :
    Keeps q n (markFlag bit s) := by
  unfold markFlag
  repeat' first
    | with_reducible assumption
    | with_reducible intro _
    | with_reducible apply keeps_parts
    | with_reducible apply markCtxs_keeps
    | with_reducible apply ite_keeps
    | with_reducible apply foldl_keeps
    | with_reducible apply foldl_pair_keeps
    | split
    | rw [keeps_mk_iff]
    | dsimp only

theorem noteBreach_keeps (d : Nat) (s : State) (h : Keeps q n s) :
    Keeps q n (noteBreach d s) := by
  unfold noteBreach
  repeat' first
    | with_reducible assumption
    | with_reducible intro _
    | with_reducible apply keeps_parts
    | with_reducible apply markFlag_keeps
    | with_reducible apply incReg_keeps
    | with_reducible apply ite_keeps
    | with_reducible apply foldl_keeps
    | with_reducible apply foldl_pair_keeps
    | split
    | rw [keeps_mk_iff]
    | dsimp only

theorem noteCorrected_keeps (x0 : Nat) (s : State) (h : Keeps q n s) :
    Keeps q n (noteCorrected x0 s) := by
  unfold noteCorrected
  repeat' first
    | with_reducible assumption
    | with_reducible intro _
    | with_reducible apply keeps_parts
    | with_reducible apply markCtxs_keeps
    | with_reducible apply ite_keeps
    | with_reducible apply foldl_keeps
    | with_reducible apply foldl_pair_keeps
    | split
    | rw [keeps_mk_iff]
    | dsimp only

end Sys2Proof.Machine
end

