-- ==== Sys2Proof/Laws/KeepCoding.lean ====
section
/-! SUPPORT. What the operations of Machine/Coding.lean keep: the queue, the clock and the canonical form of HBM and the registers. -/
namespace Sys2Proof.Machine

variable {q : List Instr} {n : Nat}

theorem modLine_keeps (l : Nat) (f : LineOut → LineOut) (s : State) (h : Keeps q n s) :
    Keeps q n (modLine l f s) := by
  unfold modLine
  repeat' first
    | with_reducible assumption
    | with_reducible intro _
    | with_reducible apply keeps_parts
    | with_reducible apply ite_keeps
    | with_reducible apply foldl_keeps
    | with_reducible apply foldl_pair_keeps
    | split
    | rw [keeps_mk_iff]
    | dsimp only

theorem sendLine_keeps (l : Nat) (m : OutMsg) (cols : List Column) (s : State) (h : Keeps q n s) :
    Keeps q n (sendLine l m cols s) := by
  unfold sendLine
  repeat' first
    | with_reducible assumption
    | with_reducible intro _
    | with_reducible apply keeps_parts
    | with_reducible apply emit_keeps
    | with_reducible apply modLine_keeps
    | with_reducible apply useFree_keeps
    | with_reducible apply ite_keeps
    | with_reducible apply foldl_keeps
    | with_reducible apply foldl_pair_keeps
    | split
    | rw [keeps_mk_iff]
    | dsimp only

theorem sendPacket_keeps (l : Nat) (p : Packet) (aborted : Bool) (s : State) (h : Keeps q n s) :
    Keeps q n (sendPacket l p aborted s) := by
  unfold sendPacket
  repeat' first
    | with_reducible assumption
    | with_reducible intro _
    | with_reducible apply keeps_parts
    | with_reducible apply sendLine_keeps
    | with_reducible apply ite_keeps
    | with_reducible apply foldl_keeps
    | with_reducible apply foldl_pair_keeps
    | split
    | rw [keeps_mk_iff]
    | dsimp only

theorem sendBlock_keeps (l : Nat) (body : List Byte) (s : State) (h : Keeps q n s) :
    Keeps q n (sendBlock l body s) := by
  unfold sendBlock
  repeat' first
    | with_reducible assumption
    | with_reducible intro _
    | with_reducible apply keeps_parts
    | with_reducible apply sendLine_keeps
    | with_reducible apply ite_keeps
    | with_reducible apply foldl_keeps
    | with_reducible apply foldl_pair_keeps
    | split
    | rw [keeps_mk_iff]
    | dsimp only

theorem sendSof_keeps (l : Nat) (frame : Nat) (s : State) (h : Keeps q n s) :
    Keeps q n (sendSof l frame s) := by
  unfold sendSof
  repeat' first
    | with_reducible assumption
    | with_reducible intro _
    | with_reducible apply keeps_parts
    | with_reducible apply sendLine_keeps
    | with_reducible apply ite_keeps
    | with_reducible apply foldl_keeps
    | with_reducible apply foldl_pair_keeps
    | split
    | rw [keeps_mk_iff]
    | dsimp only

theorem sendTraining_keeps (l : Nat) (s : State) (h : Keeps q n s) :
    Keeps q n (sendTraining l s) := by
  unfold sendTraining
  repeat' first
    | with_reducible assumption
    | with_reducible intro _
    | with_reducible apply keeps_parts
    | with_reducible apply modLine_keeps
    | with_reducible apply useFree_keeps
    | with_reducible apply emit_keeps
    | with_reducible apply ite_keeps
    | with_reducible apply foldl_keeps
    | with_reducible apply foldl_pair_keeps
    | split
    | rw [keeps_mk_iff]
    | dsimp only

theorem startColumns_keeps (l : Nat) (s : State) (h : Keeps q n s) :
    Keeps q n (startColumns l s) := by
  unfold startColumns
  repeat' first
    | with_reducible assumption
    | with_reducible intro _
    | with_reducible apply keeps_parts
    | with_reducible apply modLine_keeps
    | with_reducible apply modLink_keeps
    | with_reducible apply ite_keeps
    | with_reducible apply foldl_keeps
    | with_reducible apply foldl_pair_keeps
    | split
    | rw [keeps_mk_iff]
    | dsimp only

theorem countViolations_keeps (l : Nat) (ps : List Nat) (s : State) (h : Keeps q n s) :
    Keeps q n (countViolations l ps s) := by
  unfold countViolations
  repeat' first
    | with_reducible assumption
    | with_reducible intro _
    | with_reducible apply keeps_parts
    | with_reducible apply modLink_keeps
    | with_reducible apply incReg_keeps
    | with_reducible apply ite_keeps
    | with_reducible apply foldl_keeps
    | with_reducible apply foldl_pair_keeps
    | split
    | rw [keeps_mk_iff]
    | dsimp only

end Sys2Proof.Machine
end

