-- ==== Sys2Proof/Laws/KeepSwitch.lean ====
section
/-! SUPPORT. What the operations of Machine/Switch.lean keep: the queue, the clock and the canonical form of HBM and the registers. -/
namespace Sys2Proof.Machine

variable {q : List Instr} {n : Nat}

theorem modVc_keeps (l : Nat) (x1 : Nat) (f : VcPart → VcPart) (s : State) (h : Keeps q n s) :
    Keeps q n (modVc l x1 f s) := by
  unfold modVc
  repeat' first
    | with_reducible assumption
    | with_reducible intro _
    | with_reducible apply keeps_parts
    | with_reducible apply ite_keeps
    | with_reducible apply foldl_keeps
    | with_reducible apply foldl_pair_keeps
    | split
    | rw [keeps_mk_iff]
    | dsimp only

theorem returnCredit_keeps (l : Nat) (x1 : Nat) (x2 : Nat) (s : State) (h : Keeps q n s) :
    Keeps q n (returnCredit l x1 x2 s) := by
  unfold returnCredit
  repeat' first
    | with_reducible assumption
    | with_reducible intro _
    | with_reducible apply keeps_parts
    | with_reducible apply modVc_keeps
    | with_reducible apply addReg_keeps
    | with_reducible apply ite_keeps
    | with_reducible apply foldl_keeps
    | with_reducible apply foldl_pair_keeps
    | split
    | rw [keeps_mk_iff]
    | dsimp only

theorem giveCredit_keeps (inLink : Option Nat) (x1 : Nat) (x2 : Nat) (s : State) (h : Keeps q n s) :
    Keeps q n (giveCredit inLink x1 x2 s) := by
  unfold giveCredit
  repeat' first
    | with_reducible assumption
    | with_reducible intro _
    | with_reducible apply keeps_parts
    | with_reducible apply modVc_keeps
    | with_reducible apply ite_keeps
    | with_reducible apply foldl_keeps
    | with_reducible apply foldl_pair_keeps
    | split
    | rw [keeps_mk_iff]
    | dsimp only

theorem releaseLevel_keeps (l : Nat) (x1 : Nat) (s : State) (h : Keeps q n s) :
    Keeps q n (releaseLevel l x1 s) := by
  unfold releaseLevel
  repeat' first
    | with_reducible assumption
    | with_reducible intro _
    | with_reducible apply keeps_parts
    | with_reducible apply modVc_keeps
    | with_reducible apply ite_keeps
    | with_reducible apply foldl_keeps
    | with_reducible apply foldl_pair_keeps
    | split
    | rw [keeps_mk_iff]
    | dsimp only

theorem holdCells_keeps {d : Nat} {port : Nat} {vc : Nat} {cells : Nat} {copies : Nat} {inLink : Option Nat} {inVc : Nat} {s : State} {v0 : ℕ} {t : State} (e : holdCells d port vc cells copies inLink inVc s = some (v0, t)) (h : Keeps q n s) : Keeps q n t := by
  unfold holdCells at e
  try dsimp only at e
  (repeat' split at e) <;> first | (cases e; done) | (injection e with e; injection e with _ e; subst e) | skip
  all_goals repeat' first
    | with_reducible assumption
    | with_reducible intro _
    | with_reducible apply keeps_parts
    | with_reducible apply modHalf_keeps
    | with_reducible apply ite_keeps
    | with_reducible apply foldl_keeps
    | with_reducible apply foldl_pair_keeps
    | split
    | rw [keeps_mk_iff]
    | dsimp only

theorem dropHold_keeps (id : Nat) (s : State) (h : Keeps q n s) :
    Keeps q n (dropHold id s) := by
  unfold dropHold
  repeat' first
    | with_reducible assumption
    | with_reducible intro _
    | with_reducible apply keeps_parts
    | with_reducible apply modHalf_keeps
    | with_reducible apply returnCredit_keeps
    | with_reducible apply ite_keeps
    | with_reducible apply foldl_keeps
    | with_reducible apply foldl_pair_keeps
    | split
    | rw [keeps_mk_iff]
    | dsimp only

theorem noteCellErrs_keeps (id : Nat) (x1 : CellErrs) (s : State) (h : Keeps q n s) :
    Keeps q n (noteCellErrs id x1 s) := by
  unfold noteCellErrs
  repeat' first
    | with_reducible assumption
    | with_reducible intro _
    | with_reducible apply keeps_parts
    | with_reducible apply logEvent_keeps
    | with_reducible apply noteCorrected_keeps
    | with_reducible apply addReg_keeps
    | with_reducible apply modHalf_keeps
    | with_reducible apply ite_keeps
    | with_reducible apply foldl_keeps
    | with_reducible apply foldl_pair_keeps
    | split
    | rw [keeps_mk_iff]
    | dsimp only

theorem noteNoRoom_keeps (d : Nat) (port : Nat) (vc : Nat) (s : State) (h : Keeps q n s) :
    Keeps q n (noteNoRoom d port vc s) := by
  unfold noteNoRoom
  repeat' first
    | with_reducible assumption
    | with_reducible intro _
    | with_reducible apply keeps_parts
    | with_reducible apply incReg_keeps
    | with_reducible apply modHalf_keeps
    | with_reducible apply logEvent_keeps
    | with_reducible apply ite_keeps
    | with_reducible apply foldl_keeps
    | with_reducible apply foldl_pair_keeps
    | split
    | rw [keeps_mk_iff]
    | dsimp only

theorem putQueue_keeps (i : Nat) (x1 : OutQueue) (s : State) (h : Keeps q n s) :
    Keeps q n (putQueue i x1 s) := by
  unfold putQueue
  repeat' first
    | with_reducible assumption
    | with_reducible intro _
    | with_reducible apply keeps_parts
    | with_reducible apply ite_keeps
    | with_reducible apply foldl_keeps
    | with_reducible apply foldl_pair_keeps
    | split
    | rw [keeps_mk_iff]
    | dsimp only

theorem delQueue_keeps (i : Nat) (s : State) (h : Keeps q n s) :
    Keeps q n (delQueue i s) := by
  unfold delQueue
  repeat' first
    | with_reducible assumption
    | with_reducible intro _
    | with_reducible apply keeps_parts
    | with_reducible apply ite_keeps
    | with_reducible apply foldl_keeps
    | with_reducible apply foldl_pair_keeps
    | split
    | rw [keeps_mk_iff]
    | dsimp only

theorem noteEnqueue_keeps (i : Nat) (depth : Nat) (s : State) (h : Keeps q n s) :
    Keeps q n (noteEnqueue i depth s).2 := by
  unfold noteEnqueue
  repeat' first
    | with_reducible assumption
    | with_reducible intro _
    | with_reducible apply keeps_parts
    | with_reducible apply ite_keeps
    | with_reducible apply foldl_keeps
    | with_reducible apply foldl_pair_keeps
    | split
    | rw [keeps_mk_iff]
    | dsimp only

theorem noteEnqueue_keeps_eq {i : Nat} {depth : Nat} {s : State} {v : Option Nat} {t : State} (e : noteEnqueue i depth s = (v, t)) (h : Keeps q n s) : Keeps q n t := by
  have h := noteEnqueue_keeps i depth s h (q := q) (n := n)
  rw [e] at h; exact h

theorem noteDelay_keeps (i : Nat) (depth : Nat) (delay : Nat) (s : State) (h : Keeps q n s) :
    Keeps q n (noteDelay i depth delay s) := by
  unfold noteDelay
  repeat' first
    | with_reducible assumption
    | with_reducible intro _
    | with_reducible apply keeps_parts
    | with_reducible apply ite_keeps
    | with_reducible apply foldl_keeps
    | with_reducible apply foldl_pair_keeps
    | split
    | rw [keeps_mk_iff]
    | dsimp only

theorem enqueue_keeps (port : Nat) (vc : Nat) (p : Packet) (cells : Nat) (hold : Nat) (s : State) (h : Keeps q n s) :
    Keeps q n (enqueue port vc p cells hold s) := by
  unfold enqueue
  repeat' first
    | with_reducible assumption
    | with_reducible intro _
    | with_reducible apply keeps_parts
    | with_reducible apply noteEnqueue_keeps
    | with_reducible refine noteEnqueue_keeps_eq (by assumption) ?_
    | with_reducible apply putQueue_keeps
    | with_reducible apply ite_keeps
    | with_reducible apply foldl_keeps
    | with_reducible apply foldl_pair_keeps
    | split
    | rw [keeps_mk_iff]
    | dsimp only

theorem popQueue_keeps {i : Nat} {s : State} {v0 : QEnt} {v1 : OutQueue} {t : State} (e : popQueue i s = some (v0, v1, t)) (h : Keeps q n s) : Keeps q n t := by
  unfold popQueue at e
  try dsimp only at e
  (repeat' split at e) <;> first | (cases e; done) | (injection e with e; injection e with _ e; injection e with _ e; subst e) | skip
  all_goals repeat' first
    | with_reducible assumption
    | with_reducible intro _
    | with_reducible apply keeps_parts
    | with_reducible apply modSched_keeps
    | with_reducible apply delQueue_keeps
    | with_reducible apply putQueue_keeps
    | with_reducible apply noteDelay_keeps
    | with_reducible apply ite_keeps
    | with_reducible apply foldl_keeps
    | with_reducible apply foldl_pair_keeps
    | split
    | rw [keeps_mk_iff]
    | dsimp only

theorem settleBindings_keeps (s : State) (h : Keeps q n s) :
    Keeps q n (settleBindings s) := by
  unfold settleBindings
  repeat' first
    | with_reducible assumption
    | with_reducible intro _
    | with_reducible apply keeps_parts
    | with_reducible apply ite_keeps
    | with_reducible apply foldl_keeps
    | with_reducible apply foldl_pair_keeps
    | split
    | rw [keeps_mk_iff]
    | dsimp only

theorem discardPort_keeps (port : Nat) (s : State) (h : Keeps q n s) :
    Keeps q n (discardPort port s) := by
  unfold discardPort
  repeat' first
    | with_reducible assumption
    | with_reducible intro _
    | with_reducible apply keeps_parts
    | with_reducible apply dropHold_keeps
    | with_reducible apply incReg_keeps
    | with_reducible apply delQueue_keeps
    | with_reducible apply putQueue_keeps
    | with_reducible apply ite_keeps
    | with_reducible apply foldl_keeps
    | with_reducible apply foldl_pair_keeps
    | split
    | rw [keeps_mk_iff]
    | dsimp only

end Sys2Proof.Machine
end

