-- ==== Sys2Proof/Laws/KeepSend.lean ====
section
/-! SUPPORT. What the operations of Machine/Send.lean keep: the queue, the clock and the canonical form of HBM and the registers. -/
namespace Sys2Proof.Machine

variable {q : List Instr} {n : Nat}

theorem preparePath_keeps (inLink : Option Nat) (p : Packet) (s : State) (h : Keeps q n s) :
    Keeps q n (preparePath inLink p s).2 := by
  unfold preparePath
  repeat' first
    | with_reducible assumption
    | with_reducible intro _
    | with_reducible apply keeps_parts
    | with_reducible apply incReg_keeps
    | with_reducible apply ite_keeps
    | with_reducible apply foldl_keeps
    | with_reducible apply foldl_pair_keeps
    | split
    | rw [keeps_mk_iff]
    | dsimp only

theorem preparePath_keeps_eq {inLink : Option Nat} {p : Packet} {s : State} {v : Packet} {t : State} (e : preparePath inLink p s = (v, t)) (h : Keeps q n s) : Keeps q n t := by
  have h := preparePath_keeps inLink p s h (q := q) (n := n)
  rw [e] at h; exact h

theorem noteHop_keeps (first : Bool) (x1 : Hop) (s : State) (h : Keeps q n s) :
    Keeps q n (noteHop first x1 s) := by
  unfold noteHop
  repeat' first
    | with_reducible assumption
    | with_reducible intro _
    | with_reducible apply keeps_parts
    | with_reducible apply incReg_keeps
    | with_reducible apply noteBreach_keeps
    | with_reducible apply ite_keeps
    | with_reducible apply foldl_keeps
    | with_reducible apply foldl_pair_keeps
    | split
    | rw [keeps_mk_iff]
    | dsimp only

theorem modStream_keeps (src : Nat) (dst : Nat) (stream : Nat) (f : OutStream → OutStream) (s : State) (h : Keeps q n s) :
    Keeps q n (modStream src dst stream f s) := by
  unfold modStream
  repeat' first
    | with_reducible assumption
    | with_reducible intro _
    | with_reducible apply keeps_parts
    | with_reducible apply ite_keeps
    | with_reducible apply foldl_keeps
    | with_reducible apply foldl_pair_keeps
    | split
    | rw [keeps_mk_iff]
    | dsimp only

theorem putFabric_result (first : Bool) (l : Option Nat) (v : Nat) (p : Packet) (s : State) (h : Keeps q n s) :
    (∀ t, putFabric first l v p s = .ok t → Keeps q n t) ∧ (∀ t, putFabric first l v p s = .noRoute t → Keeps q n t) ∧
    (∀ t, putFabric first l v p s = .noRoom t → Keeps q n t) := by
  unfold putFabric
  split
  · refine ⟨fun t e => PutResult.noConfusion e, fun t e => ?_, fun t e => PutResult.noConfusion e⟩
    injection e with e; subst e
    repeat' first
      | with_reducible assumption
      | with_reducible apply incReg_keeps
      | with_reducible apply giveCredit_keeps
  · rename_i hop _
    have hs := noteHop_keeps first hop s h
    dsimp only
    split
    · refine ⟨fun t e => PutResult.noConfusion e, fun t e => PutResult.noConfusion e, fun t e => ?_⟩
      injection e with e; subst e
      repeat' first
        | with_reducible assumption
        | with_reducible apply noteNoRoom_keeps
        | with_reducible apply giveCredit_keeps
    · rename_i e'
      refine ⟨fun t e => ?_, fun t e => PutResult.noConfusion e, fun t e => PutResult.noConfusion e⟩
      injection e with e; subst e
      with_reducible apply enqueue_keeps
      with_reducible apply incReg_keeps
      exact holdCells_keeps e' hs

theorem putFabric_ok {first : Bool} {l : Option Nat} {v : Nat} {p : Packet} {s t : State} (e : putFabric first l v p s = .ok t)
    (h : Keeps q n s) : Keeps q n t := (putFabric_result first l v p s h).1 t e

theorem putFabric_noRoute {first : Bool} {l : Option Nat} {v : Nat} {p : Packet} {s t : State}
    (e : putFabric first l v p s = .noRoute t) (h : Keeps q n s) : Keeps q n t := (putFabric_result first l v p s h).2.1 t e

theorem putFabric_noRoom {first : Bool} {l : Option Nat} {v : Nat} {p : Packet} {s t : State}
    (e : putFabric first l v p s = .noRoom t) (h : Keeps q n s) : Keeps q n t := (putFabric_result first l v p s h).2.2 t e

theorem launch_keeps (p : Packet) (s : State) (h : Keeps q n s) : Keeps q n (launch p s) := by
  unfold launch
  have hs := preparePath_keeps none p s h
  generalize preparePath none p s = x at hs
  obtain ⟨p', s'⟩ := x
  dsimp only at hs ⊢
  split
  · exact putFabric_ok ‹_› hs
  · exact putFabric_noRoute ‹_› hs
  · exact putFabric_noRoom ‹_› hs

theorem releaseSent_keeps (src : Nat) (by' : Nat) (stream : Nat) (top : Nat) (count : Nat) (s : State) (h : Keeps q n s) :
    Keeps q n (releaseSent src by' stream top count s) := by
  unfold releaseSent
  repeat' first
    | with_reducible assumption
    | with_reducible intro _
    | with_reducible apply keeps_parts
    | with_reducible apply ite_keeps
    | with_reducible apply foldl_keeps
    | with_reducible apply foldl_pair_keeps
    | split
    | rw [keeps_mk_iff]
    | dsimp only

theorem dropSent_keeps (src : Nat) (stream : Nat) (seq : Nat) (s : State) (h : Keeps q n s) :
    Keeps q n (dropSent src stream seq s) := by
  unfold dropSent
  repeat' first
    | with_reducible assumption
    | with_reducible intro _
    | with_reducible apply keeps_parts
    | with_reducible apply ite_keeps
    | with_reducible apply foldl_keeps
    | with_reducible apply foldl_pair_keeps
    | split
    | rw [keeps_mk_iff]
    | dsimp only

theorem countResend_keeps (d : Nat) (s : State) (h : Keeps q n s) :
    Keeps q n (countResend d s) := by
  unfold countResend
  repeat' first
    | with_reducible assumption
    | with_reducible intro _
    | with_reducible apply keeps_parts
    | with_reducible apply incReg_keeps
    | with_reducible apply ite_keeps
    | with_reducible apply foldl_keeps
    | with_reducible apply foldl_pair_keeps
    | split
    | rw [keeps_mk_iff]
    | dsimp only

theorem reopenStream_keeps (src : Nat) (stream : Nat) (seq : Nat) (s : State) (h : Keeps q n s) :
    Keeps q n (reopenStream src stream seq s) := by
  unfold reopenStream
  repeat' first
    | with_reducible assumption
    | with_reducible intro _
    | with_reducible apply keeps_parts
    | with_reducible apply ite_keeps
    | with_reducible apply foldl_keeps
    | with_reducible apply foldl_pair_keeps
    | split
    | rw [keeps_mk_iff]
    | dsimp only

theorem resendNow_keeps (src : Nat) (stream : Nat) (seq : Nat) (s : State) (h : Keeps q n s) :
    Keeps q n (resendNow src stream seq s) := by
  unfold resendNow
  repeat' first
    | with_reducible assumption
    | with_reducible intro _
    | with_reducible apply keeps_parts
    | with_reducible apply launch_keeps
    | with_reducible apply countResend_keeps
    | with_reducible apply ite_keeps
    | with_reducible apply foldl_keeps
    | with_reducible apply foldl_pair_keeps
    | split
    | rw [keeps_mk_iff]
    | dsimp only

theorem answerOwn_keeps (p : Packet) (s : State) (h : Keeps q n s) :
    Keeps q n (answerOwn p s) := by
  unfold answerOwn
  repeat' first
    | with_reducible assumption
    | with_reducible intro _
    | with_reducible apply keeps_parts
    | with_reducible apply releaseSent_keeps
    | with_reducible apply resendNow_keeps
    | with_reducible apply reopenStream_keeps
    | with_reducible apply dropSent_keeps
    | with_reducible apply ite_keeps
    | with_reducible apply foldl_keeps
    | with_reducible apply foldl_pair_keeps
    | split
    | rw [keeps_mk_iff]
    | dsimp only

theorem sendAnswer_keeps (p : Packet) (s : State) (h : Keeps q n s) :
    Keeps q n (sendAnswer p s) := by
  unfold sendAnswer
  repeat' first
    | with_reducible assumption
    | with_reducible intro _
    | with_reducible apply keeps_parts
    | with_reducible apply sendBlock_keeps
    | with_reducible apply answerOwn_keeps
    | with_reducible apply launch_keeps
    | with_reducible apply ite_keeps
    | with_reducible apply foldl_keeps
    | with_reducible apply foldl_pair_keeps
    | split
    | rw [keeps_mk_iff]
    | dsimp only

theorem nakAs_keeps (by' : Nat) (p : Packet) (cause : Nat) (s : State) (h : Keeps q n s) :
    Keeps q n (nakAs by' p cause s) := by
  unfold nakAs
  repeat' first
    | with_reducible assumption
    | with_reducible intro _
    | with_reducible apply keeps_parts
    | with_reducible apply sendAnswer_keeps
    | with_reducible apply ite_keeps
    | with_reducible apply foldl_keeps
    | with_reducible apply foldl_pair_keeps
    | split
    | rw [keeps_mk_iff]
    | dsimp only

theorem nak_keeps (p : Packet) (cause : Nat) (s : State) (h : Keeps q n s) :
    Keeps q n (nak p cause s) := by
  unfold nak
  repeat' first
    | with_reducible assumption
    | with_reducible intro _
    | with_reducible apply keeps_parts
    | with_reducible apply nakAs_keeps
    | with_reducible apply ite_keeps
    | with_reducible apply foldl_keeps
    | with_reducible apply foldl_pair_keeps
    | split
    | rw [keeps_mk_iff]
    | dsimp only

theorem putCtx_keeps (c : Ctx) (s : State) (h : Keeps q n s) :
    Keeps q n (putCtx c s) := by
  unfold putCtx
  repeat' first
    | with_reducible assumption
    | with_reducible intro _
    | with_reducible apply keeps_parts
    | with_reducible apply ite_keeps
    | with_reducible apply foldl_keeps
    | with_reducible apply foldl_pair_keeps
    | split
    | rw [keeps_mk_iff]
    | dsimp only

theorem delCtx_keeps (key : Nat) (s : State) (h : Keeps q n s) :
    Keeps q n (delCtx key s) := by
  unfold delCtx
  repeat' first
    | with_reducible assumption
    | with_reducible intro _
    | with_reducible apply keeps_parts
    | with_reducible apply ite_keeps
    | with_reducible apply foldl_keeps
    | with_reducible apply foldl_pair_keeps
    | split
    | rw [keeps_mk_iff]
    | dsimp only

theorem touchCtx_keeps (key : Nat) (d : Nat) (s : State) (h : Keeps q n s) :
    Keeps q n (touchCtx key d s) := by
  unfold touchCtx
  repeat' first
    | with_reducible assumption
    | with_reducible intro _
    | with_reducible apply keeps_parts
    | with_reducible apply incReg_keeps
    | with_reducible apply useFree_keeps
    | with_reducible apply ite_keeps
    | with_reducible apply foldl_keeps
    | with_reducible apply foldl_pair_keeps
    | split
    | rw [keeps_mk_iff]
    | dsimp only

theorem roomForCtx_keeps {key : Nat} {s : State} {t : State} (e : roomForCtx key s = some t) (h : Keeps q n s) : Keeps q n t := by
  unfold roomForCtx at e
  try dsimp only at e
  (repeat' split at e) <;> first | (cases e; done) | (injection e with e; subst e) | skip
  all_goals repeat' first
    | with_reducible assumption
    | with_reducible intro _
    | with_reducible apply keeps_parts
    | with_reducible apply delCtx_keeps
    | with_reducible apply ite_keeps
    | with_reducible apply foldl_keeps
    | with_reducible apply foldl_pair_keeps
    | split
    | rw [keeps_mk_iff]
    | dsimp only

theorem outputPkt_keeps (p : Packet) (hold : Nat) (s : State) (h : Keeps q n s) :
    Keeps q n (outputPkt p hold s) := by
  unfold outputPkt
  repeat' first
    | with_reducible assumption
    | with_reducible intro _
    | with_reducible apply keeps_parts
    | with_reducible apply nak_keeps
    | with_reducible apply dropHold_keeps
    | with_reducible apply enqueue_keeps
    | with_reducible apply ite_keeps
    | with_reducible apply foldl_keeps
    | with_reducible apply foldl_pair_keeps
    | split
    | rw [keeps_mk_iff]
    | dsimp only

theorem drainHeld_keeps (fuel : Nat) (c : Ctx) (s : State) (h : Keeps q n s) : Keeps q n (drainHeld fuel c s).2 := by
  induction fuel generalizing c s with
  | zero => exact h
  | succ k ih =>
    unfold drainHeld
    repeat' first
      | with_reducible assumption
      | with_reducible apply ih
      | with_reducible apply outputPkt_keeps
      | split
      | dsimp only

theorem drainHeld_keeps_eq {fuel : Nat} {c c' : Ctx} {s t : State} (e : drainHeld fuel c s = (c', t)) (h : Keeps q n s) :
    Keeps q n t := by
  have := drainHeld_keeps fuel c s h; rw [e] at this; exact this

theorem deliverNext_keeps (c : Ctx) (p : Packet) (hold : Nat) (s : State) (h : Keeps q n s) :
    Keeps q n (deliverNext c p hold s) := by
  unfold deliverNext
  repeat' first
    | with_reducible assumption
    | with_reducible intro _
    | with_reducible apply keeps_parts
    | with_reducible apply outputPkt_keeps
    | with_reducible apply drainHeld_keeps
    | with_reducible refine drainHeld_keeps_eq (by assumption) ?_
    | with_reducible apply putCtx_keeps
    | with_reducible apply dropHold_keeps
    | with_reducible apply incReg_keeps
    | with_reducible apply ite_keeps
    | with_reducible apply foldl_keeps
    | with_reducible apply foldl_pair_keeps
    | split
    | rw [keeps_mk_iff]
    | dsimp only

theorem dropDamagedAt_keeps (d : Nat) (p : Packet) (s : State) (h : Keeps q n s) :
    Keeps q n (dropDamagedAt d p s) := by
  unfold dropDamagedAt
  repeat' first
    | with_reducible assumption
    | with_reducible intro _
    | with_reducible apply keeps_parts
    | with_reducible apply nak_keeps
    | with_reducible apply incReg_keeps
    | with_reducible apply ite_keeps
    | with_reducible apply foldl_keeps
    | with_reducible apply foldl_pair_keeps
    | split
    | rw [keeps_mk_iff]
    | dsimp only

theorem dropDamaged_keeps (p : Packet) (s : State) (h : Keeps q n s) :
    Keeps q n (dropDamaged p s) := by
  unfold dropDamaged
  repeat' first
    | with_reducible assumption
    | with_reducible intro _
    | with_reducible apply keeps_parts
    | with_reducible apply dropDamagedAt_keeps
    | with_reducible apply ite_keeps
    | with_reducible apply foldl_keeps
    | with_reducible apply foldl_pair_keeps
    | split
    | rw [keeps_mk_iff]
    | dsimp only

theorem resequence_keeps (c : Ctx) (p : Packet) (hold : Nat) (s : State) (h : Keeps q n s) :
    Keeps q n (resequence c p hold s) := by
  unfold resequence
  repeat' first
    | with_reducible assumption
    | with_reducible intro _
    | with_reducible apply keeps_parts
    | with_reducible apply deliverNext_keeps
    | with_reducible apply dropDamaged_keeps
    | with_reducible apply dropHold_keeps
    | with_reducible apply putCtx_keeps
    | with_reducible apply incReg_keeps
    | with_reducible apply nak_keeps
    | with_reducible apply sendAnswer_keeps
    | with_reducible apply ite_keeps
    | with_reducible apply foldl_keeps
    | with_reducible apply foldl_pair_keeps
    | split
    | rw [keeps_mk_iff]
    | dsimp only

theorem sequencePkt_keeps (p : Packet) (hold : Nat) (s : State) (h : Keeps q n s) :
    Keeps q n (sequencePkt p hold s) := by
  unfold sequencePkt
  repeat' first
    | with_reducible assumption
    | with_reducible intro _
    | with_reducible apply keeps_parts
    | with_reducible apply touchCtx_keeps
    | with_reducible refine roomForCtx_keeps (by assumption) ?_
    | with_reducible apply resequence_keeps
    | with_reducible apply nak_keeps
    | with_reducible apply dropHold_keeps
    | with_reducible apply incReg_keeps
    | with_reducible apply ite_keeps
    | with_reducible apply foldl_keeps
    | with_reducible apply foldl_pair_keeps
    | split
    | rw [keeps_mk_iff]
    | dsimp only

theorem takeHere_keeps (inLink : Option Nat) (inVc : Nat) (p : Packet) (s : State) (h : Keeps q n s) :
    Keeps q n (takeHere inLink inVc p s) := by
  unfold takeHere
  repeat' first
    | with_reducible assumption
    | with_reducible intro _
    | with_reducible apply keeps_parts
    | with_reducible apply nak_keeps
    | with_reducible apply giveCredit_keeps
    | with_reducible refine holdCells_keeps (by assumption) ?_
    | with_reducible apply noteNoRoom_keeps
    | with_reducible apply incReg_keeps
    | with_reducible apply outputPkt_keeps
    | with_reducible apply sequencePkt_keeps
    | with_reducible apply ite_keeps
    | with_reducible apply foldl_keeps
    | with_reducible apply foldl_pair_keeps
    | split
    | rw [keeps_mk_iff]
    | dsimp only

theorem arriveHere_keeps (inLink : Option Nat) (inVc : Nat) (p : Packet) (s : State) (h : Keeps q n s) :
    Keeps q n (arriveHere inLink inVc p s) := by
  unfold arriveHere
  repeat' first
    | with_reducible assumption
    | with_reducible intro _
    | with_reducible apply keeps_parts
    | with_reducible apply preparePath_keeps
    | with_reducible refine preparePath_keeps_eq (by assumption) ?_
    | with_reducible apply takeHere_keeps
    | with_reducible apply ite_keeps
    | with_reducible apply foldl_keeps
    | with_reducible apply foldl_pair_keeps
    | split
    | rw [keeps_mk_iff]
    | dsimp only

theorem portDone_keeps (p : Packet) (delivered : Bool) (acked : Bool) (s : State) (h : Keeps q n s) :
    Keeps q n (portDone p delivered acked s) := by
  unfold portDone
  repeat' first
    | with_reducible assumption
    | with_reducible intro _
    | with_reducible apply keeps_parts
    | with_reducible apply putCtx_keeps
    | with_reducible apply drainHeld_keeps
    | with_reducible refine drainHeld_keeps_eq (by assumption) ?_
    | with_reducible apply ite_keeps
    | with_reducible apply foldl_keeps
    | with_reducible apply foldl_pair_keeps
    | split
    | rw [keeps_mk_iff]
    | dsimp only

theorem damageHold_keeps (id : Nat) (s : State) (h : Keeps q n s) :
    Keeps q n (damageHold id s) := by
  unfold damageHold
  repeat' first
    | with_reducible assumption
    | with_reducible intro _
    | with_reducible apply keeps_parts
    | with_reducible apply delQueue_keeps
    | with_reducible apply putQueue_keeps
    | with_reducible apply dropDamagedAt_keeps
    | with_reducible apply dropHold_keeps
    | with_reducible apply portDone_keeps
    | with_reducible apply putCtx_keeps
    | with_reducible apply dropDamaged_keeps
    | with_reducible apply ite_keeps
    | with_reducible apply foldl_keeps
    | with_reducible apply foldl_pair_keeps
    | split
    | rw [keeps_mk_iff]
    | dsimp only

theorem touchTree_keeps (key : Nat) (d : Nat) (s : State) (h : Keeps q n s) :
    Keeps q n (touchTree key d s) := by
  unfold touchTree
  repeat' first
    | with_reducible assumption
    | with_reducible intro _
    | with_reducible apply keeps_parts
    | with_reducible apply incReg_keeps
    | with_reducible apply useFree_keeps
    | with_reducible apply ite_keeps
    | with_reducible apply foldl_keeps
    | with_reducible apply foldl_pair_keeps
    | split
    | rw [keeps_mk_iff]
    | dsimp only

theorem replicateOn_keeps (d : Nat) (outs : List Nat) (leaves : List Nat) (inLink : Option Nat) (inVc : Nat) (p : Packet) (s : State) (h : Keeps q n s) :
    Keeps q n (replicateOn d outs leaves inLink inVc p s) := by
  unfold replicateOn
  repeat' first
    | with_reducible assumption
    | with_reducible intro _
    | with_reducible apply keeps_parts
    | with_reducible refine holdCells_keeps (by assumption) ?_
    | with_reducible apply incReg_keeps
    | with_reducible apply enqueue_keeps
    | with_reducible apply sequencePkt_keeps
    | with_reducible apply ite_keeps
    | with_reducible apply foldl_keeps
    | with_reducible apply foldl_pair_keeps
    | split
    | rw [keeps_mk_iff]
    | dsimp only

theorem replicate_keeps (inLink : Option Nat) (inVc : Nat) (p : Packet) (s : State) (h : Keeps q n s) :
    Keeps q n (replicate inLink inVc p s) := by
  unfold replicate
  repeat' first
    | with_reducible assumption
    | with_reducible intro _
    | with_reducible apply keeps_parts
    | with_reducible apply giveCredit_keeps
    | with_reducible apply nak_keeps
    | with_reducible apply noteNoRoom_keeps
    | with_reducible apply touchTree_keeps
    | with_reducible apply replicateOn_keeps
    | with_reducible apply ite_keeps
    | with_reducible apply foldl_keeps
    | with_reducible apply foldl_pair_keeps
    | split
    | rw [keeps_mk_iff]
    | dsimp only

theorem inject_keeps (p : Packet) (s : State) (h : Keeps q n s) :
    Keeps q n (inject p s) := by
  unfold inject
  repeat' first
    | with_reducible assumption
    | with_reducible intro _
    | with_reducible apply keeps_parts
    | with_reducible apply preparePath_keeps
    | with_reducible refine preparePath_keeps_eq (by assumption) ?_
    | with_reducible apply replicate_keeps
    | with_reducible apply arriveHere_keeps
    | with_reducible apply launch_keeps
    | with_reducible apply ite_keeps
    | with_reducible apply foldl_keeps
    | with_reducible apply foldl_pair_keeps
    | split
    | rw [keeps_mk_iff]
    | dsimp only

theorem sendOne_keeps (o : OutStream) (x : Packet × List Nat × Purpose) (s : State) (h : Keeps q n s) :
    Keeps q n (sendOne o x s).2 := by
  unfold sendOne
  repeat' first
    | with_reducible assumption
    | with_reducible intro _
    | with_reducible apply keeps_parts
    | with_reducible apply countResend_keeps
    | with_reducible apply inject_keeps
    | with_reducible apply ite_keeps
    | with_reducible apply foldl_keeps
    | with_reducible apply foldl_pair_keeps
    | split
    | rw [keeps_mk_iff]
    | dsimp only

theorem sendOne_keeps_eq {o : OutStream} {x : Packet × List Nat × Purpose} {s : State} {v : OutStream} {t : State} (e : sendOne o x s = (v, t)) (h : Keeps q n s) : Keeps q n t := by
  have h := sendOne_keeps o x s h (q := q) (n := n)
  rw [e] at h; exact h

theorem flushStream_keeps (fuel : Nat) (o : OutStream) (s : State) (h : Keeps q n s) : Keeps q n (flushStream fuel o s).2 := by
  induction fuel generalizing o s with
  | zero => exact h
  | succ k ih =>
    unfold flushStream
    split
    · exact h
    · split
      · exact h
      · rename_i x r _ _
        exact ih _ _ (sendOne_keeps _ x s h)

theorem flushStream_keeps_eq {fuel : Nat} {o o' : OutStream} {s t : State} (e : flushStream fuel o s = (o', t))
    (h : Keeps q n s) : Keeps q n t := by
  have := flushStream_keeps fuel o s h; rw [e] at this; exact this

theorem flushOne_keeps (src : Nat) (dst : Nat) (stream : Nat) (s : State) (h : Keeps q n s) :
    Keeps q n (flushOne src dst stream s) := by
  unfold flushOne
  repeat' first
    | with_reducible assumption
    | with_reducible intro _
    | with_reducible apply keeps_parts
    | with_reducible apply flushStream_keeps
    | with_reducible refine flushStream_keeps_eq (by assumption) ?_
    | with_reducible apply modStream_keeps
    | with_reducible apply ite_keeps
    | with_reducible apply foldl_keeps
    | with_reducible apply foldl_pair_keeps
    | split
    | rw [keeps_mk_iff]
    | dsimp only

theorem flushPort_keeps (src : Nat) (s : State) (h : Keeps q n s) :
    Keeps q n (flushPort src s) := by
  unfold flushPort
  repeat' first
    | with_reducible assumption
    | with_reducible intro _
    | with_reducible apply keeps_parts
    | with_reducible apply flushOne_keeps
    | with_reducible apply ite_keeps
    | with_reducible apply foldl_keeps
    | with_reducible apply foldl_pair_keeps
    | split
    | rw [keeps_mk_iff]
    | dsimp only

theorem sendFrom_keeps (p : Packet) (awaiting : List Nat) (why : Purpose) (s : State) (h : Keeps q n s) :
    Keeps q n (sendFrom p awaiting why s) := by
  unfold sendFrom
  repeat' first
    | with_reducible assumption
    | with_reducible intro _
    | with_reducible apply keeps_parts
    | with_reducible apply flushPort_keeps
    | with_reducible apply ite_keeps
    | with_reducible apply foldl_keeps
    | with_reducible apply foldl_pair_keeps
    | split
    | rw [keeps_mk_iff]
    | dsimp only

theorem resendKept_keeps (src : Nat) (dst : Nat) (stream : Nat) (x : SentPkt) (s : State) (h : Keeps q n s) :
    Keeps q n (resendKept src dst stream x s) := by
  unfold resendKept
  repeat' first
    | with_reducible assumption
    | with_reducible intro _
    | with_reducible apply keeps_parts
    | with_reducible apply modStream_keeps
    | with_reducible apply inject_keeps
    | with_reducible apply countResend_keeps
    | with_reducible apply ite_keeps
    | with_reducible apply foldl_keeps
    | with_reducible apply foldl_pair_keeps
    | split
    | rw [keeps_mk_iff]
    | dsimp only

theorem resendMarked_keeps (s : State) (h : Keeps q n s) :
    Keeps q n (resendMarked s) := by
  unfold resendMarked
  repeat' first
    | with_reducible assumption
    | with_reducible intro _
    | with_reducible apply keeps_parts
    | with_reducible apply resendKept_keeps
    | with_reducible apply ite_keeps
    | with_reducible apply foldl_keeps
    | with_reducible apply foldl_pair_keeps
    | split
    | rw [keeps_mk_iff]
    | dsimp only

theorem reply_keeps (c : CmdRef) (status : Nat) (final : Bool) (body : List Byte) (s : State) (h : Keeps q n s) :
    Keeps q n (reply c status final body s) := by
  unfold reply
  repeat' first
    | with_reducible assumption
    | with_reducible intro _
    | with_reducible apply keeps_parts
    | with_reducible apply sendFrom_keeps
    | with_reducible apply emit_keeps
    | with_reducible apply ite_keeps
    | with_reducible apply foldl_keeps
    | with_reducible apply foldl_pair_keeps
    | split
    | rw [keeps_mk_iff]
    | dsimp only

theorem finish_keeps (c : CmdRef) (status : Nat) (body : List Byte) (s : State) (h : Keeps q n s) :
    Keeps q n (finish c status body s) := by
  unfold finish
  repeat' first
    | with_reducible assumption
    | with_reducible intro _
    | with_reducible apply keeps_parts
    | with_reducible apply reply_keeps
    | with_reducible apply ite_keeps
    | with_reducible apply foldl_keeps
    | with_reducible apply foldl_pair_keeps
    | split
    | rw [keeps_mk_iff]
    | dsimp only

theorem finishOpt_keeps (c : Option CmdRef) (status : Nat) (body : List Byte) (s : State) (h : Keeps q n s) :
    Keeps q n (finishOpt c status body s) := by
  unfold finishOpt
  repeat' first
    | with_reducible assumption
    | with_reducible intro _
    | with_reducible apply keeps_parts
    | with_reducible apply finish_keeps
    | with_reducible apply ite_keeps
    | with_reducible apply foldl_keeps
    | with_reducible apply foldl_pair_keeps
    | split
    | rw [keeps_mk_iff]
    | dsimp only

end Sys2Proof.Machine
end

