-- ==== Sys2Proof/Laws/KeepCommand.lean ====
section
/-! SUPPORT. What the operations of Machine/Command.lean keep: the queue, the clock and the canonical form of HBM and the registers. -/
namespace Sys2Proof.Machine

variable {q : List Instr} {n : Nat}

theorem answer_keeps (c : CmdRef) (status : Nat) (body : List Byte) (s : State) (h : Keeps q n s) :
    Keeps q n (answer c status body s) := by
  unfold answer
  repeat' first
    | with_reducible assumption
    | with_reducible intro _
    | with_reducible apply keeps_parts
    | with_reducible apply reply_keeps
    | with_reducible apply incReg_keeps
    | with_reducible apply ite_keeps
    | with_reducible apply foldl_keeps
    | with_reducible apply foldl_pair_keeps
    | split
    | rw [keeps_mk_iff]
    | dsimp only

theorem refuse_keeps (c : CmdRef) (status : Nat) (s : State) (h : Keeps q n s) :
    Keeps q n (refuse c status s) := by
  unfold refuse
  repeat' first
    | with_reducible assumption
    | with_reducible intro _
    | with_reducible apply keeps_parts
    | with_reducible apply answer_keeps
    | with_reducible apply ite_keeps
    | with_reducible apply foldl_keeps
    | with_reducible apply foldl_pair_keeps
    | split
    | rw [keeps_mk_iff]
    | dsimp only

theorem done_keeps (c : CmdRef) (s : State) (h : Keeps q n s) :
    Keeps q n (done c s) := by
  unfold done
  repeat' first
    | with_reducible assumption
    | with_reducible intro _
    | with_reducible apply keeps_parts
    | with_reducible apply answer_keeps
    | with_reducible apply ite_keeps
    | with_reducible apply foldl_keeps
    | with_reducible apply foldl_pair_keeps
    | split
    | rw [keeps_mk_iff]
    | dsimp only

theorem command_keeps (m : CmdMeta) (op : Nat) (x2 : CmdRef → State → State) (s : State) (hx2 : ∀ a0 a1, Keeps q n a1 → Keeps q n (x2 a0 a1)) (h : Keeps q n s) :
    Answers q n (command m op x2 s) := by
  unfold command
  repeat' first
    | with_reducible assumption
    | with_reducible intro _
    | with_reducible apply keeps_parts
    | with_reducible apply hx2
    | with_reducible apply refuse_keeps
    | with_reducible apply answers_next
    | with_reducible apply answers_fault
    | with_reducible apply answers_refused
    | with_reducible apply ite_answers
    | with_reducible apply ite_keeps
    | with_reducible apply foldl_keeps
    | with_reducible apply foldl_pair_keeps
    | split
    | rw [keeps_mk_iff]
    | dsimp only

theorem accept_keeps (c : CmdRef) (x1 : State → State) (s : State) (hx1 : ∀ a0, Keeps q n a0 → Keeps q n (x1 a0)) (h : Keeps q n s) :
    Keeps q n (accept c x1 s) := by
  unfold accept
  repeat' first
    | with_reducible assumption
    | with_reducible intro _
    | with_reducible apply keeps_parts
    | with_reducible apply hx1
    | with_reducible apply refuse_keeps
    | with_reducible apply reply_keeps
    | with_reducible apply ite_keeps
    | with_reducible apply foldl_keeps
    | with_reducible apply foldl_pair_keeps
    | split
    | rw [keeps_mk_iff]
    | dsimp only

theorem requires_keeps (ok : Bool) (c : CmdRef) (status : Nat) (x3 : State → State) (s : State) (hx3 : ∀ a0, Keeps q n a0 → Keeps q n (x3 a0)) (h : Keeps q n s) :
    Keeps q n (requires ok c status x3 s) := by
  unfold requires
  repeat' first
    | with_reducible assumption
    | with_reducible intro _
    | with_reducible apply keeps_parts
    | with_reducible apply hx3
    | with_reducible apply refuse_keeps
    | with_reducible apply ite_keeps
    | with_reducible apply foldl_keeps
    | with_reducible apply foldl_pair_keeps
    | split
    | rw [keeps_mk_iff]
    | dsimp only

theorem decided_keeps (s : State) (o : Out) (h : Keeps q n s) (ho : Answers q n o) : Answers q n (decided s o) := by
  unfold decided
  split
  · exact answers_next h
  · exact ho

theorem wakeBay_keeps (b : Nat) (s : State) (h : Keeps q n s) :
    Keeps q n (wakeBay b s) := by
  unfold wakeBay
  repeat' first
    | with_reducible assumption
    | with_reducible intro _
    | with_reducible apply keeps_parts
    | with_reducible apply ite_keeps
    | with_reducible apply foldl_keeps
    | with_reducible apply foldl_pair_keeps
    | split
    | rw [keeps_mk_iff]
    | dsimp only

end Sys2Proof.Machine
end

