-- ==== Sys2Proof/Laws/KeepMem.lean ====
section
/-! SUPPORT. What the operations of Machine/Mem.lean keep: the queue, the clock and the canonical form of HBM and the registers. -/
namespace Sys2Proof.Machine

variable {q : List Instr} {n : Nat}

theorem putEntry_keeps (p : Nat) (x1 : PageEnt) (s : State) (h : Keeps q n s) :
    Keeps q n (putEntry p x1 s) := by
  unfold putEntry
  repeat' first
    | with_reducible assumption
    | with_reducible intro _
    | with_reducible apply keeps_parts
    | with_reducible apply emit_keeps
    | with_reducible apply ite_keeps
    | with_reducible apply foldl_keeps
    | with_reducible apply foldl_pair_keeps
    | split
    | rw [keeps_mk_iff]
    | dsimp only

theorem cachePut_keeps (p : Nat) (x1 : PageEnt) (s : State) (h : Keeps q n s) :
    Keeps q n (cachePut p x1 s) := by
  unfold cachePut
  repeat' first
    | with_reducible assumption
    | with_reducible intro _
    | with_reducible apply keeps_parts
    | with_reducible apply ite_keeps
    | with_reducible apply foldl_keeps
    | with_reducible apply foldl_pair_keeps
    | split
    | rw [keeps_mk_iff]
    | dsimp only

theorem cacheUpdate_keeps (p : Nat) (x1 : PageEnt) (s : State) (h : Keeps q n s) :
    Keeps q n (cacheUpdate p x1 s) := by
  unfold cacheUpdate
  repeat' first
    | with_reducible assumption
    | with_reducible intro _
    | with_reducible apply keeps_parts
    | with_reducible apply cachePut_keeps
    | with_reducible apply ite_keeps
    | with_reducible apply foldl_keeps
    | with_reducible apply foldl_pair_keeps
    | split
    | rw [keeps_mk_iff]
    | dsimp only

theorem putFrame_keeps (f : Nat) (r : FrameRec) (s : State) (h : Keeps q n s) :
    Keeps q n (putFrame f r s) := by
  unfold putFrame
  repeat' first
    | with_reducible assumption
    | with_reducible intro _
    | with_reducible apply keeps_parts
    | with_reducible apply ite_keeps
    | with_reducible apply foldl_keeps
    | with_reducible apply foldl_pair_keeps
    | split
    | rw [keeps_mk_iff]
    | dsimp only

theorem replaceSoft_keeps (old : Nat) (new : Nat) (s : State) (h : Keeps q n s) :
    Keeps q n (replaceSoft old new s) := by
  unfold replaceSoft
  repeat' first
    | with_reducible assumption
    | with_reducible intro _
    | with_reducible apply keeps_parts
    | with_reducible apply ite_keeps
    | with_reducible apply foldl_keeps
    | with_reducible apply foldl_pair_keeps
    | split
    | rw [keeps_mk_iff]
    | dsimp only

theorem applyRetired_keeps (l : List Nat) (s : State) (h : Keeps q n s) :
    Keeps q n (applyRetired l s) := by
  unfold applyRetired
  repeat' first
    | with_reducible assumption
    | with_reducible intro _
    | with_reducible apply keeps_parts
    | with_reducible apply putFrame_keeps
    | with_reducible apply replaceSoft_keeps
    | with_reducible apply ite_keeps
    | with_reducible apply foldl_keeps
    | with_reducible apply foldl_pair_keeps
    | split
    | rw [keeps_mk_iff]
    | dsimp only

theorem releaseFrame_keeps (f : Nat) (s : State) (h : Keeps q n s) :
    Keeps q n (releaseFrame f s) := by
  unfold releaseFrame
  repeat' first
    | with_reducible assumption
    | with_reducible intro _
    | with_reducible apply keeps_parts
    | with_reducible apply putFrame_keeps
    | with_reducible apply ite_keeps
    | with_reducible apply foldl_keeps
    | with_reducible apply foldl_pair_keeps
    | split
    | rw [keeps_mk_iff]
    | dsimp only

theorem settleInvals_keeps (s : State) (h : Keeps q n s) :
    Keeps q n (settleInvals s) := by
  unfold settleInvals
  repeat' first
    | with_reducible assumption
    | with_reducible intro _
    | with_reducible apply keeps_parts
    | with_reducible apply putFrame_keeps
    | with_reducible apply finishOpt_keeps
    | with_reducible apply ite_keeps
    | with_reducible apply foldl_keeps
    | with_reducible apply foldl_pair_keeps
    | split
    | rw [keeps_mk_iff]
    | dsimp only

theorem invalidate_keeps (p : Nat) (x1 : PageEnt) (stub : Option (Nat × Nat)) (c : Option CmdRef) (s : State) (h : Keeps q n s) :
    Keeps q n (invalidate p x1 stub c s) := by
  unfold invalidate
  repeat' first
    | with_reducible assumption
    | with_reducible intro _
    | with_reducible apply keeps_parts
    | with_reducible apply cacheUpdate_keeps
    | with_reducible apply emitCtl_keeps
    | with_reducible apply settleInvals_keeps
    | with_reducible apply ite_keeps
    | with_reducible apply foldl_keeps
    | with_reducible apply foldl_pair_keeps
    | split
    | rw [keeps_mk_iff]
    | dsimp only

theorem releaseWalks_keeps (p : Nat) (s : State) (h : Keeps q n s) :
    Keeps q n (releaseWalks p s) := by
  unfold releaseWalks
  repeat' first
    | with_reducible assumption
    | with_reducible intro _
    | with_reducible apply keeps_parts
    | with_reducible apply emit_keeps
    | with_reducible apply ite_keeps
    | with_reducible apply foldl_keeps
    | with_reducible apply foldl_pair_keeps
    | split
    | rw [keeps_mk_iff]
    | dsimp only

theorem syncMap_keeps (remap : Bool) (p : Nat) (x2 : PageEnt) (s : State) (h : Keeps q n s) :
    Keeps q n (syncMap remap p x2 s) := by
  unfold syncMap
  repeat' first
    | with_reducible assumption
    | with_reducible intro _
    | with_reducible apply keeps_parts
    | with_reducible apply ite_keeps
    | with_reducible apply foldl_keeps
    | with_reducible apply foldl_pair_keeps
    | split
    | rw [keeps_mk_iff]
    | dsimp only

theorem hotOf_keeps (p : Nat) (x1 : PageEnt) (s : State) (h : Keeps q n s) :
    Keeps q n (hotOf p x1 s).2 := by
  unfold hotOf
  repeat' first
    | with_reducible assumption
    | with_reducible intro _
    | with_reducible apply keeps_parts
    | with_reducible apply useFree_keeps
    | with_reducible apply ite_keeps
    | with_reducible apply foldl_keeps
    | with_reducible apply foldl_pair_keeps
    | split
    | rw [keeps_mk_iff]
    | dsimp only

theorem hotOf_keeps_eq {p : Nat} {x1 : PageEnt} {s : State} {v : (Nat × Nat)} {t : State} (e : hotOf p x1 s = (v, t)) (h : Keeps q n s) : Keeps q n t := by
  have h := hotOf_keeps p x1 s h (q := q) (n := n)
  rw [e] at h; exact h

theorem paceRemap_keeps (p : Nat) (s : State) (h : Keeps q n s) :
    Keeps q n (paceRemap p s) := by
  unfold paceRemap
  repeat' first
    | with_reducible assumption
    | with_reducible intro _
    | with_reducible apply keeps_parts
    | with_reducible apply advanceTo_keeps
    | with_reducible apply ite_keeps
    | with_reducible apply foldl_keeps
    | with_reducible apply foldl_pair_keeps
    | split
    | rw [keeps_mk_iff]
    | dsimp only

theorem bookRemap_keeps (p : Nat) (f : PageEnt → PageEnt) (s : State) (h : Keeps q n s) :
    Keeps q n (bookRemap p f s).2 := by
  unfold bookRemap
  repeat' first
    | with_reducible assumption
    | with_reducible intro _
    | with_reducible apply keeps_parts
    | with_reducible apply paceRemap_keeps
    | with_reducible apply hotOf_keeps
    | with_reducible refine hotOf_keeps_eq (by assumption) ?_
    | with_reducible apply syncMap_keeps
    | with_reducible apply putEntry_keeps
    | with_reducible apply ite_keeps
    | with_reducible apply foldl_keeps
    | with_reducible apply foldl_pair_keeps
    | split
    | rw [keeps_mk_iff]
    | dsimp only

theorem bookRemap_keeps_eq {p : Nat} {f : PageEnt → PageEnt} {s : State} {v : PageEnt} {t : State} (e : bookRemap p f s = (v, t)) (h : Keeps q n s) : Keeps q n t := by
  have h := bookRemap_keeps p f s h (q := q) (n := n)
  rw [e] at h; exact h

theorem remapWith_keeps (p : Nat) (f : PageEnt → PageEnt) (stub : Option (Nat × Nat)) (c : Option CmdRef) (s : State) (h : Keeps q n s) :
    Keeps q n (remapWith p f stub c s) := by
  unfold remapWith
  repeat' first
    | with_reducible assumption
    | with_reducible intro _
    | with_reducible apply keeps_parts
    | with_reducible apply bookRemap_keeps
    | with_reducible refine bookRemap_keeps_eq (by assumption) ?_
    | with_reducible apply invalidate_keeps
    | with_reducible apply ite_keeps
    | with_reducible apply foldl_keeps
    | with_reducible apply foldl_pair_keeps
    | split
    | rw [keeps_mk_iff]
    | dsimp only

theorem remap_keeps (p : Nat) (f : PageEnt → PageEnt) (s : State) (h : Keeps q n s) :
    Keeps q n (remap p f s) := by
  unfold remap
  repeat' first
    | with_reducible assumption
    | with_reducible intro _
    | with_reducible apply keeps_parts
    | with_reducible apply remapWith_keeps
    | with_reducible apply ite_keeps
    | with_reducible apply foldl_keeps
    | with_reducible apply foldl_pair_keeps
    | split
    | rw [keeps_mk_iff]
    | dsimp only

theorem amendEntry_keeps (p : Nat) (f : PageEnt → PageEnt) (s : State) (h : Keeps q n s) :
    Keeps q n (amendEntry p f s) := by
  unfold amendEntry
  repeat' first
    | with_reducible assumption
    | with_reducible intro _
    | with_reducible apply keeps_parts
    | with_reducible apply syncMap_keeps
    | with_reducible apply putEntry_keeps
    | with_reducible apply emitCtl_keeps
    | with_reducible apply ite_keeps
    | with_reducible apply foldl_keeps
    | with_reducible apply foldl_pair_keeps
    | split
    | rw [keeps_mk_iff]
    | dsimp only

theorem tellBook_keeps (p : Nat) (x1 : PageNote) (x2 : PageEnt) (s : State) (h : Keeps q n s) :
    Keeps q n (tellBook p x1 x2 s) := by
  unfold tellBook
  repeat' first
    | with_reducible assumption
    | with_reducible intro _
    | with_reducible apply keeps_parts
    | with_reducible apply emit_keeps
    | with_reducible apply ite_keeps
    | with_reducible apply foldl_keeps
    | with_reducible apply foldl_pair_keeps
    | split
    | rw [keeps_mk_iff]
    | dsimp only

theorem dropFrames_keeps (p : Nat) (s : State) (h : Keeps q n s) :
    Keeps q n (dropFrames p s) := by
  unfold dropFrames
  repeat' first
    | with_reducible assumption
    | with_reducible intro _
    | with_reducible apply keeps_parts
    | with_reducible apply releaseFrame_keeps
    | with_reducible apply ite_keeps
    | with_reducible apply foldl_keeps
    | with_reducible apply foldl_pair_keeps
    | split
    | rw [keeps_mk_iff]
    | dsimp only

theorem segFrameLost_keeps (f : Nat) (s : State) (h : Keeps q n s) :
    Keeps q n (segFrameLost f s) := by
  unfold segFrameLost
  repeat' first
    | with_reducible assumption
    | with_reducible intro _
    | with_reducible apply keeps_parts
    | with_reducible apply ite_keeps
    | with_reducible apply foldl_keeps
    | with_reducible apply foldl_pair_keeps
    | split
    | rw [keeps_mk_iff]
    | dsimp only

theorem segFrameMoved_keeps (f : Nat) (f' : Nat) (s : State) (h : Keeps q n s) :
    Keeps q n (segFrameMoved f f' s) := by
  unfold segFrameMoved
  repeat' first
    | with_reducible assumption
    | with_reducible intro _
    | with_reducible apply keeps_parts
    | with_reducible apply ite_keeps
    | with_reducible apply foldl_keeps
    | with_reducible apply foldl_pair_keeps
    | split
    | rw [keeps_mk_iff]
    | dsimp only

theorem endMoves_keeps (test : Move → Bool) (s : State) (h : Keeps q n s) :
    Keeps q n (endMoves test s) := by
  unfold endMoves
  repeat' first
    | with_reducible assumption
    | with_reducible intro _
    | with_reducible apply keeps_parts
    | with_reducible apply finishOpt_keeps
    | with_reducible apply releaseFrame_keeps
    | with_reducible apply ite_keeps
    | with_reducible apply foldl_keeps
    | with_reducible apply foldl_pair_keeps
    | split
    | rw [keeps_mk_iff]
    | dsimp only

theorem engineWrite1_keeps (gfa : Nat) (b : List Byte) (s : State) (h : Keeps q n s) :
    Keeps q n (engineWrite1 gfa b s) := by
  unfold engineWrite1
  repeat' first
    | with_reducible assumption
    | with_reducible intro _
    | with_reducible apply keeps_parts
    | with_reducible apply hbmWrite_keeps
    | with_reducible apply emit_keeps
    | with_reducible apply ite_keeps
    | with_reducible apply foldl_keeps
    | with_reducible apply foldl_pair_keeps
    | split
    | rw [keeps_mk_iff]
    | dsimp only

theorem spanWrite_keeps (gfa : Nat) (b : List Byte) (s : State) (h : Keeps q n s) :
    Keeps q n (spanWrite gfa b s) := by
  unfold spanWrite
  repeat' first
    | with_reducible assumption
    | with_reducible intro _
    | with_reducible apply keeps_parts
    | with_reducible apply engineWrite1_keeps
    | with_reducible apply ite_keeps
    | with_reducible apply foldl_keeps
    | with_reducible apply foldl_pair_keeps
    | split
    | rw [keeps_mk_iff]
    | dsimp only

theorem takeFrame_keeps (d : Nat) (r : FrameRec) (s : State) (h : Keeps q n s) :
    Keeps q n (takeFrame d r s).2 := by
  unfold takeFrame
  repeat' first
    | with_reducible assumption
    | with_reducible intro _
    | with_reducible apply keeps_parts
    | with_reducible apply putFrame_keeps
    | with_reducible apply useFree_keeps
    | with_reducible apply ite_keeps
    | with_reducible apply foldl_keeps
    | with_reducible apply foldl_pair_keeps
    | split
    | rw [keeps_mk_iff]
    | dsimp only

theorem takeFrame_keeps_eq {d : Nat} {r : FrameRec} {s : State} {v : Nat} {t : State} (e : takeFrame d r s = (v, t)) (h : Keeps q n s) : Keeps q n t := by
  have h := takeFrame_keeps d r s h (q := q) (n := n)
  rw [e] at h; exact h

theorem allocPage_keeps (j : AllocJob) (base : Nat) (i : Nat) (s : State) (h : Keeps q n s) :
    Keeps q n (allocPage j base i s) := by
  unfold allocPage
  repeat' first
    | with_reducible assumption
    | with_reducible intro _
    | with_reducible apply keeps_parts
    | with_reducible apply takeFrame_keeps
    | with_reducible refine takeFrame_keeps_eq (by assumption) ?_
    | with_reducible apply remap_keeps
    | with_reducible apply ite_keeps
    | with_reducible apply foldl_keeps
    | with_reducible apply foldl_pair_keeps
    | split
    | rw [keeps_mk_iff]
    | dsimp only

theorem performAlloc_keeps (j : AllocJob) (s : State) (h : Keeps q n s) :
    Keeps q n (performAlloc j s) := by
  unfold performAlloc
  repeat' first
    | with_reducible assumption
    | with_reducible intro _
    | with_reducible apply keeps_parts
    | with_reducible apply finish_keeps
    | with_reducible apply allocPage_keeps
    | with_reducible apply ite_keeps
    | with_reducible apply foldl_keeps
    | with_reducible apply foldl_pair_keeps
    | split
    | rw [keeps_mk_iff]
    | dsimp only

theorem retryAllocs_keeps (s : State) (h : Keeps q n s) :
    Keeps q n (retryAllocs s) := by
  unfold retryAllocs
  repeat' first
    | with_reducible assumption
    | with_reducible intro _
    | with_reducible apply keeps_parts
    | with_reducible apply performAlloc_keeps
    | with_reducible apply ite_keeps
    | with_reducible apply foldl_keeps
    | with_reducible apply foldl_pair_keeps
    | split
    | rw [keeps_mk_iff]
    | dsimp only

theorem chooseMirror_keeps (p : Nat) (avoid : Nat) (s : State) (h : Keeps q n s) :
    Keeps q n (chooseMirror p avoid s) := by
  unfold chooseMirror
  repeat' first
    | with_reducible assumption
    | with_reducible intro _
    | with_reducible apply keeps_parts
    | with_reducible apply useFree_keeps
    | with_reducible apply takeFrame_keeps
    | with_reducible refine takeFrame_keeps_eq (by assumption) ?_
    | with_reducible apply remap_keeps
    | with_reducible apply ite_keeps
    | with_reducible apply foldl_keeps
    | with_reducible apply foldl_pair_keeps
    | split
    | rw [keeps_mk_iff]
    | dsimp only

theorem sampleAccess_keeps (entryDev : Nat) (f : Nat) (s : State) (h : Keeps q n s) :
    Keeps q n (sampleAccess entryDev f s) := by
  unfold sampleAccess
  repeat' first
    | with_reducible assumption
    | with_reducible intro _
    | with_reducible apply keeps_parts
    | with_reducible apply putFrame_keeps
    | with_reducible apply ite_keeps
    | with_reducible apply foldl_keeps
    | with_reducible apply foldl_pair_keeps
    | split
    | rw [keeps_mk_iff]
    | dsimp only

end Sys2Proof.Machine
end

