-- ==== Sys2Proof/Laws/KeepMemory.lean ====
section
/-! SUPPORT. What the operations of Machine/Memory.lean keep: the queue, the clock and the canonical form of HBM and the registers. -/
namespace Sys2Proof.Machine

variable {q : List Instr} {n : Nat}

theorem beginAlloc_keeps (j : AllocJob) (s : State) (h : Keeps q n s) :
    Keeps q n (beginAlloc j s) := by
  unfold beginAlloc
  repeat' first
    | with_reducible assumption
    | with_reducible intro _
    | with_reducible apply keeps_parts
    | with_reducible apply performAlloc_keeps
    | with_reducible apply ite_keeps
    | with_reducible apply foldl_keeps
    | with_reducible apply foldl_pair_keeps
    | split
    | rw [keeps_mk_iff]
    | dsimp only

theorem execAllocPages_keeps (m : CmdMeta) (heat : Nat) (cls : Nat) (count : Nat) (rw : Nat) (migEn : Nat) (homeSet : Nat) (first : Nat) (stripe : Nat) (mirrorStep : Nat) (s : State) (h : Keeps q n s) :
    Answers q n (execAllocPages m heat cls count rw migEn homeSet first stripe mirrorStep s) := by
  unfold execAllocPages
  repeat' first
    | with_reducible assumption
    | with_reducible intro _
    | with_reducible apply keeps_parts
    | with_reducible apply command_keeps
    | with_reducible apply refuse_keeps
    | with_reducible apply useFree_keeps
    | with_reducible apply accept_keeps
    | with_reducible apply beginAlloc_keeps
    | with_reducible apply answers_next
    | with_reducible apply answers_fault
    | with_reducible apply answers_refused
    | with_reducible apply ite_answers
    | with_reducible apply ite_keeps
    | with_reducible apply foldl_keeps
    | with_reducible apply foldl_pair_keeps
    | split
    | rw [keeps_mk_iff]
    | dsimp only

theorem freePage_keeps (p : Nat) (s : State) (h : Keeps q n s) :
    Keeps q n (freePage p s) := by
  unfold freePage
  repeat' first
    | with_reducible assumption
    | with_reducible intro _
    | with_reducible apply keeps_parts
    | with_reducible apply remap_keeps
    | with_reducible apply dropFrames_keeps
    | with_reducible apply endMoves_keeps
    | with_reducible apply ite_keeps
    | with_reducible apply foldl_keeps
    | with_reducible apply foldl_pair_keeps
    | split
    | rw [keeps_mk_iff]
    | dsimp only

theorem performFree_keeps (j : FreeJob) (s : State) (h : Keeps q n s) :
    Keeps q n (performFree j s) := by
  unfold performFree
  repeat' first
    | with_reducible assumption
    | with_reducible intro _
    | with_reducible apply keeps_parts
    | with_reducible apply finish_keeps
    | with_reducible apply freePage_keeps
    | with_reducible apply ite_keeps
    | with_reducible apply foldl_keeps
    | with_reducible apply foldl_pair_keeps
    | split
    | rw [keeps_mk_iff]
    | dsimp only

theorem startFree_keeps (pages : List Nat) (heat : Nat) (whole : Bool) (c : CmdRef) (s : State) (h : Keeps q n s) :
    Keeps q n (startFree pages heat whole c s) := by
  unfold startFree
  repeat' first
    | with_reducible assumption
    | with_reducible intro _
    | with_reducible apply keeps_parts
    | with_reducible apply performFree_keeps
    | with_reducible apply emitCtl_keeps
    | with_reducible apply ite_keeps
    | with_reducible apply foldl_keeps
    | with_reducible apply foldl_pair_keeps
    | split
    | rw [keeps_mk_iff]
    | dsimp only

theorem execFreePages_keeps (m : CmdMeta) (gfa : Nat) (count : Nat) (heat : Nat) (s : State) (h : Keeps q n s) :
    Answers q n (execFreePages m gfa count heat s) := by
  unfold execFreePages
  repeat' first
    | with_reducible assumption
    | with_reducible intro _
    | with_reducible apply keeps_parts
    | with_reducible apply command_keeps
    | with_reducible apply refuse_keeps
    | with_reducible apply accept_keeps
    | with_reducible apply startFree_keeps
    | with_reducible apply answers_next
    | with_reducible apply answers_fault
    | with_reducible apply answers_refused
    | with_reducible apply ite_answers
    | with_reducible apply ite_keeps
    | with_reducible apply foldl_keeps
    | with_reducible apply foldl_pair_keeps
    | split
    | rw [keeps_mk_iff]
    | dsimp only

theorem execMemHeatFree_keeps (m : CmdMeta) (heat : Nat) (s : State) (h : Keeps q n s) :
    Answers q n (execMemHeatFree m heat s) := by
  unfold execMemHeatFree
  repeat' first
    | with_reducible assumption
    | with_reducible intro _
    | with_reducible apply keeps_parts
    | with_reducible apply command_keeps
    | with_reducible apply refuse_keeps
    | with_reducible apply accept_keeps
    | with_reducible apply startFree_keeps
    | with_reducible apply answers_next
    | with_reducible apply answers_fault
    | with_reducible apply answers_refused
    | with_reducible apply ite_answers
    | with_reducible apply ite_keeps
    | with_reducible apply foldl_keeps
    | with_reducible apply foldl_pair_keeps
    | split
    | rw [keeps_mk_iff]
    | dsimp only

theorem execMemPageQuery_keeps (m : CmdMeta) (gfa : Nat) (s : State) (h : Keeps q n s) :
    Answers q n (execMemPageQuery m gfa s) := by
  unfold execMemPageQuery
  repeat' first
    | with_reducible assumption
    | with_reducible intro _
    | with_reducible apply keeps_parts
    | with_reducible apply command_keeps
    | with_reducible apply refuse_keeps
    | with_reducible apply answer_keeps
    | with_reducible apply answers_next
    | with_reducible apply answers_fault
    | with_reducible apply answers_refused
    | with_reducible apply ite_answers
    | with_reducible apply ite_keeps
    | with_reducible apply foldl_keeps
    | with_reducible apply foldl_pair_keeps
    | split
    | rw [keeps_mk_iff]
    | dsimp only

theorem setPage_keeps (p : Nat) (rw : Bool) (mig : Bool) (heat : Nat) (s : State) (h : Keeps q n s) :
    Keeps q n (setPage p rw mig heat s) := by
  unfold setPage
  repeat' first
    | with_reducible assumption
    | with_reducible intro _
    | with_reducible apply keeps_parts
    | with_reducible apply amendEntry_keeps
    | with_reducible apply ite_keeps
    | with_reducible apply foldl_keeps
    | with_reducible apply foldl_pair_keeps
    | split
    | rw [keeps_mk_iff]
    | dsimp only

theorem execMemPageSet_keeps (m : CmdMeta) (gfa : Nat) (count : Nat) (rw : Nat) (migEn : Nat) (oldHeat : Nat) (newHeat : Nat) (s : State) (h : Keeps q n s) :
    Answers q n (execMemPageSet m gfa count rw migEn oldHeat newHeat s) := by
  unfold execMemPageSet
  repeat' first
    | with_reducible assumption
    | with_reducible intro _
    | with_reducible apply keeps_parts
    | with_reducible apply command_keeps
    | with_reducible apply refuse_keeps
    | with_reducible apply done_keeps
    | with_reducible apply setPage_keeps
    | with_reducible apply answers_next
    | with_reducible apply answers_fault
    | with_reducible apply answers_refused
    | with_reducible apply ite_answers
    | with_reducible apply ite_keeps
    | with_reducible apply foldl_keeps
    | with_reducible apply foldl_pair_keeps
    | split
    | rw [keeps_mk_iff]
    | dsimp only

theorem restorePage_keeps (p : Nat) (home : Nat) (mirror : Nat) (c : CmdRef) (s : State) (h : Keeps q n s) :
    Keeps q n (restorePage p home mirror c s) := by
  unfold restorePage
  repeat' first
    | with_reducible assumption
    | with_reducible intro _
    | with_reducible apply keeps_parts
    | with_reducible apply takeFrame_keeps
    | with_reducible refine takeFrame_keeps_eq (by assumption) ?_
    | with_reducible apply remap_keeps
    | with_reducible apply answer_keeps
    | with_reducible apply ite_keeps
    | with_reducible apply foldl_keeps
    | with_reducible apply foldl_pair_keeps
    | split
    | rw [keeps_mk_iff]
    | dsimp only

theorem execMemPageClearLost_keeps (m : CmdMeta) (gfa : Nat) (heat : Nat) (s : State) (h : Keeps q n s) :
    Answers q n (execMemPageClearLost m gfa heat s) := by
  unfold execMemPageClearLost
  repeat' first
    | with_reducible assumption
    | with_reducible intro _
    | with_reducible apply keeps_parts
    | with_reducible apply command_keeps
    | with_reducible apply refuse_keeps
    | with_reducible apply useFree_keeps
    | with_reducible apply restorePage_keeps
    | with_reducible apply answers_next
    | with_reducible apply answers_fault
    | with_reducible apply answers_refused
    | with_reducible apply ite_answers
    | with_reducible apply ite_keeps
    | with_reducible apply foldl_keeps
    | with_reducible apply foldl_pair_keeps
    | split
    | rw [keeps_mk_iff]
    | dsimp only

theorem startMove_keeps (p : Nat) (x1 : MoveKind) (target : Nat) (new : Nat) (c : Option CmdRef) (s : State) (h : Keeps q n s) :
    Keeps q n (startMove p x1 target new c s) := by
  unfold startMove
  repeat' first
    | with_reducible assumption
    | with_reducible intro _
    | with_reducible apply keeps_parts
    | with_reducible apply remap_keeps
    | with_reducible apply tellBook_keeps
    | with_reducible apply emit_keeps
    | with_reducible apply ite_keeps
    | with_reducible apply foldl_keeps
    | with_reducible apply foldl_pair_keeps
    | split
    | rw [keeps_mk_iff]
    | dsimp only

theorem beginMigrate_keeps (p : Nat) (target : Nat) (c : CmdRef) (s : State) (h : Keeps q n s) :
    Keeps q n (beginMigrate p target c s) := by
  unfold beginMigrate
  repeat' first
    | with_reducible assumption
    | with_reducible intro _
    | with_reducible apply keeps_parts
    | with_reducible apply takeFrame_keeps
    | with_reducible refine takeFrame_keeps_eq (by assumption) ?_
    | with_reducible apply startMove_keeps
    | with_reducible apply ite_keeps
    | with_reducible apply foldl_keeps
    | with_reducible apply foldl_pair_keeps
    | split
    | rw [keeps_mk_iff]
    | dsimp only

theorem beginMirror_keeps (p : Nat) (mirror : Nat) (c : CmdRef) (s : State) (h : Keeps q n s) :
    Keeps q n (beginMirror p mirror c s) := by
  unfold beginMirror
  repeat' first
    | with_reducible assumption
    | with_reducible intro _
    | with_reducible apply keeps_parts
    | with_reducible apply releaseFrame_keeps
    | with_reducible apply takeFrame_keeps
    | with_reducible refine takeFrame_keeps_eq (by assumption) ?_
    | with_reducible apply remap_keeps
    | with_reducible apply startMove_keeps
    | with_reducible apply ite_keeps
    | with_reducible apply foldl_keeps
    | with_reducible apply foldl_pair_keeps
    | split
    | rw [keeps_mk_iff]
    | dsimp only

theorem execMemMigrate_keeps (m : CmdMeta) (gfa : Nat) (target : Nat) (s : State) (h : Keeps q n s) :
    Answers q n (execMemMigrate m gfa target s) := by
  unfold execMemMigrate
  repeat' first
    | with_reducible assumption
    | with_reducible intro _
    | with_reducible apply keeps_parts
    | with_reducible apply command_keeps
    | with_reducible apply refuse_keeps
    | with_reducible apply useFree_keeps
    | with_reducible apply accept_keeps
    | with_reducible apply beginMigrate_keeps
    | with_reducible apply answers_next
    | with_reducible apply answers_fault
    | with_reducible apply answers_refused
    | with_reducible apply ite_answers
    | with_reducible apply ite_keeps
    | with_reducible apply foldl_keeps
    | with_reducible apply foldl_pair_keeps
    | split
    | rw [keeps_mk_iff]
    | dsimp only

theorem execMemMirrorSet_keeps (m : CmdMeta) (gfa : Nat) (mirror : Nat) (s : State) (h : Keeps q n s) :
    Answers q n (execMemMirrorSet m gfa mirror s) := by
  unfold execMemMirrorSet
  repeat' first
    | with_reducible assumption
    | with_reducible intro _
    | with_reducible apply keeps_parts
    | with_reducible apply command_keeps
    | with_reducible apply refuse_keeps
    | with_reducible apply useFree_keeps
    | with_reducible apply accept_keeps
    | with_reducible apply beginMirror_keeps
    | with_reducible apply answers_next
    | with_reducible apply answers_fault
    | with_reducible apply answers_refused
    | with_reducible apply ite_answers
    | with_reducible apply ite_keeps
    | with_reducible apply foldl_keeps
    | with_reducible apply foldl_pair_keeps
    | split
    | rw [keeps_mk_iff]
    | dsimp only

theorem execMemArbSet_keeps (m : CmdMeta) (fabric : Nat) (pour : Nat) (layer : Nat) (fettler : Nat) (s : State) (h : Keeps q n s) :
    Answers q n (execMemArbSet m fabric pour layer fettler s) := by
  unfold execMemArbSet
  repeat' first
    | with_reducible assumption
    | with_reducible intro _
    | with_reducible apply keeps_parts
    | with_reducible apply command_keeps
    | with_reducible apply requires_keeps
    | with_reducible apply done_keeps
    | with_reducible apply setReg_keeps
    | with_reducible apply answers_next
    | with_reducible apply answers_fault
    | with_reducible apply answers_refused
    | with_reducible apply ite_answers
    | with_reducible apply ite_keeps
    | with_reducible apply foldl_keeps
    | with_reducible apply foldl_pair_keeps
    | split
    | rw [keeps_mk_iff]
    | dsimp only

theorem execMemMigrateCtrl_keeps (m : CmdMeta) (on : Nat) (s : State) (h : Keeps q n s) :
    Answers q n (execMemMigrateCtrl m on s) := by
  unfold execMemMigrateCtrl
  repeat' first
    | with_reducible assumption
    | with_reducible intro _
    | with_reducible apply keeps_parts
    | with_reducible apply command_keeps
    | with_reducible apply requires_keeps
    | with_reducible apply done_keeps
    | with_reducible apply setReg_keeps
    | with_reducible apply answers_next
    | with_reducible apply answers_fault
    | with_reducible apply answers_refused
    | with_reducible apply ite_answers
    | with_reducible apply ite_keeps
    | with_reducible apply foldl_keeps
    | with_reducible apply foldl_pair_keeps
    | split
    | rw [keeps_mk_iff]
    | dsimp only

theorem execMemStats_keeps (m : CmdMeta) (s : State) (h : Keeps q n s) :
    Answers q n (execMemStats m s) := by
  unfold execMemStats
  repeat' first
    | with_reducible assumption
    | with_reducible intro _
    | with_reducible apply keeps_parts
    | with_reducible apply command_keeps
    | with_reducible apply answer_keeps
    | with_reducible apply answers_next
    | with_reducible apply answers_fault
    | with_reducible apply answers_refused
    | with_reducible apply ite_answers
    | with_reducible apply ite_keeps
    | with_reducible apply foldl_keeps
    | with_reducible apply foldl_pair_keeps
    | split
    | rw [keeps_mk_iff]
    | dsimp only

theorem execMemCacheFlush_keeps (m : CmdMeta) (s : State) (h : Keeps q n s) :
    Answers q n (execMemCacheFlush m s) := by
  unfold execMemCacheFlush
  repeat' first
    | with_reducible assumption
    | with_reducible intro _
    | with_reducible apply keeps_parts
    | with_reducible apply command_keeps
    | with_reducible apply done_keeps
    | with_reducible apply answers_next
    | with_reducible apply answers_fault
    | with_reducible apply answers_refused
    | with_reducible apply ite_answers
    | with_reducible apply ite_keeps
    | with_reducible apply foldl_keeps
    | with_reducible apply foldl_pair_keeps
    | split
    | rw [keeps_mk_iff]
    | dsimp only

end Sys2Proof.Machine
end

