-- ==== Sys2Proof/Laws/KeepDigest.lean ====
section
/-! SUPPORT. What the operations of Machine/Digest.lean keep: the queue, the clock and the canonical form of HBM and the registers. -/
namespace Sys2Proof.Machine

variable {q : List Instr} {n : Nat}

theorem modCtx_keeps (heat : Nat) (f : DetCtx → DetCtx) (s : State) (h : Keeps q n s) :
    Keeps q n (modCtx heat f s) := by
  unfold modCtx
  repeat' first
    | with_reducible assumption
    | with_reducible intro _
    | with_reducible apply keeps_parts
    | with_reducible apply markCtxs_keeps
    | with_reducible apply ite_keeps
    | with_reducible apply foldl_keeps
    | with_reducible apply foldl_pair_keeps
    | split
    | rw [keeps_mk_iff]
    | dsimp only

theorem leaf_keeps (a : Acc) (heat : Nat) (kind : Nat) (body : List Byte) (s : State) (h : Keeps q n s) :
    Keeps q n (leaf a heat kind body s) := by
  unfold leaf
  repeat' first
    | with_reducible assumption
    | with_reducible intro _
    | with_reducible apply keeps_parts
    | with_reducible apply modCtx_keeps
    | with_reducible apply incReg_keeps
    | with_reducible apply ite_keeps
    | with_reducible apply foldl_keeps
    | with_reducible apply foldl_pair_keeps
    | split
    | rw [keeps_mk_iff]
    | dsimp only

theorem stepLeaf_keeps (heat : Nat) (kind : Nat) (step : Nat) (body : List Byte) (s : State) (h : Keeps q n s) :
    Keeps q n (stepLeaf heat kind step body s) := by
  unfold stepLeaf
  repeat' first
    | with_reducible assumption
    | with_reducible intro _
    | with_reducible apply keeps_parts
    | with_reducible apply modCtx_keeps
    | with_reducible apply leaf_keeps
    | with_reducible apply ite_keeps
    | with_reducible apply foldl_keeps
    | with_reducible apply foldl_pair_keeps
    | split
    | rw [keeps_mk_iff]
    | dsimp only

theorem digestPacket_keeps (p : Packet) (s : State) (h : Keeps q n s) :
    Keeps q n (digestPacket p s) := by
  unfold digestPacket
  repeat' first
    | with_reducible assumption
    | with_reducible intro _
    | with_reducible apply keeps_parts
    | with_reducible apply markFlag_keeps
    | with_reducible apply incReg_keeps
    | with_reducible apply leaf_keeps
    | with_reducible apply ite_keeps
    | with_reducible apply foldl_keeps
    | with_reducible apply foldl_pair_keeps
    | split
    | rw [keeps_mk_iff]
    | dsimp only

end Sys2Proof.Machine
end

