-- ==== Sys2Proof/Laws/KeepMemPort.lean ====
section
/-! SUPPORT. What the operations of Machine/MemPort.lean keep: the queue, the clock and the canonical form of HBM and the registers. -/
namespace Sys2Proof.Machine

variable {q : List Instr} {n : Nat}

theorem putPageIngot_keeps (f : Nat) (i : Nat) (g : Ingot) (s : State) (h : Keeps q n s) :
    Keeps q n (putPageIngot f i g s) := by
  unfold putPageIngot
  repeat' first
    | with_reducible assumption
    | with_reducible intro _
    | with_reducible apply keeps_parts
    | with_reducible apply hbmWrite_keeps
    | with_reducible apply ite_keeps
    | with_reducible apply foldl_keeps
    | with_reducible apply foldl_pair_keeps
    | split
    | rw [keeps_mk_iff]
    | dsimp only

theorem putIngotBytes_keeps (f : Nat) (off : Nat) (b : List Byte) (s : State) (h : Keeps q n s) :
    Keeps q n (putIngotBytes f off b s) := by
  unfold putIngotBytes
  repeat' first
    | with_reducible assumption
    | with_reducible intro _
    | with_reducible apply keeps_parts
    | with_reducible apply hbmWrite_keeps
    | with_reducible apply ite_keeps
    | with_reducible apply foldl_keeps
    | with_reducible apply foldl_pair_keeps
    | split
    | rw [keeps_mk_iff]
    | dsimp only

theorem performOn_keeps (f : Nat) (p : Packet) (s : State) (h : Keeps q n s) :
    Keeps q n (performOn f p s).2 := by
  unfold performOn
  repeat' first
    | with_reducible assumption
    | with_reducible intro _
    | with_reducible apply keeps_parts
    | with_reducible apply putIngotBytes_keeps
    | with_reducible apply hbmWrite_keeps
    | with_reducible apply putPageIngot_keeps
    | with_reducible apply ite_keeps
    | with_reducible apply foldl_keeps
    | with_reducible apply foldl_pair_keeps
    | split
    | rw [keeps_mk_iff]
    | dsimp only

theorem performOn_keeps_eq {f : Nat} {p : Packet} {s : State} {v : Served} {t : State} (e : performOn f p s = (v, t)) (h : Keeps q n s) : Keeps q n t := by
  have h := performOn_keeps f p s h (q := q) (n := n)
  rw [e] at h; exact h

theorem enterFwd_keeps (p : Packet) (s : State) (h : Keeps q n s) :
    Keeps q n (enterFwd p s) := by
  unfold enterFwd
  repeat' first
    | with_reducible assumption
    | with_reducible intro _
    | with_reducible apply keeps_parts
    | with_reducible apply useFree_keeps
    | with_reducible apply ite_keeps
    | with_reducible apply foldl_keeps
    | with_reducible apply foldl_pair_keeps
    | split
    | rw [keeps_mk_iff]
    | dsimp only

theorem sendFwdDone_keeps (d : Nat) (p : Packet) (result : Nat) (cause : Nat) (s : State) (h : Keeps q n s) :
    Keeps q n (sendFwdDone d p result cause s) := by
  unfold sendFwdDone
  repeat' first
    | with_reducible assumption
    | with_reducible intro _
    | with_reducible apply keeps_parts
    | with_reducible apply emit_keeps
    | with_reducible apply ite_keeps
    | with_reducible apply foldl_keeps
    | with_reducible apply foldl_pair_keeps
    | split
    | rw [keeps_mk_iff]
    | dsimp only

theorem confirmFwd_keeps (p : Packet) (result : Nat) (cause : Nat) (s : State) (h : Keeps q n s) :
    Keeps q n (confirmFwd p result cause s) := by
  unfold confirmFwd
  repeat' first
    | with_reducible assumption
    | with_reducible intro _
    | with_reducible apply keeps_parts
    | with_reducible apply sendFwdDone_keeps
    | with_reducible apply useFree_keeps
    | with_reducible apply ite_keeps
    | with_reducible apply foldl_keeps
    | with_reducible apply foldl_pair_keeps
    | split
    | rw [keeps_mk_iff]
    | dsimp only

theorem sendData_keeps (p : Packet) (b : List Byte) (flags : Nat) (s : State) (h : Keeps q n s) :
    Keeps q n (sendData p b flags s) := by
  unfold sendData
  repeat' first
    | with_reducible assumption
    | with_reducible intro _
    | with_reducible apply keeps_parts
    | with_reducible apply sendFrom_keeps
    | with_reducible apply ite_keeps
    | with_reducible apply foldl_keeps
    | with_reducible apply foldl_pair_keeps
    | split
    | rw [keeps_mk_iff]
    | dsimp only

theorem endRequest_keeps (p : Packet) (r : Served) (s : State) (h : Keeps q n s) :
    Keeps q n (endRequest p r s) := by
  unfold endRequest
  repeat' first
    | with_reducible assumption
    | with_reducible intro _
    | with_reducible apply keeps_parts
    | with_reducible apply incReg_keeps
    | with_reducible apply portDone_keeps
    | with_reducible apply confirmFwd_keeps
    | with_reducible apply nakAs_keeps
    | with_reducible apply sendAnswer_keeps
    | with_reducible apply digestPacket_keeps
    | with_reducible apply sendData_keeps
    | with_reducible apply ite_keeps
    | with_reducible apply foldl_keeps
    | with_reducible apply foldl_pair_keeps
    | split
    | rw [keeps_mk_iff]
    | dsimp only

theorem gatherRows_keeps (p : Packet) (b : Bool) (s : State) (h : Keeps q n s) : Keeps q n (gatherRows p b s).2 := by
  have e : (gatherRows p b s).2 = s := by
    unfold gatherRows
    dsimp only
    split
    · rfl
    · simp only [apply_ite Prod.snd, ite_self]
  rw [e]; exact h

theorem gatherRows_keeps_eq {p : Packet} {b : Bool} {s t : State} {v : Served} (e : gatherRows p b s = (v, t)) (h : Keeps q n s) :
    Keeps q n t := by
  have := gatherRows_keeps p b s h; rw [e] at this; exact this

theorem noteLines_keeps (f : Nat) (corrected : Nat) (unc : List (Nat × Nat)) (s : State) (h : Keeps q n s) :
    Keeps q n (noteLines f corrected unc s) := by
  unfold noteLines
  repeat' first
    | with_reducible assumption
    | with_reducible intro _
    | with_reducible apply keeps_parts
    | with_reducible apply addReg_keeps
    | with_reducible apply noteCorrected_keeps
    | with_reducible apply ite_keeps
    | with_reducible apply foldl_keeps
    | with_reducible apply foldl_pair_keeps
    | split
    | rw [keeps_mk_iff]
    | dsimp only

theorem nakHeld_keeps (pg : Nat) (cause : Nat) (s : State) (h : Keeps q n s) :
    Keeps q n (nakHeld pg cause s) := by
  unfold nakHeld
  repeat' first
    | with_reducible assumption
    | with_reducible intro _
    | with_reducible apply keeps_parts
    | with_reducible apply endRequest_keeps
    | with_reducible apply ite_keeps
    | with_reducible apply foldl_keeps
    | with_reducible apply foldl_pair_keeps
    | split
    | rw [keeps_mk_iff]
    | dsimp only

theorem losePage_keeps (p : Nat) (cause : Nat) (s : State) (h : Keeps q n s) :
    Keeps q n (losePage p cause s) := by
  unfold losePage
  repeat' first
    | with_reducible assumption
    | with_reducible intro _
    | with_reducible apply keeps_parts
    | with_reducible apply dropFrames_keeps
    | with_reducible apply endMoves_keeps
    | with_reducible apply remap_keeps
    | with_reducible apply logEvent_keeps
    | with_reducible apply releaseWalks_keeps
    | with_reducible apply nakHeld_keeps
    | with_reducible apply ite_keeps
    | with_reducible apply foldl_keeps
    | with_reducible apply foldl_pair_keeps
    | split
    | rw [keeps_mk_iff]
    | dsimp only

theorem frameLost_keeps (p : Nat) (cause : Nat) (s : State) (h : Keeps q n s) :
    Keeps q n (frameLost p cause s) := by
  unfold frameLost
  repeat' first
    | with_reducible assumption
    | with_reducible intro _
    | with_reducible apply keeps_parts
    | with_reducible apply losePage_keeps
    | with_reducible apply dropFrames_keeps
    | with_reducible apply endMoves_keeps
    | with_reducible apply tellBook_keeps
    | with_reducible apply nakHeld_keeps
    | with_reducible apply cachePut_keeps
    | with_reducible apply ite_keeps
    | with_reducible apply foldl_keeps
    | with_reducible apply foldl_pair_keeps
    | split
    | rw [keeps_mk_iff]
    | dsimp only

theorem renewMirror_keeps (p : Nat) (lost : Nat) (s : State) (h : Keeps q n s) :
    Keeps q n (renewMirror p lost s) := by
  unfold renewMirror
  repeat' first
    | with_reducible assumption
    | with_reducible intro _
    | with_reducible apply keeps_parts
    | with_reducible apply endMoves_keeps
    | with_reducible apply chooseMirror_keeps
    | with_reducible apply remap_keeps
    | with_reducible apply ite_keeps
    | with_reducible apply foldl_keeps
    | with_reducible apply foldl_pair_keeps
    | split
    | rw [keeps_mk_iff]
    | dsimp only

theorem mirrorFailed_keeps (p : Nat) (f : Nat) (s : State) (h : Keeps q n s) :
    Keeps q n (mirrorFailed p f s) := by
  unfold mirrorFailed
  repeat' first
    | with_reducible assumption
    | with_reducible intro _
    | with_reducible apply keeps_parts
    | with_reducible apply releaseFrame_keeps
    | with_reducible apply renewMirror_keeps
    | with_reducible apply tellBook_keeps
    | with_reducible apply ite_keeps
    | with_reducible apply foldl_keeps
    | with_reducible apply foldl_pair_keeps
    | split
    | rw [keeps_mk_iff]
    | dsimp only

theorem frameUncorrectable_keeps (f : Nat) (s : State) (h : Keeps q n s) :
    Keeps q n (frameUncorrectable f s) := by
  unfold frameUncorrectable
  repeat' first
    | with_reducible assumption
    | with_reducible intro _
    | with_reducible apply keeps_parts
    | with_reducible apply frameLost_keeps
    | with_reducible apply mirrorFailed_keeps
    | with_reducible apply segFrameLost_keeps
    | with_reducible apply ite_keeps
    | with_reducible apply foldl_keeps
    | with_reducible apply foldl_pair_keeps
    | split
    | rw [keeps_mk_iff]
    | dsimp only

theorem gatherPort_keeps (p : Packet) (s : State) (corrected : optParam Nat 0) (unc : optParam (List (Nat × Nat)) []) (h : Keeps q n s) :
    Keeps q n (gatherPort p s corrected unc) := by
  unfold gatherPort
  repeat' first
    | with_reducible assumption
    | with_reducible intro _
    | with_reducible apply keeps_parts
    | with_reducible apply endRequest_keeps
    | with_reducible apply incReg_keeps
    | with_reducible apply gatherRows_keeps
    | with_reducible refine gatherRows_keeps_eq (by assumption) ?_
    | with_reducible apply noteLines_keeps
    | with_reducible apply frameUncorrectable_keeps
    | with_reducible apply ite_keeps
    | with_reducible apply foldl_keeps
    | with_reducible apply foldl_pair_keeps
    | split
    | rw [keeps_mk_iff]
    | dsimp only

theorem logDenied_keeps (p : Packet) (s : State) (h : Keeps q n s) :
    Keeps q n (logDenied p s) := by
  unfold logDenied
  repeat' first
    | with_reducible assumption
    | with_reducible intro _
    | with_reducible apply keeps_parts
    | with_reducible apply logEvent_keeps
    | with_reducible apply ite_keeps
    | with_reducible apply foldl_keeps
    | with_reducible apply foldl_pair_keeps
    | split
    | rw [keeps_mk_iff]
    | dsimp only

theorem holdRequest_keeps (p : Packet) (s : State) (h : Keeps q n s) :
    Keeps q n (holdRequest p s) := by
  unfold holdRequest
  repeat' first
    | with_reducible assumption
    | with_reducible intro _
    | with_reducible apply keeps_parts
    | with_reducible apply ite_keeps
    | with_reducible apply foldl_keeps
    | with_reducible apply foldl_pair_keeps
    | split
    | rw [keeps_mk_iff]
    | dsimp only

theorem hotMigrate_keeps (pg : Nat) (f : Nat) (s : State) (h : Keeps q n s) :
    Keeps q n (hotMigrate pg f s) := by
  unfold hotMigrate
  repeat' first
    | with_reducible assumption
    | with_reducible intro _
    | with_reducible apply keeps_parts
    | with_reducible apply takeFrame_keeps
    | with_reducible refine takeFrame_keeps_eq (by assumption) ?_
    | with_reducible apply useFree_keeps
    | with_reducible apply startMove_keeps
    | with_reducible apply ite_keeps
    | with_reducible apply foldl_keeps
    | with_reducible apply foldl_pair_keeps
    | split
    | rw [keeps_mk_iff]
    | dsimp only

theorem awaitMirror_keeps (f : Nat) (m : Nat) (p : Packet) (r : Served) (s : State) (h : Keeps q n s) :
    Keeps q n (awaitMirror f m p r s) := by
  unfold awaitMirror
  repeat' first
    | with_reducible assumption
    | with_reducible intro _
    | with_reducible apply keeps_parts
    | with_reducible apply emit_keeps
    | with_reducible apply ite_keeps
    | with_reducible apply foldl_keeps
    | with_reducible apply foldl_pair_keeps
    | split
    | rw [keeps_mk_iff]
    | dsimp only

theorem homePerform_keeps (f : Nat) (p : Packet) (corrected : Nat) (unc : List (Nat × Nat)) (s : State) (h : Keeps q n s) :
    Keeps q n (homePerform f p corrected unc s) := by
  unfold homePerform
  repeat' first
    | with_reducible assumption
    | with_reducible intro _
    | with_reducible apply keeps_parts
    | with_reducible apply noteLines_keeps
    | with_reducible apply endRequest_keeps
    | with_reducible apply frameLost_keeps
    | with_reducible apply enterFwd_keeps
    | with_reducible apply performOn_keeps
    | with_reducible refine performOn_keeps_eq (by assumption) ?_
    | with_reducible apply hotMigrate_keeps
    | with_reducible apply sampleAccess_keeps
    | with_reducible apply awaitMirror_keeps
    | with_reducible apply ite_keeps
    | with_reducible apply foldl_keeps
    | with_reducible apply foldl_pair_keeps
    | split
    | rw [keeps_mk_iff]
    | dsimp only

theorem fwdKnown_keeps {p : Packet} {s t : State} (e : fwdKnown p s = some t) (h : Keeps q n s) : Keeps q n t := by
  unfold fwdKnown at e
  split at e
  · cases e
  · revert e
    generalize fwdEntry p s = x
    intro e
    cases x with
    | none => cases e
    | some y =>
      simp only [Option.map_some, Option.some.injEq] at e
      subst e
      exact ite_keeps (sendFwdDone_keeps _ _ _ _ _ h) h

theorem refuseRequest_keeps (x0 : PageEnt) (p : Packet) (c : Nat) (s : State) (h : Keeps q n s) :
    Keeps q n (refuseRequest x0 p c s) := by
  unfold refuseRequest
  repeat' first
    | with_reducible assumption
    | with_reducible intro _
    | with_reducible apply keeps_parts
    | with_reducible apply endRequest_keeps
    | with_reducible apply logDenied_keeps
    | with_reducible apply ite_keeps
    | with_reducible apply foldl_keeps
    | with_reducible apply foldl_pair_keeps
    | split
    | rw [keeps_mk_iff]
    | dsimp only

theorem atHome_keeps (f : Nat) (p : Packet) (corrected : Nat) (unc : List (Nat × Nat)) (s : State) (h : Keeps q n s) :
    Keeps q n (atHome f p corrected unc s) := by
  unfold atHome
  repeat' first
    | with_reducible assumption
    | with_reducible intro _
    | with_reducible apply keeps_parts
    | with_reducible refine fwdKnown_keeps (by assumption) ?_
    | with_reducible apply refuseRequest_keeps
    | with_reducible apply endRequest_keeps
    | with_reducible apply holdRequest_keeps
    | with_reducible apply sendFwdDone_keeps
    | with_reducible apply useFree_keeps
    | with_reducible apply homePerform_keeps
    | with_reducible apply ite_keeps
    | with_reducible apply foldl_keeps
    | with_reducible apply foldl_pair_keeps
    | split
    | rw [keeps_mk_iff]
    | dsimp only

theorem launchFwd_keeps (home : Nat) (p : Packet) (s : State) (h : Keeps q n s) :
    Keeps q n (launchFwd home p s) := by
  unfold launchFwd
  repeat' first
    | with_reducible assumption
    | with_reducible intro _
    | with_reducible apply keeps_parts
    | with_reducible apply launch_keeps
    | with_reducible apply ite_keeps
    | with_reducible apply foldl_keeps
    | with_reducible apply foldl_pair_keeps
    | split
    | rw [keeps_mk_iff]
    | dsimp only

theorem forwardReq_keeps (home : Nat) (p : Packet) (s : State) (h : Keeps q n s) :
    Keeps q n (forwardReq home p s) := by
  unfold forwardReq
  repeat' first
    | with_reducible assumption
    | with_reducible intro _
    | with_reducible apply keeps_parts
    | with_reducible apply portDone_keeps
    | with_reducible apply launchFwd_keeps
    | with_reducible apply ite_keeps
    | with_reducible apply foldl_keeps
    | with_reducible apply foldl_pair_keeps
    | split
    | rw [keeps_mk_iff]
    | dsimp only

theorem atEntry_keeps (x0 : PageEnt) (p : Packet) (s : State) (h : Keeps q n s) :
    Keeps q n (atEntry x0 p s) := by
  unfold atEntry
  repeat' first
    | with_reducible assumption
    | with_reducible intro _
    | with_reducible apply keeps_parts
    | with_reducible apply refuseRequest_keeps
    | with_reducible apply endRequest_keeps
    | with_reducible apply forwardReq_keeps
    | with_reducible apply ite_keeps
    | with_reducible apply foldl_keeps
    | with_reducible apply foldl_pair_keeps
    | split
    | rw [keeps_mk_iff]
    | dsimp only

theorem strayFwd_keeps (p : Packet) (s : State) (h : Keeps q n s) :
    Keeps q n (strayFwd p s) := by
  unfold strayFwd
  repeat' first
    | with_reducible assumption
    | with_reducible intro _
    | with_reducible apply keeps_parts
    | with_reducible apply refuseRequest_keeps
    | with_reducible apply endRequest_keeps
    | with_reducible apply launchFwd_keeps
    | with_reducible apply ite_keeps
    | with_reducible apply foldl_keeps
    | with_reducible apply foldl_pair_keeps
    | split
    | rw [keeps_mk_iff]
    | dsimp only

theorem startWalk_keeps (p : Packet) (s : State) (h : Keeps q n s) :
    Keeps q n (startWalk p s) := by
  unfold startWalk
  repeat' first
    | with_reducible assumption
    | with_reducible intro _
    | with_reducible apply keeps_parts
    | with_reducible apply endRequest_keeps
    | with_reducible apply markCtxs_keeps
    | with_reducible apply emit_keeps
    | with_reducible apply incReg_keeps
    | with_reducible apply atEntry_keeps
    | with_reducible apply cachePut_keeps
    | with_reducible apply ite_keeps
    | with_reducible apply foldl_keeps
    | with_reducible apply foldl_pair_keeps
    | split
    | rw [keeps_mk_iff]
    | dsimp only

theorem memPort_keeps (p : Packet) (s : State) (corrected : optParam Nat 0) (unc : optParam (List (Nat × Nat)) []) (h : Keeps q n s) :
    Keeps q n (memPort p s corrected unc) := by
  unfold memPort
  repeat' first
    | with_reducible assumption
    | with_reducible intro _
    | with_reducible apply keeps_parts
    | with_reducible apply gatherPort_keeps
    | with_reducible apply endRequest_keeps
    | with_reducible apply atHome_keeps
    | with_reducible apply strayFwd_keeps
    | with_reducible apply atEntry_keeps
    | with_reducible apply incReg_keeps
    | with_reducible apply startWalk_keeps
    | with_reducible apply ite_keeps
    | with_reducible apply foldl_keeps
    | with_reducible apply foldl_pair_keeps
    | split
    | rw [keeps_mk_iff]
    | dsimp only

theorem walked_keeps (x0 : PageEnt) (p : Packet) (s : State) (h : Keeps q n s) :
    Keeps q n (walked x0 p s) := by
  unfold walked
  repeat' first
    | with_reducible assumption
    | with_reducible intro _
    | with_reducible apply keeps_parts
    | with_reducible apply atHome_keeps
    | with_reducible apply atEntry_keeps
    | with_reducible apply ite_keeps
    | with_reducible apply foldl_keeps
    | with_reducible apply foldl_pair_keeps
    | split
    | rw [keeps_mk_iff]
    | dsimp only

theorem releaseFwd_keeps (src : Nat) (stream : Nat) (pg : Nat) (s : State) (h : Keeps q n s) :
    Keeps q n (releaseFwd src stream pg s) := by
  unfold releaseFwd
  repeat' first
    | with_reducible assumption
    | with_reducible intro _
    | with_reducible apply keeps_parts
    | with_reducible apply launchFwd_keeps
    | with_reducible apply ite_keeps
    | with_reducible apply foldl_keeps
    | with_reducible apply foldl_pair_keeps
    | split
    | rw [keeps_mk_iff]
    | dsimp only

theorem dropCopy_keeps (src : Nat) (stream : Nat) (seq : Nat) (s : State) (h : Keeps q n s) :
    Keeps q n (dropCopy src stream seq s) := by
  unfold dropCopy
  repeat' first
    | with_reducible assumption
    | with_reducible intro _
    | with_reducible apply keeps_parts
    | with_reducible apply ite_keeps
    | with_reducible apply foldl_keeps
    | with_reducible apply foldl_pair_keeps
    | split
    | rw [keeps_mk_iff]
    | dsimp only

theorem execFwdDone_keeps (src : Nat) (stream : Nat) (seq : Nat) (home : Nat) (result : Nat) (_cause : Nat) (s : State) (h : Keeps q n s) :
    Answers q n (execFwdDone src stream seq home result _cause s) := by
  unfold execFwdDone
  repeat' first
    | with_reducible assumption
    | with_reducible intro _
    | with_reducible apply keeps_parts
    | with_reducible apply emit_keeps
    | with_reducible apply dropCopy_keeps
    | with_reducible apply releaseFwd_keeps
    | with_reducible apply answers_next
    | with_reducible apply answers_fault
    | with_reducible apply answers_refused
    | with_reducible apply ite_answers
    | with_reducible apply ite_keeps
    | with_reducible apply foldl_keeps
    | with_reducible apply foldl_pair_keeps
    | split
    | rw [keeps_mk_iff]
    | dsimp only

theorem execFwdAck_keeps (src : Nat) (stream : Nat) (seq : Nat) (_entry : Nat) (s : State) (h : Keeps q n s) :
    Answers q n (execFwdAck src stream seq _entry s) := by
  unfold execFwdAck
  repeat' first
    | with_reducible assumption
    | with_reducible intro _
    | with_reducible apply keeps_parts
    | with_reducible apply answers_next
    | with_reducible apply answers_fault
    | with_reducible apply answers_refused
    | with_reducible apply ite_answers
    | with_reducible apply ite_keeps
    | with_reducible apply foldl_keeps
    | with_reducible apply foldl_pair_keeps
    | split
    | rw [keeps_mk_iff]
    | dsimp only

theorem execFwdDoneResendTimeout_keeps (src : Nat) (stream : Nat) (seq : Nat) (s : State) (h : Keeps q n s) :
    Answers q n (execFwdDoneResendTimeout src stream seq s) := by
  unfold execFwdDoneResendTimeout
  repeat' first
    | with_reducible assumption
    | with_reducible intro _
    | with_reducible apply keeps_parts
    | with_reducible apply advanceTo_keeps
    | with_reducible apply emit_keeps
    | with_reducible apply answers_next
    | with_reducible apply answers_fault
    | with_reducible apply answers_refused
    | with_reducible apply ite_answers
    | with_reducible apply ite_keeps
    | with_reducible apply foldl_keeps
    | with_reducible apply foldl_pair_keeps
    | split
    | rw [keeps_mk_iff]
    | dsimp only

theorem execPatternBookWalk_keeps (peer : Nat) (gfa : Nat) (s : State) (h : Keeps q n s) :
    Answers q n (execPatternBookWalk peer gfa s) := by
  unfold execPatternBookWalk
  repeat' first
    | with_reducible assumption
    | with_reducible intro _
    | with_reducible apply keeps_parts
    | with_reducible apply emit_keeps
    | with_reducible apply answers_next
    | with_reducible apply answers_fault
    | with_reducible apply answers_refused
    | with_reducible apply ite_answers
    | with_reducible apply ite_keeps
    | with_reducible apply foldl_keeps
    | with_reducible apply foldl_pair_keeps
    | split
    | rw [keeps_mk_iff]
    | dsimp only

theorem execWalkReply_keeps (gfa : Nat) (entry : Nat) (s : State) (h : Keeps q n s) :
    Answers q n (execWalkReply gfa entry s) := by
  unfold execWalkReply
  repeat' first
    | with_reducible assumption
    | with_reducible intro _
    | with_reducible apply keeps_parts
    | with_reducible apply cachePut_keeps
    | with_reducible apply walked_keeps
    | with_reducible apply answers_next
    | with_reducible apply answers_fault
    | with_reducible apply answers_refused
    | with_reducible apply ite_answers
    | with_reducible apply ite_keeps
    | with_reducible apply foldl_keeps
    | with_reducible apply foldl_pair_keeps
    | split
    | rw [keeps_mk_iff]
    | dsimp only

theorem fillRemote_keeps (pg : Nat) (cls : Nat) (f : Nat) (s : State) (h : Keeps q n s) :
    Keeps q n (fillRemote pg cls f s) := by
  unfold fillRemote
  repeat' first
    | with_reducible assumption
    | with_reducible intro _
    | with_reducible apply keeps_parts
    | with_reducible apply hbmWrite_keeps
    | with_reducible apply ite_keeps
    | with_reducible apply foldl_keeps
    | with_reducible apply foldl_pair_keeps
    | split
    | rw [keeps_mk_iff]
    | dsimp only

theorem becomeHome_keeps (pg : Nat) (x1 : PageEnt) (fresh : Bool) (s : State) (h : Keeps q n s) :
    Keeps q n (becomeHome pg x1 fresh s) := by
  unfold becomeHome
  repeat' first
    | with_reducible assumption
    | with_reducible intro _
    | with_reducible apply keeps_parts
    | with_reducible apply putFrame_keeps
    | with_reducible apply endMoves_keeps
    | with_reducible apply fillRemote_keeps
    | with_reducible apply ite_keeps
    | with_reducible apply foldl_keeps
    | with_reducible apply foldl_pair_keeps
    | split
    | rw [keeps_mk_iff]
    | dsimp only

theorem becomeMirror_keeps (pg : Nat) (x1 : PageEnt) (fresh : Bool) (s : State) (h : Keeps q n s) :
    Keeps q n (becomeMirror pg x1 fresh s) := by
  unfold becomeMirror
  repeat' first
    | with_reducible assumption
    | with_reducible intro _
    | with_reducible apply keeps_parts
    | with_reducible apply putFrame_keeps
    | with_reducible apply fillRemote_keeps
    | with_reducible apply ite_keeps
    | with_reducible apply foldl_keeps
    | with_reducible apply foldl_pair_keeps
    | split
    | rw [keeps_mk_iff]
    | dsimp only

theorem followEntry_keeps (pg : Nat) (x1 : PageEnt) (fresh : Bool) (s : State) (h : Keeps q n s) :
    Keeps q n (followEntry pg x1 fresh s) := by
  unfold followEntry
  repeat' first
    | with_reducible assumption
    | with_reducible intro _
    | with_reducible apply keeps_parts
    | with_reducible apply becomeHome_keeps
    | with_reducible apply releaseFrame_keeps
    | with_reducible apply nakHeld_keeps
    | with_reducible apply endMoves_keeps
    | with_reducible apply becomeMirror_keeps
    | with_reducible apply ite_keeps
    | with_reducible apply foldl_keeps
    | with_reducible apply foldl_pair_keeps
    | split
    | rw [keeps_mk_iff]
    | dsimp only

theorem keepCopy_keeps (pg : Nat) (x1 : PageEnt) (peer : Nat) (s : State) (h : Keeps q n s) :
    Keeps q n (keepCopy pg x1 peer s) := by
  unfold keepCopy
  repeat' first
    | with_reducible assumption
    | with_reducible intro _
    | with_reducible apply keeps_parts
    | with_reducible apply ite_keeps
    | with_reducible apply foldl_keeps
    | with_reducible apply foldl_pair_keeps
    | split
    | rw [keeps_mk_iff]
    | dsimp only

theorem homeReport_keeps (pg : Nat) (x1 : PageNote) (x2 : PageEnt) (peer : Nat) (s : State) (h : Keeps q n s) :
    Keeps q n (homeReport pg x1 x2 peer s) := by
  unfold homeReport
  repeat' first
    | with_reducible assumption
    | with_reducible intro _
    | with_reducible apply keeps_parts
    | with_reducible apply losePage_keeps
    | with_reducible apply renewMirror_keeps
    | with_reducible apply remap_keeps
    | with_reducible apply bookRemap_keeps
    | with_reducible refine bookRemap_keeps_eq (by assumption) ?_
    | with_reducible apply releaseWalks_keeps
    | with_reducible apply cachePut_keeps
    | with_reducible apply ite_keeps
    | with_reducible apply foldl_keeps
    | with_reducible apply foldl_pair_keeps
    | split
    | rw [keeps_mk_iff]
    | dsimp only

theorem execInvalidation_keeps (gfa : Nat) (entry : Nat) (peer : Nat) (note : PageNote) (s : State) (h : Keeps q n s) :
    Answers q n (execInvalidation gfa entry peer note s) := by
  unfold execInvalidation
  repeat' first
    | with_reducible assumption
    | with_reducible intro _
    | with_reducible apply keeps_parts
    | with_reducible apply keepCopy_keeps
    | with_reducible apply cacheUpdate_keeps
    | with_reducible apply emit_keeps
    | with_reducible apply followEntry_keeps
    | with_reducible apply amendEntry_keeps
    | with_reducible apply syncMap_keeps
    | with_reducible apply homeReport_keeps
    | with_reducible apply answers_next
    | with_reducible apply answers_fault
    | with_reducible apply answers_refused
    | with_reducible apply ite_answers
    | with_reducible apply ite_keeps
    | with_reducible apply foldl_keeps
    | with_reducible apply foldl_pair_keeps
    | split
    | rw [keeps_mk_iff]
    | dsimp only

theorem execInvalidationAck_keeps (gfa : Nat) (peer : Nat) (s : State) (h : Keeps q n s) :
    Answers q n (execInvalidationAck gfa peer s) := by
  unfold execInvalidationAck
  repeat' first
    | with_reducible assumption
    | with_reducible intro _
    | with_reducible apply keeps_parts
    | with_reducible apply settleInvals_keeps
    | with_reducible apply answers_next
    | with_reducible apply answers_fault
    | with_reducible apply answers_refused
    | with_reducible apply ite_answers
    | with_reducible apply ite_keeps
    | with_reducible apply foldl_keeps
    | with_reducible apply foldl_pair_keeps
    | split
    | rw [keeps_mk_iff]
    | dsimp only

theorem execPageCacheRevalidate_keeps (s : State) (h : Keeps q n s) :
    Answers q n (execPageCacheRevalidate s) := by
  unfold execPageCacheRevalidate
  repeat' first
    | with_reducible assumption
    | with_reducible intro _
    | with_reducible apply keeps_parts
    | with_reducible apply advanceTo_keeps
    | with_reducible apply cachePut_keeps
    | with_reducible apply emit_keeps
    | with_reducible apply incReg_keeps
    | with_reducible apply answers_next
    | with_reducible apply answers_fault
    | with_reducible apply answers_refused
    | with_reducible apply ite_answers
    | with_reducible apply ite_keeps
    | with_reducible apply foldl_keeps
    | with_reducible apply foldl_pair_keeps
    | split
    | rw [keeps_mk_iff]
    | dsimp only

theorem releaseHeld_keeps (pg : Nat) (s : State) (h : Keeps q n s) :
    Keeps q n (releaseHeld pg s) := by
  unfold releaseHeld
  repeat' first
    | with_reducible assumption
    | with_reducible intro _
    | with_reducible apply keeps_parts
    | with_reducible apply memPort_keeps
    | with_reducible apply ite_keeps
    | with_reducible apply foldl_keeps
    | with_reducible apply foldl_pair_keeps
    | split
    | rw [keeps_mk_iff]
    | dsimp only

theorem execMigrationCopyDone_keeps (gfa : Nat) (s : State) (h : Keeps q n s) :
    Answers q n (execMigrationCopyDone gfa s) := by
  unfold execMigrationCopyDone
  repeat' first
    | with_reducible assumption
    | with_reducible intro _
    | with_reducible apply keeps_parts
    | with_reducible apply answers_next
    | with_reducible apply answers_fault
    | with_reducible apply answers_refused
    | with_reducible apply ite_answers
    | with_reducible apply ite_keeps
    | with_reducible apply foldl_keeps
    | with_reducible apply foldl_pair_keeps
    | split
    | rw [keeps_mk_iff]
    | dsimp only

theorem dropMove_keeps (mv : Move) (s : State) (h : Keeps q n s) :
    Keeps q n (dropMove mv s) := by
  unfold dropMove
  repeat' first
    | with_reducible assumption
    | with_reducible intro _
    | with_reducible apply keeps_parts
    | with_reducible apply ite_keeps
    | with_reducible apply foldl_keeps
    | with_reducible apply foldl_pair_keeps
    | split
    | rw [keeps_mk_iff]
    | dsimp only

theorem leaveHome_keeps (pg : Nat) (f : Nat) (mv : Move) (x3 : PageEnt) (s : State) (h : Keeps q n s) :
    Keeps q n (leaveHome pg f mv x3 s) := by
  unfold leaveHome
  repeat' first
    | with_reducible assumption
    | with_reducible intro _
    | with_reducible apply keeps_parts
    | with_reducible apply emit_keeps
    | with_reducible apply incReg_keeps
    | with_reducible apply putFrame_keeps
    | with_reducible apply invalidate_keeps
    | with_reducible apply ite_keeps
    | with_reducible apply foldl_keeps
    | with_reducible apply foldl_pair_keeps
    | split
    | rw [keeps_mk_iff]
    | dsimp only

theorem takeHomePage_keeps (pg : Nat) (mv : Move) (x2 : PageEnt) (s : State) (h : Keeps q n s) :
    Keeps q n (takeHomePage pg mv x2 s) := by
  unfold takeHomePage
  repeat' first
    | with_reducible assumption
    | with_reducible intro _
    | with_reducible apply keeps_parts
    | with_reducible apply fillRemote_keeps
    | with_reducible apply putFrame_keeps
    | with_reducible apply ite_keeps
    | with_reducible apply foldl_keeps
    | with_reducible apply foldl_pair_keeps
    | split
    | rw [keeps_mk_iff]
    | dsimp only

theorem writeRemap_keeps (pg : Nat) (f : PageEnt → PageEnt) (s : State) (h : Keeps q n s) :
    Keeps q n (writeRemap pg f s).2 := by
  unfold writeRemap
  repeat' first
    | with_reducible assumption
    | with_reducible intro _
    | with_reducible apply keeps_parts
    | with_reducible apply bookRemap_keeps
    | with_reducible refine bookRemap_keeps_eq (by assumption) ?_
    | with_reducible apply tellBook_keeps
    | with_reducible apply ite_keeps
    | with_reducible apply foldl_keeps
    | with_reducible apply foldl_pair_keeps
    | split
    | rw [keeps_mk_iff]
    | dsimp only

theorem writeRemap_keeps_eq {pg : Nat} {f : PageEnt → PageEnt} {s : State} {v : PageEnt} {t : State} (e : writeRemap pg f s = (v, t)) (h : Keeps q n s) : Keeps q n t := by
  have h := writeRemap_keeps pg f s h (q := q) (n := n)
  rw [e] at h; exact h

theorem remapMoved_keeps (pg : Nat) (mv : Move) (s : State) (h : Keeps q n s) :
    Keeps q n (remapMoved pg mv s) := by
  unfold remapMoved
  repeat' first
    | with_reducible assumption
    | with_reducible intro _
    | with_reducible apply keeps_parts
    | with_reducible apply dropMove_keeps
    | with_reducible apply writeRemap_keeps
    | with_reducible refine writeRemap_keeps_eq (by assumption) ?_
    | with_reducible apply takeHomePage_keeps
    | with_reducible apply leaveHome_keeps
    | with_reducible apply finishOpt_keeps
    | with_reducible apply cacheUpdate_keeps
    | with_reducible apply releaseHeld_keeps
    | with_reducible apply releaseWalks_keeps
    | with_reducible apply markFlag_keeps
    | with_reducible apply cachePut_keeps
    | with_reducible apply ite_keeps
    | with_reducible apply foldl_keeps
    | with_reducible apply foldl_pair_keeps
    | split
    | rw [keeps_mk_iff]
    | dsimp only

theorem execMigrationRemap_keeps (gfa : Nat) (s : State) (h : Keeps q n s) :
    Answers q n (execMigrationRemap gfa s) := by
  unfold execMigrationRemap
  repeat' first
    | with_reducible assumption
    | with_reducible intro _
    | with_reducible apply keeps_parts
    | with_reducible apply remapMoved_keeps
    | with_reducible apply answers_next
    | with_reducible apply answers_fault
    | with_reducible apply answers_refused
    | with_reducible apply ite_answers
    | with_reducible apply ite_keeps
    | with_reducible apply foldl_keeps
    | with_reducible apply foldl_pair_keeps
    | split
    | rw [keeps_mk_iff]
    | dsimp only

theorem execForwardingStubExpiry_keeps (gfa : Nat) (s : State) (h : Keeps q n s) :
    Answers q n (execForwardingStubExpiry gfa s) := by
  unfold execForwardingStubExpiry
  repeat' first
    | with_reducible assumption
    | with_reducible intro _
    | with_reducible apply keeps_parts
    | with_reducible apply releaseFrame_keeps
    | with_reducible apply advanceTo_keeps
    | with_reducible apply answers_next
    | with_reducible apply answers_fault
    | with_reducible apply answers_refused
    | with_reducible apply ite_answers
    | with_reducible apply ite_keeps
    | with_reducible apply foldl_keeps
    | with_reducible apply foldl_pair_keeps
    | split
    | rw [keeps_mk_iff]
    | dsimp only

theorem noteRetired_keeps (old : Nat) (new : Nat) (s : State) (h : Keeps q n s) :
    Keeps q n (noteRetired old new s) := by
  unfold noteRetired
  repeat' first
    | with_reducible assumption
    | with_reducible intro _
    | with_reducible apply keeps_parts
    | with_reducible apply addHistory_keeps
    | with_reducible apply markFlag_keeps
    | with_reducible apply incReg_keeps
    | with_reducible apply logEvent_keeps
    | with_reducible apply ite_keeps
    | with_reducible apply foldl_keeps
    | with_reducible apply foldl_pair_keeps
    | split
    | rw [keeps_mk_iff]
    | dsimp only

theorem endRetire_keeps (frame : Nat) (mv : Move) (r : FrameRec) (s : State) (h : Keeps q n s) :
    Keeps q n (endRetire frame mv r s) := by
  unfold endRetire
  repeat' first
    | with_reducible assumption
    | with_reducible intro _
    | with_reducible apply keeps_parts
    | with_reducible apply dropMove_keeps
    | with_reducible apply putFrame_keeps
    | with_reducible apply hbmCopy_keeps
    | with_reducible apply replaceSoft_keeps
    | with_reducible apply segFrameMoved_keeps
    | with_reducible apply noteRetired_keeps
    | with_reducible apply wipeFrame_keeps
    | with_reducible apply finishOpt_keeps
    | with_reducible apply writeRemap_keeps
    | with_reducible refine writeRemap_keeps_eq (by assumption) ?_
    | with_reducible apply invalidate_keeps
    | with_reducible apply releaseHeld_keeps
    | with_reducible apply releaseWalks_keeps
    | with_reducible apply ite_keeps
    | with_reducible apply foldl_keeps
    | with_reducible apply foldl_pair_keeps
    | split
    | rw [keeps_mk_iff]
    | dsimp only

theorem execFrameRetirementDone_keeps (frame : Nat) (s : State) (h : Keeps q n s) :
    Answers q n (execFrameRetirementDone frame s) := by
  unfold execFrameRetirementDone
  repeat' first
    | with_reducible assumption
    | with_reducible intro _
    | with_reducible apply keeps_parts
    | with_reducible apply endRetire_keeps
    | with_reducible apply answers_next
    | with_reducible apply answers_fault
    | with_reducible apply answers_refused
    | with_reducible apply ite_answers
    | with_reducible apply ite_keeps
    | with_reducible apply foldl_keeps
    | with_reducible apply foldl_pair_keeps
    | split
    | rw [keeps_mk_iff]
    | dsimp only

theorem endResync_keeps (pg : Nat) (mv : Move) (s : State) (h : Keeps q n s) :
    Keeps q n (endResync pg mv s) := by
  unfold endResync
  repeat' first
    | with_reducible assumption
    | with_reducible intro _
    | with_reducible apply keeps_parts
    | with_reducible apply dropMove_keeps
    | with_reducible apply emit_keeps
    | with_reducible apply fillRemote_keeps
    | with_reducible apply amendEntry_keeps
    | with_reducible apply tellBook_keeps
    | with_reducible apply syncMap_keeps
    | with_reducible apply finishOpt_keeps
    | with_reducible apply ite_keeps
    | with_reducible apply foldl_keeps
    | with_reducible apply foldl_pair_keeps
    | split
    | rw [keeps_mk_iff]
    | dsimp only

theorem execMirrorResyncDone_keeps (gfa : Nat) (s : State) (h : Keeps q n s) :
    Answers q n (execMirrorResyncDone gfa s) := by
  unfold execMirrorResyncDone
  repeat' first
    | with_reducible assumption
    | with_reducible intro _
    | with_reducible apply keeps_parts
    | with_reducible apply endResync_keeps
    | with_reducible apply answers_next
    | with_reducible apply answers_fault
    | with_reducible apply answers_refused
    | with_reducible apply ite_answers
    | with_reducible apply ite_keeps
    | with_reducible apply foldl_keeps
    | with_reducible apply foldl_pair_keeps
    | split
    | rw [keeps_mk_iff]
    | dsimp only

theorem homeCopyGone_keeps (pg : Nat) (s : State) (h : Keeps q n s) :
    Keeps q n (homeCopyGone pg s) := by
  unfold homeCopyGone
  repeat' first
    | with_reducible assumption
    | with_reducible intro _
    | with_reducible apply keeps_parts
    | with_reducible apply remap_keeps
    | with_reducible apply useFree_keeps
    | with_reducible apply endMoves_keeps
    | with_reducible apply chooseMirror_keeps
    | with_reducible apply tellBook_keeps
    | with_reducible apply ite_keeps
    | with_reducible apply foldl_keeps
    | with_reducible apply foldl_pair_keeps
    | split
    | rw [keeps_mk_iff]
    | dsimp only

theorem rebuildCopy_keeps (f : Nat) (r : FrameRec) (pg : Nat) (home : Bool) (s : State) (h : Keeps q n s) :
    Keeps q n (rebuildCopy f r pg home s) := by
  unfold rebuildCopy
  repeat' first
    | with_reducible assumption
    | with_reducible intro _
    | with_reducible apply keeps_parts
    | with_reducible apply homeCopyGone_keeps
    | with_reducible apply renewMirror_keeps
    | with_reducible apply tellBook_keeps
    | with_reducible apply putFrame_keeps
    | with_reducible apply hbmCopy_keeps
    | with_reducible apply endMoves_keeps
    | with_reducible apply remap_keeps
    | with_reducible apply amendEntry_keeps
    | with_reducible apply invalidate_keeps
    | with_reducible apply ite_keeps
    | with_reducible apply foldl_keeps
    | with_reducible apply foldl_pair_keeps
    | split
    | rw [keeps_mk_iff]
    | dsimp only

theorem stackFrameLost_keeps (f : Nat) (r : FrameRec) (s : State) (h : Keeps q n s) :
    Keeps q n (stackFrameLost f r s) := by
  unfold stackFrameLost
  repeat' first
    | with_reducible assumption
    | with_reducible intro _
    | with_reducible apply keeps_parts
    | with_reducible apply rebuildCopy_keeps
    | with_reducible apply frameLost_keeps
    | with_reducible apply endMoves_keeps
    | with_reducible apply segFrameLost_keeps
    | with_reducible apply ite_keeps
    | with_reducible apply foldl_keeps
    | with_reducible apply foldl_pair_keeps
    | split
    | rw [keeps_mk_iff]
    | dsimp only

theorem rebuildMeta_keeps (stack : Nat) (s : State) (h : Keeps q n s) :
    Keeps q n (rebuildMeta stack s) := by
  unfold rebuildMeta
  repeat' first
    | with_reducible assumption
    | with_reducible intro _
    | with_reducible apply keeps_parts
    | with_reducible apply putFrame_keeps
    | with_reducible apply ite_keeps
    | with_reducible apply foldl_keeps
    | with_reducible apply foldl_pair_keeps
    | split
    | rw [keeps_mk_iff]
    | dsimp only

theorem failStack_keeps (stack : Nat) (s : State) (h : Keeps q n s) :
    Keeps q n (failStack stack s) := by
  unfold failStack
  repeat' first
    | with_reducible assumption
    | with_reducible intro _
    | with_reducible apply keeps_parts
    | with_reducible apply bumpEpoch_keeps
    | with_reducible apply stackFrameLost_keeps
    | with_reducible apply rebuildMeta_keeps
    | with_reducible apply ite_keeps
    | with_reducible apply foldl_keeps
    | with_reducible apply foldl_pair_keeps
    | split
    | rw [keeps_mk_iff]
    | dsimp only

theorem execStackFailed_keeps (stack : Nat) (s : State) (h : Keeps q n s) :
    Answers q n (execStackFailed stack s) := by
  unfold execStackFailed
  repeat' first
    | with_reducible assumption
    | with_reducible intro _
    | with_reducible apply keeps_parts
    | with_reducible apply onUnit_keeps
    | with_reducible apply failStack_keeps
    | with_reducible apply answers_next
    | with_reducible apply answers_fault
    | with_reducible apply answers_refused
    | with_reducible apply ite_answers
    | with_reducible apply ite_keeps
    | with_reducible apply foldl_keeps
    | with_reducible apply foldl_pair_keeps
    | split
    | rw [keeps_mk_iff]
    | dsimp only

theorem execFrameZeroed_keeps (frame : Nat) (s : State) (h : Keeps q n s) :
    Answers q n (execFrameZeroed frame s) := by
  unfold execFrameZeroed
  repeat' first
    | with_reducible assumption
    | with_reducible intro _
    | with_reducible apply keeps_parts
    | with_reducible apply wipeFrame_keeps
    | with_reducible apply retryAllocs_keeps
    | with_reducible apply answers_next
    | with_reducible apply answers_fault
    | with_reducible apply answers_refused
    | with_reducible apply ite_answers
    | with_reducible apply ite_keeps
    | with_reducible apply foldl_keeps
    | with_reducible apply foldl_pair_keeps
    | split
    | rw [keeps_mk_iff]
    | dsimp only

theorem execSliceRecordQuery_keeps (peer : Nat) (heat : Nat) (gfas : List Nat) (s : State) (h : Keeps q n s) :
    Answers q n (execSliceRecordQuery peer heat gfas s) := by
  unfold execSliceRecordQuery
  repeat' first
    | with_reducible assumption
    | with_reducible intro _
    | with_reducible apply keeps_parts
    | with_reducible apply emit_keeps
    | with_reducible apply answers_next
    | with_reducible apply answers_fault
    | with_reducible apply answers_refused
    | with_reducible apply ite_answers
    | with_reducible apply ite_keeps
    | with_reducible apply foldl_keeps
    | with_reducible apply foldl_pair_keeps
    | split
    | rw [keeps_mk_iff]
    | dsimp only

theorem execSliceRecordReply_keeps (peer : Nat) (gfa : Nat) (covers : Bool) (s : State) (h : Keeps q n s) :
    Answers q n (execSliceRecordReply peer gfa covers s) := by
  unfold execSliceRecordReply
  repeat' first
    | with_reducible assumption
    | with_reducible intro _
    | with_reducible apply keeps_parts
    | with_reducible apply finish_keeps
    | with_reducible apply performFree_keeps
    | with_reducible apply answers_next
    | with_reducible apply answers_fault
    | with_reducible apply answers_refused
    | with_reducible apply ite_answers
    | with_reducible apply ite_keeps
    | with_reducible apply foldl_keeps
    | with_reducible apply foldl_pair_keeps
    | split
    | rw [keeps_mk_iff]
    | dsimp only

theorem mirrorStore_keeps (p : Packet) (s : State) (h : Keeps q n s) :
    Keeps q n (mirrorStore p s) := by
  unfold mirrorStore
  repeat' first
    | with_reducible assumption
    | with_reducible intro _
    | with_reducible apply keeps_parts
    | with_reducible apply emit_keeps
    | with_reducible apply hbmWrite_keeps
    | with_reducible apply ite_keeps
    | with_reducible apply foldl_keeps
    | with_reducible apply foldl_pair_keeps
    | split
    | rw [keeps_mk_iff]
    | dsimp only

theorem execMirrorConfirm_keeps (src : Nat) (stream : Nat) (seq : Nat) (s : State) (h : Keeps q n s) :
    Answers q n (execMirrorConfirm src stream seq s) := by
  unfold execMirrorConfirm
  repeat' first
    | with_reducible assumption
    | with_reducible intro _
    | with_reducible apply keeps_parts
    | with_reducible apply endRequest_keeps
    | with_reducible apply answers_next
    | with_reducible apply answers_fault
    | with_reducible apply answers_refused
    | with_reducible apply ite_answers
    | with_reducible apply ite_keeps
    | with_reducible apply foldl_keeps
    | with_reducible apply foldl_pair_keeps
    | split
    | rw [keeps_mk_iff]
    | dsimp only

end Sys2Proof.Machine
end

