-- ==== Sys2Proof/Laws/KeepVec.lean ====
section
/-! SUPPORT. What the operations of Machine/Vec.lean keep: the queue, the clock and the canonical form of HBM and the registers. -/
namespace Sys2Proof.Machine

variable {q : List Instr} {n : Nat}

theorem modState_keeps (base : Nat) (f : UpdState → UpdState) (s : State) (h : Keeps q n s) :
    Keeps q n (modState base f s) := by
  unfold modState
  repeat' first
    | with_reducible assumption
    | with_reducible intro _
    | with_reducible apply keeps_parts
    | with_reducible apply ite_keeps
    | with_reducible apply foldl_keeps
    | with_reducible apply foldl_pair_keeps
    | split
    | rw [keeps_mk_iff]
    | dsimp only

end Sys2Proof.Machine
end

