-- ==== Sys2Proof/Laws/KeepTree.lean ====
section
/-! SUPPORT. What the operations of Machine/Tree.lean keep: the queue, the clock and the canonical form of HBM and the registers. -/
namespace Sys2Proof.Machine

variable {q : List Instr} {n : Nat}

theorem putTree_keeps (x0 : TreeEnt) (s : State) (h : Keeps q n s) :
    Keeps q n (putTree x0 s) := by
  unfold putTree
  repeat' first
    | with_reducible assumption
    | with_reducible intro _
    | with_reducible apply keeps_parts
    | with_reducible apply ite_keeps
    | with_reducible apply foldl_keeps
    | with_reducible apply foldl_pair_keeps
    | split
    | rw [keeps_mk_iff]
    | dsimp only

theorem freeUnusedTree_keeps (s : State) (h : Keeps q n s) :
    Keeps q n (freeUnusedTree s) := by
  unfold freeUnusedTree
  repeat' first
    | with_reducible assumption
    | with_reducible intro _
    | with_reducible apply keeps_parts
    | with_reducible apply ite_keeps
    | with_reducible apply foldl_keeps
    | with_reducible apply foldl_pair_keeps
    | split
    | rw [keeps_mk_iff]
    | dsimp only

theorem plantTree_keeps (heat : Nat) (l : List (Nat × TreeEnt)) (s : State) (h : Keeps q n s) :
    Keeps q n (plantTree heat l s) := by
  unfold plantTree
  repeat' first
    | with_reducible assumption
    | with_reducible intro _
    | with_reducible apply keeps_parts
    | with_reducible apply putTree_keeps
    | with_reducible apply noteBreach_keeps
    | with_reducible apply ite_keeps
    | with_reducible apply foldl_keeps
    | with_reducible apply foldl_pair_keeps
    | split
    | rw [keeps_mk_iff]
    | dsimp only

theorem obtainTree_keeps {heat : Nat} {dests : List Nat} {s : State} {v0 : ℕ} {t : State} (e : obtainTree heat dests s = some (v0, t)) (h : Keeps q n s) : Keeps q n t := by
  unfold obtainTree at e
  try dsimp only at e
  (repeat' split at e) <;> first | (cases e; done) | (injection e with e; injection e with _ e; subst e) | skip
  all_goals repeat' first
    | with_reducible assumption
    | with_reducible intro _
    | with_reducible apply keeps_parts
    | with_reducible apply freeUnusedTree_keeps
    | with_reducible apply plantTree_keeps
    | with_reducible apply emit_keeps
    | with_reducible apply ite_keeps
    | with_reducible apply foldl_keeps
    | with_reducible apply foldl_pair_keeps
    | split
    | rw [keeps_mk_iff]
    | dsimp only

theorem releaseTree_keeps (id : Nat) (s : State) (h : Keeps q n s) :
    Keeps q n (releaseTree id s) := by
  unfold releaseTree
  repeat' first
    | with_reducible assumption
    | with_reducible intro _
    | with_reducible apply keeps_parts
    | with_reducible apply ite_keeps
    | with_reducible apply foldl_keeps
    | with_reducible apply foldl_pair_keeps
    | split
    | rw [keeps_mk_iff]
    | dsimp only

theorem dropTree_keeps (id : Nat) (s : State) (h : Keeps q n s) :
    Keeps q n (dropTree id s) := by
  unfold dropTree
  repeat' first
    | with_reducible assumption
    | with_reducible intro _
    | with_reducible apply keeps_parts
    | with_reducible apply ite_keeps
    | with_reducible apply foldl_keeps
    | with_reducible apply foldl_pair_keeps
    | split
    | rw [keeps_mk_iff]
    | dsimp only

theorem pruneSets_keeps (gone : Nat → Bool) (s : State) (h : Keeps q n s) :
    Keeps q n (pruneSets gone s) := by
  unfold pruneSets
  repeat' first
    | with_reducible assumption
    | with_reducible intro _
    | with_reducible apply keeps_parts
    | with_reducible apply ite_keeps
    | with_reducible apply foldl_keeps
    | with_reducible apply foldl_pair_keeps
    | split
    | rw [keeps_mk_iff]
    | dsimp only

theorem pruneLeaf_keeps (ep : Nat) (s : State) (h : Keeps q n s) :
    Keeps q n (pruneLeaf ep s) := by
  unfold pruneLeaf
  repeat' first
    | with_reducible assumption
    | with_reducible intro _
    | with_reducible apply keeps_parts
    | with_reducible apply ite_keeps
    | with_reducible apply foldl_keeps
    | with_reducible apply foldl_pair_keeps
    | split
    | rw [keeps_mk_iff]
    | dsimp only

end Sys2Proof.Machine
end

