-- ==== Sys2Proof/Laws/KeepUpdate.lean ====
section
/-! SUPPORT. What the operations of Machine/Update.lean keep: the queue, the clock and the canonical form of HBM and the registers. -/
namespace Sys2Proof.Machine

variable {q : List Instr} {n : Nat}

theorem execUpdRuleSet_keeps (m : CmdMeta) (index : Nat) (entry : List Byte) (s : State) (h : Keeps q n s) :
    Answers q n (execUpdRuleSet m index entry s) := by
  unfold execUpdRuleSet
  repeat' first
    | with_reducible assumption
    | with_reducible intro _
    | with_reducible apply keeps_parts
    | with_reducible apply command_keeps
    | with_reducible apply refuse_keeps
    | with_reducible apply answer_keeps
    | with_reducible apply answers_next
    | with_reducible apply answers_fault
    | with_reducible apply answers_refused
    | with_reducible apply ite_answers
    | with_reducible apply ite_keeps
    | with_reducible apply foldl_keeps
    | with_reducible apply foldl_pair_keeps
    | split
    | rw [keeps_mk_iff]
    | dsimp only

theorem execUpdRuleRead_keeps (m : CmdMeta) (index : Nat) (s : State) (h : Keeps q n s) :
    Answers q n (execUpdRuleRead m index s) := by
  unfold execUpdRuleRead
  repeat' first
    | with_reducible assumption
    | with_reducible intro _
    | with_reducible apply keeps_parts
    | with_reducible apply command_keeps
    | with_reducible apply requires_keeps
    | with_reducible apply answer_keeps
    | with_reducible apply answers_next
    | with_reducible apply answers_fault
    | with_reducible apply answers_refused
    | with_reducible apply ite_answers
    | with_reducible apply ite_keeps
    | with_reducible apply foldl_keeps
    | with_reducible apply foldl_pair_keeps
    | split
    | rw [keeps_mk_iff]
    | dsimp only

theorem execUpdStateDefine_keeps (m : CmdMeta) (heat : Nat) (base : Nat) (elems : Nat) (kind : Nat) (slot : Nat) (x6 : Nat) (s : State) (h : Keeps q n s) :
    Answers q n (execUpdStateDefine m heat base elems kind slot x6 s) := by
  unfold execUpdStateDefine
  repeat' first
    | with_reducible assumption
    | with_reducible intro _
    | with_reducible apply keeps_parts
    | with_reducible apply command_keeps
    | with_reducible apply refuse_keeps
    | with_reducible apply answer_keeps
    | with_reducible apply answers_next
    | with_reducible apply answers_fault
    | with_reducible apply answers_refused
    | with_reducible apply ite_answers
    | with_reducible apply ite_keeps
    | with_reducible apply foldl_keeps
    | with_reducible apply foldl_pair_keeps
    | split
    | rw [keeps_mk_iff]
    | dsimp only

theorem execUpdStateMask_keeps (m : CmdMeta) (base : Nat) (region : Nat) (o : Nat) (x4 : Nat) (x5 : Nat) (kind : Nat) (bitmap : Nat) (s : State) (h : Keeps q n s) :
    Answers q n (execUpdStateMask m base region o x4 x5 kind bitmap s) := by
  unfold execUpdStateMask
  repeat' first
    | with_reducible assumption
    | with_reducible intro _
    | with_reducible apply keeps_parts
    | with_reducible apply command_keeps
    | with_reducible apply refuse_keeps
    | with_reducible apply answer_keeps
    | with_reducible apply modState_keeps
    | with_reducible apply answers_next
    | with_reducible apply answers_fault
    | with_reducible apply answers_refused
    | with_reducible apply ite_answers
    | with_reducible apply ite_keeps
    | with_reducible apply foldl_keeps
    | with_reducible apply foldl_pair_keeps
    | split
    | rw [keeps_mk_iff]
    | dsimp only

theorem execUpdStateQuery_keeps (m : CmdMeta) (base : Nat) (s : State) (h : Keeps q n s) :
    Answers q n (execUpdStateQuery m base s) := by
  unfold execUpdStateQuery
  repeat' first
    | with_reducible assumption
    | with_reducible intro _
    | with_reducible apply keeps_parts
    | with_reducible apply command_keeps
    | with_reducible apply refuse_keeps
    | with_reducible apply answer_keeps
    | with_reducible apply answers_next
    | with_reducible apply answers_fault
    | with_reducible apply answers_refused
    | with_reducible apply ite_answers
    | with_reducible apply ite_keeps
    | with_reducible apply foldl_keeps
    | with_reducible apply foldl_pair_keeps
    | split
    | rw [keeps_mk_iff]
    | dsimp only

theorem execUpdStateRevert_keeps (m : CmdMeta) (base : Nat) (s : State) (h : Keeps q n s) :
    Answers q n (execUpdStateRevert m base s) := by
  unfold execUpdStateRevert
  repeat' first
    | with_reducible assumption
    | with_reducible intro _
    | with_reducible apply keeps_parts
    | with_reducible apply command_keeps
    | with_reducible apply refuse_keeps
    | with_reducible apply answer_keeps
    | with_reducible apply incReg_keeps
    | with_reducible apply modState_keeps
    | with_reducible apply answers_next
    | with_reducible apply answers_fault
    | with_reducible apply answers_refused
    | with_reducible apply ite_answers
    | with_reducible apply ite_keeps
    | with_reducible apply foldl_keeps
    | with_reducible apply foldl_pair_keeps
    | split
    | rw [keeps_mk_iff]
    | dsimp only

theorem execUpdStateFree_keeps (m : CmdMeta) (base : Nat) (s : State) (h : Keeps q n s) :
    Answers q n (execUpdStateFree m base s) := by
  unfold execUpdStateFree
  repeat' first
    | with_reducible assumption
    | with_reducible intro _
    | with_reducible apply keeps_parts
    | with_reducible apply command_keeps
    | with_reducible apply refuse_keeps
    | with_reducible apply done_keeps
    | with_reducible apply answers_next
    | with_reducible apply answers_fault
    | with_reducible apply answers_refused
    | with_reducible apply ite_answers
    | with_reducible apply ite_keeps
    | with_reducible apply foldl_keeps
    | with_reducible apply foldl_pair_keeps
    | split
    | rw [keeps_mk_iff]
    | dsimp only

theorem execEmbTableDefine_keeps (m : CmdMeta) (heat : Nat) (base : Nat) (rows : Nat) (dim : Nat) (fmt : Nat) (kind : Nat) (buckets : Nat) (setIndex : Nat) (s : State) (h : Keeps q n s) :
    Answers q n (execEmbTableDefine m heat base rows dim fmt kind buckets setIndex s) := by
  unfold execEmbTableDefine
  repeat' first
    | with_reducible assumption
    | with_reducible intro _
    | with_reducible apply keeps_parts
    | with_reducible apply command_keeps
    | with_reducible apply refuse_keeps
    | with_reducible apply answer_keeps
    | with_reducible apply answers_next
    | with_reducible apply answers_fault
    | with_reducible apply answers_refused
    | with_reducible apply ite_answers
    | with_reducible apply ite_keeps
    | with_reducible apply foldl_keeps
    | with_reducible apply foldl_pair_keeps
    | split
    | rw [keeps_mk_iff]
    | dsimp only

theorem execEmbTableQuery_keeps (m : CmdMeta) (base : Nat) (s : State) (h : Keeps q n s) :
    Answers q n (execEmbTableQuery m base s) := by
  unfold execEmbTableQuery
  repeat' first
    | with_reducible assumption
    | with_reducible intro _
    | with_reducible apply keeps_parts
    | with_reducible apply command_keeps
    | with_reducible apply refuse_keeps
    | with_reducible apply answer_keeps
    | with_reducible apply answers_next
    | with_reducible apply answers_fault
    | with_reducible apply answers_refused
    | with_reducible apply ite_answers
    | with_reducible apply ite_keeps
    | with_reducible apply foldl_keeps
    | with_reducible apply foldl_pair_keeps
    | split
    | rw [keeps_mk_iff]
    | dsimp only

theorem execEmbTableFree_keeps (m : CmdMeta) (base : Nat) (s : State) (h : Keeps q n s) :
    Answers q n (execEmbTableFree m base s) := by
  unfold execEmbTableFree
  repeat' first
    | with_reducible assumption
    | with_reducible intro _
    | with_reducible apply keeps_parts
    | with_reducible apply command_keeps
    | with_reducible apply refuse_keeps
    | with_reducible apply done_keeps
    | with_reducible apply answers_next
    | with_reducible apply answers_fault
    | with_reducible apply answers_refused
    | with_reducible apply ite_answers
    | with_reducible apply ite_keeps
    | with_reducible apply foldl_keeps
    | with_reducible apply foldl_pair_keeps
    | split
    | rw [keeps_mk_iff]
    | dsimp only

theorem execUpdStats_keeps (m : CmdMeta) (s : State) (h : Keeps q n s) :
    Answers q n (execUpdStats m s) := by
  unfold execUpdStats
  repeat' first
    | with_reducible assumption
    | with_reducible intro _
    | with_reducible apply keeps_parts
    | with_reducible apply command_keeps
    | with_reducible apply answer_keeps
    | with_reducible apply answers_next
    | with_reducible apply answers_fault
    | with_reducible apply answers_refused
    | with_reducible apply ite_answers
    | with_reducible apply ite_keeps
    | with_reducible apply foldl_keeps
    | with_reducible apply foldl_pair_keeps
    | split
    | rw [keeps_mk_iff]
    | dsimp only

end Sys2Proof.Machine
end

