-- ==== Sys2Proof/Laws/KeepPour.lean ====
section
/-! SUPPORT. What the operations of Machine/Pour.lean keep: the queue, the clock and the canonical form of HBM and the registers. -/
namespace Sys2Proof.Machine

variable {q : List Instr} {n : Nat}

theorem modPour_keeps (heat : Nat) (pourId : Nat) (f : Pour → Pour) (s : State) (h : Keeps q n s) :
    Keeps q n (modPour heat pourId f s) := by
  unfold modPour
  repeat' first
    | with_reducible assumption
    | with_reducible intro _
    | with_reducible apply keeps_parts
    | with_reducible apply ite_keeps
    | with_reducible apply foldl_keeps
    | with_reducible apply foldl_pair_keeps
    | split
    | rw [keeps_mk_iff]
    | dsimp only

theorem putChunk_keeps (heat : Nat) (pourId : Nat) (c : Nat) (x3 : Chunk) (s : State) (h : Keeps q n s) :
    Keeps q n (putChunk heat pourId c x3 s) := by
  unfold putChunk
  repeat' first
    | with_reducible assumption
    | with_reducible intro _
    | with_reducible apply keeps_parts
    | with_reducible apply modPour_keeps
    | with_reducible apply ite_keeps
    | with_reducible apply foldl_keeps
    | with_reducible apply foldl_pair_keeps
    | split
    | rw [keeps_mk_iff]
    | dsimp only

theorem placeChunk_keeps (c : Nat) (x1 : Chunk) (s : State) (h : Keeps q n s) :
    Keeps q n (placeChunk c x1 s).2 := by
  unfold placeChunk
  repeat' first
    | with_reducible assumption
    | with_reducible intro _
    | with_reducible apply keeps_parts
    | with_reducible apply wakeBay_keeps
    | with_reducible apply ite_keeps
    | with_reducible apply foldl_keeps
    | with_reducible apply foldl_pair_keeps
    | split
    | rw [keeps_mk_iff]
    | dsimp only

theorem placeChunk_keeps_eq {c : Nat} {x1 : Chunk} {s : State} {v : Chunk} {t : State} (e : placeChunk c x1 s = (v, t)) (h : Keeps q n s) : Keeps q n t := by
  have h := placeChunk_keeps c x1 s h (q := q) (n := n)
  rw [e] at h; exact h

theorem markSpill_keeps (p : Pour) (s : State) (h : Keeps q n s) :
    Keeps q n (markSpill p s) := by
  unfold markSpill
  repeat' first
    | with_reducible assumption
    | with_reducible intro _
    | with_reducible apply keeps_parts
    | with_reducible apply modPour_keeps
    | with_reducible apply incReg_keeps
    | with_reducible apply markCtxs_keeps
    | with_reducible apply ite_keeps
    | with_reducible apply foldl_keeps
    | with_reducible apply foldl_pair_keeps
    | split
    | rw [keeps_mk_iff]
    | dsimp only

theorem moreSlots_keeps {p : Pour} {x1 : Nat} {old : Chunk} {x3 : Chunk} {s : State} {v0 : Chunk} {t : State} (e : moreSlots p x1 old x3 s = some (v0, t)) (h : Keeps q n s) : Keeps q n t := by
  unfold moreSlots at e
  try dsimp only at e
  (repeat' split at e) <;> first | (cases e; done) | (injection e with e; injection e with _ e; subst e) | skip
  all_goals repeat' first
    | with_reducible assumption
    | with_reducible intro _
    | with_reducible apply keeps_parts
    | with_reducible apply markSpill_keeps
    | with_reducible apply ite_keeps
    | with_reducible apply foldl_keeps
    | with_reducible apply foldl_pair_keeps
    | split
    | rw [keeps_mk_iff]
    | dsimp only

theorem openChunk_keeps {p : Pour} {c : Nat} {s : State} {v0 : Chunk} {t : State} (e : openChunk p c s = some (v0, t)) (h : Keeps q n s) : Keeps q n t := by
  unfold openChunk at e
  try dsimp only at e
  (repeat' split at e) <;> first | (cases e; done) | (injection e with e; injection e with _ e; subst e) | skip
  all_goals repeat' first
    | with_reducible assumption
    | with_reducible intro _
    | with_reducible apply keeps_parts
    | with_reducible refine moreSlots_keeps (by assumption) ?_
    | with_reducible apply wakeBay_keeps
    | with_reducible apply ite_keeps
    | with_reducible apply foldl_keeps
    | with_reducible apply foldl_pair_keeps
    | split
    | rw [keeps_mk_iff]
    | dsimp only

theorem sendPour_keeps (p : Pour) (useTree : Bool) (dests : List Nat) (c : Nat) (x : Packet) (s : State) (h : Keeps q n s) :
    Keeps q n (sendPour p useTree dests c x s) := by
  unfold sendPour
  repeat' first
    | with_reducible assumption
    | with_reducible intro _
    | with_reducible apply keeps_parts
    | with_reducible apply sendFrom_keeps
    | with_reducible apply ite_keeps
    | with_reducible apply foldl_keeps
    | with_reducible apply foldl_pair_keeps
    | split
    | rw [keeps_mk_iff]
    | dsimp only

theorem releaseChunk_keeps (p : Pour) (c : Nat) (s : State) (h : Keeps q n s) :
    Keeps q n (releaseChunk p c s) := by
  unfold releaseChunk
  repeat' first
    | with_reducible assumption
    | with_reducible intro _
    | with_reducible apply keeps_parts
    | with_reducible apply putChunk_keeps
    | with_reducible apply sendPour_keeps
    | with_reducible apply ite_keeps
    | with_reducible apply foldl_keeps
    | with_reducible apply foldl_pair_keeps
    | split
    | rw [keeps_mk_iff]
    | dsimp only

theorem releaseAll_keeps (heat : Nat) (pourId : Nat) (s : State) (h : Keeps q n s) :
    Keeps q n (releaseAll heat pourId s) := by
  unfold releaseAll
  repeat' first
    | with_reducible assumption
    | with_reducible intro _
    | with_reducible apply keeps_parts
    | with_reducible apply releaseChunk_keeps
    | with_reducible apply ite_keeps
    | with_reducible apply foldl_keeps
    | with_reducible apply foldl_pair_keeps
    | split
    | rw [keeps_mk_iff]
    | dsimp only

theorem definitionLeaves_keeps (p : Pour) (s : State) (h : Keeps q n s) :
    Keeps q n (definitionLeaves p s) := by
  unfold definitionLeaves
  repeat' first
    | with_reducible assumption
    | with_reducible intro _
    | with_reducible apply keeps_parts
    | with_reducible apply leaf_keeps
    | with_reducible apply ite_keeps
    | with_reducible apply foldl_keeps
    | with_reducible apply foldl_pair_keeps
    | split
    | rw [keeps_mk_iff]
    | dsimp only

theorem dropSpill_keeps (k : Nat) (s : State) (h : Keeps q n s) : Keeps q n (dropSpill k s) := by
  induction k generalizing s with
  | zero => exact h
  | succ k ih =>
    unfold dropSpill
    split
    · exact h
    · exact ih _ (keeps_parts (releaseFrame_keeps _ s h))

theorem trimSpill_keeps (s : State) (h : Keeps q n s) :
    Keeps q n (trimSpill s) := by
  unfold trimSpill
  repeat' first
    | with_reducible assumption
    | with_reducible intro _
    | with_reducible apply keeps_parts
    | with_reducible apply dropSpill_keeps
    | with_reducible apply ite_keeps
    | with_reducible apply foldl_keeps
    | with_reducible apply foldl_pair_keeps
    | split
    | rw [keeps_mk_iff]
    | dsimp only

theorem tombstone_keeps (heat : Nat) (pourId : Nat) (state : Nat) (status : Nat) (cause : Nat) (s : State) (h : Keeps q n s) :
    Keeps q n (tombstone heat pourId state status cause s) := by
  unfold tombstone
  repeat' first
    | with_reducible assumption
    | with_reducible intro _
    | with_reducible apply keeps_parts
    | with_reducible apply spanWrite_keeps
    | with_reducible apply releaseTree_keeps
    | with_reducible apply modPour_keeps
    | with_reducible apply trimSpill_keeps
    | with_reducible apply ite_keeps
    | with_reducible apply foldl_keeps
    | with_reducible apply foldl_pair_keeps
    | split
    | rw [keeps_mk_iff]
    | dsimp only

theorem endPour_keeps (heat : Nat) (pourId : Nat) (s : State) (h : Keeps q n s) :
    Keeps q n (endPour heat pourId s) := by
  unfold endPour
  repeat' first
    | with_reducible assumption
    | with_reducible intro _
    | with_reducible apply keeps_parts
    | with_reducible apply sendPour_keeps
    | with_reducible apply emitCtl_keeps
    | with_reducible apply leaf_keeps
    | with_reducible apply finishOpt_keeps
    | with_reducible apply tombstone_keeps
    | with_reducible apply ite_keeps
    | with_reducible apply foldl_keeps
    | with_reducible apply foldl_pair_keeps
    | split
    | rw [keeps_mk_iff]
    | dsimp only

theorem failPour_keeps (heat : Nat) (pourId : Nat) (status : Nat) (cause : Nat) (endp : Nat) (s : State) (h : Keeps q n s) :
    Keeps q n (failPour heat pourId status cause endp s) := by
  unfold failPour
  repeat' first
    | with_reducible assumption
    | with_reducible intro _
    | with_reducible apply keeps_parts
    | with_reducible apply logEvent_keeps
    | with_reducible apply emit_keeps
    | with_reducible apply modPour_keeps
    | with_reducible apply emitCtl_keeps
    | with_reducible apply trimSpill_keeps
    | with_reducible apply endPour_keeps
    | with_reducible apply ite_keeps
    | with_reducible apply foldl_keeps
    | with_reducible apply foldl_pair_keeps
    | split
    | rw [keeps_mk_iff]
    | dsimp only

theorem applyRow_keeps (j : RowJob) (x1 : EmbTable) (row : Nat) (gs : List Nat) (s : State) (h : Keeps q n s) :
    Keeps q n (applyRow j x1 row gs s).2 := by
  unfold applyRow
  repeat' first
    | with_reducible assumption
    | with_reducible intro _
    | with_reducible apply keeps_parts
    | with_reducible apply spanWrite_keeps
    | with_reducible apply incReg_keeps
    | with_reducible apply raiseSomewhere_keeps
    | with_reducible apply ite_keeps
    | with_reducible apply foldl_keeps
    | with_reducible apply foldl_pair_keeps
    | split
    | rw [keeps_mk_iff]
    | dsimp only

theorem applyRow_keeps_eq {j : RowJob} {x1 : EmbTable} {row : Nat} {gs : List Nat} {s : State} {v : AFlags} {t : State} (e : applyRow j x1 row gs s = (v, t)) (h : Keeps q n s) : Keeps q n t := by
  have h := applyRow_keeps j x1 row gs s h (q := q) (n := n)
  rw [e] at h; exact h

theorem logAccess_keeps (g : Nat) (s : State) (h : Keeps q n s) :
    Keeps q n (logAccess g s) := by
  unfold logAccess
  repeat' first
    | with_reducible assumption
    | with_reducible intro _
    | with_reducible apply keeps_parts
    | with_reducible apply logEvent_keeps
    | with_reducible apply ite_keeps
    | with_reducible apply foldl_keeps
    | with_reducible apply foldl_pair_keeps
    | split
    | rw [keeps_mk_iff]
    | dsimp only

theorem failAccesses_keeps (heat : Nat) (pourId : Nat) (gs : List Nat) (s : State) (h : Keeps q n s) :
    Keeps q n (failAccesses heat pourId gs s) := by
  unfold failAccesses
  repeat' first
    | with_reducible assumption
    | with_reducible intro _
    | with_reducible apply keeps_parts
    | with_reducible apply logAccess_keeps
    | with_reducible apply failPour_keeps
    | with_reducible apply ite_keeps
    | with_reducible apply foldl_keeps
    | with_reducible apply foldl_pair_keeps
    | split
    | rw [keeps_mk_iff]
    | dsimp only

theorem rowHere_keeps (p : Pour) (x1 : EmbTable) (row : Nat) (gs : List Nat) (s : State) (h : Keeps q n s) :
    Keeps q n (rowHere p x1 row gs s) := by
  unfold rowHere
  repeat' first
    | with_reducible assumption
    | with_reducible intro _
    | with_reducible apply keeps_parts
    | with_reducible apply failAccesses_keeps
    | with_reducible apply applyRow_keeps
    | with_reducible refine applyRow_keeps_eq (by assumption) ?_
    | with_reducible apply modPour_keeps
    | with_reducible apply ite_keeps
    | with_reducible apply foldl_keeps
    | with_reducible apply foldl_pair_keeps
    | split
    | rw [keeps_mk_iff]
    | dsimp only

theorem sendRow_keeps (p : Pour) (x1 : EmbTable) (row : Nat) (gs : List Nat) (s : State) (h : Keeps q n s) :
    Keeps q n (sendRow p x1 row gs s) := by
  unfold sendRow
  repeat' first
    | with_reducible assumption
    | with_reducible intro _
    | with_reducible apply keeps_parts
    | with_reducible apply rowHere_keeps
    | with_reducible apply emit_keeps
    | with_reducible apply modPour_keeps
    | with_reducible apply ite_keeps
    | with_reducible apply foldl_keeps
    | with_reducible apply foldl_pair_keeps
    | split
    | rw [keeps_mk_iff]
    | dsimp only

theorem flipState_keeps (p : Pour) (s : State) (h : Keeps q n s) :
    Keeps q n (flipState p s) := by
  unfold flipState
  repeat' first
    | with_reducible assumption
    | with_reducible intro _
    | with_reducible apply keeps_parts
    | with_reducible apply modState_keeps
    | with_reducible apply incReg_keeps
    | with_reducible apply ite_keeps
    | with_reducible apply foldl_keeps
    | with_reducible apply foldl_pair_keeps
    | split
    | rw [keeps_mk_iff]
    | dsimp only

theorem commitHere_keeps (heat : Nat) (pourId : Nat) (s : State) (h : Keeps q n s) :
    Keeps q n (commitHere heat pourId s) := by
  unfold commitHere
  repeat' first
    | with_reducible assumption
    | with_reducible intro _
    | with_reducible apply keeps_parts
    | with_reducible apply modPour_keeps
    | with_reducible apply definitionLeaves_keeps
    | with_reducible apply flipState_keeps
    | with_reducible apply sendRow_keeps
    | with_reducible apply releaseAll_keeps
    | with_reducible apply ite_keeps
    | with_reducible apply foldl_keeps
    | with_reducible apply foldl_pair_keeps
    | split
    | rw [keeps_mk_iff]
    | dsimp only

theorem settleChunks_keeps (heat : Nat) (pourId : Nat) (s : State) (h : Keeps q n s) :
    Keeps q n (settleChunks heat pourId s) := by
  unfold settleChunks
  repeat' first
    | with_reducible assumption
    | with_reducible intro _
    | with_reducible apply keeps_parts
    | with_reducible apply trimSpill_keeps
    | with_reducible apply modPour_keeps
    | with_reducible apply ite_keeps
    | with_reducible apply foldl_keeps
    | with_reducible apply foldl_pair_keeps
    | split
    | rw [keeps_mk_iff]
    | dsimp only

theorem settleOne_keeps (heat : Nat) (pourId : Nat) (s : State) (h : Keeps q n s) :
    Keeps q n (settleOne heat pourId s) := by
  unfold settleOne
  repeat' first
    | with_reducible assumption
    | with_reducible intro _
    | with_reducible apply keeps_parts
    | with_reducible apply settleChunks_keeps
    | with_reducible apply emit_keeps
    | with_reducible apply modPour_keeps
    | with_reducible apply endPour_keeps
    | with_reducible apply ite_keeps
    | with_reducible apply foldl_keeps
    | with_reducible apply foldl_pair_keeps
    | split
    | rw [keeps_mk_iff]
    | dsimp only

theorem settlePours_keeps (s : State) (h : Keeps q n s) :
    Keeps q n (settlePours s) := by
  unfold settlePours
  repeat' first
    | with_reducible assumption
    | with_reducible intro _
    | with_reducible apply keeps_parts
    | with_reducible apply settleOne_keeps
    | with_reducible apply ite_keeps
    | with_reducible apply foldl_keeps
    | with_reducible apply foldl_pair_keeps
    | split
    | rw [keeps_mk_iff]
    | dsimp only

theorem missDeadline_keeps (heat : Nat) (pourId : Nat) (s : State) (h : Keeps q n s) :
    Keeps q n (missDeadline heat pourId s) := by
  unfold missDeadline
  repeat' first
    | with_reducible assumption
    | with_reducible intro _
    | with_reducible apply keeps_parts
    | with_reducible apply failPour_keeps
    | with_reducible apply logEvent_keeps
    | with_reducible apply ite_keeps
    | with_reducible apply foldl_keeps
    | with_reducible apply foldl_pair_keeps
    | split
    | rw [keeps_mk_iff]
    | dsimp only

theorem markMember_keeps (heat : Nat) (pourId : Nat) (m : Nat) (s : State) (h : Keeps q n s) :
    Keeps q n (markMember heat pourId m s) := by
  unfold markMember
  repeat' first
    | with_reducible assumption
    | with_reducible intro _
    | with_reducible apply keeps_parts
    | with_reducible apply modPour_keeps
    | with_reducible apply ite_keeps
    | with_reducible apply foldl_keeps
    | with_reducible apply foldl_pair_keeps
    | split
    | rw [keeps_mk_iff]
    | dsimp only

theorem tryCommit_keeps (heat : Nat) (pourId : Nat) (s : State) (h : Keeps q n s) :
    Keeps q n (tryCommit heat pourId s) := by
  unfold tryCommit
  repeat' first
    | with_reducible assumption
    | with_reducible intro _
    | with_reducible apply keeps_parts
    | with_reducible apply missDeadline_keeps
    | with_reducible apply emitCtl_keeps
    | with_reducible apply markMember_keeps
    | with_reducible apply modPour_keeps
    | with_reducible apply settleOne_keeps
    | with_reducible apply commitHere_keeps
    | with_reducible apply ite_keeps
    | with_reducible apply foldl_keeps
    | with_reducible apply foldl_pair_keeps
    | split
    | rw [keeps_mk_iff]
    | dsimp only

theorem noteRounding_keeps (heat : Nat) (pourId : Nat) (s : State) (h : Keeps q n s) :
    Keeps q n (noteRounding heat pourId s) := by
  unfold noteRounding
  repeat' first
    | with_reducible assumption
    | with_reducible intro _
    | with_reducible apply keeps_parts
    | with_reducible apply modPour_keeps
    | with_reducible apply ite_keeps
    | with_reducible apply foldl_keeps
    | with_reducible apply foldl_pair_keeps
    | split
    | rw [keeps_mk_iff]
    | dsimp only

theorem tryRoundDone_keeps (heat : Nat) (pourId : Nat) (s : State) (h : Keeps q n s) :
    Keeps q n (tryRoundDone heat pourId s) := by
  unfold tryRoundDone
  repeat' first
    | with_reducible assumption
    | with_reducible intro _
    | with_reducible apply keeps_parts
    | with_reducible apply modPour_keeps
    | with_reducible apply tryCommit_keeps
    | with_reducible apply noteRounding_keeps
    | with_reducible apply emit_keeps
    | with_reducible apply ite_keeps
    | with_reducible apply foldl_keeps
    | with_reducible apply foldl_pair_keeps
    | split
    | rw [keeps_mk_iff]
    | dsimp only

theorem sendContrib_keeps (p : Pour) (bytes : List Byte) (s : State) (h : Keeps q n s) :
    Keeps q n (sendContrib p bytes s) := by
  unfold sendContrib
  repeat' first
    | with_reducible assumption
    | with_reducible intro _
    | with_reducible apply keeps_parts
    | with_reducible apply sendFrom_keeps
    | with_reducible apply ite_keeps
    | with_reducible apply foldl_keeps
    | with_reducible apply foldl_pair_keeps
    | split
    | rw [keeps_mk_iff]
    | dsimp only

theorem tryContribute_keeps (heat : Nat) (pourId : Nat) (s : State) (h : Keeps q n s) :
    Keeps q n (tryContribute heat pourId s) := by
  unfold tryContribute
  repeat' first
    | with_reducible assumption
    | with_reducible intro _
    | with_reducible apply keeps_parts
    | with_reducible apply sendContrib_keeps
    | with_reducible apply modPour_keeps
    | with_reducible apply failPour_keeps
    | with_reducible apply ite_keeps
    | with_reducible apply foldl_keeps
    | with_reducible apply foldl_pair_keeps
    | split
    | rw [keeps_mk_iff]
    | dsimp only

theorem contributeAll_keeps (s : State) (h : Keeps q n s) :
    Keeps q n (contributeAll s) := by
  unfold contributeAll
  repeat' first
    | with_reducible assumption
    | with_reducible intro _
    | with_reducible apply keeps_parts
    | with_reducible apply tryContribute_keeps
    | with_reducible apply ite_keeps
    | with_reducible apply foldl_keeps
    | with_reducible apply foldl_pair_keeps
    | split
    | rw [keeps_mk_iff]
    | dsimp only

theorem refitChunk_keeps (p : Pour) (c : Nat) (s : State) (h : Keeps q n s) :
    Keeps q n (refitChunk p c s) := by
  unfold refitChunk
  repeat' first
    | with_reducible assumption
    | with_reducible intro _
    | with_reducible apply keeps_parts
    | with_reducible apply putChunk_keeps
    | with_reducible apply markSpill_keeps
    | with_reducible apply ite_keeps
    | with_reducible apply foldl_keeps
    | with_reducible apply foldl_pair_keeps
    | split
    | rw [keeps_mk_iff]
    | dsimp only

theorem refitChunks_keeps (heat : Nat) (pourId : Nat) (s : State) (h : Keeps q n s) :
    Keeps q n (refitChunks heat pourId s) := by
  unfold refitChunks
  repeat' first
    | with_reducible assumption
    | with_reducible intro _
    | with_reducible apply keeps_parts
    | with_reducible apply refitChunk_keeps
    | with_reducible apply ite_keeps
    | with_reducible apply foldl_keeps
    | with_reducible apply foldl_pair_keeps
    | split
    | rw [keeps_mk_iff]
    | dsimp only

theorem openHere_keeps (heat : Nat) (pourId : Nat) (p1 : Bool) (s : State) (h : Keeps q n s) :
    Keeps q n (openHere heat pourId p1 s) := by
  unfold openHere
  repeat' first
    | with_reducible assumption
    | with_reducible intro _
    | with_reducible apply keeps_parts
    | with_reducible apply modPour_keeps
    | with_reducible apply modCtx_keeps
    | with_reducible apply refitChunks_keeps
    | with_reducible apply placeChunk_keeps
    | with_reducible refine placeChunk_keeps_eq (by assumption) ?_
    | with_reducible apply putChunk_keeps
    | with_reducible apply releaseAll_keeps
    | with_reducible apply tryRoundDone_keeps
    | with_reducible apply noteRounding_keeps
    | with_reducible apply tryContribute_keeps
    | with_reducible apply ite_keeps
    | with_reducible apply foldl_keeps
    | with_reducible apply foldl_pair_keeps
    | split
    | rw [keeps_mk_iff]
    | dsimp only

theorem tryOpen_keeps (heat : Nat) (pourId : Nat) (s : State) (h : Keeps q n s) :
    Keeps q n (tryOpen heat pourId s) := by
  unfold tryOpen
  repeat' first
    | with_reducible assumption
    | with_reducible intro _
    | with_reducible apply keeps_parts
    | with_reducible apply modPour_keeps
    | with_reducible apply openHere_keeps
    | with_reducible apply emitCtl_keeps
    | with_reducible apply ite_keeps
    | with_reducible apply foldl_keeps
    | with_reducible apply foldl_pair_keeps
    | split
    | rw [keeps_mk_iff]
    | dsimp only

theorem fencedMember_keeps (heat : Nat) (pourId : Nat) (m : Nat) (x3 : Nat) (s : State) (h : Keeps q n s) :
    Keeps q n (fencedMember heat pourId m x3 s) := by
  unfold fencedMember
  repeat' first
    | with_reducible assumption
    | with_reducible intro _
    | with_reducible apply keeps_parts
    | with_reducible apply markMember_keeps
    | with_reducible apply failPour_keeps
    | with_reducible apply emitCtl_keeps
    | with_reducible apply modPour_keeps
    | with_reducible apply ite_keeps
    | with_reducible apply foldl_keeps
    | with_reducible apply foldl_pair_keeps
    | split
    | rw [keeps_mk_iff]
    | dsimp only

theorem fenceSets_keeps (hit : Nat → Bool) (heat : Nat) (pourId : Nat) (s : State) (h : Keeps q n s) :
    Keeps q n (fenceSets hit heat pourId s) := by
  unfold fenceSets
  repeat' first
    | with_reducible assumption
    | with_reducible intro _
    | with_reducible apply keeps_parts
    | with_reducible apply modPour_keeps
    | with_reducible apply fencedMember_keeps
    | with_reducible apply ite_keeps
    | with_reducible apply foldl_keeps
    | with_reducible apply foldl_pair_keeps
    | split
    | rw [keeps_mk_iff]
    | dsimp only

theorem noteRegistered_keeps (b : List Byte) (s : State) (h : Keeps q n s) :
    Keeps q n (noteRegistered b s) := by
  unfold noteRegistered
  repeat' first
    | with_reducible assumption
    | with_reducible intro _
    | with_reducible apply keeps_parts
    | with_reducible apply modState_keeps
    | with_reducible apply ite_keeps
    | with_reducible apply foldl_keeps
    | with_reducible apply foldl_pair_keeps
    | split
    | rw [keeps_mk_iff]
    | dsimp only

theorem takeHome_keeps {p : Pour} {s : State} {t : State} (e : takeHome p s = some t) (h : Keeps q n s) : Keeps q n t := by
  unfold takeHome at e
  try dsimp only at e
  (repeat' split at e) <;> first | (cases e; done) | (injection e with e; subst e) | skip
  all_goals repeat' first
    | with_reducible assumption
    | with_reducible intro _
    | with_reducible apply keeps_parts
    | with_reducible apply noteRegistered_keeps
    | with_reducible refine obtainTree_keeps (by assumption) ?_
    | with_reducible apply ite_keeps
    | with_reducible apply foldl_keeps
    | with_reducible apply foldl_pair_keeps
    | split
    | rw [keeps_mk_iff]
    | dsimp only

theorem registerLeaves_keeps (b : List Byte) (step : Nat) (s : State) (h : Keeps q n s) :
    Keeps q n (registerLeaves b step s) := by
  unfold registerLeaves
  repeat' first
    | with_reducible assumption
    | with_reducible intro _
    | with_reducible apply keeps_parts
    | with_reducible apply stepLeaf_keeps
    | with_reducible apply leaf_keeps
    | with_reducible apply ite_keeps
    | with_reducible apply foldl_keeps
    | with_reducible apply foldl_pair_keeps
    | split
    | rw [keeps_mk_iff]
    | dsimp only

theorem registerLead_keeps (b : List Byte) (c : CmdRef) (s : State) (h : Keeps q n s) :
    Keeps q n (registerLead b c s) := by
  unfold registerLead
  repeat' first
    | with_reducible assumption
    | with_reducible intro _
    | with_reducible apply keeps_parts
    | with_reducible apply registerLeaves_keeps
    | with_reducible apply emitCtl_keeps
    | with_reducible refine takeHome_keeps (by assumption) ?_
    | with_reducible apply failPour_keeps
    | with_reducible apply tryOpen_keeps
    | with_reducible apply fenceSets_keeps
    | with_reducible apply logEvent_keeps
    | with_reducible apply incReg_keeps
    | with_reducible apply ite_keeps
    | with_reducible apply foldl_keeps
    | with_reducible apply foldl_pair_keeps
    | split
    | rw [keeps_mk_iff]
    | dsimp only

theorem execPourRegister_keeps (m : CmdMeta) (desc : List Byte) (s : State) (h : Keeps q n s) :
    Answers q n (execPourRegister m desc s) := by
  unfold execPourRegister
  repeat' first
    | with_reducible assumption
    | with_reducible intro _
    | with_reducible apply keeps_parts
    | with_reducible apply command_keeps
    | with_reducible apply answer_keeps
    | with_reducible apply accept_keeps
    | with_reducible apply registerLead_keeps
    | with_reducible apply answers_next
    | with_reducible apply answers_fault
    | with_reducible apply answers_refused
    | with_reducible apply ite_answers
    | with_reducible apply ite_keeps
    | with_reducible apply foldl_keeps
    | with_reducible apply foldl_pair_keeps
    | split
    | rw [keeps_mk_iff]
    | dsimp only

theorem execPourAbort_keeps (m : CmdMeta) (heat : Nat) (pourId : Nat) (s : State) (h : Keeps q n s) :
    Answers q n (execPourAbort m heat pourId s) := by
  unfold execPourAbort
  repeat' first
    | with_reducible assumption
    | with_reducible intro _
    | with_reducible apply keeps_parts
    | with_reducible apply command_keeps
    | with_reducible apply refuse_keeps
    | with_reducible apply done_keeps
    | with_reducible apply failPour_keeps
    | with_reducible apply answers_next
    | with_reducible apply answers_fault
    | with_reducible apply answers_refused
    | with_reducible apply ite_answers
    | with_reducible apply ite_keeps
    | with_reducible apply foldl_keeps
    | with_reducible apply foldl_pair_keeps
    | split
    | rw [keeps_mk_iff]
    | dsimp only

theorem execPourQuery_keeps (m : CmdMeta) (heat : Nat) (pourId : Nat) (s : State) (h : Keeps q n s) :
    Answers q n (execPourQuery m heat pourId s) := by
  unfold execPourQuery
  repeat' first
    | with_reducible assumption
    | with_reducible intro _
    | with_reducible apply keeps_parts
    | with_reducible apply command_keeps
    | with_reducible apply refuse_keeps
    | with_reducible apply answer_keeps
    | with_reducible apply answers_next
    | with_reducible apply answers_fault
    | with_reducible apply answers_refused
    | with_reducible apply ite_answers
    | with_reducible apply ite_keeps
    | with_reducible apply foldl_keeps
    | with_reducible apply foldl_pair_keeps
    | split
    | rw [keeps_mk_iff]
    | dsimp only

theorem execPourFenceMap_keeps (m : CmdMeta) (heat : Nat) (pourId : Nat) (select : Nat) (s : State) (h : Keeps q n s) :
    Answers q n (execPourFenceMap m heat pourId select s) := by
  unfold execPourFenceMap
  repeat' first
    | with_reducible assumption
    | with_reducible intro _
    | with_reducible apply keeps_parts
    | with_reducible apply command_keeps
    | with_reducible apply refuse_keeps
    | with_reducible apply answer_keeps
    | with_reducible apply answers_next
    | with_reducible apply answers_fault
    | with_reducible apply answers_refused
    | with_reducible apply ite_answers
    | with_reducible apply ite_keeps
    | with_reducible apply foldl_keeps
    | with_reducible apply foldl_pair_keeps
    | split
    | rw [keeps_mk_iff]
    | dsimp only

theorem putSet_keeps (i : Nat) (x1 : MSet) (s : State) (h : Keeps q n s) :
    Keeps q n (putSet i x1 s) := by
  unfold putSet
  repeat' first
    | with_reducible assumption
    | with_reducible intro _
    | with_reducible apply keeps_parts
    | with_reducible apply ite_keeps
    | with_reducible apply foldl_keeps
    | with_reducible apply foldl_pair_keeps
    | split
    | rw [keeps_mk_iff]
    | dsimp only

theorem execMsetBegin_keeps (m : CmdMeta) (index : Nat) (count : Nat) (s : State) (h : Keeps q n s) :
    Answers q n (execMsetBegin m index count s) := by
  unfold execMsetBegin
  repeat' first
    | with_reducible assumption
    | with_reducible intro _
    | with_reducible apply keeps_parts
    | with_reducible apply command_keeps
    | with_reducible apply refuse_keeps
    | with_reducible apply done_keeps
    | with_reducible apply putSet_keeps
    | with_reducible apply answers_next
    | with_reducible apply answers_fault
    | with_reducible apply answers_refused
    | with_reducible apply ite_answers
    | with_reducible apply ite_keeps
    | with_reducible apply foldl_keeps
    | with_reducible apply foldl_pair_keeps
    | split
    | rw [keeps_mk_iff]
    | dsimp only

theorem execMsetWrite_keeps (m : CmdMeta) (index : Nat) (first : Nat) (entries : List Nat) (s : State) (h : Keeps q n s) :
    Answers q n (execMsetWrite m index first entries s) := by
  unfold execMsetWrite
  repeat' first
    | with_reducible assumption
    | with_reducible intro _
    | with_reducible apply keeps_parts
    | with_reducible apply command_keeps
    | with_reducible apply refuse_keeps
    | with_reducible apply done_keeps
    | with_reducible apply putSet_keeps
    | with_reducible apply answers_next
    | with_reducible apply answers_fault
    | with_reducible apply answers_refused
    | with_reducible apply ite_answers
    | with_reducible apply ite_keeps
    | with_reducible apply foldl_keeps
    | with_reducible apply foldl_pair_keeps
    | split
    | rw [keeps_mk_iff]
    | dsimp only

theorem execMsetSeal_keeps (m : CmdMeta) (index : Nat) (kind : Nat) (s : State) (h : Keeps q n s) :
    Answers q n (execMsetSeal m index kind s) := by
  unfold execMsetSeal
  repeat' first
    | with_reducible assumption
    | with_reducible intro _
    | with_reducible apply keeps_parts
    | with_reducible apply command_keeps
    | with_reducible apply refuse_keeps
    | with_reducible apply answer_keeps
    | with_reducible apply putSet_keeps
    | with_reducible apply answers_next
    | with_reducible apply answers_fault
    | with_reducible apply answers_refused
    | with_reducible apply ite_answers
    | with_reducible apply ite_keeps
    | with_reducible apply foldl_keeps
    | with_reducible apply foldl_pair_keeps
    | split
    | rw [keeps_mk_iff]
    | dsimp only

theorem execMsetFree_keeps (m : CmdMeta) (index : Nat) (s : State) (h : Keeps q n s) :
    Answers q n (execMsetFree m index s) := by
  unfold execMsetFree
  repeat' first
    | with_reducible assumption
    | with_reducible intro _
    | with_reducible apply keeps_parts
    | with_reducible apply command_keeps
    | with_reducible apply refuse_keeps
    | with_reducible apply done_keeps
    | with_reducible apply answers_next
    | with_reducible apply answers_fault
    | with_reducible apply answers_refused
    | with_reducible apply ite_answers
    | with_reducible apply ite_keeps
    | with_reducible apply foldl_keeps
    | with_reducible apply foldl_pair_keeps
    | split
    | rw [keeps_mk_iff]
    | dsimp only

theorem execMsetRead_keeps (m : CmdMeta) (index : Nat) (first : Nat) (s : State) (h : Keeps q n s) :
    Answers q n (execMsetRead m index first s) := by
  unfold execMsetRead
  repeat' first
    | with_reducible assumption
    | with_reducible intro _
    | with_reducible apply keeps_parts
    | with_reducible apply command_keeps
    | with_reducible apply refuse_keeps
    | with_reducible apply answer_keeps
    | with_reducible apply answers_next
    | with_reducible apply answers_fault
    | with_reducible apply answers_refused
    | with_reducible apply ite_answers
    | with_reducible apply ite_keeps
    | with_reducible apply foldl_keeps
    | with_reducible apply foldl_pair_keeps
    | split
    | rw [keeps_mk_iff]
    | dsimp only

theorem execPourClassSet_keeps (m : CmdMeta) (cls : Nat) (weight : Nat) (s : State) (h : Keeps q n s) :
    Answers q n (execPourClassSet m cls weight s) := by
  unfold execPourClassSet
  repeat' first
    | with_reducible assumption
    | with_reducible intro _
    | with_reducible apply keeps_parts
    | with_reducible apply command_keeps
    | with_reducible apply requires_keeps
    | with_reducible apply done_keeps
    | with_reducible apply setReg_keeps
    | with_reducible apply answers_next
    | with_reducible apply answers_fault
    | with_reducible apply answers_refused
    | with_reducible apply ite_answers
    | with_reducible apply ite_keeps
    | with_reducible apply foldl_keeps
    | with_reducible apply foldl_pair_keeps
    | split
    | rw [keeps_mk_iff]
    | dsimp only

theorem takeSpill_keeps (k : Nat) (s : State) (h : Keeps q n s) : Keeps q n (takeSpill k s) := by
  induction k generalizing s with
  | zero => exact h
  | succ k ih =>
    unfold takeSpill
    split
    · exact h
    · exact ih _ (keeps_parts (putFrame_keeps _ _ s h))

theorem growSpill_keeps (pages : Nat) (s : State) (h : Keeps q n s) :
    Keeps q n (growSpill pages s) := by
  unfold growSpill
  repeat' first
    | with_reducible assumption
    | with_reducible intro _
    | with_reducible apply keeps_parts
    | with_reducible apply takeSpill_keeps
    | with_reducible apply ite_keeps
    | with_reducible apply foldl_keeps
    | with_reducible apply foldl_pair_keeps
    | split
    | rw [keeps_mk_iff]
    | dsimp only

theorem shrinkSpill_keeps (pages : Nat) (s : State) (h : Keeps q n s) :
    Keeps q n (shrinkSpill pages s) := by
  unfold shrinkSpill
  repeat' first
    | with_reducible assumption
    | with_reducible intro _
    | with_reducible apply keeps_parts
    | with_reducible apply trimSpill_keeps
    | with_reducible apply ite_keeps
    | with_reducible apply foldl_keeps
    | with_reducible apply foldl_pair_keeps
    | split
    | rw [keeps_mk_iff]
    | dsimp only

theorem execPourSpillReserve_keeps (m : CmdMeta) (pages : Nat) (s : State) (h : Keeps q n s) :
    Answers q n (execPourSpillReserve m pages s) := by
  unfold execPourSpillReserve
  repeat' first
    | with_reducible assumption
    | with_reducible intro _
    | with_reducible apply keeps_parts
    | with_reducible apply command_keeps
    | with_reducible apply refuse_keeps
    | with_reducible apply growSpill_keeps
    | with_reducible apply answer_keeps
    | with_reducible apply shrinkSpill_keeps
    | with_reducible apply answers_next
    | with_reducible apply answers_fault
    | with_reducible apply answers_refused
    | with_reducible apply ite_answers
    | with_reducible apply ite_keeps
    | with_reducible apply foldl_keeps
    | with_reducible apply foldl_pair_keeps
    | split
    | rw [keeps_mk_iff]
    | dsimp only

theorem execPourStats_keeps (m : CmdMeta) (s : State) (h : Keeps q n s) :
    Answers q n (execPourStats m s) := by
  unfold execPourStats
  repeat' first
    | with_reducible assumption
    | with_reducible intro _
    | with_reducible apply keeps_parts
    | with_reducible apply command_keeps
    | with_reducible apply answer_keeps
    | with_reducible apply answers_next
    | with_reducible apply answers_fault
    | with_reducible apply answers_refused
    | with_reducible apply ite_answers
    | with_reducible apply ite_keeps
    | with_reducible apply foldl_keeps
    | with_reducible apply foldl_pair_keeps
    | split
    | rw [keeps_mk_iff]
    | dsimp only

end Sys2Proof.Machine
end

