-- ==== Sys2Proof/Laws/KeepPourEvents.lean ====
section
/-! SUPPORT. What the operations of Machine/PourEvents.lean keep: the queue, the clock and the canonical form of HBM and the registers. -/
namespace Sys2Proof.Machine

variable {q : List Instr} {n : Nat}

theorem foldSlots_keeps (p : Pour) (m : Nat) (old : Chunk) (l : List Nat) (o : Option (Chunk × State))
    (ho : ∀ k s, o = some (k, s) → Keeps q n s) (k : Chunk) (t : State)
    (e : l.foldl (fun acc _ => match acc with
        | some (k, s) => moreSlots p m old k s
        | none => none) o = some (k, t)) : Keeps q n t := by
  induction l generalizing o with
  | nil => exact ho k t e
  | cons a l ih =>
    refine ih _ (fun k' s' e' => ?_) e
    dsimp only at e'
    split at e'
    · exact moreSlots_keeps e' (ho _ _ rfl)
    · cases e'

theorem rowRoom_keeps {p : Pour} {b : List Byte} {old k v : Chunk} {s t : State} (e : rowRoom p b old k s = some (v, t)) (h : Keeps q n s) :
    Keeps q n t := by
  unfold rowRoom at e
  split at e
  · dsimp only at e
    split at e
    · exact moreSlots_keeps e h
    · exact foldSlots_keeps _ _ _ _ _ (fun k s e => by injection e with e; injection e with _ e; exact e ▸ h) _ _ e
  · injection e with e; injection e with _ e; exact e ▸ h

theorem contribRoom_keeps {p : Pour} {c : Nat} {b : List Byte} {v : Chunk} {s t : State} (e : contribRoom p c b s = some (v, t))
    (h : Keeps q n s) : Keeps q n t := by
  have ho : ∀ k u, (if (chunkOf p c).st = 0 then openChunk p c s else some (chunkOf p c, s)) = some (k, u) → Keeps q n u := by
    intro k u e
    split at e
    · exact openChunk_keeps e h
    · injection e with e; injection e with _ e; exact e ▸ h
  unfold contribRoom at e
  dsimp only at e
  split at e
  · cases e
  · rename_i k u e'
    have hu := ho k u e'
    split at e
    · exact rowRoom_keeps e hu
    · injection e with e; injection e with _ e; exact e ▸ hu

theorem ackContrib_keeps (p : Packet) (s : State) (h : Keeps q n s) :
    Keeps q n (ackContrib p s) := by
  unfold ackContrib
  repeat' first
    | with_reducible assumption
    | with_reducible intro _
    | with_reducible apply keeps_parts
    | with_reducible apply portDone_keeps
    | with_reducible apply sendAnswer_keeps
    | with_reducible apply ite_keeps
    | with_reducible apply foldl_keeps
    | with_reducible apply foldl_pair_keeps
    | split
    | rw [keeps_mk_iff]
    | dsimp only

theorem nakContrib_keeps (p : Packet) (cause : Nat) (s : State) (h : Keeps q n s) :
    Keeps q n (nakContrib p cause s) := by
  unfold nakContrib
  repeat' first
    | with_reducible assumption
    | with_reducible intro _
    | with_reducible apply keeps_parts
    | with_reducible apply portDone_keeps
    | with_reducible apply nakAs_keeps
    | with_reducible apply ite_keeps
    | with_reducible apply foldl_keeps
    | with_reducible apply foldl_pair_keeps
    | split
    | rw [keeps_mk_iff]
    | dsimp only

theorem enterCrossing_keeps (x0 : Pour) (m : Nat) (x : Packet) (x3 : Chunk) (s : State) (h : Keeps q n s) :
    Keeps q n (enterCrossing x0 m x x3 s) := by
  unfold enterCrossing
  repeat' first
    | with_reducible assumption
    | with_reducible intro _
    | with_reducible apply keeps_parts
    | with_reducible apply putChunk_keeps
    | with_reducible apply raiseFlags_keeps
    | with_reducible apply ite_keeps
    | with_reducible apply foldl_keeps
    | with_reducible apply foldl_pair_keeps
    | split
    | rw [keeps_mk_iff]
    | dsimp only

theorem acceptContrib_keeps (x0 : Pour) (m : Nat) (p : Packet) (x3 : Chunk) (s : State) (h : Keeps q n s) :
    Keeps q n (acceptContrib x0 m p x3 s) := by
  unfold acceptContrib
  repeat' first
    | with_reducible assumption
    | with_reducible intro _
    | with_reducible apply keeps_parts
    | with_reducible apply enterCrossing_keeps
    | with_reducible apply modPour_keeps
    | with_reducible apply noteRounding_keeps
    | with_reducible apply ackContrib_keeps
    | with_reducible apply digestPacket_keeps
    | with_reducible apply ite_keeps
    | with_reducible apply foldl_keeps
    | with_reducible apply foldl_pair_keeps
    | split
    | rw [keeps_mk_iff]
    | dsimp only

theorem mismatchContrib_keeps (p : Packet) (cause : Nat) (s : State) (h : Keeps q n s) :
    Keeps q n (mismatchContrib p cause s) := by
  unfold mismatchContrib
  repeat' first
    | with_reducible assumption
    | with_reducible intro _
    | with_reducible apply keeps_parts
    | with_reducible apply logEvent_keeps
    | with_reducible apply incReg_keeps
    | with_reducible apply failPour_keeps
    | with_reducible apply nakContrib_keeps
    | with_reducible apply ite_keeps
    | with_reducible apply foldl_keeps
    | with_reducible apply foldl_pair_keeps
    | split
    | rw [keeps_mk_iff]
    | dsimp only

theorem contribPort_keeps (p : Packet) (s : State) (h : Keeps q n s) :
    Keeps q n (contribPort p s) := by
  unfold contribPort
  repeat' first
    | with_reducible assumption
    | with_reducible intro _
    | with_reducible apply keeps_parts
    | with_reducible apply nakContrib_keeps
    | with_reducible apply incReg_keeps
    | with_reducible apply ackContrib_keeps
    | with_reducible apply logEvent_keeps
    | with_reducible apply mismatchContrib_keeps
    | with_reducible refine contribRoom_keeps (by assumption) ?_
    | with_reducible apply acceptContrib_keeps
    | with_reducible apply ite_keeps
    | with_reducible apply foldl_keeps
    | with_reducible apply foldl_pair_keeps
    | split
    | rw [keeps_mk_iff]
    | dsimp only

theorem storeRounded_keeps (x0 : Pour) (c : Nat) (res : List Byte) (rows : List (Nat × List Nat)) (fl : AFlags) (s : State) (h : Keeps q n s) :
    Keeps q n (storeRounded x0 c res rows fl s) := by
  unfold storeRounded
  repeat' first
    | with_reducible assumption
    | with_reducible intro _
    | with_reducible apply keeps_parts
    | with_reducible apply raiseFlags_keeps
    | with_reducible apply modPour_keeps
    | with_reducible apply trimSpill_keeps
    | with_reducible apply putChunk_keeps
    | with_reducible apply releaseChunk_keeps
    | with_reducible apply ite_keeps
    | with_reducible apply foldl_keeps
    | with_reducible apply foldl_pair_keeps
    | split
    | rw [keeps_mk_iff]
    | dsimp only

theorem awaitFlask_keeps (x0 : Pour) (c : Nat) (s : State) (h : Keeps q n s) :
    Keeps q n (awaitFlask x0 c s) := by
  unfold awaitFlask
  repeat' first
    | with_reducible assumption
    | with_reducible intro _
    | with_reducible apply keeps_parts
    | with_reducible apply wakeBay_keeps
    | with_reducible apply placeChunk_keeps
    | with_reducible refine placeChunk_keeps_eq (by assumption) ?_
    | with_reducible apply putChunk_keeps
    | with_reducible apply ite_keeps
    | with_reducible apply foldl_keeps
    | with_reducible apply foldl_pair_keeps
    | split
    | rw [keeps_mk_iff]
    | dsimp only

theorem roundChunk_ok {p : Pour} {c : Nat} {k : Chunk} {s t : State} {res : List Byte} {rows : List (Nat × List Nat)} {fl : AFlags}
    (e : roundChunk p c k s = .ok res rows fl t) (h : Keeps q n s) : Keeps q n t := by
  have key : ∀ r, r = roundChunk p c k s → ∀ res rows fl t, r = .ok res rows fl t → Keeps q n t := by
    intro r hr res rows fl t e
    unfold roundChunk at hr
    dsimp only at hr
    (repeat' split at hr) <;> subst hr <;> first | (cases e; done) | skip
    all_goals injection e with _ _ _ e; subst e
    all_goals first | with_reducible exact h | with_reducible exact modPour_keeps _ _ _ _ h
  exact key _ rfl _ _ _ _ e

theorem roundHere_keeps (heat pourId c : Nat) (s : State) (h : Keeps q n s) : Keeps q n (roundHere heat pourId c s) := by
  unfold roundHere
  split
  · exact h
  · split
    · exact h
    · split
      · exact awaitFlask_keeps _ _ _ h
      · split
        · exact failAccesses_keeps _ _ _ _ h
        · rename_i e
          exact tryRoundDone_keeps _ _ _ (storeRounded_keeps _ _ _ _ _ _ (roundChunk_ok e h))

theorem execChunkRounded_keeps (heat : Nat) (pourId : Nat) (chunk : Nat) (s : State) (h : Keeps q n s) :
    Answers q n (execChunkRounded heat pourId chunk s) := by
  unfold execChunkRounded
  repeat' first
    | with_reducible assumption
    | with_reducible intro _
    | with_reducible apply keeps_parts
    | with_reducible apply roundHere_keeps
    | with_reducible apply answers_next
    | with_reducible apply answers_fault
    | with_reducible apply answers_refused
    | with_reducible apply ite_answers
    | with_reducible apply ite_keeps
    | with_reducible apply foldl_keeps
    | with_reducible apply foldl_pair_keeps
    | split
    | rw [keeps_mk_iff]
    | dsimp only

theorem modSeg_keeps (g : Nat) (f : Seg → Seg) (s : State) (h : Keeps q n s) :
    Keeps q n (modSeg g f s) := by
  unfold modSeg
  repeat' first
    | with_reducible assumption
    | with_reducible intro _
    | with_reducible apply keeps_parts
    | with_reducible apply ite_keeps
    | with_reducible apply foldl_keeps
    | with_reducible apply foldl_pair_keeps
    | split
    | rw [keeps_mk_iff]
    | dsimp only

theorem keepShadow_keeps (x0 : Pour) (p : Packet) (x2 : Nat × Nat × List Byte) (s : State) (h : Keeps q n s) :
    Keeps q n (keepShadow x0 p x2 s) := by
  unfold keepShadow
  repeat' first
    | with_reducible assumption
    | with_reducible intro _
    | with_reducible apply keeps_parts
    | with_reducible apply modSeg_keeps
    | with_reducible apply ite_keeps
    | with_reducible apply foldl_keeps
    | with_reducible apply foldl_pair_keeps
    | split
    | rw [keeps_mk_iff]
    | dsimp only

theorem resultPort_keeps (p : Packet) (s : State) (h : Keeps q n s) :
    Keeps q n (resultPort p s) := by
  unfold resultPort
  repeat' first
    | with_reducible assumption
    | with_reducible intro _
    | with_reducible apply keeps_parts
    | with_reducible apply keepShadow_keeps
    | with_reducible apply ackContrib_keeps
    | with_reducible apply digestPacket_keeps
    | with_reducible apply ite_keeps
    | with_reducible apply foldl_keeps
    | with_reducible apply foldl_pair_keeps
    | split
    | rw [keeps_mk_iff]
    | dsimp only

theorem commitShadow_keeps (ok : Bool) (x1 : Nat × Nat × List Byte) (s : State) (h : Keeps q n s) :
    Keeps q n (commitShadow ok x1 s) := by
  unfold commitShadow
  repeat' first
    | with_reducible assumption
    | with_reducible intro _
    | with_reducible apply keeps_parts
    | with_reducible apply spanWrite_keeps
    | with_reducible apply modSeg_keeps
    | with_reducible apply ite_keeps
    | with_reducible apply foldl_keeps
    | with_reducible apply foldl_pair_keeps
    | split
    | rw [keeps_mk_iff]
    | dsimp only

theorem markPort_keeps (p : Packet) (s : State) (h : Keeps q n s) :
    Keeps q n (markPort p s) := by
  unfold markPort
  repeat' first
    | with_reducible assumption
    | with_reducible intro _
    | with_reducible apply keeps_parts
    | with_reducible apply commitShadow_keeps
    | with_reducible apply ackContrib_keeps
    | with_reducible apply digestPacket_keeps
    | with_reducible apply ite_keeps
    | with_reducible apply foldl_keeps
    | with_reducible apply foldl_pair_keeps
    | split
    | rw [keeps_mk_iff]
    | dsimp only

theorem pourPort_keeps (p : Packet) (s : State) (h : Keeps q n s) :
    Keeps q n (pourPort p s) := by
  unfold pourPort
  repeat' first
    | with_reducible assumption
    | with_reducible intro _
    | with_reducible apply keeps_parts
    | with_reducible apply contribPort_keeps
    | with_reducible apply resultPort_keeps
    | with_reducible apply markPort_keeps
    | with_reducible apply nakContrib_keeps
    | with_reducible apply ite_keeps
    | with_reducible apply foldl_keeps
    | with_reducible apply foldl_pair_keeps
    | split
    | rw [keeps_mk_iff]
    | dsimp only

theorem sendRegAck_keeps (heat : Nat) (pourId : Nat) (accepted : Bool) (s : State) (h : Keeps q n s) :
    Keeps q n (sendRegAck heat pourId accepted s) := by
  unfold sendRegAck
  repeat' first
    | with_reducible assumption
    | with_reducible intro _
    | with_reducible apply keeps_parts
    | with_reducible apply emit_keeps
    | with_reducible apply modPour_keeps
    | with_reducible apply ite_keeps
    | with_reducible apply foldl_keeps
    | with_reducible apply foldl_pair_keeps
    | split
    | rw [keeps_mk_iff]
    | dsimp only

theorem settleReg_keeps (heat : Nat) (pourId : Nat) (s : State) (h : Keeps q n s) :
    Keeps q n (settleReg heat pourId s) := by
  unfold settleReg
  repeat' first
    | with_reducible assumption
    | with_reducible intro _
    | with_reducible apply keeps_parts
    | with_reducible apply tryOpen_keeps
    | with_reducible apply sendRegAck_keeps
    | with_reducible apply ite_keeps
    | with_reducible apply foldl_keeps
    | with_reducible apply foldl_pair_keeps
    | split
    | rw [keeps_mk_iff]
    | dsimp only

theorem noteRefused_keeps (lead : Nat) (desc : List Byte) (s : State) (h : Keeps q n s) :
    Keeps q n (noteRefused lead desc s) := by
  unfold noteRefused
  repeat' first
    | with_reducible assumption
    | with_reducible intro _
    | with_reducible apply keeps_parts
    | with_reducible apply ite_keeps
    | with_reducible apply foldl_keeps
    | with_reducible apply foldl_pair_keeps
    | split
    | rw [keeps_mk_iff]
    | dsimp only

theorem refuseReg_keeps (lead : Nat) (desc : List Byte) (setOk : Bool) (accepted : Bool) (s : State) (h : Keeps q n s) :
    Keeps q n (refuseReg lead desc setOk accepted s) := by
  unfold refuseReg
  repeat' first
    | with_reducible assumption
    | with_reducible intro _
    | with_reducible apply keeps_parts
    | with_reducible apply emit_keeps
    | with_reducible apply noteRefused_keeps
    | with_reducible apply ite_keeps
    | with_reducible apply foldl_keeps
    | with_reducible apply foldl_pair_keeps
    | split
    | rw [keeps_mk_iff]
    | dsimp only

theorem takeRegister_keeps (lead : Nat) (desc : List Byte) (step : Nat) (ruleDig : Nat) (stateDig : Nat) (s : State) (h : Keeps q n s) :
    Keeps q n (takeRegister lead desc step ruleDig stateDig s) := by
  unfold takeRegister
  repeat' first
    | with_reducible assumption
    | with_reducible intro _
    | with_reducible apply keeps_parts
    | with_reducible apply refuseReg_keeps
    | with_reducible apply logEvent_keeps
    | with_reducible apply incReg_keeps
    | with_reducible refine takeHome_keeps (by assumption) ?_
    | with_reducible apply settleReg_keeps
    | with_reducible apply ite_keeps
    | with_reducible apply foldl_keeps
    | with_reducible apply foldl_pair_keeps
    | split
    | rw [keeps_mk_iff]
    | dsimp only

theorem execRegisterPour_keeps (lead : Nat) (desc : List Byte) (step : Nat) (ruleDig : Nat) (stateDig : Nat) (s : State) (h : Keeps q n s) :
    Answers q n (execRegisterPour lead desc step ruleDig stateDig s) := by
  unfold execRegisterPour
  repeat' first
    | with_reducible assumption
    | with_reducible intro _
    | with_reducible apply keeps_parts
    | with_reducible apply takeRegister_keeps
    | with_reducible apply answers_next
    | with_reducible apply answers_fault
    | with_reducible apply answers_refused
    | with_reducible apply ite_answers
    | with_reducible apply ite_keeps
    | with_reducible apply foldl_keeps
    | with_reducible apply foldl_pair_keeps
    | split
    | rw [keeps_mk_iff]
    | dsimp only

theorem takeRegAck_keeps (home : Nat) (heat : Nat) (pourId : Nat) (tag : Nat) (setOk : Bool) (accepted : Bool) (p1 : Bool) (s : State) (h : Keeps q n s) :
    Keeps q n (takeRegAck home heat pourId tag setOk accepted p1 s) := by
  unfold takeRegAck
  repeat' first
    | with_reducible assumption
    | with_reducible intro _
    | with_reducible apply keeps_parts
    | with_reducible apply modPour_keeps
    | with_reducible apply failPour_keeps
    | with_reducible apply tryOpen_keeps
    | with_reducible apply ite_keeps
    | with_reducible apply foldl_keeps
    | with_reducible apply foldl_pair_keeps
    | split
    | rw [keeps_mk_iff]
    | dsimp only

theorem execRegAck_keeps (home : Nat) (heat : Nat) (pourId : Nat) (tag : Nat) (setOk : Bool) (accepted : Bool) (p1 : Bool) (s : State) (h : Keeps q n s) :
    Answers q n (execRegAck home heat pourId tag setOk accepted p1 s) := by
  unfold execRegAck
  repeat' first
    | with_reducible assumption
    | with_reducible intro _
    | with_reducible apply keeps_parts
    | with_reducible apply takeRegAck_keeps
    | with_reducible apply answers_next
    | with_reducible apply answers_fault
    | with_reducible apply answers_refused
    | with_reducible apply ite_answers
    | with_reducible apply ite_keeps
    | with_reducible apply foldl_keeps
    | with_reducible apply foldl_pair_keeps
    | split
    | rw [keeps_mk_iff]
    | dsimp only

theorem execRegAckTimeout_keeps (heat : Nat) (pourId : Nat) (s : State) (h : Keeps q n s) :
    Answers q n (execRegAckTimeout heat pourId s) := by
  unfold execRegAckTimeout
  repeat' first
    | with_reducible assumption
    | with_reducible intro _
    | with_reducible apply keeps_parts
    | with_reducible apply failPour_keeps
    | with_reducible apply advanceTo_keeps
    | with_reducible apply answers_next
    | with_reducible apply answers_fault
    | with_reducible apply answers_refused
    | with_reducible apply ite_answers
    | with_reducible apply ite_keeps
    | with_reducible apply foldl_keeps
    | with_reducible apply foldl_pair_keeps
    | split
    | rw [keeps_mk_iff]
    | dsimp only

theorem execOpenPour_keeps (heat : Nat) (pourId : Nat) (p1 : Bool) (s : State) (h : Keeps q n s) :
    Answers q n (execOpenPour heat pourId p1 s) := by
  unfold execOpenPour
  repeat' first
    | with_reducible assumption
    | with_reducible intro _
    | with_reducible apply keeps_parts
    | with_reducible apply openHere_keeps
    | with_reducible apply answers_next
    | with_reducible apply answers_fault
    | with_reducible apply answers_refused
    | with_reducible apply ite_answers
    | with_reducible apply ite_keeps
    | with_reducible apply foldl_keeps
    | with_reducible apply foldl_pair_keeps
    | split
    | rw [keeps_mk_iff]
    | dsimp only

theorem takeReport_keeps (home : Nat) (heat : Nat) (pourId : Nat) (status : Nat) (ovf : Nat) (s : State) (h : Keeps q n s) :
    Keeps q n (takeReport home heat pourId status ovf s) := by
  unfold takeReport
  repeat' first
    | with_reducible assumption
    | with_reducible intro _
    | with_reducible apply keeps_parts
    | with_reducible apply settleOne_keeps
    | with_reducible apply modPour_keeps
    | with_reducible apply failPour_keeps
    | with_reducible apply tryCommit_keeps
    | with_reducible apply noteRounding_keeps
    | with_reducible apply ite_keeps
    | with_reducible apply foldl_keeps
    | with_reducible apply foldl_pair_keeps
    | split
    | rw [keeps_mk_iff]
    | dsimp only

theorem execRoundDone_keeps (home : Nat) (heat : Nat) (pourId : Nat) (status : Nat) (ovf : Nat) (s : State) (h : Keeps q n s) :
    Answers q n (execRoundDone home heat pourId status ovf s) := by
  unfold execRoundDone
  repeat' first
    | with_reducible assumption
    | with_reducible intro _
    | with_reducible apply keeps_parts
    | with_reducible apply takeReport_keeps
    | with_reducible apply answers_next
    | with_reducible apply answers_fault
    | with_reducible apply answers_refused
    | with_reducible apply ite_answers
    | with_reducible apply ite_keeps
    | with_reducible apply foldl_keeps
    | with_reducible apply foldl_pair_keeps
    | split
    | rw [keeps_mk_iff]
    | dsimp only

theorem execCommitPour_keeps (heat : Nat) (pourId : Nat) (s : State) (h : Keeps q n s) :
    Answers q n (execCommitPour heat pourId s) := by
  unfold execCommitPour
  repeat' first
    | with_reducible assumption
    | with_reducible intro _
    | with_reducible apply keeps_parts
    | with_reducible apply settleOne_keeps
    | with_reducible apply commitHere_keeps
    | with_reducible apply answers_next
    | with_reducible apply answers_fault
    | with_reducible apply answers_refused
    | with_reducible apply ite_answers
    | with_reducible apply ite_keeps
    | with_reducible apply foldl_keeps
    | with_reducible apply foldl_pair_keeps
    | split
    | rw [keeps_mk_iff]
    | dsimp only

theorem execRowUpdate_keeps (peer : Nat) (heat : Nat) (pourId : Nat) (base : Nat) (rule : Nat) (rc : Nat) (step : Nat) (row : Nat) (delta : List Nat) (s : State) (h : Keeps q n s) :
    Answers q n (execRowUpdate peer heat pourId base rule rc step row delta s) := by
  unfold execRowUpdate
  repeat' first
    | with_reducible assumption
    | with_reducible intro _
    | with_reducible apply keeps_parts
    | with_reducible apply logAccess_keeps
    | with_reducible apply emit_keeps
    | with_reducible apply applyRow_keeps
    | with_reducible refine applyRow_keeps_eq (by assumption) ?_
    | with_reducible apply answers_next
    | with_reducible apply answers_fault
    | with_reducible apply answers_refused
    | with_reducible apply ite_answers
    | with_reducible apply ite_keeps
    | with_reducible apply foldl_keeps
    | with_reducible apply foldl_pair_keeps
    | split
    | rw [keeps_mk_iff]
    | dsimp only

theorem lostHome_keeps (heat : Nat) (pourId : Nat) (d : Nat) (s : State) (h : Keeps q n s) :
    Keeps q n (lostHome heat pourId d s) := by
  unfold lostHome
  repeat' first
    | with_reducible assumption
    | with_reducible intro _
    | with_reducible apply keeps_parts
    | with_reducible apply failPour_keeps
    | with_reducible apply ite_keeps
    | with_reducible apply foldl_keeps
    | with_reducible apply foldl_pair_keeps
    | split
    | rw [keeps_mk_iff]
    | dsimp only

theorem fenceOne_keeps (hit : Nat → Bool) (dev : Option Nat) (heat : Nat) (pourId : Nat) (s : State) (h : Keeps q n s) :
    Keeps q n (fenceOne hit dev heat pourId s) := by
  unfold fenceOne
  repeat' first
    | with_reducible assumption
    | with_reducible intro _
    | with_reducible apply keeps_parts
    | with_reducible apply failPour_keeps
    | with_reducible apply tombstone_keeps
    | with_reducible apply fenceSets_keeps
    | with_reducible apply lostHome_keeps
    | with_reducible apply ite_keeps
    | with_reducible apply foldl_keeps
    | with_reducible apply foldl_pair_keeps
    | split
    | rw [keeps_mk_iff]
    | dsimp only

theorem strikeAwaiting_keeps (hit : Nat → Bool) (s : State) (h : Keeps q n s) :
    Keeps q n (strikeAwaiting hit s) := by
  unfold strikeAwaiting
  repeat' first
    | with_reducible assumption
    | with_reducible intro _
    | with_reducible apply keeps_parts
    | with_reducible apply ite_keeps
    | with_reducible apply foldl_keeps
    | with_reducible apply foldl_pair_keeps
    | split
    | rw [keeps_mk_iff]
    | dsimp only

theorem fencePours_keeps (hit : Nat → Bool) (dev : Option Nat) (s : State) (h : Keeps q n s) :
    Keeps q n (fencePours hit dev s) := by
  unfold fencePours
  repeat' first
    | with_reducible assumption
    | with_reducible intro _
    | with_reducible apply keeps_parts
    | with_reducible apply strikeAwaiting_keeps
    | with_reducible apply settlePours_keeps
    | with_reducible apply fenceOne_keeps
    | with_reducible apply ite_keeps
    | with_reducible apply foldl_keeps
    | with_reducible apply foldl_pair_keeps
    | split
    | rw [keeps_mk_iff]
    | dsimp only

theorem execFenceQuery_keeps (heat : Nat) (pourId : Nat) (member : Nat) (s : State) (h : Keeps q n s) :
    Answers q n (execFenceQuery heat pourId member s) := by
  unfold execFenceQuery
  repeat' first
    | with_reducible assumption
    | with_reducible intro _
    | with_reducible apply keeps_parts
    | with_reducible apply emit_keeps
    | with_reducible apply answers_next
    | with_reducible apply answers_fault
    | with_reducible apply answers_refused
    | with_reducible apply ite_answers
    | with_reducible apply ite_keeps
    | with_reducible apply foldl_keeps
    | with_reducible apply foldl_pair_keeps
    | split
    | rw [keeps_mk_iff]
    | dsimp only

theorem takeFenceReply_keeps (home : Nat) (heat : Nat) (pourId : Nat) (member : Nat) (complete : Bool) (s : State) (h : Keeps q n s) :
    Keeps q n (takeFenceReply home heat pourId member complete s) := by
  unfold takeFenceReply
  repeat' first
    | with_reducible assumption
    | with_reducible intro _
    | with_reducible apply keeps_parts
    | with_reducible apply failPour_keeps
    | with_reducible apply modPour_keeps
    | with_reducible apply markMember_keeps
    | with_reducible apply ite_keeps
    | with_reducible apply foldl_keeps
    | with_reducible apply foldl_pair_keeps
    | split
    | rw [keeps_mk_iff]
    | dsimp only

theorem execFenceReply_keeps (home : Nat) (heat : Nat) (pourId : Nat) (member : Nat) (complete : Nat) (s : State) (h : Keeps q n s) :
    Answers q n (execFenceReply home heat pourId member complete s) := by
  unfold execFenceReply
  repeat' first
    | with_reducible assumption
    | with_reducible intro _
    | with_reducible apply keeps_parts
    | with_reducible apply takeFenceReply_keeps
    | with_reducible apply answers_next
    | with_reducible apply answers_fault
    | with_reducible apply answers_refused
    | with_reducible apply ite_answers
    | with_reducible apply ite_keeps
    | with_reducible apply foldl_keeps
    | with_reducible apply foldl_pair_keeps
    | split
    | rw [keeps_mk_iff]
    | dsimp only

theorem execAbortPour_keeps (heat : Nat) (pourId : Nat) (status : Nat) (s : State) (h : Keeps q n s) :
    Answers q n (execAbortPour heat pourId status s) := by
  unfold execAbortPour
  repeat' first
    | with_reducible assumption
    | with_reducible intro _
    | with_reducible apply keeps_parts
    | with_reducible apply emit_keeps
    | with_reducible apply trimSpill_keeps
    | with_reducible apply modPour_keeps
    | with_reducible apply answers_next
    | with_reducible apply answers_fault
    | with_reducible apply answers_refused
    | with_reducible apply ite_answers
    | with_reducible apply ite_keeps
    | with_reducible apply foldl_keeps
    | with_reducible apply foldl_pair_keeps
    | split
    | rw [keeps_mk_iff]
    | dsimp only

theorem execAbortAck_keeps (home : Nat) (heat : Nat) (pourId : Nat) (rounded : Nat) (s : State) (h : Keeps q n s) :
    Answers q n (execAbortAck home heat pourId rounded s) := by
  unfold execAbortAck
  repeat' first
    | with_reducible assumption
    | with_reducible intro _
    | with_reducible apply keeps_parts
    | with_reducible apply modPour_keeps
    | with_reducible apply endPour_keeps
    | with_reducible apply answers_next
    | with_reducible apply answers_fault
    | with_reducible apply answers_refused
    | with_reducible apply ite_answers
    | with_reducible apply ite_keeps
    | with_reducible apply foldl_keeps
    | with_reducible apply foldl_pair_keeps
    | split
    | rw [keeps_mk_iff]
    | dsimp only

theorem execAbortAckTimeout_keeps (heat : Nat) (pourId : Nat) (s : State) (h : Keeps q n s) :
    Answers q n (execAbortAckTimeout heat pourId s) := by
  unfold execAbortAckTimeout
  repeat' first
    | with_reducible assumption
    | with_reducible intro _
    | with_reducible apply keeps_parts
    | with_reducible apply endPour_keeps
    | with_reducible apply advanceTo_keeps
    | with_reducible apply answers_next
    | with_reducible apply answers_fault
    | with_reducible apply answers_refused
    | with_reducible apply ite_answers
    | with_reducible apply ite_keeps
    | with_reducible apply foldl_keeps
    | with_reducible apply foldl_pair_keeps
    | split
    | rw [keeps_mk_iff]
    | dsimp only

theorem execEndPour_keeps (heat : Nat) (pourId : Nat) (status : Nat) (cause : Nat) (committed : Bool) (s : State) (h : Keeps q n s) :
    Answers q n (execEndPour heat pourId status cause committed s) := by
  unfold execEndPour
  repeat' first
    | with_reducible assumption
    | with_reducible intro _
    | with_reducible apply keeps_parts
    | with_reducible apply modPour_keeps
    | with_reducible apply tombstone_keeps
    | with_reducible apply answers_next
    | with_reducible apply answers_fault
    | with_reducible apply answers_refused
    | with_reducible apply ite_answers
    | with_reducible apply ite_keeps
    | with_reducible apply foldl_keeps
    | with_reducible apply foldl_pair_keeps
    | split
    | rw [keeps_mk_iff]
    | dsimp only

theorem execPourDeadline_keeps (heat : Nat) (pourId : Nat) (s : State) (h : Keeps q n s) :
    Answers q n (execPourDeadline heat pourId s) := by
  unfold execPourDeadline
  repeat' first
    | with_reducible assumption
    | with_reducible intro _
    | with_reducible apply keeps_parts
    | with_reducible apply missDeadline_keeps
    | with_reducible apply advanceTo_keeps
    | with_reducible apply answers_next
    | with_reducible apply answers_fault
    | with_reducible apply answers_refused
    | with_reducible apply ite_answers
    | with_reducible apply ite_keeps
    | with_reducible apply foldl_keeps
    | with_reducible apply foldl_pair_keeps
    | split
    | rw [keeps_mk_iff]
    | dsimp only

theorem execTombstoneExpiry_keeps (heat : Nat) (pourId : Nat) (s : State) (h : Keeps q n s) :
    Answers q n (execTombstoneExpiry heat pourId s) := by
  unfold execTombstoneExpiry
  repeat' first
    | with_reducible assumption
    | with_reducible intro _
    | with_reducible apply keeps_parts
    | with_reducible apply advanceTo_keeps
    | with_reducible apply answers_next
    | with_reducible apply answers_fault
    | with_reducible apply answers_refused
    | with_reducible apply ite_answers
    | with_reducible apply ite_keeps
    | with_reducible apply foldl_keeps
    | with_reducible apply foldl_pair_keeps
    | split
    | rw [keeps_mk_iff]
    | dsimp only

theorem execTreeSetup_keeps (peer : Nat) (entry : Nat) (s : State) (h : Keeps q n s) :
    Answers q n (execTreeSetup peer entry s) := by
  unfold execTreeSetup
  repeat' first
    | with_reducible assumption
    | with_reducible intro _
    | with_reducible apply keeps_parts
    | with_reducible apply emit_keeps
    | with_reducible apply putTree_keeps
    | with_reducible apply answers_next
    | with_reducible apply answers_fault
    | with_reducible apply answers_refused
    | with_reducible apply ite_answers
    | with_reducible apply ite_keeps
    | with_reducible apply foldl_keeps
    | with_reducible apply foldl_pair_keeps
    | split
    | rw [keeps_mk_iff]
    | dsimp only

theorem treeSettled_keeps (tree : Nat) (ok : Bool) (s : State) (h : Keeps q n s) :
    Keeps q n (treeSettled tree ok s) := by
  unfold treeSettled
  repeat' first
    | with_reducible assumption
    | with_reducible intro _
    | with_reducible apply keeps_parts
    | with_reducible apply settleReg_keeps
    | with_reducible apply failPour_keeps
    | with_reducible apply sendRegAck_keeps
    | with_reducible apply ite_keeps
    | with_reducible apply foldl_keeps
    | with_reducible apply foldl_pair_keeps
    | split
    | rw [keeps_mk_iff]
    | dsimp only

theorem takeTreeReply_keeps (peer : Nat) (tree : Nat) (ok : Bool) (s : State) (h : Keeps q n s) :
    Keeps q n (takeTreeReply peer tree ok s) := by
  unfold takeTreeReply
  repeat' first
    | with_reducible assumption
    | with_reducible intro _
    | with_reducible apply keeps_parts
    | with_reducible apply treeSettled_keeps
    | with_reducible apply dropTree_keeps
    | with_reducible apply ite_keeps
    | with_reducible apply foldl_keeps
    | with_reducible apply foldl_pair_keeps
    | split
    | rw [keeps_mk_iff]
    | dsimp only

theorem execTreeSetupReply_keeps (peer : Nat) (tree : Nat) (ok : Bool) (s : State) (h : Keeps q n s) :
    Answers q n (execTreeSetupReply peer tree ok s) := by
  unfold execTreeSetupReply
  repeat' first
    | with_reducible assumption
    | with_reducible intro _
    | with_reducible apply keeps_parts
    | with_reducible apply takeTreeReply_keeps
    | with_reducible apply answers_next
    | with_reducible apply answers_fault
    | with_reducible apply answers_refused
    | with_reducible apply ite_answers
    | with_reducible apply ite_keeps
    | with_reducible apply foldl_keeps
    | with_reducible apply foldl_pair_keeps
    | split
    | rw [keeps_mk_iff]
    | dsimp only

theorem execTreeLinkRepair_keeps (_peer : Nat) (tree : Nat) (_link : Nat) (s : State) (h : Keeps q n s) :
    Answers q n (execTreeLinkRepair _peer tree _link s) := by
  unfold execTreeLinkRepair
  repeat' first
    | with_reducible assumption
    | with_reducible intro _
    | with_reducible apply keeps_parts
    | with_reducible apply putTree_keeps
    | with_reducible apply emit_keeps
    | with_reducible apply answers_next
    | with_reducible apply answers_fault
    | with_reducible apply answers_refused
    | with_reducible apply ite_answers
    | with_reducible apply ite_keeps
    | with_reducible apply foldl_keeps
    | with_reducible apply foldl_pair_keeps
    | split
    | rw [keeps_mk_iff]
    | dsimp only

end Sys2Proof.Machine
end

