-- ==== Sys2Proof/Laws/KeepLayer.lean ====
section
/-! SUPPORT. What the operations of Machine/Layer.lean keep: the queue, the clock and the canonical form of HBM and the registers. -/
namespace Sys2Proof.Machine

variable {q : List Instr} {n : Nat}

theorem putSeg_keeps (i : Nat) (g : Seg) (s : State) (h : Keeps q n s) :
    Keeps q n (putSeg i g s) := by
  unfold putSeg
  repeat' first
    | with_reducible assumption
    | with_reducible intro _
    | with_reducible apply keeps_parts
    | with_reducible apply ite_keeps
    | with_reducible apply foldl_keeps
    | with_reducible apply foldl_pair_keeps
    | split
    | rw [keeps_mk_iff]
    | dsimp only

theorem modBay_keeps (b : Nat) (f : BayPart → BayPart) (s : State) (h : Keeps q n s) :
    Keeps q n (modBay b f s) := by
  unfold modBay
  repeat' first
    | with_reducible assumption
    | with_reducible intro _
    | with_reducible apply keeps_parts
    | with_reducible apply ite_keeps
    | with_reducible apply foldl_keeps
    | with_reducible apply foldl_pair_keeps
    | split
    | rw [keeps_mk_iff]
    | dsimp only

theorem returnBays_keeps (i : Nat) (s : State) (h : Keeps q n s) :
    Keeps q n (returnBays i s) := by
  unfold returnBays
  repeat' first
    | with_reducible assumption
    | with_reducible intro _
    | with_reducible apply keeps_parts
    | with_reducible apply ite_keeps
    | with_reducible apply foldl_keeps
    | with_reducible apply foldl_pair_keeps
    | split
    | rw [keeps_mk_iff]
    | dsimp only

theorem freeSegPages_keeps (i : Nat) (s : State) (h : Keeps q n s) :
    Keeps q n (freeSegPages i s) := by
  unfold freeSegPages
  repeat' first
    | with_reducible assumption
    | with_reducible intro _
    | with_reducible apply keeps_parts
    | with_reducible apply releaseFrame_keeps
    | with_reducible apply ite_keeps
    | with_reducible apply foldl_keeps
    | with_reducible apply foldl_pair_keeps
    | split
    | rw [keeps_mk_iff]
    | dsimp only

theorem execLayerSegBegin_keeps (m : CmdMeta) (heat : Nat) (seg : Nat) (descs : Nat) (tensors : Nat) (s : State) (h : Keeps q n s) :
    Answers q n (execLayerSegBegin m heat seg descs tensors s) := by
  unfold execLayerSegBegin
  repeat' first
    | with_reducible assumption
    | with_reducible intro _
    | with_reducible apply keeps_parts
    | with_reducible apply command_keeps
    | with_reducible apply refuse_keeps
    | with_reducible apply done_keeps
    | with_reducible apply putSeg_keeps
    | with_reducible apply answers_next
    | with_reducible apply answers_fault
    | with_reducible apply answers_refused
    | with_reducible apply ite_answers
    | with_reducible apply ite_keeps
    | with_reducible apply foldl_keeps
    | with_reducible apply foldl_pair_keeps
    | split
    | rw [keeps_mk_iff]
    | dsimp only

theorem writeEntries_keeps (c : CmdRef) (seg : Nat) (first : Nat) (entries : List Nat) (resvOk : List Byte → Bool) (limit : Seg → Nat) (x6 : Seg → Seg) (s : State) (h : Keeps q n s) :
    Keeps q n (writeEntries c seg first entries resvOk limit x6 s) := by
  unfold writeEntries
  repeat' first
    | with_reducible assumption
    | with_reducible intro _
    | with_reducible apply keeps_parts
    | with_reducible apply refuse_keeps
    | with_reducible apply done_keeps
    | with_reducible apply putSeg_keeps
    | with_reducible apply ite_keeps
    | with_reducible apply foldl_keeps
    | with_reducible apply foldl_pair_keeps
    | split
    | rw [keeps_mk_iff]
    | dsimp only

theorem execLayerTensorWrite_keeps (m : CmdMeta) (seg : Nat) (first : Nat) (entries : List Nat) (s : State) (h : Keeps q n s) :
    Answers q n (execLayerTensorWrite m seg first entries s) := by
  unfold execLayerTensorWrite
  repeat' first
    | with_reducible assumption
    | with_reducible intro _
    | with_reducible apply keeps_parts
    | with_reducible apply command_keeps
    | with_reducible apply writeEntries_keeps
    | with_reducible apply answers_next
    | with_reducible apply answers_fault
    | with_reducible apply answers_refused
    | with_reducible apply ite_answers
    | with_reducible apply ite_keeps
    | with_reducible apply foldl_keeps
    | with_reducible apply foldl_pair_keeps
    | split
    | rw [keeps_mk_iff]
    | dsimp only

theorem execLayerDescWrite_keeps (m : CmdMeta) (seg : Nat) (first : Nat) (entries : List Nat) (s : State) (h : Keeps q n s) :
    Answers q n (execLayerDescWrite m seg first entries s) := by
  unfold execLayerDescWrite
  repeat' first
    | with_reducible assumption
    | with_reducible intro _
    | with_reducible apply keeps_parts
    | with_reducible apply command_keeps
    | with_reducible apply writeEntries_keeps
    | with_reducible apply answers_next
    | with_reducible apply answers_fault
    | with_reducible apply answers_refused
    | with_reducible apply ite_answers
    | with_reducible apply ite_keeps
    | with_reducible apply foldl_keeps
    | with_reducible apply foldl_pair_keeps
    | split
    | rw [keeps_mk_iff]
    | dsimp only

theorem execLayerSegSeal_keeps (m : CmdMeta) (seg : Nat) (s : State) (h : Keeps q n s) :
    Answers q n (execLayerSegSeal m seg s) := by
  unfold execLayerSegSeal
  repeat' first
    | with_reducible assumption
    | with_reducible intro _
    | with_reducible apply keeps_parts
    | with_reducible apply command_keeps
    | with_reducible apply refuse_keeps
    | with_reducible apply answer_keeps
    | with_reducible apply putSeg_keeps
    | with_reducible apply answers_next
    | with_reducible apply answers_fault
    | with_reducible apply answers_refused
    | with_reducible apply ite_answers
    | with_reducible apply ite_keeps
    | with_reducible apply foldl_keeps
    | with_reducible apply foldl_pair_keeps
    | split
    | rw [keeps_mk_iff]
    | dsimp only

theorem takeSegPages_keeps {i heat k : Nat} {l v : List Nat} {s t : State} (e : takeSegPages i heat k l s = some (v, t))
    (h : Keeps q n s) : Keeps q n t := by
  induction k generalizing l s with
  | zero => unfold takeSegPages at e; injection e with e; injection e with _ e; exact e ▸ h
  | succ k ih =>
    unfold takeSegPages at e
    split at e
    · cases e
    · exact ih e (putFrame_keeps _ _ s h)

theorem failPlace_keeps (i : Nat) (status : Nat) (s : State) (h : Keeps q n s) :
    Keeps q n (failPlace i status s) := by
  unfold failPlace
  repeat' first
    | with_reducible assumption
    | with_reducible intro _
    | with_reducible apply keeps_parts
    | with_reducible apply finishOpt_keeps
    | with_reducible apply putSeg_keeps
    | with_reducible apply freeSegPages_keeps
    | with_reducible apply returnBays_keeps
    | with_reducible apply ite_keeps
    | with_reducible apply foldl_keeps
    | with_reducible apply foldl_pair_keeps
    | split
    | rw [keeps_mk_iff]
    | dsimp only

theorem startPlace_keeps (seg : Nat) (g : Seg) (c : Option CmdRef) (bays : Nat) (maxRows : Nat) (s : State) (h : Keeps q n s) :
    Keeps q n (startPlace seg g c bays maxRows s) := by
  unfold startPlace
  repeat' first
    | with_reducible assumption
    | with_reducible intro _
    | with_reducible apply keeps_parts
    | with_reducible apply putSeg_keeps
    | with_reducible apply failPlace_keeps
    | with_reducible apply modBay_keeps
    | with_reducible apply ite_keeps
    | with_reducible apply foldl_keeps
    | with_reducible apply foldl_pair_keeps
    | split
    | rw [keeps_mk_iff]
    | dsimp only

theorem execLayerSegPlace_keeps (m : CmdMeta) (seg : Nat) (bays : Nat) (maxRows : Nat) (s : State) (h : Keeps q n s) :
    Answers q n (execLayerSegPlace m seg bays maxRows s) := by
  unfold execLayerSegPlace
  repeat' first
    | with_reducible assumption
    | with_reducible intro _
    | with_reducible apply keeps_parts
    | with_reducible apply command_keeps
    | with_reducible apply refuse_keeps
    | with_reducible apply accept_keeps
    | with_reducible apply startPlace_keeps
    | with_reducible apply answers_next
    | with_reducible apply answers_fault
    | with_reducible apply answers_refused
    | with_reducible apply ite_answers
    | with_reducible apply ite_keeps
    | with_reducible apply foldl_keeps
    | with_reducible apply foldl_pair_keeps
    | split
    | rw [keeps_mk_iff]
    | dsimp only

theorem settleRemove_keeps (i : Nat) (s : State) (h : Keeps q n s) :
    Keeps q n (settleRemove i s) := by
  unfold settleRemove
  repeat' first
    | with_reducible assumption
    | with_reducible intro _
    | with_reducible apply keeps_parts
    | with_reducible apply finishOpt_keeps
    | with_reducible apply ite_keeps
    | with_reducible apply foldl_keeps
    | with_reducible apply foldl_pair_keeps
    | split
    | rw [keeps_mk_iff]
    | dsimp only

theorem execBayOwnershipTransfer_keeps (bay : Nat) (s : State) (h : Keeps q n s) :
    Answers q n (execBayOwnershipTransfer bay s) := by
  unfold execBayOwnershipTransfer
  repeat' first
    | with_reducible assumption
    | with_reducible intro _
    | with_reducible apply keeps_parts
    | with_reducible apply decided_keeps
    | with_reducible apply modBay_keeps
    | with_reducible apply wakeBay_keeps
    | with_reducible apply modSeg_keeps
    | with_reducible apply settleRemove_keeps
    | with_reducible apply answers_next
    | with_reducible apply answers_fault
    | with_reducible apply answers_refused
    | with_reducible apply ite_answers
    | with_reducible apply ite_keeps
    | with_reducible apply foldl_keeps
    | with_reducible apply foldl_pair_keeps
    | split
    | rw [keeps_mk_iff]
    | dsimp only

theorem missBays_keeps (seg : Nat) (s : State) (h : Keeps q n s) :
    Keeps q n (missBays seg s) := by
  unfold missBays
  repeat' first
    | with_reducible assumption
    | with_reducible intro _
    | with_reducible apply keeps_parts
    | with_reducible apply failPlace_keeps
    | with_reducible apply advanceTo_keeps
    | with_reducible apply ite_keeps
    | with_reducible apply foldl_keeps
    | with_reducible apply foldl_pair_keeps
    | split
    | rw [keeps_mk_iff]
    | dsimp only

theorem notePlaced_keeps (g : Seg) (s : State) (h : Keeps q n s) :
    Keeps q n (notePlaced g s) := by
  unfold notePlaced
  repeat' first
    | with_reducible assumption
    | with_reducible intro _
    | with_reducible apply keeps_parts
    | with_reducible apply modCtx_keeps
    | with_reducible apply leaf_keeps
    | with_reducible apply ite_keeps
    | with_reducible apply foldl_keeps
    | with_reducible apply foldl_pair_keeps
    | split
    | rw [keeps_mk_iff]
    | dsimp only

theorem settlePlace_keeps (i : Nat) (g : Seg) (sram : Nat) (s : State) (h : Keeps q n s) : Keeps q n (settlePlace i g sram s) := by
  unfold settlePlace
  generalize e : takeSegPages i g.heat _ [] s = o
  cases o
  · exact failPlace_keeps _ _ _ h
  · exact finishOpt_keeps _ _ _ _ (notePlaced_keeps _ _ (putSeg_keeps _ _ _ (takeSegPages_keeps e h)))

theorem placeSegment_keeps (i : Nat) (s : State) (h : Keeps q n s) :
    Keeps q n (placeSegment i s) := by
  unfold placeSegment
  repeat' first
    | with_reducible assumption
    | with_reducible intro _
    | with_reducible apply keeps_parts
    | with_reducible apply failPlace_keeps
    | with_reducible apply settlePlace_keeps
    | with_reducible apply ite_keeps
    | with_reducible apply foldl_keeps
    | with_reducible apply foldl_pair_keeps
    | split
    | rw [keeps_mk_iff]
    | dsimp only

theorem beginRemove_keeps (seg : Nat) (g : Seg) (c : CmdRef) (s : State) (h : Keeps q n s) :
    Keeps q n (beginRemove seg g c s) := by
  unfold beginRemove
  repeat' first
    | with_reducible assumption
    | with_reducible intro _
    | with_reducible apply keeps_parts
    | with_reducible apply putSeg_keeps
    | with_reducible apply freeSegPages_keeps
    | with_reducible apply settleRemove_keeps
    | with_reducible apply modBay_keeps
    | with_reducible apply ite_keeps
    | with_reducible apply foldl_keeps
    | with_reducible apply foldl_pair_keeps
    | split
    | rw [keeps_mk_iff]
    | dsimp only

theorem execLayerSegRemove_keeps (m : CmdMeta) (seg : Nat) (s : State) (h : Keeps q n s) :
    Answers q n (execLayerSegRemove m seg s) := by
  unfold execLayerSegRemove
  repeat' first
    | with_reducible assumption
    | with_reducible intro _
    | with_reducible apply keeps_parts
    | with_reducible apply command_keeps
    | with_reducible apply refuse_keeps
    | with_reducible apply accept_keeps
    | with_reducible apply beginRemove_keeps
    | with_reducible apply answers_next
    | with_reducible apply answers_fault
    | with_reducible apply answers_refused
    | with_reducible apply ite_answers
    | with_reducible apply ite_keeps
    | with_reducible apply foldl_keeps
    | with_reducible apply foldl_pair_keeps
    | split
    | rw [keeps_mk_iff]
    | dsimp only

theorem queueRun_keeps (seg : Nat) (r : Run) (bays : List Nat) (s : State) (h : Keeps q n s) :
    Keeps q n (queueRun seg r bays s) := by
  unfold queueRun
  repeat' first
    | with_reducible assumption
    | with_reducible intro _
    | with_reducible apply keeps_parts
    | with_reducible apply stepLeaf_keeps
    | with_reducible apply wakeBay_keeps
    | with_reducible apply modSeg_keeps
    | with_reducible apply ite_keeps
    | with_reducible apply foldl_keeps
    | with_reducible apply foldl_pair_keeps
    | split
    | rw [keeps_mk_iff]
    | dsimp only

theorem execLayerRun_keeps (m : CmdMeta) (heat : Nat) (seg : Nat) (pass : Nat) (runTag : Nat) (fwdTag : Nat) (rows : Nat) (firstDesc : Nat) (lastDesc : Nat) (deadline : Nat) (pairs : List (Nat × Nat)) (s : State) (h : Keeps q n s) :
    Answers q n (execLayerRun m heat seg pass runTag fwdTag rows firstDesc lastDesc deadline pairs s) := by
  unfold execLayerRun
  repeat' first
    | with_reducible assumption
    | with_reducible intro _
    | with_reducible apply keeps_parts
    | with_reducible apply command_keeps
    | with_reducible apply refuse_keeps
    | with_reducible apply accept_keeps
    | with_reducible apply queueRun_keeps
    | with_reducible apply answers_next
    | with_reducible apply answers_fault
    | with_reducible apply answers_refused
    | with_reducible apply ite_answers
    | with_reducible apply ite_keeps
    | with_reducible apply foldl_keeps
    | with_reducible apply foldl_pair_keeps
    | split
    | rw [keeps_mk_iff]
    | dsimp only

end Sys2Proof.Machine
end

