-- ==== Sys2Proof/Laws/KeepLayerRun.lean ====
section
/-! SUPPORT. What the operations of Machine/LayerRun.lean keep: the queue, the clock and the canonical form of HBM and the registers. -/
namespace Sys2Proof.Machine

variable {q : List Instr} {n : Nat}

theorem setReady_keeps (i : Nat) (g : Seg) (rs : RunState) (s : State) (h : Keeps q n s) :
    Keeps q n (setReady i g rs s) := by
  unfold setReady
  repeat' first
    | with_reducible assumption
    | with_reducible intro _
    | with_reducible apply keeps_parts
    | with_reducible apply modSeg_keeps
    | with_reducible apply ite_keeps
    | with_reducible apply foldl_keeps
    | with_reducible apply foldl_pair_keeps
    | split
    | rw [keeps_mk_iff]
    | dsimp only

theorem spoilOutputs_keeps (i : Nat) (g : Seg) (rs : RunState) (s : State) (h : Keeps q n s) :
    Keeps q n (spoilOutputs i g rs s) := by
  unfold spoilOutputs
  repeat' first
    | with_reducible assumption
    | with_reducible intro _
    | with_reducible apply keeps_parts
    | with_reducible apply modSeg_keeps
    | with_reducible apply useFree_keeps
    | with_reducible apply spanWrite_keeps
    | with_reducible apply ite_keeps
    | with_reducible apply foldl_keeps
    | with_reducible apply foldl_pair_keeps
    | split
    | rw [keeps_mk_iff]
    | dsimp only

theorem endRun_keeps (i : Nat) (status : Nat) (cause : Nat) (failedAt : Nat) (s : State) (h : Keeps q n s) :
    Keeps q n (endRun i status cause failedAt s) := by
  unfold endRun
  repeat' first
    | with_reducible assumption
    | with_reducible intro _
    | with_reducible apply keeps_parts
    | with_reducible apply setReady_keeps
    | with_reducible apply spoilOutputs_keeps
    | with_reducible apply modSeg_keeps
    | with_reducible apply incReg_keeps
    | with_reducible apply leaf_keeps
    | with_reducible apply contributeAll_keeps
    | with_reducible apply finish_keeps
    | with_reducible apply ite_keeps
    | with_reducible apply foldl_keeps
    | with_reducible apply foldl_pair_keeps
    | split
    | rw [keeps_mk_iff]
    | dsimp only

theorem failAccess_keeps (i : Nat) (x1 : AccErr) (gfa : Nat) (at' : Nat) (s : State) (h : Keeps q n s) :
    Keeps q n (failAccess i x1 gfa at' s) := by
  unfold failAccess
  repeat' first
    | with_reducible assumption
    | with_reducible intro _
    | with_reducible apply keeps_parts
    | with_reducible apply endRun_keeps
    | with_reducible apply logEvent_keeps
    | with_reducible apply incReg_keeps
    | with_reducible apply ite_keeps
    | with_reducible apply foldl_keeps
    | with_reducible apply foldl_pair_keeps
    | split
    | rw [keeps_mk_iff]
    | dsimp only

theorem reloadWeights_keeps (i : Nat) (g : Seg) (s : State) (h : Keeps q n s) :
    Keeps q n (reloadWeights i g s) := by
  unfold reloadWeights
  repeat' first
    | with_reducible assumption
    | with_reducible intro _
    | with_reducible apply keeps_parts
    | with_reducible apply incReg_keeps
    | with_reducible apply modSeg_keeps
    | with_reducible apply ite_keeps
    | with_reducible apply foldl_keeps
    | with_reducible apply foldl_pair_keeps
    | split
    | rw [keeps_mk_iff]
    | dsimp only

theorem startRun_keeps (i : Nat) (s : State) (h : Keeps q n s) :
    Keeps q n (startRun i s) := by
  unfold startRun
  repeat' first
    | with_reducible assumption
    | with_reducible intro _
    | with_reducible apply keeps_parts
    | with_reducible apply advanceTo_keeps
    | with_reducible apply modSeg_keeps
    | with_reducible apply endRun_keeps
    | with_reducible apply reloadWeights_keeps
    | with_reducible apply failAccess_keeps
    | with_reducible apply ite_keeps
    | with_reducible apply foldl_keeps
    | with_reducible apply foldl_pair_keeps
    | split
    | rw [keeps_mk_iff]
    | dsimp only

theorem execLayerRunStart_keeps (seg : Nat) (s : State) (h : Keeps q n s) :
    Answers q n (execLayerRunStart seg s) := by
  unfold execLayerRunStart
  repeat' first
    | with_reducible assumption
    | with_reducible intro _
    | with_reducible apply keeps_parts
    | with_reducible apply startRun_keeps
    | with_reducible apply answers_next
    | with_reducible apply answers_fault
    | with_reducible apply answers_refused
    | with_reducible apply ite_answers
    | with_reducible apply ite_keeps
    | with_reducible apply foldl_keeps
    | with_reducible apply foldl_pair_keeps
    | split
    | rw [keeps_mk_iff]
    | dsimp only

theorem writeTensor_keeps (i : Nat) (g : Seg) (rs : RunState) (w : Nat × List Nat) (s : State) (h : Keeps q n s) :
    Keeps q n (writeTensor i g rs w s) := by
  unfold writeTensor
  repeat' first
    | with_reducible assumption
    | with_reducible intro _
    | with_reducible apply keeps_parts
    | with_reducible apply spanWrite_keeps
    | with_reducible apply modSeg_keeps
    | with_reducible apply ite_keeps
    | with_reducible apply foldl_keeps
    | with_reducible apply foldl_pair_keeps
    | split
    | rw [keeps_mk_iff]
    | dsimp only

theorem boundary_keeps (i : Nat) (s : State) (h : Keeps q n s) :
    Keeps q n (boundary i s) := by
  unfold boundary
  repeat' first
    | with_reducible assumption
    | with_reducible intro _
    | with_reducible apply keeps_parts
    | with_reducible apply endRun_keeps
    | with_reducible apply logEvent_keeps
    | with_reducible apply ite_keeps
    | with_reducible apply foldl_keeps
    | with_reducible apply foldl_pair_keeps
    | split
    | rw [keeps_mk_iff]
    | dsimp only

theorem runDescriptor_keeps (i : Nat) (s : State) (h : Keeps q n s) :
    Keeps q n (runDescriptor i s) := by
  unfold runDescriptor
  repeat' first
    | with_reducible assumption
    | with_reducible intro _
    | with_reducible apply keeps_parts
    | with_reducible apply boundary_keeps
    | with_reducible apply failAccess_keeps
    | with_reducible apply writeTensor_keeps
    | with_reducible apply useFree_keeps
    | with_reducible apply modSeg_keeps
    | with_reducible apply raiseSomewhere_keeps
    | with_reducible apply ite_keeps
    | with_reducible apply foldl_keeps
    | with_reducible apply foldl_pair_keeps
    | split
    | rw [keeps_mk_iff]
    | dsimp only

theorem execLayerDescriptorDone_keeps (seg : Nat) (s : State) (h : Keeps q n s) :
    Answers q n (execLayerDescriptorDone seg s) := by
  unfold execLayerDescriptorDone
  repeat' first
    | with_reducible assumption
    | with_reducible intro _
    | with_reducible apply keeps_parts
    | with_reducible apply runDescriptor_keeps
    | with_reducible apply answers_next
    | with_reducible apply answers_fault
    | with_reducible apply answers_refused
    | with_reducible apply ite_answers
    | with_reducible apply ite_keeps
    | with_reducible apply foldl_keeps
    | with_reducible apply foldl_pair_keeps
    | split
    | rw [keeps_mk_iff]
    | dsimp only

theorem execLayerRunDeadline_keeps (seg : Nat) (s : State) (h : Keeps q n s) :
    Answers q n (execLayerRunDeadline seg s) := by
  unfold execLayerRunDeadline
  repeat' first
    | with_reducible assumption
    | with_reducible intro _
    | with_reducible apply keeps_parts
    | with_reducible apply modSeg_keeps
    | with_reducible apply advanceTo_keeps
    | with_reducible apply answers_next
    | with_reducible apply answers_fault
    | with_reducible apply answers_refused
    | with_reducible apply ite_answers
    | with_reducible apply ite_keeps
    | with_reducible apply foldl_keeps
    | with_reducible apply foldl_pair_keeps
    | split
    | rw [keeps_mk_iff]
    | dsimp only

theorem endQueued_keeps (i : Nat) (r : Run) (s : State) (h : Keeps q n s) :
    Keeps q n (endQueued i r s) := by
  unfold endQueued
  repeat' first
    | with_reducible assumption
    | with_reducible intro _
    | with_reducible apply keeps_parts
    | with_reducible apply incReg_keeps
    | with_reducible apply modSeg_keeps
    | with_reducible apply leaf_keeps
    | with_reducible apply finish_keeps
    | with_reducible apply ite_keeps
    | with_reducible apply foldl_keeps
    | with_reducible apply foldl_pair_keeps
    | split
    | rw [keeps_mk_iff]
    | dsimp only

theorem abortRuns_keeps (seg : Nat) (g : Seg) (s : State) (h : Keeps q n s) :
    Keeps q n (abortRuns seg g s) := by
  unfold abortRuns
  repeat' first
    | with_reducible assumption
    | with_reducible intro _
    | with_reducible apply keeps_parts
    | with_reducible apply endQueued_keeps
    | with_reducible apply modSeg_keeps
    | with_reducible apply ite_keeps
    | with_reducible apply foldl_keeps
    | with_reducible apply foldl_pair_keeps
    | split
    | rw [keeps_mk_iff]
    | dsimp only

theorem execLayerAbort_keeps (m : CmdMeta) (heat : Nat) (seg : Nat) (s : State) (h : Keeps q n s) :
    Answers q n (execLayerAbort m heat seg s) := by
  unfold execLayerAbort
  repeat' first
    | with_reducible assumption
    | with_reducible intro _
    | with_reducible apply keeps_parts
    | with_reducible apply command_keeps
    | with_reducible apply refuse_keeps
    | with_reducible apply done_keeps
    | with_reducible apply abortRuns_keeps
    | with_reducible apply answers_next
    | with_reducible apply answers_fault
    | with_reducible apply answers_refused
    | with_reducible apply ite_answers
    | with_reducible apply ite_keeps
    | with_reducible apply foldl_keeps
    | with_reducible apply foldl_pair_keeps
    | split
    | rw [keeps_mk_iff]
    | dsimp only

theorem execLayerQuery_keeps (m : CmdMeta) (seg : Nat) (s : State) (h : Keeps q n s) :
    Answers q n (execLayerQuery m seg s) := by
  unfold execLayerQuery
  repeat' first
    | with_reducible assumption
    | with_reducible intro _
    | with_reducible apply keeps_parts
    | with_reducible apply command_keeps
    | with_reducible apply refuse_keeps
    | with_reducible apply answer_keeps
    | with_reducible apply answers_next
    | with_reducible apply answers_fault
    | with_reducible apply answers_refused
    | with_reducible apply ite_answers
    | with_reducible apply ite_keeps
    | with_reducible apply foldl_keeps
    | with_reducible apply foldl_pair_keeps
    | split
    | rw [keeps_mk_iff]
    | dsimp only

theorem execLayerSavedRelease_keeps (m : CmdMeta) (seg : Nat) (runTag : Nat) (s : State) (h : Keeps q n s) :
    Answers q n (execLayerSavedRelease m seg runTag s) := by
  unfold execLayerSavedRelease
  repeat' first
    | with_reducible assumption
    | with_reducible intro _
    | with_reducible apply keeps_parts
    | with_reducible apply command_keeps
    | with_reducible apply refuse_keeps
    | with_reducible apply done_keeps
    | with_reducible apply modSeg_keeps
    | with_reducible apply answers_next
    | with_reducible apply answers_fault
    | with_reducible apply answers_refused
    | with_reducible apply ite_answers
    | with_reducible apply ite_keeps
    | with_reducible apply foldl_keeps
    | with_reducible apply foldl_pair_keeps
    | split
    | rw [keeps_mk_iff]
    | dsimp only

theorem execLayerStats_keeps (m : CmdMeta) (s : State) (h : Keeps q n s) :
    Answers q n (execLayerStats m s) := by
  unfold execLayerStats
  repeat' first
    | with_reducible assumption
    | with_reducible intro _
    | with_reducible apply keeps_parts
    | with_reducible apply command_keeps
    | with_reducible apply answer_keeps
    | with_reducible apply answers_next
    | with_reducible apply answers_fault
    | with_reducible apply answers_refused
    | with_reducible apply ite_answers
    | with_reducible apply ite_keeps
    | with_reducible apply foldl_keeps
    | with_reducible apply foldl_pair_keeps
    | split
    | rw [keeps_mk_iff]
    | dsimp only

end Sys2Proof.Machine
end

