-- ==== Sys2Proof/Laws/KeepBinding.lean ====
section
/-! SUPPORT. What the operations of Machine/Binding.lean keep: the queue, the clock and the canonical form of HBM and the registers. -/
namespace Sys2Proof.Machine

variable {q : List Instr} {n : Nat}

theorem putBind_keeps (heat : Nat) (f : Nat) (c : Nat) (mask : Nat) (s : State) (h : Keeps q n s) :
    Keeps q n (putBind heat f c mask s) := by
  unfold putBind
  repeat' first
    | with_reducible assumption
    | with_reducible intro _
    | with_reducible apply keeps_parts
    | with_reducible apply ite_keeps
    | with_reducible apply foldl_keeps
    | with_reducible apply foldl_pair_keeps
    | split
    | rw [keeps_mk_iff]
    | dsimp only

theorem execHeatBind_keeps (m : CmdMeta) (heat : Nat) (f : Nat) (c : Nat) (mask : Nat) (s : State) (h : Keeps q n s) :
    Answers q n (execHeatBind m heat f c mask s) := by
  unfold execHeatBind
  repeat' first
    | with_reducible assumption
    | with_reducible intro _
    | with_reducible apply keeps_parts
    | with_reducible apply command_keeps
    | with_reducible apply done_keeps
    | with_reducible apply putBind_keeps
    | with_reducible apply refuse_keeps
    | with_reducible apply answers_next
    | with_reducible apply answers_fault
    | with_reducible apply answers_refused
    | with_reducible apply ite_answers
    | with_reducible apply ite_keeps
    | with_reducible apply foldl_keeps
    | with_reducible apply foldl_pair_keeps
    | split
    | rw [keeps_mk_iff]
    | dsimp only

theorem dropBind_keeps (heat : Nat) (s : State) (h : Keeps q n s) :
    Keeps q n (dropBind heat s) := by
  unfold dropBind
  repeat' first
    | with_reducible assumption
    | with_reducible intro _
    | with_reducible apply keeps_parts
    | with_reducible apply ite_keeps
    | with_reducible apply foldl_keeps
    | with_reducible apply foldl_pair_keeps
    | split
    | rw [keeps_mk_iff]
    | dsimp only

theorem execHeatUnbind_keeps (m : CmdMeta) (heat : Nat) (s : State) (h : Keeps q n s) :
    Answers q n (execHeatUnbind m heat s) := by
  unfold execHeatUnbind
  repeat' first
    | with_reducible assumption
    | with_reducible intro _
    | with_reducible apply keeps_parts
    | with_reducible apply command_keeps
    | with_reducible apply refuse_keeps
    | with_reducible apply done_keeps
    | with_reducible apply dropBind_keeps
    | with_reducible apply answers_next
    | with_reducible apply answers_fault
    | with_reducible apply answers_refused
    | with_reducible apply ite_answers
    | with_reducible apply ite_keeps
    | with_reducible apply foldl_keeps
    | with_reducible apply foldl_pair_keeps
    | split
    | rw [keeps_mk_iff]
    | dsimp only

theorem execHeatList_keeps (m : CmdMeta) (first : Nat) (s : State) (h : Keeps q n s) :
    Answers q n (execHeatList m first s) := by
  unfold execHeatList
  repeat' first
    | with_reducible assumption
    | with_reducible intro _
    | with_reducible apply keeps_parts
    | with_reducible apply command_keeps
    | with_reducible apply requires_keeps
    | with_reducible apply answer_keeps
    | with_reducible apply answers_next
    | with_reducible apply answers_fault
    | with_reducible apply answers_refused
    | with_reducible apply ite_answers
    | with_reducible apply ite_keeps
    | with_reducible apply foldl_keeps
    | with_reducible apply foldl_pair_keeps
    | split
    | rw [keeps_mk_iff]
    | dsimp only

end Sys2Proof.Machine
end

