-- ==== Sys2Proof/Laws/KeepDet.lean ====
section
/-! SUPPORT. What the operations of Machine/Det.lean keep: the queue, the clock and the canonical form of HBM and the registers. -/
namespace Sys2Proof.Machine

variable {q : List Instr} {n : Nat}

theorem formRecord_keeps (kind : Nat) (heat : Nat) (c : DetCtx) (p : CtxPart) (sign : Bool) (cmd : CmdRef) (s : State) (h : Keeps q n s) :
    Keeps q n (formRecord kind heat c p sign cmd s) := by
  unfold formRecord
  repeat' first
    | with_reducible assumption
    | with_reducible intro _
    | with_reducible apply keeps_parts
    | with_reducible apply incReg_keeps
    | with_reducible apply finish_keeps
    | with_reducible apply ite_keeps
    | with_reducible apply foldl_keeps
    | with_reducible apply foldl_pair_keeps
    | split
    | rw [keeps_mk_iff]
    | dsimp only

theorem boundOr_keeps (heat : Nat) (c : CmdRef) (x2 : State → State) (s : State) (hx2 : ∀ a0, Keeps q n a0 → Keeps q n (x2 a0)) (h : Keeps q n s) :
    Keeps q n (boundOr heat c x2 s) := by
  unfold boundOr
  repeat' first
    | with_reducible assumption
    | with_reducible intro _
    | with_reducible apply keeps_parts
    | with_reducible apply hx2
    | with_reducible apply requires_keeps
    | with_reducible apply ite_keeps
    | with_reducible apply foldl_keeps
    | with_reducible apply foldl_pair_keeps
    | split
    | rw [keeps_mk_iff]
    | dsimp only

theorem execDetStatus_keeps (m : CmdMeta) (heat : Nat) (s : State) (h : Keeps q n s) :
    Answers q n (execDetStatus m heat s) := by
  unfold execDetStatus
  repeat' first
    | with_reducible assumption
    | with_reducible intro _
    | with_reducible apply keeps_parts
    | with_reducible apply command_keeps
    | with_reducible apply boundOr_keeps
    | with_reducible apply answer_keeps
    | with_reducible apply answers_next
    | with_reducible apply answers_fault
    | with_reducible apply answers_refused
    | with_reducible apply ite_answers
    | with_reducible apply ite_keeps
    | with_reducible apply foldl_keeps
    | with_reducible apply foldl_pair_keeps
    | split
    | rw [keeps_mk_iff]
    | dsimp only

theorem execDetRecordOpen_keeps (m : CmdMeta) (heat : Nat) (record : Nat) (scope : Nat) (s : State) (h : Keeps q n s) :
    Answers q n (execDetRecordOpen m heat record scope s) := by
  unfold execDetRecordOpen
  repeat' first
    | with_reducible assumption
    | with_reducible intro _
    | with_reducible apply keeps_parts
    | with_reducible apply command_keeps
    | with_reducible apply refuse_keeps
    | with_reducible apply boundOr_keeps
    | with_reducible apply done_keeps
    | with_reducible apply answers_next
    | with_reducible apply answers_fault
    | with_reducible apply answers_refused
    | with_reducible apply ite_answers
    | with_reducible apply ite_keeps
    | with_reducible apply foldl_keeps
    | with_reducible apply foldl_pair_keeps
    | split
    | rw [keeps_mk_iff]
    | dsimp only

theorem execDetDigestRange_keeps (m : CmdMeta) (heat : Nat) (kind : Nat) (gfa : Nat) (length : Nat) (s : State) (h : Keeps q n s) :
    Answers q n (execDetDigestRange m heat kind gfa length s) := by
  unfold execDetDigestRange
  repeat' first
    | with_reducible assumption
    | with_reducible intro _
    | with_reducible apply keeps_parts
    | with_reducible apply command_keeps
    | with_reducible apply refuse_keeps
    | with_reducible apply boundOr_keeps
    | with_reducible apply accept_keeps
    | with_reducible apply answers_next
    | with_reducible apply answers_fault
    | with_reducible apply answers_refused
    | with_reducible apply ite_answers
    | with_reducible apply ite_keeps
    | with_reducible apply foldl_keeps
    | with_reducible apply foldl_pair_keeps
    | split
    | rw [keeps_mk_iff]
    | dsimp only

theorem addRange_keeps (j : DigestJob) (s : State) (h : Keeps q n s) :
    Keeps q n (addRange j s) := by
  unfold addRange
  repeat' first
    | with_reducible assumption
    | with_reducible intro _
    | with_reducible apply keeps_parts
    | with_reducible apply finish_keeps
    | with_reducible apply leaf_keeps
    | with_reducible apply ite_keeps
    | with_reducible apply foldl_keeps
    | with_reducible apply foldl_pair_keeps
    | split
    | rw [keeps_mk_iff]
    | dsimp only

theorem execDigestRangeDone_keeps (heat : Nat) (s : State) (h : Keeps q n s) :
    Answers q n (execDigestRangeDone heat s) := by
  unfold execDigestRangeDone
  repeat' first
    | with_reducible assumption
    | with_reducible intro _
    | with_reducible apply keeps_parts
    | with_reducible apply finish_keeps
    | with_reducible apply addRange_keeps
    | with_reducible apply answers_next
    | with_reducible apply answers_fault
    | with_reducible apply answers_refused
    | with_reducible apply ite_answers
    | with_reducible apply ite_keeps
    | with_reducible apply foldl_keeps
    | with_reducible apply foldl_pair_keeps
    | split
    | rw [keeps_mk_iff]
    | dsimp only

theorem closeRecord_keeps (heat : Nat) (x : DetCtx) (scope : Nat) (sign : Bool) (c : CmdRef) (s : State) (h : Keeps q n s) :
    Keeps q n (closeRecord heat x scope sign c s) := by
  unfold closeRecord
  repeat' first
    | with_reducible assumption
    | with_reducible intro _
    | with_reducible apply keeps_parts
    | with_reducible apply formRecord_keeps
    | with_reducible apply emitCtl_keeps
    | with_reducible apply ite_keeps
    | with_reducible apply foldl_keeps
    | with_reducible apply foldl_pair_keeps
    | split
    | rw [keeps_mk_iff]
    | dsimp only

theorem execDetRecordClose_keeps (m : CmdMeta) (heat : Nat) (scope : Nat) (sign : Nat) (s : State) (h : Keeps q n s) :
    Answers q n (execDetRecordClose m heat scope sign s) := by
  unfold execDetRecordClose
  repeat' first
    | with_reducible assumption
    | with_reducible intro _
    | with_reducible apply keeps_parts
    | with_reducible apply command_keeps
    | with_reducible apply refuse_keeps
    | with_reducible apply boundOr_keeps
    | with_reducible apply incReg_keeps
    | with_reducible apply accept_keeps
    | with_reducible apply closeRecord_keeps
    | with_reducible apply answers_next
    | with_reducible apply answers_fault
    | with_reducible apply answers_refused
    | with_reducible apply ite_answers
    | with_reducible apply ite_keeps
    | with_reducible apply foldl_keeps
    | with_reducible apply foldl_pair_keeps
    | split
    | rw [keeps_mk_iff]
    | dsimp only

theorem finishClose_keeps (j : CloseJob) (s : State) (h : Keeps q n s) :
    Keeps q n (finishClose j s) := by
  unfold finishClose
  repeat' first
    | with_reducible assumption
    | with_reducible intro _
    | with_reducible apply keeps_parts
    | with_reducible apply finish_keeps
    | with_reducible apply incReg_keeps
    | with_reducible apply formRecord_keeps
    | with_reducible apply ite_keeps
    | with_reducible apply foldl_keeps
    | with_reducible apply foldl_pair_keeps
    | split
    | rw [keeps_mk_iff]
    | dsimp only

theorem execRecordCloseReply_keeps (peer : Nat) (heat : Nat) (body : List Byte) (s : State) (h : Keeps q n s) :
    Answers q n (execRecordCloseReply peer heat body s) := by
  unfold execRecordCloseReply
  repeat' first
    | with_reducible assumption
    | with_reducible intro _
    | with_reducible apply keeps_parts
    | with_reducible apply finishClose_keeps
    | with_reducible apply answers_next
    | with_reducible apply answers_fault
    | with_reducible apply answers_refused
    | with_reducible apply ite_answers
    | with_reducible apply ite_keeps
    | with_reducible apply foldl_keeps
    | with_reducible apply foldl_pair_keeps
    | split
    | rw [keeps_mk_iff]
    | dsimp only

theorem execRecordCloseTimeout_keeps (heat : Nat) (s : State) (h : Keeps q n s) :
    Answers q n (execRecordCloseTimeout heat s) := by
  unfold execRecordCloseTimeout
  repeat' first
    | with_reducible assumption
    | with_reducible intro _
    | with_reducible apply keeps_parts
    | with_reducible apply advanceTo_keeps
    | with_reducible apply finish_keeps
    | with_reducible apply answers_next
    | with_reducible apply answers_fault
    | with_reducible apply answers_refused
    | with_reducible apply ite_answers
    | with_reducible apply ite_keeps
    | with_reducible apply foldl_keeps
    | with_reducible apply foldl_pair_keeps
    | split
    | rw [keeps_mk_iff]
    | dsimp only

theorem execDetRecordRead_keeps (m : CmdMeta) (heat : Nat) (s : State) (h : Keeps q n s) :
    Answers q n (execDetRecordRead m heat s) := by
  unfold execDetRecordRead
  repeat' first
    | with_reducible assumption
    | with_reducible intro _
    | with_reducible apply keeps_parts
    | with_reducible apply command_keeps
    | with_reducible apply boundOr_keeps
    | with_reducible apply answer_keeps
    | with_reducible apply refuse_keeps
    | with_reducible apply answers_next
    | with_reducible apply answers_fault
    | with_reducible apply answers_refused
    | with_reducible apply ite_answers
    | with_reducible apply ite_keeps
    | with_reducible apply foldl_keeps
    | with_reducible apply foldl_pair_keeps
    | split
    | rw [keeps_mk_iff]
    | dsimp only

theorem execDetStepSet_keeps (m : CmdMeta) (heat : Nat) (step : Nat) (s : State) (h : Keeps q n s) :
    Answers q n (execDetStepSet m heat step s) := by
  unfold execDetStepSet
  repeat' first
    | with_reducible assumption
    | with_reducible intro _
    | with_reducible apply keeps_parts
    | with_reducible apply command_keeps
    | with_reducible apply boundOr_keeps
    | with_reducible apply done_keeps
    | with_reducible apply answers_next
    | with_reducible apply answers_fault
    | with_reducible apply answers_refused
    | with_reducible apply ite_answers
    | with_reducible apply ite_keeps
    | with_reducible apply foldl_keeps
    | with_reducible apply foldl_pair_keeps
    | split
    | rw [keeps_mk_iff]
    | dsimp only

theorem liftPause_keeps (heat : Nat) (s : State) (h : Keeps q n s) :
    Keeps q n (liftPause heat s) := by
  unfold liftPause
  repeat' first
    | with_reducible assumption
    | with_reducible intro _
    | with_reducible apply keeps_parts
    | with_reducible apply ite_keeps
    | with_reducible apply foldl_keeps
    | with_reducible apply foldl_pair_keeps
    | split
    | rw [keeps_mk_iff]
    | dsimp only

theorem endSave_keeps (j : SaveJob) (status : Nat) (body : List Byte) (keep : Bool) (s : State) (h : Keeps q n s) :
    Keeps q n (endSave j status body keep s) := by
  unfold endSave
  repeat' first
    | with_reducible assumption
    | with_reducible intro _
    | with_reducible apply keeps_parts
    | with_reducible apply finish_keeps
    | with_reducible apply liftPause_keeps
    | with_reducible apply ite_keeps
    | with_reducible apply foldl_keeps
    | with_reducible apply foldl_pair_keeps
    | split
    | rw [keeps_mk_iff]
    | dsimp only

theorem beginSave_keeps (j : SaveJob) (s : State) (h : Keeps q n s) :
    Keeps q n (beginSave j s) := by
  unfold beginSave
  repeat' first
    | with_reducible assumption
    | with_reducible intro _
    | with_reducible apply keeps_parts
    | with_reducible apply ite_keeps
    | with_reducible apply foldl_keeps
    | with_reducible apply foldl_pair_keeps
    | split
    | rw [keeps_mk_iff]
    | dsimp only

theorem execSaveHeat_keeps (m : CmdMeta) (heat : Nat) (endpoint : Nat) (offset : Nat) (waitLimit : Nat) (cont : Nat) (s : State) (h : Keeps q n s) :
    Answers q n (execSaveHeat m heat endpoint offset waitLimit cont s) := by
  unfold execSaveHeat
  repeat' first
    | with_reducible assumption
    | with_reducible intro _
    | with_reducible apply keeps_parts
    | with_reducible apply command_keeps
    | with_reducible apply refuse_keeps
    | with_reducible apply boundOr_keeps
    | with_reducible apply accept_keeps
    | with_reducible apply beginSave_keeps
    | with_reducible apply answers_next
    | with_reducible apply answers_fault
    | with_reducible apply answers_refused
    | with_reducible apply ite_answers
    | with_reducible apply ite_keeps
    | with_reducible apply foldl_keeps
    | with_reducible apply foldl_pair_keeps
    | split
    | rw [keeps_mk_iff]
    | dsimp only

theorem sendImage_keeps (j : SaveJob) (img : List Byte) (s : State) (h : Keeps q n s) :
    Keeps q n (sendImage j img s) := by
  unfold sendImage
  repeat' first
    | with_reducible assumption
    | with_reducible intro _
    | with_reducible apply keeps_parts
    | with_reducible apply sendFrom_keeps
    | with_reducible apply ite_keeps
    | with_reducible apply foldl_keeps
    | with_reducible apply foldl_pair_keeps
    | split
    | rw [keeps_mk_iff]
    | dsimp only

theorem execSaveHeatWaitDone_keeps (heat : Nat) (s : State) (h : Keeps q n s) :
    Answers q n (execSaveHeatWaitDone heat s) := by
  unfold execSaveHeatWaitDone
  repeat' first
    | with_reducible assumption
    | with_reducible intro _
    | with_reducible apply keeps_parts
    | with_reducible apply endSave_keeps
    | with_reducible apply sendImage_keeps
    | with_reducible apply answers_next
    | with_reducible apply answers_fault
    | with_reducible apply answers_refused
    | with_reducible apply ite_answers
    | with_reducible apply ite_keeps
    | with_reducible apply foldl_keeps
    | with_reducible apply foldl_pair_keeps
    | split
    | rw [keeps_mk_iff]
    | dsimp only

theorem execSaveHeatWaitTimeout_keeps (heat : Nat) (s : State) (h : Keeps q n s) :
    Answers q n (execSaveHeatWaitTimeout heat s) := by
  unfold execSaveHeatWaitTimeout
  repeat' first
    | with_reducible assumption
    | with_reducible intro _
    | with_reducible apply keeps_parts
    | with_reducible apply endSave_keeps
    | with_reducible apply advanceTo_keeps
    | with_reducible apply answers_next
    | with_reducible apply answers_fault
    | with_reducible apply answers_refused
    | with_reducible apply ite_answers
    | with_reducible apply ite_keeps
    | with_reducible apply foldl_keeps
    | with_reducible apply foldl_pair_keeps
    | split
    | rw [keeps_mk_iff]
    | dsimp only

theorem settleSaves_keeps (s : State) (h : Keeps q n s) :
    Keeps q n (settleSaves s) := by
  unfold settleSaves
  repeat' first
    | with_reducible assumption
    | with_reducible intro _
    | with_reducible apply keeps_parts
    | with_reducible apply endSave_keeps
    | with_reducible apply incReg_keeps
    | with_reducible apply ite_keeps
    | with_reducible apply foldl_keeps
    | with_reducible apply foldl_pair_keeps
    | split
    | rw [keeps_mk_iff]
    | dsimp only

theorem failSave_keeps (id : Nat) (s : State) (h : Keeps q n s) :
    Keeps q n (failSave id s) := by
  unfold failSave
  repeat' first
    | with_reducible assumption
    | with_reducible intro _
    | with_reducible apply keeps_parts
    | with_reducible apply endSave_keeps
    | with_reducible apply ite_keeps
    | with_reducible apply foldl_keeps
    | with_reducible apply foldl_pair_keeps
    | split
    | rw [keeps_mk_iff]
    | dsimp only

theorem beginResume_keeps (j : ResumeJob) (s : State) (h : Keeps q n s) :
    Keeps q n (beginResume j s) := by
  unfold beginResume
  repeat' first
    | with_reducible assumption
    | with_reducible intro _
    | with_reducible apply keeps_parts
    | with_reducible apply sendFrom_keeps
    | with_reducible apply ite_keeps
    | with_reducible apply foldl_keeps
    | with_reducible apply foldl_pair_keeps
    | split
    | rw [keeps_mk_iff]
    | dsimp only

theorem execResumeHeat_keeps (m : CmdMeta) (endpoint : Nat) (offset : Nat) (length : Nat) (digest : List Byte) (s : State) (h : Keeps q n s) :
    Answers q n (execResumeHeat m endpoint offset length digest s) := by
  unfold execResumeHeat
  repeat' first
    | with_reducible assumption
    | with_reducible intro _
    | with_reducible apply keeps_parts
    | with_reducible apply command_keeps
    | with_reducible apply refuse_keeps
    | with_reducible apply accept_keeps
    | with_reducible apply beginResume_keeps
    | with_reducible apply answers_next
    | with_reducible apply answers_fault
    | with_reducible apply answers_refused
    | with_reducible apply ite_answers
    | with_reducible apply ite_keeps
    | with_reducible apply foldl_keeps
    | with_reducible apply foldl_pair_keeps
    | split
    | rw [keeps_mk_iff]
    | dsimp only

theorem restoreImage_keeps (i : Image) (s : State) (h : Keeps q n s) :
    Keeps q n (restoreImage i s) := by
  unfold restoreImage
  repeat' first
    | with_reducible assumption
    | with_reducible intro _
    | with_reducible apply keeps_parts
    | with_reducible apply putBind_keeps
    | with_reducible apply putSeg_keeps
    | with_reducible apply ite_keeps
    | with_reducible apply foldl_keeps
    | with_reducible apply foldl_pair_keeps
    | split
    | rw [keeps_mk_iff]
    | dsimp only

theorem undoImage_keeps (i : Image) (s : State) (h : Keeps q n s) :
    Keeps q n (undoImage i s) := by
  unfold undoImage
  repeat' first
    | with_reducible assumption
    | with_reducible intro _
    | with_reducible apply keeps_parts
    | with_reducible apply freeSegPages_keeps
    | with_reducible apply returnBays_keeps
    | with_reducible apply ite_keeps
    | with_reducible apply foldl_keeps
    | with_reducible apply foldl_pair_keeps
    | split
    | rw [keeps_mk_iff]
    | dsimp only

theorem endResume_keeps (j : ResumeJob) (status : Nat) (body : List Byte) (s : State) (h : Keeps q n s) :
    Keeps q n (endResume j status body s) := by
  unfold endResume
  repeat' first
    | with_reducible assumption
    | with_reducible intro _
    | with_reducible apply keeps_parts
    | with_reducible apply finish_keeps
    | with_reducible apply ite_keeps
    | with_reducible apply foldl_keeps
    | with_reducible apply foldl_pair_keeps
    | split
    | rw [keeps_mk_iff]
    | dsimp only

theorem settleResumes_keeps (s : State) (h : Keeps q n s) :
    Keeps q n (settleResumes s) := by
  unfold settleResumes
  repeat' first
    | with_reducible assumption
    | with_reducible intro _
    | with_reducible apply keeps_parts
    | with_reducible apply endResume_keeps
    | with_reducible apply undoImage_keeps
    | with_reducible apply incReg_keeps
    | with_reducible apply ite_keeps
    | with_reducible apply foldl_keeps
    | with_reducible apply foldl_pair_keeps
    | split
    | rw [keeps_mk_iff]
    | dsimp only

theorem applyResume_keeps (j : ResumeJob) (s : State) (h : Keeps q n s) :
    Keeps q n (applyResume j s) := by
  unfold applyResume
  repeat' first
    | with_reducible assumption
    | with_reducible intro _
    | with_reducible apply keeps_parts
    | with_reducible apply endResume_keeps
    | with_reducible apply restoreImage_keeps
    | with_reducible apply startPlace_keeps
    | with_reducible apply settleResumes_keeps
    | with_reducible apply ite_keeps
    | with_reducible apply foldl_keeps
    | with_reducible apply foldl_pair_keeps
    | split
    | rw [keeps_mk_iff]
    | dsimp only

theorem takeImage_keeps (p : Packet) (s : State) (h : Keeps q n s) :
    Keeps q n (takeImage p s) := by
  unfold takeImage
  repeat' first
    | with_reducible assumption
    | with_reducible intro _
    | with_reducible apply keeps_parts
    | with_reducible apply applyResume_keeps
    | with_reducible apply ite_keeps
    | with_reducible apply foldl_keeps
    | with_reducible apply foldl_pair_keeps
    | split
    | rw [keeps_mk_iff]
    | dsimp only

theorem failResume_keeps (id : Nat) (status : Nat) (s : State) (h : Keeps q n s) :
    Keeps q n (failResume id status s) := by
  unfold failResume
  repeat' first
    | with_reducible assumption
    | with_reducible intro _
    | with_reducible apply keeps_parts
    | with_reducible apply endResume_keeps
    | with_reducible apply ite_keeps
    | with_reducible apply foldl_keeps
    | with_reducible apply foldl_pair_keeps
    | split
    | rw [keeps_mk_iff]
    | dsimp only

theorem execSegmentPlaced_keeps (seg : Nat) (s : State) (h : Keeps q n s) :
    Answers q n (execSegmentPlaced seg s) := by
  unfold execSegmentPlaced
  repeat' first
    | with_reducible assumption
    | with_reducible intro _
    | with_reducible apply keeps_parts
    | with_reducible apply decided_keeps
    | with_reducible apply settleResumes_keeps
    | with_reducible apply placeSegment_keeps
    | with_reducible apply answers_next
    | with_reducible apply answers_fault
    | with_reducible apply answers_refused
    | with_reducible apply ite_answers
    | with_reducible apply ite_keeps
    | with_reducible apply foldl_keeps
    | with_reducible apply foldl_pair_keeps
    | split
    | rw [keeps_mk_iff]
    | dsimp only

theorem execBayTransferTimeout_keeps (seg : Nat) (s : State) (h : Keeps q n s) :
    Answers q n (execBayTransferTimeout seg s) := by
  unfold execBayTransferTimeout
  repeat' first
    | with_reducible assumption
    | with_reducible intro _
    | with_reducible apply keeps_parts
    | with_reducible apply settleResumes_keeps
    | with_reducible apply missBays_keeps
    | with_reducible apply answers_next
    | with_reducible apply answers_fault
    | with_reducible apply answers_refused
    | with_reducible apply ite_answers
    | with_reducible apply ite_keeps
    | with_reducible apply foldl_keeps
    | with_reducible apply foldl_pair_keeps
    | split
    | rw [keeps_mk_iff]
    | dsimp only

theorem replyPort_keeps (p : Packet) (s : State) (h : Keeps q n s) :
    Keeps q n (replyPort p s) := by
  unfold replyPort
  repeat' first
    | with_reducible assumption
    | with_reducible intro _
    | with_reducible apply keeps_parts
    | with_reducible apply takeImage_keeps
    | with_reducible apply digestPacket_keeps
    | with_reducible apply portDone_keeps
    | with_reducible apply sendAnswer_keeps
    | with_reducible apply ite_keeps
    | with_reducible apply foldl_keeps
    | with_reducible apply foldl_pair_keeps
    | split
    | rw [keeps_mk_iff]
    | dsimp only

end Sys2Proof.Machine
end

