-- ==== Sys2Proof/Laws/KeepFence.lean ====
section
/-! SUPPORT. What the operations of Machine/Fence.lean keep: the queue, the clock and the canonical form of HBM and the registers. -/
namespace Sys2Proof.Machine

variable {q : List Instr} {n : Nat}

theorem promoteMirror_keeps (p : Nat) (lost : Nat) (s : State) (h : Keeps q n s) :
    Keeps q n (promoteMirror p lost s) := by
  unfold promoteMirror
  repeat' first
    | with_reducible assumption
    | with_reducible intro _
    | with_reducible apply keeps_parts
    | with_reducible apply putFrame_keeps
    | with_reducible apply useFree_keeps
    | with_reducible apply chooseMirror_keeps
    | with_reducible apply remap_keeps
    | with_reducible apply markFlag_keeps
    | with_reducible apply ite_keeps
    | with_reducible apply foldl_keeps
    | with_reducible apply foldl_pair_keeps
    | split
    | rw [keeps_mk_iff]
    | dsimp only

theorem fencePage_keeps (d : Nat) (p : Nat) (s : State) (h : Keeps q n s) :
    Keeps q n (fencePage d p s) := by
  unfold fencePage
  repeat' first
    | with_reducible assumption
    | with_reducible intro _
    | with_reducible apply keeps_parts
    | with_reducible apply losePage_keeps
    | with_reducible apply releaseWalks_keeps
    | with_reducible apply promoteMirror_keeps
    | with_reducible apply endMoves_keeps
    | with_reducible apply renewMirror_keeps
    | with_reducible apply releaseHeld_keeps
    | with_reducible apply remap_keeps
    | with_reducible apply ite_keeps
    | with_reducible apply foldl_keeps
    | with_reducible apply foldl_pair_keeps
    | split
    | rw [keeps_mk_iff]
    | dsimp only

theorem strikeDevice_keeps (d : Nat) (s : State) (h : Keeps q n s) :
    Keeps q n (strikeDevice d s) := by
  unfold strikeDevice
  repeat' first
    | with_reducible assumption
    | with_reducible intro _
    | with_reducible apply keeps_parts
    | with_reducible apply settleInvals_keeps
    | with_reducible apply performFree_keeps
    | with_reducible apply emit_keeps
    | with_reducible apply endRequest_keeps
    | with_reducible apply ite_keeps
    | with_reducible apply foldl_keeps
    | with_reducible apply foldl_pair_keeps
    | split
    | rw [keeps_mk_iff]
    | dsimp only

theorem failForwarded_keeps (d : Nat) (s : State) (h : Keeps q n s) :
    Keeps q n (failForwarded d s) := by
  unfold failForwarded
  repeat' first
    | with_reducible assumption
    | with_reducible intro _
    | with_reducible apply keeps_parts
    | with_reducible apply nakAs_keeps
    | with_reducible apply incReg_keeps
    | with_reducible apply ite_keeps
    | with_reducible apply foldl_keeps
    | with_reducible apply foldl_pair_keeps
    | split
    | rw [keeps_mk_iff]
    | dsimp only

theorem releaseMirrorWaits_keeps (d : Nat) (s : State) (h : Keeps q n s) :
    Keeps q n (releaseMirrorWaits d s) := by
  unfold releaseMirrorWaits
  repeat' first
    | with_reducible assumption
    | with_reducible intro _
    | with_reducible apply keeps_parts
    | with_reducible apply endRequest_keeps
    | with_reducible apply ite_keeps
    | with_reducible apply foldl_keeps
    | with_reducible apply foldl_pair_keeps
    | split
    | rw [keeps_mk_iff]
    | dsimp only

theorem fenceMemory_keeps (d : Nat) (s : State) (h : Keeps q n s) :
    Keeps q n (fenceMemory d s) := by
  unfold fenceMemory
  repeat' first
    | with_reducible assumption
    | with_reducible intro _
    | with_reducible apply keeps_parts
    | with_reducible apply releaseMirrorWaits_keeps
    | with_reducible apply failForwarded_keeps
    | with_reducible apply strikeDevice_keeps
    | with_reducible apply fencePage_keeps
    | with_reducible apply ite_keeps
    | with_reducible apply foldl_keeps
    | with_reducible apply foldl_pair_keeps
    | split
    | rw [keeps_mk_iff]
    | dsimp only

theorem takeFence_keeps (x0 : Nat) (declarer : Nat) (s : State) (h : Keeps q n s) :
    Keeps q n (takeFence x0 declarer s) := by
  unfold takeFence
  repeat' first
    | with_reducible assumption
    | with_reducible intro _
    | with_reducible apply keeps_parts
    | with_reducible apply logEvent_keeps
    | with_reducible apply markFlag_keeps
    | with_reducible apply fencePours_keeps
    | with_reducible apply pruneSets_keeps
    | with_reducible apply takeTreeReply_keeps
    | with_reducible apply fenceMemory_keeps
    | with_reducible apply pruneLeaf_keeps
    | with_reducible apply ite_keeps
    | with_reducible apply foldl_keeps
    | with_reducible apply foldl_pair_keeps
    | split
    | rw [keeps_mk_iff]
    | dsimp only

theorem dropFence_keeps (x0 : Nat) (s : State) (h : Keeps q n s) :
    Keeps q n (dropFence x0 s) := by
  unfold dropFence
  repeat' first
    | with_reducible assumption
    | with_reducible intro _
    | with_reducible apply keeps_parts
    | with_reducible apply ite_keeps
    | with_reducible apply foldl_keeps
    | with_reducible apply foldl_pair_keeps
    | split
    | rw [keeps_mk_iff]
    | dsimp only

theorem declareFence_keeps (x0 : Nat) (s : State) (h : Keeps q n s) :
    Keeps q n (declareFence x0 s) := by
  unfold declareFence
  repeat' first
    | with_reducible assumption
    | with_reducible intro _
    | with_reducible apply keeps_parts
    | with_reducible apply takeFence_keeps
    | with_reducible apply incReg_keeps
    | with_reducible apply emitCtl_keeps
    | with_reducible apply ite_keeps
    | with_reducible apply foldl_keeps
    | with_reducible apply foldl_pair_keeps
    | split
    | rw [keeps_mk_iff]
    | dsimp only

theorem declareUnfence_keeps (x0 : Nat) (s : State) (h : Keeps q n s) :
    Keeps q n (declareUnfence x0 s) := by
  unfold declareUnfence
  repeat' first
    | with_reducible assumption
    | with_reducible intro _
    | with_reducible apply keeps_parts
    | with_reducible apply emitCtl_keeps
    | with_reducible apply dropFence_keeps
    | with_reducible apply ite_keeps
    | with_reducible apply foldl_keeps
    | with_reducible apply foldl_pair_keeps
    | split
    | rw [keeps_mk_iff]
    | dsimp only

theorem passNotice_keeps (peer : Nat) (x1 : Nat) (x2 : CtlKind) (s : State) (h : Keeps q n s) :
    Keeps q n (passNotice peer x1 x2 s) := by
  unfold passNotice
  repeat' first
    | with_reducible assumption
    | with_reducible intro _
    | with_reducible apply keeps_parts
    | with_reducible apply emitCtl_keeps
    | with_reducible apply ite_keeps
    | with_reducible apply foldl_keeps
    | with_reducible apply foldl_pair_keeps
    | split
    | rw [keeps_mk_iff]
    | dsimp only

theorem execFenceNotice_keeps (peer : Nat) (endpoint : Nat) (s : State) (h : Keeps q n s) :
    Answers q n (execFenceNotice peer endpoint s) := by
  unfold execFenceNotice
  repeat' first
    | with_reducible assumption
    | with_reducible intro _
    | with_reducible apply keeps_parts
    | with_reducible apply takeFence_keeps
    | with_reducible apply passNotice_keeps
    | with_reducible apply answers_next
    | with_reducible apply answers_fault
    | with_reducible apply answers_refused
    | with_reducible apply ite_answers
    | with_reducible apply ite_keeps
    | with_reducible apply foldl_keeps
    | with_reducible apply foldl_pair_keeps
    | split
    | rw [keeps_mk_iff]
    | dsimp only

theorem execUnfenceNotice_keeps (peer : Nat) (endpoint : Nat) (s : State) (h : Keeps q n s) :
    Answers q n (execUnfenceNotice peer endpoint s) := by
  unfold execUnfenceNotice
  repeat' first
    | with_reducible assumption
    | with_reducible intro _
    | with_reducible apply keeps_parts
    | with_reducible apply dropFence_keeps
    | with_reducible apply passNotice_keeps
    | with_reducible apply answers_next
    | with_reducible apply answers_fault
    | with_reducible apply answers_refused
    | with_reducible apply ite_answers
    | with_reducible apply ite_keeps
    | with_reducible apply foldl_keeps
    | with_reducible apply foldl_pair_keeps
    | split
    | rw [keeps_mk_iff]
    | dsimp only

theorem foundLive_keeps (x0 : Nat) (s : State) (h : Keeps q n s) :
    Keeps q n (foundLive x0 s) := by
  unfold foundLive
  repeat' first
    | with_reducible assumption
    | with_reducible intro _
    | with_reducible apply keeps_parts
    | with_reducible apply logEvent_keeps
    | with_reducible apply ite_keeps
    | with_reducible apply foldl_keeps
    | with_reducible apply foldl_pair_keeps
    | split
    | rw [keeps_mk_iff]
    | dsimp only

theorem probeIfDue_keeps (d : Nat) (s : State) (h : Keeps q n s) :
    Keeps q n (probeIfDue d s) := by
  unfold probeIfDue
  repeat' first
    | with_reducible assumption
    | with_reducible intro _
    | with_reducible apply keeps_parts
    | with_reducible apply emit_keeps
    | with_reducible apply ite_keeps
    | with_reducible apply foldl_keeps
    | with_reducible apply foldl_pair_keeps
    | split
    | rw [keeps_mk_iff]
    | dsimp only

theorem noteReport_keeps (d : Nat) (peer : Nat) (lost : Bool) (s : State) (h : Keeps q n s) :
    Keeps q n (noteReport d peer lost s) := by
  unfold noteReport
  repeat' first
    | with_reducible assumption
    | with_reducible intro _
    | with_reducible apply keeps_parts
    | with_reducible apply probeIfDue_keeps
    | with_reducible apply ite_keeps
    | with_reducible apply foldl_keeps
    | with_reducible apply foldl_pair_keeps
    | split
    | rw [keeps_mk_iff]
    | dsimp only

theorem execFenceProbe_keeps (peer : Nat) (s : State) (h : Keeps q n s) :
    Answers q n (execFenceProbe peer s) := by
  unfold execFenceProbe
  repeat' first
    | with_reducible assumption
    | with_reducible intro _
    | with_reducible apply keeps_parts
    | with_reducible apply emit_keeps
    | with_reducible apply answers_next
    | with_reducible apply answers_fault
    | with_reducible apply answers_refused
    | with_reducible apply ite_answers
    | with_reducible apply ite_keeps
    | with_reducible apply foldl_keeps
    | with_reducible apply foldl_pair_keeps
    | split
    | rw [keeps_mk_iff]
    | dsimp only

theorem execFenceProbeReply_keeps (device : Nat) (s : State) (h : Keeps q n s) :
    Answers q n (execFenceProbeReply device s) := by
  unfold execFenceProbeReply
  repeat' first
    | with_reducible assumption
    | with_reducible intro _
    | with_reducible apply keeps_parts
    | with_reducible apply foundLive_keeps
    | with_reducible apply answers_next
    | with_reducible apply answers_fault
    | with_reducible apply answers_refused
    | with_reducible apply ite_answers
    | with_reducible apply ite_keeps
    | with_reducible apply foldl_keeps
    | with_reducible apply foldl_pair_keeps
    | split
    | rw [keeps_mk_iff]
    | dsimp only

theorem execFenceProbeTimeout_keeps (device : Nat) (s : State) (h : Keeps q n s) :
    Answers q n (execFenceProbeTimeout device s) := by
  unfold execFenceProbeTimeout
  repeat' first
    | with_reducible assumption
    | with_reducible intro _
    | with_reducible apply keeps_parts
    | with_reducible apply advanceTo_keeps
    | with_reducible apply declareFence_keeps
    | with_reducible apply answers_next
    | with_reducible apply answers_fault
    | with_reducible apply answers_refused
    | with_reducible apply ite_answers
    | with_reducible apply ite_keeps
    | with_reducible apply foldl_keeps
    | with_reducible apply foldl_pair_keeps
    | split
    | rw [keeps_mk_iff]
    | dsimp only

theorem takeGiveUp_keeps (x0 : Nat) (s : State) (h : Keeps q n s) :
    Keeps q n (takeGiveUp x0 s) := by
  unfold takeGiveUp
  repeat' first
    | with_reducible assumption
    | with_reducible intro _
    | with_reducible apply keeps_parts
    | with_reducible apply foundLive_keeps
    | with_reducible apply probeIfDue_keeps
    | with_reducible apply declareFence_keeps
    | with_reducible apply modLink_keeps
    | with_reducible apply ite_keeps
    | with_reducible apply foldl_keeps
    | with_reducible apply foldl_pair_keeps
    | split
    | rw [keeps_mk_iff]
    | dsimp only

theorem execGiveUpReport_keeps (_peer : Nat) (endpoint : Nat) (s : State) (h : Keeps q n s) :
    Answers q n (execGiveUpReport _peer endpoint s) := by
  unfold execGiveUpReport
  repeat' first
    | with_reducible assumption
    | with_reducible intro _
    | with_reducible apply keeps_parts
    | with_reducible apply takeGiveUp_keeps
    | with_reducible apply answers_next
    | with_reducible apply answers_fault
    | with_reducible apply answers_refused
    | with_reducible apply ite_answers
    | with_reducible apply ite_keeps
    | with_reducible apply foldl_keeps
    | with_reducible apply foldl_pair_keeps
    | split
    | rw [keeps_mk_iff]
    | dsimp only

theorem execEndpointCreditStall_keeps (l : Nat) (s : State) (h : Keeps q n s) :
    Answers q n (execEndpointCreditStall l s) := by
  unfold execEndpointCreditStall
  repeat' first
    | with_reducible assumption
    | with_reducible intro _
    | with_reducible apply keeps_parts
    | with_reducible apply advanceTo_keeps
    | with_reducible apply modLink_keeps
    | with_reducible apply declareFence_keeps
    | with_reducible apply foundLive_keeps
    | with_reducible apply answers_next
    | with_reducible apply answers_fault
    | with_reducible apply answers_refused
    | with_reducible apply ite_answers
    | with_reducible apply ite_keeps
    | with_reducible apply foldl_keeps
    | with_reducible apply foldl_pair_keeps
    | split
    | rw [keeps_mk_iff]
    | dsimp only

theorem reportGiveUp_keeps (x0 : Nat) (s : State) (h : Keeps q n s) :
    Keeps q n (reportGiveUp x0 s) := by
  unfold reportGiveUp
  repeat' first
    | with_reducible assumption
    | with_reducible intro _
    | with_reducible apply keeps_parts
    | with_reducible apply takeGiveUp_keeps
    | with_reducible apply emit_keeps
    | with_reducible apply ite_keeps
    | with_reducible apply foldl_keeps
    | with_reducible apply foldl_pair_keeps
    | split
    | rw [keeps_mk_iff]
    | dsimp only

theorem reforward_keeps (x0 : EntryCopy) (s : State) (h : Keeps q n s) :
    Keeps q n (reforward x0 s) := by
  unfold reforward
  repeat' first
    | with_reducible assumption
    | with_reducible intro _
    | with_reducible apply keeps_parts
    | with_reducible apply logEvent_keeps
    | with_reducible apply incReg_keeps
    | with_reducible apply reportGiveUp_keeps
    | with_reducible apply releaseFwd_keeps
    | with_reducible apply dropCopy_keeps
    | with_reducible apply launchFwd_keeps
    | with_reducible apply countResend_keeps
    | with_reducible apply ite_keeps
    | with_reducible apply foldl_keeps
    | with_reducible apply foldl_pair_keeps
    | split
    | rw [keeps_mk_iff]
    | dsimp only

theorem execFwdReforwardTimeout_keeps (src : Nat) (stream : Nat) (seq : Nat) (s : State) (h : Keeps q n s) :
    Answers q n (execFwdReforwardTimeout src stream seq s) := by
  unfold execFwdReforwardTimeout
  repeat' first
    | with_reducible assumption
    | with_reducible intro _
    | with_reducible apply keeps_parts
    | with_reducible apply reforward_keeps
    | with_reducible apply advanceTo_keeps
    | with_reducible apply answers_next
    | with_reducible apply answers_fault
    | with_reducible apply answers_refused
    | with_reducible apply ite_answers
    | with_reducible apply ite_keeps
    | with_reducible apply foldl_keeps
    | with_reducible apply foldl_pair_keeps
    | split
    | rw [keeps_mk_iff]
    | dsimp only

end Sys2Proof.Machine
end

