-- ==== Sys2Proof/Laws/KeepRoute.lean ====
section
/-! SUPPORT. What the operations of Machine/Route.lean keep: the queue, the clock and the canonical form of HBM and the registers. -/
namespace Sys2Proof.Machine

variable {q : List Instr} {n : Nat}

theorem writeShadow_keeps (f : RouteTables → RouteTables) (s : State) (h : Keeps q n s) :
    Keeps q n (writeShadow f s) := by
  unfold writeShadow
  repeat' first
    | with_reducible assumption
    | with_reducible intro _
    | with_reducible apply keeps_parts
    | with_reducible apply ite_keeps
    | with_reducible apply foldl_keeps
    | with_reducible apply foldl_pair_keeps
    | split
    | rw [keeps_mk_iff]
    | dsimp only

theorem pinGroups_keeps (gs : List Nat) (s : State) (h : Keeps q n s) :
    Keeps q n (pinGroups gs s) := by
  unfold pinGroups
  repeat' first
    | with_reducible assumption
    | with_reducible intro _
    | with_reducible apply keeps_parts
    | with_reducible apply ite_keeps
    | with_reducible apply foldl_keeps
    | with_reducible apply foldl_pair_keeps
    | split
    | rw [keeps_mk_iff]
    | dsimp only

theorem putChange_keeps (l : Nat) (c : Option RouteChange) (s : State) (h : Keeps q n s) :
    Keeps q n (putChange l c s) := by
  unfold putChange
  repeat' first
    | with_reducible assumption
    | with_reducible intro _
    | with_reducible apply keeps_parts
    | with_reducible apply ite_keeps
    | with_reducible apply foldl_keeps
    | with_reducible apply foldl_pair_keeps
    | split
    | rw [keeps_mk_iff]
    | dsimp only

theorem settleAcks_keeps (l : Nat) (s : State) (h : Keeps q n s) :
    Keeps q n (settleAcks l s) := by
  unfold settleAcks
  repeat' first
    | with_reducible assumption
    | with_reducible intro _
    | with_reducible apply keeps_parts
    | with_reducible apply writeShadow_keeps
    | with_reducible apply putChange_keeps
    | with_reducible apply ite_keeps
    | with_reducible apply foldl_keeps
    | with_reducible apply foldl_pair_keeps
    | split
    | rw [keeps_mk_iff]
    | dsimp only

theorem startChange_keeps (l : Nat) (add : Bool) (cmd : Option CmdRef) (powerOff : Bool) (s : State) (h : Keeps q n s) :
    Keeps q n (startChange l add cmd powerOff s) := by
  unfold startChange
  repeat' first
    | with_reducible assumption
    | with_reducible intro _
    | with_reducible apply keeps_parts
    | with_reducible apply pinGroups_keeps
    | with_reducible apply modLink_keeps
    | with_reducible apply emitCtl_keeps
    | with_reducible apply putChange_keeps
    | with_reducible apply emit_keeps
    | with_reducible apply settleAcks_keeps
    | with_reducible apply ite_keeps
    | with_reducible apply foldl_keeps
    | with_reducible apply foldl_pair_keeps
    | split
    | rw [keeps_mk_iff]
    | dsimp only

theorem reopenLink_keeps (l : Nat) (c : RouteChange) (s : State) (h : Keeps q n s) :
    Keeps q n (reopenLink l c s) := by
  unfold reopenLink
  repeat' first
    | with_reducible assumption
    | with_reducible intro _
    | with_reducible apply keeps_parts
    | with_reducible apply putChange_keeps
    | with_reducible apply modLink_keeps
    | with_reducible apply emitCtl_keeps
    | with_reducible apply finishOpt_keeps
    | with_reducible apply ite_keeps
    | with_reducible apply foldl_keeps
    | with_reducible apply foldl_pair_keeps
    | split
    | rw [keeps_mk_iff]
    | dsimp only

theorem powerDown_keeps (l : Nat) (s : State) (h : Keeps q n s) :
    Keeps q n (powerDown l s) := by
  unfold powerDown
  repeat' first
    | with_reducible assumption
    | with_reducible intro _
    | with_reducible apply keeps_parts
    | with_reducible apply setReg_keeps
    | with_reducible apply setLinkState_keeps
    | with_reducible apply modLink_keeps
    | with_reducible apply declareFence_keeps
    | with_reducible apply ite_keeps
    | with_reducible apply foldl_keeps
    | with_reducible apply foldl_pair_keeps
    | split
    | rw [keeps_mk_iff]
    | dsimp only

theorem flipTables_keeps (s : State) (h : Keeps q n s) :
    Keeps q n (flipTables s) := by
  unfold flipTables
  repeat' first
    | with_reducible assumption
    | with_reducible intro _
    | with_reducible apply keeps_parts
    | with_reducible apply markFlag_keeps
    | with_reducible apply setReg_keeps
    | with_reducible apply finishOpt_keeps
    | with_reducible apply powerDown_keeps
    | with_reducible apply modLink_keeps
    | with_reducible apply ite_keeps
    | with_reducible apply foldl_keeps
    | with_reducible apply foldl_pair_keeps
    | split
    | rw [keeps_mk_iff]
    | dsimp only

theorem execRouteTableFlip_keeps (s : State) (h : Keeps q n s) :
    Answers q n (execRouteTableFlip s) := by
  unfold execRouteTableFlip
  repeat' first
    | with_reducible assumption
    | with_reducible intro _
    | with_reducible apply keeps_parts
    | with_reducible apply flipTables_keeps
    | with_reducible apply answers_next
    | with_reducible apply answers_fault
    | with_reducible apply answers_refused
    | with_reducible apply ite_answers
    | with_reducible apply ite_keeps
    | with_reducible apply foldl_keeps
    | with_reducible apply foldl_pair_keeps
    | split
    | rw [keeps_mk_iff]
    | dsimp only

theorem execRouteUpdate_keeps (peer : Nat) (l : Nat) (add : Bool) (s : State) (h : Keeps q n s) :
    Answers q n (execRouteUpdate peer l add s) := by
  unfold execRouteUpdate
  repeat' first
    | with_reducible assumption
    | with_reducible intro _
    | with_reducible apply keeps_parts
    | with_reducible apply writeShadow_keeps
    | with_reducible apply pinGroups_keeps
    | with_reducible apply emit_keeps
    | with_reducible apply startChange_keeps
    | with_reducible apply reopenLink_keeps
    | with_reducible apply noteReport_keeps
    | with_reducible apply answers_next
    | with_reducible apply answers_fault
    | with_reducible apply answers_refused
    | with_reducible apply ite_answers
    | with_reducible apply ite_keeps
    | with_reducible apply foldl_keeps
    | with_reducible apply foldl_pair_keeps
    | split
    | rw [keeps_mk_iff]
    | dsimp only

theorem execRouteChangeAck_keeps (peer : Nat) (l : Nat) (s : State) (h : Keeps q n s) :
    Answers q n (execRouteChangeAck peer l s) := by
  unfold execRouteChangeAck
  repeat' first
    | with_reducible assumption
    | with_reducible intro _
    | with_reducible apply keeps_parts
    | with_reducible apply settleAcks_keeps
    | with_reducible apply putChange_keeps
    | with_reducible apply answers_next
    | with_reducible apply answers_fault
    | with_reducible apply answers_refused
    | with_reducible apply ite_answers
    | with_reducible apply ite_keeps
    | with_reducible apply foldl_keeps
    | with_reducible apply foldl_pair_keeps
    | split
    | rw [keeps_mk_iff]
    | dsimp only

theorem execLinkDrained_keeps (l : Nat) (s : State) (h : Keeps q n s) :
    Answers q n (execLinkDrained l s) := by
  unfold execLinkDrained
  repeat' first
    | with_reducible assumption
    | with_reducible intro _
    | with_reducible apply keeps_parts
    | with_reducible apply writeShadow_keeps
    | with_reducible apply putChange_keeps
    | with_reducible apply answers_next
    | with_reducible apply answers_fault
    | with_reducible apply answers_refused
    | with_reducible apply ite_answers
    | with_reducible apply ite_keeps
    | with_reducible apply foldl_keeps
    | with_reducible apply foldl_pair_keeps
    | split
    | rw [keeps_mk_iff]
    | dsimp only

theorem execDrainTimeout_keeps (l : Nat) (s : State) (h : Keeps q n s) :
    Answers q n (execDrainTimeout l s) := by
  unfold execDrainTimeout
  repeat' first
    | with_reducible assumption
    | with_reducible intro _
    | with_reducible apply keeps_parts
    | with_reducible apply reopenLink_keeps
    | with_reducible apply advanceTo_keeps
    | with_reducible apply answers_next
    | with_reducible apply answers_fault
    | with_reducible apply answers_refused
    | with_reducible apply ite_answers
    | with_reducible apply ite_keeps
    | with_reducible apply foldl_keeps
    | with_reducible apply foldl_pair_keeps
    | split
    | rw [keeps_mk_iff]
    | dsimp only

theorem execPinningEnd_keeps (group : Nat) (s : State) (h : Keeps q n s) :
    Answers q n (execPinningEnd group s) := by
  unfold execPinningEnd
  repeat' first
    | with_reducible assumption
    | with_reducible intro _
    | with_reducible apply keeps_parts
    | with_reducible apply advanceTo_keeps
    | with_reducible apply answers_next
    | with_reducible apply answers_fault
    | with_reducible apply answers_refused
    | with_reducible apply ite_answers
    | with_reducible apply ite_keeps
    | with_reducible apply foldl_keeps
    | with_reducible apply foldl_pair_keeps
    | split
    | rw [keeps_mk_iff]
    | dsimp only

theorem repairTrees_keeps (l : Nat) (s : State) (h : Keeps q n s) : Keeps q n (repairTrees l s) := by
  unfold repairTrees
  with_reducible apply foldl_keeps _ _ _ _ h
  intro s e h
  split
  · split
    · rename_i t ht
      exact execTreeLinkRepair_keeps _ _ _ _ h t ht
    · exact h
  · exact emit_keeps _ _ h

theorem linkGone_keeps (l : Nat) (s : State) (h : Keeps q n s) :
    Keeps q n (linkGone l s) := by
  unfold linkGone
  repeat' first
    | with_reducible assumption
    | with_reducible intro _
    | with_reducible apply keeps_parts
    | with_reducible apply discardPort_keeps
    | with_reducible apply declareFence_keeps
    | with_reducible apply finishOpt_keeps
    | with_reducible apply putChange_keeps
    | with_reducible apply modLink_keeps
    | with_reducible apply flipTables_keeps
    | with_reducible apply writeShadow_keeps
    | with_reducible apply emitCtl_keeps
    | with_reducible apply repairTrees_keeps
    | with_reducible apply noteReport_keeps
    | with_reducible apply ite_keeps
    | with_reducible apply foldl_keeps
    | with_reducible apply foldl_pair_keeps
    | split
    | rw [keeps_mk_iff]
    | dsimp only

theorem linkInService_keeps (l : Nat) (s : State) (h : Keeps q n s) :
    Keeps q n (linkInService l s) := by
  unfold linkInService
  repeat' first
    | with_reducible assumption
    | with_reducible intro _
    | with_reducible apply keeps_parts
    | with_reducible apply declareUnfence_keeps
    | with_reducible apply noteReport_keeps
    | with_reducible apply startChange_keeps
    | with_reducible apply ite_keeps
    | with_reducible apply foldl_keeps
    | with_reducible apply foldl_pair_keeps
    | split
    | rw [keeps_mk_iff]
    | dsimp only

theorem sendCredit_keeps (l : Nat) (x1 : Nat) (s : State) (h : Keeps q n s) :
    Keeps q n (sendCredit l x1 s) := by
  unfold sendCredit
  repeat' first
    | with_reducible assumption
    | with_reducible intro _
    | with_reducible apply keeps_parts
    | with_reducible apply sendBlock_keeps
    | with_reducible apply modVc_keeps
    | with_reducible apply ite_keeps
    | with_reducible apply foldl_keeps
    | with_reducible apply foldl_pair_keeps
    | split
    | rw [keeps_mk_iff]
    | dsimp only

theorem execCreditSendTick_keeps (l : Nat) (x1 : Nat) (s : State) (h : Keeps q n s) :
    Answers q n (execCreditSendTick l x1 s) := by
  unfold execCreditSendTick
  repeat' first
    | with_reducible assumption
    | with_reducible intro _
    | with_reducible apply keeps_parts
    | with_reducible apply sendCredit_keeps
    | with_reducible apply advanceTo_keeps
    | with_reducible apply answers_next
    | with_reducible apply answers_fault
    | with_reducible apply answers_refused
    | with_reducible apply ite_answers
    | with_reducible apply ite_keeps
    | with_reducible apply foldl_keeps
    | with_reducible apply foldl_pair_keeps
    | split
    | rw [keeps_mk_iff]
    | dsimp only

theorem takeCounts_keeps (l : Nat) (x1 : Nat) (counts : List Nat) (s : State) (h : Keeps q n s) :
    Keeps q n (takeCounts l x1 counts s) := by
  unfold takeCounts
  repeat' first
    | with_reducible assumption
    | with_reducible intro _
    | with_reducible apply keeps_parts
    | with_reducible apply modVc_keeps
    | with_reducible apply modLink_keeps
    | with_reducible apply foundLive_keeps
    | with_reducible apply ite_keeps
    | with_reducible apply foldl_keeps
    | with_reducible apply foldl_pair_keeps
    | split
    | rw [keeps_mk_iff]
    | dsimp only

theorem resetCredit_keeps (l : Nat) (s : State) (h : Keeps q n s) :
    Keeps q n (resetCredit l s) := by
  unfold resetCredit
  repeat' first
    | with_reducible assumption
    | with_reducible intro _
    | with_reducible apply keeps_parts
    | with_reducible apply modLink_keeps
    | with_reducible apply modVc_keeps
    | with_reducible apply ite_keeps
    | with_reducible apply foldl_keeps
    | with_reducible apply foldl_pair_keeps
    | split
    | rw [keeps_mk_iff]
    | dsimp only

theorem execLevelFallRelease_keeps (l : Nat) (x1 : Nat) (s : State) (h : Keeps q n s) :
    Answers q n (execLevelFallRelease l x1 s) := by
  unfold execLevelFallRelease
  repeat' first
    | with_reducible assumption
    | with_reducible intro _
    | with_reducible apply keeps_parts
    | with_reducible apply releaseLevel_keeps
    | with_reducible apply answers_next
    | with_reducible apply answers_fault
    | with_reducible apply answers_refused
    | with_reducible apply ite_answers
    | with_reducible apply ite_keeps
    | with_reducible apply foldl_keeps
    | with_reducible apply foldl_pair_keeps
    | split
    | rw [keeps_mk_iff]
    | dsimp only

theorem unqueueHead_keeps (i : Nat) (x1 : OutQueue) (s : State) (h : Keeps q n s) :
    Keeps q n (unqueueHead i x1 s) := by
  unfold unqueueHead
  repeat' first
    | with_reducible assumption
    | with_reducible intro _
    | with_reducible apply keeps_parts
    | with_reducible apply delQueue_keeps
    | with_reducible apply putQueue_keeps
    | with_reducible apply ite_keeps
    | with_reducible apply foldl_keeps
    | with_reducible apply foldl_pair_keeps
    | split
    | rw [keeps_mk_iff]
    | dsimp only

theorem ventHead_keeps (i : Nat) (x1 : OutQueue) (x2 : QEnt) (s : State) (h : Keeps q n s) :
    Keeps q n (ventHead i x1 x2 s) := by
  unfold ventHead
  repeat' first
    | with_reducible assumption
    | with_reducible intro _
    | with_reducible apply keeps_parts
    | with_reducible apply incReg_keeps
    | with_reducible apply markFlag_keeps
    | with_reducible apply enqueue_keeps
    | with_reducible apply unqueueHead_keeps
    | with_reducible apply noteBreach_keeps
    | with_reducible apply ite_keeps
    | with_reducible apply foldl_keeps
    | with_reducible apply foldl_pair_keeps
    | split
    | rw [keeps_mk_iff]
    | dsimp only

theorem execVentEscape_keeps (queue : Nat) (s : State) (h : Keeps q n s) :
    Answers q n (execVentEscape queue s) := by
  unfold execVentEscape
  repeat' first
    | with_reducible assumption
    | with_reducible intro _
    | with_reducible apply keeps_parts
    | with_reducible apply ventHead_keeps
    | with_reducible apply advanceTo_keeps
    | with_reducible apply answers_next
    | with_reducible apply answers_fault
    | with_reducible apply answers_refused
    | with_reducible apply ite_answers
    | with_reducible apply ite_keeps
    | with_reducible apply foldl_keeps
    | with_reducible apply foldl_pair_keeps
    | split
    | rw [keeps_mk_iff]
    | dsimp only

theorem setBoth_keeps (f : Fld) (x1 : Nat) (s : State) (h : Keeps q n s) :
    Keeps q n (setBoth f x1 s) := by
  unfold setBoth
  repeat' first
    | with_reducible assumption
    | with_reducible intro _
    | with_reducible apply keeps_parts
    | with_reducible apply setReg_keeps
    | with_reducible apply ite_keeps
    | with_reducible apply foldl_keeps
    | with_reducible apply foldl_pair_keeps
    | split
    | rw [keeps_mk_iff]
    | dsimp only

theorem execRouteStatus_keeps (m : CmdMeta) (s : State) (h : Keeps q n s) :
    Answers q n (execRouteStatus m s) := by
  unfold execRouteStatus
  repeat' first
    | with_reducible assumption
    | with_reducible intro _
    | with_reducible apply keeps_parts
    | with_reducible apply command_keeps
    | with_reducible apply answer_keeps
    | with_reducible apply answers_next
    | with_reducible apply answers_fault
    | with_reducible apply answers_refused
    | with_reducible apply ite_answers
    | with_reducible apply ite_keeps
    | with_reducible apply foldl_keeps
    | with_reducible apply foldl_pair_keeps
    | split
    | rw [keeps_mk_iff]
    | dsimp only

theorem execRouteLinkClose_keeps (m : CmdMeta) (link' : Nat) (s : State) (h : Keeps q n s) :
    Answers q n (execRouteLinkClose m link' s) := by
  unfold execRouteLinkClose
  repeat' first
    | with_reducible assumption
    | with_reducible intro _
    | with_reducible apply keeps_parts
    | with_reducible apply command_keeps
    | with_reducible apply refuse_keeps
    | with_reducible apply accept_keeps
    | with_reducible apply startChange_keeps
    | with_reducible apply answers_next
    | with_reducible apply answers_fault
    | with_reducible apply answers_refused
    | with_reducible apply ite_answers
    | with_reducible apply ite_keeps
    | with_reducible apply foldl_keeps
    | with_reducible apply foldl_pair_keeps
    | split
    | rw [keeps_mk_iff]
    | dsimp only

theorem execRouteParamSet_keeps (m : CmdMeta) (ventWait : Nat) (nmBias : Nat) (drainMax : Nat) (s : State) (h : Keeps q n s) :
    Answers q n (execRouteParamSet m ventWait nmBias drainMax s) := by
  unfold execRouteParamSet
  repeat' first
    | with_reducible assumption
    | with_reducible intro _
    | with_reducible apply keeps_parts
    | with_reducible apply command_keeps
    | with_reducible apply requires_keeps
    | with_reducible apply done_keeps
    | with_reducible apply setBoth_keeps
    | with_reducible apply answers_next
    | with_reducible apply answers_fault
    | with_reducible apply answers_refused
    | with_reducible apply ite_answers
    | with_reducible apply ite_keeps
    | with_reducible apply foldl_keeps
    | with_reducible apply foldl_pair_keeps
    | split
    | rw [keeps_mk_iff]
    | dsimp only

theorem execRouteSpread_keeps (m : CmdMeta) (on : Nat) (s : State) (h : Keeps q n s) :
    Answers q n (execRouteSpread m on s) := by
  unfold execRouteSpread
  repeat' first
    | with_reducible assumption
    | with_reducible intro _
    | with_reducible apply keeps_parts
    | with_reducible apply command_keeps
    | with_reducible apply requires_keeps
    | with_reducible apply done_keeps
    | with_reducible apply setBoth_keeps
    | with_reducible apply answers_next
    | with_reducible apply answers_fault
    | with_reducible apply answers_refused
    | with_reducible apply ite_answers
    | with_reducible apply ite_keeps
    | with_reducible apply foldl_keeps
    | with_reducible apply foldl_pair_keeps
    | split
    | rw [keeps_mk_iff]
    | dsimp only

theorem execRouteTest_keeps (m : CmdMeta) (on : Nat) (s : State) (h : Keeps q n s) :
    Answers q n (execRouteTest m on s) := by
  unfold execRouteTest
  repeat' first
    | with_reducible assumption
    | with_reducible intro _
    | with_reducible apply keeps_parts
    | with_reducible apply command_keeps
    | with_reducible apply requires_keeps
    | with_reducible apply done_keeps
    | with_reducible apply setBoth_keeps
    | with_reducible apply answers_next
    | with_reducible apply answers_fault
    | with_reducible apply answers_refused
    | with_reducible apply ite_answers
    | with_reducible apply ite_keeps
    | with_reducible apply foldl_keeps
    | with_reducible apply foldl_pair_keeps
    | split
    | rw [keeps_mk_iff]
    | dsimp only

theorem execRouteReserve_keeps (m : CmdMeta) (mask : Nat) (heat : Nat) (s : State) (h : Keeps q n s) :
    Answers q n (execRouteReserve m mask heat s) := by
  unfold execRouteReserve
  repeat' first
    | with_reducible assumption
    | with_reducible intro _
    | with_reducible apply keeps_parts
    | with_reducible apply command_keeps
    | with_reducible apply refuse_keeps
    | with_reducible apply done_keeps
    | with_reducible apply answers_next
    | with_reducible apply answers_fault
    | with_reducible apply answers_refused
    | with_reducible apply ite_answers
    | with_reducible apply ite_keeps
    | with_reducible apply foldl_keeps
    | with_reducible apply foldl_pair_keeps
    | split
    | rw [keeps_mk_iff]
    | dsimp only

theorem execRouteCreditSet_keeps (m : CmdMeta) (link' : Nat) (vc : Nat) (allowance : Nat) (s : State) (h : Keeps q n s) :
    Answers q n (execRouteCreditSet m link' vc allowance s) := by
  unfold execRouteCreditSet
  repeat' first
    | with_reducible assumption
    | with_reducible intro _
    | with_reducible apply keeps_parts
    | with_reducible apply command_keeps
    | with_reducible apply refuse_keeps
    | with_reducible apply done_keeps
    | with_reducible apply modVc_keeps
    | with_reducible apply answers_next
    | with_reducible apply answers_fault
    | with_reducible apply answers_refused
    | with_reducible apply ite_answers
    | with_reducible apply ite_keeps
    | with_reducible apply foldl_keeps
    | with_reducible apply foldl_pair_keeps
    | split
    | rw [keeps_mk_iff]
    | dsimp only

theorem execRouteTreeRead_keeps (m : CmdMeta) (root : Nat) (tree : Nat) (s : State) (h : Keeps q n s) :
    Answers q n (execRouteTreeRead m root tree s) := by
  unfold execRouteTreeRead
  repeat' first
    | with_reducible assumption
    | with_reducible intro _
    | with_reducible apply keeps_parts
    | with_reducible apply command_keeps
    | with_reducible apply answer_keeps
    | with_reducible apply refuse_keeps
    | with_reducible apply answers_next
    | with_reducible apply answers_fault
    | with_reducible apply answers_refused
    | with_reducible apply ite_answers
    | with_reducible apply ite_keeps
    | with_reducible apply foldl_keeps
    | with_reducible apply foldl_pair_keeps
    | split
    | rw [keeps_mk_iff]
    | dsimp only

theorem execRouteFenceList_keeps (m : CmdMeta) (first : Nat) (s : State) (h : Keeps q n s) :
    Answers q n (execRouteFenceList m first s) := by
  unfold execRouteFenceList
  repeat' first
    | with_reducible assumption
    | with_reducible intro _
    | with_reducible apply keeps_parts
    | with_reducible apply command_keeps
    | with_reducible apply refuse_keeps
    | with_reducible apply answer_keeps
    | with_reducible apply answers_next
    | with_reducible apply answers_fault
    | with_reducible apply answers_refused
    | with_reducible apply ite_answers
    | with_reducible apply ite_keeps
    | with_reducible apply foldl_keeps
    | with_reducible apply foldl_pair_keeps
    | split
    | rw [keeps_mk_iff]
    | dsimp only

theorem execRouteStats_keeps (m : CmdMeta) (s : State) (h : Keeps q n s) :
    Answers q n (execRouteStats m s) := by
  unfold execRouteStats
  repeat' first
    | with_reducible assumption
    | with_reducible intro _
    | with_reducible apply keeps_parts
    | with_reducible apply command_keeps
    | with_reducible apply answer_keeps
    | with_reducible apply answers_next
    | with_reducible apply answers_fault
    | with_reducible apply answers_refused
    | with_reducible apply ite_answers
    | with_reducible apply ite_keeps
    | with_reducible apply foldl_keeps
    | with_reducible apply foldl_pair_keeps
    | split
    | rw [keeps_mk_iff]
    | dsimp only

end Sys2Proof.Machine
end

