-- ==== Sys2Proof/Laws/KeepSched.lean ====
section
/-! SUPPORT. What the operations of Machine/Sched.lean keep: the queue, the clock and the canonical form of HBM and the registers. -/
namespace Sys2Proof.Machine

variable {q : List Instr} {n : Nat}

theorem windowFault_keeps (p : Nat) (idx : Nat) (cls : Nat) (left : Nat) (s : State) (h : Keeps q n s) :
    Keeps q n (windowFault p idx cls left s) := by
  unfold windowFault
  repeat' first
    | with_reducible assumption
    | with_reducible intro _
    | with_reducible apply keeps_parts
    | with_reducible apply setReg_keeps
    | with_reducible apply incReg_keeps
    | with_reducible apply logEvent_keeps
    | with_reducible apply ite_keeps
    | with_reducible apply foldl_keeps
    | with_reducible apply foldl_pair_keeps
    | split
    | rw [keeps_mk_iff]
    | dsimp only

theorem bindPackets_keeps (p : Nat) (mask : Nat) (s : State) (h : Keeps q n s) :
    Keeps q n (bindPackets p mask s) := by
  unfold bindPackets
  repeat' first
    | with_reducible assumption
    | with_reducible intro _
    | with_reducible apply keeps_parts
    | with_reducible apply ite_keeps
    | with_reducible apply foldl_keeps
    | with_reducible apply foldl_pair_keeps
    | split
    | rw [keeps_mk_iff]
    | dsimp only

theorem closeWindow_keeps (p : Nat) (s : State) (h : Keeps q n s) :
    Keeps q n (closeWindow p s) := by
  unfold closeWindow
  repeat' first
    | with_reducible assumption
    | with_reducible intro _
    | with_reducible apply keeps_parts
    | with_reducible apply windowFault_keeps
    | with_reducible apply modSched_keeps
    | with_reducible apply bindPackets_keeps
    | with_reducible apply ite_keeps
    | with_reducible apply foldl_keeps
    | with_reducible apply foldl_pair_keeps
    | split
    | rw [keeps_mk_iff]
    | dsimp only

theorem openWindow_keeps (p : Nat) (s : State) (h : Keeps q n s) :
    Keeps q n (openWindow p s) := by
  unfold openWindow
  repeat' first
    | with_reducible assumption
    | with_reducible intro _
    | with_reducible apply keeps_parts
    | with_reducible apply modSched_keeps
    | with_reducible apply bindPackets_keeps
    | with_reducible apply ite_keeps
    | with_reducible apply foldl_keeps
    | with_reducible apply foldl_pair_keeps
    | split
    | rw [keeps_mk_iff]
    | dsimp only

theorem settleWindow_keeps (p : Nat) (s : State) (h : Keeps q n s) :
    Keeps q n (settleWindow p s) := by
  unfold settleWindow
  repeat' first
    | with_reducible assumption
    | with_reducible intro _
    | with_reducible apply keeps_parts
    | with_reducible apply openWindow_keeps
    | with_reducible apply closeWindow_keeps
    | with_reducible apply ite_keeps
    | with_reducible apply foldl_keeps
    | with_reducible apply foldl_pair_keeps
    | split
    | rw [keeps_mk_iff]
    | dsimp only

theorem setCurStart_keeps (p : Nat) (x1 : Nat) (s : State) (h : Keeps q n s) :
    Keeps q n (setCurStart p x1 s) := by
  unfold setCurStart
  repeat' first
    | with_reducible assumption
    | with_reducible intro _
    | with_reducible apply keeps_parts
    | with_reducible apply setReg_keeps
    | with_reducible apply ite_keeps
    | with_reducible apply foldl_keeps
    | with_reducible apply foldl_pair_keeps
    | split
    | rw [keeps_mk_iff]
    | dsimp only

theorem execWindowEdge_keeps (port : Nat) (s : State) (h : Keeps q n s) :
    Answers q n (execWindowEdge port s) := by
  unfold execWindowEdge
  repeat' first
    | with_reducible assumption
    | with_reducible intro _
    | with_reducible apply keeps_parts
    | with_reducible apply onUnit_keeps
    | with_reducible apply settleWindow_keeps
    | with_reducible apply advance_keeps
    | with_reducible apply answers_next
    | with_reducible apply answers_fault
    | with_reducible apply answers_refused
    | with_reducible apply ite_answers
    | with_reducible apply ite_keeps
    | with_reducible apply foldl_keeps
    | with_reducible apply foldl_pair_keeps
    | split
    | rw [keeps_mk_iff]
    | dsimp only

theorem execCycleStart_keeps (port : Nat) (s : State) (h : Keeps q n s) :
    Answers q n (execCycleStart port s) := by
  unfold execCycleStart
  repeat' first
    | with_reducible assumption
    | with_reducible intro _
    | with_reducible apply keeps_parts
    | with_reducible apply onUnit_keeps
    | with_reducible apply advance_keeps
    | with_reducible apply setCurStart_keeps
    | with_reducible apply closeWindow_keeps
    | with_reducible apply openWindow_keeps
    | with_reducible apply modSched_keeps
    | with_reducible apply answers_next
    | with_reducible apply answers_fault
    | with_reducible apply answers_refused
    | with_reducible apply ite_answers
    | with_reducible apply ite_keeps
    | with_reducible apply foldl_keeps
    | with_reducible apply foldl_pair_keeps
    | split
    | rw [keeps_mk_iff]
    | dsimp only

theorem haltSchedule_keeps (p : Nat) (s : State) (h : Keeps q n s) :
    Keeps q n (haltSchedule p s) := by
  unfold haltSchedule
  repeat' first
    | with_reducible assumption
    | with_reducible intro _
    | with_reducible apply keeps_parts
    | with_reducible apply modSched_keeps
    | with_reducible apply closeWindow_keeps
    | with_reducible apply ite_keeps
    | with_reducible apply foldl_keeps
    | with_reducible apply foldl_pair_keeps
    | split
    | rw [keeps_mk_iff]
    | dsimp only

theorem realignSchedule_keeps (p : Nat) (s : State) (h : Keeps q n s) :
    Keeps q n (realignSchedule p s) := by
  unfold realignSchedule
  repeat' first
    | with_reducible assumption
    | with_reducible intro _
    | with_reducible apply keeps_parts
    | with_reducible apply setCurStart_keeps
    | with_reducible apply ite_keeps
    | with_reducible apply foldl_keeps
    | with_reducible apply foldl_pair_keeps
    | split
    | rw [keeps_mk_iff]
    | dsimp only

theorem execScheduleFlip_keeps (port : Nat) (s : State) (h : Keeps q n s) :
    Answers q n (execScheduleFlip port s) := by
  unfold execScheduleFlip
  repeat' first
    | with_reducible assumption
    | with_reducible intro _
    | with_reducible apply keeps_parts
    | with_reducible apply onUnit_keeps
    | with_reducible apply advance_keeps
    | with_reducible apply modSched_keeps
    | with_reducible apply closeWindow_keeps
    | with_reducible apply setReg_keeps
    | with_reducible apply openWindow_keeps
    | with_reducible apply setCurStart_keeps
    | with_reducible apply finish_keeps
    | with_reducible apply answers_next
    | with_reducible apply answers_fault
    | with_reducible apply answers_refused
    | with_reducible apply ite_answers
    | with_reducible apply ite_keeps
    | with_reducible apply foldl_keeps
    | with_reducible apply foldl_pair_keeps
    | split
    | rw [keeps_mk_iff]
    | dsimp only

theorem putPolicer_keeps (l : Nat) (stream : Bool) (key : Nat) (x : Policer) (s : State) (h : Keeps q n s) :
    Keeps q n (putPolicer l stream key x s) := by
  unfold putPolicer
  repeat' first
    | with_reducible assumption
    | with_reducible intro _
    | with_reducible apply keeps_parts
    | with_reducible apply modSched_keeps
    | with_reducible apply ite_keeps
    | with_reducible apply foldl_keeps
    | with_reducible apply foldl_pair_keeps
    | split
    | rw [keeps_mk_iff]
    | dsimp only

theorem police_keeps_eq {l : Nat} {p : Packet} {s t : State} {b : Bool} (e : police l p s = (b, t)) (h : Keeps q n s) : Keeps q n t := by
  unfold police at e
  split at e
  · injection e with _ e; exact e ▸ h
  · dsimp only at e
    split at e
    · injection e with _ e; exact e ▸ putPolicer_keeps _ _ _ _ _ h
    · injection e with _ e
      subst e
      have hs := incReg_keeps .sdPolicedCnt l s h
      split
      · exact hs
      · exact logEvent_keeps _ _ _ _ _ _ (putPolicer_keeps _ _ _ _ _ hs)

theorem police_keeps (l : Nat) (p : Packet) (s : State) (h : Keeps q n s) : Keeps q n (police l p s).2 := police_keeps_eq rfl h

theorem execPolicerRefill_keeps (port : Nat) (s : State) (h : Keeps q n s) :
    Answers q n (execPolicerRefill port s) := by
  unfold execPolicerRefill
  repeat' first
    | with_reducible assumption
    | with_reducible intro _
    | with_reducible apply keeps_parts
    | with_reducible apply onUnit_keeps
    | with_reducible apply modSched_keeps
    | with_reducible apply advanceTo_keeps
    | with_reducible apply answers_next
    | with_reducible apply answers_fault
    | with_reducible apply answers_refused
    | with_reducible apply ite_answers
    | with_reducible apply ite_keeps
    | with_reducible apply foldl_keeps
    | with_reducible apply foldl_pair_keeps
    | split
    | rw [keeps_mk_iff]
    | dsimp only

theorem portCommand_keeps (m : CmdMeta) (op : Nat) (port : Nat) (x3 : CmdRef → State → State) (s : State) (hx3 : ∀ a0 a1, Keeps q n a1 → Keeps q n (x3 a0 a1)) (h : Keeps q n s) :
    Answers q n (portCommand m op port x3 s) := by
  unfold portCommand
  repeat' first
    | with_reducible assumption
    | with_reducible intro _
    | with_reducible apply keeps_parts
    | with_reducible apply hx3
    | with_reducible apply command_keeps
    | with_reducible apply requires_keeps
    | with_reducible apply answers_next
    | with_reducible apply answers_fault
    | with_reducible apply answers_refused
    | with_reducible apply ite_answers
    | with_reducible apply ite_keeps
    | with_reducible apply foldl_keeps
    | with_reducible apply foldl_pair_keeps
    | split
    | rw [keeps_mk_iff]
    | dsimp only

theorem execSchedStatus_keeps (m : CmdMeta) (port : Nat) (s : State) (h : Keeps q n s) :
    Answers q n (execSchedStatus m port s) := by
  unfold execSchedStatus
  repeat' first
    | with_reducible assumption
    | with_reducible intro _
    | with_reducible apply keeps_parts
    | with_reducible apply portCommand_keeps
    | with_reducible apply answer_keeps
    | with_reducible apply answers_next
    | with_reducible apply answers_fault
    | with_reducible apply answers_refused
    | with_reducible apply ite_answers
    | with_reducible apply ite_keeps
    | with_reducible apply foldl_keeps
    | with_reducible apply foldl_pair_keeps
    | split
    | rw [keeps_mk_iff]
    | dsimp only

theorem setClassWeight_keeps (cls : Nat) (w : Nat) (p : Nat) (s : State) (h : Keeps q n s) :
    Keeps q n (setClassWeight cls w p s) := by
  unfold setClassWeight
  repeat' first
    | with_reducible assumption
    | with_reducible intro _
    | with_reducible apply keeps_parts
    | with_reducible apply setReg_keeps
    | with_reducible apply ite_keeps
    | with_reducible apply foldl_keeps
    | with_reducible apply foldl_pair_keeps
    | split
    | rw [keeps_mk_iff]
    | dsimp only

theorem execSchedClassWeight_keeps (m : CmdMeta) (port : Nat) (cls : Nat) (weight : Nat) (s : State) (h : Keeps q n s) :
    Answers q n (execSchedClassWeight m port cls weight s) := by
  unfold execSchedClassWeight
  repeat' first
    | with_reducible assumption
    | with_reducible intro _
    | with_reducible apply keeps_parts
    | with_reducible apply command_keeps
    | with_reducible apply requires_keeps
    | with_reducible apply done_keeps
    | with_reducible apply setClassWeight_keeps
    | with_reducible apply answers_next
    | with_reducible apply answers_fault
    | with_reducible apply answers_refused
    | with_reducible apply ite_answers
    | with_reducible apply ite_keeps
    | with_reducible apply foldl_keeps
    | with_reducible apply foldl_pair_keeps
    | split
    | rw [keeps_mk_iff]
    | dsimp only

theorem execSchedQueueWeight_keeps (m : CmdMeta) (queue : Nat) (weight : Nat) (s : State) (h : Keeps q n s) :
    Answers q n (execSchedQueueWeight m queue weight s) := by
  unfold execSchedQueueWeight
  repeat' first
    | with_reducible assumption
    | with_reducible intro _
    | with_reducible apply keeps_parts
    | with_reducible apply command_keeps
    | with_reducible apply refuse_keeps
    | with_reducible apply done_keeps
    | with_reducible apply putQueue_keeps
    | with_reducible apply answers_next
    | with_reducible apply answers_fault
    | with_reducible apply answers_refused
    | with_reducible apply ite_answers
    | with_reducible apply ite_keeps
    | with_reducible apply foldl_keeps
    | with_reducible apply foldl_pair_keeps
    | split
    | rw [keeps_mk_iff]
    | dsimp only

theorem modShadow_keeps (p : Nat) (f : Tab Nat → Tab Nat) (s : State) (h : Keeps q n s) :
    Keeps q n (modShadow p f s) := by
  unfold modShadow
  repeat' first
    | with_reducible assumption
    | with_reducible intro _
    | with_reducible apply keeps_parts
    | with_reducible apply modSched_keeps
    | with_reducible apply ite_keeps
    | with_reducible apply foldl_keeps
    | with_reducible apply foldl_pair_keeps
    | split
    | rw [keeps_mk_iff]
    | dsimp only

theorem execSchedWinWrite_keeps (m : CmdMeta) (port : Nat) (first : Nat) (entries : List Nat) (s : State) (h : Keeps q n s) :
    Answers q n (execSchedWinWrite m port first entries s) := by
  unfold execSchedWinWrite
  repeat' first
    | with_reducible assumption
    | with_reducible intro _
    | with_reducible apply keeps_parts
    | with_reducible apply portCommand_keeps
    | with_reducible apply refuse_keeps
    | with_reducible apply done_keeps
    | with_reducible apply modShadow_keeps
    | with_reducible apply answers_next
    | with_reducible apply answers_fault
    | with_reducible apply answers_refused
    | with_reducible apply ite_answers
    | with_reducible apply ite_keeps
    | with_reducible apply foldl_keeps
    | with_reducible apply foldl_pair_keeps
    | split
    | rw [keeps_mk_iff]
    | dsimp only

theorem execSchedWinCommit_keeps (m : CmdMeta) (port : Nat) (count : Nat) (cycleNs : Nat) (idleMask : Nat) (guardNs : Nat) (activateAt : Nat) (s : State) (h : Keeps q n s) :
    Answers q n (execSchedWinCommit m port count cycleNs idleMask guardNs activateAt s) := by
  unfold execSchedWinCommit
  repeat' first
    | with_reducible assumption
    | with_reducible intro _
    | with_reducible apply keeps_parts
    | with_reducible apply portCommand_keeps
    | with_reducible apply refuse_keeps
    | with_reducible apply accept_keeps
    | with_reducible apply modSched_keeps
    | with_reducible apply answers_next
    | with_reducible apply answers_fault
    | with_reducible apply answers_refused
    | with_reducible apply ite_answers
    | with_reducible apply ite_keeps
    | with_reducible apply foldl_keeps
    | with_reducible apply foldl_pair_keeps
    | split
    | rw [keeps_mk_iff]
    | dsimp only

theorem execSchedWinOff_keeps (m : CmdMeta) (port : Nat) (activateAt : Nat) (s : State) (h : Keeps q n s) :
    Answers q n (execSchedWinOff m port activateAt s) := by
  unfold execSchedWinOff
  repeat' first
    | with_reducible assumption
    | with_reducible intro _
    | with_reducible apply keeps_parts
    | with_reducible apply portCommand_keeps
    | with_reducible apply refuse_keeps
    | with_reducible apply accept_keeps
    | with_reducible apply modSched_keeps
    | with_reducible apply answers_next
    | with_reducible apply answers_fault
    | with_reducible apply answers_refused
    | with_reducible apply ite_answers
    | with_reducible apply ite_keeps
    | with_reducible apply foldl_keeps
    | with_reducible apply foldl_pair_keeps
    | split
    | rw [keeps_mk_iff]
    | dsimp only

theorem execSchedWinRead_keeps (m : CmdMeta) (port : Nat) (table : Nat) (first : Nat) (s : State) (h : Keeps q n s) :
    Answers q n (execSchedWinRead m port table first s) := by
  unfold execSchedWinRead
  repeat' first
    | with_reducible assumption
    | with_reducible intro _
    | with_reducible apply keeps_parts
    | with_reducible apply portCommand_keeps
    | with_reducible apply refuse_keeps
    | with_reducible apply answer_keeps
    | with_reducible apply answers_next
    | with_reducible apply answers_fault
    | with_reducible apply answers_refused
    | with_reducible apply ite_answers
    | with_reducible apply ite_keeps
    | with_reducible apply foldl_keeps
    | with_reducible apply foldl_pair_keeps
    | split
    | rw [keeps_mk_iff]
    | dsimp only

theorem execPolicerSet_keeps (m : CmdMeta) (port : Nat) (kind : Nat) (stream : Nat) (cls : Nat) (r : Nat) (b : Nat) (s : State) (h : Keeps q n s) :
    Answers q n (execPolicerSet m port kind stream cls r b s) := by
  unfold execPolicerSet
  repeat' first
    | with_reducible assumption
    | with_reducible intro _
    | with_reducible apply keeps_parts
    | with_reducible apply portCommand_keeps
    | with_reducible apply refuse_keeps
    | with_reducible apply modSched_keeps
    | with_reducible apply done_keeps
    | with_reducible apply putPolicer_keeps
    | with_reducible apply answers_next
    | with_reducible apply answers_fault
    | with_reducible apply answers_refused
    | with_reducible apply ite_answers
    | with_reducible apply ite_keeps
    | with_reducible apply foldl_keeps
    | with_reducible apply foldl_pair_keeps
    | split
    | rw [keeps_mk_iff]
    | dsimp only

theorem execPolicerRead_keeps (m : CmdMeta) (port : Nat) (kind : Nat) (stream : Nat) (cls : Nat) (s : State) (h : Keeps q n s) :
    Answers q n (execPolicerRead m port kind stream cls s) := by
  unfold execPolicerRead
  repeat' first
    | with_reducible assumption
    | with_reducible intro _
    | with_reducible apply keeps_parts
    | with_reducible apply portCommand_keeps
    | with_reducible apply refuse_keeps
    | with_reducible apply answer_keeps
    | with_reducible apply answers_next
    | with_reducible apply answers_fault
    | with_reducible apply answers_refused
    | with_reducible apply ite_answers
    | with_reducible apply ite_keeps
    | with_reducible apply foldl_keeps
    | with_reducible apply foldl_pair_keeps
    | split
    | rw [keeps_mk_iff]
    | dsimp only

theorem execSchedSample_keeps (m : CmdMeta) (queue : Nat) (on : Nat) (s : State) (h : Keeps q n s) :
    Answers q n (execSchedSample m queue on s) := by
  unfold execSchedSample
  repeat' first
    | with_reducible assumption
    | with_reducible intro _
    | with_reducible apply keeps_parts
    | with_reducible apply command_keeps
    | with_reducible apply refuse_keeps
    | with_reducible apply done_keeps
    | with_reducible apply answers_next
    | with_reducible apply answers_fault
    | with_reducible apply answers_refused
    | with_reducible apply ite_answers
    | with_reducible apply ite_keeps
    | with_reducible apply foldl_keeps
    | with_reducible apply foldl_pair_keeps
    | split
    | rw [keeps_mk_iff]
    | dsimp only

theorem execSchedHistRead_keeps (m : CmdMeta) (queue : Nat) (clear : Nat) (s : State) (h : Keeps q n s) :
    Answers q n (execSchedHistRead m queue clear s) := by
  unfold execSchedHistRead
  repeat' first
    | with_reducible assumption
    | with_reducible intro _
    | with_reducible apply keeps_parts
    | with_reducible apply command_keeps
    | with_reducible apply refuse_keeps
    | with_reducible apply answer_keeps
    | with_reducible apply answers_next
    | with_reducible apply answers_fault
    | with_reducible apply answers_refused
    | with_reducible apply ite_answers
    | with_reducible apply ite_keeps
    | with_reducible apply foldl_keeps
    | with_reducible apply foldl_pair_keeps
    | split
    | rw [keeps_mk_iff]
    | dsimp only

theorem execSchedSampleRate_keeps (m : CmdMeta) (shift : Nat) (s : State) (h : Keeps q n s) :
    Answers q n (execSchedSampleRate m shift s) := by
  unfold execSchedSampleRate
  repeat' first
    | with_reducible assumption
    | with_reducible intro _
    | with_reducible apply keeps_parts
    | with_reducible apply command_keeps
    | with_reducible apply requires_keeps
    | with_reducible apply done_keeps
    | with_reducible apply setReg_keeps
    | with_reducible apply answers_next
    | with_reducible apply answers_fault
    | with_reducible apply answers_refused
    | with_reducible apply ite_answers
    | with_reducible apply ite_keeps
    | with_reducible apply foldl_keeps
    | with_reducible apply foldl_pair_keeps
    | split
    | rw [keeps_mk_iff]
    | dsimp only

theorem execSchedStats_keeps (m : CmdMeta) (port : Nat) (s : State) (h : Keeps q n s) :
    Answers q n (execSchedStats m port s) := by
  unfold execSchedStats
  repeat' first
    | with_reducible assumption
    | with_reducible intro _
    | with_reducible apply keeps_parts
    | with_reducible apply portCommand_keeps
    | with_reducible apply answer_keeps
    | with_reducible apply answers_next
    | with_reducible apply answers_fault
    | with_reducible apply answers_refused
    | with_reducible apply ite_answers
    | with_reducible apply ite_keeps
    | with_reducible apply foldl_keeps
    | with_reducible apply foldl_pair_keeps
    | split
    | rw [keeps_mk_iff]
    | dsimp only

end Sys2Proof.Machine
end

