-- ==== Sys2Proof/Laws/KeepLink.lean ====
section
/-! SUPPORT. What the operations of Machine/Link.lean keep: the queue, the clock and the canonical form of HBM and the registers. -/
namespace Sys2Proof.Machine

variable {q : List Instr} {n : Nat}

theorem noteEqDefault_keeps (l : Nat) (s : State) (h : Keeps q n s) :
    Keeps q n (noteEqDefault l s) := by
  unfold noteEqDefault
  repeat' first
    | with_reducible assumption
    | with_reducible intro _
    | with_reducible apply keeps_parts
    | with_reducible apply setReg_keeps
    | with_reducible apply ite_keeps
    | with_reducible apply foldl_keeps
    | with_reducible apply foldl_pair_keeps
    | split
    | rw [keeps_mk_iff]
    | dsimp only

theorem loadEq_keeps (s : State) (h : Keeps q n s) :
    Keeps q n (loadEq s) := by
  unfold loadEq
  repeat' first
    | with_reducible assumption
    | with_reducible intro _
    | with_reducible apply keeps_parts
    | with_reducible apply logEvent_keeps
    | with_reducible apply noteEqDefault_keeps
    | with_reducible apply ite_keeps
    | with_reducible apply foldl_keeps
    | with_reducible apply foldl_pair_keeps
    | split
    | rw [keeps_mk_iff]
    | dsimp only

theorem dropUnused_keeps (l : Nat) (s : State) (h : Keeps q n s) :
    Keeps q n (dropUnused l s) := by
  unfold dropUnused
  repeat' first
    | with_reducible assumption
    | with_reducible intro _
    | with_reducible apply keeps_parts
    | with_reducible apply powerDown_keeps
    | with_reducible apply ite_keeps
    | with_reducible apply foldl_keeps
    | with_reducible apply foldl_pair_keeps
    | split
    | rw [keeps_mk_iff]
    | dsimp only

theorem settleSlots_keeps (s : State) (h : Keeps q n s) :
    Keeps q n (settleSlots s) := by
  unfold settleSlots
  repeat' first
    | with_reducible assumption
    | with_reducible intro _
    | with_reducible apply keeps_parts
    | with_reducible apply dropUnused_keeps
    | with_reducible apply ite_keeps
    | with_reducible apply foldl_keeps
    | with_reducible apply foldl_pair_keeps
    | split
    | rw [keeps_mk_iff]
    | dsimp only

theorem settleCount_keeps (s : State) (h : Keeps q n s) :
    Keeps q n (settleCount s) := by
  unfold settleCount
  repeat' first
    | with_reducible assumption
    | with_reducible intro _
    | with_reducible apply keeps_parts
    | with_reducible apply ite_keeps
    | with_reducible apply foldl_keeps
    | with_reducible apply foldl_pair_keeps
    | split
    | rw [keeps_mk_iff]
    | dsimp only

theorem adoptCount_keeps (l : Nat) (s : State) (h : Keeps q n s) :
    Keeps q n (adoptCount l s) := by
  unfold adoptCount
  repeat' first
    | with_reducible assumption
    | with_reducible intro _
    | with_reducible apply keeps_parts
    | with_reducible apply settleCount_keeps
    | with_reducible apply modLink_keeps
    | with_reducible apply ite_keeps
    | with_reducible apply foldl_keeps
    | with_reducible apply foldl_pair_keeps
    | split
    | rw [keeps_mk_iff]
    | dsimp only

theorem answerRetrain_keeps (l : Nat) (s : State) (h : Keeps q n s) :
    Keeps q n (answerRetrain l s) := by
  unfold answerRetrain
  repeat' first
    | with_reducible assumption
    | with_reducible intro _
    | with_reducible apply keeps_parts
    | with_reducible apply modLink_keeps
    | with_reducible apply finishOpt_keeps
    | with_reducible apply ite_keeps
    | with_reducible apply foldl_keeps
    | with_reducible apply foldl_pair_keeps
    | split
    | rw [keeps_mk_iff]
    | dsimp only

theorem askHalf_keeps (d : Nat) (s : State) (h : Keeps q n s) :
    Keeps q n (askHalf d s) := by
  unfold askHalf
  repeat' first
    | with_reducible assumption
    | with_reducible intro _
    | with_reducible apply keeps_parts
    | with_reducible apply ite_keeps
    | with_reducible apply foldl_keeps
    | with_reducible apply foldl_pair_keeps
    | split
    | rw [keeps_mk_iff]
    | dsimp only

theorem beginAttempt_keeps (l : Nat) (s : State) (h : Keeps q n s) :
    Keeps q n (beginAttempt l s) := by
  unfold beginAttempt
  repeat' first
    | with_reducible assumption
    | with_reducible intro _
    | with_reducible apply keeps_parts
    | with_reducible apply modLink_keeps
    | with_reducible apply incReg_keeps
    | with_reducible apply ite_keeps
    | with_reducible apply foldl_keeps
    | with_reducible apply foldl_pair_keeps
    | split
    | rw [keeps_mk_iff]
    | dsimp only

theorem powerUp_keeps (l : Nat) (s : State) (h : Keeps q n s) :
    Keeps q n (powerUp l s) := by
  unfold powerUp
  repeat' first
    | with_reducible assumption
    | with_reducible intro _
    | with_reducible apply keeps_parts
    | with_reducible apply modLink_keeps
    | with_reducible apply adoptCount_keeps
    | with_reducible apply answerRetrain_keeps
    | with_reducible apply setLinkState_keeps
    | with_reducible apply setReg_keeps
    | with_reducible apply noteEqDefault_keeps
    | with_reducible apply sendTraining_keeps
    | with_reducible apply modLine_keeps
    | with_reducible apply askHalf_keeps
    | with_reducible apply beginAttempt_keeps
    | with_reducible apply ite_keeps
    | with_reducible apply foldl_keeps
    | with_reducible apply foldl_pair_keeps
    | split
    | rw [keeps_mk_iff]
    | dsimp only

theorem failAttempt_keeps (l : Nat) (cause : Nat) (s : State) (h : Keeps q n s) :
    Keeps q n (failAttempt l cause s) := by
  unfold failAttempt
  repeat' first
    | with_reducible assumption
    | with_reducible intro _
    | with_reducible apply keeps_parts
    | with_reducible apply setReg_keeps
    | with_reducible apply incReg_keeps
    | with_reducible apply modLink_keeps
    | with_reducible apply setLinkState_keeps
    | with_reducible apply answerRetrain_keeps
    | with_reducible apply logEvent_keeps
    | with_reducible apply ite_keeps
    | with_reducible apply foldl_keeps
    | with_reducible apply foldl_pair_keeps
    | split
    | rw [keeps_mk_iff]
    | dsimp only

theorem toStep_keeps (l : Nat) (x1 : Nat) (s : State) (h : Keeps q n s) :
    Keeps q n (toStep l x1 s) := by
  unfold toStep
  repeat' first
    | with_reducible assumption
    | with_reducible intro _
    | with_reducible apply keeps_parts
    | with_reducible apply modLink_keeps
    | with_reducible apply ite_keeps
    | with_reducible apply foldl_keeps
    | with_reducible apply foldl_pair_keeps
    | split
    | rw [keeps_mk_iff]
    | dsimp only

theorem execLaneCkLock_keeps (l : Nat) (measured : Nat) (s : State) (h : Keeps q n s) :
    Answers q n (execLaneCkLock l measured s) := by
  unfold execLaneCkLock
  repeat' first
    | with_reducible assumption
    | with_reducible intro _
    | with_reducible apply keeps_parts
    | with_reducible apply beginAttempt_keeps
    | with_reducible apply toStep_keeps
    | with_reducible apply failAttempt_keeps
    | with_reducible apply answers_next
    | with_reducible apply answers_fault
    | with_reducible apply answers_refused
    | with_reducible apply ite_answers
    | with_reducible apply ite_keeps
    | with_reducible apply foldl_keeps
    | with_reducible apply foldl_pair_keeps
    | split
    | rw [keeps_mk_iff]
    | dsimp only

theorem trainLanes_keeps (l : Nat) (o : TrainObs) (s : State) (h : Keeps q n s) :
    Keeps q n (trainLanes l o s) := by
  unfold trainLanes
  repeat' first
    | with_reducible assumption
    | with_reducible intro _
    | with_reducible apply keeps_parts
    | with_reducible apply failAttempt_keeps
    | with_reducible apply toStep_keeps
    | with_reducible apply setReg_keeps
    | with_reducible apply sendTraining_keeps
    | with_reducible apply modLink_keeps
    | with_reducible apply startColumns_keeps
    | with_reducible apply ite_keeps
    | with_reducible apply foldl_keeps
    | with_reducible apply foldl_pair_keeps
    | split
    | rw [keeps_mk_iff]
    | dsimp only

theorem execTrainingSet_keeps (l : Nat) (obs : TrainObs) (s : State) (h : Keeps q n s) :
    Answers q n (execTrainingSet l obs s) := by
  unfold execTrainingSet
  repeat' first
    | with_reducible assumption
    | with_reducible intro _
    | with_reducible apply keeps_parts
    | with_reducible apply modLink_keeps
    | with_reducible apply trainLanes_keeps
    | with_reducible apply startColumns_keeps
    | with_reducible apply answers_next
    | with_reducible apply answers_fault
    | with_reducible apply answers_refused
    | with_reducible apply ite_answers
    | with_reducible apply ite_keeps
    | with_reducible apply foldl_keeps
    | with_reducible apply foldl_pair_keeps
    | split
    | rw [keeps_mk_iff]
    | dsimp only

theorem execLinkDeskew_keeps (l : Nat) (skew : Nat) (s : State) (h : Keeps q n s) :
    Answers q n (execLinkDeskew l skew s) := by
  unfold execLinkDeskew
  repeat' first
    | with_reducible assumption
    | with_reducible intro _
    | with_reducible apply keeps_parts
    | with_reducible apply setReg_keeps
    | with_reducible apply failAttempt_keeps
    | with_reducible apply modLink_keeps
    | with_reducible apply toStep_keeps
    | with_reducible apply startColumns_keeps
    | with_reducible apply answers_next
    | with_reducible apply answers_fault
    | with_reducible apply answers_refused
    | with_reducible apply ite_answers
    | with_reducible apply ite_keeps
    | with_reducible apply foldl_keeps
    | with_reducible apply foldl_pair_keeps
    | split
    | rw [keeps_mk_iff]
    | dsimp only

theorem activate_keeps (l : Nat) (s : State) (h : Keeps q n s) :
    Keeps q n (activate l s) := by
  unfold activate
  repeat' first
    | with_reducible assumption
    | with_reducible intro _
    | with_reducible apply keeps_parts
    | with_reducible apply modLink_keeps
    | with_reducible apply linkInService_keeps
    | with_reducible apply answerRetrain_keeps
    | with_reducible apply setLinkState_keeps
    | with_reducible apply ite_keeps
    | with_reducible apply foldl_keeps
    | with_reducible apply foldl_pair_keeps
    | split
    | rw [keeps_mk_iff]
    | dsimp only

theorem tryStep6_keeps (l : Nat) (s : State) (h : Keeps q n s) :
    Keeps q n (tryStep6 l s) := by
  unfold tryStep6
  repeat' first
    | with_reducible assumption
    | with_reducible intro _
    | with_reducible apply keeps_parts
    | with_reducible apply sendCredit_keeps
    | with_reducible apply resetCredit_keeps
    | with_reducible apply toStep_keeps
    | with_reducible apply ite_keeps
    | with_reducible apply foldl_keeps
    | with_reducible apply foldl_pair_keeps
    | split
    | rw [keeps_mk_iff]
    | dsimp only

theorem quarantine_keeps (l : Nat) (cause : Nat) (s : State) (h : Keeps q n s) :
    Keeps q n (quarantine l cause s) := by
  unfold quarantine
  repeat' first
    | with_reducible assumption
    | with_reducible intro _
    | with_reducible apply keeps_parts
    | with_reducible apply setReg_keeps
    | with_reducible apply setLinkState_keeps
    | with_reducible apply modLink_keeps
    | with_reducible apply sendCredit_keeps
    | with_reducible apply resetCredit_keeps
    | with_reducible apply answerRetrain_keeps
    | with_reducible apply logEvent_keeps
    | with_reducible apply ite_keeps
    | with_reducible apply foldl_keeps
    | with_reducible apply foldl_pair_keeps
    | split
    | rw [keeps_mk_iff]
    | dsimp only

theorem identChecks_keeps (l : Nat) (s : State) (h : Keeps q n s) :
    Keeps q n (identChecks l s) := by
  unfold identChecks
  repeat' first
    | with_reducible assumption
    | with_reducible intro _
    | with_reducible apply keeps_parts
    | with_reducible apply quarantine_keeps
    | with_reducible apply answerRetrain_keeps
    | with_reducible apply setLinkState_keeps
    | with_reducible apply setReg_keeps
    | with_reducible apply tryStep6_keeps
    | with_reducible apply modLink_keeps
    | with_reducible apply ite_keeps
    | with_reducible apply foldl_keeps
    | with_reducible apply foldl_pair_keeps
    | split
    | rw [keeps_mk_iff]
    | dsimp only

theorem resumeIdent_keeps (l : Nat) (s : State) (h : Keeps q n s) :
    Keeps q n (resumeIdent l s) := by
  unfold resumeIdent
  repeat' first
    | with_reducible assumption
    | with_reducible intro _
    | with_reducible apply keeps_parts
    | with_reducible apply modLink_keeps
    | with_reducible apply toStep_keeps
    | with_reducible apply setLinkState_keeps
    | with_reducible apply ite_keeps
    | with_reducible apply foldl_keeps
    | with_reducible apply foldl_pair_keeps
    | split
    | rw [keeps_mk_iff]
    | dsimp only

theorem execCoordinatesSetResume_keeps (l : Nat) (s : State) (h : Keeps q n s) :
    Answers q n (execCoordinatesSetResume l s) := by
  unfold execCoordinatesSetResume
  repeat' first
    | with_reducible assumption
    | with_reducible intro _
    | with_reducible apply keeps_parts
    | with_reducible apply dropUnused_keeps
    | with_reducible apply resumeIdent_keeps
    | with_reducible apply answers_next
    | with_reducible apply answers_fault
    | with_reducible apply answers_refused
    | with_reducible apply ite_answers
    | with_reducible apply ite_keeps
    | with_reducible apply foldl_keeps
    | with_reducible apply foldl_pair_keeps
    | split
    | rw [keeps_mk_iff]
    | dsimp only

theorem takeIdent_keeps (l : Nat) (body : List Byte) (s : State) (h : Keeps q n s) :
    Keeps q n (takeIdent l body s) := by
  unfold takeIdent
  repeat' first
    | with_reducible assumption
    | with_reducible intro _
    | with_reducible apply keeps_parts
    | with_reducible apply setReg_keeps
    | with_reducible apply resumeIdent_keeps
    | with_reducible apply modLink_keeps
    | with_reducible apply tryStep6_keeps
    | with_reducible apply identChecks_keeps
    | with_reducible apply ite_keeps
    | with_reducible apply foldl_keeps
    | with_reducible apply foldl_pair_keeps
    | split
    | rw [keeps_mk_iff]
    | dsimp only

theorem execIdent_keeps (l : Nat) (body : List Byte) (s : State) (h : Keeps q n s) :
    Answers q n (execIdent l body s) := by
  unfold execIdent
  repeat' first
    | with_reducible assumption
    | with_reducible intro _
    | with_reducible apply keeps_parts
    | with_reducible apply incReg_keeps
    | with_reducible apply takeIdent_keeps
    | with_reducible apply answers_next
    | with_reducible apply answers_fault
    | with_reducible apply answers_refused
    | with_reducible apply ite_answers
    | with_reducible apply ite_keeps
    | with_reducible apply foldl_keeps
    | with_reducible apply foldl_pair_keeps
    | split
    | rw [keeps_mk_iff]
    | dsimp only

theorem execIdentSendTick_keeps (l : Nat) (s : State) (h : Keeps q n s) :
    Answers q n (execIdentSendTick l s) := by
  unfold execIdentSendTick
  repeat' first
    | with_reducible assumption
    | with_reducible intro _
    | with_reducible apply keeps_parts
    | with_reducible apply advanceTo_keeps
    | with_reducible apply modLink_keeps
    | with_reducible apply sendBlock_keeps
    | with_reducible apply answers_next
    | with_reducible apply answers_fault
    | with_reducible apply answers_refused
    | with_reducible apply ite_answers
    | with_reducible apply ite_keeps
    | with_reducible apply foldl_keeps
    | with_reducible apply foldl_pair_keeps
    | split
    | rw [keeps_mk_iff]
    | dsimp only

theorem execCredit_keeps (l : Nat) (x1 : Nat) (counts : List Nat) (s : State) (h : Keeps q n s) :
    Answers q n (execCredit l x1 counts s) := by
  unfold execCredit
  repeat' first
    | with_reducible assumption
    | with_reducible intro _
    | with_reducible apply keeps_parts
    | with_reducible apply takeCounts_keeps
    | with_reducible apply activate_keeps
    | with_reducible apply answers_next
    | with_reducible apply answers_fault
    | with_reducible apply answers_refused
    | with_reducible apply ite_answers
    | with_reducible apply ite_keeps
    | with_reducible apply foldl_keeps
    | with_reducible apply foldl_pair_keeps
    | split
    | rw [keeps_mk_iff]
    | dsimp only

theorem execTrainingStepTimeout_keeps (l : Nat) (s : State) (h : Keeps q n s) :
    Answers q n (execTrainingStepTimeout l s) := by
  unfold execTrainingStepTimeout
  repeat' first
    | with_reducible assumption
    | with_reducible intro _
    | with_reducible apply keeps_parts
    | with_reducible apply advanceTo_keeps
    | with_reducible apply failAttempt_keeps
    | with_reducible apply trainLanes_keeps
    | with_reducible apply answers_next
    | with_reducible apply answers_fault
    | with_reducible apply answers_refused
    | with_reducible apply ite_answers
    | with_reducible apply ite_keeps
    | with_reducible apply foldl_keeps
    | with_reducible apply foldl_pair_keeps
    | split
    | rw [keeps_mk_iff]
    | dsimp only

theorem restart_keeps (l : Nat) (s : State) (h : Keeps q n s) :
    Keeps q n (restart l s) := by
  unfold restart
  repeat' first
    | with_reducible assumption
    | with_reducible intro _
    | with_reducible apply keeps_parts
    | with_reducible apply powerUp_keeps
    | with_reducible apply advanceTo_keeps
    | with_reducible apply ite_keeps
    | with_reducible apply foldl_keeps
    | with_reducible apply foldl_pair_keeps
    | split
    | rw [keeps_mk_iff]
    | dsimp only

theorem execTrainingRestart_keeps (l : Nat) (s : State) (h : Keeps q n s) :
    Answers q n (execTrainingRestart l s) := by
  unfold execTrainingRestart
  repeat' first
    | with_reducible assumption
    | with_reducible intro _
    | with_reducible apply keeps_parts
    | with_reducible apply restart_keeps
    | with_reducible apply answers_next
    | with_reducible apply answers_fault
    | with_reducible apply answers_refused
    | with_reducible apply ite_answers
    | with_reducible apply ite_keeps
    | with_reducible apply foldl_keeps
    | with_reducible apply foldl_pair_keeps
    | split
    | rw [keeps_mk_iff]
    | dsimp only

theorem execLostLockRetrain_keeps (l : Nat) (s : State) (h : Keeps q n s) :
    Answers q n (execLostLockRetrain l s) := by
  unfold execLostLockRetrain
  repeat' first
    | with_reducible assumption
    | with_reducible intro _
    | with_reducible apply keeps_parts
    | with_reducible apply restart_keeps
    | with_reducible apply answers_next
    | with_reducible apply answers_fault
    | with_reducible apply answers_refused
    | with_reducible apply ite_answers
    | with_reducible apply ite_keeps
    | with_reducible apply foldl_keeps
    | with_reducible apply foldl_pair_keeps
    | split
    | rw [keeps_mk_iff]
    | dsimp only

theorem dropTimeSet_keeps (l : Nat) (s : State) (h : Keeps q n s) :
    Keeps q n (dropTimeSet l s) := by
  unfold dropTimeSet
  repeat' first
    | with_reducible assumption
    | with_reducible intro _
    | with_reducible apply keeps_parts
    | with_reducible apply finish_keeps
    | with_reducible apply ite_keeps
    | with_reducible apply foldl_keeps
    | with_reducible apply foldl_pair_keeps
    | split
    | rw [keeps_mk_iff]
    | dsimp only

theorem dropSwaps_keeps (l : Nat) (s : State) (h : Keeps q n s) :
    Keeps q n (dropSwaps l s) := by
  unfold dropSwaps
  repeat' first
    | with_reducible assumption
    | with_reducible intro _
    | with_reducible apply keeps_parts
    | with_reducible apply finishOpt_keeps
    | with_reducible apply modLink_keeps
    | with_reducible apply ite_keeps
    | with_reducible apply foldl_keeps
    | with_reducible apply foldl_pair_keeps
    | split
    | rw [keeps_mk_iff]
    | dsimp only

theorem leaveLink_keeps (l : Nat) (s : State) (h : Keeps q n s) :
    Keeps q n (leaveLink l s) := by
  unfold leaveLink
  repeat' first
    | with_reducible assumption
    | with_reducible intro _
    | with_reducible apply keeps_parts
    | with_reducible apply setReg_keeps
    | with_reducible apply setLinkState_keeps
    | with_reducible apply modLink_keeps
    | with_reducible apply dropTimeSet_keeps
    | with_reducible apply dropSwaps_keeps
    | with_reducible apply linkGone_keeps
    | with_reducible apply discardPort_keeps
    | with_reducible apply ite_keeps
    | with_reducible apply foldl_keeps
    | with_reducible apply foldl_pair_keeps
    | split
    | rw [keeps_mk_iff]
    | dsimp only

theorem loseLink_keeps (l : Nat) (cause : Nat) (s : State) (h : Keeps q n s) :
    Keeps q n (loseLink l cause s) := by
  unfold loseLink
  repeat' first
    | with_reducible assumption
    | with_reducible intro _
    | with_reducible apply keeps_parts
    | with_reducible apply markFlag_keeps
    | with_reducible apply logEvent_keeps
    | with_reducible apply setReg_keeps
    | with_reducible apply leaveLink_keeps
    | with_reducible apply modLink_keeps
    | with_reducible apply ite_keeps
    | with_reducible apply foldl_keeps
    | with_reducible apply foldl_pair_keeps
    | split
    | rw [keeps_mk_iff]
    | dsimp only

theorem execLinkLost_keeps (l : Nat) (ck : Bool) (s : State) (h : Keeps q n s) :
    Answers q n (execLinkLost l ck s) := by
  unfold execLinkLost
  repeat' first
    | with_reducible assumption
    | with_reducible intro _
    | with_reducible apply keeps_parts
    | with_reducible apply loseLink_keeps
    | with_reducible apply failAttempt_keeps
    | with_reducible apply setLinkState_keeps
    | with_reducible apply answers_next
    | with_reducible apply answers_fault
    | with_reducible apply answers_refused
    | with_reducible apply ite_answers
    | with_reducible apply ite_keeps
    | with_reducible apply foldl_keeps
    | with_reducible apply foldl_pair_keeps
    | split
    | rw [keeps_mk_iff]
    | dsimp only

theorem execCreditTimeout_keeps (l : Nat) (s : State) (h : Keeps q n s) :
    Answers q n (execCreditTimeout l s) := by
  unfold execCreditTimeout
  repeat' first
    | with_reducible assumption
    | with_reducible intro _
    | with_reducible apply keeps_parts
    | with_reducible apply loseLink_keeps
    | with_reducible apply advanceTo_keeps
    | with_reducible apply answers_next
    | with_reducible apply answers_fault
    | with_reducible apply answers_refused
    | with_reducible apply ite_answers
    | with_reducible apply ite_keeps
    | with_reducible apply foldl_keeps
    | with_reducible apply foldl_pair_keeps
    | split
    | rw [keeps_mk_iff]
    | dsimp only

theorem execControlBlockDiscard_keeps (l : Nat) (body : List Byte) (s : State) (h : Keeps q n s) :
    Answers q n (execControlBlockDiscard l body s) := by
  unfold execControlBlockDiscard
  repeat' first
    | with_reducible assumption
    | with_reducible intro _
    | with_reducible apply keeps_parts
    | with_reducible apply onUnit_keeps
    | with_reducible apply incReg_keeps
    | with_reducible apply answers_next
    | with_reducible apply answers_fault
    | with_reducible apply answers_refused
    | with_reducible apply ite_answers
    | with_reducible apply ite_keeps
    | with_reducible apply foldl_keeps
    | with_reducible apply foldl_pair_keeps
    | split
    | rw [keeps_mk_iff]
    | dsimp only

theorem execBadColumn_keeps (l : Nat) (rd : Option Nat) (groups : List Nat) (s : State) (h : Keeps q n s) :
    Answers q n (execBadColumn l rd groups s) := by
  unfold execBadColumn
  repeat' first
    | with_reducible assumption
    | with_reducible intro _
    | with_reducible apply keeps_parts
    | with_reducible apply onUnit_keeps
    | with_reducible apply countViolations_keeps
    | with_reducible apply modLink_keeps
    | with_reducible apply answers_next
    | with_reducible apply answers_fault
    | with_reducible apply answers_refused
    | with_reducible apply ite_answers
    | with_reducible apply ite_keeps
    | with_reducible apply foldl_keeps
    | with_reducible apply foldl_pair_keeps
    | split
    | rw [keeps_mk_iff]
    | dsimp only

theorem sendSwapReq_keeps (l : Nat) (lane : Nat) (attempt : Nat) (cmd : Option CmdRef) (s : State) (h : Keeps q n s) :
    Keeps q n (sendSwapReq l lane attempt cmd s) := by
  unfold sendSwapReq
  repeat' first
    | with_reducible assumption
    | with_reducible intro _
    | with_reducible apply keeps_parts
    | with_reducible apply sendBlock_keeps
    | with_reducible apply useFree_keeps
    | with_reducible apply modLink_keeps
    | with_reducible apply ite_keeps
    | with_reducible apply foldl_keeps
    | with_reducible apply foldl_pair_keeps
    | split
    | rw [keeps_mk_iff]
    | dsimp only

theorem execCvThresholdSwapProposal_keeps (l : Nat) (lane : Nat) (s : State) (h : Keeps q n s) :
    Answers q n (execCvThresholdSwapProposal l lane s) := by
  unfold execCvThresholdSwapProposal
  repeat' first
    | with_reducible assumption
    | with_reducible intro _
    | with_reducible apply keeps_parts
    | with_reducible apply decided_keeps
    | with_reducible apply logEvent_keeps
    | with_reducible apply incReg_keeps
    | with_reducible apply sendSwapReq_keeps
    | with_reducible apply answers_next
    | with_reducible apply answers_fault
    | with_reducible apply answers_refused
    | with_reducible apply ite_answers
    | with_reducible apply ite_keeps
    | with_reducible apply foldl_keeps
    | with_reducible apply foldl_pair_keeps
    | split
    | rw [keeps_mk_iff]
    | dsimp only

theorem execSwapReq_keeps (l : Nat) (lane : Nat) (marker : Nat) (s : State) (h : Keeps q n s) :
    Answers q n (execSwapReq l lane marker s) := by
  unfold execSwapReq
  repeat' first
    | with_reducible assumption
    | with_reducible intro _
    | with_reducible apply keeps_parts
    | with_reducible apply sendBlock_keeps
    | with_reducible apply modLink_keeps
    | with_reducible apply answers_next
    | with_reducible apply answers_fault
    | with_reducible apply answers_refused
    | with_reducible apply ite_answers
    | with_reducible apply ite_keeps
    | with_reducible apply foldl_keeps
    | with_reducible apply foldl_pair_keeps
    | split
    | rw [keeps_mk_iff]
    | dsimp only

theorem execSwapAck_keeps (l : Nat) (lane : Nat) (marker : Nat) (s : State) (h : Keeps q n s) :
    Answers q n (execSwapAck l lane marker s) := by
  unfold execSwapAck
  repeat' first
    | with_reducible assumption
    | with_reducible intro _
    | with_reducible apply keeps_parts
    | with_reducible apply onUnit_keeps
    | with_reducible apply modLink_keeps
    | with_reducible apply answers_next
    | with_reducible apply answers_fault
    | with_reducible apply answers_refused
    | with_reducible apply ite_answers
    | with_reducible apply ite_keeps
    | with_reducible apply foldl_keeps
    | with_reducible apply foldl_pair_keeps
    | split
    | rw [keeps_mk_iff]
    | dsimp only

theorem logSwap_keeps (l : Nat) (dir : Nat) (j : SwapJob) (s : State) (h : Keeps q n s) :
    Keeps q n (logSwap l dir j s) := by
  unfold logSwap
  repeat' first
    | with_reducible assumption
    | with_reducible intro _
    | with_reducible apply keeps_parts
    | with_reducible apply markFlag_keeps
    | with_reducible apply incReg_keeps
    | with_reducible apply logEvent_keeps
    | with_reducible apply ite_keeps
    | with_reducible apply foldl_keeps
    | with_reducible apply foldl_pair_keeps
    | split
    | rw [keeps_mk_iff]
    | dsimp only

theorem toMarker_keeps (l : Nat) (at' : Nat) (x2 : Nat) (s : State) (h : Keeps q n s) :
    Keeps q n (toMarker l at' x2 s) := by
  unfold toMarker
  repeat' first
    | with_reducible assumption
    | with_reducible intro _
    | with_reducible apply keeps_parts
    | with_reducible apply advanceTo_keeps
    | with_reducible apply ite_keeps
    | with_reducible apply foldl_keeps
    | with_reducible apply foldl_pair_keeps
    | split
    | rw [keeps_mk_iff]
    | dsimp only

theorem execSwapMarkerReached_keeps (l : Nat) (tx : Bool) (straddles : Bool) (s : State) (h : Keeps q n s) :
    Answers q n (execSwapMarkerReached l tx straddles s) := by
  unfold execSwapMarkerReached
  repeat' first
    | with_reducible assumption
    | with_reducible intro _
    | with_reducible apply keeps_parts
    | with_reducible apply toMarker_keeps
    | with_reducible apply logSwap_keeps
    | with_reducible apply modLink_keeps
    | with_reducible apply setReg_keeps
    | with_reducible apply finishOpt_keeps
    | with_reducible apply sendSwapReq_keeps
    | with_reducible apply leaveLink_keeps
    | with_reducible apply powerUp_keeps
    | with_reducible apply answers_next
    | with_reducible apply answers_fault
    | with_reducible apply answers_refused
    | with_reducible apply ite_answers
    | with_reducible apply ite_keeps
    | with_reducible apply foldl_keeps
    | with_reducible apply foldl_pair_keeps
    | split
    | rw [keeps_mk_iff]
    | dsimp only

theorem timeStep_keeps (x0 : Nat) (s : State) (h : Keeps q n s) :
    Keeps q n (timeStep x0 s) := by
  unfold timeStep
  repeat' first
    | with_reducible assumption
    | with_reducible intro _
    | with_reducible apply keeps_parts
    | with_reducible apply haltSchedule_keeps
    | with_reducible apply realignSchedule_keeps
    | with_reducible apply incReg_keeps
    | with_reducible apply logEvent_keeps
    | with_reducible apply ite_keeps
    | with_reducible apply foldl_keeps
    | with_reducible apply foldl_pair_keeps
    | split
    | rw [keeps_mk_iff]
    | dsimp only

theorem execStartOfFrame_keeps (l : Nat) (frameNo : Nat) (s : State) (h : Keeps q n s) :
    Answers q n (execStartOfFrame l frameNo s) := by
  unfold execStartOfFrame
  repeat' first
    | with_reducible assumption
    | with_reducible intro _
    | with_reducible apply keeps_parts
    | with_reducible apply countViolations_keeps
    | with_reducible apply finish_keeps
    | with_reducible apply timeStep_keeps
    | with_reducible apply setReg_keeps
    | with_reducible apply answers_next
    | with_reducible apply answers_fault
    | with_reducible apply answers_refused
    | with_reducible apply ite_answers
    | with_reducible apply ite_keeps
    | with_reducible apply foldl_keeps
    | with_reducible apply foldl_pair_keeps
    | split
    | rw [keeps_mk_iff]
    | dsimp only

theorem execStartOfFrameSend_keeps (l : Nat) (s : State) (h : Keeps q n s) :
    Answers q n (execStartOfFrameSend l s) := by
  unfold execStartOfFrameSend
  repeat' first
    | with_reducible assumption
    | with_reducible intro _
    | with_reducible apply keeps_parts
    | with_reducible apply advanceTo_keeps
    | with_reducible apply sendSof_keeps
    | with_reducible apply modLink_keeps
    | with_reducible apply answers_next
    | with_reducible apply answers_fault
    | with_reducible apply answers_refused
    | with_reducible apply ite_answers
    | with_reducible apply ite_keeps
    | with_reducible apply foldl_keeps
    | with_reducible apply foldl_pair_keeps
    | split
    | rw [keeps_mk_iff]
    | dsimp only

theorem linkCommand_keeps (m : CmdMeta) (op : Nat) (l : Nat) (x3 : CmdRef → State → State) (s : State) (hx3 : ∀ a0 a1, Keeps q n a1 → Keeps q n (x3 a0 a1)) (h : Keeps q n s) :
    Answers q n (linkCommand m op l x3 s) := by
  unfold linkCommand
  repeat' first
    | with_reducible assumption
    | with_reducible intro _
    | with_reducible apply keeps_parts
    | with_reducible apply hx3
    | with_reducible apply command_keeps
    | with_reducible apply requires_keeps
    | with_reducible apply answers_next
    | with_reducible apply answers_fault
    | with_reducible apply answers_refused
    | with_reducible apply ite_answers
    | with_reducible apply ite_keeps
    | with_reducible apply foldl_keeps
    | with_reducible apply foldl_pair_keeps
    | split
    | rw [keeps_mk_iff]
    | dsimp only

theorem execLinkStatus_keeps (m : CmdMeta) (l : Nat) (s : State) (h : Keeps q n s) :
    Answers q n (execLinkStatus m l s) := by
  unfold execLinkStatus
  repeat' first
    | with_reducible assumption
    | with_reducible intro _
    | with_reducible apply keeps_parts
    | with_reducible apply linkCommand_keeps
    | with_reducible apply answer_keeps
    | with_reducible apply answers_next
    | with_reducible apply answers_fault
    | with_reducible apply answers_refused
    | with_reducible apply ite_answers
    | with_reducible apply ite_keeps
    | with_reducible apply foldl_keeps
    | with_reducible apply foldl_pair_keeps
    | split
    | rw [keeps_mk_iff]
    | dsimp only

theorem configLink_keeps (l : Nat) (rate : Nat) (ceiling : Nat) (cvThresh : Nat) (enable : Nat) (clearSwap : Nat) (s : State) (h : Keeps q n s) :
    Keeps q n (configLink l rate ceiling cvThresh enable clearSwap s) := by
  unfold configLink
  repeat' first
    | with_reducible assumption
    | with_reducible intro _
    | with_reducible apply keeps_parts
    | with_reducible apply setReg_keeps
    | with_reducible apply modLink_keeps
    | with_reducible apply powerUp_keeps
    | with_reducible apply ite_keeps
    | with_reducible apply foldl_keeps
    | with_reducible apply foldl_pair_keeps
    | split
    | rw [keeps_mk_iff]
    | dsimp only

theorem execLinkConfig_keeps (m : CmdMeta) (l : Nat) (rate : Nat) (ceiling : Nat) (cvThresh : Nat) (enable : Nat) (clearSwap : Nat) (s : State) (h : Keeps q n s) :
    Answers q n (execLinkConfig m l rate ceiling cvThresh enable clearSwap s) := by
  unfold execLinkConfig
  repeat' first
    | with_reducible assumption
    | with_reducible intro _
    | with_reducible apply keeps_parts
    | with_reducible apply linkCommand_keeps
    | with_reducible apply requires_keeps
    | with_reducible apply done_keeps
    | with_reducible apply configLink_keeps
    | with_reducible apply answers_next
    | with_reducible apply answers_fault
    | with_reducible apply answers_refused
    | with_reducible apply ite_answers
    | with_reducible apply ite_keeps
    | with_reducible apply foldl_keeps
    | with_reducible apply foldl_pair_keeps
    | split
    | rw [keeps_mk_iff]
    | dsimp only

theorem retrainLink_keeps (l : Nat) (c : CmdRef) (s : State) (h : Keeps q n s) :
    Keeps q n (retrainLink l c s) := by
  unfold retrainLink
  repeat' first
    | with_reducible assumption
    | with_reducible intro _
    | with_reducible apply keeps_parts
    | with_reducible apply leaveLink_keeps
    | with_reducible apply powerUp_keeps
    | with_reducible apply modLink_keeps
    | with_reducible apply ite_keeps
    | with_reducible apply foldl_keeps
    | with_reducible apply foldl_pair_keeps
    | split
    | rw [keeps_mk_iff]
    | dsimp only

theorem execLinkRetrain_keeps (m : CmdMeta) (l : Nat) (s : State) (h : Keeps q n s) :
    Answers q n (execLinkRetrain m l s) := by
  unfold execLinkRetrain
  repeat' first
    | with_reducible assumption
    | with_reducible intro _
    | with_reducible apply keeps_parts
    | with_reducible apply linkCommand_keeps
    | with_reducible apply refuse_keeps
    | with_reducible apply accept_keeps
    | with_reducible apply retrainLink_keeps
    | with_reducible apply answers_next
    | with_reducible apply answers_fault
    | with_reducible apply answers_refused
    | with_reducible apply ite_answers
    | with_reducible apply ite_keeps
    | with_reducible apply foldl_keeps
    | with_reducible apply foldl_pair_keeps
    | split
    | rw [keeps_mk_iff]
    | dsimp only

theorem dropLink_keeps (l : Nat) (c : CmdRef) (s : State) (h : Keeps q n s) :
    Keeps q n (dropLink l c s) := by
  unfold dropLink
  repeat' first
    | with_reducible assumption
    | with_reducible intro _
    | with_reducible apply keeps_parts
    | with_reducible apply leaveLink_keeps
    | with_reducible apply finish_keeps
    | with_reducible apply answerRetrain_keeps
    | with_reducible apply powerDown_keeps
    | with_reducible apply ite_keeps
    | with_reducible apply foldl_keeps
    | with_reducible apply foldl_pair_keeps
    | split
    | rw [keeps_mk_iff]
    | dsimp only

theorem execLinkDown_keeps (m : CmdMeta) (l : Nat) (force : Nat) (s : State) (h : Keeps q n s) :
    Answers q n (execLinkDown m l force s) := by
  unfold execLinkDown
  repeat' first
    | with_reducible assumption
    | with_reducible intro _
    | with_reducible apply keeps_parts
    | with_reducible apply linkCommand_keeps
    | with_reducible apply refuse_keeps
    | with_reducible apply accept_keeps
    | with_reducible apply dropLink_keeps
    | with_reducible apply startChange_keeps
    | with_reducible apply answers_next
    | with_reducible apply answers_fault
    | with_reducible apply answers_refused
    | with_reducible apply ite_answers
    | with_reducible apply ite_keeps
    | with_reducible apply foldl_keeps
    | with_reducible apply foldl_pair_keeps
    | split
    | rw [keeps_mk_iff]
    | dsimp only

theorem execLinkLaneSwap_keeps (m : CmdMeta) (l : Nat) (lane : Nat) (s : State) (h : Keeps q n s) :
    Answers q n (execLinkLaneSwap m l lane s) := by
  unfold execLinkLaneSwap
  repeat' first
    | with_reducible assumption
    | with_reducible intro _
    | with_reducible apply keeps_parts
    | with_reducible apply linkCommand_keeps
    | with_reducible apply refuse_keeps
    | with_reducible apply accept_keeps
    | with_reducible apply sendSwapReq_keeps
    | with_reducible apply answers_next
    | with_reducible apply answers_fault
    | with_reducible apply answers_refused
    | with_reducible apply ite_answers
    | with_reducible apply ite_keeps
    | with_reducible apply foldl_keeps
    | with_reducible apply foldl_pair_keeps
    | split
    | rw [keeps_mk_iff]
    | dsimp only

theorem execLinkEqRead_keeps (m : CmdMeta) (l : Nat) (lane : Nat) (rate : Nat) (s : State) (h : Keeps q n s) :
    Answers q n (execLinkEqRead m l lane rate s) := by
  unfold execLinkEqRead
  repeat' first
    | with_reducible assumption
    | with_reducible intro _
    | with_reducible apply keeps_parts
    | with_reducible apply linkCommand_keeps
    | with_reducible apply requires_keeps
    | with_reducible apply answer_keeps
    | with_reducible apply answers_next
    | with_reducible apply answers_fault
    | with_reducible apply answers_refused
    | with_reducible apply ite_answers
    | with_reducible apply ite_keeps
    | with_reducible apply foldl_keeps
    | with_reducible apply foldl_pair_keeps
    | split
    | rw [keeps_mk_iff]
    | dsimp only

theorem execLinkEqSet_keeps (m : CmdMeta) (l : Nat) (lane : Nat) (rate : Nat) (entry : Nat) (s : State) (h : Keeps q n s) :
    Answers q n (execLinkEqSet m l lane rate entry s) := by
  unfold execLinkEqSet
  repeat' first
    | with_reducible assumption
    | with_reducible intro _
    | with_reducible apply keeps_parts
    | with_reducible apply linkCommand_keeps
    | with_reducible apply requires_keeps
    | with_reducible apply done_keeps
    | with_reducible apply answers_next
    | with_reducible apply answers_fault
    | with_reducible apply answers_refused
    | with_reducible apply ite_answers
    | with_reducible apply ite_keeps
    | with_reducible apply foldl_keeps
    | with_reducible apply foldl_pair_keeps
    | split
    | rw [keeps_mk_iff]
    | dsimp only

theorem execLinkNeighbour_keeps (m : CmdMeta) (l : Nat) (s : State) (h : Keeps q n s) :
    Answers q n (execLinkNeighbour m l s) := by
  unfold execLinkNeighbour
  repeat' first
    | with_reducible assumption
    | with_reducible intro _
    | with_reducible apply keeps_parts
    | with_reducible apply linkCommand_keeps
    | with_reducible apply answer_keeps
    | with_reducible apply answers_next
    | with_reducible apply answers_fault
    | with_reducible apply answers_refused
    | with_reducible apply ite_answers
    | with_reducible apply ite_keeps
    | with_reducible apply foldl_keeps
    | with_reducible apply foldl_pair_keeps
    | split
    | rw [keeps_mk_iff]
    | dsimp only

theorem execLinkStats_keeps (m : CmdMeta) (l : Nat) (s : State) (h : Keeps q n s) :
    Answers q n (execLinkStats m l s) := by
  unfold execLinkStats
  repeat' first
    | with_reducible assumption
    | with_reducible intro _
    | with_reducible apply keeps_parts
    | with_reducible apply linkCommand_keeps
    | with_reducible apply answer_keeps
    | with_reducible apply answers_next
    | with_reducible apply answers_fault
    | with_reducible apply answers_refused
    | with_reducible apply ite_answers
    | with_reducible apply ite_keeps
    | with_reducible apply foldl_keeps
    | with_reducible apply foldl_pair_keeps
    | split
    | rw [keeps_mk_iff]
    | dsimp only

theorem openLink_keeps (l : Nat) (c : CmdRef) (s : State) (h : Keeps q n s) :
    Keeps q n (openLink l c s) := by
  unfold openLink
  repeat' first
    | with_reducible assumption
    | with_reducible intro _
    | with_reducible apply keeps_parts
    | with_reducible apply modLink_keeps
    | with_reducible apply startChange_keeps
    | with_reducible apply powerUp_keeps
    | with_reducible apply ite_keeps
    | with_reducible apply foldl_keeps
    | with_reducible apply foldl_pair_keeps
    | split
    | rw [keeps_mk_iff]
    | dsimp only

theorem execRouteLinkOpen_keeps (m : CmdMeta) (link' : Nat) (s : State) (h : Keeps q n s) :
    Answers q n (execRouteLinkOpen m link' s) := by
  unfold execRouteLinkOpen
  repeat' first
    | with_reducible assumption
    | with_reducible intro _
    | with_reducible apply keeps_parts
    | with_reducible apply command_keeps
    | with_reducible apply refuse_keeps
    | with_reducible apply accept_keeps
    | with_reducible apply openLink_keeps
    | with_reducible apply answers_next
    | with_reducible apply answers_fault
    | with_reducible apply answers_refused
    | with_reducible apply ite_answers
    | with_reducible apply ite_keeps
    | with_reducible apply foldl_keeps
    | with_reducible apply foldl_pair_keeps
    | split
    | rw [keeps_mk_iff]
    | dsimp only

end Sys2Proof.Machine
end

