-- ==== Sys2Proof/Laws/KeepFirmware.lean ====
section
/-! SUPPORT. What the operations of Machine/Firmware.lean keep: the queue, the clock and the canonical form of HBM and the registers. -/
namespace Sys2Proof.Machine

variable {q : List Instr} {n : Nat}

theorem modSlot_keeps (i : Nat) (f : Slot → Slot) (s : State) (h : Keeps q n s) :
    Keeps q n (modSlot i f s) := by
  unfold modSlot
  repeat' first
    | with_reducible assumption
    | with_reducible intro _
    | with_reducible apply keeps_parts
    | with_reducible apply ite_keeps
    | with_reducible apply foldl_keeps
    | with_reducible apply foldl_pair_keeps
    | split
    | rw [keeps_mk_iff]
    | dsimp only

theorem verifySlot_keeps (i : Nat) (s : State) (h : Keeps q n s) :
    Keeps q n (verifySlot i s).2 := by
  unfold verifySlot
  repeat' first
    | with_reducible assumption
    | with_reducible intro _
    | with_reducible apply keeps_parts
    | with_reducible apply logEvent_keeps
    | with_reducible apply setReg_keeps
    | with_reducible apply modSlot_keeps
    | with_reducible apply ite_keeps
    | with_reducible apply foldl_keeps
    | with_reducible apply foldl_pair_keeps
    | split
    | rw [keeps_mk_iff]
    | dsimp only

theorem verifySlot_keeps_eq {i : Nat} {s : State} {v : Option Nat} {t : State} (e : verifySlot i s = (v, t)) (h : Keeps q n s) : Keeps q n t := by
  have h := verifySlot_keeps i s h (q := q) (n := n)
  rw [e] at h; exact h

theorem writeDir_keeps (slot : Nat) (s : State) (h : Keeps q n s) :
    Keeps q n (writeDir slot s) := by
  unfold writeDir
  repeat' first
    | with_reducible assumption
    | with_reducible intro _
    | with_reducible apply keeps_parts
    | with_reducible apply ite_keeps
    | with_reducible apply foldl_keeps
    | with_reducible apply foldl_pair_keeps
    | split
    | rw [keeps_mk_iff]
    | dsimp only

theorem startSlot_keeps (i : Nat) (s : State) (h : Keeps q n s) :
    Keeps q n (startSlot i s) := by
  unfold startSlot
  repeat' first
    | with_reducible assumption
    | with_reducible intro _
    | with_reducible apply keeps_parts
    | with_reducible apply setReg_keeps
    | with_reducible apply ite_keeps
    | with_reducible apply foldl_keeps
    | with_reducible apply foldl_pair_keeps
    | split
    | rw [keeps_mk_iff]
    | dsimp only

theorem enterRecovery_keeps (causeA : Nat) (causeB : Nat) (s : State) (h : Keeps q n s) :
    Keeps q n (enterRecovery causeA causeB s) := by
  unfold enterRecovery
  repeat' first
    | with_reducible assumption
    | with_reducible intro _
    | with_reducible apply keeps_parts
    | with_reducible apply setReg_keeps
    | with_reducible apply assertFault_keeps
    | with_reducible apply logEvent_keeps
    | with_reducible apply ite_keeps
    | with_reducible apply foldl_keeps
    | with_reducible apply foldl_pair_keeps
    | split
    | rw [keeps_mk_iff]
    | dsimp only

theorem bootRom_keeps (s : State) (h : Keeps q n s) :
    Keeps q n (bootRom s) := by
  unfold bootRom
  repeat' first
    | with_reducible assumption
    | with_reducible intro _
    | with_reducible apply keeps_parts
    | with_reducible apply verifySlot_keeps
    | with_reducible refine verifySlot_keeps_eq (by assumption) ?_
    | with_reducible apply writeDir_keeps
    | with_reducible apply startSlot_keeps
    | with_reducible apply setReg_keeps
    | with_reducible apply logEvent_keeps
    | with_reducible apply enterRecovery_keeps
    | with_reducible apply ite_keeps
    | with_reducible apply foldl_keeps
    | with_reducible apply foldl_pair_keeps
    | split
    | rw [keeps_mk_iff]
    | dsimp only

theorem execFwStatus_keeps (m : CmdMeta) (s : State) (h : Keeps q n s) :
    Answers q n (execFwStatus m s) := by
  unfold execFwStatus
  repeat' first
    | with_reducible assumption
    | with_reducible intro _
    | with_reducible apply keeps_parts
    | with_reducible apply command_keeps
    | with_reducible apply answer_keeps
    | with_reducible apply answers_next
    | with_reducible apply answers_fault
    | with_reducible apply answers_refused
    | with_reducible apply ite_answers
    | with_reducible apply ite_keeps
    | with_reducible apply foldl_keeps
    | with_reducible apply foldl_pair_keeps
    | split
    | rw [keeps_mk_iff]
    | dsimp only

theorem execFwWrite_keeps (m : CmdMeta) (slot : Nat) (offset : Nat) (data : List Byte) (s : State) (h : Keeps q n s) :
    Answers q n (execFwWrite m slot offset data s) := by
  unfold execFwWrite
  repeat' first
    | with_reducible assumption
    | with_reducible intro _
    | with_reducible apply keeps_parts
    | with_reducible apply command_keeps
    | with_reducible apply refuse_keeps
    | with_reducible apply done_keeps
    | with_reducible apply modSlot_keeps
    | with_reducible apply answers_next
    | with_reducible apply answers_fault
    | with_reducible apply answers_refused
    | with_reducible apply ite_answers
    | with_reducible apply ite_keeps
    | with_reducible apply foldl_keeps
    | with_reducible apply foldl_pair_keeps
    | split
    | rw [keeps_mk_iff]
    | dsimp only

theorem execFwSwitch_keeps (m : CmdMeta) (slot : Nat) (s : State) (h : Keeps q n s) :
    Answers q n (execFwSwitch m slot s) := by
  unfold execFwSwitch
  repeat' first
    | with_reducible assumption
    | with_reducible intro _
    | with_reducible apply keeps_parts
    | with_reducible apply command_keeps
    | with_reducible apply refuse_keeps
    | with_reducible apply accept_keeps
    | with_reducible apply setReg_keeps
    | with_reducible apply answers_next
    | with_reducible apply answers_fault
    | with_reducible apply answers_refused
    | with_reducible apply ite_answers
    | with_reducible apply ite_keeps
    | with_reducible apply foldl_keeps
    | with_reducible apply foldl_pair_keeps
    | split
    | rw [keeps_mk_iff]
    | dsimp only

theorem endSwitch_keeps (s : State) (h : Keeps q n s) :
    Keeps q n (endSwitch s) := by
  unfold endSwitch
  repeat' first
    | with_reducible assumption
    | with_reducible intro _
    | with_reducible apply keeps_parts
    | with_reducible apply setReg_keeps
    | with_reducible apply finish_keeps
    | with_reducible apply ite_keeps
    | with_reducible apply foldl_keeps
    | with_reducible apply foldl_pair_keeps
    | split
    | rw [keeps_mk_iff]
    | dsimp only

theorem execFwSwitchStandbyLoaded_keeps (ok : Bool) (s : State) (h : Keeps q n s) :
    Answers q n (execFwSwitchStandbyLoaded ok s) := by
  unfold execFwSwitchStandbyLoaded
  repeat' first
    | with_reducible assumption
    | with_reducible intro _
    | with_reducible apply keeps_parts
    | with_reducible apply verifySlot_keeps
    | with_reducible refine verifySlot_keeps_eq (by assumption) ?_
    | with_reducible apply endSwitch_keeps
    | with_reducible apply answers_next
    | with_reducible apply answers_fault
    | with_reducible apply answers_refused
    | with_reducible apply ite_answers
    | with_reducible apply ite_keeps
    | with_reducible apply foldl_keeps
    | with_reducible apply foldl_pair_keeps
    | split
    | rw [keeps_mk_iff]
    | dsimp only

theorem execFwSwitchHandover_keeps (s : State) (h : Keeps q n s) :
    Answers q n (execFwSwitchHandover s) := by
  unfold execFwSwitchHandover
  repeat' first
    | with_reducible assumption
    | with_reducible intro _
    | with_reducible apply keeps_parts
    | with_reducible apply setReg_keeps
    | with_reducible apply markFlag_keeps
    | with_reducible apply logEvent_keeps
    | with_reducible apply finish_keeps
    | with_reducible apply answers_next
    | with_reducible apply answers_fault
    | with_reducible apply answers_refused
    | with_reducible apply ite_answers
    | with_reducible apply ite_keeps
    | with_reducible apply foldl_keeps
    | with_reducible apply foldl_pair_keeps
    | split
    | rw [keeps_mk_iff]
    | dsimp only

theorem execFwSwitchDirectoryDone_keeps (s : State) (h : Keeps q n s) :
    Answers q n (execFwSwitchDirectoryDone s) := by
  unfold execFwSwitchDirectoryDone
  repeat' first
    | with_reducible assumption
    | with_reducible intro _
    | with_reducible apply keeps_parts
    | with_reducible apply writeDir_keeps
    | with_reducible apply incReg_keeps
    | with_reducible apply setReg_keeps
    | with_reducible apply answers_next
    | with_reducible apply answers_fault
    | with_reducible apply answers_refused
    | with_reducible apply ite_answers
    | with_reducible apply ite_keeps
    | with_reducible apply foldl_keeps
    | with_reducible apply foldl_pair_keeps
    | split
    | rw [keeps_mk_iff]
    | dsimp only

theorem execFwSwitchStepTimeout_keeps (s : State) (h : Keeps q n s) :
    Answers q n (execFwSwitchStepTimeout s) := by
  unfold execFwSwitchStepTimeout
  repeat' first
    | with_reducible assumption
    | with_reducible intro _
    | with_reducible apply keeps_parts
    | with_reducible apply endSwitch_keeps
    | with_reducible apply advanceTo_keeps
    | with_reducible apply answers_next
    | with_reducible apply answers_fault
    | with_reducible apply answers_refused
    | with_reducible apply ite_answers
    | with_reducible apply ite_keeps
    | with_reducible apply foldl_keeps
    | with_reducible apply foldl_pair_keeps
    | split
    | rw [keeps_mk_iff]
    | dsimp only

theorem freeQueue_keeps (c : CmdRef) (s : State) (h : Keeps q n s) :
    Keeps q n (freeQueue c s) := by
  unfold freeQueue
  repeat' first
    | with_reducible assumption
    | with_reducible intro _
    | with_reducible apply keeps_parts
    | with_reducible apply ite_keeps
    | with_reducible apply foldl_keeps
    | with_reducible apply foldl_pair_keeps
    | split
    | rw [keeps_mk_iff]
    | dsimp only

theorem holdQueue_keeps (x0 : Nat) (c : CmdRef) (s : State) (h : Keeps q n s) :
    Keeps q n (holdQueue x0 c s) := by
  unfold holdQueue
  repeat' first
    | with_reducible assumption
    | with_reducible intro _
    | with_reducible apply keeps_parts
    | with_reducible apply ite_keeps
    | with_reducible apply foldl_keeps
    | with_reducible apply foldl_pair_keeps
    | split
    | rw [keeps_mk_iff]
    | dsimp only

theorem askSignature_keeps (x : SignFor) (x1 : Nat) (c : CmdRef) (s : State) (h : Keeps q n s) :
    Keeps q n (askSignature x x1 c s) := by
  unfold askSignature
  repeat' first
    | with_reducible assumption
    | with_reducible intro _
    | with_reducible apply keeps_parts
    | with_reducible apply holdQueue_keeps
    | with_reducible apply refuse_keeps
    | with_reducible apply incReg_keeps
    | with_reducible apply ite_keeps
    | with_reducible apply foldl_keeps
    | with_reducible apply foldl_pair_keeps
    | split
    | rw [keeps_mk_iff]
    | dsimp only

theorem execSecAttest_keeps (m : CmdMeta) (nonce : List Byte) (s : State) (h : Keeps q n s) :
    Answers q n (execSecAttest m nonce s) := by
  unfold execSecAttest
  repeat' first
    | with_reducible assumption
    | with_reducible intro _
    | with_reducible apply keeps_parts
    | with_reducible apply command_keeps
    | with_reducible apply refuse_keeps
    | with_reducible apply askSignature_keeps
    | with_reducible apply answers_next
    | with_reducible apply answers_fault
    | with_reducible apply answers_refused
    | with_reducible apply ite_answers
    | with_reducible apply ite_keeps
    | with_reducible apply foldl_keeps
    | with_reducible apply foldl_pair_keeps
    | split
    | rw [keeps_mk_iff]
    | dsimp only

theorem execSignatureDone_keeps (s : State) (h : Keeps q n s) :
    Answers q n (execSignatureDone s) := by
  unfold execSignatureDone
  repeat' first
    | with_reducible assumption
    | with_reducible intro _
    | with_reducible apply keeps_parts
    | with_reducible apply incReg_keeps
    | with_reducible apply answer_keeps
    | with_reducible apply freeQueue_keeps
    | with_reducible apply finish_keeps
    | with_reducible apply answers_next
    | with_reducible apply answers_fault
    | with_reducible apply answers_refused
    | with_reducible apply ite_answers
    | with_reducible apply ite_keeps
    | with_reducible apply foldl_keeps
    | with_reducible apply foldl_pair_keeps
    | split
    | rw [keeps_mk_iff]
    | dsimp only

theorem execSecRollbackCommit_keeps (m : CmdMeta) (x1 : Nat) (s : State) (h : Keeps q n s) :
    Answers q n (execSecRollbackCommit m x1 s) := by
  unfold execSecRollbackCommit
  repeat' first
    | with_reducible assumption
    | with_reducible intro _
    | with_reducible apply keeps_parts
    | with_reducible apply command_keeps
    | with_reducible apply refuse_keeps
    | with_reducible apply holdQueue_keeps
    | with_reducible apply answers_next
    | with_reducible apply answers_fault
    | with_reducible apply answers_refused
    | with_reducible apply ite_answers
    | with_reducible apply ite_keeps
    | with_reducible apply foldl_keeps
    | with_reducible apply foldl_pair_keeps
    | split
    | rw [keeps_mk_iff]
    | dsimp only

theorem execRollbackFuseBlown_keeps (ok : Bool) (s : State) (h : Keeps q n s) :
    Answers q n (execRollbackFuseBlown ok s) := by
  unfold execRollbackFuseBlown
  repeat' first
    | with_reducible assumption
    | with_reducible intro _
    | with_reducible apply keeps_parts
    | with_reducible apply freeQueue_keeps
    | with_reducible apply answer_keeps
    | with_reducible apply logEvent_keeps
    | with_reducible apply answers_next
    | with_reducible apply answers_fault
    | with_reducible apply answers_refused
    | with_reducible apply ite_answers
    | with_reducible apply ite_keeps
    | with_reducible apply foldl_keeps
    | with_reducible apply foldl_pair_keeps
    | split
    | rw [keeps_mk_iff]
    | dsimp only

theorem execSecStatus_keeps (m : CmdMeta) (s : State) (h : Keeps q n s) :
    Answers q n (execSecStatus m s) := by
  unfold execSecStatus
  repeat' first
    | with_reducible assumption
    | with_reducible intro _
    | with_reducible apply keeps_parts
    | with_reducible apply command_keeps
    | with_reducible apply answer_keeps
    | with_reducible apply answers_next
    | with_reducible apply answers_fault
    | with_reducible apply answers_refused
    | with_reducible apply ite_answers
    | with_reducible apply ite_keeps
    | with_reducible apply foldl_keeps
    | with_reducible apply foldl_pair_keeps
    | split
    | rw [keeps_mk_iff]
    | dsimp only

theorem execSecIdentityRead_keeps (m : CmdMeta) (s : State) (h : Keeps q n s) :
    Answers q n (execSecIdentityRead m s) := by
  unfold execSecIdentityRead
  repeat' first
    | with_reducible assumption
    | with_reducible intro _
    | with_reducible apply keeps_parts
    | with_reducible apply command_keeps
    | with_reducible apply answer_keeps
    | with_reducible apply answers_next
    | with_reducible apply answers_fault
    | with_reducible apply answers_refused
    | with_reducible apply ite_answers
    | with_reducible apply ite_keeps
    | with_reducible apply foldl_keeps
    | with_reducible apply foldl_pair_keeps
    | split
    | rw [keeps_mk_iff]
    | dsimp only

theorem execSecRootRead_keeps (m : CmdMeta) (s : State) (h : Keeps q n s) :
    Answers q n (execSecRootRead m s) := by
  unfold execSecRootRead
  repeat' first
    | with_reducible assumption
    | with_reducible intro _
    | with_reducible apply keeps_parts
    | with_reducible apply command_keeps
    | with_reducible apply answer_keeps
    | with_reducible apply answers_next
    | with_reducible apply answers_fault
    | with_reducible apply answers_refused
    | with_reducible apply ite_answers
    | with_reducible apply ite_keeps
    | with_reducible apply foldl_keeps
    | with_reducible apply foldl_pair_keeps
    | split
    | rw [keeps_mk_iff]
    | dsimp only

theorem execSecStats_keeps (m : CmdMeta) (s : State) (h : Keeps q n s) :
    Answers q n (execSecStats m s) := by
  unfold execSecStats
  repeat' first
    | with_reducible assumption
    | with_reducible intro _
    | with_reducible apply keeps_parts
    | with_reducible apply command_keeps
    | with_reducible apply answer_keeps
    | with_reducible apply answers_next
    | with_reducible apply answers_fault
    | with_reducible apply answers_refused
    | with_reducible apply ite_answers
    | with_reducible apply ite_keeps
    | with_reducible apply foldl_keeps
    | with_reducible apply foldl_pair_keeps
    | split
    | rw [keeps_mk_iff]
    | dsimp only

end Sys2Proof.Machine
end

