-- ==== Sys2Proof/Laws/KeepTundish.lean ====
section
/-! SUPPORT. What the operations of Machine/Tundish.lean keep: the queue, the clock and the canonical form of HBM and the registers. -/
namespace Sys2Proof.Machine

variable {q : List Instr} {n : Nat}

theorem execTundishRingTransfer_keeps (half' : Nat) (s : State) (h : Keeps q n s) :
    Answers q n (execTundishRingTransfer half' s) := by
  unfold execTundishRingTransfer
  repeat' first
    | with_reducible assumption
    | with_reducible intro _
    | with_reducible apply keeps_parts
    | with_reducible apply onUnit_keeps
    | with_reducible apply incReg_keeps
    | with_reducible apply modHalf_keeps
    | with_reducible apply answers_next
    | with_reducible apply answers_fault
    | with_reducible apply answers_refused
    | with_reducible apply ite_answers
    | with_reducible apply ite_keeps
    | with_reducible apply foldl_keeps
    | with_reducible apply foldl_pair_keeps
    | split
    | rw [keeps_mk_iff]
    | dsimp only

theorem mapOutBank_keeps (d : Nat) (b : Nat) (s : State) (h : Keeps q n s) :
    Keeps q n (mapOutBank d b s) := by
  unfold mapOutBank
  repeat' first
    | with_reducible assumption
    | with_reducible intro _
    | with_reducible apply keeps_parts
    | with_reducible apply modHalf_keeps
    | with_reducible apply logEvent_keeps
    | with_reducible apply setReg_keeps
    | with_reducible apply ite_keeps
    | with_reducible apply foldl_keeps
    | with_reducible apply foldl_pair_keeps
    | split
    | rw [keeps_mk_iff]
    | dsimp only

theorem startBankSwap_keeps (d : Nat) (b : Nat) (cmd : Option CmdRef) (s : State) (h : Keeps q n s) :
    Keeps q n (startBankSwap d b cmd s) := by
  unfold startBankSwap
  repeat' first
    | with_reducible assumption
    | with_reducible intro _
    | with_reducible apply keeps_parts
    | with_reducible apply modHalf_keeps
    | with_reducible apply ite_keeps
    | with_reducible apply foldl_keeps
    | with_reducible apply foldl_pair_keeps
    | split
    | rw [keeps_mk_iff]
    | dsimp only

theorem proposeBank_keeps (d : Nat) (b : Nat) (s : State) (h : Keeps q n s) :
    Keeps q n (proposeBank d b s) := by
  unfold proposeBank
  repeat' first
    | with_reducible assumption
    | with_reducible intro _
    | with_reducible apply keeps_parts
    | with_reducible apply mapOutBank_keeps
    | with_reducible apply startBankSwap_keeps
    | with_reducible apply ite_keeps
    | with_reducible apply foldl_keeps
    | with_reducible apply foldl_pair_keeps
    | split
    | rw [keeps_mk_iff]
    | dsimp only

theorem damageCells_keeps (d : Nat) (ptrs : List Nat) (s : State) (h : Keeps q n s) :
    Keeps q n (damageCells d ptrs s) := by
  unfold damageCells
  repeat' first
    | with_reducible assumption
    | with_reducible intro _
    | with_reducible apply keeps_parts
    | with_reducible apply resendMarked_keeps
    | with_reducible apply damageHold_keeps
    | with_reducible apply ite_keeps
    | with_reducible apply foldl_keeps
    | with_reducible apply foldl_pair_keeps
    | split
    | rw [keeps_mk_iff]
    | dsimp only

theorem execBankSwapCopyDone_keeps (half' : Nat) (lost : List Nat) (s : State) (h : Keeps q n s) :
    Answers q n (execBankSwapCopyDone half' lost s) := by
  unfold execBankSwapCopyDone
  repeat' first
    | with_reducible assumption
    | with_reducible intro _
    | with_reducible apply keeps_parts
    | with_reducible apply onUnit_keeps
    | with_reducible apply logEvent_keeps
    | with_reducible apply damageCells_keeps
    | with_reducible apply addReg_keeps
    | with_reducible apply modHalf_keeps
    | with_reducible apply setReg_keeps
    | with_reducible apply markFlag_keeps
    | with_reducible apply incReg_keeps
    | with_reducible apply addHistory_keeps
    | with_reducible apply finishOpt_keeps
    | with_reducible apply answers_next
    | with_reducible apply answers_fault
    | with_reducible apply answers_refused
    | with_reducible apply ite_answers
    | with_reducible apply ite_keeps
    | with_reducible apply foldl_keeps
    | with_reducible apply foldl_pair_keeps
    | split
    | rw [keeps_mk_iff]
    | dsimp only

theorem execTundishStatus_keeps (m : CmdMeta) (half' : Nat) (s : State) (h : Keeps q n s) :
    Answers q n (execTundishStatus m half' s) := by
  unfold execTundishStatus
  repeat' first
    | with_reducible assumption
    | with_reducible intro _
    | with_reducible apply keeps_parts
    | with_reducible apply command_keeps
    | with_reducible apply requires_keeps
    | with_reducible apply answer_keeps
    | with_reducible apply answers_next
    | with_reducible apply answers_fault
    | with_reducible apply answers_refused
    | with_reducible apply ite_answers
    | with_reducible apply ite_keeps
    | with_reducible apply foldl_keeps
    | with_reducible apply foldl_pair_keeps
    | split
    | rw [keeps_mk_iff]
    | dsimp only

theorem execTundishThreshSet_keeps (m : CmdMeta) (port : Nat) (cls : Nat) (warn : Nat) (slow : Nat) (stop : Nat) (s : State) (h : Keeps q n s) :
    Answers q n (execTundishThreshSet m port cls warn slow stop s) := by
  unfold execTundishThreshSet
  repeat' first
    | with_reducible assumption
    | with_reducible intro _
    | with_reducible apply keeps_parts
    | with_reducible apply command_keeps
    | with_reducible apply requires_keeps
    | with_reducible apply done_keeps
    | with_reducible apply setReg_keeps
    | with_reducible apply answers_next
    | with_reducible apply answers_fault
    | with_reducible apply answers_refused
    | with_reducible apply ite_answers
    | with_reducible apply ite_keeps
    | with_reducible apply foldl_keeps
    | with_reducible apply foldl_pair_keeps
    | split
    | rw [keeps_mk_iff]
    | dsimp only

theorem execTundishPoolSet_keeps (m : CmdMeta) (half' : Nat) (warn : Nat) (slow : Nat) (stop : Nat) (reserve : Nat) (s : State) (h : Keeps q n s) :
    Answers q n (execTundishPoolSet m half' warn slow stop reserve s) := by
  unfold execTundishPoolSet
  repeat' first
    | with_reducible assumption
    | with_reducible intro _
    | with_reducible apply keeps_parts
    | with_reducible apply command_keeps
    | with_reducible apply refuse_keeps
    | with_reducible apply done_keeps
    | with_reducible apply setReg_keeps
    | with_reducible apply answers_next
    | with_reducible apply answers_fault
    | with_reducible apply answers_refused
    | with_reducible apply ite_answers
    | with_reducible apply ite_keeps
    | with_reducible apply foldl_keeps
    | with_reducible apply foldl_pair_keeps
    | split
    | rw [keeps_mk_iff]
    | dsimp only

theorem execTundishBankSwap_keeps (m : CmdMeta) (half' : Nat) (bank : Nat) (s : State) (h : Keeps q n s) :
    Answers q n (execTundishBankSwap m half' bank s) := by
  unfold execTundishBankSwap
  repeat' first
    | with_reducible assumption
    | with_reducible intro _
    | with_reducible apply keeps_parts
    | with_reducible apply command_keeps
    | with_reducible apply refuse_keeps
    | with_reducible apply accept_keeps
    | with_reducible apply startBankSwap_keeps
    | with_reducible apply answers_next
    | with_reducible apply answers_fault
    | with_reducible apply answers_refused
    | with_reducible apply ite_answers
    | with_reducible apply ite_keeps
    | with_reducible apply foldl_keeps
    | with_reducible apply foldl_pair_keeps
    | split
    | rw [keeps_mk_iff]
    | dsimp only

theorem execQueueAlloc_keeps (m : CmdMeta) (port : Nat) (cls : Nat) (heat : Nat) (s : State) (h : Keeps q n s) :
    Answers q n (execQueueAlloc m port cls heat s) := by
  unfold execQueueAlloc
  repeat' first
    | with_reducible assumption
    | with_reducible intro _
    | with_reducible apply keeps_parts
    | with_reducible apply command_keeps
    | with_reducible apply refuse_keeps
    | with_reducible apply incReg_keeps
    | with_reducible apply answer_keeps
    | with_reducible apply settleBindings_keeps
    | with_reducible apply putQueue_keeps
    | with_reducible apply answers_next
    | with_reducible apply answers_fault
    | with_reducible apply answers_refused
    | with_reducible apply ite_answers
    | with_reducible apply ite_keeps
    | with_reducible apply foldl_keeps
    | with_reducible apply foldl_pair_keeps
    | split
    | rw [keeps_mk_iff]
    | dsimp only

theorem execQueueFree_keeps (m : CmdMeta) (queue : Nat) (s : State) (h : Keeps q n s) :
    Answers q n (execQueueFree m queue s) := by
  unfold execQueueFree
  repeat' first
    | with_reducible assumption
    | with_reducible intro _
    | with_reducible apply keeps_parts
    | with_reducible apply command_keeps
    | with_reducible apply refuse_keeps
    | with_reducible apply delQueue_keeps
    | with_reducible apply putQueue_keeps
    | with_reducible apply done_keeps
    | with_reducible apply answers_next
    | with_reducible apply answers_fault
    | with_reducible apply answers_refused
    | with_reducible apply ite_answers
    | with_reducible apply ite_keeps
    | with_reducible apply foldl_keeps
    | with_reducible apply foldl_pair_keeps
    | split
    | rw [keeps_mk_iff]
    | dsimp only

theorem execQueueQuery_keeps (m : CmdMeta) (queue : Nat) (s : State) (h : Keeps q n s) :
    Answers q n (execQueueQuery m queue s) := by
  unfold execQueueQuery
  repeat' first
    | with_reducible assumption
    | with_reducible intro _
    | with_reducible apply keeps_parts
    | with_reducible apply command_keeps
    | with_reducible apply answer_keeps
    | with_reducible apply useFree_keeps
    | with_reducible apply refuse_keeps
    | with_reducible apply answers_next
    | with_reducible apply answers_fault
    | with_reducible apply answers_refused
    | with_reducible apply ite_answers
    | with_reducible apply ite_keeps
    | with_reducible apply foldl_keeps
    | with_reducible apply foldl_pair_keeps
    | split
    | rw [keeps_mk_iff]
    | dsimp only

theorem execTundishStats_keeps (m : CmdMeta) (s : State) (h : Keeps q n s) :
    Answers q n (execTundishStats m s) := by
  unfold execTundishStats
  repeat' first
    | with_reducible assumption
    | with_reducible intro _
    | with_reducible apply keeps_parts
    | with_reducible apply command_keeps
    | with_reducible apply answer_keeps
    | with_reducible apply answers_next
    | with_reducible apply answers_fault
    | with_reducible apply answers_refused
    | with_reducible apply ite_answers
    | with_reducible apply ite_keeps
    | with_reducible apply foldl_keeps
    | with_reducible apply foldl_pair_keeps
    | split
    | rw [keeps_mk_iff]
    | dsimp only

end Sys2Proof.Machine
end

