-- ==== Sys2Proof/Laws/KeepReset.lean ====
section
/-! SUPPORT. What the operations of Machine/Reset.lean keep: the queue, the clock and the canonical form of HBM and the registers. -/
namespace Sys2Proof.Machine

variable {q : List Instr} {n : Nat}

theorem logWork_keeps (s : State) (h : Keeps q n s) :
    Keeps q n (logWork s) := by
  unfold logWork
  repeat' first
    | with_reducible assumption
    | with_reducible intro _
    | with_reducible apply keeps_parts
    | with_reducible apply logEvent_keeps
    | with_reducible apply ite_keeps
    | with_reducible apply foldl_keeps
    | with_reducible apply foldl_pair_keeps
    | split
    | rw [keeps_mk_iff]
    | dsimp only

theorem cutRollback_keeps (s : State) (h : Keeps q n s) :
    Keeps q n (cutRollback s) := by
  unfold cutRollback
  repeat' first
    | with_reducible assumption
    | with_reducible intro _
    | with_reducible apply keeps_parts
    | with_reducible apply useFree_keeps
    | with_reducible apply ite_keeps
    | with_reducible apply foldl_keeps
    | with_reducible apply foldl_pair_keeps
    | split
    | rw [keeps_mk_iff]
    | dsimp only

theorem keepRegs_sorted (blocks : List Nat) (fs : List Fld) {t : Tab Nat} (h : tabSorted t = true) :
    tabSorted (keepRegs blocks fs t) = true := tabSorted_filter h _

theorem clearMain_keeps (s : State) (h : Keeps q n s) : Keeps q n (clearMain s) := by
  have h := cutRollback_keeps s h
  exact ⟨h.1, h.2.1, rfl, keepRegs_sorted _ _ h.2.2.2⟩

theorem enterReset_keeps (st : PowerState) (s : State) (h : Keeps q n s) :
    Keeps q n (enterReset st s) := by
  unfold enterReset
  repeat' first
    | with_reducible assumption
    | with_reducible intro _
    | with_reducible apply keeps_parts
    | with_reducible apply clearMain_keeps
    | with_reducible apply logWork_keeps
    | with_reducible apply driveAlert_keeps
    | with_reducible apply ite_keeps
    | with_reducible apply foldl_keeps
    | with_reducible apply foldl_pair_keeps
    | split
    | rw [keeps_mk_iff]
    | dsimp only

theorem applyPending_keeps (s : State) (h : Keeps q n s) :
    Keeps q n (applyPending s) := by
  unfold applyPending
  repeat' first
    | with_reducible assumption
    | with_reducible intro _
    | with_reducible apply keeps_parts
    | with_reducible apply ite_keeps
    | with_reducible apply foldl_keeps
    | with_reducible apply foldl_pair_keeps
    | split
    | rw [keeps_mk_iff]
    | dsimp only

theorem sampleStraps_keeps (s : State) (h : Keeps q n s) :
    Keeps q n (sampleStraps s) := by
  unfold sampleStraps
  repeat' first
    | with_reducible assumption
    | with_reducible intro _
    | with_reducible apply keeps_parts
    | with_reducible apply ite_keeps
    | with_reducible apply foldl_keeps
    | with_reducible apply foldl_pair_keeps
    | split
    | rw [keeps_mk_iff]
    | dsimp only

theorem trainLinks_keeps (ls : List Nat) (s : State) (h : Keeps q n s) :
    Keeps q n (trainLinks ls s) := by
  unfold trainLinks
  repeat' first
    | with_reducible assumption
    | with_reducible intro _
    | with_reducible apply keeps_parts
    | with_reducible apply powerUp_keeps
    | with_reducible apply ite_keeps
    | with_reducible apply foldl_keeps
    | with_reducible apply foldl_pair_keeps
    | split
    | rw [keeps_mk_iff]
    | dsimp only

theorem dataPlaneUp_keeps (s : State) (h : Keeps q n s) :
    Keeps q n (dataPlaneUp s) := by
  unfold dataPlaneUp
  repeat' first
    | with_reducible assumption
    | with_reducible intro _
    | with_reducible apply keeps_parts
    | with_reducible apply setReg_keeps
    | with_reducible apply applyRetired_keeps
    | with_reducible apply trainLinks_keeps
    | with_reducible apply ite_keeps
    | with_reducible apply foldl_keeps
    | with_reducible apply foldl_pair_keeps
    | split
    | rw [keeps_mk_iff]
    | dsimp only

theorem freshTundish_keeps (s : State) (h : Keeps q n s) :
    Keeps q n (freshTundish s) := by
  unfold freshTundish
  repeat' first
    | with_reducible assumption
    | with_reducible intro _
    | with_reducible apply keeps_parts
    | with_reducible apply setReg_keeps
    | with_reducible apply ite_keeps
    | with_reducible apply foldl_keeps
    | with_reducible apply foldl_pair_keeps
    | split
    | rw [keeps_mk_iff]
    | dsimp only

theorem bringUp_keeps (s : State) (h : Keeps q n s) :
    Keeps q n (bringUp s) := by
  unfold bringUp
  repeat' first
    | with_reducible assumption
    | with_reducible intro _
    | with_reducible apply keeps_parts
    | with_reducible apply sampleStraps_keeps
    | with_reducible apply applyPending_keeps
    | with_reducible apply setReg_keeps
    | with_reducible apply freshTundish_keeps
    | with_reducible apply loadEq_keeps
    | with_reducible apply bootRom_keeps
    | with_reducible apply trainLinks_keeps
    | with_reducible apply dataPlaneUp_keeps
    | with_reducible apply ite_keeps
    | with_reducible apply foldl_keeps
    | with_reducible apply foldl_pair_keeps
    | split
    | rw [keeps_mk_iff]
    | dsimp only

theorem tryBringUp_keeps (s : State) (h : Keeps q n s) :
    Keeps q n (tryBringUp s) := by
  unfold tryBringUp
  repeat' first
    | with_reducible assumption
    | with_reducible intro _
    | with_reducible apply keeps_parts
    | with_reducible apply bringUp_keeps
    | with_reducible apply ite_keeps
    | with_reducible apply foldl_keeps
    | with_reducible apply foldl_pair_keeps
    | split
    | rw [keeps_mk_iff]
    | dsimp only

theorem flushReplies_keeps (s : State) (h : Keeps q n s) :
    Keeps q n (flushReplies s) := by
  unfold flushReplies
  repeat' first
    | with_reducible assumption
    | with_reducible intro _
    | with_reducible apply keeps_parts
    | with_reducible apply sendPacket_keeps
    | with_reducible apply ite_keeps
    | with_reducible apply foldl_keeps
    | with_reducible apply foldl_pair_keeps
    | split
    | rw [keeps_mk_iff]
    | dsimp only

theorem rejoinMemory_keeps (s : State) (h : Keeps q n s) : Keeps q n (rejoinMemory s) := by
  unfold rejoinMemory
  exact keeps_parts (applyRetired_keeps _ _ ⟨h.1, h.2.1, rfl, h.2.2.2⟩)

theorem foldl_tabPut_sorted (l t : Tab Nat) (h : tabSorted t = true) :
    tabSorted (l.foldl (fun t e => tabPut t e.1 e.2) t) = true := by
  induction l generalizing t with
  | nil => exact h
  | cons e l ih => exact ih _ (tabSorted_tabPut h _ _)

theorem clearWarm_keeps (s : State) (h : Keeps q n s) : Keeps q n (clearWarm s) := by
  unfold clearWarm
  extract_lets z gates s1 s2
  have h1 : Keeps q n s1 := foldl_keeps _ (fun s k h => bumpEpoch_keeps k s h) _ _ h
  have h2 : Keeps q n s2 := ite_keeps (rejoinMemory_keeps _ h1) ⟨h1.1, h1.2.1, h1.2.2.1, h1.2.2.2⟩
  exact ⟨h2.1, h2.2.1, h2.2.2.1, foldl_tabPut_sorted _ _ rfl⟩

theorem gateStacks_keeps (s : State) (h : Keeps q n s) :
    Keeps q n (gateStacks s) := by
  unfold gateStacks
  repeat' first
    | with_reducible assumption
    | with_reducible intro _
    | with_reducible apply keeps_parts
    | with_reducible apply bumpEpoch_keeps
    | with_reducible apply ite_keeps
    | with_reducible apply foldl_keeps
    | with_reducible apply foldl_pair_keeps
    | split
    | rw [keeps_mk_iff]
    | dsimp only

theorem beginWarm_keeps (cause : Nat) (cmd : Option CmdRef) (held : Bool) (s : State) (h : Keeps q n s) :
    Keeps q n (beginWarm cause cmd held s) := by
  unfold beginWarm
  repeat' first
    | with_reducible assumption
    | with_reducible intro _
    | with_reducible apply keeps_parts
    | with_reducible apply logEvent_keeps
    | with_reducible apply gateStacks_keeps
    | with_reducible apply clearWarm_keeps
    | with_reducible apply flushReplies_keeps
    | with_reducible apply logWork_keeps
    | with_reducible apply trainLinks_keeps
    | with_reducible apply ite_keeps
    | with_reducible apply foldl_keeps
    | with_reducible apply foldl_pair_keeps
    | split
    | rw [keeps_mk_iff]
    | dsimp only

theorem rebuildDone_keeps (d : Nat) (s : State) (h : Keeps q n s) :
    Keeps q n (rebuildDone d s) := by
  unfold rebuildDone
  repeat' first
    | with_reducible assumption
    | with_reducible intro _
    | with_reducible apply keeps_parts
    | with_reducible apply modHalf_keeps
    | with_reducible apply tryStep6_keeps
    | with_reducible apply ite_keeps
    | with_reducible apply foldl_keeps
    | with_reducible apply foldl_pair_keeps
    | split
    | rw [keeps_mk_iff]
    | dsimp only

theorem execWarmResetDone_keeps (s : State) (h : Keeps q n s) :
    Answers q n (execWarmResetDone s) := by
  unfold execWarmResetDone
  repeat' first
    | with_reducible assumption
    | with_reducible intro _
    | with_reducible apply keeps_parts
    | with_reducible apply gateStacks_keeps
    | with_reducible apply finishOpt_keeps
    | with_reducible apply rebuildDone_keeps
    | with_reducible apply answers_next
    | with_reducible apply answers_fault
    | with_reducible apply answers_refused
    | with_reducible apply ite_answers
    | with_reducible apply ite_keeps
    | with_reducible apply foldl_keeps
    | with_reducible apply foldl_pair_keeps
    | split
    | rw [keeps_mk_iff]
    | dsimp only

theorem execTundishRebuildDone_keeps (half' : Nat) (s : State) (h : Keeps q n s) :
    Answers q n (execTundishRebuildDone half' s) := by
  unfold execTundishRebuildDone
  repeat' first
    | with_reducible assumption
    | with_reducible intro _
    | with_reducible apply keeps_parts
    | with_reducible apply onUnit_keeps
    | with_reducible apply rebuildDone_keeps
    | with_reducible apply answers_next
    | with_reducible apply answers_fault
    | with_reducible apply answers_refused
    | with_reducible apply ite_answers
    | with_reducible apply ite_keeps
    | with_reducible apply foldl_keeps
    | with_reducible apply foldl_pair_keeps
    | split
    | rw [keeps_mk_iff]
    | dsimp only

theorem execDevResetWarm_keeps (m : CmdMeta) (confirm : Nat) (s : State) (h : Keeps q n s) :
    Answers q n (execDevResetWarm m confirm s) := by
  unfold execDevResetWarm
  repeat' first
    | with_reducible assumption
    | with_reducible intro _
    | with_reducible apply keeps_parts
    | with_reducible apply command_keeps
    | with_reducible apply refuse_keeps
    | with_reducible apply accept_keeps
    | with_reducible apply beginWarm_keeps
    | with_reducible apply answers_next
    | with_reducible apply answers_fault
    | with_reducible apply answers_refused
    | with_reducible apply ite_answers
    | with_reducible apply ite_keeps
    | with_reducible apply foldl_keeps
    | with_reducible apply foldl_pair_keeps
    | split
    | rw [keeps_mk_iff]
    | dsimp only

theorem execFwVerify_keeps (m : CmdMeta) (slot : Nat) (s : State) (h : Keeps q n s) :
    Answers q n (execFwVerify m slot s) := by
  unfold execFwVerify
  repeat' first
    | with_reducible assumption
    | with_reducible intro _
    | with_reducible apply keeps_parts
    | with_reducible apply command_keeps
    | with_reducible apply refuse_keeps
    | with_reducible apply verifySlot_keeps
    | with_reducible refine verifySlot_keeps_eq (by assumption) ?_
    | with_reducible apply answer_keeps
    | with_reducible apply dataPlaneUp_keeps
    | with_reducible apply startSlot_keeps
    | with_reducible apply writeDir_keeps
    | with_reducible apply answers_next
    | with_reducible apply answers_fault
    | with_reducible apply answers_refused
    | with_reducible apply ite_answers
    | with_reducible apply ite_keeps
    | with_reducible apply foldl_keeps
    | with_reducible apply foldl_pair_keeps
    | split
    | rw [keeps_mk_iff]
    | dsimp only

end Sys2Proof.Machine
end

