-- ==== Sys2Proof/Laws/KeepPower.lean ====
section
/-! SUPPORT. What the operations of Machine/Power.lean keep: the queue, the clock and the canonical form of HBM and the registers. -/
namespace Sys2Proof.Machine

variable {q : List Instr} {n : Nat}

theorem settleHalving_keeps (s : State) (h : Keeps q n s) :
    Keeps q n (settleHalving s) := by
  unfold settleHalving
  repeat' first
    | with_reducible assumption
    | with_reducible intro _
    | with_reducible apply keeps_parts
    | with_reducible apply driveAlert_keeps
    | with_reducible apply setReg_keeps
    | with_reducible apply ite_keeps
    | with_reducible apply foldl_keeps
    | with_reducible apply foldl_pair_keeps
    | split
    | rw [keeps_mk_iff]
    | dsimp only

theorem resumeDispatch_keeps (s : State) (h : Keeps q n s) :
    Keeps q n (resumeDispatch s) := by
  unfold resumeDispatch
  repeat' first
    | with_reducible assumption
    | with_reducible intro _
    | with_reducible apply keeps_parts
    | with_reducible apply settleHalving_keeps
    | with_reducible apply wakeBay_keeps
    | with_reducible apply tryOpen_keeps
    | with_reducible apply ite_keeps
    | with_reducible apply foldl_keeps
    | with_reducible apply foldl_pair_keeps
    | split
    | rw [keeps_mk_iff]
    | dsimp only

theorem beginWarning_keeps (mv : Nat) (s : State) (h : Keeps q n s) :
    Keeps q n (beginWarning mv s) := by
  unfold beginWarning
  repeat' first
    | with_reducible assumption
    | with_reducible intro _
    | with_reducible apply keeps_parts
    | with_reducible apply setReg_keeps
    | with_reducible apply incReg_keeps
    | with_reducible apply settleHalving_keeps
    | with_reducible apply markFlag_keeps
    | with_reducible apply logEvent_keeps
    | with_reducible apply ite_keeps
    | with_reducible apply foldl_keeps
    | with_reducible apply foldl_pair_keeps
    | split
    | rw [keeps_mk_iff]
    | dsimp only

theorem execBrownoutWarning_keeps (mv : Nat) (s : State) (h : Keeps q n s) :
    Answers q n (execBrownoutWarning mv s) := by
  unfold execBrownoutWarning
  repeat' first
    | with_reducible assumption
    | with_reducible intro _
    | with_reducible apply keeps_parts
    | with_reducible apply setReg_keeps
    | with_reducible apply beginWarning_keeps
    | with_reducible apply answers_next
    | with_reducible apply answers_fault
    | with_reducible apply answers_refused
    | with_reducible apply ite_answers
    | with_reducible apply ite_keeps
    | with_reducible apply foldl_keeps
    | with_reducible apply foldl_pair_keeps
    | split
    | rw [keeps_mk_iff]
    | dsimp only

theorem execBrownoutRelease_keeps (s : State) (h : Keeps q n s) :
    Answers q n (execBrownoutRelease s) := by
  unfold execBrownoutRelease
  repeat' first
    | with_reducible assumption
    | with_reducible intro _
    | with_reducible apply keeps_parts
    | with_reducible apply logEvent_keeps
    | with_reducible apply useFree_keeps
    | with_reducible apply setReg_keeps
    | with_reducible apply resumeDispatch_keeps
    | with_reducible apply answers_next
    | with_reducible apply answers_fault
    | with_reducible apply answers_refused
    | with_reducible apply ite_answers
    | with_reducible apply ite_keeps
    | with_reducible apply foldl_keeps
    | with_reducible apply foldl_pair_keeps
    | split
    | rw [keeps_mk_iff]
    | dsimp only

theorem noteSensor_keeps (sensor : Nat) (celsius : Nat) (s : State) (h : Keeps q n s) :
    Keeps q n (noteSensor sensor celsius s) := by
  unfold noteSensor
  repeat' first
    | with_reducible assumption
    | with_reducible intro _
    | with_reducible apply keeps_parts
    | with_reducible apply setReg_keeps
    | with_reducible apply ite_keeps
    | with_reducible apply foldl_keeps
    | with_reducible apply foldl_pair_keeps
    | split
    | rw [keeps_mk_iff]
    | dsimp only

theorem throttle_keeps (sensor : Nat) (celsius : Nat) (s : State) (h : Keeps q n s) :
    Keeps q n (throttle sensor celsius s) := by
  unfold throttle
  repeat' first
    | with_reducible assumption
    | with_reducible intro _
    | with_reducible apply keeps_parts
    | with_reducible apply logEvent_keeps
    | with_reducible apply incReg_keeps
    | with_reducible apply setReg_keeps
    | with_reducible apply settleHalving_keeps
    | with_reducible apply markFlag_keeps
    | with_reducible apply ite_keeps
    | with_reducible apply foldl_keeps
    | with_reducible apply foldl_pair_keeps
    | split
    | rw [keeps_mk_iff]
    | dsimp only

theorem execThermalThrottle_keeps (sensor : Nat) (celsius : Nat) (s : State) (h : Keeps q n s) :
    Answers q n (execThermalThrottle sensor celsius s) := by
  unfold execThermalThrottle
  repeat' first
    | with_reducible assumption
    | with_reducible intro _
    | with_reducible apply keeps_parts
    | with_reducible apply noteSensor_keeps
    | with_reducible apply throttle_keeps
    | with_reducible apply answers_next
    | with_reducible apply answers_fault
    | with_reducible apply answers_refused
    | with_reducible apply ite_answers
    | with_reducible apply ite_keeps
    | with_reducible apply foldl_keeps
    | with_reducible apply foldl_pair_keeps
    | split
    | rw [keeps_mk_iff]
    | dsimp only

theorem coolSensors_keeps (s : State) (h : Keeps q n s) :
    Keeps q n (coolSensors s) := by
  unfold coolSensors
  repeat' first
    | with_reducible assumption
    | with_reducible intro _
    | with_reducible apply keeps_parts
    | with_reducible apply useFree_keeps
    | with_reducible apply noteSensor_keeps
    | with_reducible apply ite_keeps
    | with_reducible apply foldl_keeps
    | with_reducible apply foldl_pair_keeps
    | split
    | rw [keeps_mk_iff]
    | dsimp only

theorem endThrottle_keeps (s : State) (h : Keeps q n s) :
    Keeps q n (endThrottle s) := by
  unfold endThrottle
  repeat' first
    | with_reducible assumption
    | with_reducible intro _
    | with_reducible apply keeps_parts
    | with_reducible apply coolSensors_keeps
    | with_reducible apply resumeDispatch_keeps
    | with_reducible apply setReg_keeps
    | with_reducible apply ite_keeps
    | with_reducible apply foldl_keeps
    | with_reducible apply foldl_pair_keeps
    | split
    | rw [keeps_mk_iff]
    | dsimp only

theorem execThrottleRelease_keeps (s : State) (h : Keeps q n s) :
    Answers q n (execThrottleRelease s) := by
  unfold execThrottleRelease
  repeat' first
    | with_reducible assumption
    | with_reducible intro _
    | with_reducible apply keeps_parts
    | with_reducible apply tryBringUp_keeps
    | with_reducible apply endThrottle_keeps
    | with_reducible apply answers_next
    | with_reducible apply answers_fault
    | with_reducible apply answers_refused
    | with_reducible apply ite_answers
    | with_reducible apply ite_keeps
    | with_reducible apply foldl_keeps
    | with_reducible apply foldl_pair_keeps
    | split
    | rw [keeps_mk_iff]
    | dsimp only

theorem stopMain_keeps (s : State) (h : Keeps q n s) :
    Keeps q n (stopMain s) := by
  unfold stopMain
  repeat' first
    | with_reducible assumption
    | with_reducible intro _
    | with_reducible apply keeps_parts
    | with_reducible apply enterReset_keeps
    | with_reducible apply driveAlert_keeps
    | with_reducible apply setReg_keeps
    | with_reducible apply ite_keeps
    | with_reducible apply foldl_keeps
    | with_reducible apply foldl_pair_keeps
    | split
    | rw [keeps_mk_iff]
    | dsimp only

theorem shutdown_keeps (sensor : Nat) (celsius : Nat) (s : State) (h : Keeps q n s) :
    Keeps q n (shutdown sensor celsius s) := by
  unfold shutdown
  repeat' first
    | with_reducible assumption
    | with_reducible intro _
    | with_reducible apply keeps_parts
    | with_reducible apply assertFault_keeps
    | with_reducible apply logEvent_keeps
    | with_reducible apply stopMain_keeps
    | with_reducible apply ite_keeps
    | with_reducible apply foldl_keeps
    | with_reducible apply foldl_pair_keeps
    | split
    | rw [keeps_mk_iff]
    | dsimp only

theorem execThermalShutdown_keeps (sensor : Nat) (celsius : Nat) (s : State) (h : Keeps q n s) :
    Answers q n (execThermalShutdown sensor celsius s) := by
  unfold execThermalShutdown
  repeat' first
    | with_reducible assumption
    | with_reducible intro _
    | with_reducible apply keeps_parts
    | with_reducible apply noteSensor_keeps
    | with_reducible apply shutdown_keeps
    | with_reducible apply answers_next
    | with_reducible apply answers_fault
    | with_reducible apply answers_refused
    | with_reducible apply ite_answers
    | with_reducible apply ite_keeps
    | with_reducible apply foldl_keeps
    | with_reducible apply foldl_pair_keeps
    | split
    | rw [keeps_mk_iff]
    | dsimp only

theorem execCoolFailAssert_keeps (s : State) (h : Keeps q n s) :
    Answers q n (execCoolFailAssert s) := by
  unfold execCoolFailAssert
  repeat' first
    | with_reducible assumption
    | with_reducible intro _
    | with_reducible apply keeps_parts
    | with_reducible apply throttle_keeps
    | with_reducible apply answers_next
    | with_reducible apply answers_fault
    | with_reducible apply answers_refused
    | with_reducible apply ite_answers
    | with_reducible apply ite_keeps
    | with_reducible apply foldl_keeps
    | with_reducible apply foldl_pair_keeps
    | split
    | rw [keeps_mk_iff]
    | dsimp only

theorem execCoolFailShutdown_keeps (s : State) (h : Keeps q n s) :
    Answers q n (execCoolFailShutdown s) := by
  unfold execCoolFailShutdown
  repeat' first
    | with_reducible assumption
    | with_reducible intro _
    | with_reducible apply keeps_parts
    | with_reducible apply shutdown_keeps
    | with_reducible apply advanceTo_keeps
    | with_reducible apply answers_next
    | with_reducible apply answers_fault
    | with_reducible apply answers_refused
    | with_reducible apply ite_answers
    | with_reducible apply ite_keeps
    | with_reducible apply foldl_keeps
    | with_reducible apply foldl_pair_keeps
    | split
    | rw [keeps_mk_iff]
    | dsimp only

theorem execCoolFailRelease_keeps (s : State) (h : Keeps q n s) :
    Answers q n (execCoolFailRelease s) := by
  unfold execCoolFailRelease
  repeat' first
    | with_reducible assumption
    | with_reducible intro _
    | with_reducible apply keeps_parts
    | with_reducible apply endThrottle_keeps
    | with_reducible apply answers_next
    | with_reducible apply answers_fault
    | with_reducible apply answers_refused
    | with_reducible apply ite_answers
    | with_reducible apply ite_keeps
    | with_reducible apply foldl_keeps
    | with_reducible apply foldl_pair_keeps
    | split
    | rw [keeps_mk_iff]
    | dsimp only

theorem execRefresh2xChange_keeps (stack : Nat) (celsius : Nat) (s : State) (h : Keeps q n s) :
    Answers q n (execRefresh2xChange stack celsius s) := by
  unfold execRefresh2xChange
  repeat' first
    | with_reducible assumption
    | with_reducible intro _
    | with_reducible apply keeps_parts
    | with_reducible apply onUnit_keeps
    | with_reducible apply setReg_keeps
    | with_reducible apply noteSensor_keeps
    | with_reducible apply answers_next
    | with_reducible apply answers_fault
    | with_reducible apply answers_refused
    | with_reducible apply ite_answers
    | with_reducible apply ite_keeps
    | with_reducible apply foldl_keeps
    | with_reducible apply foldl_pair_keeps
    | split
    | rw [keeps_mk_iff]
    | dsimp only

theorem execStandbyPowerOn_keeps (a : Nat) (s : State) (h : Keeps q n s) : Answers q n (execStandbyPowerOn a s) := by
  unfold execStandbyPowerOn
  refine answers_next (setReg_keeps _ _ _ _ ?_)
  exact ⟨h.1, h.2.1, rfl, rfl⟩

theorem execStandbyPowerLoss_keeps (s : State) (h : Keeps q n s) : Answers q n (execStandbyPowerLoss s) := by
  have h := enterReset_keeps .standbyOnly s h
  unfold execStandbyPowerLoss
  exact answers_next ⟨h.1, h.2.1, h.2.2.1, rfl⟩

theorem execStandbyPowerSettled_keeps (s : State) (h : Keeps q n s) :
    Answers q n (execStandbyPowerSettled s) := by
  unfold execStandbyPowerSettled
  repeat' first
    | with_reducible assumption
    | with_reducible intro _
    | with_reducible apply keeps_parts
    | with_reducible apply advanceTo_keeps
    | with_reducible apply tryBringUp_keeps
    | with_reducible apply answers_next
    | with_reducible apply answers_fault
    | with_reducible apply answers_refused
    | with_reducible apply ite_answers
    | with_reducible apply ite_keeps
    | with_reducible apply foldl_keeps
    | with_reducible apply foldl_pair_keeps
    | split
    | rw [keeps_mk_iff]
    | dsimp only

theorem execMainPowerGood_keeps (mv : Nat) (s : State) (h : Keeps q n s) :
    Answers q n (execMainPowerGood mv s) := by
  unfold execMainPowerGood
  repeat' first
    | with_reducible assumption
    | with_reducible intro _
    | with_reducible apply keeps_parts
    | with_reducible apply setReg_keeps
    | with_reducible apply tryBringUp_keeps
    | with_reducible apply beginWarning_keeps
    | with_reducible apply answers_next
    | with_reducible apply answers_fault
    | with_reducible apply answers_refused
    | with_reducible apply ite_answers
    | with_reducible apply ite_keeps
    | with_reducible apply foldl_keeps
    | with_reducible apply foldl_pair_keeps
    | split
    | rw [keeps_mk_iff]
    | dsimp only

theorem execResetNRelease_keeps (straps : Straps) (s : State) (h : Keeps q n s) :
    Answers q n (execResetNRelease straps s) := by
  unfold execResetNRelease
  repeat' first
    | with_reducible assumption
    | with_reducible intro _
    | with_reducible apply keeps_parts
    | with_reducible apply tryBringUp_keeps
    | with_reducible apply answers_next
    | with_reducible apply answers_fault
    | with_reducible apply answers_refused
    | with_reducible apply ite_answers
    | with_reducible apply ite_keeps
    | with_reducible apply foldl_keeps
    | with_reducible apply foldl_pair_keeps
    | split
    | rw [keeps_mk_iff]
    | dsimp only

theorem execResetNAssert_keeps (s : State) (h : Keeps q n s) :
    Answers q n (execResetNAssert s) := by
  unfold execResetNAssert
  repeat' first
    | with_reducible assumption
    | with_reducible intro _
    | with_reducible apply keeps_parts
    | with_reducible apply enterReset_keeps
    | with_reducible apply logEvent_keeps
    | with_reducible apply answers_next
    | with_reducible apply answers_fault
    | with_reducible apply answers_refused
    | with_reducible apply ite_answers
    | with_reducible apply ite_keeps
    | with_reducible apply foldl_keeps
    | with_reducible apply foldl_pair_keeps
    | split
    | rw [keeps_mk_iff]
    | dsimp only

theorem execResetLevel_keeps (mv : Nat) (s : State) (h : Keeps q n s) :
    Answers q n (execResetLevel mv s) := by
  unfold execResetLevel
  repeat' first
    | with_reducible assumption
    | with_reducible intro _
    | with_reducible apply keeps_parts
    | with_reducible apply logEvent_keeps
    | with_reducible apply assertFault_keeps
    | with_reducible apply setReg_keeps
    | with_reducible apply stopMain_keeps
    | with_reducible apply answers_next
    | with_reducible apply answers_fault
    | with_reducible apply answers_refused
    | with_reducible apply ite_answers
    | with_reducible apply ite_keeps
    | with_reducible apply foldl_keeps
    | with_reducible apply foldl_pair_keeps
    | split
    | rw [keeps_mk_iff]
    | dsimp only

theorem execResetLevelRestart_keeps (s : State) (h : Keeps q n s) :
    Answers q n (execResetLevelRestart s) := by
  unfold execResetLevelRestart
  repeat' first
    | with_reducible assumption
    | with_reducible intro _
    | with_reducible apply keeps_parts
    | with_reducible apply useFree_keeps
    | with_reducible apply setReg_keeps
    | with_reducible apply tryBringUp_keeps
    | with_reducible apply answers_next
    | with_reducible apply answers_fault
    | with_reducible apply answers_refused
    | with_reducible apply ite_answers
    | with_reducible apply ite_keeps
    | with_reducible apply foldl_keeps
    | with_reducible apply foldl_pair_keeps
    | split
    | rw [keeps_mk_iff]
    | dsimp only

theorem execRefclkLoss_keeps (s : State) (h : Keeps q n s) :
    Answers q n (execRefclkLoss s) := by
  unfold execRefclkLoss
  repeat' first
    | with_reducible assumption
    | with_reducible intro _
    | with_reducible apply keeps_parts
    | with_reducible apply driveAlert_keeps
    | with_reducible apply incReg_keeps
    | with_reducible apply setReg_keeps
    | with_reducible apply answers_next
    | with_reducible apply answers_fault
    | with_reducible apply answers_refused
    | with_reducible apply ite_answers
    | with_reducible apply ite_keeps
    | with_reducible apply foldl_keeps
    | with_reducible apply foldl_pair_keeps
    | split
    | rw [keeps_mk_iff]
    | dsimp only

theorem logLoss_keeps (since : Nat) (s : State) (h : Keeps q n s) :
    Keeps q n (logLoss since s) := by
  unfold logLoss
  repeat' first
    | with_reducible assumption
    | with_reducible intro _
    | with_reducible apply keeps_parts
    | with_reducible apply logEvent_keeps
    | with_reducible apply ite_keeps
    | with_reducible apply foldl_keeps
    | with_reducible apply foldl_pair_keeps
    | split
    | rw [keeps_mk_iff]
    | dsimp only

theorem execRefclkLossTimeout_keeps (s : State) (h : Keeps q n s) :
    Answers q n (execRefclkLossTimeout s) := by
  unfold execRefclkLossTimeout
  repeat' first
    | with_reducible assumption
    | with_reducible intro _
    | with_reducible apply keeps_parts
    | with_reducible apply advanceTo_keeps
    | with_reducible apply beginWarm_keeps
    | with_reducible apply logLoss_keeps
    | with_reducible apply answers_next
    | with_reducible apply answers_fault
    | with_reducible apply answers_refused
    | with_reducible apply ite_answers
    | with_reducible apply ite_keeps
    | with_reducible apply foldl_keeps
    | with_reducible apply foldl_pair_keeps
    | split
    | rw [keeps_mk_iff]
    | dsimp only

theorem execRefclkReturn_keeps (s : State) (h : Keeps q n s) :
    Answers q n (execRefclkReturn s) := by
  unfold execRefclkReturn
  repeat' first
    | with_reducible assumption
    | with_reducible intro _
    | with_reducible apply keeps_parts
    | with_reducible apply advance_keeps
    | with_reducible apply logLoss_keeps
    | with_reducible apply driveAlert_keeps
    | with_reducible apply setReg_keeps
    | with_reducible apply trainLinks_keeps
    | with_reducible apply answers_next
    | with_reducible apply answers_fault
    | with_reducible apply answers_refused
    | with_reducible apply ite_answers
    | with_reducible apply ite_keeps
    | with_reducible apply foldl_keeps
    | with_reducible apply foldl_pair_keeps
    | split
    | rw [keeps_mk_iff]
    | dsimp only

theorem execCpllLock_keeps (die : Nat) (s : State) (h : Keeps q n s) :
    Answers q n (execCpllLock die s) := by
  unfold execCpllLock
  repeat' first
    | with_reducible assumption
    | with_reducible intro _
    | with_reducible apply keeps_parts
    | with_reducible apply onUnit_keeps
    | with_reducible apply setReg_keeps
    | with_reducible apply answers_next
    | with_reducible apply answers_fault
    | with_reducible apply answers_refused
    | with_reducible apply ite_answers
    | with_reducible apply ite_keeps
    | with_reducible apply foldl_keeps
    | with_reducible apply foldl_pair_keeps
    | split
    | rw [keeps_mk_iff]
    | dsimp only

theorem execBayWakeDone_keeps (bay : Nat) (s : State) (h : Keeps q n s) :
    Answers q n (execBayWakeDone bay s) := by
  unfold execBayWakeDone
  repeat' first
    | with_reducible assumption
    | with_reducible intro _
    | with_reducible apply keeps_parts
    | with_reducible apply onUnit_keeps
    | with_reducible apply advanceTo_keeps
    | with_reducible apply setReg_keeps
    | with_reducible apply incReg_keeps
    | with_reducible apply setBayState_keeps
    | with_reducible apply answers_next
    | with_reducible apply answers_fault
    | with_reducible apply answers_refused
    | with_reducible apply ite_answers
    | with_reducible apply ite_keeps
    | with_reducible apply foldl_keeps
    | with_reducible apply foldl_pair_keeps
    | split
    | rw [keeps_mk_iff]
    | dsimp only

theorem settleCpll_keeps (die : Nat) (s : State) (h : Keeps q n s) :
    Keeps q n (settleCpll die s) := by
  unfold settleCpll
  repeat' first
    | with_reducible assumption
    | with_reducible intro _
    | with_reducible apply keeps_parts
    | with_reducible apply setReg_keeps
    | with_reducible apply ite_keeps
    | with_reducible apply foldl_keeps
    | with_reducible apply foldl_pair_keeps
    | split
    | rw [keeps_mk_iff]
    | dsimp only

theorem clearFlasks_keeps (bay : Nat) (s : State) (h : Keeps q n s) :
    Keeps q n (clearFlasks bay s) := by
  unfold clearFlasks
  repeat' first
    | with_reducible assumption
    | with_reducible intro _
    | with_reducible apply keeps_parts
    | with_reducible apply resetInst_keeps
    | with_reducible apply ite_keeps
    | with_reducible apply foldl_keeps
    | with_reducible apply foldl_pair_keeps
    | split
    | rw [keeps_mk_iff]
    | dsimp only

theorem dropWork_keeps (bay : Nat) (s : State) (h : Keeps q n s) :
    Keeps q n (dropWork bay s) := by
  unfold dropWork
  repeat' first
    | with_reducible assumption
    | with_reducible intro _
    | with_reducible apply keeps_parts
    | with_reducible apply modSeg_keeps
    | with_reducible apply ite_keeps
    | with_reducible apply foldl_keeps
    | with_reducible apply foldl_pair_keeps
    | split
    | rw [keeps_mk_iff]
    | dsimp only

theorem bankBay_keeps (bay : Nat) (st : Nat) (s : State) (h : Keeps q n s) :
    Keeps q n (bankBay bay st s) := by
  unfold bankBay
  repeat' first
    | with_reducible assumption
    | with_reducible intro _
    | with_reducible apply keeps_parts
    | with_reducible apply setBayState_keeps
    | with_reducible apply dropWork_keeps
    | with_reducible apply clearFlasks_keeps
    | with_reducible apply settleCpll_keeps
    | with_reducible apply ite_keeps
    | with_reducible apply foldl_keeps
    | with_reducible apply foldl_pair_keeps
    | split
    | rw [keeps_mk_iff]
    | dsimp only

theorem fireKept_keeps (bay : Nat) (s : State) (h : Keeps q n s) :
    Keeps q n (fireKept bay s) := by
  unfold fireKept
  repeat' first
    | with_reducible assumption
    | with_reducible intro _
    | with_reducible apply keeps_parts
    | with_reducible apply wakeBay_keeps
    | with_reducible apply ite_keeps
    | with_reducible apply foldl_keeps
    | with_reducible apply foldl_pair_keeps
    | split
    | rw [keeps_mk_iff]
    | dsimp only

theorem execBayIdleTimer_keeps (bay : Nat) (s : State) (h : Keeps q n s) :
    Answers q n (execBayIdleTimer bay s) := by
  unfold execBayIdleTimer
  repeat' first
    | with_reducible assumption
    | with_reducible intro _
    | with_reducible apply keeps_parts
    | with_reducible apply decided_keeps
    | with_reducible apply onUnit_keeps
    | with_reducible apply fireKept_keeps
    | with_reducible apply advanceTo_keeps
    | with_reducible apply bankBay_keeps
    | with_reducible apply answers_next
    | with_reducible apply answers_fault
    | with_reducible apply answers_refused
    | with_reducible apply ite_answers
    | with_reducible apply ite_keeps
    | with_reducible apply foldl_keeps
    | with_reducible apply foldl_pair_keeps
    | split
    | rw [keeps_mk_iff]
    | dsimp only

theorem execSwitchHalfBank_keeps (half' : Nat) (s : State) (h : Keeps q n s) :
    Answers q n (execSwitchHalfBank half' s) := by
  unfold execSwitchHalfBank
  repeat' first
    | with_reducible assumption
    | with_reducible intro _
    | with_reducible apply keeps_parts
    | with_reducible apply onUnit_keeps
    | with_reducible apply modHalf_keeps
    | with_reducible apply bumpEpoch_keeps
    | with_reducible apply resetFld_keeps
    | with_reducible apply answers_next
    | with_reducible apply answers_fault
    | with_reducible apply answers_refused
    | with_reducible apply ite_answers
    | with_reducible apply ite_keeps
    | with_reducible apply foldl_keeps
    | with_reducible apply foldl_pair_keeps
    | split
    | rw [keeps_mk_iff]
    | dsimp only

theorem execSwitchHalfWake_keeps (half' : Nat) (s : State) (h : Keeps q n s) :
    Answers q n (execSwitchHalfWake half' s) := by
  unfold execSwitchHalfWake
  repeat' first
    | with_reducible assumption
    | with_reducible intro _
    | with_reducible apply keeps_parts
    | with_reducible apply onUnit_keeps
    | with_reducible apply bumpEpoch_keeps
    | with_reducible apply rebuildDone_keeps
    | with_reducible apply answers_next
    | with_reducible apply answers_fault
    | with_reducible apply answers_refused
    | with_reducible apply ite_answers
    | with_reducible apply ite_keeps
    | with_reducible apply foldl_keeps
    | with_reducible apply foldl_pair_keeps
    | split
    | rw [keeps_mk_iff]
    | dsimp only

theorem resetDomain_keeps (kind : Nat) (index : Nat) (s : State) (h : Keeps q n s) :
    Keeps q n (resetDomain kind index s) := by
  unfold resetDomain
  repeat' first
    | with_reducible assumption
    | with_reducible intro _
    | with_reducible apply keeps_parts
    | with_reducible apply clearFlasks_keeps
    | with_reducible apply settleCpll_keeps
    | with_reducible apply setBayState_keeps
    | with_reducible apply leaveLink_keeps
    | with_reducible apply resetInst_keeps
    | with_reducible apply setReg_keeps
    | with_reducible apply powerUp_keeps
    | with_reducible apply modLink_keeps
    | with_reducible apply bumpEpoch_keeps
    | with_reducible apply rebuildMeta_keeps
    | with_reducible apply ite_keeps
    | with_reducible apply foldl_keeps
    | with_reducible apply foldl_pair_keeps
    | split
    | rw [keeps_mk_iff]
    | dsimp only

theorem addDomain_keeps (j : DomainJob) (s : State) (h : Keeps q n s) :
    Keeps q n (addDomain j s) := by
  unfold addDomain
  repeat' first
    | with_reducible assumption
    | with_reducible intro _
    | with_reducible apply keeps_parts
    | with_reducible apply ite_keeps
    | with_reducible apply foldl_keeps
    | with_reducible apply foldl_pair_keeps
    | split
    | rw [keeps_mk_iff]
    | dsimp only

theorem execDevResetDomain_keeps (m : CmdMeta) (kind : Nat) (index : Nat) (s : State) (h : Keeps q n s) :
    Answers q n (execDevResetDomain m kind index s) := by
  unfold execDevResetDomain
  repeat' first
    | with_reducible assumption
    | with_reducible intro _
    | with_reducible apply keeps_parts
    | with_reducible apply command_keeps
    | with_reducible apply refuse_keeps
    | with_reducible apply accept_keeps
    | with_reducible apply addDomain_keeps
    | with_reducible apply resetDomain_keeps
    | with_reducible apply answers_next
    | with_reducible apply answers_fault
    | with_reducible apply answers_refused
    | with_reducible apply ite_answers
    | with_reducible apply ite_keeps
    | with_reducible apply foldl_keeps
    | with_reducible apply foldl_pair_keeps
    | split
    | rw [keeps_mk_iff]
    | dsimp only

theorem execDomainResetDone_keeps (kind : Nat) (index : Nat) (s : State) (h : Keeps q n s) :
    Answers q n (execDomainResetDone kind index s) := by
  unfold execDomainResetDone
  repeat' first
    | with_reducible assumption
    | with_reducible intro _
    | with_reducible apply keeps_parts
    | with_reducible apply resetDomain_keeps
    | with_reducible apply bumpEpoch_keeps
    | with_reducible apply finish_keeps
    | with_reducible apply answers_next
    | with_reducible apply answers_fault
    | with_reducible apply answers_refused
    | with_reducible apply ite_answers
    | with_reducible apply ite_keeps
    | with_reducible apply foldl_keeps
    | with_reducible apply foldl_pair_keeps
    | split
    | rw [keeps_mk_iff]
    | dsimp only

theorem execDomainResetWaitTimeout_keeps (bay : Nat) (s : State) (h : Keeps q n s) :
    Answers q n (execDomainResetWaitTimeout bay s) := by
  unfold execDomainResetWaitTimeout
  repeat' first
    | with_reducible assumption
    | with_reducible intro _
    | with_reducible apply keeps_parts
    | with_reducible apply advanceTo_keeps
    | with_reducible apply finish_keeps
    | with_reducible apply answers_next
    | with_reducible apply answers_fault
    | with_reducible apply answers_refused
    | with_reducible apply ite_answers
    | with_reducible apply ite_keeps
    | with_reducible apply foldl_keeps
    | with_reducible apply foldl_pair_keeps
    | split
    | rw [keeps_mk_iff]
    | dsimp only

theorem execPwrStatus_keeps (m : CmdMeta) (s : State) (h : Keeps q n s) :
    Answers q n (execPwrStatus m s) := by
  unfold execPwrStatus
  repeat' first
    | with_reducible assumption
    | with_reducible intro _
    | with_reducible apply keeps_parts
    | with_reducible apply command_keeps
    | with_reducible apply answer_keeps
    | with_reducible apply answers_next
    | with_reducible apply answers_fault
    | with_reducible apply answers_refused
    | with_reducible apply ite_answers
    | with_reducible apply ite_keeps
    | with_reducible apply foldl_keeps
    | with_reducible apply foldl_pair_keeps
    | split
    | rw [keeps_mk_iff]
    | dsimp only

theorem execPwrProfileSet_keeps (m : CmdMeta) (profile : List Byte) (s : State) (h : Keeps q n s) :
    Answers q n (execPwrProfileSet m profile s) := by
  unfold execPwrProfileSet
  repeat' first
    | with_reducible assumption
    | with_reducible intro _
    | with_reducible apply keeps_parts
    | with_reducible apply command_keeps
    | with_reducible apply refuse_keeps
    | with_reducible apply answer_keeps
    | with_reducible apply answers_next
    | with_reducible apply answers_fault
    | with_reducible apply answers_refused
    | with_reducible apply ite_answers
    | with_reducible apply ite_keeps
    | with_reducible apply foldl_keeps
    | with_reducible apply foldl_pair_keeps
    | split
    | rw [keeps_mk_iff]
    | dsimp only

theorem execPwrProfileRead_keeps (m : CmdMeta) (s : State) (h : Keeps q n s) :
    Answers q n (execPwrProfileRead m s) := by
  unfold execPwrProfileRead
  repeat' first
    | with_reducible assumption
    | with_reducible intro _
    | with_reducible apply keeps_parts
    | with_reducible apply command_keeps
    | with_reducible apply answer_keeps
    | with_reducible apply answers_next
    | with_reducible apply answers_fault
    | with_reducible apply answers_refused
    | with_reducible apply ite_answers
    | with_reducible apply ite_keeps
    | with_reducible apply foldl_keeps
    | with_reducible apply foldl_pair_keeps
    | split
    | rw [keeps_mk_iff]
    | dsimp only

theorem execPwrStats_keeps (m : CmdMeta) (s : State) (h : Keeps q n s) :
    Answers q n (execPwrStats m s) := by
  unfold execPwrStats
  repeat' first
    | with_reducible assumption
    | with_reducible intro _
    | with_reducible apply keeps_parts
    | with_reducible apply command_keeps
    | with_reducible apply answer_keeps
    | with_reducible apply answers_next
    | with_reducible apply answers_fault
    | with_reducible apply answers_refused
    | with_reducible apply ite_answers
    | with_reducible apply ite_keeps
    | with_reducible apply foldl_keeps
    | with_reducible apply foldl_pair_keeps
    | split
    | rw [keeps_mk_iff]
    | dsimp only

end Sys2Proof.Machine
end

