-- ==== Sys2Proof/Laws/KeepDevice.lean ====
section
/-! SUPPORT. What the operations of Machine/Device.lean keep: the queue, the clock and the canonical form of HBM and the registers. -/
namespace Sys2Proof.Machine

variable {q : List Instr} {n : Nat}

theorem execDevIdentify_keeps (m : CmdMeta) (s : State) (h : Keeps q n s) :
    Answers q n (execDevIdentify m s) := by
  unfold execDevIdentify
  repeat' first
    | with_reducible assumption
    | with_reducible intro _
    | with_reducible apply keeps_parts
    | with_reducible apply command_keeps
    | with_reducible apply answer_keeps
    | with_reducible apply answers_next
    | with_reducible apply answers_fault
    | with_reducible apply answers_refused
    | with_reducible apply ite_answers
    | with_reducible apply ite_keeps
    | with_reducible apply foldl_keeps
    | with_reducible apply foldl_pair_keeps
    | split
    | rw [keeps_mk_iff]
    | dsimp only

theorem execDevHealth_keeps (m : CmdMeta) (s : State) (h : Keeps q n s) :
    Answers q n (execDevHealth m s) := by
  unfold execDevHealth
  repeat' first
    | with_reducible assumption
    | with_reducible intro _
    | with_reducible apply keeps_parts
    | with_reducible apply command_keeps
    | with_reducible apply answer_keeps
    | with_reducible apply answers_next
    | with_reducible apply answers_fault
    | with_reducible apply answers_refused
    | with_reducible apply ite_answers
    | with_reducible apply ite_keeps
    | with_reducible apply foldl_keeps
    | with_reducible apply foldl_pair_keeps
    | split
    | rw [keeps_mk_iff]
    | dsimp only

theorem execDevEcho_keeps (m : CmdMeta) (data : List Byte) (s : State) (h : Keeps q n s) :
    Answers q n (execDevEcho m data s) := by
  unfold execDevEcho
  repeat' first
    | with_reducible assumption
    | with_reducible intro _
    | with_reducible apply keeps_parts
    | with_reducible apply command_keeps
    | with_reducible apply refuse_keeps
    | with_reducible apply answer_keeps
    | with_reducible apply answers_next
    | with_reducible apply answers_fault
    | with_reducible apply answers_refused
    | with_reducible apply ite_answers
    | with_reducible apply ite_keeps
    | with_reducible apply foldl_keeps
    | with_reducible apply foldl_pair_keeps
    | split
    | rw [keeps_mk_iff]
    | dsimp only

theorem afterRead_keeps (addr : Nat) (s : State) (h : Keeps q n s) :
    Keeps q n (afterRead addr s) := by
  unfold afterRead
  repeat' first
    | with_reducible assumption
    | with_reducible intro _
    | with_reducible apply keeps_parts
    | with_reducible apply latchTime_keeps
    | with_reducible apply ite_keeps
    | with_reducible apply foldl_keeps
    | with_reducible apply foldl_pair_keeps
    | split
    | rw [keeps_mk_iff]
    | dsimp only

theorem csrRead_keeps (k addr : Nat) (s : State) (h : Keeps q n s) : Keeps q n (csrRead k addr s).2 := by
  induction k generalizing addr s with
  | zero => exact h
  | succ k ih => exact ih (addr + 4) _ (afterRead_keeps addr s h)

theorem csrRead_keeps_eq {k addr : Nat} {s t : State} {b : List Byte} (e : csrRead k addr s = (b, t)) (h : Keeps q n s) :
    Keeps q n t := by
  have := csrRead_keeps k addr s h; rw [e] at this; exact this

theorem execCsrRead_keeps (m : CmdMeta) (addr : Nat) (count : Nat) (s : State) (h : Keeps q n s) :
    Answers q n (execCsrRead m addr count s) := by
  unfold execCsrRead
  repeat' first
    | with_reducible assumption
    | with_reducible intro _
    | with_reducible apply keeps_parts
    | with_reducible apply command_keeps
    | with_reducible apply refuse_keeps
    | with_reducible apply csrRead_keeps
    | with_reducible refine csrRead_keeps_eq (by assumption) ?_
    | with_reducible apply answer_keeps
    | with_reducible apply answers_next
    | with_reducible apply answers_fault
    | with_reducible apply answers_refused
    | with_reducible apply ite_answers
    | with_reducible apply ite_keeps
    | with_reducible apply foldl_keeps
    | with_reducible apply foldl_pair_keeps
    | split
    | rw [keeps_mk_iff]
    | dsimp only

theorem writeField_keeps (w : Nat) (x1 : RegRow × Nat) (s : State) (h : Keeps q n s) :
    Keeps q n (writeField w x1 s) := by
  unfold writeField
  repeat' first
    | with_reducible assumption
    | with_reducible intro _
    | with_reducible apply keeps_parts
    | with_reducible apply setReg_keeps
    | with_reducible apply resetObs_keeps
    | with_reducible apply selectObs_keeps
    | with_reducible apply ite_keeps
    | with_reducible apply foldl_keeps
    | with_reducible apply foldl_pair_keeps
    | split
    | rw [keeps_mk_iff]
    | dsimp only

theorem writeWord_keeps (addr : Nat) (w : Nat) (s : State) (h : Keeps q n s) :
    Keeps q n (writeWord addr w s) := by
  unfold writeWord
  repeat' first
    | with_reducible assumption
    | with_reducible intro _
    | with_reducible apply keeps_parts
    | with_reducible apply writeField_keeps
    | with_reducible apply ite_keeps
    | with_reducible apply foldl_keeps
    | with_reducible apply foldl_pair_keeps
    | split
    | rw [keeps_mk_iff]
    | dsimp only

theorem agentWrite_keeps (shop : Nat) (addr : Nat) (w : Nat) (s : State) (h : Keeps q n s) :
    Keeps q n (agentWrite shop addr w s) := by
  unfold agentWrite
  repeat' first
    | with_reducible assumption
    | with_reducible intro _
    | with_reducible apply keeps_parts
    | with_reducible apply writeWord_keeps
    | with_reducible apply logEvent_keeps
    | with_reducible apply ite_keeps
    | with_reducible apply foldl_keeps
    | with_reducible apply foldl_pair_keeps
    | split
    | rw [keeps_mk_iff]
    | dsimp only

theorem execCsrWrite_keeps (m : CmdMeta) (addr : Nat) (count : Nat) (words : List Nat) (s : State) (h : Keeps q n s) :
    Answers q n (execCsrWrite m addr count words s) := by
  unfold execCsrWrite
  repeat' first
    | with_reducible assumption
    | with_reducible intro _
    | with_reducible apply keeps_parts
    | with_reducible apply command_keeps
    | with_reducible apply refuse_keeps
    | with_reducible apply done_keeps
    | with_reducible apply agentWrite_keeps
    | with_reducible apply answers_next
    | with_reducible apply answers_fault
    | with_reducible apply answers_refused
    | with_reducible apply ite_answers
    | with_reducible apply ite_keeps
    | with_reducible apply foldl_keeps
    | with_reducible apply foldl_pair_keeps
    | split
    | rw [keeps_mk_iff]
    | dsimp only

theorem execDevBlockState_keeps (m : CmdMeta) (addr : Nat) (s : State) (h : Keeps q n s) :
    Answers q n (execDevBlockState m addr s) := by
  unfold execDevBlockState
  repeat' first
    | with_reducible assumption
    | with_reducible intro _
    | with_reducible apply keeps_parts
    | with_reducible apply command_keeps
    | with_reducible apply refuse_keeps
    | with_reducible apply answer_keeps
    | with_reducible apply answers_next
    | with_reducible apply answers_fault
    | with_reducible apply answers_refused
    | with_reducible apply ite_answers
    | with_reducible apply ite_keeps
    | with_reducible apply foldl_keeps
    | with_reducible apply foldl_pair_keeps
    | split
    | rw [keeps_mk_iff]
    | dsimp only

theorem execHeartbeat_keeps (s : State) (h : Keeps q n s) :
    Answers q n (execHeartbeat s) := by
  unfold execHeartbeat
  repeat' first
    | with_reducible assumption
    | with_reducible intro _
    | with_reducible apply keeps_parts
    | with_reducible apply advanceTo_keeps
    | with_reducible apply answers_next
    | with_reducible apply answers_fault
    | with_reducible apply answers_refused
    | with_reducible apply ite_answers
    | with_reducible apply ite_keeps
    | with_reducible apply foldl_keeps
    | with_reducible apply foldl_pair_keeps
    | split
    | rw [keeps_mk_iff]
    | dsimp only

theorem failStarted_keeps (s : State) (h : Keeps q n s) :
    Keeps q n (failStarted s) := by
  unfold failStarted
  repeat' first
    | with_reducible assumption
    | with_reducible intro _
    | with_reducible apply keeps_parts
    | with_reducible apply finish_keeps
    | with_reducible apply answer_keeps
    | with_reducible apply ite_keeps
    | with_reducible apply foldl_keeps
    | with_reducible apply foldl_pair_keeps
    | split
    | rw [keeps_mk_iff]
    | dsimp only

theorem orphanShort_keeps (s : State) (h : Keeps q n s) :
    Keeps q n (orphanShort s) := by
  unfold orphanShort
  repeat' first
    | with_reducible assumption
    | with_reducible intro _
    | with_reducible apply keeps_parts
    | with_reducible apply ite_keeps
    | with_reducible apply foldl_keeps
    | with_reducible apply foldl_pair_keeps
    | split
    | rw [keeps_mk_iff]
    | dsimp only

theorem takeOver_keeps (s : State) (h : Keeps q n s) :
    Keeps q n (takeOver s) := by
  unfold takeOver
  repeat' first
    | with_reducible assumption
    | with_reducible intro _
    | with_reducible apply keeps_parts
    | with_reducible apply useFree_keeps
    | with_reducible apply logEvent_keeps
    | with_reducible apply setReg_keeps
    | with_reducible apply incReg_keeps
    | with_reducible apply markFlag_keeps
    | with_reducible apply orphanShort_keeps
    | with_reducible apply failStarted_keeps
    | with_reducible apply ite_keeps
    | with_reducible apply foldl_keeps
    | with_reducible apply foldl_pair_keeps
    | split
    | rw [keeps_mk_iff]
    | dsimp only

theorem dropLinks_keeps (s : State) (h : Keeps q n s) :
    Keeps q n (dropLinks s) := by
  unfold dropLinks
  repeat' first
    | with_reducible assumption
    | with_reducible intro _
    | with_reducible apply keeps_parts
    | with_reducible apply powerDown_keeps
    | with_reducible apply leaveLink_keeps
    | with_reducible apply ite_keeps
    | with_reducible apply foldl_keeps
    | with_reducible apply foldl_pair_keeps
    | split
    | rw [keeps_mk_iff]
    | dsimp only

theorem execCoreTakeover_keeps (s : State) (h : Keeps q n s) :
    Answers q n (execCoreTakeover s) := by
  unfold execCoreTakeover
  repeat' first
    | with_reducible assumption
    | with_reducible intro _
    | with_reducible apply keeps_parts
    | with_reducible apply advanceTo_keeps
    | with_reducible apply useFree_keeps
    | with_reducible apply logEvent_keeps
    | with_reducible apply dropLinks_keeps
    | with_reducible apply assertFault_keeps
    | with_reducible apply takeOver_keeps
    | with_reducible apply answers_next
    | with_reducible apply answers_fault
    | with_reducible apply answers_refused
    | with_reducible apply ite_answers
    | with_reducible apply ite_keeps
    | with_reducible apply foldl_keeps
    | with_reducible apply foldl_pair_keeps
    | split
    | rw [keeps_mk_iff]
    | dsimp only

theorem execStandbyCoreReady_keeps (pass : Bool) (s : State) (h : Keeps q n s) :
    Answers q n (execStandbyCoreReady pass s) := by
  unfold execStandbyCoreReady
  repeat' first
    | with_reducible assumption
    | with_reducible intro _
    | with_reducible apply keeps_parts
    | with_reducible apply setReg_keeps
    | with_reducible apply answers_next
    | with_reducible apply answers_fault
    | with_reducible apply answers_refused
    | with_reducible apply ite_answers
    | with_reducible apply ite_keeps
    | with_reducible apply foldl_keeps
    | with_reducible apply foldl_pair_keeps
    | split
    | rw [keeps_mk_iff]
    | dsimp only

end Sys2Proof.Machine
end

