-- ==== Sys2Proof/Laws/KeepSideband.lean ====
section
/-! SUPPORT. What the operations of Machine/Sideband.lean keep: the queue, the clock and the canonical form of HBM and the registers. -/
namespace Sys2Proof.Machine

variable {q : List Instr} {n : Nat}

theorem execSbSnapshotRefresh_keeps (s : State) (h : Keeps q n s) :
    Answers q n (execSbSnapshotRefresh s) := by
  unfold execSbSnapshotRefresh
  repeat' first
    | with_reducible assumption
    | with_reducible intro _
    | with_reducible apply keeps_parts
    | with_reducible apply advanceTo_keeps
    | with_reducible apply answers_next
    | with_reducible apply answers_fault
    | with_reducible apply answers_refused
    | with_reducible apply ite_answers
    | with_reducible apply ite_keeps
    | with_reducible apply foldl_keeps
    | with_reducible apply foldl_pair_keeps
    | split
    | rw [keeps_mk_iff]
    | dsimp only

theorem sbRead_keeps (code : Nat) (b : List Byte) (s : State) (h : Keeps q n s) :
    Keeps q n (sbRead code b s) := by
  unfold sbRead
  repeat' first
    | with_reducible assumption
    | with_reducible intro _
    | with_reducible apply keeps_parts
    | with_reducible apply emit_keeps
    | with_reducible apply incReg_keeps
    | with_reducible apply ite_keeps
    | with_reducible apply foldl_keeps
    | with_reducible apply foldl_pair_keeps
    | split
    | rw [keeps_mk_iff]
    | dsimp only

theorem sbSnapRead_keeps (code : Nat) (off : Nat) (x2 : Nat) (s : State) (h : Keeps q n s) :
    Answers q n (sbSnapRead code off x2 s) := by
  unfold sbSnapRead
  repeat' first
    | with_reducible assumption
    | with_reducible intro _
    | with_reducible apply keeps_parts
    | with_reducible apply sbRead_keeps
    | with_reducible apply answers_next
    | with_reducible apply answers_fault
    | with_reducible apply answers_refused
    | with_reducible apply ite_answers
    | with_reducible apply ite_keeps
    | with_reducible apply foldl_keeps
    | with_reducible apply foldl_pair_keeps
    | split
    | rw [keeps_mk_iff]
    | dsimp only

theorem sbWrite_keeps (code : Nat) (data : List Byte) (pec : Nat) (k : State → Nat × State) (s : State)
    (hk : ∀ s, Keeps q n s → Keeps q n (k s).2) (h : Keeps q n s) : Answers q n (sbWrite code data pec k s) := by
  unfold sbWrite
  refine answers_next (ite_keeps h ?_)
  have h1 := setReg_keeps .sbLastCmd 0 code _ (incReg_keeps .sbWriteCnt 0 s h)
  refine ite_keeps (setReg_keeps _ _ _ _ (incReg_keeps _ _ _ h1)) ?_
  have h2 := hk _ h1
  revert h2
  generalize k _ = x
  intro h2
  exact setReg_keeps _ _ _ _ (ite_keeps (incReg_keeps _ _ _ h2) h2)

theorem setGroup_keeps (g : Nat) (s : State) (h : Keeps q n s) :
    Keeps q n (setGroup g s).2 := by
  unfold setGroup
  repeat' first
    | with_reducible assumption
    | with_reducible intro _
    | with_reducible apply keeps_parts
    | with_reducible apply settleSlots_keeps
    | with_reducible apply ite_keeps
    | with_reducible apply foldl_keeps
    | with_reducible apply foldl_pair_keeps
    | split
    | rw [keeps_mk_iff]
    | dsimp only

theorem setGroup_keeps_eq {g : Nat} {s : State} {v : Nat} {t : State} (e : setGroup g s = (v, t)) (h : Keeps q n s) : Keeps q n t := by
  have h := setGroup_keeps g s h (q := q) (n := n)
  rw [e] at h; exact h

theorem offerCount_keeps (x0 : Nat) (l : Nat) (s : State) (h : Keeps q n s) :
    Keeps q n (offerCount x0 l s) := by
  unfold offerCount
  repeat' first
    | with_reducible assumption
    | with_reducible intro _
    | with_reducible apply keeps_parts
    | with_reducible apply modLink_keeps
    | with_reducible apply adoptCount_keeps
    | with_reducible apply ite_keeps
    | with_reducible apply foldl_keeps
    | with_reducible apply foldl_pair_keeps
    | split
    | rw [keeps_mk_iff]
    | dsimp only

theorem setCount_keeps (k : Nat) (s : State) (h : Keeps q n s) : Keeps q n (setCount k s).2 := by
  have hl : ∀ (f : Nat → LinkPart → LinkPart) (s : State), Keeps q n s →
      Keeps q n ((List.range 9).foldl (fun s i => modLink (39 + i) (f i) s) s) :=
    fun f s h => foldl_keeps _ (fun s i h => modLink_keeps _ _ s h) _ s h
  unfold setCount
  simp only [apply_ite Prod.snd]
  refine ite_keeps h (ite_keeps (settleSlots_keeps _ (keeps_parts h)) (ite_keeps ?_ ?_))
  · exact hl (fun _ k => { k with expectCnt := 0, pendingCnt := none }) _ h
  · exact foldl_keeps _ (fun s i h => offerCount_keeps _ _ s h) _ _ (hl (fun _ p => { p with pendingCnt := some k }) _ h)

theorem setCount_keeps_eq {k : Nat} {s t : State} {v : Nat} (e : setCount k s = (v, t)) (h : Keeps q n s) : Keeps q n t := by
  have := setCount_keeps k s h; rw [e] at this; exact this

theorem execSbGroupSet_keeps (data : List Byte) (pec : Nat) (s : State) (h : Keeps q n s) :
    Answers q n (execSbGroupSet data pec s) := by
  unfold execSbGroupSet
  repeat' first
    | with_reducible assumption
    | with_reducible intro _
    | with_reducible apply keeps_parts
    | with_reducible apply sbWrite_keeps
    | with_reducible apply setGroup_keeps
    | with_reducible refine setGroup_keeps_eq (by assumption) ?_
    | with_reducible apply answers_next
    | with_reducible apply answers_fault
    | with_reducible apply answers_refused
    | with_reducible apply ite_answers
    | with_reducible apply ite_keeps
    | with_reducible apply foldl_keeps
    | with_reducible apply foldl_pair_keeps
    | split
    | rw [keeps_mk_iff]
    | dsimp only

theorem execSbCountSet_keeps (data : List Byte) (pec : Nat) (s : State) (h : Keeps q n s) :
    Answers q n (execSbCountSet data pec s) := by
  unfold execSbCountSet
  repeat' first
    | with_reducible assumption
    | with_reducible intro _
    | with_reducible apply keeps_parts
    | with_reducible apply sbWrite_keeps
    | with_reducible apply setCount_keeps
    | with_reducible refine setCount_keeps_eq (by assumption) ?_
    | with_reducible apply answers_next
    | with_reducible apply answers_fault
    | with_reducible apply answers_refused
    | with_reducible apply ite_answers
    | with_reducible apply ite_keeps
    | with_reducible apply foldl_keeps
    | with_reducible apply foldl_pair_keeps
    | split
    | rw [keeps_mk_iff]
    | dsimp only

theorem execSbIdentify_keeps (s : State) (h : Keeps q n s) :
    Answers q n (execSbIdentify s) := by
  unfold execSbIdentify
  repeat' first
    | with_reducible assumption
    | with_reducible intro _
    | with_reducible apply keeps_parts
    | with_reducible apply sbSnapRead_keeps
    | with_reducible apply answers_next
    | with_reducible apply answers_fault
    | with_reducible apply answers_refused
    | with_reducible apply ite_answers
    | with_reducible apply ite_keeps
    | with_reducible apply foldl_keeps
    | with_reducible apply foldl_pair_keeps
    | split
    | rw [keeps_mk_iff]
    | dsimp only

theorem execSbCoord_keeps (s : State) (h : Keeps q n s) :
    Answers q n (execSbCoord s) := by
  unfold execSbCoord
  repeat' first
    | with_reducible assumption
    | with_reducible intro _
    | with_reducible apply keeps_parts
    | with_reducible apply sbSnapRead_keeps
    | with_reducible apply answers_next
    | with_reducible apply answers_fault
    | with_reducible apply answers_refused
    | with_reducible apply ite_answers
    | with_reducible apply ite_keeps
    | with_reducible apply foldl_keeps
    | with_reducible apply foldl_pair_keeps
    | split
    | rw [keeps_mk_iff]
    | dsimp only

theorem execSbHealth_keeps (s : State) (h : Keeps q n s) :
    Answers q n (execSbHealth s) := by
  unfold execSbHealth
  repeat' first
    | with_reducible assumption
    | with_reducible intro _
    | with_reducible apply keeps_parts
    | with_reducible apply sbSnapRead_keeps
    | with_reducible apply answers_next
    | with_reducible apply answers_fault
    | with_reducible apply answers_refused
    | with_reducible apply ite_answers
    | with_reducible apply ite_keeps
    | with_reducible apply foldl_keeps
    | with_reducible apply foldl_pair_keeps
    | split
    | rw [keeps_mk_iff]
    | dsimp only

theorem execSbShakeout_keeps (s : State) (h : Keeps q n s) :
    Answers q n (execSbShakeout s) := by
  unfold execSbShakeout
  repeat' first
    | with_reducible assumption
    | with_reducible intro _
    | with_reducible apply keeps_parts
    | with_reducible apply sbSnapRead_keeps
    | with_reducible apply answers_next
    | with_reducible apply answers_fault
    | with_reducible apply answers_refused
    | with_reducible apply ite_answers
    | with_reducible apply ite_keeps
    | with_reducible apply foldl_keeps
    | with_reducible apply foldl_pair_keeps
    | split
    | rw [keeps_mk_iff]
    | dsimp only

theorem execSbAssay_keeps (s : State) (h : Keeps q n s) :
    Answers q n (execSbAssay s) := by
  unfold execSbAssay
  repeat' first
    | with_reducible assumption
    | with_reducible intro _
    | with_reducible apply keeps_parts
    | with_reducible apply sbSnapRead_keeps
    | with_reducible apply answers_next
    | with_reducible apply answers_fault
    | with_reducible apply answers_refused
    | with_reducible apply ite_answers
    | with_reducible apply ite_keeps
    | with_reducible apply foldl_keeps
    | with_reducible apply foldl_pair_keeps
    | split
    | rw [keeps_mk_iff]
    | dsimp only

theorem execSbStatus_keeps (s : State) (h : Keeps q n s) :
    Answers q n (execSbStatus s) := by
  unfold execSbStatus
  repeat' first
    | with_reducible assumption
    | with_reducible intro _
    | with_reducible apply keeps_parts
    | with_reducible apply sbRead_keeps
    | with_reducible apply answers_next
    | with_reducible apply answers_fault
    | with_reducible apply answers_refused
    | with_reducible apply ite_answers
    | with_reducible apply ite_keeps
    | with_reducible apply foldl_keeps
    | with_reducible apply foldl_pair_keeps
    | split
    | rw [keeps_mk_iff]
    | dsimp only

theorem execSbUndefinedCode_keeps (code : Nat) (write : Bool) (data : List Byte) (pec : Nat) (s : State) (h : Keeps q n s) :
    Answers q n (execSbUndefinedCode code write data pec s) := by
  unfold execSbUndefinedCode
  repeat' first
    | with_reducible assumption
    | with_reducible intro _
    | with_reducible apply keeps_parts
    | with_reducible apply sbWrite_keeps
    | with_reducible apply setReg_keeps
    | with_reducible apply sbRead_keeps
    | with_reducible apply answers_next
    | with_reducible apply answers_fault
    | with_reducible apply answers_refused
    | with_reducible apply ite_answers
    | with_reducible apply ite_keeps
    | with_reducible apply foldl_keeps
    | with_reducible apply foldl_pair_keeps
    | split
    | rw [keeps_mk_iff]
    | dsimp only

theorem setJtag_keeps (x0 : Nat) (s : State) (h : Keeps q n s) :
    Keeps q n (setJtag x0 s) := by
  unfold setJtag
  repeat' first
    | with_reducible assumption
    | with_reducible intro _
    | with_reducible apply keeps_parts
    | with_reducible apply ite_keeps
    | with_reducible apply foldl_keeps
    | with_reducible apply foldl_pair_keeps
    | split
    | rw [keeps_mk_iff]
    | dsimp only

theorem jtagBypass_keeps (s : State) (h : Keeps q n s) :
    Keeps q n (jtagBypass s) := by
  unfold jtagBypass
  repeat' first
    | with_reducible assumption
    | with_reducible intro _
    | with_reducible apply keeps_parts
    | with_reducible apply emit_keeps
    | with_reducible apply ite_keeps
    | with_reducible apply foldl_keeps
    | with_reducible apply foldl_pair_keeps
    | split
    | rw [keeps_mk_iff]
    | dsimp only

theorem execBypass_keeps (s : State) (h : Keeps q n s) :
    Answers q n (execBypass s) := by
  unfold execBypass
  repeat' first
    | with_reducible assumption
    | with_reducible intro _
    | with_reducible apply keeps_parts
    | with_reducible apply jtagBypass_keeps
    | with_reducible apply setJtag_keeps
    | with_reducible apply answers_next
    | with_reducible apply answers_fault
    | with_reducible apply answers_refused
    | with_reducible apply ite_answers
    | with_reducible apply ite_keeps
    | with_reducible apply foldl_keeps
    | with_reducible apply foldl_pair_keeps
    | split
    | rw [keeps_mk_iff]
    | dsimp only

theorem execIdcode_keeps (s : State) (h : Keeps q n s) :
    Answers q n (execIdcode s) := by
  unfold execIdcode
  repeat' first
    | with_reducible assumption
    | with_reducible intro _
    | with_reducible apply keeps_parts
    | with_reducible apply emit_keeps
    | with_reducible apply setJtag_keeps
    | with_reducible apply answers_next
    | with_reducible apply answers_fault
    | with_reducible apply answers_refused
    | with_reducible apply ite_answers
    | with_reducible apply ite_keeps
    | with_reducible apply foldl_keeps
    | with_reducible apply foldl_pair_keeps
    | split
    | rw [keeps_mk_iff]
    | dsimp only

theorem captureBoundary_keeps (s : State) (h : Keeps q n s) :
    Keeps q n (captureBoundary s) := by
  unfold captureBoundary
  repeat' first
    | with_reducible assumption
    | with_reducible intro _
    | with_reducible apply keeps_parts
    | with_reducible apply useFree_keeps
    | with_reducible apply emit_keeps
    | with_reducible apply ite_keeps
    | with_reducible apply foldl_keeps
    | with_reducible apply foldl_pair_keeps
    | split
    | rw [keeps_mk_iff]
    | dsimp only

theorem execSamplePreload_keeps (bits : Nat) (s : State) (h : Keeps q n s) :
    Answers q n (execSamplePreload bits s) := by
  unfold execSamplePreload
  repeat' first
    | with_reducible assumption
    | with_reducible intro _
    | with_reducible apply keeps_parts
    | with_reducible apply captureBoundary_keeps
    | with_reducible apply setJtag_keeps
    | with_reducible apply answers_next
    | with_reducible apply answers_fault
    | with_reducible apply answers_refused
    | with_reducible apply ite_answers
    | with_reducible apply ite_keeps
    | with_reducible apply foldl_keeps
    | with_reducible apply foldl_pair_keeps
    | split
    | rw [keeps_mk_iff]
    | dsimp only

theorem execExtest_keeps (s : State) (h : Keeps q n s) :
    Answers q n (execExtest s) := by
  unfold execExtest
  repeat' first
    | with_reducible assumption
    | with_reducible intro _
    | with_reducible apply keeps_parts
    | with_reducible apply setJtag_keeps
    | with_reducible apply jtagBypass_keeps
    | with_reducible apply captureBoundary_keeps
    | with_reducible apply answers_next
    | with_reducible apply answers_fault
    | with_reducible apply answers_refused
    | with_reducible apply ite_answers
    | with_reducible apply ite_keeps
    | with_reducible apply foldl_keeps
    | with_reducible apply foldl_pair_keeps
    | split
    | rw [keeps_mk_iff]
    | dsimp only

theorem execClamp_keeps (s : State) (h : Keeps q n s) :
    Answers q n (execClamp s) := by
  unfold execClamp
  repeat' first
    | with_reducible assumption
    | with_reducible intro _
    | with_reducible apply keeps_parts
    | with_reducible apply jtagBypass_keeps
    | with_reducible apply setJtag_keeps
    | with_reducible apply answers_next
    | with_reducible apply answers_fault
    | with_reducible apply answers_refused
    | with_reducible apply ite_answers
    | with_reducible apply ite_keeps
    | with_reducible apply foldl_keeps
    | with_reducible apply foldl_pair_keeps
    | split
    | rw [keeps_mk_iff]
    | dsimp only

theorem execHighz_keeps (s : State) (h : Keeps q n s) :
    Answers q n (execHighz s) := by
  unfold execHighz
  repeat' first
    | with_reducible assumption
    | with_reducible intro _
    | with_reducible apply keeps_parts
    | with_reducible apply jtagBypass_keeps
    | with_reducible apply setJtag_keeps
    | with_reducible apply answers_next
    | with_reducible apply answers_fault
    | with_reducible apply answers_refused
    | with_reducible apply ite_answers
    | with_reducible apply ite_keeps
    | with_reducible apply foldl_keeps
    | with_reducible apply foldl_pair_keeps
    | split
    | rw [keeps_mk_iff]
    | dsimp only

end Sys2Proof.Machine
end

