-- ==== Sys2Proof/Laws/KeepAssay.lean ====
section
/-! SUPPORT. What the operations of Machine/Assay.lean keep: the queue, the clock and the canonical form of HBM and the registers. -/
namespace Sys2Proof.Machine

variable {q : List Instr} {n : Nat}

theorem modLive_keeps (f : AssayNv → AssayNv) (s : State) (h : Keeps q n s) :
    Keeps q n (modLive f s) := by
  unfold modLive
  repeat' first
    | with_reducible assumption
    | with_reducible intro _
    | with_reducible apply keeps_parts
    | with_reducible apply ite_keeps
    | with_reducible apply foldl_keeps
    | with_reducible apply foldl_pair_keeps
    | split
    | rw [keeps_mk_iff]
    | dsimp only

theorem modChan_keeps (c : Nat) (f : AssayChan → AssayChan) (s : State) (h : Keeps q n s) :
    Keeps q n (modChan c f s) := by
  unfold modChan
  repeat' first
    | with_reducible assumption
    | with_reducible intro _
    | with_reducible apply keeps_parts
    | with_reducible apply modLive_keeps
    | with_reducible apply ite_keeps
    | with_reducible apply foldl_keeps
    | with_reducible apply foldl_pair_keeps
    | split
    | rw [keeps_mk_iff]
    | dsimp only

theorem execAssaySample_keeps (channel : Nat) (volts : Nat) (amps : ℤ) (s : State) (h : Keeps q n s) :
    Answers q n (execAssaySample channel volts amps s) := by
  unfold execAssaySample
  repeat' first
    | with_reducible assumption
    | with_reducible intro _
    | with_reducible apply keeps_parts
    | with_reducible apply onUnit_keeps
    | with_reducible apply modChan_keeps
    | with_reducible apply answers_next
    | with_reducible apply answers_fault
    | with_reducible apply answers_refused
    | with_reducible apply ite_answers
    | with_reducible apply ite_keeps
    | with_reducible apply foldl_keeps
    | with_reducible apply foldl_pair_keeps
    | split
    | rw [keeps_mk_iff]
    | dsimp only

theorem commitNv_keeps (s : State) (h : Keeps q n s) :
    Keeps q n (commitNv s) := by
  unfold commitNv
  repeat' first
    | with_reducible assumption
    | with_reducible intro _
    | with_reducible apply keeps_parts
    | with_reducible apply ite_keeps
    | with_reducible apply foldl_keeps
    | with_reducible apply foldl_pair_keeps
    | split
    | rw [keeps_mk_iff]
    | dsimp only

theorem execAssayNvCommit_keeps (s : State) (h : Keeps q n s) :
    Answers q n (execAssayNvCommit s) := by
  unfold execAssayNvCommit
  repeat' first
    | with_reducible assumption
    | with_reducible intro _
    | with_reducible apply keeps_parts
    | with_reducible apply advanceTo_keeps
    | with_reducible apply modLive_keeps
    | with_reducible apply commitNv_keeps
    | with_reducible apply answers_next
    | with_reducible apply answers_fault
    | with_reducible apply answers_refused
    | with_reducible apply ite_answers
    | with_reducible apply ite_keeps
    | with_reducible apply foldl_keeps
    | with_reducible apply foldl_pair_keeps
    | split
    | rw [keeps_mk_iff]
    | dsimp only

theorem execAssayVddGood_keeps (straps : Nat) (s : State) (h : Keeps q n s) :
    Answers q n (execAssayVddGood straps s) := by
  unfold execAssayVddGood
  repeat' first
    | with_reducible assumption
    | with_reducible intro _
    | with_reducible apply keeps_parts
    | with_reducible apply answers_next
    | with_reducible apply answers_fault
    | with_reducible apply answers_refused
    | with_reducible apply ite_answers
    | with_reducible apply ite_keeps
    | with_reducible apply foldl_keeps
    | with_reducible apply foldl_pair_keeps
    | split
    | rw [keeps_mk_iff]
    | dsimp only

theorem execAssayVddFalling_keeps (s : State) (h : Keeps q n s) :
    Answers q n (execAssayVddFalling s) := by
  unfold execAssayVddFalling
  repeat' first
    | with_reducible assumption
    | with_reducible intro _
    | with_reducible apply keeps_parts
    | with_reducible apply commitNv_keeps
    | with_reducible apply answers_next
    | with_reducible apply answers_fault
    | with_reducible apply answers_refused
    | with_reducible apply ite_answers
    | with_reducible apply ite_keeps
    | with_reducible apply foldl_keeps
    | with_reducible apply foldl_pair_keeps
    | split
    | rw [keeps_mk_iff]
    | dsimp only

theorem execSealOpenChange_keeps (isOpen : Bool) (s : State) (h : Keeps q n s) :
    Answers q n (execSealOpenChange isOpen s) := by
  unfold execSealOpenChange
  repeat' first
    | with_reducible assumption
    | with_reducible intro _
    | with_reducible apply keeps_parts
    | with_reducible apply answers_next
    | with_reducible apply answers_fault
    | with_reducible apply answers_refused
    | with_reducible apply ite_answers
    | with_reducible apply ite_keeps
    | with_reducible apply foldl_keeps
    | with_reducible apply foldl_pair_keeps
    | split
    | rw [keeps_mk_iff]
    | dsimp only

theorem asStatus_keeps (st : Nat) (s : State) (h : Keeps q n s) :
    Keeps q n (asStatus st s) := by
  unfold asStatus
  repeat' first
    | with_reducible assumption
    | with_reducible intro _
    | with_reducible apply keeps_parts
    | with_reducible apply ite_keeps
    | with_reducible apply foldl_keeps
    | with_reducible apply foldl_pair_keeps
    | split
    | rw [keeps_mk_iff]
    | dsimp only

theorem asBlock_keeps (code : Nat) (b : List Byte) (s : State) (h : Keeps q n s) :
    Keeps q n (asBlock code b s) := by
  unfold asBlock
  repeat' first
    | with_reducible assumption
    | with_reducible intro _
    | with_reducible apply keeps_parts
    | with_reducible apply emit_keeps
    | with_reducible apply ite_keeps
    | with_reducible apply foldl_keeps
    | with_reducible apply foldl_pair_keeps
    | split
    | rw [keeps_mk_iff]
    | dsimp only

theorem asRead_keeps (code : Nat) (b : State → List Byte) (s : State) (h : Keeps q n s) :
    Answers q n (asRead code b s) := by
  unfold asRead
  repeat' first
    | with_reducible assumption
    | with_reducible intro _
    | with_reducible apply keeps_parts
    | with_reducible apply asBlock_keeps
    | with_reducible apply answers_next
    | with_reducible apply answers_fault
    | with_reducible apply answers_refused
    | with_reducible apply ite_answers
    | with_reducible apply ite_keeps
    | with_reducible apply foldl_keeps
    | with_reducible apply foldl_pair_keeps
    | split
    | rw [keeps_mk_iff]
    | dsimp only

theorem asWrite_keeps (code : Nat) (data : List Byte) (pec : Nat) (x3 : State → State) (s : State) (hx3 : ∀ a0, Keeps q n a0 → Keeps q n (x3 a0)) (h : Keeps q n s) :
    Answers q n (asWrite code data pec x3 s) := by
  unfold asWrite
  repeat' first
    | with_reducible assumption
    | with_reducible intro _
    | with_reducible apply keeps_parts
    | with_reducible apply hx3
    | with_reducible apply asStatus_keeps
    | with_reducible apply answers_next
    | with_reducible apply answers_fault
    | with_reducible apply answers_refused
    | with_reducible apply ite_answers
    | with_reducible apply ite_keeps
    | with_reducible apply foldl_keeps
    | with_reducible apply foldl_pair_keeps
    | split
    | rw [keeps_mk_iff]
    | dsimp only

theorem execAsIdent_keeps (s : State) (h : Keeps q n s) :
    Answers q n (execAsIdent s) := by
  unfold execAsIdent
  repeat' first
    | with_reducible assumption
    | with_reducible intro _
    | with_reducible apply keeps_parts
    | with_reducible apply asRead_keeps
    | with_reducible apply answers_next
    | with_reducible apply answers_fault
    | with_reducible apply answers_refused
    | with_reducible apply ite_answers
    | with_reducible apply ite_keeps
    | with_reducible apply foldl_keeps
    | with_reducible apply foldl_pair_keeps
    | split
    | rw [keeps_mk_iff]
    | dsimp only

theorem execAsSign_keeps (channel : Nat) (nonce : List Byte) (pec : Nat) (s : State) (h : Keeps q n s) :
    Answers q n (execAsSign channel nonce pec s) := by
  unfold execAsSign
  repeat' first
    | with_reducible assumption
    | with_reducible intro _
    | with_reducible apply keeps_parts
    | with_reducible apply asWrite_keeps
    | with_reducible apply asStatus_keeps
    | with_reducible apply answers_next
    | with_reducible apply answers_fault
    | with_reducible apply answers_refused
    | with_reducible apply ite_answers
    | with_reducible apply ite_keeps
    | with_reducible apply foldl_keeps
    | with_reducible apply foldl_pair_keeps
    | split
    | rw [keeps_mk_iff]
    | dsimp only

theorem execAsSignedReadingReady_keeps (s : State) (h : Keeps q n s) :
    Answers q n (execAsSignedReadingReady s) := by
  unfold execAsSignedReadingReady
  repeat' first
    | with_reducible assumption
    | with_reducible intro _
    | with_reducible apply keeps_parts
    | with_reducible apply answers_next
    | with_reducible apply answers_fault
    | with_reducible apply answers_refused
    | with_reducible apply ite_answers
    | with_reducible apply ite_keeps
    | with_reducible apply foldl_keeps
    | with_reducible apply foldl_pair_keeps
    | split
    | rw [keeps_mk_iff]
    | dsimp only

theorem execAsReading_keeps (s : State) (h : Keeps q n s) :
    Answers q n (execAsReading s) := by
  unfold execAsReading
  repeat' first
    | with_reducible assumption
    | with_reducible intro _
    | with_reducible apply keeps_parts
    | with_reducible apply asStatus_keeps
    | with_reducible apply asBlock_keeps
    | with_reducible apply answers_next
    | with_reducible apply answers_fault
    | with_reducible apply answers_refused
    | with_reducible apply ite_answers
    | with_reducible apply ite_keeps
    | with_reducible apply foldl_keeps
    | with_reducible apply foldl_pair_keeps
    | split
    | rw [keeps_mk_iff]
    | dsimp only

theorem execAsParam_keeps (param : Nat) (channel : Nat) (pec : Nat) (s : State) (h : Keeps q n s) :
    Answers q n (execAsParam param channel pec s) := by
  unfold execAsParam
  repeat' first
    | with_reducible assumption
    | with_reducible intro _
    | with_reducible apply keeps_parts
    | with_reducible apply asWrite_keeps
    | with_reducible apply asStatus_keeps
    | with_reducible apply asBlock_keeps
    | with_reducible apply answers_next
    | with_reducible apply answers_fault
    | with_reducible apply answers_refused
    | with_reducible apply ite_answers
    | with_reducible apply ite_keeps
    | with_reducible apply foldl_keeps
    | with_reducible apply foldl_pair_keeps
    | split
    | rw [keeps_mk_iff]
    | dsimp only

theorem execAsTrail_keeps (index : Nat) (pec : Nat) (s : State) (h : Keeps q n s) :
    Answers q n (execAsTrail index pec s) := by
  unfold execAsTrail
  repeat' first
    | with_reducible assumption
    | with_reducible intro _
    | with_reducible apply keeps_parts
    | with_reducible apply asWrite_keeps
    | with_reducible apply asStatus_keeps
    | with_reducible apply asBlock_keeps
    | with_reducible apply answers_next
    | with_reducible apply answers_fault
    | with_reducible apply answers_refused
    | with_reducible apply ite_answers
    | with_reducible apply ite_keeps
    | with_reducible apply foldl_keeps
    | with_reducible apply foldl_pair_keeps
    | split
    | rw [keeps_mk_iff]
    | dsimp only

theorem execAsCert_keeps (s : State) (h : Keeps q n s) :
    Answers q n (execAsCert s) := by
  unfold execAsCert
  repeat' first
    | with_reducible assumption
    | with_reducible intro _
    | with_reducible apply keeps_parts
    | with_reducible apply asRead_keeps
    | with_reducible apply answers_next
    | with_reducible apply answers_fault
    | with_reducible apply answers_refused
    | with_reducible apply ite_answers
    | with_reducible apply ite_keeps
    | with_reducible apply foldl_keeps
    | with_reducible apply foldl_pair_keeps
    | split
    | rw [keeps_mk_iff]
    | dsimp only

theorem commitChange_keeps (b : List Byte) (s : State) (h : Keeps q n s) :
    Keeps q n (commitChange b s) := by
  unfold commitChange
  repeat' first
    | with_reducible assumption
    | with_reducible intro _
    | with_reducible apply keeps_parts
    | with_reducible apply modChan_keeps
    | with_reducible apply commitNv_keeps
    | with_reducible apply modLive_keeps
    | with_reducible apply ite_keeps
    | with_reducible apply foldl_keeps
    | with_reducible apply foldl_pair_keeps
    | split
    | rw [keeps_mk_iff]
    | dsimp only

theorem execAsChange_keeps (block : List Byte) (pec : Nat) (s : State) (h : Keeps q n s) :
    Answers q n (execAsChange block pec s) := by
  unfold execAsChange
  repeat' first
    | with_reducible assumption
    | with_reducible intro _
    | with_reducible apply keeps_parts
    | with_reducible apply asWrite_keeps
    | with_reducible apply asStatus_keeps
    | with_reducible apply commitChange_keeps
    | with_reducible apply answers_next
    | with_reducible apply answers_fault
    | with_reducible apply answers_refused
    | with_reducible apply ite_answers
    | with_reducible apply ite_keeps
    | with_reducible apply foldl_keeps
    | with_reducible apply foldl_pair_keeps
    | split
    | rw [keeps_mk_iff]
    | dsimp only

theorem execAsStatus_keeps (s : State) (h : Keeps q n s) :
    Answers q n (execAsStatus s) := by
  unfold execAsStatus
  repeat' first
    | with_reducible assumption
    | with_reducible intro _
    | with_reducible apply keeps_parts
    | with_reducible apply asRead_keeps
    | with_reducible apply answers_next
    | with_reducible apply answers_fault
    | with_reducible apply answers_refused
    | with_reducible apply ite_answers
    | with_reducible apply ite_keeps
    | with_reducible apply foldl_keeps
    | with_reducible apply foldl_pair_keeps
    | split
    | rw [keeps_mk_iff]
    | dsimp only

theorem execAsUndefinedCode_keeps (code : Nat) (write : Bool) (s : State) (h : Keeps q n s) :
    Answers q n (execAsUndefinedCode code write s) := by
  unfold execAsUndefinedCode
  repeat' first
    | with_reducible assumption
    | with_reducible intro _
    | with_reducible apply keeps_parts
    | with_reducible apply asStatus_keeps
    | with_reducible apply asBlock_keeps
    | with_reducible apply answers_next
    | with_reducible apply answers_fault
    | with_reducible apply answers_refused
    | with_reducible apply ite_answers
    | with_reducible apply ite_keeps
    | with_reducible apply foldl_keeps
    | with_reducible apply foldl_pair_keeps
    | split
    | rw [keeps_mk_iff]
    | dsimp only

theorem sendAssayFrame_keeps (s : State) (h : Keeps q n s) :
    Keeps q n (sendAssayFrame s) := by
  unfold sendAssayFrame
  repeat' first
    | with_reducible assumption
    | with_reducible intro _
    | with_reducible apply keeps_parts
    | with_reducible apply emit_keeps
    | with_reducible apply modChan_keeps
    | with_reducible apply ite_keeps
    | with_reducible apply foldl_keeps
    | with_reducible apply foldl_pair_keeps
    | split
    | rw [keeps_mk_iff]
    | dsimp only

theorem execAssayFrameSend_keeps (s : State) (h : Keeps q n s) :
    Answers q n (execAssayFrameSend s) := by
  unfold execAssayFrameSend
  repeat' first
    | with_reducible assumption
    | with_reducible intro _
    | with_reducible apply keeps_parts
    | with_reducible apply sendAssayFrame_keeps
    | with_reducible apply advance_keeps
    | with_reducible apply answers_next
    | with_reducible apply answers_fault
    | with_reducible apply answers_refused
    | with_reducible apply ite_answers
    | with_reducible apply ite_keeps
    | with_reducible apply foldl_keeps
    | with_reducible apply foldl_pair_keeps
    | split
    | rw [keeps_mk_iff]
    | dsimp only

theorem heatWeights_keeps (l : List Nat) (s : State) (h : Keeps q n s) : Keeps q n (heatWeights l s).2 := by
  induction l generalizing s with
  | nil => exact h
  | cons a r ih =>
    unfold heatWeights
    split
    · exact ih _ (useFree_keeps s h)
    · exact ih _ h

theorem heatWeights_keeps_eq {l : List Nat} {s t : State} {v : List (Nat × Nat)} (e : heatWeights l s = (v, t))
    (h : Keeps q n s) : Keeps q n t := by
  have := heatWeights_keeps l s h; rw [e] at this; exact this

theorem bookEnergy_keeps (heat : Nat) (mwh : Nat) (s : State) (h : Keeps q n s) :
    Keeps q n (bookEnergy heat mwh s) := by
  unfold bookEnergy
  repeat' first
    | with_reducible assumption
    | with_reducible intro _
    | with_reducible apply keeps_parts
    | with_reducible apply ite_keeps
    | with_reducible apply foldl_keeps
    | with_reducible apply foldl_pair_keeps
    | split
    | rw [keeps_mk_iff]
    | dsimp only

theorem bookShare_keeps (rise : Nat) (total : Nat) (x2 : Nat × Nat) (s : State) (h : Keeps q n s) :
    Keeps q n (bookShare rise total x2 s) := by
  unfold bookShare
  repeat' first
    | with_reducible assumption
    | with_reducible intro _
    | with_reducible apply keeps_parts
    | with_reducible apply bookEnergy_keeps
    | with_reducible apply useFree_keeps
    | with_reducible apply ite_keeps
    | with_reducible apply foldl_keeps
    | with_reducible apply foldl_pair_keeps
    | split
    | rw [keeps_mk_iff]
    | dsimp only

theorem attributeRise_keeps (rise : Nat) (s : State) (h : Keeps q n s) :
    Keeps q n (attributeRise rise s) := by
  unfold attributeRise
  repeat' first
    | with_reducible assumption
    | with_reducible intro _
    | with_reducible apply keeps_parts
    | with_reducible apply heatWeights_keeps
    | with_reducible refine heatWeights_keeps_eq (by assumption) ?_
    | with_reducible apply bookEnergy_keeps
    | with_reducible apply bookShare_keeps
    | with_reducible apply ite_keeps
    | with_reducible apply foldl_keeps
    | with_reducible apply foldl_pair_keeps
    | split
    | rw [keeps_mk_iff]
    | dsimp only

theorem takeFrameBytes_keeps (bytes : List Byte) (s : State) (h : Keeps q n s) :
    Keeps q n (takeFrameBytes bytes s) := by
  unfold takeFrameBytes
  repeat' first
    | with_reducible assumption
    | with_reducible intro _
    | with_reducible apply keeps_parts
    | with_reducible apply attributeRise_keeps
    | with_reducible apply setReg_keeps
    | with_reducible apply ite_keeps
    | with_reducible apply foldl_keeps
    | with_reducible apply foldl_pair_keeps
    | split
    | rw [keeps_mk_iff]
    | dsimp only

theorem execAssayFrame_keeps (bytes : List Byte) (s : State) (h : Keeps q n s) :
    Answers q n (execAssayFrame bytes s) := by
  unfold execAssayFrame
  repeat' first
    | with_reducible assumption
    | with_reducible intro _
    | with_reducible apply keeps_parts
    | with_reducible apply incReg_keeps
    | with_reducible apply takeFrameBytes_keeps
    | with_reducible apply answers_next
    | with_reducible apply answers_fault
    | with_reducible apply answers_refused
    | with_reducible apply ite_answers
    | with_reducible apply ite_keeps
    | with_reducible apply foldl_keeps
    | with_reducible apply foldl_pair_keeps
    | split
    | rw [keeps_mk_iff]
    | dsimp only

theorem execAssaySilent_keeps (s : State) (h : Keeps q n s) :
    Answers q n (execAssaySilent s) := by
  unfold execAssaySilent
  repeat' first
    | with_reducible assumption
    | with_reducible intro _
    | with_reducible apply keeps_parts
    | with_reducible apply advanceTo_keeps
    | with_reducible apply logEvent_keeps
    | with_reducible apply incReg_keeps
    | with_reducible apply setReg_keeps
    | with_reducible apply answers_next
    | with_reducible apply answers_fault
    | with_reducible apply answers_refused
    | with_reducible apply ite_answers
    | with_reducible apply ite_keeps
    | with_reducible apply foldl_keeps
    | with_reducible apply foldl_pair_keeps
    | split
    | rw [keeps_mk_iff]
    | dsimp only

theorem execAssayStatus_keeps (m : CmdMeta) (s : State) (h : Keeps q n s) :
    Answers q n (execAssayStatus m s) := by
  unfold execAssayStatus
  repeat' first
    | with_reducible assumption
    | with_reducible intro _
    | with_reducible apply keeps_parts
    | with_reducible apply command_keeps
    | with_reducible apply answer_keeps
    | with_reducible apply answers_next
    | with_reducible apply answers_fault
    | with_reducible apply answers_refused
    | with_reducible apply ite_answers
    | with_reducible apply ite_keeps
    | with_reducible apply foldl_keeps
    | with_reducible apply foldl_pair_keeps
    | split
    | rw [keeps_mk_iff]
    | dsimp only

theorem execAssayRead_keeps (m : CmdMeta) (channel : Nat) (s : State) (h : Keeps q n s) :
    Answers q n (execAssayRead m channel s) := by
  unfold execAssayRead
  repeat' first
    | with_reducible assumption
    | with_reducible intro _
    | with_reducible apply keeps_parts
    | with_reducible apply command_keeps
    | with_reducible apply refuse_keeps
    | with_reducible apply answer_keeps
    | with_reducible apply answers_next
    | with_reducible apply answers_fault
    | with_reducible apply answers_refused
    | with_reducible apply ite_answers
    | with_reducible apply ite_keeps
    | with_reducible apply foldl_keeps
    | with_reducible apply foldl_pair_keeps
    | split
    | rw [keeps_mk_iff]
    | dsimp only

theorem execAssayAttrib_keeps (m : CmdMeta) (heat : Nat) (s : State) (h : Keeps q n s) :
    Answers q n (execAssayAttrib m heat s) := by
  unfold execAssayAttrib
  repeat' first
    | with_reducible assumption
    | with_reducible intro _
    | with_reducible apply keeps_parts
    | with_reducible apply command_keeps
    | with_reducible apply refuse_keeps
    | with_reducible apply answer_keeps
    | with_reducible apply answers_next
    | with_reducible apply answers_fault
    | with_reducible apply answers_refused
    | with_reducible apply ite_answers
    | with_reducible apply ite_keeps
    | with_reducible apply foldl_keeps
    | with_reducible apply foldl_pair_keeps
    | split
    | rw [keeps_mk_iff]
    | dsimp only

theorem execAssayAttribList_keeps (m : CmdMeta) (first : Nat) (s : State) (h : Keeps q n s) :
    Answers q n (execAssayAttribList m first s) := by
  unfold execAssayAttribList
  repeat' first
    | with_reducible assumption
    | with_reducible intro _
    | with_reducible apply keeps_parts
    | with_reducible apply command_keeps
    | with_reducible apply requires_keeps
    | with_reducible apply answer_keeps
    | with_reducible apply answers_next
    | with_reducible apply answers_fault
    | with_reducible apply answers_refused
    | with_reducible apply ite_answers
    | with_reducible apply ite_keeps
    | with_reducible apply foldl_keeps
    | with_reducible apply foldl_pair_keeps
    | split
    | rw [keeps_mk_iff]
    | dsimp only

end Sys2Proof.Machine
end

