-- ==== Sys2Proof/Laws/KeepReliab.lean ====
section
/-! SUPPORT. What the operations of Machine/Reliab.lean keep: the queue, the clock and the canonical form of HBM and the registers. -/
namespace Sys2Proof.Machine

variable {q : List Instr} {n : Nat}

theorem toBoundary_keeps (period : Nat) (s : State) (h : Keeps q n s) :
    Keeps q n (toBoundary period s) := by
  unfold toBoundary
  repeat' first
    | with_reducible assumption
    | with_reducible intro _
    | with_reducible apply keeps_parts
    | with_reducible apply advance_keeps
    | with_reducible apply ite_keeps
    | with_reducible apply foldl_keeps
    | with_reducible apply foldl_pair_keeps
    | split
    | rw [keeps_mk_iff]
    | dsimp only

theorem logExhausted_keeps (kind : Nat) (unit : Nat) (blk : Nat) (x3 : Nat) (s : State) (h : Keeps q n s) :
    Keeps q n (logExhausted kind unit blk x3 s) := by
  unfold logExhausted
  repeat' first
    | with_reducible assumption
    | with_reducible intro _
    | with_reducible apply keeps_parts
    | with_reducible apply logEvent_keeps
    | with_reducible apply ite_keeps
    | with_reducible apply foldl_keeps
    | with_reducible apply foldl_pair_keeps
    | split
    | rw [keeps_mk_iff]
    | dsimp only

theorem mapRiser_keeps (b : Nat) (f : Nat) (x2 : Nat) (s : State) (h : Keeps q n s) :
    Keeps q n (mapRiser b f x2 s) := by
  unfold mapRiser
  repeat' first
    | with_reducible assumption
    | with_reducible intro _
    | with_reducible apply keeps_parts
    | with_reducible apply ite_keeps
    | with_reducible apply foldl_keeps
    | with_reducible apply foldl_pair_keeps
    | split
    | rw [keeps_mk_iff]
    | dsimp only

theorem swapFlask_keeps (b : Nat) (f : Nat) (x2 : Nat) (s : State) (h : Keeps q n s) :
    Keeps q n (swapFlask b f x2 s) := by
  unfold swapFlask
  repeat' first
    | with_reducible assumption
    | with_reducible intro _
    | with_reducible apply keeps_parts
    | with_reducible apply mapRiser_keeps
    | with_reducible apply logEvent_keeps
    | with_reducible apply markFlag_keeps
    | with_reducible apply incReg_keeps
    | with_reducible apply addHistory_keeps
    | with_reducible apply ite_keeps
    | with_reducible apply foldl_keeps
    | with_reducible apply foldl_pair_keeps
    | split
    | rw [keeps_mk_iff]
    | dsimp only

theorem acceptFlaskSwap_keeps (unit : Nat) (x1 : Nat) (c : Option CmdRef) (s : State) (h : Keeps q n s) :
    Keeps q n (acceptFlaskSwap unit x1 c s) := by
  unfold acceptFlaskSwap
  repeat' first
    | with_reducible assumption
    | with_reducible intro _
    | with_reducible apply keeps_parts
    | with_reducible apply ite_keeps
    | with_reducible apply foldl_keeps
    | with_reducible apply foldl_pair_keeps
    | split
    | rw [keeps_mk_iff]
    | dsimp only

theorem proposeFlask_keeps (b : Nat) (f : Nat) (s : State) (h : Keeps q n s) :
    Keeps q n (proposeFlask b f s) := by
  unfold proposeFlask
  repeat' first
    | with_reducible assumption
    | with_reducible intro _
    | with_reducible apply keeps_parts
    | with_reducible apply finishOpt_keeps
    | with_reducible apply logExhausted_keeps
    | with_reducible apply acceptFlaskSwap_keeps
    | with_reducible apply incReg_keeps
    | with_reducible apply logTrigger_keeps
    | with_reducible apply ite_keeps
    | with_reducible apply foldl_keeps
    | with_reducible apply foldl_pair_keeps
    | split
    | rw [keeps_mk_iff]
    | dsimp only

theorem execRiserFlaskCopied_keeps (bay : Nat) (flask : Nat) (s : State) (h : Keeps q n s) :
    Answers q n (execRiserFlaskCopied bay flask s) := by
  unfold execRiserFlaskCopied
  repeat' first
    | with_reducible assumption
    | with_reducible intro _
    | with_reducible apply keeps_parts
    | with_reducible apply onUnit_keeps
    | with_reducible apply finishOpt_keeps
    | with_reducible apply swapFlask_keeps
    | with_reducible apply answers_next
    | with_reducible apply answers_fault
    | with_reducible apply answers_refused
    | with_reducible apply ite_answers
    | with_reducible apply ite_keeps
    | with_reducible apply foldl_keeps
    | with_reducible apply foldl_pair_keeps
    | split
    | rw [keeps_mk_iff]
    | dsimp only

theorem execRiserProposalLapse_keeps (kind : Nat) (unit : Nat) (s : State) (h : Keeps q n s) :
    Answers q n (execRiserProposalLapse kind unit s) := by
  unfold execRiserProposalLapse
  repeat' first
    | with_reducible assumption
    | with_reducible intro _
    | with_reducible apply keeps_parts
    | with_reducible apply onUnit_keeps
    | with_reducible apply advanceTo_keeps
    | with_reducible apply logTrigger_keeps
    | with_reducible apply answers_next
    | with_reducible apply answers_fault
    | with_reducible apply answers_refused
    | with_reducible apply ite_answers
    | with_reducible apply ite_keeps
    | with_reducible apply foldl_keeps
    | with_reducible apply foldl_pair_keeps
    | split
    | rw [keeps_mk_iff]
    | dsimp only

theorem failFlaskLayer_keeps (i : Nat) (s : State) (h : Keeps q n s) :
    Keeps q n (failFlaskLayer i s) := by
  unfold failFlaskLayer
  repeat' first
    | with_reducible assumption
    | with_reducible intro _
    | with_reducible apply keeps_parts
    | with_reducible apply endRun_keeps
    | with_reducible apply useFree_keeps
    | with_reducible apply modSeg_keeps
    | with_reducible apply ite_keeps
    | with_reducible apply foldl_keeps
    | with_reducible apply foldl_pair_keeps
    | split
    | rw [keeps_mk_iff]
    | dsimp only

theorem failFlaskPours_keeps (hit : Chunk → Bool) (s : State) (h : Keeps q n s) :
    Keeps q n (failFlaskPours hit s) := by
  unfold failFlaskPours
  repeat' first
    | with_reducible assumption
    | with_reducible intro _
    | with_reducible apply keeps_parts
    | with_reducible apply failPour_keeps
    | with_reducible apply ite_keeps
    | with_reducible apply foldl_keeps
    | with_reducible apply foldl_pair_keeps
    | split
    | rw [keeps_mk_iff]
    | dsimp only

theorem degradeBay_keeps (b : Nat) (s : State) (h : Keeps q n s) :
    Keeps q n (degradeBay b s) := by
  unfold degradeBay
  repeat' first
    | with_reducible assumption
    | with_reducible intro _
    | with_reducible apply keeps_parts
    | with_reducible apply failFlaskPours_keeps
    | with_reducible apply modSeg_keeps
    | with_reducible apply logEvent_keeps
    | with_reducible apply bankBay_keeps
    | with_reducible apply settleRemove_keeps
    | with_reducible apply finishOpt_keeps
    | with_reducible apply ite_keeps
    | with_reducible apply foldl_keeps
    | with_reducible apply foldl_pair_keeps
    | split
    | rw [keeps_mk_iff]
    | dsimp only

theorem replaceFlask_keeps (b : Nat) (f : Nat) (s : State) (h : Keeps q n s) :
    Keeps q n (replaceFlask b f s) := by
  unfold replaceFlask
  repeat' first
    | with_reducible assumption
    | with_reducible intro _
    | with_reducible apply keeps_parts
    | with_reducible apply degradeBay_keeps
    | with_reducible apply logExhausted_keeps
    | with_reducible apply incReg_keeps
    | with_reducible apply logTrigger_keeps
    | with_reducible apply resetInst_keeps
    | with_reducible apply finishOpt_keeps
    | with_reducible apply swapFlask_keeps
    | with_reducible apply ite_keeps
    | with_reducible apply foldl_keeps
    | with_reducible apply foldl_pair_keeps
    | split
    | rw [keeps_mk_iff]
    | dsimp only

theorem execFlaskUncorrectable_keeps (bay : Nat) (flask : Nat) (s : State) (h : Keeps q n s) :
    Answers q n (execFlaskUncorrectable bay flask s) := by
  unfold execFlaskUncorrectable
  repeat' first
    | with_reducible assumption
    | with_reducible intro _
    | with_reducible apply keeps_parts
    | with_reducible apply onUnit_keeps
    | with_reducible apply incReg_keeps
    | with_reducible apply logEvent_keeps
    | with_reducible apply failFlaskLayer_keeps
    | with_reducible apply failFlaskPours_keeps
    | with_reducible apply replaceFlask_keeps
    | with_reducible apply answers_next
    | with_reducible apply answers_fault
    | with_reducible apply answers_refused
    | with_reducible apply ite_answers
    | with_reducible apply ite_keeps
    | with_reducible apply foldl_keeps
    | with_reducible apply foldl_pair_keeps
    | split
    | rw [keeps_mk_iff]
    | dsimp only

theorem execAgingMonitorReport_keeps (margins : List Nat) (s : State) (h : Keeps q n s) :
    Answers q n (execAgingMonitorReport margins s) := by
  unfold execAgingMonitorReport
  repeat' first
    | with_reducible assumption
    | with_reducible intro _
    | with_reducible apply keeps_parts
    | with_reducible apply toBoundary_keeps
    | with_reducible apply answers_next
    | with_reducible apply answers_fault
    | with_reducible apply answers_refused
    | with_reducible apply ite_answers
    | with_reducible apply ite_keeps
    | with_reducible apply foldl_keeps
    | with_reducible apply foldl_pair_keeps
    | split
    | rw [keeps_mk_iff]
    | dsimp only

theorem startRetire_keeps (f : Nat) (new : Nat) (c : Option CmdRef) (s : State) (h : Keeps q n s) :
    Keeps q n (startRetire f new c s) := by
  unfold startRetire
  repeat' first
    | with_reducible assumption
    | with_reducible intro _
    | with_reducible apply keeps_parts
    | with_reducible apply putFrame_keeps
    | with_reducible apply remap_keeps
    | with_reducible apply tellBook_keeps
    | with_reducible apply ite_keeps
    | with_reducible apply foldl_keeps
    | with_reducible apply foldl_pair_keeps
    | split
    | rw [keeps_mk_iff]
    | dsimp only

theorem logRetireRefused_keeps (f : Nat) (s : State) (h : Keeps q n s) :
    Keeps q n (logRetireRefused f s) := by
  unfold logRetireRefused
  repeat' first
    | with_reducible assumption
    | with_reducible intro _
    | with_reducible apply keeps_parts
    | with_reducible apply logEvent_keeps
    | with_reducible apply ite_keeps
    | with_reducible apply foldl_keeps
    | with_reducible apply foldl_pair_keeps
    | split
    | rw [keeps_mk_iff]
    | dsimp only

theorem proposeFrame_keeps (f : Nat) (s : State) (h : Keeps q n s) :
    Keeps q n (proposeFrame f s) := by
  unfold proposeFrame
  repeat' first
    | with_reducible assumption
    | with_reducible intro _
    | with_reducible apply keeps_parts
    | with_reducible apply logRetireRefused_keeps
    | with_reducible apply logExhausted_keeps
    | with_reducible apply logTrigger_keeps
    | with_reducible apply startRetire_keeps
    | with_reducible apply incReg_keeps
    | with_reducible apply ite_keeps
    | with_reducible apply foldl_keeps
    | with_reducible apply foldl_pair_keeps
    | split
    | rw [keeps_mk_iff]
    | dsimp only

theorem execHbmScrub_keeps (frame : Nat) (corrected : Nat) (uncorrected : List (Nat × Nat)) (s : State) (h : Keeps q n s) :
    Answers q n (execHbmScrub frame corrected uncorrected s) := by
  unfold execHbmScrub
  repeat' first
    | with_reducible assumption
    | with_reducible intro _
    | with_reducible apply keeps_parts
    | with_reducible apply incReg_keeps
    | with_reducible apply noteLines_keeps
    | with_reducible apply frameUncorrectable_keeps
    | with_reducible apply answers_next
    | with_reducible apply answers_fault
    | with_reducible apply answers_refused
    | with_reducible apply ite_answers
    | with_reducible apply ite_keeps
    | with_reducible apply foldl_keeps
    | with_reducible apply foldl_pair_keeps
    | split
    | rw [keeps_mk_iff]
    | dsimp only

theorem declareStack_keeps (st : Nat) (s : State) (h : Keeps q n s) :
    Keeps q n (declareStack st s) := by
  unfold declareStack
  repeat' first
    | with_reducible assumption
    | with_reducible intro _
    | with_reducible apply keeps_parts
    | with_reducible apply failStack_keeps
    | with_reducible apply logEvent_keeps
    | with_reducible apply ite_keeps
    | with_reducible apply foldl_keeps
    | with_reducible apply foldl_pair_keeps
    | split
    | rw [keeps_mk_iff]
    | dsimp only

theorem execStackFailureDetected_keeps (stack : Nat) (s : State) (h : Keeps q n s) :
    Answers q n (execStackFailureDetected stack s) := by
  unfold execStackFailureDetected
  repeat' first
    | with_reducible assumption
    | with_reducible intro _
    | with_reducible apply keeps_parts
    | with_reducible apply onUnit_keeps
    | with_reducible apply declareStack_keeps
    | with_reducible apply answers_next
    | with_reducible apply answers_fault
    | with_reducible apply answers_refused
    | with_reducible apply ite_answers
    | with_reducible apply ite_keeps
    | with_reducible apply foldl_keeps
    | with_reducible apply foldl_pair_keeps
    | split
    | rw [keeps_mk_iff]
    | dsimp only

theorem execFlaskSramScrub_keeps (counts : List (Nat × Nat)) (s : State) (h : Keeps q n s) :
    Answers q n (execFlaskSramScrub counts s) := by
  unfold execFlaskSramScrub
  repeat' first
    | with_reducible assumption
    | with_reducible intro _
    | with_reducible apply keeps_parts
    | with_reducible apply toBoundary_keeps
    | with_reducible apply addReg_keeps
    | with_reducible apply answers_next
    | with_reducible apply answers_fault
    | with_reducible apply answers_refused
    | with_reducible apply ite_answers
    | with_reducible apply ite_keeps
    | with_reducible apply foldl_keeps
    | with_reducible apply foldl_pair_keeps
    | split
    | rw [keeps_mk_iff]
    | dsimp only

theorem execTundishScrub_keeps (half' : Nat) (corrected : List (Nat × Nat)) (uncorrected : List (Nat × Nat)) (s : State) (h : Keeps q n s) :
    Answers q n (execTundishScrub half' corrected uncorrected s) := by
  unfold execTundishScrub
  repeat' first
    | with_reducible assumption
    | with_reducible intro _
    | with_reducible apply keeps_parts
    | with_reducible apply toBoundary_keeps
    | with_reducible apply noteCorrected_keeps
    | with_reducible apply addReg_keeps
    | with_reducible apply modHalf_keeps
    | with_reducible apply answers_next
    | with_reducible apply answers_fault
    | with_reducible apply answers_refused
    | with_reducible apply ite_answers
    | with_reducible apply ite_keeps
    | with_reducible apply foldl_keeps
    | with_reducible apply foldl_pair_keeps
    | split
    | rw [keeps_mk_iff]
    | dsimp only

theorem proposeBankOf_keeps (d : Nat) (b : Nat) (s : State) (h : Keeps q n s) :
    Keeps q n (proposeBankOf d b s) := by
  unfold proposeBankOf
  repeat' first
    | with_reducible assumption
    | with_reducible intro _
    | with_reducible apply keeps_parts
    | with_reducible apply logExhausted_keeps
    | with_reducible apply logTrigger_keeps
    | with_reducible apply proposeBank_keeps
    | with_reducible apply incReg_keeps
    | with_reducible apply ite_keeps
    | with_reducible apply foldl_keeps
    | with_reducible apply foldl_pair_keeps
    | split
    | rw [keeps_mk_iff]
    | dsimp only

theorem execRiserProposal_keeps (kind : Nat) (unit : Nat) (s : State) (h : Keeps q n s) :
    Answers q n (execRiserProposal kind unit s) := by
  unfold execRiserProposal
  repeat' first
    | with_reducible assumption
    | with_reducible intro _
    | with_reducible apply keeps_parts
    | with_reducible apply decided_keeps
    | with_reducible apply toBoundary_keeps
    | with_reducible apply onUnit_keeps
    | with_reducible apply proposeFlask_keeps
    | with_reducible apply execCvThresholdSwapProposal_keeps
    | with_reducible apply proposeFrame_keeps
    | with_reducible apply proposeBankOf_keeps
    | with_reducible apply execPllFaultProposal_keeps
    | with_reducible apply answers_next
    | with_reducible apply answers_fault
    | with_reducible apply answers_refused
    | with_reducible apply ite_answers
    | with_reducible apply ite_keeps
    | with_reducible apply foldl_keeps
    | with_reducible apply foldl_pair_keeps
    | split
    | rw [keeps_mk_iff]
    | dsimp only

theorem notify_keeps (x0 : ShEntry) (x : Subscriber) (s : State) (h : Keeps q n s) :
    Keeps q n (notify x0 x s) := by
  unfold notify
  repeat' first
    | with_reducible assumption
    | with_reducible intro _
    | with_reducible apply keeps_parts
    | with_reducible apply incReg_keeps
    | with_reducible apply sendFrom_keeps
    | with_reducible apply ite_keeps
    | with_reducible apply foldl_keeps
    | with_reducible apply foldl_pair_keeps
    | split
    | rw [keeps_mk_iff]
    | dsimp only

theorem writeEntry_keeps (x0 : ShEntry) (s : State) (h : Keeps q n s) :
    Keeps q n (writeEntry x0 s) := by
  unfold writeEntry
  repeat' first
    | with_reducible assumption
    | with_reducible intro _
    | with_reducible apply keeps_parts
    | with_reducible apply setReg_keeps
    | with_reducible apply assertFault_keeps
    | with_reducible apply notify_keeps
    | with_reducible apply ite_keeps
    | with_reducible apply foldl_keeps
    | with_reducible apply foldl_pair_keeps
    | split
    | rw [keeps_mk_iff]
    | dsimp only

theorem execShakeoutWrite_keeps (s : State) (h : Keeps q n s) :
    Answers q n (execShakeoutWrite s) := by
  unfold execShakeoutWrite
  repeat' first
    | with_reducible assumption
    | with_reducible intro _
    | with_reducible apply keeps_parts
    | with_reducible apply advance_keeps
    | with_reducible apply incReg_keeps
    | with_reducible apply writeEntry_keeps
    | with_reducible apply answers_next
    | with_reducible apply answers_fault
    | with_reducible apply answers_refused
    | with_reducible apply ite_answers
    | with_reducible apply ite_keeps
    | with_reducible apply foldl_keeps
    | with_reducible apply foldl_pair_keeps
    | split
    | rw [keeps_mk_iff]
    | dsimp only

theorem execRelStatus_keeps (m : CmdMeta) (s : State) (h : Keeps q n s) :
    Answers q n (execRelStatus m s) := by
  unfold execRelStatus
  repeat' first
    | with_reducible assumption
    | with_reducible intro _
    | with_reducible apply keeps_parts
    | with_reducible apply command_keeps
    | with_reducible apply answer_keeps
    | with_reducible apply answers_next
    | with_reducible apply answers_fault
    | with_reducible apply answers_refused
    | with_reducible apply ite_answers
    | with_reducible apply ite_keeps
    | with_reducible apply foldl_keeps
    | with_reducible apply foldl_pair_keeps
    | split
    | rw [keeps_mk_iff]
    | dsimp only

theorem execRiserPolicy_keeps (m : CmdMeta) (auto : Nat) (ageMin : Nat) (flaskLimit : Nat) (frameLimit : Nat) (scrubH : Nat) (s : State) (h : Keeps q n s) :
    Answers q n (execRiserPolicy m auto ageMin flaskLimit frameLimit scrubH s) := by
  unfold execRiserPolicy
  repeat' first
    | with_reducible assumption
    | with_reducible intro _
    | with_reducible apply keeps_parts
    | with_reducible apply command_keeps
    | with_reducible apply requires_keeps
    | with_reducible apply done_keeps
    | with_reducible apply setReg_keeps
    | with_reducible apply answers_next
    | with_reducible apply answers_fault
    | with_reducible apply answers_refused
    | with_reducible apply ite_answers
    | with_reducible apply ite_keeps
    | with_reducible apply foldl_keeps
    | with_reducible apply foldl_pair_keeps
    | split
    | rw [keeps_mk_iff]
    | dsimp only

theorem execRiserFlaskSwap_keeps (m : CmdMeta) (bay : Nat) (flask : Nat) (s : State) (h : Keeps q n s) :
    Answers q n (execRiserFlaskSwap m bay flask s) := by
  unfold execRiserFlaskSwap
  repeat' first
    | with_reducible assumption
    | with_reducible intro _
    | with_reducible apply keeps_parts
    | with_reducible apply command_keeps
    | with_reducible apply refuse_keeps
    | with_reducible apply accept_keeps
    | with_reducible apply acceptFlaskSwap_keeps
    | with_reducible apply answers_next
    | with_reducible apply answers_fault
    | with_reducible apply answers_refused
    | with_reducible apply ite_answers
    | with_reducible apply ite_keeps
    | with_reducible apply foldl_keeps
    | with_reducible apply foldl_pair_keeps
    | split
    | rw [keeps_mk_iff]
    | dsimp only

theorem execFrameRetire_keeps (m : CmdMeta) (frame : Nat) (s : State) (h : Keeps q n s) :
    Answers q n (execFrameRetire m frame s) := by
  unfold execFrameRetire
  repeat' first
    | with_reducible assumption
    | with_reducible intro _
    | with_reducible apply keeps_parts
    | with_reducible apply command_keeps
    | with_reducible apply refuse_keeps
    | with_reducible apply logRetireRefused_keeps
    | with_reducible apply accept_keeps
    | with_reducible apply startRetire_keeps
    | with_reducible apply answers_next
    | with_reducible apply answers_fault
    | with_reducible apply answers_refused
    | with_reducible apply ite_answers
    | with_reducible apply ite_keeps
    | with_reducible apply foldl_keeps
    | with_reducible apply foldl_pair_keeps
    | split
    | rw [keeps_mk_iff]
    | dsimp only

theorem execStackFail_keeps (m : CmdMeta) (stack : Nat) (s : State) (h : Keeps q n s) :
    Answers q n (execStackFail m stack s) := by
  unfold execStackFail
  repeat' first
    | with_reducible assumption
    | with_reducible intro _
    | with_reducible apply keeps_parts
    | with_reducible apply command_keeps
    | with_reducible apply refuse_keeps
    | with_reducible apply accept_keeps
    | with_reducible apply finish_keeps
    | with_reducible apply declareStack_keeps
    | with_reducible apply answers_next
    | with_reducible apply answers_fault
    | with_reducible apply answers_refused
    | with_reducible apply ite_answers
    | with_reducible apply ite_keeps
    | with_reducible apply foldl_keeps
    | with_reducible apply foldl_pair_keeps
    | split
    | rw [keeps_mk_iff]
    | dsimp only

theorem execAgingRead_keeps (m : CmdMeta) (bay : Nat) (s : State) (h : Keeps q n s) :
    Answers q n (execAgingRead m bay s) := by
  unfold execAgingRead
  repeat' first
    | with_reducible assumption
    | with_reducible intro _
    | with_reducible apply keeps_parts
    | with_reducible apply command_keeps
    | with_reducible apply refuse_keeps
    | with_reducible apply answer_keeps
    | with_reducible apply answers_next
    | with_reducible apply answers_fault
    | with_reducible apply answers_refused
    | with_reducible apply ite_answers
    | with_reducible apply ite_keeps
    | with_reducible apply foldl_keeps
    | with_reducible apply foldl_pair_keeps
    | split
    | rw [keeps_mk_iff]
    | dsimp only

theorem execRiserHistoryRead_keeps (m : CmdMeta) (first : Nat) (s : State) (h : Keeps q n s) :
    Answers q n (execRiserHistoryRead m first s) := by
  unfold execRiserHistoryRead
  repeat' first
    | with_reducible assumption
    | with_reducible intro _
    | with_reducible apply keeps_parts
    | with_reducible apply command_keeps
    | with_reducible apply requires_keeps
    | with_reducible apply answer_keeps
    | with_reducible apply answers_next
    | with_reducible apply answers_fault
    | with_reducible apply answers_refused
    | with_reducible apply ite_answers
    | with_reducible apply ite_keeps
    | with_reducible apply foldl_keeps
    | with_reducible apply foldl_pair_keeps
    | split
    | rw [keeps_mk_iff]
    | dsimp only

theorem execShakeoutStatus_keeps (m : CmdMeta) (s : State) (h : Keeps q n s) :
    Answers q n (execShakeoutStatus m s) := by
  unfold execShakeoutStatus
  repeat' first
    | with_reducible assumption
    | with_reducible intro _
    | with_reducible apply keeps_parts
    | with_reducible apply command_keeps
    | with_reducible apply answer_keeps
    | with_reducible apply answers_next
    | with_reducible apply answers_fault
    | with_reducible apply answers_refused
    | with_reducible apply ite_answers
    | with_reducible apply ite_keeps
    | with_reducible apply foldl_keeps
    | with_reducible apply foldl_pair_keeps
    | split
    | rw [keeps_mk_iff]
    | dsimp only

theorem execShakeoutRead_keeps (m : CmdMeta) (first : Nat) (count : Nat) (nonce : List Byte) (sign : Nat) (s : State) (h : Keeps q n s) :
    Answers q n (execShakeoutRead m first count nonce sign s) := by
  unfold execShakeoutRead
  repeat' first
    | with_reducible assumption
    | with_reducible intro _
    | with_reducible apply keeps_parts
    | with_reducible apply command_keeps
    | with_reducible apply refuse_keeps
    | with_reducible apply answer_keeps
    | with_reducible apply askSignature_keeps
    | with_reducible apply answers_next
    | with_reducible apply answers_fault
    | with_reducible apply answers_refused
    | with_reducible apply ite_answers
    | with_reducible apply ite_keeps
    | with_reducible apply foldl_keeps
    | with_reducible apply foldl_pair_keeps
    | split
    | rw [keeps_mk_iff]
    | dsimp only

theorem execShakeoutUnfreeze_keeps (m : CmdMeta) (freezeSeq : Nat) (s : State) (h : Keeps q n s) :
    Answers q n (execShakeoutUnfreeze m freezeSeq s) := by
  unfold execShakeoutUnfreeze
  repeat' first
    | with_reducible assumption
    | with_reducible intro _
    | with_reducible apply keeps_parts
    | with_reducible apply command_keeps
    | with_reducible apply refuse_keeps
    | with_reducible apply setReg_keeps
    | with_reducible apply done_keeps
    | with_reducible apply logEvent_keeps
    | with_reducible apply answers_next
    | with_reducible apply answers_fault
    | with_reducible apply answers_refused
    | with_reducible apply ite_answers
    | with_reducible apply ite_keeps
    | with_reducible apply foldl_keeps
    | with_reducible apply foldl_pair_keeps
    | split
    | rw [keeps_mk_iff]
    | dsimp only

theorem execFaultSubscribe_keeps (m : CmdMeta) (endpoint : Nat) (cls : Nat) (severity : Nat) (s : State) (h : Keeps q n s) :
    Answers q n (execFaultSubscribe m endpoint cls severity s) := by
  unfold execFaultSubscribe
  repeat' first
    | with_reducible assumption
    | with_reducible intro _
    | with_reducible apply keeps_parts
    | with_reducible apply command_keeps
    | with_reducible apply refuse_keeps
    | with_reducible apply done_keeps
    | with_reducible apply answers_next
    | with_reducible apply answers_fault
    | with_reducible apply answers_refused
    | with_reducible apply ite_answers
    | with_reducible apply ite_keeps
    | with_reducible apply foldl_keeps
    | with_reducible apply foldl_pair_keeps
    | split
    | rw [keeps_mk_iff]
    | dsimp only

theorem execFaultUnsubscribe_keeps (m : CmdMeta) (endpoint : Nat) (s : State) (h : Keeps q n s) :
    Answers q n (execFaultUnsubscribe m endpoint s) := by
  unfold execFaultUnsubscribe
  repeat' first
    | with_reducible assumption
    | with_reducible intro _
    | with_reducible apply keeps_parts
    | with_reducible apply command_keeps
    | with_reducible apply requires_keeps
    | with_reducible apply done_keeps
    | with_reducible apply answers_next
    | with_reducible apply answers_fault
    | with_reducible apply answers_refused
    | with_reducible apply ite_answers
    | with_reducible apply ite_keeps
    | with_reducible apply foldl_keeps
    | with_reducible apply foldl_pair_keeps
    | split
    | rw [keeps_mk_iff]
    | dsimp only

theorem execRelStats_keeps (m : CmdMeta) (s : State) (h : Keeps q n s) :
    Answers q n (execRelStats m s) := by
  unfold execRelStats
  repeat' first
    | with_reducible assumption
    | with_reducible intro _
    | with_reducible apply keeps_parts
    | with_reducible apply command_keeps
    | with_reducible apply answer_keeps
    | with_reducible apply answers_next
    | with_reducible apply answers_fault
    | with_reducible apply answers_refused
    | with_reducible apply ite_answers
    | with_reducible apply ite_keeps
    | with_reducible apply foldl_keeps
    | with_reducible apply foldl_pair_keeps
    | split
    | rw [keeps_mk_iff]
    | dsimp only

end Sys2Proof.Machine
end

