-- ==== Sys2Proof/Laws/KeepPerform.lean ====
section
/-! SUPPORT. What the operations of Machine/Perform.lean keep: the queue, the clock and the canonical form of HBM and the registers. -/
namespace Sys2Proof.Machine

variable {q : List Instr} {n : Nat}

theorem runCommand_keeps (i : Instr) (s : State) (h : Keeps q n s) :
    Answers q n (runCommand i s) := by
  unfold runCommand
  repeat' first
    | with_reducible assumption
    | with_reducible intro _
    | with_reducible apply keeps_parts
    | with_reducible apply execDevIdentify_keeps
    | with_reducible apply execDevHealth_keeps
    | with_reducible apply execHeatBind_keeps
    | with_reducible apply execHeatUnbind_keeps
    | with_reducible apply execHeatList_keeps
    | with_reducible apply execDevResetWarm_keeps
    | with_reducible apply execDevResetDomain_keeps
    | with_reducible apply execCsrRead_keeps
    | with_reducible apply execCsrWrite_keeps
    | with_reducible apply execDevBlockState_keeps
    | with_reducible apply execFwStatus_keeps
    | with_reducible apply execFwWrite_keeps
    | with_reducible apply execFwVerify_keeps
    | with_reducible apply execFwSwitch_keeps
    | with_reducible apply execDevEcho_keeps
    | with_reducible apply execLinkStatus_keeps
    | with_reducible apply execLinkConfig_keeps
    | with_reducible apply execLinkRetrain_keeps
    | with_reducible apply execLinkDown_keeps
    | with_reducible apply execLinkLaneSwap_keeps
    | with_reducible apply execLinkEqRead_keeps
    | with_reducible apply execLinkEqSet_keeps
    | with_reducible apply execLinkNeighbour_keeps
    | with_reducible apply execLinkStats_keeps
    | with_reducible apply execRouteStatus_keeps
    | with_reducible apply execRouteLinkClose_keeps
    | with_reducible apply execRouteLinkOpen_keeps
    | with_reducible apply execRouteParamSet_keeps
    | with_reducible apply execRouteSpread_keeps
    | with_reducible apply execRouteTest_keeps
    | with_reducible apply execRouteReserve_keeps
    | with_reducible apply execRouteCreditSet_keeps
    | with_reducible apply execRouteTreeRead_keeps
    | with_reducible apply execRouteFenceList_keeps
    | with_reducible apply execRouteStats_keeps
    | with_reducible apply execTundishStatus_keeps
    | with_reducible apply execTundishThreshSet_keeps
    | with_reducible apply execTundishPoolSet_keeps
    | with_reducible apply execTundishBankSwap_keeps
    | with_reducible apply execQueueAlloc_keeps
    | with_reducible apply execQueueFree_keeps
    | with_reducible apply execQueueQuery_keeps
    | with_reducible apply execTundishStats_keeps
    | with_reducible apply execSchedStatus_keeps
    | with_reducible apply execSchedClassWeight_keeps
    | with_reducible apply execSchedQueueWeight_keeps
    | with_reducible apply execSchedWinWrite_keeps
    | with_reducible apply execSchedWinCommit_keeps
    | with_reducible apply execSchedWinOff_keeps
    | with_reducible apply execSchedWinRead_keeps
    | with_reducible apply execPolicerSet_keeps
    | with_reducible apply execPolicerRead_keeps
    | with_reducible apply execSchedSample_keeps
    | with_reducible apply execSchedHistRead_keeps
    | with_reducible apply execSchedSampleRate_keeps
    | with_reducible apply execSchedStats_keeps
    | with_reducible apply execAllocPages_keeps
    | with_reducible apply execFreePages_keeps
    | with_reducible apply execMemHeatFree_keeps
    | with_reducible apply execMemPageQuery_keeps
    | with_reducible apply execMemPageSet_keeps
    | with_reducible apply execMemPageClearLost_keeps
    | with_reducible apply execMemMigrate_keeps
    | with_reducible apply execMemMirrorSet_keeps
    | with_reducible apply execMemArbSet_keeps
    | with_reducible apply execMemMigrateCtrl_keeps
    | with_reducible apply execMemStats_keeps
    | with_reducible apply execMemCacheFlush_keeps
    | with_reducible apply execPourRegister_keeps
    | with_reducible apply execPourAbort_keeps
    | with_reducible apply execPourQuery_keeps
    | with_reducible apply execPourFenceMap_keeps
    | with_reducible apply execMsetBegin_keeps
    | with_reducible apply execMsetWrite_keeps
    | with_reducible apply execMsetSeal_keeps
    | with_reducible apply execMsetFree_keeps
    | with_reducible apply execMsetRead_keeps
    | with_reducible apply execPourClassSet_keeps
    | with_reducible apply execPourSpillReserve_keeps
    | with_reducible apply execPourStats_keeps
    | with_reducible apply execLayerSegBegin_keeps
    | with_reducible apply execLayerTensorWrite_keeps
    | with_reducible apply execLayerDescWrite_keeps
    | with_reducible apply execLayerSegSeal_keeps
    | with_reducible apply execLayerSegPlace_keeps
    | with_reducible apply execLayerSegRemove_keeps
    | with_reducible apply execLayerRun_keeps
    | with_reducible apply execLayerAbort_keeps
    | with_reducible apply execLayerQuery_keeps
    | with_reducible apply execLayerSavedRelease_keeps
    | with_reducible apply execLayerStats_keeps
    | with_reducible apply execUpdRuleSet_keeps
    | with_reducible apply execUpdRuleRead_keeps
    | with_reducible apply execUpdStateDefine_keeps
    | with_reducible apply execUpdStateMask_keeps
    | with_reducible apply execUpdStateQuery_keeps
    | with_reducible apply execUpdStateRevert_keeps
    | with_reducible apply execUpdStateFree_keeps
    | with_reducible apply execEmbTableDefine_keeps
    | with_reducible apply execEmbTableQuery_keeps
    | with_reducible apply execEmbTableFree_keeps
    | with_reducible apply execUpdStats_keeps
    | with_reducible apply execClkStatus_keeps
    | with_reducible apply execClkAclkSwap_keeps
    | with_reducible apply execClkobsSet_keeps
    | with_reducible apply execClkTrim_keeps
    | with_reducible apply execTimeSet_keeps
    | with_reducible apply execClkMonRead_keeps
    | with_reducible apply execClkPlan_keeps
    | with_reducible apply execPwrStatus_keeps
    | with_reducible apply execPwrProfileSet_keeps
    | with_reducible apply execPwrProfileRead_keeps
    | with_reducible apply execPwrStats_keeps
    | with_reducible apply execRelStatus_keeps
    | with_reducible apply execRiserPolicy_keeps
    | with_reducible apply execRiserFlaskSwap_keeps
    | with_reducible apply execFrameRetire_keeps
    | with_reducible apply execStackFail_keeps
    | with_reducible apply execAgingRead_keeps
    | with_reducible apply execRiserHistoryRead_keeps
    | with_reducible apply execShakeoutStatus_keeps
    | with_reducible apply execShakeoutRead_keeps
    | with_reducible apply execShakeoutUnfreeze_keeps
    | with_reducible apply execFaultSubscribe_keeps
    | with_reducible apply execFaultUnsubscribe_keeps
    | with_reducible apply execRelStats_keeps
    | with_reducible apply execSecStatus_keeps
    | with_reducible apply execSecAttest_keeps
    | with_reducible apply execSecIdentityRead_keeps
    | with_reducible apply execSecRollbackCommit_keeps
    | with_reducible apply execSecRootRead_keeps
    | with_reducible apply execSecStats_keeps
    | with_reducible apply execAssayStatus_keeps
    | with_reducible apply execAssayRead_keeps
    | with_reducible apply execAssayAttrib_keeps
    | with_reducible apply execAssayAttribList_keeps
    | with_reducible apply execDetStatus_keeps
    | with_reducible apply execDetRecordOpen_keeps
    | with_reducible apply execDetDigestRange_keeps
    | with_reducible apply execDetRecordClose_keeps
    | with_reducible apply execDetRecordRead_keeps
    | with_reducible apply execDetStepSet_keeps
    | with_reducible apply execSaveHeat_keeps
    | with_reducible apply execResumeHeat_keeps
    | with_reducible apply answers_next
    | with_reducible apply answers_fault
    | with_reducible apply answers_refused
    | with_reducible apply ite_answers
    | with_reducible apply ite_keeps
    | with_reducible apply foldl_keeps
    | with_reducible apply foldl_pair_keeps
    | split
    | rw [keeps_mk_iff]
    | dsimp only

end Sys2Proof.Machine
end

