-- ==== Sys2Proof/Laws/KeepDeliver.lean ====
section
/-! SUPPORT. What the operations of Machine/Deliver.lean keep: the queue, the clock and the canonical form of HBM and the registers. -/
namespace Sys2Proof.Machine

variable {q : List Instr} {n : Nat}

theorem settleAnswers_keeps (s : State) (h : Keeps q n s) :
    Keeps q n (settleAnswers s) := by
  unfold settleAnswers
  repeat' first
    | with_reducible assumption
    | with_reducible intro _
    | with_reducible apply keeps_parts
    | with_reducible apply resendMarked_keeps
    | with_reducible apply settleSaves_keeps
    | with_reducible apply settlePours_keeps
    | with_reducible apply flushPort_keeps
    | with_reducible apply ite_keeps
    | with_reducible apply foldl_keeps
    | with_reducible apply foldl_pair_keeps
    | split
    | rw [keeps_mk_iff]
    | dsimp only

theorem execPut_keeps (p : Packet) (copy : Bool) (s : State) (h : Keeps q n s) :
    Answers q n (execPut p copy s) := by
  unfold execPut
  repeat' first
    | with_reducible assumption
    | with_reducible intro _
    | with_reducible apply keeps_parts
    | with_reducible apply settleAnswers_keeps
    | with_reducible apply mirrorStore_keeps
    | with_reducible apply memPort_keeps
    | with_reducible apply answers_next
    | with_reducible apply answers_fault
    | with_reducible apply answers_refused
    | with_reducible apply ite_answers
    | with_reducible apply ite_keeps
    | with_reducible apply foldl_keeps
    | with_reducible apply foldl_pair_keeps
    | split
    | rw [keeps_mk_iff]
    | dsimp only

theorem execGet_keeps (p : Packet) (corrected : Nat) (uncorrected : List (Nat × Nat)) (s : State) (h : Keeps q n s) :
    Answers q n (execGet p corrected uncorrected s) := by
  unfold execGet
  repeat' first
    | with_reducible assumption
    | with_reducible intro _
    | with_reducible apply keeps_parts
    | with_reducible apply settleAnswers_keeps
    | with_reducible apply memPort_keeps
    | with_reducible apply answers_next
    | with_reducible apply answers_fault
    | with_reducible apply answers_refused
    | with_reducible apply ite_answers
    | with_reducible apply ite_keeps
    | with_reducible apply foldl_keeps
    | with_reducible apply foldl_pair_keeps
    | split
    | rw [keeps_mk_iff]
    | dsimp only

theorem execGatherRows_keeps (p : Packet) (corrected : Nat) (uncorrected : List (Nat × Nat)) (s : State) (h : Keeps q n s) :
    Answers q n (execGatherRows p corrected uncorrected s) := by
  unfold execGatherRows
  repeat' first
    | with_reducible assumption
    | with_reducible intro _
    | with_reducible apply keeps_parts
    | with_reducible apply settleAnswers_keeps
    | with_reducible apply gatherPort_keeps
    | with_reducible apply answers_next
    | with_reducible apply answers_fault
    | with_reducible apply answers_refused
    | with_reducible apply ite_answers
    | with_reducible apply ite_keeps
    | with_reducible apply foldl_keeps
    | with_reducible apply foldl_pair_keeps
    | split
    | rw [keeps_mk_iff]
    | dsimp only

theorem execAtomic_keeps (p : Packet) (corrected : Nat) (uncorrected : List (Nat × Nat)) (s : State) (h : Keeps q n s) :
    Answers q n (execAtomic p corrected uncorrected s) := by
  unfold execAtomic
  repeat' first
    | with_reducible assumption
    | with_reducible intro _
    | with_reducible apply keeps_parts
    | with_reducible apply settleAnswers_keeps
    | with_reducible apply memPort_keeps
    | with_reducible apply answers_next
    | with_reducible apply answers_fault
    | with_reducible apply answers_refused
    | with_reducible apply ite_answers
    | with_reducible apply ite_keeps
    | with_reducible apply foldl_keeps
    | with_reducible apply foldl_pair_keeps
    | split
    | rw [keeps_mk_iff]
    | dsimp only

theorem execGetReply_keeps (pkt : Packet) (s : State) (h : Keeps q n s) :
    Answers q n (execGetReply pkt s) := by
  unfold execGetReply
  repeat' first
    | with_reducible assumption
    | with_reducible intro _
    | with_reducible apply keeps_parts
    | with_reducible apply settleAnswers_keeps
    | with_reducible apply replyPort_keeps
    | with_reducible apply answers_next
    | with_reducible apply answers_fault
    | with_reducible apply answers_refused
    | with_reducible apply ite_answers
    | with_reducible apply ite_keeps
    | with_reducible apply foldl_keeps
    | with_reducible apply foldl_pair_keeps
    | split
    | rw [keeps_mk_iff]
    | dsimp only

theorem execContrib_keeps (pkt : Packet) (s : State) (h : Keeps q n s) :
    Answers q n (execContrib pkt s) := by
  unfold execContrib
  repeat' first
    | with_reducible assumption
    | with_reducible intro _
    | with_reducible apply keeps_parts
    | with_reducible apply settleAnswers_keeps
    | with_reducible apply contribPort_keeps
    | with_reducible apply answers_next
    | with_reducible apply answers_fault
    | with_reducible apply answers_refused
    | with_reducible apply ite_answers
    | with_reducible apply ite_keeps
    | with_reducible apply foldl_keeps
    | with_reducible apply foldl_pair_keeps
    | split
    | rw [keeps_mk_iff]
    | dsimp only

theorem execResult_keeps (pkt : Packet) (s : State) (h : Keeps q n s) :
    Answers q n (execResult pkt s) := by
  unfold execResult
  repeat' first
    | with_reducible assumption
    | with_reducible intro _
    | with_reducible apply keeps_parts
    | with_reducible apply settleAnswers_keeps
    | with_reducible apply resultPort_keeps
    | with_reducible apply answers_next
    | with_reducible apply answers_fault
    | with_reducible apply answers_refused
    | with_reducible apply ite_answers
    | with_reducible apply ite_keeps
    | with_reducible apply foldl_keeps
    | with_reducible apply foldl_pair_keeps
    | split
    | rw [keeps_mk_iff]
    | dsimp only

theorem execChunkMark_keeps (pkt : Packet) (s : State) (h : Keeps q n s) :
    Answers q n (execChunkMark pkt s) := by
  unfold execChunkMark
  repeat' first
    | with_reducible assumption
    | with_reducible intro _
    | with_reducible apply keeps_parts
    | with_reducible apply settleAnswers_keeps
    | with_reducible apply markPort_keeps
    | with_reducible apply answers_next
    | with_reducible apply answers_fault
    | with_reducible apply answers_refused
    | with_reducible apply ite_answers
    | with_reducible apply ite_keeps
    | with_reducible apply foldl_keeps
    | with_reducible apply foldl_pair_keeps
    | split
    | rw [keeps_mk_iff]
    | dsimp only

theorem ackFore_keeps (p : Packet) (s : State) (h : Keeps q n s) :
    Keeps q n (ackFore p s) := by
  unfold ackFore
  repeat' first
    | with_reducible assumption
    | with_reducible intro _
    | with_reducible apply keeps_parts
    | with_reducible apply portDone_keeps
    | with_reducible apply sendAnswer_keeps
    | with_reducible apply digestPacket_keeps
    | with_reducible apply ite_keeps
    | with_reducible apply foldl_keeps
    | with_reducible apply foldl_pair_keeps
    | split
    | rw [keeps_mk_iff]
    | dsimp only

theorem nakFore_keeps (p : Packet) (cause : Nat) (s : State) (h : Keeps q n s) :
    Keeps q n (nakFore p cause s) := by
  unfold nakFore
  repeat' first
    | with_reducible assumption
    | with_reducible intro _
    | with_reducible apply keeps_parts
    | with_reducible apply portDone_keeps
    | with_reducible apply nakAs_keeps
    | with_reducible apply ite_keeps
    | with_reducible apply foldl_keeps
    | with_reducible apply foldl_pair_keeps
    | split
    | rw [keeps_mk_iff]
    | dsimp only

theorem acceptCmd_keeps (p : Packet) (s : State) (h : Keeps q n s) :
    Keeps q n (acceptCmd p s) := by
  unfold acceptCmd
  repeat' first
    | with_reducible assumption
    | with_reducible intro _
    | with_reducible apply keeps_parts
    | with_reducible apply ite_keeps
    | with_reducible apply foldl_keeps
    | with_reducible apply foldl_pair_keeps
    | split
    | rw [keeps_mk_iff]
    | dsimp only

theorem cmdPort_keeps (p : Packet) (s : State) (h : Keeps q n s) :
    Keeps q n (cmdPort p s) := by
  unfold cmdPort
  repeat' first
    | with_reducible assumption
    | with_reducible intro _
    | with_reducible apply keeps_parts
    | with_reducible apply nakFore_keeps
    | with_reducible apply incReg_keeps
    | with_reducible apply ackFore_keeps
    | with_reducible apply acceptCmd_keeps
    | with_reducible apply ite_keeps
    | with_reducible apply foldl_keeps
    | with_reducible apply foldl_pair_keeps
    | split
    | rw [keeps_mk_iff]
    | dsimp only

theorem forePort_keeps (p : Packet) (s : State) (h : Keeps q n s) :
    Keeps q n (forePort p s) := by
  unfold forePort
  repeat' first
    | with_reducible assumption
    | with_reducible intro _
    | with_reducible apply keeps_parts
    | with_reducible apply cmdPort_keeps
    | with_reducible apply ackFore_keeps
    | with_reducible apply nakFore_keeps
    | with_reducible apply ite_keeps
    | with_reducible apply foldl_keeps
    | with_reducible apply foldl_pair_keeps
    | split
    | rw [keeps_mk_iff]
    | dsimp only

theorem execCmd_keeps (pkt : Packet) (s : State) (h : Keeps q n s) :
    Answers q n (execCmd pkt s) := by
  unfold execCmd
  repeat' first
    | with_reducible assumption
    | with_reducible intro _
    | with_reducible apply keeps_parts
    | with_reducible apply settleAnswers_keeps
    | with_reducible apply forePort_keeps
    | with_reducible apply answers_next
    | with_reducible apply answers_fault
    | with_reducible apply answers_refused
    | with_reducible apply ite_answers
    | with_reducible apply ite_keeps
    | with_reducible apply foldl_keeps
    | with_reducible apply foldl_pair_keeps
    | split
    | rw [keeps_mk_iff]
    | dsimp only

theorem execMgmt_keeps (pkt : Packet) (s : State) (h : Keeps q n s) :
    Answers q n (execMgmt pkt s) := by
  unfold execMgmt
  repeat' first
    | with_reducible assumption
    | with_reducible intro _
    | with_reducible apply keeps_parts
    | with_reducible apply settleAnswers_keeps
    | with_reducible apply forePort_keeps
    | with_reducible apply answers_next
    | with_reducible apply answers_fault
    | with_reducible apply answers_refused
    | with_reducible apply ite_answers
    | with_reducible apply ite_keeps
    | with_reducible apply foldl_keeps
    | with_reducible apply foldl_pair_keeps
    | split
    | rw [keeps_mk_iff]
    | dsimp only

theorem startCmd_keeps (c : QCmd) (s : State) (h : Keeps q n s) :
    Answers q n (startCmd c s) := by
  unfold startCmd
  repeat' first
    | with_reducible assumption
    | with_reducible intro _
    | with_reducible apply keeps_parts
    | with_reducible apply refuse_keeps
    | with_reducible apply runCommand_keeps
    | with_reducible apply answers_next
    | with_reducible apply answers_fault
    | with_reducible apply answers_refused
    | with_reducible apply ite_answers
    | with_reducible apply ite_keeps
    | with_reducible apply foldl_keeps
    | with_reducible apply foldl_pair_keeps
    | split
    | rw [keeps_mk_iff]
    | dsimp only

theorem execCommandStart_keeps (queue : Nat) (s : State) (h : Keeps q n s) :
    Answers q n (execCommandStart queue s) := by
  unfold execCommandStart
  repeat' first
    | with_reducible assumption
    | with_reducible intro _
    | with_reducible apply keeps_parts
    | with_reducible apply startCmd_keeps
    | with_reducible apply answers_next
    | with_reducible apply answers_fault
    | with_reducible apply answers_refused
    | with_reducible apply ite_answers
    | with_reducible apply ite_keeps
    | with_reducible apply foldl_keeps
    | with_reducible apply foldl_pair_keeps
    | split
    | rw [keeps_mk_iff]
    | dsimp only

theorem noteAcked_keeps (p : Packet) (s : State) (h : Keeps q n s) :
    Keeps q n (noteAcked p s) := by
  unfold noteAcked
  repeat' first
    | with_reducible assumption
    | with_reducible intro _
    | with_reducible apply keeps_parts
    | with_reducible apply putCtx_keeps
    | with_reducible apply touchCtx_keeps
    | with_reducible apply ite_keeps
    | with_reducible apply foldl_keeps
    | with_reducible apply foldl_pair_keeps
    | split
    | rw [keeps_mk_iff]
    | dsimp only

theorem failPurpose_keeps (w : Option Purpose) (status : Nat) (s : State) (h : Keeps q n s) :
    Keeps q n (failPurpose w status s) := by
  unfold failPurpose
  repeat' first
    | with_reducible assumption
    | with_reducible intro _
    | with_reducible apply keeps_parts
    | with_reducible apply failResume_keeps
    | with_reducible apply failSave_keeps
    | with_reducible apply ite_keeps
    | with_reducible apply foldl_keeps
    | with_reducible apply foldl_pair_keeps
    | split
    | rw [keeps_mk_iff]
    | dsimp only

theorem takeAnswer_keeps (p : Packet) (s : State) (h : Keeps q n s) :
    Keeps q n (takeAnswer p s) := by
  unfold takeAnswer
  repeat' first
    | with_reducible assumption
    | with_reducible intro _
    | with_reducible apply keeps_parts
    | with_reducible apply settleAnswers_keeps
    | with_reducible apply failPurpose_keeps
    | with_reducible apply sendAnswer_keeps
    | with_reducible apply noteAcked_keeps
    | with_reducible apply ite_keeps
    | with_reducible apply foldl_keeps
    | with_reducible apply foldl_pair_keeps
    | split
    | rw [keeps_mk_iff]
    | dsimp only

theorem takeBlock_keeps (kind : Nat) (l : Nat) (b : List Byte) (s : State) (h : Keeps q n s) :
    Keeps q n (takeBlock kind l b s) := by
  unfold takeBlock
  repeat' first
    | with_reducible assumption
    | with_reducible intro _
    | with_reducible apply keeps_parts
    | with_reducible apply incReg_keeps
    | with_reducible apply takeAnswer_keeps
    | with_reducible apply ite_keeps
    | with_reducible apply foldl_keeps
    | with_reducible apply foldl_pair_keeps
    | split
    | rw [keeps_mk_iff]
    | dsimp only

theorem execAck_keeps (ans : AnswerIn) (s : State) (h : Keeps q n s) :
    Answers q n (execAck ans s) := by
  unfold execAck
  repeat' first
    | with_reducible assumption
    | with_reducible intro _
    | with_reducible apply keeps_parts
    | with_reducible apply takeAnswer_keeps
    | with_reducible apply takeBlock_keeps
    | with_reducible apply answers_next
    | with_reducible apply answers_fault
    | with_reducible apply answers_refused
    | with_reducible apply ite_answers
    | with_reducible apply ite_keeps
    | with_reducible apply foldl_keeps
    | with_reducible apply foldl_pair_keeps
    | split
    | rw [keeps_mk_iff]
    | dsimp only

theorem execNak_keeps (ans : AnswerIn) (s : State) (h : Keeps q n s) :
    Answers q n (execNak ans s) := by
  unfold execNak
  repeat' first
    | with_reducible assumption
    | with_reducible intro _
    | with_reducible apply keeps_parts
    | with_reducible apply takeAnswer_keeps
    | with_reducible apply takeBlock_keeps
    | with_reducible apply answers_next
    | with_reducible apply answers_fault
    | with_reducible apply answers_refused
    | with_reducible apply ite_answers
    | with_reducible apply ite_keeps
    | with_reducible apply foldl_keeps
    | with_reducible apply foldl_pair_keeps
    | split
    | rw [keeps_mk_iff]
    | dsimp only

theorem noteWeight_keeps (heat : Nat) (cells : Nat) (s : State) (h : Keeps q n s) :
    Keeps q n (noteWeight heat cells s) := by
  unfold noteWeight
  repeat' first
    | with_reducible assumption
    | with_reducible intro _
    | with_reducible apply keeps_parts
    | with_reducible apply ite_keeps
    | with_reducible apply foldl_keeps
    | with_reducible apply foldl_pair_keeps
    | split
    | rw [keeps_mk_iff]
    | dsimp only

theorem sendOut_keeps (port : Nat) (vc : Nat) (cells : Nat) (p : Packet) (aborted : Bool) (s : State) (h : Keeps q n s) :
    Keeps q n (sendOut port vc cells p aborted s) := by
  unfold sendOut
  repeat' first
    | with_reducible assumption
    | with_reducible intro _
    | with_reducible apply keeps_parts
    | with_reducible apply modVc_keeps
    | with_reducible apply noteWeight_keeps
    | with_reducible apply sendPacket_keeps
    | with_reducible apply digestPacket_keeps
    | with_reducible apply ite_keeps
    | with_reducible apply foldl_keeps
    | with_reducible apply foldl_pair_keeps
    | split
    | rw [keeps_mk_iff]
    | dsimp only

theorem sendHead_keeps (port : Nat) (i : Nat) (aborted : Bool) (ecc : CellErrs) (s : State) (h : Keeps q n s) :
    Keeps q n (sendHead port i aborted ecc s) := by
  unfold sendHead
  repeat' first
    | with_reducible assumption
    | with_reducible intro _
    | with_reducible apply keeps_parts
    | with_reducible refine popQueue_keeps (by assumption) ?_
    | with_reducible apply settleBindings_keeps
    | with_reducible apply dropHold_keeps
    | with_reducible apply noteCellErrs_keeps
    | with_reducible apply dropDamagedAt_keeps
    | with_reducible apply nak_keeps
    | with_reducible apply sendOut_keeps
    | with_reducible apply ite_keeps
    | with_reducible apply foldl_keeps
    | with_reducible apply foldl_pair_keeps
    | split
    | rw [keeps_mk_iff]
    | dsimp only

theorem noteNoFit_keeps (port : Nat) (s : State) (h : Keeps q n s) :
    Keeps q n (noteNoFit port s) := by
  unfold noteNoFit
  repeat' first
    | with_reducible assumption
    | with_reducible intro _
    | with_reducible apply keeps_parts
    | with_reducible apply incReg_keeps
    | with_reducible apply putQueue_keeps
    | with_reducible apply ite_keeps
    | with_reducible apply foldl_keeps
    | with_reducible apply foldl_pair_keeps
    | split
    | rw [keeps_mk_iff]
    | dsimp only

theorem portTakes_keeps (port : Nat) (p : Packet) (s : State) (h : Keeps q n s) :
    Keeps q n (portTakes port p s) := by
  unfold portTakes
  repeat' first
    | with_reducible assumption
    | with_reducible intro _
    | with_reducible apply keeps_parts
    | with_reducible apply forePort_keeps
    | with_reducible apply replyPort_keeps
    | with_reducible apply memPort_keeps
    | with_reducible apply pourPort_keeps
    | with_reducible apply ite_keeps
    | with_reducible apply foldl_keeps
    | with_reducible apply foldl_pair_keeps
    | split
    | rw [keeps_mk_iff]
    | dsimp only

theorem departPort_keeps (port : Nat) (ecc : CellErrs) (s : State) (h : Keeps q n s) :
    Keeps q n (departPort port ecc s) := by
  unfold departPort
  repeat' first
    | with_reducible assumption
    | with_reducible intro _
    | with_reducible apply keeps_parts
    | with_reducible refine popQueue_keeps (by assumption) ?_
    | with_reducible apply settleBindings_keeps
    | with_reducible apply dropHold_keeps
    | with_reducible apply noteCellErrs_keeps
    | with_reducible apply settleAnswers_keeps
    | with_reducible apply portDone_keeps
    | with_reducible apply dropDamaged_keeps
    | with_reducible apply portTakes_keeps
    | with_reducible apply ite_keeps
    | with_reducible apply foldl_keeps
    | with_reducible apply foldl_pair_keeps
    | split
    | rw [keeps_mk_iff]
    | dsimp only

theorem departLink_keeps (l : Nat) (ecc : CellErrs) (s : State) (h : Keeps q n s) :
    Keeps q n (departLink l ecc s) := by
  unfold departLink
  repeat' first
    | with_reducible assumption
    | with_reducible intro _
    | with_reducible apply keeps_parts
    | with_reducible apply noteNoFit_keeps
    | with_reducible apply sendHead_keeps
    | with_reducible apply ite_keeps
    | with_reducible apply foldl_keeps
    | with_reducible apply foldl_pair_keeps
    | split
    | rw [keeps_mk_iff]
    | dsimp only

theorem execPacketDepart_keeps (port : Nat) (ecc : CellErrs) (s : State) (h : Keeps q n s) :
    Answers q n (execPacketDepart port ecc s) := by
  unfold execPacketDepart
  repeat' first
    | with_reducible assumption
    | with_reducible intro _
    | with_reducible apply keeps_parts
    | with_reducible apply resendMarked_keeps
    | with_reducible apply departLink_keeps
    | with_reducible apply onUnit_keeps
    | with_reducible apply departPort_keeps
    | with_reducible apply answers_next
    | with_reducible apply answers_fault
    | with_reducible apply answers_refused
    | with_reducible apply ite_answers
    | with_reducible apply ite_keeps
    | with_reducible apply foldl_keeps
    | with_reducible apply foldl_pair_keeps
    | split
    | rw [keeps_mk_iff]
    | dsimp only

theorem dupRequest_keeps {p : Packet} {s : State} {t : State} (e : dupRequest p s = some t) (h : Keeps q n s) : Keeps q n t := by
  unfold dupRequest at e
  try dsimp only at e
  (repeat' split at e) <;> first | (cases e; done) | (injection e with e; subst e) | skip
  all_goals repeat' first
    | with_reducible assumption
    | with_reducible intro _
    | with_reducible apply keeps_parts
    | with_reducible apply incReg_keeps
    | with_reducible apply sendAnswer_keeps
    | with_reducible apply memPort_keeps
    | with_reducible apply ite_keeps
    | with_reducible apply foldl_keeps
    | with_reducible apply foldl_pair_keeps
    | split
    | rw [keeps_mk_iff]
    | dsimp only

theorem forgetFwd_keeps (src : Nat) (stream : Nat) (s : State) (h : Keeps q n s) :
    Keeps q n (forgetFwd src stream s) := by
  unfold forgetFwd
  repeat' first
    | with_reducible assumption
    | with_reducible intro _
    | with_reducible apply keeps_parts
    | with_reducible apply ite_keeps
    | with_reducible apply foldl_keeps
    | with_reducible apply foldl_pair_keeps
    | split
    | rw [keeps_mk_iff]
    | dsimp only

theorem receiveOwn_keeps (l : Nat) (x1 : Nat) (x2 : Nat) (damaged : Bool) (p : Packet) (s : State) (h : Keeps q n s) :
    Keeps q n (receiveOwn l x1 x2 damaged p s) := by
  unfold receiveOwn
  repeat' first
    | with_reducible assumption
    | with_reducible intro _
    | with_reducible apply keeps_parts
    | with_reducible apply nak_keeps
    | with_reducible apply noteNoRoom_keeps
    | with_reducible apply giveCredit_keeps
    | with_reducible apply dropDamaged_keeps
    | with_reducible apply returnCredit_keeps
    | with_reducible apply takeAnswer_keeps
    | with_reducible refine dupRequest_keeps (by assumption) ?_
    | with_reducible apply settleAnswers_keeps
    | with_reducible apply arriveHere_keeps
    | with_reducible apply forgetFwd_keeps
    | with_reducible apply ite_keeps
    | with_reducible apply foldl_keeps
    | with_reducible apply foldl_pair_keeps
    | split
    | rw [keeps_mk_iff]
    | dsimp only

theorem noteBridge_keeps (l : Nat) (d : Nat) (x2 : Nat) (s : State) (h : Keeps q n s) :
    Keeps q n (noteBridge l d x2 s) := by
  unfold noteBridge
  repeat' first
    | with_reducible assumption
    | with_reducible intro _
    | with_reducible apply keeps_parts
    | with_reducible apply modHalf_keeps
    | with_reducible apply ite_keeps
    | with_reducible apply foldl_keeps
    | with_reducible apply foldl_pair_keeps
    | split
    | rw [keeps_mk_iff]
    | dsimp only

theorem receiveTransit_keeps (l : Nat) (x1 : Nat) (x2 : Nat) (damaged : Bool) (p0 : Packet) (s0 : State) (hs0 : Keeps q n s0) :
    Keeps q n (receiveTransit l x1 x2 damaged p0 s0) := by
  unfold receiveTransit
  repeat' first
    | with_reducible assumption
    | with_reducible intro _
    | with_reducible apply keeps_parts
    | with_reducible apply preparePath_keeps
    | with_reducible refine preparePath_keeps_eq (by assumption) ?_
    | with_reducible apply nak_keeps
    | with_reducible apply incReg_keeps
    | with_reducible apply giveCredit_keeps
    | with_reducible apply noteHop_keeps
    | with_reducible refine holdCells_keeps (by assumption) ?_
    | with_reducible apply noteNoRoom_keeps
    | with_reducible apply noteBridge_keeps
    | with_reducible apply sendHead_keeps
    | with_reducible apply enqueue_keeps
    | with_reducible apply dropDamagedAt_keeps
    | with_reducible apply dropHold_keeps
    | with_reducible apply ite_keeps
    | with_reducible apply foldl_keeps
    | with_reducible apply foldl_pair_keeps
    | split
    | rw [keeps_mk_iff]
    | dsimp only

theorem receiveOn_keeps (l : Nat) (x1 : Nat) (x2 : Nat) (damaged : Bool) (p : Packet) (s : State) (h : Keeps q n s) :
    Keeps q n (receiveOn l x1 x2 damaged p s) := by
  unfold receiveOn
  repeat' first
    | with_reducible assumption
    | with_reducible intro _
    | with_reducible apply keeps_parts
    | with_reducible apply dropDamagedAt_keeps
    | with_reducible apply giveCredit_keeps
    | with_reducible apply replicate_keeps
    | with_reducible apply receiveOwn_keeps
    | with_reducible apply receiveTransit_keeps
    | with_reducible apply ite_keeps
    | with_reducible apply foldl_keeps
    | with_reducible apply foldl_pair_keeps
    | split
    | rw [keeps_mk_iff]
    | dsimp only

theorem receiveEdge_keeps (l : Nat) (x1 : Nat) (x2 : Nat) (damaged : Bool) (p : Packet) (s : State) (h : Keeps q n s) :
    Keeps q n (receiveEdge l x1 x2 damaged p s) := by
  unfold receiveEdge
  repeat' first
    | with_reducible assumption
    | with_reducible intro _
    | with_reducible apply keeps_parts
    | with_reducible apply giveCredit_keeps
    | with_reducible apply logEvent_keeps
    | with_reducible apply modLink_keeps
    | with_reducible apply nak_keeps
    | with_reducible apply police_keeps
    | with_reducible refine police_keeps_eq (by assumption) ?_
    | with_reducible apply receiveOn_keeps
    | with_reducible apply ite_keeps
    | with_reducible apply foldl_keeps
    | with_reducible apply foldl_pair_keeps
    | split
    | rw [keeps_mk_iff]
    | dsimp only

theorem receiveHeader_keeps (l : Nat) (x1 : Nat) (damaged : Bool) (p : Packet) (s : State) (h : Keeps q n s) :
    Keeps q n (receiveHeader l x1 damaged p s) := by
  unfold receiveHeader
  repeat' first
    | with_reducible assumption
    | with_reducible intro _
    | with_reducible apply keeps_parts
    | with_reducible apply giveCredit_keeps
    | with_reducible apply receiveEdge_keeps
    | with_reducible apply nak_keeps
    | with_reducible apply incReg_keeps
    | with_reducible apply receiveOn_keeps
    | with_reducible apply ite_keeps
    | with_reducible apply foldl_keeps
    | with_reducible apply foldl_pair_keeps
    | split
    | rw [keeps_mk_iff]
    | dsimp only

theorem takeFrameOn_keeps (l : Nat) (f0 : Frame) (s : State) (h : Keeps q n s) :
    Keeps q n (takeFrameOn l f0 s).2 := by
  unfold takeFrameOn
  repeat' first
    | with_reducible assumption
    | with_reducible intro _
    | with_reducible apply keeps_parts
    | with_reducible apply modLink_keeps
    | with_reducible apply countViolations_keeps
    | with_reducible apply incReg_keeps
    | with_reducible apply ite_keeps
    | with_reducible apply foldl_keeps
    | with_reducible apply foldl_pair_keeps
    | split
    | rw [keeps_mk_iff]
    | dsimp only

theorem takeFrameOn_keeps_eq {l : Nat} {f0 : Frame} {s : State} {v : Frame} {t : State} (e : takeFrameOn l f0 s = (v, t)) (h : Keeps q n s) : Keeps q n t := by
  have h := takeFrameOn_keeps l f0 s h (q := q) (n := n)
  rw [e] at h; exact h

theorem receiveFrame_keeps (l : Nat) (f0 : Frame) (ecc : CellErrs) (s : State) (h : Keeps q n s) :
    Keeps q n (receiveFrame l f0 ecc s) := by
  unfold receiveFrame
  repeat' first
    | with_reducible assumption
    | with_reducible intro _
    | with_reducible apply keeps_parts
    | with_reducible apply takeFrameOn_keeps
    | with_reducible refine takeFrameOn_keeps_eq (by assumption) ?_
    | with_reducible apply incReg_keeps
    | with_reducible apply receiveHeader_keeps
    | with_reducible apply noteCorrected_keeps
    | with_reducible apply addReg_keeps
    | with_reducible apply ite_keeps
    | with_reducible apply foldl_keeps
    | with_reducible apply foldl_pair_keeps
    | split
    | rw [keeps_mk_iff]
    | dsimp only

theorem execPacketReceive_keeps (l : Nat) (f : Frame) (ecc : CellErrs) (s : State) (h : Keeps q n s) :
    Answers q n (execPacketReceive l f ecc s) := by
  unfold execPacketReceive
  repeat' first
    | with_reducible assumption
    | with_reducible intro _
    | with_reducible apply keeps_parts
    | with_reducible apply onUnit_keeps
    | with_reducible apply resendMarked_keeps
    | with_reducible apply receiveFrame_keeps
    | with_reducible apply answers_next
    | with_reducible apply answers_fault
    | with_reducible apply answers_refused
    | with_reducible apply ite_answers
    | with_reducible apply ite_keeps
    | with_reducible apply foldl_keeps
    | with_reducible apply foldl_pair_keeps
    | split
    | rw [keeps_mk_iff]
    | dsimp only

theorem givenUp_keeps (x : SentPkt) (s : State) (h : Keeps q n s) :
    Keeps q n (givenUp x s) := by
  unfold givenUp
  repeat' first
    | with_reducible assumption
    | with_reducible intro _
    | with_reducible apply keeps_parts
    | with_reducible apply logEvent_keeps
    | with_reducible apply incReg_keeps
    | with_reducible apply failPurpose_keeps
    | with_reducible apply ite_keeps
    | with_reducible apply foldl_keeps
    | with_reducible apply foldl_pair_keeps
    | split
    | rw [keeps_mk_iff]
    | dsimp only

theorem giveUp_keeps (src : Nat) (stream : Nat) (x : SentPkt) (s : State) (h : Keeps q n s) :
    Keeps q n (giveUp src stream x s) := by
  unfold giveUp
  repeat' first
    | with_reducible assumption
    | with_reducible intro _
    | with_reducible apply keeps_parts
    | with_reducible apply logEvent_keeps
    | with_reducible apply incReg_keeps
    | with_reducible apply dropSent_keeps
    | with_reducible apply settleAnswers_keeps
    | with_reducible apply givenUp_keeps
    | with_reducible apply reportGiveUp_keeps
    | with_reducible apply ite_keeps
    | with_reducible apply foldl_keeps
    | with_reducible apply foldl_pair_keeps
    | split
    | rw [keeps_mk_iff]
    | dsimp only

theorem sendReopened_keeps (src : Nat) (dst : Nat) (stream : Nat) (s : State) (h : Keeps q n s) :
    Keeps q n (sendReopened src dst stream s) := by
  unfold sendReopened
  repeat' first
    | with_reducible assumption
    | with_reducible intro _
    | with_reducible apply keeps_parts
    | with_reducible apply flushOne_keeps
    | with_reducible apply advanceTo_keeps
    | with_reducible apply ite_keeps
    | with_reducible apply foldl_keeps
    | with_reducible apply foldl_pair_keeps
    | split
    | rw [keeps_mk_iff]
    | dsimp only

theorem execResendTimeout_keeps (src : Nat) (dst : Nat) (stream : Nat) (seq : Nat) (s : State) (h : Keeps q n s) :
    Answers q n (execResendTimeout src dst stream seq s) := by
  unfold execResendTimeout
  repeat' first
    | with_reducible assumption
    | with_reducible intro _
    | with_reducible apply keeps_parts
    | with_reducible apply sendReopened_keeps
    | with_reducible apply advanceTo_keeps
    | with_reducible apply giveUp_keeps
    | with_reducible apply resendKept_keeps
    | with_reducible apply answers_next
    | with_reducible apply answers_fault
    | with_reducible apply answers_refused
    | with_reducible apply ite_answers
    | with_reducible apply ite_keeps
    | with_reducible apply foldl_keeps
    | with_reducible apply foldl_pair_keeps
    | split
    | rw [keeps_mk_iff]
    | dsimp only

theorem breakStream_keeps (c : Ctx) (s : State) (h : Keeps q n s) :
    Keeps q n (breakStream c s) := by
  unfold breakStream
  repeat' first
    | with_reducible assumption
    | with_reducible intro _
    | with_reducible apply keeps_parts
    | with_reducible apply nak_keeps
    | with_reducible apply dropHold_keeps
    | with_reducible apply delCtx_keeps
    | with_reducible apply incReg_keeps
    | with_reducible apply ite_keeps
    | with_reducible apply foldl_keeps
    | with_reducible apply foldl_pair_keeps
    | split
    | rw [keeps_mk_iff]
    | dsimp only

theorem execGapTimeout_keeps (src : Nat) (stream : Nat) (dst : Nat) (s : State) (h : Keeps q n s) :
    Answers q n (execGapTimeout src stream dst s) := by
  unfold execGapTimeout
  repeat' first
    | with_reducible assumption
    | with_reducible intro _
    | with_reducible apply keeps_parts
    | with_reducible apply resendMarked_keeps
    | with_reducible apply breakStream_keeps
    | with_reducible apply advanceTo_keeps
    | with_reducible apply answers_next
    | with_reducible apply answers_fault
    | with_reducible apply answers_refused
    | with_reducible apply ite_answers
    | with_reducible apply ite_keeps
    | with_reducible apply foldl_keeps
    | with_reducible apply foldl_pair_keeps
    | split
    | rw [keeps_mk_iff]
    | dsimp only

end Sys2Proof.Machine
end

