-- ==== Sys2Proof/Laws/Transport.lean ====
section
/-! SUPPORT. Sending leaves the rest of the state alone: every operation that queues, routes, numbers, answers or replies changes only
what `rest` blanks out. -/
namespace Sys2Proof.Machine

/-- A fold of steps that keep the rest keeps it. -/
theorem rest_foldl {α : Type} (f : State → α → State) (h : ∀ s a, rest (f s a) = rest s) (l : List α) (s : State) :
    rest (l.foldl f s) = rest s := by
  induction l generalizing s with
  | nil => rfl
  | cons a l ih => rw [List.foldl_cons, ih, h]

@[simp] theorem rest_setReg (f : Fld) (i v : Nat) (s : State) : rest (setReg f i v s) = rest s := rfl
@[simp] theorem rest_addReg (f : Fld) (i k : Nat) (s : State) : rest (addReg f i k s) = rest s := rfl
@[simp] theorem rest_incReg (f : Fld) (i : Nat) (s : State) : rest (incReg f i s) = rest s := rfl
@[simp] theorem rest_emit (o : OutMsg) (s : State) : rest (emit o s) = rest s := rfl
@[simp] theorem rest_useFree (s : State) : rest (useFree s) = rest s := rfl
@[simp] theorem rest_markCtxs (g : DetCtx → DetCtx) (s : State) : rest (markCtxs g s) = rest s := rfl
@[simp] theorem rest_modSched (p : Nat) (g : SchedPart → SchedPart) (s : State) : rest (modSched p g s) = rest s := rfl
@[simp] theorem rest_putCtx (c : Ctx) (s : State) : rest (putCtx c s) = rest s := rfl
@[simp] theorem rest_delCtx (k : Nat) (s : State) : rest (delCtx k s) = rest s := rfl
@[simp] theorem rest_modVc (l v : Nat) (f : VcPart → VcPart) (s : State) : rest (modVc l v f s) = rest s := rfl
@[simp] theorem rest_putQueue (i : Nat) (q : OutQueue) (s : State) : rest (putQueue i q s) = rest s := rfl
@[simp] theorem rest_delQueue (i : Nat) (s : State) : rest (delQueue i s) = rest s := rfl
@[simp] theorem rest_settleBindings (s : State) : rest (settleBindings s) = rest s := rfl
@[simp] theorem rest_modStream (a b c : Nat) (f : OutStream → OutStream) (s : State) : rest (modStream a b c f s) = rest s := rfl
@[simp] theorem rest_releaseSent (a b c d e : Nat) (s : State) : rest (releaseSent a b c d e s) = rest s := rfl
@[simp] theorem rest_dropSent (a b c : Nat) (s : State) : rest (dropSent a b c s) = rest s := rfl

@[simp] theorem rest_logEvent (a b c d : Nat) (e : List Byte) (s : State) : rest (logEvent a b c d e s) = rest s := by
  unfold logEvent; split <;> rfl

@[simp] theorem rest_modHalf (d : Nat) (f : TundishHalf → TundishHalf) (s : State) : rest (modHalf d f s) = rest s := by
  unfold modHalf; split <;> rfl

@[simp] theorem rest_giveCredit (l : Option Nat) (v n : Nat) (s : State) : rest (giveCredit l v n s) = rest s := by
  unfold giveCredit; split <;> rfl

@[simp] theorem rest_returnCredit (l v n : Nat) (s : State) : rest (returnCredit l v n s) = rest s := by
  unfold returnCredit; simp only []; (repeat' split) <;> rfl

/-- Cells held in a half. -/
theorem rest_holdCells {d p v c k : Nat} {l : Option Nat} {w id : Nat} {s t : State}
    (h : holdCells d p v c k l w s = some (id, t)) : rest t = rest s := by
  unfold holdCells at h
  split at h
  · cases h
  · split at h
    · cases h
    · injection h with h; injection h with _ h; subst h
      exact rest_modHalf d _ s

@[simp] theorem rest_dropHold (id : Nat) (s : State) : rest (dropHold id s) = rest s := by
  unfold dropHold
  split
  · rfl
  · simp only []
    split
    · rfl
    · split
      · rw [rest_returnCredit]; exact rest_modHalf _ _ s
      · exact rest_modHalf _ _ s

@[simp] theorem rest_noteNoRoom (d p v : Nat) (s : State) : rest (noteNoRoom d p v s) = rest s := by
  unfold noteNoRoom
  simp only []
  repeat' split
  all_goals simp

theorem rest_noteEnqueue (i d : Nat) (s : State) : rest (noteEnqueue i d s).2 = rest s := by
  unfold noteEnqueue; split
  · rfl
  · split <;> rfl

@[simp] theorem rest_enqueue (p v : Nat) (k : Packet) (c h : Nat) (s : State) : rest (enqueue p v k c h s) = rest s := by
  unfold enqueue
  simp only []
  split
  · rfl
  · rw [rest_putQueue]; exact rest_noteEnqueue _ _ s

theorem rest_preparePath (l : Option Nat) (p : Packet) (s : State) : rest (preparePath l p s).2 = rest s := by
  unfold preparePath; split
  · rfl
  · split <;> rfl

@[simp] theorem rest_noteHop (b : Bool) (h : Hop) (s : State) : rest (noteHop b h s) = rest s := by
  unfold noteHop
  simp only []
  split <;> split <;> split <;> rfl

/-- The state a packet leaves when it is put toward a link. -/
def PutResult.state : PutResult → State
  | .ok s => s
  | .noRoute s => s
  | .noRoom s => s

theorem rest_putFabric (b : Bool) (l : Option Nat) (v : Nat) (p : Packet) (s : State) :
    rest (putFabric b l v p s).state = rest s := by
  unfold putFabric
  split
  · simp [PutResult.state]
  · simp only []
    split
    · simp [PutResult.state]
    · rename_i hh; simp [PutResult.state, rest_holdCells hh]

@[simp] theorem rest_launch (p : Packet) (s : State) : rest (launch p s) = rest s := by
  unfold launch
  simp only []
  have h := rest_putFabric true none (preparePath none p s).1.cls (preparePath none p s).1 (preparePath none p s).2
  split <;> rename_i e <;> rw [e] at h <;> simpa [PutResult.state, rest_preparePath] using h

@[simp] theorem rest_reopenStream (a b c : Nat) (s : State) : rest (reopenStream a b c s) = rest s := rfl

@[simp] theorem rest_countResend (d : Nat) (s : State) : rest (countResend d s) = rest s := rfl

@[simp] theorem rest_resendNow (a b c : Nat) (s : State) : rest (resendNow a b c s) = rest s := by
  unfold resendNow
  exact (rest_foldl _ (fun s x => by simp) _ _).trans rfl

@[simp] theorem rest_sendLine (l : Nat) (m : OutMsg) (c : List Column) (s : State) : rest (sendLine l m c s) = rest s := rfl
@[simp] theorem rest_sendBlock (l : Nat) (b : List Byte) (s : State) : rest (sendBlock l b s) = rest s := rfl

@[simp] theorem rest_answerOwn (p : Packet) (s : State) : rest (answerOwn p s) = rest s := by
  unfold answerOwn
  simp only []
  (repeat' split) <;> first | rfl | simp

@[simp] theorem rest_sendAnswer (p : Packet) (s : State) : rest (sendAnswer p s) = rest s := by
  unfold sendAnswer
  (repeat' split) <;> first | rfl | simp

@[simp] theorem rest_nakAs (b : Nat) (p : Packet) (c : Nat) (s : State) : rest (nakAs b p c s) = rest s := rest_sendAnswer _ s

@[simp] theorem rest_nak (p : Packet) (c : Nat) (s : State) : rest (nak p c s) = rest s := by
  unfold nak; split <;> simp

theorem rest_roomForCtx {k : Nat} {s t : State} (h : roomForCtx k s = some t) : rest t = rest s := by
  unfold roomForCtx at h
  simp only [] at h
  split at h
  · injection h with h; rw [h]
  · split at h
    · injection h with h; rw [← h, rest_delCtx]
    · cases h

@[simp] theorem rest_outputPkt (p : Packet) (h : Nat) (s : State) : rest (outputPkt p h s) = rest s := by
  unfold outputPkt; simp only []; split <;> simp

theorem rest_drainHeld (n : Nat) (c : Ctx) (s : State) : rest (drainHeld n c s).2 = rest s := by
  induction n generalizing c s with
  | zero => rfl
  | succ n ih =>
    unfold drainHeld
    split
    · rfl
    · simp only []
      split
      · rw [ih, rest_outputPkt]
      · exact rest_outputPkt _ _ s

@[simp] theorem rest_deliverNext (c : Ctx) (p : Packet) (h : Nat) (s : State) : rest (deliverNext c p h s) = rest s := by
  unfold deliverNext
  split
  · simp only []; rw [rest_putCtx, rest_drainHeld, rest_outputPkt]
  · split <;> simp

@[simp] theorem rest_dropDamaged (p : Packet) (s : State) : rest (dropDamaged p s) = rest s := by
  unfold dropDamaged dropDamagedAt; simp

@[simp] theorem rest_resequence (c : Ctx) (p : Packet) (h : Nat) (s : State) : rest (resequence c p h s) = rest s := by
  unfold resequence
  simp only []
  repeat' split
  all_goals simp

@[simp] theorem rest_touchCtx (k d : Nat) (s : State) : rest (touchCtx k d s) = rest s := by
  unfold touchCtx
  simp only []
  split
  · rfl
  · split <;> rfl

@[simp] theorem rest_sequencePkt (p : Packet) (h : Nat) (s : State) : rest (sequencePkt p h s) = rest s := by
  unfold sequencePkt
  simp only []
  rw [← rest_touchCtx (ctxKey p.src p.stream p.dst) (dieOfDst p s) s]
  generalize touchCtx (ctxKey p.src p.stream p.dst) (dieOfDst p s) s = t
  split
  · split
    · split
      · rename_i hh; rw [rest_resequence, rest_roomForCtx hh]
      · simp
    · simp
  · repeat' split
    all_goals simp

@[simp] theorem rest_takeHere (l : Option Nat) (v : Nat) (p : Packet) (s : State) : rest (takeHere l v p s) = rest s := by
  unfold takeHere
  simp only []
  split
  · simp
  · split
    · simp
    · rename_i hh
      split <;> simp [rest_holdCells hh]

@[simp] theorem rest_arriveHere (l : Option Nat) (v : Nat) (p : Packet) (s : State) : rest (arriveHere l v p s) = rest s := by
  unfold arriveHere
  simp only [rest_takeHere]
  split
  all_goals first | exact rest_preparePath _ p s | skip
  all_goals split
  all_goals first | exact rest_preparePath _ p s | rfl

@[simp] theorem rest_portDone (p : Packet) (a b : Bool) (s : State) : rest (portDone p a b s) = rest s := by
  unfold portDone
  split
  · rfl
  · split
    · rfl
    · split
      · simp
      · simp only []; rw [rest_putCtx, rest_drainHeld]

@[simp] theorem rest_replicateOn (d : Nat) (a b : List Nat) (l : Option Nat) (v : Nat) (p : Packet) (s : State) :
    rest (replicateOn d a b l v p s) = rest s := by
  unfold replicateOn
  split
  · rfl
  · rename_i hh
    simp only []
    rw [rest_foldl _ (fun s x => by simp), rest_foldl _ (fun s x => by simp), rest_incReg, rest_holdCells hh]

@[simp] theorem rest_touchTree (k d : Nat) (s : State) : rest (touchTree k d s) = rest s := by
  unfold touchTree
  simp only []
  split
  · rfl
  · split <;> rfl

@[simp] theorem rest_replicate (l : Option Nat) (v : Nat) (p : Packet) (s : State) : rest (replicate l v p s) = rest s := by
  unfold replicate
  split
  · simp
  · simp only []
    split
    · rw [rest_nak, rest_noteNoRoom, rest_giveCredit]
    · generalize (List.range 2).filter _ = dies
      by_cases h : dies = []
      · rw [if_pos h, rest_giveCredit]
      · rw [if_neg h]; exact rest_foldl _ (fun s x => by rw [rest_replicateOn, rest_touchTree]) _ _

@[simp] theorem rest_inject (p : Packet) (s : State) : rest (inject p s) = rest s := by
  unfold inject; repeat' split
  all_goals simp [rest_preparePath]

theorem rest_sendOne (o : OutStream) (x : Packet × List Nat × Purpose) (s : State) : rest (sendOne o x s).2 = rest s := by
  unfold sendOne; simp only [rest_inject]; split <;> simp

theorem rest_flushStream (n : Nat) (o : OutStream) (s : State) : rest (flushStream n o s).2 = rest s := by
  induction n generalizing o s with
  | zero => rfl
  | succ n ih =>
    unfold flushStream
    split
    · rfl
    · split
      · rfl
      · simp only []; rw [ih, rest_sendOne]

@[simp] theorem rest_flushOne (a b c : Nat) (s : State) : rest (flushOne a b c s) = rest s := by
  unfold flushOne
  split
  · rfl
  · simp only []; rw [rest_modStream, rest_flushStream]

@[simp] theorem rest_flushPort (a : Nat) (s : State) : rest (flushPort a s) = rest s := by
  unfold flushPort
  exact rest_foldl _ (fun s x => by simp) _ _

@[simp] theorem rest_sendFrom (p : Packet) (l : List Nat) (w : Purpose) (s : State) : rest (sendFrom p l w s) = rest s := by
  unfold sendFrom
  simp only []
  rw [rest_flushPort]
  rfl

/-- A reply of port 56 changes nothing but the transport. -/
@[simp] theorem rest_reply (c : CmdRef) (st : Nat) (f : Bool) (b : List Byte) (s : State) : rest (reply c st f b s) = rest s := by
  unfold reply; simp

@[simp] theorem rest_answer (c : CmdRef) (st : Nat) (b : List Byte) (s : State) : rest (answer c st b s) = rest s := by
  unfold answer; split <;> simp

@[simp] theorem rest_refuse (c : CmdRef) (st : Nat) (s : State) : rest (refuse c st s) = rest s := rest_answer c st [] s

@[simp] theorem rest_done (c : CmdRef) (s : State) : rest (done c s) = rest s := rest_answer c stDone [] s

/-- ACCEPTED adds the command to the outstanding ones and changes nothing else but the transport. -/
theorem rest_accepted (c : CmdRef) (s : State) :
    rest (accepted c s) = rest { s with fore := { s.fore with outstanding := s.fore.outstanding ++ [c] } } := by
  unfold accepted; simp

end Sys2Proof.Machine
end

