-- ==== Sys2Proof/Tests/Slice0.lean ====
section
/-! SUPPORT. Tests: ill-formed commands are refused, single steps against the manual's numbers, and for every statement with
premises a state and operands that meet them (named witness_…). -/
namespace Sys2Proof.Tests

set_option Elab.async false

open Sys2Proof Sys2Proof.Machine

/-! ### Small states -/

/-- A command's header fields. -/
def m0 : CmdMeta := { src := 64, tag := 7, cls := 2 }

/-- An accepted command. -/
def c0 : CmdRef := { src := 64, tag := 7, op := 0x0009, cls := 2 }

/-- A device that runs, as member 0 of group 0 of a full machine. -/
def up : State :=
  { State.reset with
      power := { state := .running, p48Good := true, settled := true },
      pins := { resetN := true, refclk := true },
      coord := { group := some 0, count := some 145, seen := 65535 },
      fore := { activeAlive := true } }

/-- The same with Heat 5 bound to every group. -/
def bound : State := { up with coord := { up.coord with binds := [{ heat := 5, f := 0, c := 145, mask := 0xFFFFFFF }] } }

/-- The same with link `l` in a state. -/
def linkIn (l st : Nat) : State := setReg .lkState l st up

/-- The same with link `l` in a state, and its record. -/
def linkWith (l st : Nat) (k : LinkPart) : State := { linkIn l st with links := [(l, k)] }

/-- A control block of a kind, filled with zeros, with its CRC (R211). -/
def goodBlock (kind : Nat) : List Byte :=
  leBytes 1 kind ++ List.replicate 13 0 ++ leBytes 2 (crc16 (leBytes 1 kind ++ List.replicate 13 0))

/-- A packet from an endpoint of device 1 to port 57 of this device, and its place in an output queue. -/
def pk : Packet := { typ := 2, dst := 57, src := 64 }
def qe : QEnt :=
  { pkt := pk, cells := 2, hold := 1, at' := 0, headAt := 0, sample := none, bound := false, noFit := false }

/-- An output queue of a port and VC. -/
def oq (port vc : Nat) (dflt : Bool) (heat : Nat) (ents : List QEnt) : OutQueue :=
  { port := port, vc := vc, dflt := dflt, pend := false, heat := heat, ents := ents, tag := 0, weight := 1 }

/-- The device with output queues. -/
def withQueues (l : List (Nat × OutQueue)) : State := { up with sw := { queues := l } }

/-- The device with one port's scheduler, and one that is in its windows with one window of class 0 in a cycle of 1 µs. -/
def withSched (p : Nat) (c : SchedPart) : State := { up with sched := [(p, c)] }
def windows : State :=
  setReg .sdWinOn 51 1 (setReg .sdCycleNs 51 1000 (setReg .sdEntries 51 1
    (withSched 51 { table0 := [(0, 2 ^ 56 + 200 * 2 ^ 32)] })))

/-- A route change of link 47. -/
def rc (add : Bool) (step : Nat) : RouteChange :=
  { link := 47, add := add, awaiting := [], step := step, since := 0, cmd := none, powerOff := false }

/-- Page 7 of this device's own book (class `cls`) with an entry, its frame 3 in use for it, Heat 5 bound. -/
def ga (cls : Nat) : Nat := cls * 2 ^ 60 + 7 * 2 ^ 21
def ent : PageEnt := { state := 1, rw := true, frame := 3, owner := 5 }
def paged (e : PageEnt) (fs : Tab FrameRec) : State := { bound with mem := { book := [(7, e)], frames := fs } }
def rec3 : FrameRec := { use := .home 7, owner := 5, rw := true }
def page7 : State := paged ent [(3, rec3)]

/-- Page 7 as a class 2 page with its mirror on device 17. -/
def mirrored7 : State := paged { ent with cls := 2, mirror := 17 } [(3, { rec3 with cls := 2, peer := 17 })]

/-- Sixteen pages of book 0 that Heat 5 owns, for engine state; no frames listed. -/
def pages16 : State :=
  { bound with mem := { book := (List.range 16).map fun i => (i, { ent with frame := i }) } }

/-- A Pour of Heat 5 led here, and the device that holds one Pour. -/
def pr : Pour := { heat := 5, pourId := 9, desc := List.replicate 64 0, lead := true, leadDev := 0, step := 1 }
def withPour (p : Pour) : State := { bound with pour := { pours := [p] } }

/-- A BARRIER of Heat 5 over two members, one destination and this device as home, its digests computed outside Lean (SHAKE256, 8
bytes), and the device that holds its sets. -/
def sealedDesc : List Byte :=
  [9, 0, 0, 0, 5, 0, 0, 0, 1, 0, 2, 0, 3, 0, 11, 0, 0, 0, 0, 0, 0, 0, 0,
    0, 0, 0, 0, 0, 0, 0, 0, 0, 100, 0, 0, 0, 0, 0, 0, 0, 0, 0, 0, 0, 0, 0, 0, 0, 192, 81, 4, 237, 245, 244, 37, 36, 231, 105, 46, 31, 174, 154, 123, 120]
def withSets : State :=
  { bound with pour := { sets := [(1, ⟨2, [(0, 65), (1, 129)], true, 0⟩), (2, ⟨1, [(0, 66)], true, 0⟩), (3, ⟨1, [(0, 58)], true, 1⟩)] } }

/-- The same with a tree of this root for the barrier's destination. -/
def treed : State := { withSets with route := { treeSets := [(3, [66])], trees := [(treeKey 0 3, ⟨0, 3, 5, 0, 32, false, 0⟩)] } }

/-- The device with one set, with one segment, with one dense update state, with one embedding table. -/
def withSet (i : Nat) (t : MSet) : State := { up with pour := { sets := [(i, t)] } }
def sg (st : SegState) : Seg := { state := st, heat := 5, nDesc := 1, nTens := 1, descs := [(0, [])], tens := [(0, [])], maxRows := 8 }
def emptySeg : Seg := { sg .placing with tens := [], descs := [], nTens := 0, nDesc := 0 }
def withSeg (i : Nat) (g : Seg) : State := { bound with layer := { segs := [(i, g)] } }
def run5 : Run :=
  { cmd := c0, heat := 5, pass := 0, tag := 1, fwd := 0, rows := 1, first := 0, last := 0, deadline := 7, pairs := [], step := 0 }
def rs5 : RunState := { run := run5, next := 0, startAt := 0, flags := {}, reloaded := false, work := [], aborted := false }
def us : UpdState := { heat := 5, base := 0, elems := 64, kind := 1, slot := 0, t := 0, canRevert := true }
def tb : EmbTable := { heat := 5, base := 0, rows := 1, dim := 16, fmt := 1, kind := 3, buckets := 1, setIndex := 3 }
def withUpd (l : List UpdState) (t : List EmbTable) : State := { pages16 with upd := { states := l, tables := t } }

/-- The parts of audit records of Heat 5, and the Assay island with its supply. -/
def ctx5 : DetCtx := { heat := 5, record := 1, scope := 0, openAt := 0 }
def withDet (d : DetPart) : State := { pages16 with det := d }
def save5 (writing : Bool) : SaveJob :=
  { heat := 5, endp := 65, offset := 0, limit := 9, cont := true, since := 0, writing := writing, image := [], cmd := c0 }
def close5 (awaiting : List Nat) : CloseJob :=
  { heat := 5, sign := false, awaiting := awaiting, got := [], since := 0, cmd := c0 }
def island (a : AssayPart) : State := { up with assay := { a with vddGood := true } }

/-- Requests of Heat 5 for page 7, a contribution to the barrier, and a device on which that Pour is open. -/
def pput : Packet := { typ := 2, dst := 57, src := 64, heat := 5, addr := ga 0, payload := [1] }
def pget : Packet := { typ := 3, dst := 57, src := 64, heat := 5, addr := ga 0 }
def padd : Packet := { typ := 5, dst := 57, src := 64, heat := 5, addr := ga 0, args := 1, payload := leBytes 8 1 }
def bar : Pour := { pr with desc := sealedDesc, state := 1, openAt := some 0 }
def barHere : State := { withSets with pour := { withSets.pour with pours := [bar] } }
def contribution : Packet :=
  { typ := 6, last := true, dst := 58, src := 65, heat := 5, addr := 9, args := dTag32 sealedDesc }

/-- A packet sent and not yet answered on stream 1 from port 56 to endpoint 112, and the device that keeps it. -/
def sent1 (tries : Nat) : SentPkt :=
  { pkt := { pk with src := 56, dst := 112, stream := 1 }, at' := 0, tries := tries, awaiting := [112], why := .plain }
def withSent (x : SentPkt) : State :=
  { up with net := { streams :=
      [{ src := 56, dst := 112, stream := 1, next := 1, opened := true, unacked := [x], waiting := [], last := 0 }] } }

/-- The embedding table with its home set and its first page here. -/
def tableHere : State :=
  { withUpd [] [tb] with
      mem := { book := [(0, ent)], frames := [(3, { rec3 with use := .home 0 })] }
      pour := { sets := [(3, ⟨1, [(0, 58)], true, 1⟩)] } }

/-- An ACK or NAK block from the endpoint on link 51, and the device that sent it the packet 0 of stream 1 of endpoint 64. -/
def answerBlock1 (kind : Nat) : List Byte :=
  let b := packFields [(1, kind), (3, 64), (3, 1), (3, 0), (2, 0), (2, 0)]
  b ++ leBytes 2 (crc16 b)
def answered : State :=
  { linkIn 51 4 with net := { ctxs := [(ctxKey 64 1 51, ⟨64, 1, 51, 1, 0, [], 0, false, [(0, 5, 2)]⟩)] } }

/-- A page move of page 7. -/
def mv7 (k : MoveKind) : Move :=
  { page := 7, kind := k, target := 1, old := 3, new := 9, frozen := true, since := 0, cmd := none }
def moving7 (k : MoveKind) : State :=
  { bound with mem := { book := [(7, ent)], frames := [(3, rec3)], moves := [mv7 k] } }

/-- The nominal ACLK is one of two. -/
theorem aclk_cases : aclkKhz = 1800000 ∨ aclkKhz = 2000000 := by
  unfold aclkKhz; split <;> simp

/-- Premises over the members of an empty list. -/
theorem noneIn {α : Type} {l : List α} {P : α → Prop} (h : l = []) : ∀ e ∈ l, P e := by
  subst h; simp

/-- Premises over what an option holds. -/
theorem onlySome {α : Type} {o : Option α} {x : α} {P : α → Prop} (h : o = some x) (hp : P x) : ∀ e, o = some e → P e := by
  rintro e rfl; cases h; exact hp

/-! ### Premises can be met -/

/-- States and operands that meet the premises of DeviceCommandsComplete, clause by clause. -/
theorem witness_DeviceCommandsComplete :
    (∃ (m : CmdMeta) (s : State), Takes m 0x0000 s) ∧
    (∃ (m : CmdMeta) (s : State), Takes m 0x0001 s) ∧
    (∃ (m : CmdMeta) (s : State) (heat : _) (f : _) (c : _) (mask : _), Takes m 0x0002 s ∧ heat ≠ 0 ∧ 1 ≤ c ∧ c ≤ 145 ∧ f < 145 ∧ mask < 2 ^ 28 ∧ (∃ n own, s.coord.count = some n ∧ s.coord.group = some own ∧ sliceBelow f c n = true ∧ inSlice f c own = true) ∧ bindOf heat s = none ∧ recentlyUnbound heat s = false ∧ s.coord.binds.length < 1024) ∧
    (∃ (m : CmdMeta) (s : State) (heat : _) (f : _) (c : _) (mask : _) (b : _), Takes m 0x0002 s ∧ heat ≠ 0 ∧ 1 ≤ c ∧ c ≤ 145 ∧ f < 145 ∧ mask < 2 ^ 28 ∧ (∃ n own, s.coord.count = some n ∧ s.coord.group = some own ∧ sliceBelow f c n = true ∧ inSlice f c own = true) ∧ bindOf heat s = some b ∧ b.f = f ∧ b.c = c) ∧
    (∃ (m : CmdMeta) (s : State) (heat : _), Takes m 0x0003 s ∧ heat ≠ 0 ∧ isBound heat s = true ∧ heatInUse heat s = false) ∧
    (∃ (m : CmdMeta) (s : State) (first : _), Takes m 0x0004 s ∧ first < 1024) ∧
    (∃ (m : CmdMeta) (s : State) (addr : _) (count : _), Takes m 0x0010 s ∧ 1 ≤ count ∧ count ≤ 64 ∧ csrAddrOk addr count = true) ∧
    (∃ (m : CmdMeta) (s : State) (addr : _) (count : _) (words : List Nat), Takes m 0x0011 s ∧ 1 ≤ count ∧ count ≤ 64 ∧ words.length = count ∧ csrAddrOk addr count = true ∧ (∀ k < count, writeRefusal (addr + 4 * k) s = none) ∧ (∀ k < count, addr + 4 * k = 0x90000008 → clockCode (words.getD k 0 % 256) = true)) ∧
    (∃ (m : CmdMeta) (s : State) (addr : _) (k : _) (g : _), Takes m 0x0012 s ∧ csrAddrOk addr 1 = true ∧ blockGate addr s = some (k, g)) ∧
    (∃ (m : CmdMeta) (s : State) (addr : _), Takes m 0x0012 s ∧ csrAddrOk addr 1 = true ∧ blockGate addr s = none) ∧
    (∃ (m : CmdMeta) (s : State) (data : List Byte), Takes m 0x0030 s ∧ data.length ≤ 2560) :=
  ⟨⟨m0, bound, ⟨rfl, .inl (by decide +kernel)⟩⟩,
   ⟨m0, bound, ⟨rfl, .inl (by decide +kernel)⟩⟩,
   ⟨m0, up, 5, 0, 145, 0xFFFFFFF, ⟨rfl, .inl (by decide +kernel)⟩, by decide +kernel, by decide +kernel, by decide +kernel, by decide +kernel, by decide +kernel, ⟨145, 0, by decide +kernel, by decide +kernel, by decide +kernel, by decide +kernel⟩, by decide +kernel, by decide +kernel, by decide +kernel⟩,
   ⟨m0, bound, 5, 0, 145, 1, { heat := 5, f := 0, c := 145, mask := 0xFFFFFFF }, ⟨rfl, .inl (by decide +kernel)⟩, by decide +kernel, by decide +kernel, by decide +kernel, by decide +kernel, by decide +kernel, ⟨145, 0, by decide +kernel, by decide +kernel, by decide +kernel, by decide +kernel⟩, by decide +kernel, by decide +kernel, by decide +kernel⟩,
   ⟨m0, bound, 5, ⟨rfl, .inl (by decide +kernel)⟩, by decide +kernel, by decide +kernel, by decide +kernel⟩,
   ⟨m0, bound, 1023, ⟨rfl, .inl (by decide +kernel)⟩, by decide +kernel⟩,
   ⟨m0, bound, 0x90000000, 64, ⟨rfl, .inl (by decide +kernel)⟩, by decide +kernel, by decide +kernel, by decide +kernel⟩,
   ⟨m0, bound, 0x90000008, 1, [3], ⟨rfl, .inl (by decide +kernel)⟩, by decide +kernel, by decide +kernel, by decide +kernel, by decide +kernel, by decide +kernel, by decide +kernel⟩,
   ⟨m0, bound, 0x10000000, 0, true, ⟨rfl, .inl (by decide +kernel)⟩, by decide +kernel, by decide +kernel⟩,
   ⟨m0, bound, 0x90000008, ⟨rfl, .inl (by decide +kernel)⟩, by decide +kernel, by decide +kernel⟩,
   ⟨m0, bound, List.replicate 2560 0, ⟨rfl, .inl (by decide +kernel)⟩, by decide +kernel⟩⟩

/-- States and operands that meet the premises of ForemanCoreEventsComplete, clause by clause. -/
theorem witness_ForemanCoreEventsComplete :
    (∃ (s : State), s.fore.activeAlive = true) ∧
    (∃ (s : State), s.fore.activeAlive = true ∧ flag .foreStandbyReady 0 s = true) ∧
    (∃ (s : State), s.fore.activeAlive = true ∧ flag .foreStandbyReady 0 s = false) ∧
    (∃ (s : State), s.fore.activeAlive = true ∧ recovery s = false ∧ switching s = false ∧ s.power.state = .running) :=
  ⟨⟨up, by decide +kernel⟩,
   ⟨setReg .foreStandbyReady 0 1 up, by decide +kernel, by decide +kernel⟩,
   ⟨setReg .foreStandbyReady 0 0 up, by decide +kernel, by decide +kernel⟩,
   ⟨up, by decide +kernel, by decide +kernel, by decide +kernel, by decide +kernel⟩⟩

/-- States and operands that meet the premises of PowerCommandsComplete, clause by clause. -/
theorem witness_PowerCommandsComplete :
    (∃ (m : CmdMeta) (s : State), TakesLong m 0x0008 s ∧ switching s = false ∧ s.power.state ≠ .warm) ∧
    (∃ (m : CmdMeta) (s : State) (bay : _), TakesLong m 0x0009 s ∧ bay < 100 ∧ s.power.state ≠ .warm ∧ inDomainReset 0 bay s = false ∧ (tabGet {} s.layer.bays bay).seg = none) ∧
    (∃ (m : CmdMeta) (s : State) (l : _), TakesLong m 0x0009 s ∧ l < 52 ∧ s.power.state ≠ .warm ∧ inDomainReset 1 l s = false ∧ cameOver m l s = false) ∧
    (∃ (m : CmdMeta) (s : State) (st : _), TakesLong m 0x0009 s ∧ st < 12 ∧ s.power.state ≠ .warm ∧ inDomainReset 2 st s = false ∧ (∀ e ∈ s.mem.frames, ∀ p, e.2.use = .home p → stackOf e.1 ≠ st)) ∧
    (∃ (m : CmdMeta) (s : State) (slot : _), Takes m 0x0022 s ∧ slot ≤ 1 ∧ (slotOf slot s).content ≠ .empty ∧ switching s = false ∧ (verifySlot slot s).1 = none ∧ recovery (verifySlot slot s).2 = false) ∧
    (∃ (m : CmdMeta) (s : State), Takes m 0x0910 s) ∧
    (∃ (m : CmdMeta) (s : State) (p : _), Takes m 0x0911 s ∧ p.length = 16 ∧ profileOk p = true) ∧
    (∃ (m : CmdMeta) (s : State), Takes m 0x0912 s) ∧
    (∃ (m : CmdMeta) (s : State), Takes m 0x0913 s) :=
  ⟨⟨m0, up, ⟨⟨rfl, .inl (by decide +kernel)⟩, by decide +kernel⟩, by decide +kernel, by decide +kernel⟩,
   ⟨m0, up, 99, ⟨⟨rfl, .inl (by decide +kernel)⟩, by decide +kernel⟩, by decide +kernel, by decide +kernel, by decide +kernel, by decide +kernel⟩,
   ⟨m0, up, 51, ⟨⟨rfl, .inl (by decide +kernel)⟩, by decide +kernel⟩, by decide +kernel, by decide +kernel, by decide +kernel, by decide +kernel⟩,
   ⟨m0, up, 11, ⟨⟨rfl, .inl (by decide +kernel)⟩, by decide +kernel⟩, by decide +kernel, by decide +kernel, by decide +kernel, noneIn rfl⟩,
   ⟨m0, up, 0, ⟨rfl, .inl (by decide +kernel)⟩, by decide +kernel, by decide +kernel, by decide +kernel, by decide +kernel, by decide +kernel⟩,
   ⟨m0, up, ⟨rfl, .inl (by decide +kernel)⟩⟩,
   ⟨m0, up, [10, 0, 100, 0, 10, 0, 3, 100, 0, 0, 0, 0, 0, 0, 0, 0], ⟨rfl, .inl (by decide +kernel)⟩, by decide +kernel, by decide +kernel⟩,
   ⟨m0, up, ⟨rfl, .inl (by decide +kernel)⟩⟩,
   ⟨m0, up, ⟨rfl, .inl (by decide +kernel)⟩⟩⟩

/-- States and operands that meet the premises of SupplyEventsComplete, clause by clause. -/
theorem witness_SupplyEventsComplete :
    (∃ (a : _), a < 8) ∧
    (∃ (s : State), s.pins.p12sb = true ∧ s.power.settled = false) ∧
    (∃ (s : State) (mv : _), s.pins.p12sb = true ∧ s.power.p48Good = false ∧ s.power.resetLevel = false ∧ s.power.settled = true ∧ s.pins.resetN = true ∧ recovery s = false ∧ s.power.shutdown = false ∧ s.power.state = .standbyOnly ∧ 40000 ≤ mv) ∧
    (∃ (s : State), s.pins.resetN = false) ∧
    (∃ (s : State), s.pins.resetN = true ∧ s.power.state ≠ .standbyOnly ∧ s.power.p48Good = true) ∧
    (∃ (s : State) (mv : _), s.power.p48Good = true ∧ mv < 38000) ∧
    (∃ (s : State), s.power.resetLevel = true ∧ s.pins.p12sb = true ∧ s.power.settled = true ∧ s.pins.resetN = true ∧ recovery s = false ∧ s.power.shutdown = false) ∧
    (∃ (s : State) (w : _), s.power.warm = some w ∧ s.power.state = .warm ∧ s.power.refHeld = false) ∧
    (∃ (d : _), d < 2) :=
  ⟨⟨7, by decide +kernel⟩,
   ⟨State.reset, by decide +kernel, by decide +kernel⟩,
   ⟨{ State.reset with power := { settled := true }, pins := { resetN := true } }, 40000, by decide +kernel, by decide +kernel, by decide +kernel, by decide +kernel, by decide +kernel, by decide +kernel, by decide +kernel, by decide +kernel, by decide +kernel⟩,
   ⟨State.reset, by decide +kernel⟩,
   ⟨up, by decide +kernel, by decide +kernel, by decide +kernel⟩,
   ⟨up, 37999, by decide +kernel, by decide +kernel⟩,
   ⟨{ up with power := { state := .inReset, p48Good := true, settled := true, resetLevel := true } }, by decide +kernel, by decide +kernel, by decide +kernel, by decide +kernel, by decide +kernel, by decide +kernel⟩,
   ⟨{ up with power := { state := .warm, warm := some ⟨0, 0, none⟩ } }, ⟨0, 0, none⟩, by decide +kernel, by decide +kernel, by decide +kernel⟩,
   ⟨1, by decide +kernel⟩⟩

/-- States and operands that meet the premises of SupervisionEventsComplete, clause by clause. -/
theorem witness_SupervisionEventsComplete :
    (∃ (s : State) (mv : _), s.power.p48Good = true ∧ 38000 ≤ mv ∧ mv < 42000 ∧ flag .pwWarning 0 s = false) ∧
    (∃ (s : State) (mv : _), s.power.p48Good = true ∧ 38000 ≤ mv ∧ mv < 42000 ∧ flag .pwWarning 0 s = true) ∧
    (∃ (s : State), flag .pwWarning 0 s = true) ∧
    (∃ (s : State) (sensor : _) (c : _), sensor < 18 ∧ throttleC sensor ≤ c ∧ s.power.p48Good = true) ∧
    (∃ (sensor : _) (c : _), sensor < 18 ∧ shutdownC sensor ≤ c) ∧
    (∃ (s : State), s.pins.coolFailN = true ∧ s.power.p48Good = true) ∧
    (∃ (s : State) (t0 : _), s.power.coolFail = some t0) ∧
    (∃ (s : State), s.pins.coolFailN = false) ∧
    (∃ (st : _), st < 12) ∧
    (∃ (s : State), s.pins.refclk = true ∧ s.power.state ≠ .standbyOnly) ∧
    (∃ (s : State) (t0 : _), s.power.refLossAt = some t0 ∧ s.power.refHeld = false) :=
  ⟨⟨up, 38000, by decide +kernel, by decide +kernel, by decide +kernel, by decide +kernel⟩,
   ⟨setReg .pwWarning 0 1 up, 41999, by decide +kernel, by decide +kernel, by decide +kernel, by decide +kernel⟩,
   ⟨setReg .pwWarning 0 1 up, by decide +kernel⟩,
   ⟨up, 17, throttleC 17, by decide +kernel, by decide +kernel, by decide +kernel⟩,
   ⟨17, shutdownC 17, by decide +kernel, by decide +kernel⟩,
   ⟨up, by decide +kernel, by decide +kernel⟩,
   ⟨{ up with power := { up.power with coolFail := some 3 } }, 3, by decide +kernel⟩,
   ⟨{ up with pins := { up.pins with coolFailN := false } }, by decide +kernel⟩,
   ⟨11, by decide +kernel⟩,
   ⟨up, by decide +kernel, by decide +kernel⟩,
   ⟨{ up with power := { up.power with refLossAt := some 3 } }, 3, by decide +kernel, by decide +kernel⟩⟩

/-- States and operands that meet the premises of BayAndHalfEventsComplete, clause by clause. -/
theorem witness_BayAndHalfEventsComplete :
    (∃ (s : State) (die : _), die < 4 ∧ s.power.cpllWait.contains die = true) ∧
    (∃ (s : State) (bay : _) (t0 : _), bay < 100 ∧ tabFind s.power.bayWake bay = some t0) ∧
    (∃ (s : State) (bay : _) (st : _) (ns : _) (t0 : _), bay < 100 ∧ bayIdleNow bay s = true ∧ tabFind s.power.bayWake bay = none ∧ (keptFired s).contains bay = false ∧ nextBank bay s = some (st, ns) ∧ tabFind s.power.bayIdle bay = some t0 ∧ shopsWait s = false) ∧
    (∃ (s : State) (d : _), d < 2 ∧ halfBanked d s = false ∧ (∀ l ∈ linksOfDie d, reg .lkState l s = 0) ∧ (half d s).used = 0) ∧
    (∃ (s : State) (d : _) (t0 : _), d < 2 ∧ halfBanked d s = true ∧ tabFind s.sw.wakeAt d = some t0) ∧
    (∃ (s : State) (j : _), s.power.domains.find? (fun x => x.kind = 0 && x.index = j.index) = some j ∧ j.kind = 0 ∧ bayClear j.index s = true) ∧
    (∃ (s : State) (j : _), s.power.domains.find? (fun x => x.kind = 1 && x.index = j.index) = some j ∧ j.kind = 1) ∧
    (∃ (s : State) (j : _), s.power.domains.find? (fun x => x.kind = 2 && x.index = j.index) = some j ∧ j.kind = 2) ∧
    (∃ (s : State) (j : _), s.power.domains.find? (fun x => x.kind = 0 && x.index = j.index) = some j ∧ j.kind = 0) :=
  ⟨⟨{ up with power := { up.power with cpllWait := [3] } }, 3, by decide +kernel, by decide +kernel⟩,
   ⟨{ up with power := { up.power with bayWake := [(99, 4)] } }, 99, 4, by decide +kernel, by decide +kernel⟩,
   ⟨setReg .pwBayState 99 0 { up with power := { up.power with bayIdle := [(99, 4)] } }, 99, 1, 10000, 4, by decide +kernel, by decide +kernel, by decide +kernel, by decide +kernel, by decide +kernel, by decide +kernel, by decide +kernel⟩,
   ⟨{ up with power := { up.power with halfBanked := 0 } }, 1, by decide +kernel, by decide +kernel, by decide +kernel, by decide +kernel⟩,
   ⟨{ up with sw := { wakeAt := [(1, 4)] } }, 1, 4, by decide +kernel, by decide +kernel, by decide +kernel⟩,
   ⟨{ up with power := { up.power with domains := [⟨0, 99, 4, true, c0⟩] } }, ⟨0, 99, 4, true, c0⟩, by decide +kernel, by decide +kernel, by decide +kernel⟩,
   ⟨{ up with power := { up.power with domains := [⟨1, 51, 4, true, c0⟩] } }, ⟨1, 51, 4, true, c0⟩, by decide +kernel, by decide +kernel⟩,
   ⟨{ up with power := { up.power with domains := [⟨2, 11, 4, true, c0⟩] } }, ⟨2, 11, 4, true, c0⟩, by decide +kernel, by decide +kernel⟩,
   ⟨{ up with power := { up.power with domains := [⟨0, 99, 4, true, c0⟩] } }, ⟨0, 99, 4, true, c0⟩, by decide +kernel, by decide +kernel⟩⟩

/-- States and operands that meet the premises of FirmwareCommandsComplete, clause by clause. -/
theorem witness_FirmwareCommandsComplete :
    (∃ (m : CmdMeta) (s : State), Takes m 0x0020 s) ∧
    (∃ (m : CmdMeta) (s : State) (slot : _) (off : _) (data : List Byte), Takes m 0x0021 s ∧ data ≠ [] ∧ data.length ≤ 2048 ∧ slot ≤ 1 ∧ off + data.length ≤ 16777216 ∧ runningSlot s ≠ some slot ∧ switching s = false) ∧
    (∃ (m : CmdMeta) (s : State) (slot : _), TakesLong m 0x0023 s ∧ slot ≤ 1 ∧ switching s = false ∧ runningSlot s ≠ some slot ∧ (slotOf slot s).verified = true ∧ flag .foreStandbyReady 0 s = true ∧ s.sec.fuses ≤ slotSec (slotOf slot s).content) ∧
    (∃ (m : CmdMeta) (s : State), Takes m 0x0B00 s) ∧
    (∃ (m : CmdMeta) (s : State) (nonce : List Byte), Takes m 0x0B01 s ∧ nonce.length = 32 ∧ signRoom s = true) ∧
    (∃ (m : CmdMeta) (s : State), Takes m 0x0B02 s) ∧
    (∃ (m : CmdMeta) (s : State) (v : _), Takes m 0x0B03 s ∧ v ≤ 64 ∧ commitAllowed v s = true) ∧
    (∃ (m : CmdMeta) (s : State), Takes m 0x0B04 s) ∧
    (∃ (m : CmdMeta) (s : State), Takes m 0x0B10 s) :=
  ⟨⟨m0, up, ⟨rfl, .inl (by decide +kernel)⟩⟩,
   ⟨m0, up, 1, 16775168, List.replicate 2048 0, ⟨rfl, .inl (by decide +kernel)⟩, by decide +kernel, by decide +kernel, by decide +kernel, by decide +kernel, by decide +kernel, by decide +kernel⟩,
   ⟨m0, setReg .foreStandbyReady 0 1 { up with sec := { slotB := { content := .factory 1 0, verified := true } } }, 1, ⟨⟨rfl, .inl (by decide +kernel)⟩, by decide +kernel⟩, by decide +kernel, by decide +kernel, by decide +kernel, by decide +kernel, by decide +kernel, by decide +kernel⟩,
   ⟨m0, up, ⟨rfl, .inl (by decide +kernel)⟩⟩,
   ⟨m0, up, List.replicate 32 0, ⟨rfl, .inl (by decide +kernel)⟩, by decide +kernel, by decide +kernel⟩,
   ⟨m0, up, ⟨rfl, .inl (by decide +kernel)⟩⟩,
   ⟨m0, { up with sec := { slotA := { content := .factory 1 64 } } }, 64, ⟨rfl, .inl (by decide +kernel)⟩, by decide +kernel, by decide +kernel⟩,
   ⟨m0, up, ⟨rfl, .inl (by decide +kernel)⟩⟩,
   ⟨m0, up, ⟨rfl, .inl (by decide +kernel)⟩⟩⟩

/-- States and operands that meet the premises of FirmwareEventsComplete, clause by clause. -/
theorem witness_FirmwareEventsComplete :
    (∃ (s : State) (w : _), s.fore.switch = some w ∧ w.step = 2 ∧ (verifySlot w.slot s).1 = none) ∧
    (∃ (s : State) (w : _), s.fore.switch = some w ∧ w.step = 4) ∧
    (∃ (s : State) (w : _), s.fore.switch = some w ∧ w.step = 7) ∧
    (∃ (s : State) (w : _), s.fore.switch = some w) ∧
    (∃ (s : State) (c : _) (nonce : List Byte) (r : _), s.sec.signQ = .attest c nonce [] :: r) ∧
    (∃ (s : State) (c : _) (nonce : List Byte) (body : List Byte) (r : _), s.sec.signQ = .attest c nonce body :: r ∧ body ≠ []) ∧
    (∃ (s : State) (c : _) (body : List Byte) (r : _), s.sec.signQ = .shakeout c body :: r) ∧
    (∃ (s : State) (r : _), s.sec.rollback = some r ∧ s.sec.fuses + 1 < r.target) ∧
    (∃ (s : State) (r : _), s.sec.rollback = some r ∧ r.target = s.sec.fuses + 1) ∧
    (∃ (s : State) (r : _), s.sec.rollback = some r) :=
  ⟨⟨{ up with sec := { slotB := { content := .factory 1 0 } }, fore := { up.fore with switch := some ⟨1, 2, 0, c0⟩ } }, ⟨1, 2, 0, c0⟩, by decide +kernel, by decide +kernel, by decide +kernel⟩,
   ⟨{ up with fore := { up.fore with switch := some ⟨1, 4, 0, c0⟩ } }, ⟨1, 4, 0, c0⟩, by decide +kernel, by decide +kernel⟩,
   ⟨{ up with fore := { up.fore with switch := some ⟨1, 7, 0, c0⟩ } }, ⟨1, 7, 0, c0⟩, by decide +kernel, by decide +kernel⟩,
   ⟨{ up with fore := { up.fore with switch := some ⟨1, 7, 0, c0⟩ } }, ⟨1, 7, 0, c0⟩, by decide +kernel⟩,
   ⟨{ up with sec := { signQ := [.attest c0 [1] []] } }, c0, [1], [], by decide +kernel⟩,
   ⟨{ up with sec := { signQ := [.attest c0 [1] [2]] } }, c0, [1], [2], [], by decide +kernel, by decide +kernel⟩,
   ⟨{ up with sec := { signQ := [.shakeout c0 [2]] } }, c0, [2], [], by decide +kernel⟩,
   ⟨{ up with sec := { rollback := some ⟨64, 0, c0⟩ } }, ⟨64, 0, c0⟩, by decide +kernel, by decide +kernel⟩,
   ⟨{ up with sec := { rollback := some ⟨1, 0, c0⟩ } }, ⟨1, 0, c0⟩, by decide +kernel, by decide +kernel⟩,
   ⟨{ up with sec := { rollback := some ⟨1, 0, c0⟩ } }, ⟨1, 0, c0⟩, by decide +kernel⟩⟩

/-- States and operands that meet the premises of LinkCommandsComplete, clause by clause. -/
theorem witness_LinkCommandsComplete :
    (∃ (m : CmdMeta) (s : State) (l : Nat), l < 52 ∧ Takes m 0x0100 s) ∧
    (∃ (m : CmdMeta) (s : State) (l : Nat) (rate : _) (ceiling : _) (cv : _) (en : _) (clr : _), l < 52 ∧ Takes m 0x0101 s ∧ rate ≤ 2 ∧ (ceiling = 1 ∨ ceiling = 2) ∧ cv < 65536 ∧ en ≤ 1 ∧ clr ≤ 1) ∧
    (∃ (m : CmdMeta) (s : State) (l : Nat), l < 52 ∧ TakesLong m 0x0102 s ∧ cameOver m l s = false ∧ lkStateOf l s ≠ lkTraining ∧ (linkUsed l s || usedUnder (linkCount l s) l s) = true ∧ (link l s).closing = false) ∧
    (∃ (m : CmdMeta) (s : State) (l : Nat), l < 52 ∧ TakesLong m 0x0103 s ∧ cameOver m l s = false ∧ (link l s).closing = false) ∧
    (∃ (m : CmdMeta) (s : State) (l : Nat), l < 52 ∧ TakesLong m 0x0103 s ∧ cameOver m l s = false ∧ (link l s).closing = false ∧ lkStateOf l (accepted (refOf m 0x0103) s) = lkActive) ∧
    (∃ (m : CmdMeta) (s : State) (l : Nat) (lane : _), l < 52 ∧ TakesLong m 0x0104 s ∧ lane < 8 ∧ swapRefusal l s = none) ∧
    (∃ (m : CmdMeta) (s : State) (l : Nat) (lane : _) (rate : _), l < 52 ∧ Takes m 0x0105 s ∧ lane ≤ 9 ∧ rate ≤ 2) ∧
    (∃ (m : CmdMeta) (s : State) (l : Nat) (lane : _) (rate : _) (entry : _), l < 52 ∧ Takes m 0x0106 s ∧ lane ≤ 9 ∧ rate ≤ 2 ∧ entry < 2 ^ 64 ∧ eqOk entry = true) ∧
    (∃ (m : CmdMeta) (s : State) (l : Nat), l < 52 ∧ Takes m 0x0107 s) ∧
    (∃ (m : CmdMeta) (s : State) (l : Nat), l < 52 ∧ Takes m 0x0110 s) ∧
    (∃ (m : CmdMeta) (s : State) (l : Nat), l < 52 ∧ TakesLong m 0x0202 s ∧ isFabric l = true ∧ mayOpen l s = true) :=
  ⟨⟨m0, up, 51, by decide +kernel, ⟨rfl, .inl (by decide +kernel)⟩⟩,
   ⟨m0, up, 51, 2, 2, 65535, 1, 1, by decide +kernel, ⟨rfl, .inl (by decide +kernel)⟩, by decide +kernel, by decide +kernel, by decide +kernel, by decide +kernel, by decide +kernel⟩,
   ⟨m0, setReg .lkEnable 51 1 up, 51, by decide +kernel, ⟨⟨rfl, .inl (by decide +kernel)⟩, by decide +kernel⟩, by decide +kernel, by decide +kernel, by decide +kernel, by decide +kernel⟩,
   ⟨m0, up, 51, by decide +kernel, ⟨⟨rfl, .inl (by decide +kernel)⟩, by decide +kernel⟩, by decide +kernel, by decide +kernel⟩,
   ⟨m0, linkIn 51 4, 51, by decide +kernel, ⟨⟨rfl, .inl (by decide +kernel)⟩, by decide +kernel⟩, by decide +kernel, by decide +kernel, by decide +kernel⟩,
   ⟨m0, linkIn 51 4, 51, 7, by decide +kernel, ⟨⟨rfl, .inl (by decide +kernel)⟩, by decide +kernel⟩, by decide +kernel, by decide +kernel⟩,
   ⟨m0, up, 51, 9, 2, by decide +kernel, ⟨rfl, .inl (by decide +kernel)⟩, by decide +kernel, by decide +kernel⟩,
   ⟨m0, up, 51, 9, 2, 0x003F00000000003F, by decide +kernel, ⟨rfl, .inl (by decide +kernel)⟩, by decide +kernel, by decide +kernel, by decide +kernel, by decide +kernel⟩,
   ⟨m0, up, 51, by decide +kernel, ⟨rfl, .inl (by decide +kernel)⟩⟩,
   ⟨m0, up, 51, by decide +kernel, ⟨rfl, .inl (by decide +kernel)⟩⟩,
   ⟨m0, linkIn 47 4, 47, by decide +kernel, ⟨⟨rfl, .inl (by decide +kernel)⟩, by decide +kernel⟩, by decide +kernel, by decide +kernel⟩⟩

/-- States and operands that meet the premises of LinkTrainingEventsComplete, clause by clause. -/
theorem witness_LinkTrainingEventsComplete :
    (∃ (s : State) (l : Nat) (khz : _), l < 52 ∧ lkStateOf l s = lkTraining ∧ (link l s).step = 1 ∧ ckNear khz (reg .lkRate l s) = true) ∧
    (∃ (s : State) (l : Nat) (o : _), l < 52 ∧ lkStateOf l s = lkTraining ∧ (link l s).step = 2 ∧ allLocked l o (modLink l (fun k => { k with obs := some o }) s) = true) ∧
    (∃ (s : State) (l : Nat) (o : _), l < 52 ∧ lkStateOf l s = lkTraining ∧ (link l s).step = 2 ∧ allLocked l o (modLink l (fun k => { k with obs := some o }) s) = false) ∧
    (∃ (s : State) (l : Nat) (o : TrainObs), l < 52 ∧ lkStateOf l s = lkTraining ∧ (link l s).step = 4 ∧ o.ids ≠ []) ∧
    (∃ (s : State) (l : Nat) (o : TrainObs), l < 52 ∧ lkStateOf l s = lkTraining ∧ (link l s).step = 5 ∧ o.ts2 = true) ∧
    (∃ (s : State) (l : Nat) (skew : _), l < 52 ∧ lkStateOf l s = lkTraining ∧ (link l s).step = 5 ∧ skew ≤ 64) ∧
    (∃ (s : State) (l : Nat) (body : List Byte), l < 52 ∧ lkStateOf l s = lkTraining ∧ 6 ≤ (link l s).step ∧ blockGood body = true ∧ fieldAt body 0 1 = 0x10) ∧
    (∃ (s : State) (l : Nat), l < 52 ∧ lkStateOf l s = lkTraining ∧ (link l s).step = 6) ∧
    (∃ (s : State) (l : Nat) (h : _), l < 52 ∧ h < 2 ∧ lkStateOf l s = lkActive) ∧
    (∃ (s : State) (l : Nat) (h : _) (counts : _), l < 52 ∧ h < 2 ∧ lkStateOf l s = lkTraining ∧ (link l s).step = 7 ∧ (link l (takeCounts l h counts s)).creditSeen = 3) ∧
    (∃ (s : State) (l : Nat), l < 52 ∧ lkStateOf l s = lkTraining ∧ (link l s).step = 1 ∧ (link l s).ckSeen = true) ∧
    (∃ (s : State) (l : Nat), l < 52 ∧ lkStateOf l s = lkTraining ∧ (link l s).step = 4) ∧
    (∃ (s : State) (l : Nat), l < 52 ∧ lkStateOf l s = lkTraining ∧ (link l s).step = 2 ∧ (link l s).obs = none) ∧
    (∃ (s : State) (l : Nat), l < 52 ∧ lkStateOf l s = lkTraining ∧ (link l s).step = 5) ∧
    (∃ (s : State) (l : Nat), l < 52 ∧ lkStateOf l s = lkTraining ∧ (link l s).step = 6 ∧ halfReady (dieOfLink l) s = true) ∧
    (∃ (s : State) (l : Nat), l < 52 ∧ lkStateOf l s = lkTraining ∧ (link l s).step = 7) ∧
    (∃ (s : State) (l : Nat) (t0 : _), l < 52 ∧ (link l s).fails ≠ 0 ∧ (link l s).restartAt = some t0) ∧
    (∃ (s : State) (l : Nat) (t0 : _), l < 52 ∧ (link l s).fails = 0 ∧ (link l s).restartAt = some t0) ∧
    (∃ (s : State) (l : Nat), l < 52 ∧ resumable l (dropUnused l s) = true) :=
  ⟨⟨linkWith 51 1 { step := 1 }, 51, ckKhz (reg .lkRate 51 up), by decide +kernel, by decide +kernel, by decide +kernel, by decide +kernel⟩,
   ⟨linkWith 51 1 { step := 2 }, 51, { lock := 511, inverted := 0, ids := [], ts2 := false }, by decide +kernel, by decide +kernel, by decide +kernel, by decide +kernel⟩,
   ⟨linkWith 51 1 { step := 2 }, 51, { lock := 0, inverted := 0, ids := [], ts2 := false }, by decide +kernel, by decide +kernel, by decide +kernel, by decide +kernel⟩,
   ⟨linkWith 51 1 { step := 4 }, 51, { lock := 511, inverted := 0, ids := List.range 9, ts2 := false }, by decide +kernel, by decide +kernel, by decide +kernel, by decide +kernel⟩,
   ⟨linkWith 51 1 { step := 5 }, 51, { lock := 511, inverted := 0, ids := [], ts2 := true }, by decide +kernel, by decide +kernel, by decide +kernel, by decide +kernel⟩,
   ⟨linkWith 51 1 { step := 5 }, 51, 64, by decide +kernel, by decide +kernel, by decide +kernel, by decide +kernel⟩,
   ⟨linkWith 51 1 { step := 6 }, 51, goodBlock 0x10, by decide +kernel, by decide +kernel, by decide +kernel, by decide +kernel, by decide +kernel⟩,
   ⟨linkWith 51 1 { step := 6 }, 51, by decide +kernel, by decide +kernel, by decide +kernel⟩,
   ⟨linkIn 51 4, 51, 1, by decide +kernel, by decide +kernel, by decide +kernel⟩,
   ⟨linkWith 51 1 { step := 7, creditSeen := 1 }, 51, 1, [1, 2, 3, 4], by decide +kernel, by decide +kernel, by decide +kernel, by decide +kernel, by decide +kernel⟩,
   ⟨linkWith 51 1 { step := 1, ckSeen := true }, 51, by decide +kernel, by decide +kernel, by decide +kernel, by decide +kernel⟩,
   ⟨linkWith 51 1 { step := 4 }, 51, by decide +kernel, by decide +kernel, by decide +kernel⟩,
   ⟨linkWith 51 1 { step := 2 }, 51, by decide +kernel, by decide +kernel, by decide +kernel, by decide +kernel⟩,
   ⟨linkWith 51 1 { step := 5 }, 51, by decide +kernel, by decide +kernel, by decide +kernel⟩,
   ⟨{ linkWith 51 1 { step := 6 } with power := { up.power with halfBanked := 0 }, sw := { x0 := { rebuilt := true }, x1 := { rebuilt := true } } }, 51, by decide +kernel, by decide +kernel, by decide +kernel, by decide +kernel⟩,
   ⟨linkWith 51 1 { step := 7 }, 51, by decide +kernel, by decide +kernel, by decide +kernel⟩,
   ⟨linkWith 51 0 { fails := 1, restartAt := some 6 }, 51, 6, by decide +kernel, by decide +kernel, by decide +kernel⟩,
   ⟨linkWith 51 0 { restartAt := some 6 }, 51, 6, by decide +kernel, by decide +kernel, by decide +kernel⟩,
   ⟨linkIn 51 2, 51, by decide +kernel, by decide +kernel⟩⟩

/-- States and operands that meet the premises of LinkServiceEventsComplete, clause by clause. -/
theorem witness_LinkServiceEventsComplete :
    (∃ (s : State) (l : Nat), l < 52 ∧ (lkStateOf l s = lkActive ∨ lkStateOf l s = lkQuarantined)) ∧
    (∃ (s : State) (l : Nat), l < 52 ∧ (lkStateOf l s = lkWaiting ∨ (lkStateOf l s = lkTraining ∧ 2 ≤ (link l s).step))) ∧
    (∃ (s : State) (l : Nat), l < 52 ∧ lkStateOf l s = lkActive) ∧
    (∃ (l : Nat) (body : List Byte), l < 52 ∧ blockGood body = false) ∧
    (∃ (s : State) (l : Nat) (rd : Option Nat) (groups : _) (bad : _), l < 52 ∧ bad = columnViolations (isService l) (flag .lkReversed l s) (reg .lkRxSwap l s) (reg .lkPolInv l s) (rd.getD (link l s).rxRd) groups) ∧
    (∃ (s : State) (l : Nat) (lane : _), l < 52 ∧ lane < 8 ∧ shopsWait s = false ∧ (link l s).cvThresh < cvGrowth l lane s) ∧
    (∃ (s : State) (l : Nat) (lane : _), l < 52 ∧ lane < 8 ∧ lkStateOf l s = lkActive ∧ 2 ≤ reg .lkLevel l s) ∧
    (∃ (s : State) (l : Nat) (j : _), l < 52 ∧ (link l s).rxSwapJob = some j) ∧
    (∃ (s : State) (l : Nat) (j : _), l < 52 ∧ (link l s).txSwapJob = some j) ∧
    (∃ (s : State) (l : Nat) (j : _), l < 52 ∧ (link l s).rxSwapJob = some j ∧ j.acked = true) ∧
    (∃ (s : State) (l : Nat) (j : _), l < 52 ∧ (link l s).rxSwapJob = some j ∧ j.acked = false ∧ j.attempt = 0) ∧
    (∃ (s : State) (l : Nat), l < 52 ∧ isService l = true ∧ lkStateOf l s = lkActive ∧ s.time.armed = none) ∧
    (∃ (s : State) (l : Nat), l < 52 ∧ isService l = true ∧ lkStateOf l s = lkActive) :=
  ⟨⟨linkIn 51 4, 51, by decide +kernel, by decide +kernel⟩,
   ⟨linkIn 51 2, 51, by decide +kernel, by decide +kernel⟩,
   ⟨linkIn 51 4, 51, by decide +kernel, by decide +kernel⟩,
   ⟨51, List.replicate 15 0, by decide +kernel, by decide +kernel⟩,
   ⟨linkIn 51 4, 51, some 0, [0], _, by decide +kernel, rfl⟩,
   ⟨{ linkWith 51 4 { cvLog := (List.range 9).map fun k => (k, 0, 1) } with time := { now := 1 } }, 51, 7, by decide +kernel, by decide +kernel, by decide +kernel, by decide +kernel⟩,
   ⟨setReg .lkLevel 51 2 (linkIn 51 4), 51, 7, by decide +kernel, by decide +kernel, by decide +kernel, by decide +kernel⟩,
   ⟨linkWith 51 4 { rxSwapJob := some ⟨7, 1, false, 0, none⟩ }, 51, ⟨7, 1, false, 0, none⟩, by decide +kernel, by decide +kernel⟩,
   ⟨linkWith 51 4 { txSwapJob := some ⟨7, 1, false, 0, none⟩ }, 51, ⟨7, 1, false, 0, none⟩, by decide +kernel, by decide +kernel⟩,
   ⟨linkWith 51 4 { rxSwapJob := some ⟨7, 1, true, 0, none⟩ }, 51, ⟨7, 1, true, 0, none⟩, by decide +kernel, by decide +kernel, by decide +kernel⟩,
   ⟨linkWith 51 4 { rxSwapJob := some ⟨7, 1, false, 0, none⟩ }, 51, ⟨7, 1, false, 0, none⟩, by decide +kernel, by decide +kernel, by decide +kernel, by decide +kernel⟩,
   ⟨linkIn 51 4, 51, by decide +kernel, by decide +kernel, by decide +kernel, by decide +kernel⟩,
   ⟨linkIn 51 4, 51, by decide +kernel, by decide +kernel, by decide +kernel⟩⟩

/-- States and operands that meet the premises of RouteCommandsComplete, clause by clause. -/
theorem witness_RouteCommandsComplete :
    (∃ (m : CmdMeta) (s : State), Takes m 0x0200 s) ∧
    (∃ (m : CmdMeta) (s : State) (l : _), TakesLong m 0x0201 s ∧ isFabric l = true ∧ lkStateOf l s = lkActive ∧ (link l s).closing = false ∧ changeOf l s = none) ∧
    (∃ (m : CmdMeta) (s : State) (vent : _) (bias : _) (drain : _), Takes m 0x0203 s ∧ 100 ≤ vent ∧ vent < 65536 ∧ bias < 65536 ∧ 10 ≤ drain ∧ drain < 65536) ∧
    (∃ (m : CmdMeta) (s : State) (on : _), Takes m 0x0204 s ∧ on ≤ 1) ∧
    (∃ (m : CmdMeta) (s : State) (on : _), Takes m 0x0205 s ∧ on ≤ 1) ∧
    (∃ (m : CmdMeta) (s : State) (mask : _), Takes m 0x0206 s ∧ mask < 2 ^ 24) ∧
    (∃ (m : CmdMeta) (s : State) (mask : _) (heat : _), Takes m 0x0206 s ∧ mask < 2 ^ 24 ∧ heat ≠ 0 ∧ (∀ l ∈ (bitList 24 mask).map (· + 24), reservedAgainst s heat l = false)) ∧
    (∃ (m : CmdMeta) (s : State) (l : _) (v : _) (a : _), Takes m 0x0210 s ∧ l < 52 ∧ v < 8 ∧ (v < 5 ∨ isFabric l = true) ∧ 65 ≤ a ∧ a ≤ 4194304 ∧ allowSum l v a (List.range 8) s ≤ 5242880 ∧ allowSum l v a [5, 6, 7] s ≤ min (reg .tuReserve 0 s) (reg .tuReserve 1 s) - 16384) ∧
    (∃ (m : CmdMeta) (s : State) (root : _) (tree : _) (e : _), Takes m 0x0220 s ∧ root < 2320 ∧ tree < 2 ^ 18 ∧ tabFind s.route.trees (treeKey root tree) = some e) ∧
    (∃ (m : CmdMeta) (s : State) (first : _), Takes m 0x0221 s ∧ first ≤ (fenceList s).length) ∧
    (∃ (m : CmdMeta) (s : State), Takes m 0x0230 s) :=
  ⟨⟨m0, up, ⟨rfl, .inl (by decide +kernel)⟩⟩,
   ⟨m0, linkIn 47 4, 47, ⟨⟨rfl, .inl (by decide +kernel)⟩, by decide +kernel⟩, by decide +kernel, by decide +kernel, by decide +kernel, by decide +kernel⟩,
   ⟨m0, up, 100, 65535, 10, ⟨rfl, .inl (by decide +kernel)⟩, by decide +kernel, by decide +kernel, by decide +kernel, by decide +kernel, by decide +kernel⟩,
   ⟨m0, up, 1, ⟨rfl, .inl (by decide +kernel)⟩, by decide +kernel⟩,
   ⟨m0, up, 1, ⟨rfl, .inl (by decide +kernel)⟩, by decide +kernel⟩,
   ⟨m0, up, 0xFFFFFF, ⟨rfl, .inl (by decide +kernel)⟩, by decide +kernel⟩,
   ⟨m0, { up with route := { reserved := [(47, 5)] } }, 0xFFFFFF, 5, ⟨rfl, .inl (by decide +kernel)⟩, by decide +kernel, by decide +kernel, by decide +kernel⟩,
   ⟨m0, up, 47, 7, 65, ⟨rfl, .inl (by decide +kernel)⟩, by decide +kernel, by decide +kernel, by decide +kernel, by decide +kernel, by decide +kernel, by decide +kernel, by decide +kernel⟩,
   ⟨m0, { up with route := { trees := [(treeKey 2319 262143, ⟨2319, 262143, 5, 1, 0, false, 0⟩)] } }, 2319, 262143, ⟨2319, 262143, 5, 1, 0, false, 0⟩, ⟨rfl, .inl (by decide +kernel)⟩, by decide +kernel, by decide +kernel, by decide +kernel⟩,
   ⟨m0, { up with route := { fence := [65] } }, 1, ⟨rfl, .inl (by decide +kernel)⟩, by decide +kernel⟩,
   ⟨m0, up, ⟨rfl, .inl (by decide +kernel)⟩⟩⟩

/-- States and operands that meet the premises of RouteEventsComplete, clause by clause. -/
theorem witness_RouteEventsComplete :
    (∃ (s : State) (l : _) (h : _), l < 52 ∧ h < 2 ∧ lkStateOf l s = lkActive ∧ (∃ v ∈ halfVcs h, 256 ≤ subMod (vcOf l v s).c (vcOf l v s).lastC (2 ^ 24))) ∧
    (∃ (s : State) (l : _) (h : _), l < 52 ∧ h < 2 ∧ lkStateOf l s = lkActive ∧ (∀ v ∈ halfVcs h, subMod (vcOf l v s).c (vcOf l v s).lastC (2 ^ 24) < 256)) ∧
    (∃ (s : State) (i : _) (q : _) (e : _) (r : _), queueOf i s = some q ∧ q.ents = e :: r ∧ q.vc < 5 ∧ isFabric q.port = true ∧ creditAvail q.port q.vc s < e.cells ∧ classOpen q.port q.vc s = true ∧ fitsWindow q.port q.vc e.cells s = true) ∧
    (∃ (l : _) (v : _), l < 52 ∧ v < 5) ∧
    (∃ (s : State) (peer : _) (l : _), (∀ e, wiredTo (s.coord.count.getD 1) (groupOf peer) (memberOf peer) l = some e → e.dev ≠ ownDev s) ∧ isIntra l = false) ∧
    (∃ (s : State), s.route.shadow ≠ s.route.active) ∧
    (∃ (s : State) (l : _) (c : _), l < 52 ∧ changeOf l s = some c ∧ c.add = false ∧ c.step = 3 ∧ linkQuiet l s = true) ∧
    (∃ (s : State) (l : _) (c : _), l < 52 ∧ changeOf l s = some c ∧ c.step = 2) ∧
    (∃ (s : State) (l : _) (c : _), l < 52 ∧ changeOf l s = some c ∧ c.step = 3) ∧
    (∃ (s : State) (g : _) (t0 : _), tabFind s.route.pinned g = some t0 ∧ t0 ≠ 0) ∧
    (∃ (s : State) (l : _) (c : _), changeOf l s = some c) :=
  ⟨⟨modVc 51 7 (fun c => { c with c := 256, lastC := 0 }) (linkIn 51 4), 51, 1, by decide +kernel, by decide +kernel, by decide +kernel, by decide +kernel⟩,
   ⟨linkIn 51 4, 51, 1, by decide +kernel, by decide +kernel, by decide +kernel, by decide +kernel⟩,
   ⟨withQueues [(380, oq 47 4 true 0 [qe])], 380, oq 47 4 true 0 [qe], qe, [], by decide +kernel, by decide +kernel, by decide +kernel, by decide +kernel, by decide +kernel, by decide +kernel, by decide +kernel⟩,
   ⟨51, 4, by decide +kernel, by decide +kernel⟩,
   ⟨up, 16, 40, onlySome rfl (by decide +kernel), by decide +kernel⟩,
   ⟨{ up with route := { shadow := { linkUp := 1 } } }, by decide +kernel⟩,
   ⟨{ up with route := { changes := [rc false 3] } }, 47, rc false 3, by decide +kernel, by decide +kernel, by decide +kernel, by decide +kernel, by decide +kernel⟩,
   ⟨{ up with route := { changes := [rc true 2] } }, 47, rc true 2, by decide +kernel, by decide +kernel, by decide +kernel⟩,
   ⟨{ up with route := { changes := [rc true 3] } }, 47, rc true 3, by decide +kernel, by decide +kernel, by decide +kernel⟩,
   ⟨{ up with route := { pinned := [(144, 9)] } }, 144, 9, by decide +kernel, by decide +kernel⟩,
   ⟨{ up with route := { changes := [rc true 1] } }, 47, rc true 1, by decide +kernel⟩⟩

/-- States and operands that meet the premises of FenceEventsComplete, clause by clause. -/
theorem witness_FenceEventsComplete :
    (∃ (s : State) (e : _), (fenceList s).contains e = false) ∧
    (∃ (s : State) (e : _), (fenceList s).contains e = true) ∧
    (∃ (s : State) (d : _), s.route.probes.any (fun x => x.1 = d) = true) ∧
    (∃ (s : State) (d : _) (x : _), s.route.probes.find? (fun x => x.1 = d) = some x) ∧
    (∃ (s : State) (l : _) (t0 : _), isEdge l = true ∧ (link l s).giveUpAt = some t0) :=
  ⟨⟨up, 65, by decide +kernel⟩,
   ⟨{ up with route := { fence := [65] } }, 65, by decide +kernel⟩,
   ⟨{ up with route := { probes := [(2319, 1, 0)] } }, 2319, by decide +kernel⟩,
   ⟨{ up with route := { probes := [(2319, 1, 0)] } }, 2319, (2319, 1, 0), by decide +kernel⟩,
   ⟨linkWith 51 3 { giveUpAt := some 3 }, 51, 3, by decide +kernel, by decide +kernel⟩⟩

/-- States and operands that meet the premises of TundishCommandsComplete, clause by clause. -/
theorem witness_TundishCommandsComplete :
    (∃ (m : CmdMeta) (s : State) (h : _), Takes m 0x0300 s ∧ h ≤ 1) ∧
    (∃ (m : CmdMeta) (s : State) (port : _) (cls : _) (warn : _) (slow : _) (stop : _), Takes m 0x0301 s ∧ port < 52 ∧ cls ≤ 4 ∧ warn < slow ∧ slow < stop ∧ stop ≤ halfCells) ∧
    (∃ (m : CmdMeta) (s : State) (h : _) (warn : _) (slow : _) (stop : _) (res : _), Takes m 0x0302 s ∧ h ≤ 1 ∧ warn < 2 ^ 22 ∧ slow < warn ∧ stop < slow ∧ res < stop ∧ highAllow s ≤ res - 16384) ∧
    (∃ (m : CmdMeta) (s : State) (h : _) (b : _), TakesLong m 0x0303 s ∧ h ≤ 1 ∧ b ≤ 31 ∧ (half h s).swap = none ∧ flag .tuRiserUsed h s = false) ∧
    (∃ (m : CmdMeta) (s : State) (port : _) (cls : _) (heat : _), Takes m 0x0310 s ∧ (port < 52 ∨ (56 ≤ port ∧ port ≤ 58)) ∧ cls ≤ 4 ∧ heat ≠ 0 ∧ (∀ e ∈ extraQueues s, ¬ (e.2.port = port ∧ e.2.vc = cls ∧ e.2.heat = heat)) ∧ freeQueueIdx s < 262144 ∧ ((extraQueues s).filter fun e => e.2.port = port).length + 8 < 16384) ∧
    (∃ (m : CmdMeta) (s : State) (i : _) (q : _), Takes m 0x0311 s ∧ 440 ≤ i ∧ i < 262144 ∧ tabFind s.sw.queues i = some q ∧ q.ents = []) ∧
    (∃ (m : CmdMeta) (s : State) (i : _) (q : _) (e : _) (r : _) (d : _), Takes m 0x0311 s ∧ 440 ≤ i ∧ i < 262144 ∧ tabFind s.sw.queues i = some q ∧ q.ents = e :: r ∧ queueOf (defaultQueueIdx q.port q.vc) (delQueue i { s with samples := tabDel s.samples i }) = some d ∧ d.ents ≠ []) ∧
    (∃ (m : CmdMeta) (s : State) (i : _) (q : _), Takes m 0x0312 s ∧ i < 262144 ∧ queueOf i s = some q) ∧
    (∃ (m : CmdMeta) (s : State), Takes m 0x0320 s) :=
  ⟨⟨m0, up, 1, ⟨rfl, .inl (by decide +kernel)⟩, by decide +kernel⟩,
   ⟨m0, up, 51, 4, halfCells - 2, halfCells - 1, halfCells, ⟨rfl, .inl (by decide +kernel)⟩, by decide +kernel, by decide +kernel, by decide +kernel, by decide +kernel, by decide +kernel⟩,
   ⟨m0, up, 1, 2 ^ 22 - 1, 2 ^ 22 - 2, 2 ^ 22 - 3, 2 ^ 22 - 4, ⟨rfl, .inl (by decide +kernel)⟩, by decide +kernel, by decide +kernel, by decide +kernel, by decide +kernel, by decide +kernel, by decide +kernel⟩,
   ⟨m0, up, 1, 31, ⟨⟨rfl, .inl (by decide +kernel)⟩, by decide +kernel⟩, by decide +kernel, by decide +kernel, by decide +kernel, by decide +kernel⟩,
   ⟨m0, up, 58, 4, 5, ⟨rfl, .inl (by decide +kernel)⟩, by decide +kernel, by decide +kernel, by decide +kernel, by decide +kernel, by decide +kernel, by decide +kernel⟩,
   ⟨m0, withQueues [(262143, oq 51 4 false 5 [])], 262143, oq 51 4 false 5 [], ⟨rfl, .inl (by decide +kernel)⟩, by decide +kernel, by decide +kernel, by decide +kernel, by decide +kernel⟩,
   ⟨m0, withQueues [(412, oq 51 4 true 0 [qe]), (262143, oq 51 4 false 5 [qe])], 262143, oq 51 4 false 5 [qe], qe, [], oq 51 4 true 0 [qe], ⟨rfl, .inl (by decide +kernel)⟩, by decide +kernel, by decide +kernel, by decide +kernel, by decide +kernel, by decide +kernel, by decide +kernel⟩,
   ⟨m0, withQueues [(262143, oq 51 4 false 5 [])], 262143, oq 51 4 false 5 [], ⟨rfl, .inl (by decide +kernel)⟩, by decide +kernel, by decide +kernel⟩,
   ⟨m0, up, ⟨rfl, .inl (by decide +kernel)⟩⟩⟩

/-- States and operands that meet the premises of TundishEventsComplete, clause by clause. -/
theorem witness_TundishEventsComplete :
    (∃ (s : State) (h : Nat), h < 2 ∧ runCount (half h s).cache < 8192 ∧ (half h s).ring ≠ []) ∧
    (∃ (s : State) (h : Nat), h < 2 ∧ 24576 < runCount (half h s).cache) ∧
    (∃ (s : State) (h : Nat), h < 2 ∧ 8192 ≤ runCount (half h s).cache ∧ runCount (half h s).cache ≤ 24576) ∧
    (∃ (s : State) (h : Nat) (j : _), h < 2 ∧ (half h s).swap = some j) :=
  ⟨⟨{ up with sw := { x1 := { cache := [(0, 8191)] } } }, 1, by decide +kernel, by decide +kernel, by decide +kernel⟩,
   ⟨{ up with sw := { x1 := { cache := [(0, 24577)] } } }, 1, by decide +kernel, by decide +kernel⟩,
   ⟨{ up with sw := { x1 := { cache := [(0, 8192)] } } }, 1, by decide +kernel, by decide +kernel, by decide +kernel⟩,
   ⟨{ up with sw := { x1 := { swap := some ⟨31, 4, none⟩ } } }, 1, ⟨31, 4, none⟩, by decide +kernel, by decide +kernel⟩⟩

/-- States and operands that meet the premises of SchedCommandsComplete, clause by clause. -/
theorem witness_SchedCommandsComplete :
    (∃ (m : CmdMeta) (s : State) (p : Nat), p < 52 ∧ Takes m 0x0400 s) ∧
    (∃ (m : CmdMeta) (s : State) (p : Nat) (cls : _) (w : _), p < 52 ∧ Takes m 0x0401 s ∧ cls ≤ 4 ∧ 1 ≤ w ∧ w ≤ 255) ∧
    (∃ (m : CmdMeta) (s : State) (p : Nat) (i : _) (q : _) (w : _), p < 52 ∧ Takes m 0x0402 s ∧ 440 ≤ i ∧ i < 262144 ∧ 1 ≤ w ∧ w ≤ 255 ∧ tabFind s.sw.queues i = some q ∧ q.port < 52) ∧
    (∃ (m : CmdMeta) (s : State) (p : Nat) (first : _) (es : List Nat), p < 52 ∧ Takes m 0x0410 s ∧ es ≠ [] ∧ es.length ≤ 128 ∧ first + es.length ≤ 1024 ∧ (∀ e ∈ es, e < 2 ^ 62) ∧ (schedOf p s).flip = none) ∧
    (∃ (m : CmdMeta) (s : State) (p : Nat) (n : _) (cyc : _) (idle : _) (guard : _) (at' : _), p < 52 ∧ TakesLong m 0x0411 s ∧ n ≤ 1024 ∧ idle ≤ 31 ∧ windowsOk (shadowTable p 0 n s) cyc guard = true ∧ activateOk at' s = true ∧ (schedOf p s).flip = none) ∧
    (∃ (m : CmdMeta) (s : State) (p : Nat) (at' : _), p < 52 ∧ TakesLong m 0x0412 s ∧ activateOk at' s = true ∧ (schedOf p s).flip = none ∧ flag .sdWinOn p s = true) ∧
    (∃ (m : CmdMeta) (s : State) (p : Nat) (first : _), p < 52 ∧ Takes m 0x0413 s ∧ first < 1024) ∧
    (∃ (m : CmdMeta) (s : State) (p : Nat) (kind : _) (stream : _) (cls : _), p < 52 ∧ Takes m 0x0420 s ∧ policerNamed p kind stream cls = true) ∧
    (∃ (m : CmdMeta) (s : State) (p : Nat) (stream : _) (cls : _) (r : _) (b : _), p < 52 ∧ Takes m 0x0420 s ∧ policerNamed p 1 stream cls = true ∧ 1 ≤ r ∧ r ≤ 4588 ∧ 65 ≤ b ∧ b ≤ 1048575) ∧
    (∃ (m : CmdMeta) (s : State) (p : Nat) (stream : _) (cls : _) (r : _) (b : _), p < 52 ∧ Takes m 0x0420 s ∧ policerNamed p 0 stream cls = true ∧ 1 ≤ r ∧ r ≤ 4588 ∧ 65 ≤ b ∧ b ≤ 1048575 ∧ (schedOf p s).streams.length < 1024) ∧
    (∃ (m : CmdMeta) (s : State) (p : Nat) (stream : _) (cls : _) (x : _), p < 52 ∧ Takes m 0x0421 s ∧ policerNamed p 0 stream cls = true ∧ tabFind (schedOf p s).streams (stream * 8 + cls) = some x) ∧
    (∃ (m : CmdMeta) (s : State) (p : Nat) (stream : _) (cls : _) (x : _), p < 52 ∧ Takes m 0x0421 s ∧ policerNamed p 1 stream cls = true ∧ tabFind (schedOf p s).classes cls = some x) ∧
    (∃ (m : CmdMeta) (s : State) (p : Nat) (q : _), p < 52 ∧ Takes m 0x0430 s ∧ q < 262144 ∧ queueOf q s ≠ none) ∧
    (∃ (m : CmdMeta) (s : State) (p : Nat) (q : _), p < 52 ∧ Takes m 0x0430 s ∧ q < 262144 ∧ queueOf q s ≠ none ∧ tabFind s.samples q = none ∧ s.samples.length < 1024) ∧
    (∃ (m : CmdMeta) (s : State) (p : Nat) (q : _) (x : _), p < 52 ∧ Takes m 0x0431 s ∧ q < 262144 ∧ tabFind s.samples q = some x) ∧
    (∃ (m : CmdMeta) (s : State) (p : Nat) (shift : _), p < 52 ∧ Takes m 0x0432 s ∧ shift ≤ 15) ∧
    (∃ (m : CmdMeta) (s : State) (p : Nat), p < 52 ∧ Takes m 0x0440 s) :=
  ⟨⟨m0, up, 51, by decide +kernel, ⟨rfl, .inl (by decide +kernel)⟩⟩,
   ⟨m0, up, 51, 4, 255, by decide +kernel, ⟨rfl, .inl (by decide +kernel)⟩, by decide +kernel, by decide +kernel, by decide +kernel⟩,
   ⟨m0, withQueues [(262143, oq 51 4 false 5 [])], 51, 262143, oq 51 4 false 5 [], 255, by decide +kernel, ⟨rfl, .inl (by decide +kernel)⟩, by decide +kernel, by decide +kernel, by decide +kernel, by decide +kernel, by decide +kernel, by decide +kernel⟩,
   ⟨m0, up, 51, 1023, [2 ^ 62 - 1], by decide +kernel, ⟨rfl, .inl (by decide +kernel)⟩, by decide +kernel, by decide +kernel, by decide +kernel, by decide +kernel, by decide +kernel⟩,
   ⟨m0, withSched 51 { table1 := [(0, 2 ^ 56 + 200 * 2 ^ 32)] }, 51, 1, 1000, 31, 100, 8, by decide +kernel, ⟨⟨rfl, .inl (by decide +kernel)⟩, by decide +kernel⟩, by decide +kernel, by decide +kernel, by decide +kernel, by decide +kernel, by decide +kernel⟩,
   ⟨m0, windows, 51, 8, by decide +kernel, ⟨⟨rfl, .inl (by decide +kernel)⟩, by decide +kernel⟩, by decide +kernel, by decide +kernel, by decide +kernel⟩,
   ⟨m0, up, 51, 1023, by decide +kernel, ⟨rfl, .inl (by decide +kernel)⟩, by decide +kernel⟩,
   ⟨m0, up, 51, 0, 2 ^ 20 - 1, 4, by decide +kernel, ⟨rfl, .inl (by decide +kernel)⟩, by decide +kernel⟩,
   ⟨m0, up, 51, 2 ^ 20 - 1, 4, 4588, 65, by decide +kernel, ⟨rfl, .inl (by decide +kernel)⟩, by decide +kernel, by decide +kernel, by decide +kernel, by decide +kernel, by decide +kernel⟩,
   ⟨m0, up, 51, 2 ^ 20 - 1, 4, 4588, 65, by decide +kernel, ⟨rfl, .inl (by decide +kernel)⟩, by decide +kernel, by decide +kernel, by decide +kernel, by decide +kernel, by decide +kernel, by decide +kernel⟩,
   ⟨m0, withSched 51 { streams := [(12, ⟨9, 65, 0, none⟩)] }, 51, 1, 4, ⟨9, 65, 0, none⟩, by decide +kernel, ⟨rfl, .inl (by decide +kernel)⟩, by decide +kernel, by decide +kernel⟩,
   ⟨m0, withSched 51 { classes := [(4, ⟨9, 65, 0, none⟩)] }, 51, 0, 4, ⟨9, 65, 0, none⟩, by decide +kernel, ⟨rfl, .inl (by decide +kernel)⟩, by decide +kernel, by decide +kernel⟩,
   ⟨m0, up, 51, 439, by decide +kernel, ⟨rfl, .inl (by decide +kernel)⟩, by decide +kernel, by decide +kernel⟩,
   ⟨m0, up, 51, 439, by decide +kernel, ⟨rfl, .inl (by decide +kernel)⟩, by decide +kernel, by decide +kernel, by decide +kernel, by decide +kernel⟩,
   ⟨m0, { up with samples := [(439, {})] }, 51, 439, {}, by decide +kernel, ⟨rfl, .inl (by decide +kernel)⟩, by decide +kernel, by decide +kernel⟩,
   ⟨m0, up, 51, 15, by decide +kernel, ⟨rfl, .inl (by decide +kernel)⟩, by decide +kernel⟩,
   ⟨m0, up, 51, by decide +kernel, ⟨rfl, .inl (by decide +kernel)⟩⟩⟩

/-- States and operands that meet the premises of SchedEventsComplete, clause by clause. -/
theorem witness_SchedEventsComplete :
    (∃ (s : State) (p : Nat), p < 52 ∧ isEdge p = true ∧ ((schedOf p s).streams ≠ [] ∨ (schedOf p s).classes ≠ [])) ∧
    (∃ (s : State) (p : Nat) (x : _), p < 52 ∧ flag .sdWinOn p s = true ∧ (schedOf p s).halted = false ∧ x ∈ edgesAfter (activeTable p s) (reg .sdCycleNs p s) (phaseAt p (timeBase s) s) ∧ x < reg .sdCycleNs p s ∧ (∀ y ∈ edgesAfter (activeTable p s) (reg .sdCycleNs p s) (phaseAt p (timeBase s) s), x ≤ y)) ∧
    (∃ (s : State) (p : Nat), p < 52 ∧ flag .sdWinOn p s = true) ∧
    (∃ (s : State) (p : Nat) (j : _), p < 52 ∧ (schedOf p s).flip = some j ∧ j.off = false) ∧
    (∃ (s : State) (p : Nat) (j : _), p < 52 ∧ (schedOf p s).flip = some j ∧ j.off = true) :=
  ⟨⟨withSched 51 { classes := [(4, ⟨9, 65, 0, none⟩)] }, 51, by decide +kernel, by decide +kernel, by decide +kernel⟩,
   ⟨windows, 51, 200, by decide +kernel, by decide +kernel, by decide +kernel, by decide +kernel, by decide +kernel, by decide +kernel⟩,
   ⟨windows, 51, by decide +kernel, by decide +kernel⟩,
   ⟨withSched 51 { flip := some ⟨8, false, 1, 1000, 0, 0, c0⟩ }, 51, ⟨8, false, 1, 1000, 0, 0, c0⟩, by decide +kernel, by decide +kernel, by decide +kernel⟩,
   ⟨withSched 51 { flip := some ⟨8, true, 1, 1000, 0, 0, c0⟩ }, 51, ⟨8, true, 1, 1000, 0, 0, c0⟩, by decide +kernel, by decide +kernel, by decide +kernel⟩⟩

/-- States and operands that meet the premises of PageCommandsComplete, clause by clause. -/
theorem witness_PageCommandsComplete :
    (∃ (m : CmdMeta) (s : State) (heat : _) (cls : _) (count : _) (rw : _) (mig : _) (set : _) (first : _) (stripe : _) (mstep : _) (homes : _) (j : _) (base : _), TakesLong m 0x0500 s ∧ homesOf set s = some homes ∧ homes ≠ [] ∧ cls ≤ 2 ∧ 1 ≤ count ∧ count ≤ 8388608 ∧ rw ≤ 1 ∧ mig ≤ 1 ∧ 1 ≤ stripe ∧ stripe ≤ 65536 ∧ (cls = 2 → 2 ≤ homes.length ∧ 1 ≤ mstep ∧ mstep < homes.length) ∧ j = { heat := heat, cls := cls, count := count, rw := rw = 1, mig := mig = 1, homes := homes, first := first, stripe := stripe, mstep := mstep, cmd := refOf m 0x0500 } ∧ allocRefusal j s = none ∧ freeRun count 0 s.mem.book = some base ∧ framesReady j s = true) ∧
    (∃ (m : CmdMeta) (s : State) (heat : _) (cls : _) (count : _) (rw : _) (mig : _) (set : _) (first : _) (stripe : _) (mstep : _) (homes : _) (j : _) (base : _), TakesLong m 0x0500 s ∧ homesOf set s = some homes ∧ homes ≠ [] ∧ cls ≤ 2 ∧ 1 ≤ count ∧ count ≤ 8388608 ∧ rw ≤ 1 ∧ mig ≤ 1 ∧ 1 ≤ stripe ∧ stripe ≤ 65536 ∧ (cls = 2 → 2 ≤ homes.length ∧ 1 ≤ mstep ∧ mstep < homes.length) ∧ j = { heat := heat, cls := cls, count := count, rw := rw = 1, mig := mig = 1, homes := homes, first := first, stripe := stripe, mstep := mstep, cmd := refOf m 0x0500 } ∧ allocRefusal j s = none ∧ freeRun count 0 s.mem.book = some base ∧ framesReady j s = false) ∧
    (∃ (m : CmdMeta) (s : State) (g : _) (count : _) (heat : _), TakesLong m 0x0501 s ∧ runOk g count s = true ∧ runUsed g count s = true ∧ runOwned g count heat s = true ∧ (∀ p ∈ runPages g count, pageBusy p s = false ∧ coversPage p s = false)) ∧
    (∃ (m : CmdMeta) (s : State) (g : _) (count : _) (heat : _), TakesLong m 0x0501 s ∧ runOk g count s = true ∧ runUsed g count s = true ∧ runOwned g count heat s = true ∧ (∀ p ∈ runPages g count, pageBusy p s = false ∧ coversPage p s = false) ∧ (∀ d ∈ sliceDevs heat s, d = ownDev s ∨ presentDev d s = false ∨ fencedDev d s = true)) ∧
    (∃ (m : CmdMeta) (s : State) (heat : _) (pages : _), TakesLong m 0x0502 s ∧ pages = ((s.mem.book.filter fun e => e.2.state ≠ pgFree && e.2.owner = heat).map fun e => ownDev s * 2 ^ 23 + e.1) ++ (s.mem.partner.filter fun e => e.2.state ≠ pgFree && e.2.owner = heat && servesBook (pageBook e.1) s).map (·.1) ∧ (∀ p ∈ pages, pageBusy p s = false ∧ coversPage p s = false)) ∧
    (∃ (m : CmdMeta) (s : State) (heat : _) (pages : _), TakesLong m 0x0502 s ∧ pages = ((s.mem.book.filter fun e => e.2.state ≠ pgFree && e.2.owner = heat).map fun e => ownDev s * 2 ^ 23 + e.1) ++ (s.mem.partner.filter fun e => e.2.state ≠ pgFree && e.2.owner = heat && servesBook (pageBook e.1) s).map (·.1) ∧ (∀ p ∈ pages, pageBusy p s = false ∧ coversPage p s = false) ∧ (∀ d ∈ sliceDevs heat s, d = ownDev s ∨ presentDev d s = false ∨ fencedDev d s = true)) ∧
    (∃ (m : CmdMeta) (s : State) (g : _) (count : _) (rw : _) (mig : _) (old : _) (new : _), Takes m 0x0504 s ∧ runOk g count s = true ∧ runUsed g count s = true ∧ rw ≤ 1 ∧ mig ≤ 1 ∧ new ≠ 0 ∧ runOwned g count old s = true ∧ (∀ p ∈ runPages g count, pageBusy p s = false)) ∧
    (∃ (m : CmdMeta) (s : State) (g : _) (heat : _) (h : _) (mr : _), Takes m 0x0505 s ∧ runOk g 1 s = true ∧ runUsed g 1 s = true ∧ (bookEntry (gPage g) s).owner = heat ∧ (bookEntry (gPage g) s).state = pgLost ∧ (∀ x ∈ s.mem.moves, x.page ≠ gPage g) ∧ clearHome (bookEntry (gPage g) s) s = some h ∧ clearMirror (bookEntry (gPage g) s) h s = some mr) ∧
    (∃ (m : CmdMeta) (s : State) (g : _) (d : _), TakesLong m 0x0506 s ∧ runOk g 1 s = true ∧ runUsed g 1 s = true ∧ d ≤ 2319 ∧ devInSlice (bookEntry (gPage g) s).owner d s = true ∧ pageBusy (gPage g) s = false ∧ onTable (gPage g) s = false ∧ (bookEntry (gPage g) s).state = pgValid ∧ d ≠ (bookEntry (gPage g) s).home ∧ d ≠ (bookEntry (gPage g) s).mirror ∧ fencedDev d s = false ∧ presentDev d s = true ∧ suppliesFrame d s = true) ∧
    (∃ (m : CmdMeta) (s : State) (g : _) (d : _), TakesLong m 0x0507 s ∧ runOk g 1 s = true ∧ runUsed g 1 s = true ∧ gCls g = 2 ∧ d ≤ 2319 ∧ devInSlice (bookEntry (gPage g) s).owner d s = true ∧ pageBusy (gPage g) s = false ∧ (bookEntry (gPage g) s).state = pgValid ∧ d ≠ (bookEntry (gPage g) s).home ∧ fencedDev d s = false ∧ presentDev d s = true ∧ suppliesFrame d s = true) :=
  ⟨⟨m0, bound, 5, 0, 1, 1, 1, 0xFFFF, 0, 65536, 0, [0], _, 0, ⟨⟨rfl, .inl (by decide +kernel)⟩, by decide +kernel⟩, by decide +kernel, by decide +kernel, by decide +kernel, by decide +kernel, by decide +kernel, by decide +kernel, by decide +kernel, by decide +kernel, by decide +kernel, by decide +kernel, rfl, by decide +kernel, by decide +kernel, by decide +kernel⟩,
   ⟨m0, { bound with mem := { bootZeroAt := some 0 } }, 5, 0, 1, 1, 1, 0xFFFF, 0, 65536, 0, [0], _, 0, ⟨⟨rfl, .inl (by decide +kernel)⟩, by decide +kernel⟩, by decide +kernel, by decide +kernel, by decide +kernel, by decide +kernel, by decide +kernel, by decide +kernel, by decide +kernel, by decide +kernel, by decide +kernel, by decide +kernel, rfl, by decide +kernel, by decide +kernel, by decide +kernel⟩,
   ⟨m0, page7, ga 0, 1, 5, ⟨⟨rfl, .inl (by decide +kernel)⟩, by decide +kernel⟩, by decide +kernel, by decide +kernel, by decide +kernel, by decide +kernel⟩,
   ⟨m0, paged { ent with owner := 6 } [], ga 0, 1, 6, ⟨⟨rfl, .inl (by decide +kernel)⟩, by decide +kernel⟩, by decide +kernel, by decide +kernel, by decide +kernel, by decide +kernel, by decide +kernel⟩,
   ⟨m0, page7, 5, [7], ⟨⟨rfl, .inl (by decide +kernel)⟩, by decide +kernel⟩, by decide +kernel, by decide +kernel⟩,
   ⟨m0, paged { ent with owner := 6 } [], 6, [7], ⟨⟨rfl, .inl (by decide +kernel)⟩, by decide +kernel⟩, by decide +kernel, by decide +kernel, by decide +kernel⟩,
   ⟨m0, page7, ga 0, 1, 1, 1, 5, 6, ⟨rfl, .inl (by decide +kernel)⟩, by decide +kernel, by decide +kernel, by decide +kernel, by decide +kernel, by decide +kernel, by decide +kernel, by decide +kernel⟩,
   ⟨m0, paged { ent with state := 2 } [], ga 0, 5, 0, 0xFFF, ⟨rfl, .inl (by decide +kernel)⟩, by decide +kernel, by decide +kernel, by decide +kernel, by decide +kernel, by decide +kernel, by decide +kernel, by decide +kernel⟩,
   ⟨m0, paged { ent with home := 1 } [], ga 0, 0, ⟨⟨rfl, .inl (by decide +kernel)⟩, by decide +kernel⟩, by decide +kernel, by decide +kernel, by decide +kernel, by decide +kernel, by decide +kernel, by decide +kernel, by decide +kernel, by decide +kernel, by decide +kernel, by decide +kernel, by decide +kernel, by decide +kernel⟩,
   ⟨m0, paged { ent with cls := 2, home := 1 } [], ga 2, 0, ⟨⟨rfl, .inl (by decide +kernel)⟩, by decide +kernel⟩, by decide +kernel, by decide +kernel, by decide +kernel, by decide +kernel, by decide +kernel, by decide +kernel, by decide +kernel, by decide +kernel, by decide +kernel, by decide +kernel, by decide +kernel⟩⟩

/-- States and operands that meet the premises of MemoryShopCommandsComplete, clause by clause. -/
theorem witness_MemoryShopCommandsComplete :
    (∃ (m : CmdMeta) (s : State) (g : _), Takes m 0x0503 s ∧ gfaOk g = true ∧ bookServer (gBook g) s ≠ none ∧ homeFrame (gPage g) s = none) ∧
    (∃ (m : CmdMeta) (s : State) (g : _) (f : _) (r : _), Takes m 0x0503 s ∧ gfaOk g = true ∧ bookServer (gBook g) s ≠ none ∧ homeFrame (gPage g) s = some f ∧ frameRec f s = some r) ∧
    (∃ (m : CmdMeta) (s : State) (wf : _) (wp : _) (wl : _) (we : _), Takes m 0x0510 s ∧ 1 ≤ wf ∧ wf ≤ 255 ∧ 1 ≤ wp ∧ wp ≤ 255 ∧ 1 ≤ wl ∧ wl ≤ 255 ∧ 1 ≤ we ∧ we ≤ 255) ∧
    (∃ (m : CmdMeta) (s : State) (on : _), Takes m 0x0511 s ∧ on ≤ 1) ∧
    (∃ (m : CmdMeta) (s : State), Takes m 0x0520 s) ∧
    (∃ (m : CmdMeta) (s : State), Takes m 0x0521 s) :=
  ⟨⟨m0, paged ent [], ga 0, ⟨rfl, .inl (by decide +kernel)⟩, by decide +kernel, by decide +kernel, by decide +kernel⟩,
   ⟨m0, page7, ga 0, 3, rec3, ⟨rfl, .inl (by decide +kernel)⟩, by decide +kernel, by decide +kernel, by decide +kernel, by decide +kernel⟩,
   ⟨m0, page7, 1, 255, 1, 255, ⟨rfl, .inl (by decide +kernel)⟩, by decide +kernel, by decide +kernel, by decide +kernel, by decide +kernel, by decide +kernel, by decide +kernel, by decide +kernel, by decide +kernel⟩,
   ⟨m0, page7, 1, ⟨rfl, .inl (by decide +kernel)⟩, by decide +kernel⟩,
   ⟨m0, page7, ⟨rfl, .inl (by decide +kernel)⟩⟩,
   ⟨m0, page7, ⟨rfl, .inl (by decide +kernel)⟩⟩⟩

/-- States and operands that meet the premises of PourCommandsComplete, clause by clause. -/
theorem witness_PourCommandsComplete :
    (∃ (m : CmdMeta) (s : State) (desc : _), TakesLong m 0x0600 s ∧ registerCheck desc s = none) ∧
    (∃ (m : CmdMeta) (s : State) (heat : _) (id : _) (p : _), Takes m 0x0601 s ∧ pourOf heat id s = some p ∧ p.lead = true ∧ p.endAt = none ∧ p.state ≤ 3) ∧
    (∃ (m : CmdMeta) (s : State) (heat : _) (id : _) (p : _), Takes m 0x0602 s ∧ pourOf heat id s = some p ∧ p.endAt = none) ∧
    (∃ (m : CmdMeta) (s : State) (heat : _) (id : _) (p : _) (t0 : _), Takes m 0x0602 s ∧ pourOf heat id s = some p ∧ p.endAt = some t0) ∧
    (∃ (m : CmdMeta) (s : State) (heat : _) (id : _) (p : _), Takes m 0x0603 s ∧ pourOf heat id s = some p ∧ p.lead = true) ∧
    (∃ (m : CmdMeta) (s : State) (i : _) (n : _), Takes m 0x0610 s ∧ i ≤ 4095 ∧ 1 ≤ n ∧ n ≤ 16384 ∧ setInUse i s = false ∧ setEntriesUsed i s + n ≤ 4194304) ∧
    (∃ (m : CmdMeta) (s : State) (i : _) (first : _) (es : List Nat) (t : _), Takes m 0x0611 s ∧ es ≠ [] ∧ es.length ≤ 600 ∧ i ≤ 4095 ∧ tabFind s.pour.sets i = some t ∧ first + es.length ≤ t.count ∧ (∀ e ∈ es, e < 2 ^ 18) ∧ setInUse i s = false) ∧
    (∃ (m : CmdMeta) (s : State) (i : _) (kind : _) (t : _), Takes m 0x0612 s ∧ i ≤ 4095 ∧ kind ≤ 1 ∧ tabFind s.pour.sets i = some t ∧ setInUse i s = false ∧ t.count ≤ t.entries.length ∧ (kind = 1 → (setList t).length ≤ 2320) ∧ (∀ e ∈ setList t, entryOk kind e = true) ∧ (dedupNat (setList t)).length = (setList t).length) ∧
    (∃ (m : CmdMeta) (s : State) (i : _) (t : _), Takes m 0x0613 s ∧ i ≤ 4095 ∧ tabFind s.pour.sets i = some t ∧ setInUse i s = false) ∧
    (∃ (m : CmdMeta) (s : State) (i : _) (first : _) (t : _), Takes m 0x0614 s ∧ i ≤ 4095 ∧ tabFind s.pour.sets i = some t ∧ first < t.count) ∧
    (∃ (m : CmdMeta) (s : State) (cls : _) (w : _), Takes m 0x0620 s ∧ cls ≤ 4 ∧ 1 ≤ w ∧ w ≤ 255) ∧
    (∃ (m : CmdMeta) (s : State) (n : _), Takes m 0x0621 s ∧ n ≤ 1048575 ∧ s.pour.spill < n ∧ s.pour.spill < (growSpill n s).pour.spill) ∧
    (∃ (m : CmdMeta) (s : State) (n : _), Takes m 0x0621 s ∧ n ≤ 1048575 ∧ n ≤ s.pour.spill) ∧
    (∃ (m : CmdMeta) (s : State), Takes m 0x0630 s) :=
  ⟨⟨m0, withSets, sealedDesc, ⟨⟨rfl, .inl (by decide +kernel)⟩, by decide +kernel⟩, by decide +kernel⟩,
   ⟨m0, withPour pr, 5, 9, pr, ⟨rfl, .inl (by decide +kernel)⟩, by decide +kernel, by decide +kernel, by decide +kernel, by decide +kernel⟩,
   ⟨m0, withPour pr, 5, 9, pr, ⟨rfl, .inl (by decide +kernel)⟩, by decide +kernel, by decide +kernel⟩,
   ⟨m0, withPour { pr with endAt := some 3 }, 5, 9, { pr with endAt := some 3 }, 3, ⟨rfl, .inl (by decide +kernel)⟩, by decide +kernel, by decide +kernel⟩,
   ⟨m0, withPour pr, 5, 9, pr, ⟨rfl, .inl (by decide +kernel)⟩, by decide +kernel, by decide +kernel⟩,
   ⟨m0, withPour pr, 4095, 16384, ⟨rfl, .inl (by decide +kernel)⟩, by decide +kernel, by decide +kernel, by decide +kernel, by decide +kernel, by decide +kernel⟩,
   ⟨m0, withSet 4095 ⟨1, [], false, 0⟩, 4095, 0, [2 ^ 18 - 1], ⟨1, [], false, 0⟩, ⟨rfl, .inl (by decide +kernel)⟩, by decide +kernel, by decide +kernel, by decide +kernel, by decide +kernel, by decide +kernel, by decide +kernel, by decide +kernel⟩,
   ⟨m0, withSet 4095 ⟨2, [(0, 58), (1, 122)], false, 0⟩, 4095, 1, ⟨2, [(0, 58), (1, 122)], false, 0⟩, ⟨rfl, .inl (by decide +kernel)⟩, by decide +kernel, by decide +kernel, by decide +kernel, by decide +kernel, by decide +kernel, by decide +kernel, by decide +kernel, by decide +kernel⟩,
   ⟨m0, withSet 4095 ⟨1, [], false, 0⟩, 4095, ⟨1, [], false, 0⟩, ⟨rfl, .inl (by decide +kernel)⟩, by decide +kernel, by decide +kernel, by decide +kernel⟩,
   ⟨m0, withSet 4095 ⟨1, [], false, 0⟩, 4095, 0, ⟨1, [], false, 0⟩, ⟨rfl, .inl (by decide +kernel)⟩, by decide +kernel, by decide +kernel, by decide +kernel⟩,
   ⟨m0, withPour pr, 4, 255, ⟨rfl, .inl (by decide +kernel)⟩, by decide +kernel, by decide +kernel, by decide +kernel⟩,
   ⟨m0, withPour pr, 1, ⟨rfl, .inl (by decide +kernel)⟩, by decide +kernel, by decide +kernel, by decide +kernel⟩,
   ⟨m0, withPour pr, 0, ⟨rfl, .inl (by decide +kernel)⟩, by decide +kernel, by decide +kernel⟩,
   ⟨m0, withPour pr, ⟨rfl, .inl (by decide +kernel)⟩⟩⟩

/-- States and operands that meet the premises of LayerCommandsComplete, clause by clause. -/
theorem witness_LayerCommandsComplete :
    (∃ (m : CmdMeta) (s : State) (i : Nat) (d : _) (t : _), i ≤ 15 ∧ Takes m 0x0700 s ∧ 1 ≤ d ∧ d ≤ 1024 ∧ 1 ≤ t ∧ t ≤ 1024 ∧ (∀ g, segOf i s = some g → g.state = .defining)) ∧
    (∃ (m : CmdMeta) (s : State) (i : Nat) (first : _) (es : List Nat) (g : _), i ≤ 15 ∧ es ≠ [] ∧ es.length ≤ 60 ∧ segOf i s = some g ∧ g.state = .defining ∧ Takes m 0x0701 s ∧ (∀ e ∈ es, tensorResvOk (leBytes 32 e) = true) ∧ first + es.length ≤ g.nTens) ∧
    (∃ (m : CmdMeta) (s : State) (i : Nat) (first : _) (es : List Nat) (g : _), i ≤ 15 ∧ es ≠ [] ∧ es.length ≤ 60 ∧ segOf i s = some g ∧ g.state = .defining ∧ Takes m 0x0702 s ∧ (∀ e ∈ es, ldResvOk (leBytes 32 e) = true) ∧ first + es.length ≤ g.nDesc) ∧
    (∃ (m : CmdMeta) (s : State) (i : Nat) (g : _), i ≤ 15 ∧ Takes m 0x0703 s ∧ segOf i s = some g ∧ g.state = .defining ∧ sealCheck g = none) ∧
    (∃ (m : CmdMeta) (s : State) (i : Nat) (g : _) (bays : _) (rows : _), i ≤ 15 ∧ TakesLong m 0x0704 s ∧ segOf i s = some g ∧ g.state = .closed ∧ 1 ≤ bays ∧ bays ≤ 100 ∧ 1 ≤ rows ∧ rows ≤ 16777216) ∧
    (∃ (m : CmdMeta) (s : State) (i : Nat) (g : _), i ≤ 15 ∧ TakesLong m 0x0705 s ∧ segOf i s = some g ∧ g.state ≠ .placing ∧ g.state ≠ .removing ∧ g.running = none ∧ g.queue = []) ∧
    (∃ (m : CmdMeta) (s : State) (i : Nat) (g : _) (pass : _) (rows : _) (first : _) (last : _) (pairs : List (Nat × Nat)), i ≤ 15 ∧ TakesLong m 0x0706 s ∧ segOf i s = some g ∧ g.state = .placed ∧ pass ≤ 2 ∧ pairs.length ≤ 8 ∧ 1 ≤ rows ∧ rows ≤ g.maxRows ∧ first ≤ last ∧ last < g.nDesc ∧ (∀ p ∈ pairs, pairOkRun g pass first last p.1 = true ∧ gResv p.2 = 0) ∧ s.det.paused.contains g.heat = false ∧ g.queue.length + b2n g.running.isSome < 4) ∧
    (∃ (m : CmdMeta) (s : State) (i : Nat) (g : _), i ≤ 15 ∧ Takes m 0x0707 s ∧ segOf i s = some g ∧ g.state = .placed) ∧
    (∃ (m : CmdMeta) (s : State) (i : Nat) (g : _), i ≤ 15 ∧ Takes m 0x0708 s ∧ segOf i s = some g) ∧
    (∃ (m : CmdMeta) (s : State) (i : Nat) (g : _) (tag : _), i ≤ 15 ∧ Takes m 0x0709 s ∧ segOf i s = some g ∧ g.state = .placed ∧ g.savedTag = some tag ∧ (∀ rs, g.running = some rs → rs.run.pass ≠ 1)) ∧
    (∃ (m : CmdMeta) (s : State) (i : Nat), i ≤ 15 ∧ Takes m 0x070A s) :=
  ⟨⟨m0, withSeg 15 (sg .defining), 15, 1024, 1, by decide +kernel, ⟨rfl, .inl (by decide +kernel)⟩, by decide +kernel, by decide +kernel, by decide +kernel, by decide +kernel, onlySome rfl rfl⟩,
   ⟨m0, withSeg 15 (sg .defining), 15, 0, [5], sg .defining, by decide +kernel, by decide +kernel, by decide +kernel, by decide +kernel, by decide +kernel, ⟨rfl, .inl (by decide +kernel)⟩, by decide +kernel, by decide +kernel⟩,
   ⟨m0, withSeg 15 (sg .defining), 15, 0, [5], sg .defining, by decide +kernel, by decide +kernel, by decide +kernel, by decide +kernel, by decide +kernel, ⟨rfl, .inl (by decide +kernel)⟩, by decide +kernel, by decide +kernel⟩,
   ⟨m0, withSeg 15 { sg .defining with nDesc := 0, nTens := 0, descs := [], tens := [] }, 15, { sg .defining with nDesc := 0, nTens := 0, descs := [], tens := [] }, by decide +kernel, ⟨rfl, .inl (by decide +kernel)⟩, by decide +kernel, by decide +kernel, by decide +kernel⟩,
   ⟨m0, withSeg 15 (sg .closed), 15, sg .closed, 100, 16777216, by decide +kernel, ⟨⟨rfl, .inl (by decide +kernel)⟩, by decide +kernel⟩, by decide +kernel, by decide +kernel, by decide +kernel, by decide +kernel, by decide +kernel, by decide +kernel⟩,
   ⟨m0, withSeg 15 (sg .placed), 15, sg .placed, by decide +kernel, ⟨⟨rfl, .inl (by decide +kernel)⟩, by decide +kernel⟩, by decide +kernel, by decide +kernel, by decide +kernel, by decide +kernel, by decide +kernel⟩,
   ⟨m0, withSeg 15 (sg .placed), 15, sg .placed, 2, 8, 0, 0, [], by decide +kernel, ⟨⟨rfl, .inl (by decide +kernel)⟩, by decide +kernel⟩, by decide +kernel, by decide +kernel, by decide +kernel, by decide +kernel, by decide +kernel, by decide +kernel, by decide +kernel, by decide +kernel, by decide +kernel, by decide +kernel, by decide +kernel⟩,
   ⟨m0, withSeg 15 (sg .placed), 15, sg .placed, by decide +kernel, ⟨rfl, .inl (by decide +kernel)⟩, by decide +kernel, by decide +kernel⟩,
   ⟨m0, withSeg 15 (sg .placed), 15, sg .placed, by decide +kernel, ⟨rfl, .inl (by decide +kernel)⟩, by decide +kernel⟩,
   ⟨m0, withSeg 15 { sg .placed with savedTag := some 4 }, 15, { sg .placed with savedTag := some 4 }, 4, by decide +kernel, ⟨rfl, .inl (by decide +kernel)⟩, by decide +kernel, by decide +kernel, by decide +kernel, fun _ h => nomatch h⟩,
   ⟨m0, up, 15, by decide +kernel, ⟨rfl, .inl (by decide +kernel)⟩⟩⟩

/-- States and operands that meet the premises of LayerEventsComplete, clause by clause. -/
theorem witness_LayerEventsComplete :
    (∃ (s : State) (i : Nat) (b : _) (t0 : _), b < 100 ∧ (tabGet {} s.layer.bays b).transfer = some (true, i, t0) ∧ bayClear b s = true ∧ shopsWait s = false) ∧
    (∃ (s : State) (i : Nat) (b : _) (t0 : _), b < 100 ∧ (tabGet {} s.layer.bays b).transfer = some (false, i, t0) ∧ shopsWait s = false) ∧
    (∃ (s : State) (i : Nat) (g : _) (r : _) (rest : _), segOf i s = some g ∧ g.running = none ∧ g.queue = r :: rest ∧ paused s = false ∧ r.pass = 2 ∧ g.fresh = [] ∧ (readMasks g r (advanceTo (bayReadyAt g s) s)).2 = none) ∧
    (∃ (s : State) (i : Nat) (g : _) (rs : _) (d : _), segOf i s = some g ∧ g.running = some rs ∧ d = tabGet [] g.descs rs.next ∧ paused s = false ∧ waitsReadout g d = false ∧ descAccess g rs d s = none) ∧
    (∃ (s : State) (i : Nat) (g : _) (rs : _), segOf i s = some g ∧ g.running = some rs ∧ rs.run.deadline ≠ 0 ∧ rs.missed = false) ∧
    (∃ (s : State), shopsWait s = false) ∧
    (∃ (s : State) (i : Nat) (g : _) (g' : _) (sram : _) (l : _) (t : _), segOf i s = some g ∧ g.state = .placing ∧ g.want ≤ g.bays.length ∧ segAccess g s = none ∧ sram = (savedSuffix g g.maxRows (savedBudget g.want) (savedOrder g)).foldl withBit 0 ∧ takeSegPages i g.heat (segPages g sram g.maxRows g.want) [] s = some (l, t) ∧ segOf i t = some g ∧ g' = { g with state := .placed, sram := sram, weights := loadWeights g t, placeCmd := none, fresh := [], pages := l, lost := [], work := [], dwMask := [] }) ∧
    (∃ (s : State) (i : Nat) (g : _), segOf i s = some g ∧ g.state = .placing ∧ g.bays.length < g.want) :=
  ⟨⟨{ up with layer := { bays := [(99, { transfer := some (true, 15, 3) })] } }, 15, 99, 3, by decide +kernel, by decide +kernel, by decide +kernel, by decide +kernel⟩,
   ⟨{ up with layer := { bays := [(99, { transfer := some (false, 15, 3) })] } }, 15, 99, 3, by decide +kernel, by decide +kernel, by decide +kernel⟩,
   ⟨withSeg 15 { sg .placed with queue := [{ run5 with pass := 2 }] }, 15, { sg .placed with queue := [{ run5 with pass := 2 }] }, { run5 with pass := 2 }, [], by decide +kernel, by decide +kernel, by decide +kernel, by decide +kernel, by decide +kernel, by decide +kernel, by decide +kernel⟩,
   ⟨withSeg 15 { sg .placed with running := some rs5 }, 15, { sg .placed with running := some rs5 }, rs5, _, by decide +kernel, by decide +kernel, rfl, by decide +kernel, by decide +kernel, by decide +kernel⟩,
   ⟨withSeg 15 { sg .placed with running := some rs5 }, 15, { sg .placed with running := some rs5 }, rs5, by decide +kernel, by decide +kernel, by decide +kernel, by decide +kernel⟩,
   ⟨up, by decide +kernel⟩,
   ⟨withSeg 15 emptySeg, 15, emptySeg, _, _, [], withSeg 15 emptySeg, by decide +kernel, by decide +kernel, by decide +kernel, by decide +kernel, rfl, by decide +kernel, by decide +kernel, rfl⟩,
   ⟨withSeg 15 { sg .placing with want := 1 }, 15, { sg .placing with want := 1 }, by decide +kernel, by decide +kernel, by decide +kernel⟩⟩

/-- States and operands that meet the premises of UpdateCommandsComplete, clause by clause. -/
theorem witness_UpdateCommandsComplete :
    (∃ (m : CmdMeta) (s : State) (i : _) (e : _), Takes m 0x0800 s ∧ 1 ≤ i ∧ i ≤ 1023 ∧ ruleOk e = true ∧ pourUses (fun p => (pourOp p = 9 || pourOp p = 10) && pourRule p = i) s = false) ∧
    (∃ (m : CmdMeta) (s : State) (i : _), Takes m 0x0801 s ∧ 1 ≤ i ∧ i ≤ 1023) ∧
    (∃ (m : CmdMeta) (s : State) (heat : _) (base : _) (n : _) (kind : _) (slot : _), Takes m 0x0810 s ∧ 1 ≤ n ∧ n ≤ 2 ^ 40 ∧ 1 ≤ kind ∧ kind ≤ 3 ∧ slot ≤ 1 ∧ (gCls base = 0 ∨ gCls base = 2) ∧ gResv base = 0 ∧ gOff base = 0 ∧ rangeStatus heat base (stateBytes n kind) s = none ∧ pourUses (fun p => pourOp p = 9 && pourBase p = base) s = false ∧ updRoom s = true) ∧
    (∃ (m : CmdMeta) (s : State) (base : _) (r : _) (o : _) (k : _) (n : _) (kind : _) (bitmap : _) (u : _), Takes m 0x0811 s ∧ stateAt base s = some u ∧ r ≤ 15 ∧ kind ≤ 1 ∧ 1 ≤ k ∧ 1 ≤ n ∧ o + k * n ≤ u.elems ∧ (∀ x ∈ u.masks, x.region ≠ r → x.o + x.k * x.n ≤ o ∨ o + k * n ≤ x.o) ∧ pourUses (fun p => pourOp p = 9 && pourBase p = base) s = false ∧ rangeStatus u.heat bitmap (ceilDiv (maskBits k n kind) 8) s = none) ∧
    (∃ (m : CmdMeta) (s : State) (base : _) (r : _) (u : _), Takes m 0x0811 s ∧ stateAt base s = some u ∧ r ≤ 15 ∧ pourUses (fun p => pourOp p = 9 && pourBase p = base) s = false) ∧
    (∃ (m : CmdMeta) (s : State) (base : _) (u : _), Takes m 0x0812 s ∧ stateAt base s = some u) ∧
    (∃ (m : CmdMeta) (s : State) (base : _) (u : _), Takes m 0x0813 s ∧ stateAt base s = some u ∧ u.canRevert = true ∧ pourUses (fun p => pourOp p = 9 && pourBase p = base) s = false) ∧
    (∃ (m : CmdMeta) (s : State) (base : _) (u : _), Takes m 0x0814 s ∧ stateAt base s = some u ∧ pourUses (fun p => pourOp p = 9 && pourBase p = base) s = false) ∧
    (∃ (m : CmdMeta) (s : State) (t : _) (x : _), Takes m 0x0820 s ∧ t.lastPour = 0 ∧ tableOk t = true ∧ tabFind s.pour.sets t.setIndex = some x ∧ x.closed = true ∧ x.kind = 1 ∧ pourUses (fun p => pourOp p = 10 && pourBase p = t.base) s = false ∧ (∀ p ∈ piecesOf t.base (tablePages t * pageBytes), engineCheck t.heat p.1 s ≠ some .denied) ∧ updRoom s = true) ∧
    (∃ (m : CmdMeta) (s : State) (base : _) (t : _), Takes m 0x0821 s ∧ tableAt base s = some t) ∧
    (∃ (m : CmdMeta) (s : State) (base : _) (t : _), Takes m 0x0822 s ∧ tableAt base s = some t ∧ pourUses (fun p => pourOp p = 10 && pourBase p = base) s = false) ∧
    (∃ (m : CmdMeta) (s : State), Takes m 0x0830 s) :=
  ⟨⟨m0, up, 1023, [3] ++ List.replicate 31 0, ⟨rfl, .inl (by decide +kernel)⟩, by decide +kernel, by decide +kernel, by decide +kernel, by decide +kernel⟩,
   ⟨m0, up, 1023, ⟨rfl, .inl (by decide +kernel)⟩, by decide +kernel, by decide +kernel⟩,
   ⟨m0, pages16, 5, 0, 1, 3, 1, ⟨rfl, .inl (by decide +kernel)⟩, by decide +kernel, by decide +kernel, by decide +kernel, by decide +kernel, by decide +kernel, by decide +kernel, by decide +kernel, by decide +kernel, by decide +kernel, by decide +kernel, by decide +kernel⟩,
   ⟨m0, withUpd [us] [], 0, 15, 32, 32, 1, 1, 8 * 2 ^ 21, us, ⟨rfl, .inl (by decide +kernel)⟩, by decide +kernel, by decide +kernel, by decide +kernel, by decide +kernel, by decide +kernel, by decide +kernel, by decide +kernel, by decide +kernel, by decide +kernel⟩,
   ⟨m0, withUpd [us] [], 0, 15, us, ⟨rfl, .inl (by decide +kernel)⟩, by decide +kernel, by decide +kernel, by decide +kernel⟩,
   ⟨m0, withUpd [us] [], 0, us, ⟨rfl, .inl (by decide +kernel)⟩, by decide +kernel⟩,
   ⟨m0, withUpd [us] [], 0, us, ⟨rfl, .inl (by decide +kernel)⟩, by decide +kernel, by decide +kernel, by decide +kernel⟩,
   ⟨m0, withUpd [us] [], 0, us, ⟨rfl, .inl (by decide +kernel)⟩, by decide +kernel, by decide +kernel⟩,
   ⟨m0, { pages16 with pour := { sets := [(3, ⟨1, [(0, 58)], true, 1⟩)] } }, tb, ⟨1, [(0, 58)], true, 1⟩, ⟨rfl, .inl (by decide +kernel)⟩, by decide +kernel, by decide +kernel, by decide +kernel, by decide +kernel, by decide +kernel, by decide +kernel, by decide +kernel, by decide +kernel⟩,
   ⟨m0, withUpd [] [tb], 0, tb, ⟨rfl, .inl (by decide +kernel)⟩, by decide +kernel⟩,
   ⟨m0, withUpd [] [tb], 0, tb, ⟨rfl, .inl (by decide +kernel)⟩, by decide +kernel, by decide +kernel⟩,
   ⟨m0, up, ⟨rfl, .inl (by decide +kernel)⟩⟩⟩

/-- States and operands that meet the premises of ClockCommandsComplete, clause by clause. -/
theorem witness_ClockCommandsComplete :
    (∃ (m : CmdMeta) (s : State), Takes m 0x0900 s) ∧
    (∃ (m : CmdMeta) (s : State) (k : _), TakesLong m 0x0901 s ∧ (k = 1 ∨ k = 2) ∧ reg .ckAclkSrc 0 s ≠ k ∧ s.power.aclkSwap = none) ∧
    (∃ (m : CmdMeta) (s : State) (k : _) (div : _), Takes m 0x0902 s ∧ clockCode k = true ∧ 1 ≤ div ∧ div ≤ 65536 ∧ reg .ckFreqKhz k s ≤ 250000 * div ∧ clockGood s.power.obsCur s = true ∧ clockGood k s = true) ∧
    (∃ (m : CmdMeta) (s : State) (src : _) (l : _), Takes m 0x0903 s ∧ src ≤ 2 ∧ 48 ≤ l ∧ l ≤ 51) ∧
    (∃ (m : CmdMeta) (s : State) (l : _) (frame : _) (time : _) (f : _), TakesLong m 0x0904 s ∧ 48 ≤ l ∧ l ≤ 51 ∧ time < 2 ^ 48 ∧ frame < 2 ^ 48 ∧ tabFind s.time.frames l = some f ∧ 1 ≤ subMod frame f (2 ^ 48) ∧ subMod frame f (2 ^ 48) ≤ 8000 ∧ lkStateOf l s = lkActive ∧ s.time.armed = none) ∧
    (∃ (m : CmdMeta) (s : State) (k : _), Takes m 0x0905 s ∧ clockCode k = true) ∧
    (∃ (m : CmdMeta) (s : State), Takes m 0x0906 s) :=
  ⟨⟨m0, up, ⟨rfl, .inl (by decide +kernel)⟩⟩,
   ⟨m0, setReg .ckAclkSrc 0 1 up, 2, ⟨⟨rfl, .inl (by decide +kernel)⟩, by decide +kernel⟩, by decide +kernel, by decide +kernel, by decide +kernel⟩,
   ⟨m0, up, 0, 65536, ⟨rfl, .inl (by decide +kernel)⟩, by decide +kernel, by decide +kernel, by decide +kernel, by decide +kernel, by decide +kernel, by decide +kernel⟩,
   ⟨m0, up, 2, 51, ⟨rfl, .inl (by decide +kernel)⟩, by decide +kernel, by decide +kernel, by decide +kernel⟩,
   ⟨m0, { linkIn 51 4 with time := { frames := [(51, 2 ^ 48 - 1)] } }, 51, 7, 2 ^ 48 - 1, 2 ^ 48 - 1, ⟨⟨rfl, .inl (by decide +kernel)⟩, by decide +kernel⟩, by decide +kernel, by decide +kernel, by decide +kernel, by decide +kernel, by decide +kernel, by decide +kernel, by decide +kernel, by decide +kernel, by decide +kernel⟩,
   ⟨m0, up, 0x73, ⟨rfl, .inl (by decide +kernel)⟩, by decide +kernel⟩,
   ⟨m0, up, ⟨rfl, .inl (by decide +kernel)⟩⟩⟩

/-- States and operands that meet the premises of ClockEventsComplete, clause by clause. -/
theorem witness_ClockEventsComplete :
    (∃ (v : _), clockCode (v % 256) = true) ∧
    (∃ (s : State) (k : _), s.power.obsNext = some k ∧ clockRuns s.power.obsCur s = true ∧ clockRuns k s = true) ∧
    (∃ (s : State), s.power.state = .running ∧ reg .ckAclkSrc 0 s = 1 ∧ flag .ckPll1Lock 0 s = true) ∧
    (∃ (s : State), s.power.state = .running ∧ reg .ckAclkSrc 0 s = 2 ∧ flag .ckPll0Lock 0 s = true) ∧
    (∃ (s : State) (j : _), s.power.aclkSwap = some j ∧ clockGood (sourceCode (reg .ckAclkSrc 0 s)) s = true ∧ clockGood (sourceCode j.source) s = true) ∧
    (∃ (s : State), s.power.state = .running ∧ s.power.aclkSwap = none ∧ reg .ckAclkSrc 0 s = 1 ∧ shopsWait s = false ∧ (reg .reAuto 0 s).testBit 4 = true) :=
  ⟨⟨0x73, by decide +kernel⟩,
   ⟨setReg .ckPresent 3 1 { up with power := { up.power with obsNext := some 3 } }, 3, by decide +kernel, by decide +kernel, by decide +kernel⟩,
   ⟨setReg .ckPll1Lock 0 1 (setReg .ckAclkSrc 0 1 up), by decide +kernel, by decide +kernel, by decide +kernel⟩,
   ⟨setReg .ckPll0Lock 0 1 (setReg .ckAclkSrc 0 2 up), by decide +kernel, by decide +kernel, by decide +kernel⟩,
   ⟨setReg .ckAclkSrc 0 1 (setReg .ckPresent 4 1 (setReg .ckPresent 5 1 (setReg .ckFreqKhz 4 aclkKhz (setReg .ckFreqKhz 5 aclkKhz { up with power := { up.power with aclkSwap := some ⟨2, 0, none⟩ } })))), ⟨2, 0, none⟩, by decide +kernel, by rcases aclk_cases with h | h <;> simp only [clockGood, nominalKhz, h] <;> decide +kernel, by rcases aclk_cases with h | h <;> simp only [clockGood, nominalKhz, h] <;> decide +kernel⟩,
   ⟨setReg .reAuto 0 16 (setReg .ckAclkSrc 0 1 up), by decide +kernel, by decide +kernel, by decide +kernel, by decide +kernel, by decide +kernel⟩⟩

/-- States and operands that meet the premises of ReliabilityCommandsComplete, clause by clause. -/
theorem witness_ReliabilityCommandsComplete :
    (∃ (m : CmdMeta) (s : State), Takes m 0x0A00 s) ∧
    (∃ (m : CmdMeta) (s : State) (auto : _) (age : _) (fl : _) (fr : _) (h : _), Takes m 0x0A01 s ∧ auto < 32 ∧ 1 ≤ age ∧ age ≤ 255 ∧ fl ≤ 255 ∧ fr ≤ 255 ∧ 1 ≤ h ∧ h ≤ 12) ∧
    (∃ (m : CmdMeta) (s : State) (b : _) (f : _) (k : _), TakesLong m 0x0A02 s ∧ b < 100 ∧ f < 100 ∧ s.rel.degraded.contains b = false ∧ bayMoving b s = false ∧ flaskSwapping b s = false ∧ freeRiserFlask b s = some k) ∧
    (∃ (m : CmdMeta) (s : State) (f : _) (new : _), TakesLong m 0x0A03 s ∧ f < frameTotal ∧ frameAllocated f s = true ∧ (∀ x ∈ s.mem.moves, x.old ≠ f) ∧ pageBusy (framePage f s) s = false ∧ retireTarget f s = some new) ∧
    (∃ (m : CmdMeta) (s : State) (st : _), TakesLong m 0x0A04 s ∧ st ≤ 11 ∧ s.mem.lostStacks.testBit st = false) ∧
    (∃ (m : CmdMeta) (s : State) (b : _), Takes m 0x0A05 s ∧ b < 100 ∧ (reg .ckClkEn 0 s).testBit 1 = true) ∧
    (∃ (m : CmdMeta) (s : State) (first : _), Takes m 0x0A06 s ∧ first < 65536) ∧
    (∃ (m : CmdMeta) (s : State), Takes m 0x0A10 s) ∧
    (∃ (m : CmdMeta) (s : State) (first : _) (n : _) (nonce : List Byte), Takes m 0x0A11 s ∧ 1 ≤ n ∧ n ≤ 64 ∧ first < 2 ^ 32 ∧ nonce.length = 16) ∧
    (∃ (m : CmdMeta) (s : State), Takes m 0x0A12 s ∧ flag .shFrozen 0 s = true) ∧
    (∃ (m : CmdMeta) (s : State) (e : _) (cls : _) (sev : _), Takes m 0x0A20 s ∧ devOf e ≤ 2319 ∧ isEdge (portOf e) = true ∧ cls ≤ 4 ∧ sev ≤ 2 ∧ s.rel.subs.length < 4) ∧
    (∃ (m : CmdMeta) (s : State) (e : _), Takes m 0x0A21 s ∧ (∃ x ∈ s.rel.subs, x.endpoint = e)) ∧
    (∃ (m : CmdMeta) (s : State), Takes m 0x0A30 s) :=
  ⟨⟨m0, up, ⟨rfl, .inl (by decide +kernel)⟩⟩,
   ⟨m0, up, 31, 255, 255, 255, 12, ⟨rfl, .inl (by decide +kernel)⟩, by decide +kernel, by decide +kernel, by decide +kernel, by decide +kernel, by decide +kernel, by decide +kernel, by decide +kernel⟩,
   ⟨m0, up, 99, 99, 0, ⟨⟨rfl, .inl (by decide +kernel)⟩, by decide +kernel⟩, by decide +kernel, by decide +kernel, by decide +kernel, by decide +kernel, by decide +kernel, by decide +kernel⟩,
   ⟨m0, page7, 3, _, ⟨⟨rfl, .inl (by decide +kernel)⟩, by decide +kernel⟩, by decide +kernel, by decide +kernel, by decide +kernel, by decide +kernel, rfl⟩,
   ⟨m0, up, 11, ⟨⟨rfl, .inl (by decide +kernel)⟩, by decide +kernel⟩, by decide +kernel, by decide +kernel⟩,
   ⟨m0, setReg .ckClkEn 0 2 up, 99, ⟨rfl, .inl (by decide +kernel)⟩, by decide +kernel, by decide +kernel⟩,
   ⟨m0, up, 65535, ⟨rfl, .inl (by decide +kernel)⟩, by decide +kernel⟩,
   ⟨m0, up, ⟨rfl, .inl (by decide +kernel)⟩⟩,
   ⟨m0, up, 2 ^ 32 - 1, 64, List.replicate 16 0, ⟨rfl, .inl (by decide +kernel)⟩, by decide +kernel, by decide +kernel, by decide +kernel, by decide +kernel⟩,
   ⟨m0, setReg .shFrozen 0 1 up, ⟨rfl, .inl (by decide +kernel)⟩, by decide +kernel⟩,
   ⟨m0, up, epOf 2319 51, 4, 2, ⟨rfl, .inl (by decide +kernel)⟩, by decide +kernel, by decide +kernel, by decide +kernel, by decide +kernel, by decide +kernel⟩,
   ⟨m0, { up with rel := { subs := [⟨65, 4, 2, 0, 0⟩] } }, 65, ⟨rfl, .inl (by decide +kernel)⟩, by decide +kernel⟩,
   ⟨m0, up, ⟨rfl, .inl (by decide +kernel)⟩⟩⟩

/-- States and operands that meet the premises of RiserEventsComplete, clause by clause. -/
theorem witness_RiserEventsComplete :
    (∃ (s : State) (b : _) (f : _), b < 100 ∧ f < 100 ∧ s.rel.degraded.contains b = false ∧ (tabGet {} s.layer.bays b).seg = none) ∧
    (∃ (s : State) (u : _), u < 10000 ∧ shopsWait s = false) ∧
    (∃ (s : State) (u : _), u < frameTotal ∧ shopsWait s = false) ∧
    (∃ (s : State) (u : _), u / 100 < 2 ∧ u % 100 < 32 ∧ shopsWait s = false) ∧
    (∃ (s : State) (b : _) (f : _) (j : _), b < 100 ∧ f < 100 ∧ s.rel.proposals.find? (fun x => x.unit = 100 * b + f) = some j ∧ flaskClear b f s = true) ∧
    (∃ (s : State) (u : _) (j : _), s.rel.proposals.find? (fun x => x.unit = u) = some j) ∧
    (∃ (s : State), (reg .ckClkEn 0 s).testBit 1 = true) :=
  ⟨⟨up, 99, 99, by decide +kernel, by decide +kernel, by decide +kernel, by decide +kernel⟩,
   ⟨up, 9999, by decide +kernel, by decide +kernel⟩,
   ⟨up, 147455, by decide +kernel, by decide +kernel⟩,
   ⟨up, 131, by decide +kernel, by decide +kernel, by decide +kernel⟩,
   ⟨{ up with rel := { proposals := [⟨9999, 3, 4, none⟩] } }, 99, 99, ⟨9999, 3, 4, none⟩, by decide +kernel, by decide +kernel, by decide +kernel, by decide +kernel⟩,
   ⟨{ up with rel := { proposals := [⟨9999, 3, 4, none⟩] } }, 9999, ⟨9999, 3, 4, none⟩, by decide +kernel⟩,
   ⟨setReg .ckClkEn 0 2 up, by decide +kernel⟩⟩

/-- States and operands that meet the premises of ScrubEventsComplete, clause by clause. -/
theorem witness_ScrubEventsComplete :
    (∃ (s : State) (f : _), f < frameTotal ∧ onFailed f s = false ∧ frameAllocated f s = true) ∧
    (∃ (s : State) (st : _), st < 12 ∧ s.mem.lostStacks.testBit st = false) ∧
    (∃ (s : State) (u : _), u < 10000 ∧ reg .pwBayState (u / 100) s ≤ 1) ∧
    (∃ (d : _), d < 2) ∧
    (∃ (s : State) (e : _) (r : _), s.rel.writer = e :: r ∧ flag .shFrozen 0 s = false) ∧
    (∃ (s : State) (e : _) (r : _), s.rel.writer = e :: r ∧ flag .shFrozen 0 s = true) :=
  ⟨⟨page7, 3, by decide +kernel, by decide +kernel, by decide +kernel⟩,
   ⟨up, 11, by decide +kernel, by decide +kernel⟩,
   ⟨setReg .pwBayState 99 1 up, 9999, by decide +kernel, by decide +kernel⟩,
   ⟨1, by decide +kernel⟩,
   ⟨{ up with rel := { writer := [⟨1, 0, 0, 0x0A01, 0, 0, [], 0⟩] } }, ⟨1, 0, 0, 0x0A01, 0, 0, [], 0⟩, [], by decide +kernel, by decide +kernel⟩,
   ⟨setReg .shFrozen 0 1 { up with rel := { writer := [⟨1, 0, 0, 0x0A01, 0, 0, [], 0⟩] } }, ⟨1, 0, 0, 0x0A01, 0, 0, [], 0⟩, [], by decide +kernel, by decide +kernel⟩⟩

/-- States and operands that meet the premises of AssayCommandsComplete, clause by clause. -/
theorem witness_AssayCommandsComplete :
    (∃ (m : CmdMeta) (s : State), Takes m 0x0C00 s) ∧
    (∃ (m : CmdMeta) (s : State) (c : _) (b : _), Takes m 0x0C01 s ∧ c ≤ 8 ∧ s.assay.rx = some b) ∧
    (∃ (m : CmdMeta) (s : State) (heat : _) (x : _), Takes m 0x0C02 s ∧ isBound heat s = true ∧ tabFind s.assay.attrib heat = some x) ∧
    (∃ (m : CmdMeta) (s : State) (first : _), Takes m 0x0C03 s ∧ first < 1025) :=
  ⟨⟨m0, up, ⟨rfl, .inl (by decide +kernel)⟩⟩,
   ⟨m0, { up with assay := { rx := some [] } }, 8, [], ⟨rfl, .inl (by decide +kernel)⟩, by decide +kernel, by decide +kernel⟩,
   ⟨m0, { bound with assay := { attrib := [(5, (1, 2))] } }, 5, (1, 2), ⟨rfl, .inl (by decide +kernel)⟩, by decide +kernel, by decide +kernel⟩,
   ⟨m0, up, 1024, ⟨rfl, .inl (by decide +kernel)⟩, by decide +kernel⟩⟩

/-- States and operands that meet the premises of IslandPortComplete, clause by clause. -/
theorem witness_IslandPortComplete :
    (∃ (s : State), s.assay.vddGood = true) ∧
    (∃ (s : State) (c : _) (nonce : List Byte), s.assay.vddGood = true ∧ c ≤ 8 ∧ nonce.length = 16) ∧
    (∃ (s : State) (c : _) (nonce : List Byte), s.assay.vddGood = true ∧ s.assay.signing = some (c, nonce) ∧ (signsLately s).length < 20) ∧
    (∃ (s : State), s.assay.vddGood = true ∧ 20 ≤ (signsLately s).length) ∧
    (∃ (s : State), s.assay.vddGood = true ∧ s.assay.signing = none ∧ s.assay.reading ≠ []) ∧
    (∃ (s : State) (id : _) (c : _) (v : _), s.assay.vddGood = true ∧ paramOf id c (chan c s.assay.live) = some v) ∧
    (∃ (s : State) (i : Nat) (e : List Byte), s.assay.vddGood = true ∧ s.assay.live.trail[i]? = some e) ∧
    (∃ (s : State) (b : List Byte), s.assay.vddGood = true ∧ b.length = 128) ∧
    (∃ (s : State), s.assay.vddGood = true) :=
  ⟨⟨island {}, by decide +kernel⟩,
   ⟨island {}, 8, List.replicate 16 0, by decide +kernel, by decide +kernel, by decide +kernel⟩,
   ⟨island { signing := some (8, [1]) }, 8, [1], by decide +kernel, by decide +kernel, by decide +kernel⟩,
   ⟨island { signTimes := List.replicate 20 0 }, by decide +kernel, by decide +kernel⟩,
   ⟨island { reading := [1] }, by decide +kernel, by decide +kernel, by decide +kernel⟩,
   ⟨island {}, 6, 8, 0x2020202020202020, by decide +kernel, by decide +kernel⟩,
   ⟨island { live := { trail := [[1], [2]] } }, 1, [2], by decide +kernel, by decide +kernel⟩,
   ⟨island {}, List.replicate 128 0, by decide +kernel, by decide +kernel⟩,
   ⟨island {}, by decide +kernel⟩⟩

/-- States and operands that meet the premises of AssayEventsComplete, clause by clause. -/
theorem witness_AssayEventsComplete :
    (∃ (s : State) (c : _), c ≤ 8 ∧ s.assay.vddGood = true ∧ (chan c s.assay.live).enable = 1) ∧
    (∃ (s : State), s.assay.vddGood = true) ∧
    (∃ (s : State), s.assay.vddGood = false) ∧
    (∃ (s : State) (b : List Byte), s.power.state = .running ∧ b.length = 252 ∧ fieldAt b 0 2 = 0x5341 ∧ fieldAt b 248 4 = crc32c (b.take 248)) ∧
    (∃ (s : State) (b : List Byte), s.power.state = .running ∧ fieldAt b 248 4 ≠ crc32c (b.take 248)) ∧
    (∃ (s : State), flag .arArriving 0 s = true) :=
  ⟨⟨island { live := { chans := [(8, { enable := 1 })] } }, 8, by decide +kernel, by decide +kernel, by decide +kernel⟩,
   ⟨island {}, by decide +kernel⟩,
   ⟨up, by decide +kernel⟩,
   ⟨up, [0x41, 0x53] ++ List.replicate 246 0 ++ [0x6e, 0x8c, 0x15, 0x6b], by decide +kernel, by decide +kernel, by decide +kernel, by decide +kernel⟩,
   ⟨up, List.replicate 252 0, by decide +kernel, by decide +kernel⟩,
   ⟨setReg .arArriving 0 1 up, by decide +kernel⟩⟩

/-- States and operands that meet the premises of RecordCommandsComplete, clause by clause. -/
theorem witness_RecordCommandsComplete :
    (∃ (m : CmdMeta) (s : State) (heat : Nat), isBound heat s = true ∧ Takes m 0x0D00 s) ∧
    (∃ (m : CmdMeta) (s : State) (heat : Nat) (scope : _), isBound heat s = true ∧ Takes m 0x0D01 s ∧ scope ≤ 1 ∧ ctxOfHeat heat s = none ∧ s.det.ctxs.length < 1024) ∧
    (∃ (m : CmdMeta) (s : State) (heat : Nat) (kind : _) (gfa : _) (n : _), isBound heat s = true ∧ TakesLong m 0x0D02 s ∧ kind ≤ 2 ∧ 1 ≤ n ∧ n ≤ 2 ^ 40 ∧ gfaOk gfa = true ∧ ctxOfHeat heat s ≠ none) ∧
    (∃ (m : CmdMeta) (s : State) (heat : Nat) (x : _) (scope : _) (sign : _), isBound heat s = true ∧ TakesLong m 0x0D03 s ∧ scope ≤ 1 ∧ sign ≤ 1 ∧ ctxOfHeat heat s = some x ∧ closeBlocked heat s = false ∧ (∀ j ∈ s.det.closes, j.heat ≠ heat) ∧ (sign = 1 → signRoom s = true)) ∧
    (∃ (m : CmdMeta) (s : State) (heat : Nat) (b : _), isBound heat s = true ∧ Takes m 0x0D04 s ∧ tabFind s.det.held heat = some b) ∧
    (∃ (m : CmdMeta) (s : State) (heat : Nat), isBound heat s = true ∧ Takes m 0x0D10 s) ∧
    (∃ (m : CmdMeta) (s : State) (heat : Nat) (e : _) (ms : _) (cont : _), isBound heat s = true ∧ TakesLong m 0x0D20 s ∧ e < 2 ^ 18 ∧ 1 ≤ ms ∧ ms ≤ 10000 ∧ cont ≤ 1 ∧ (∀ j ∈ s.det.saves, j.heat ≠ heat)) ∧
    (∃ (m : CmdMeta) (s : State) (e : _) (n : _), TakesLong m 0x0D21 s ∧ e < 2 ^ 18 ∧ 64 ≤ n) :=
  ⟨⟨m0, bound, 5, by decide +kernel, ⟨rfl, .inl (by decide +kernel)⟩⟩,
   ⟨m0, bound, 5, 1, by decide +kernel, ⟨rfl, .inl (by decide +kernel)⟩, by decide +kernel, by decide +kernel, by decide +kernel⟩,
   ⟨m0, withDet { ctxs := [ctx5] }, 5, 2, 0, 2 ^ 40, by decide +kernel, ⟨⟨rfl, .inl (by decide +kernel)⟩, by decide +kernel⟩, by decide +kernel, by decide +kernel, by decide +kernel, by decide +kernel, by decide +kernel⟩,
   ⟨m0, withDet { ctxs := [ctx5] }, 5, ctx5, 1, 1, by decide +kernel, ⟨⟨rfl, .inl (by decide +kernel)⟩, by decide +kernel⟩, by decide +kernel, by decide +kernel, by decide +kernel, by decide +kernel, by decide +kernel, by decide +kernel⟩,
   ⟨m0, withDet { held := [(5, [1])] }, 5, [1], by decide +kernel, ⟨rfl, .inl (by decide +kernel)⟩, by decide +kernel⟩,
   ⟨m0, bound, 5, by decide +kernel, ⟨rfl, .inl (by decide +kernel)⟩⟩,
   ⟨m0, bound, 5, 2 ^ 18 - 1, 10000, 1, by decide +kernel, ⟨⟨rfl, .inl (by decide +kernel)⟩, by decide +kernel⟩, by decide +kernel, by decide +kernel, by decide +kernel, by decide +kernel, by decide +kernel⟩,
   ⟨m0, bound, 2 ^ 18 - 1, 64, ⟨⟨rfl, .inl (by decide +kernel)⟩, by decide +kernel⟩, by decide +kernel, by decide +kernel⟩⟩

/-- States and operands that meet the premises of RecordEventsComplete, clause by clause. -/
theorem witness_RecordEventsComplete :
    (∃ (s : State) (heat : Nat) (j : _), s.det.saves.find? (fun x => x.heat = heat) = some j ∧ j.writing = false ∧ heatQuiet heat s = true ∧ (∀ g ∈ s.layer.segs, g.2.heat = heat → g.2.saved = [])) ∧
    (∃ (s : State) (heat : Nat) (j : _), s.det.saves.find? (fun x => x.heat = heat) = some j ∧ j.writing = false) ∧
    (∃ (s : State) (heat : Nat) (j : _) (peer : _), s.det.closes.find? (fun x => x.heat = heat) = some j ∧ j.awaiting.contains peer = true ∧ j.awaiting.filter (· ≠ peer) ≠ []) ∧
    (∃ (s : State) (heat : Nat) (j : _) (peer : _), s.det.closes.find? (fun x => x.heat = heat) = some j ∧ j.awaiting = [peer]) ∧
    (∃ (s : State) (heat : Nat) (j : _), s.det.closes.find? (fun x => x.heat = heat) = some j) ∧
    (∃ (s : State) (heat : Nat) (j : _), s.det.digests.find? (fun x => x.heat = heat) = some j ∧ spanCheck heat j.gfa j.len s = none) :=
  ⟨⟨withDet { saves := [save5 false] }, 5, save5 false, by decide +kernel, by decide +kernel, by decide +kernel, by decide +kernel⟩,
   ⟨withDet { saves := [save5 false] }, 5, save5 false, by decide +kernel, by decide +kernel⟩,
   ⟨withDet { closes := [close5 [1, 2]] }, 5, close5 [1, 2], 1, by decide +kernel, by decide +kernel, by decide +kernel⟩,
   ⟨withDet { closes := [close5 [1]] }, 5, close5 [1], 1, by decide +kernel, by decide +kernel⟩,
   ⟨withDet { closes := [close5 [1]] }, 5, close5 [1], by decide +kernel⟩,
   ⟨withDet { digests := [⟨5, 0, 0, 64, c0⟩] }, 5, ⟨5, 0, 0, 64, c0⟩, by decide +kernel, by decide +kernel⟩⟩

/-- States and operands that meet the premises of SidebandComplete, clause by clause. -/
theorem witness_SidebandComplete :
    (∃ (s : State), s.pins.p12sb = true) ∧
    (∃ (s : State) (g : Byte) (n : _), s.pins.p12sb = true ∧ s.coord.lastCount = some n ∧ g.toNat ≤ 144 ∧ g.toNat < n ∧ s.coord.group = none) ∧
    (∃ (s : State) (n : Byte), s.pins.p12sb = true ∧ n.toNat ≠ 0 ∧ n.toNat ≤ 145 ∧ s.coord.group = none ∧ s.coord.pendGroup = none ∧ s.coord.count = none) ∧
    (∃ (s : State), s.pins.p12sb = true) ∧
    (∃ (s : State), s.pins.p12sb = true) :=
  ⟨⟨up, by decide +kernel⟩,
   ⟨{ up with coord := { lastCount := some 145 } }, 144, 145, by decide +kernel, by decide +kernel, by decide +kernel, by decide +kernel, by decide +kernel⟩,
   ⟨State.reset, 145, by decide +kernel, by decide +kernel, by decide +kernel, by decide +kernel, by decide +kernel, by decide +kernel⟩,
   ⟨up, by decide +kernel⟩,
   ⟨up, by decide +kernel⟩⟩

/-- States and operands that meet the premises of JtagComplete, clause by clause. -/
theorem witness_JtagComplete :
    (∃ (s : State), s.pins.resetN = false) ∧
    (∃ (s : State), s.pins.resetN = true) :=
  ⟨⟨State.reset, by decide +kernel⟩,
   ⟨up, by decide +kernel⟩⟩

/-- States and operands that meet the premises of PortPacketsComplete, clause by clause. -/
theorem witness_PortPacketsComplete :
    (∃ (p : Packet) (s : State) (f : _) (q : _) (t : _), q = { p with typ := tyPut } ∧ ServedHere q f s ∧ gCls p.addr ≠ 1 ∧ t = hotMigrate (gPage p.addr) f (sampleAccess (ownDev s) f (hbmWrite f (gOff p.addr) p.payload s)) ∧ mirrorOf (gPage p.addr) t = none) ∧
    (∃ (p : Packet) (s : State) (f : _) (q : _) (t : _) (m : _), q = { p with typ := tyPut } ∧ ServedHere q f s ∧ gCls p.addr ≠ 1 ∧ t = hotMigrate (gPage p.addr) f (sampleAccess (ownDev s) f (hbmWrite f (gOff p.addr) p.payload s)) ∧ mirrorOf (gPage p.addr) t = some m) ∧
    (∃ (p : Packet) (s : State) (f : _) (q : _) (u : _) (r : _) (t : _), q = { p with typ := tyPut } ∧ ServedHere q f s ∧ gCls p.addr = 1 ∧ performOn f q s = (r, u) ∧ t = hotMigrate (gPage p.addr) f (sampleAccess (ownDev s) f u) ∧ mirrorOf (gPage p.addr) t = none) ∧
    (∃ (p : Packet) (s : State) (f : _) (q : _) (n : _) (u : _), q = { p with typ := tyGet } ∧ ServedHere q f s ∧ getForm p = 0 ∧ u = noteLines f n [] s) ∧
    (∃ (p : Packet) (s : State) (f : _) (q : _) (n : _) (r : _) (u : _), q = { p with typ := tyGet } ∧ ServedHere q f s ∧ performOn f q (noteLines f n [] s) = (r, u)) ∧
    (∃ (p : Packet) (s : State) (f : _) (q : _), q = { p with typ := tyGet } ∧ ServedHere q f s ∧ gCls p.addr ≠ 2) ∧
    (∃ (p : Packet) (s : State) (n : _) (b : _) (fl : _) (t : _) (u : _), s.power.state ≠ .warm ∧ gatherRows { p with typ := tyGet } false s = (.data b fl, t) ∧ u = (match (tableAt p.addr s).bind fun t => homeFrame (gPage (rowGfa t 0 (leNat (p.payload.take 8)))) s with | some f => noteLines f n [] (incReg .upGatherCnt 0 t) | none => incReg .upGatherCnt 0 t)) ∧
    (∃ (p : Packet) (s : State) (f : _) (q : _) (n : _) (old : _) (new : _) (u : _) (t : _), q = { p with typ := tyAtomic } ∧ ServedHere q f s ∧ (gCls p.addr = 0 ∨ gCls p.addr = 2) ∧ (atOp p = 1 ∨ atOp p = 2) ∧ u = noteLines f n [] s ∧ old = leNat (hbmRead f (gOff p.addr) 8 u) ∧ new = (if atOp p = 1 then (old + leNat p.payload) % 2 ^ 64 else if old = leNat (p.payload.take 8) then leNat (p.payload.drop 8) else old) ∧ t = hotMigrate (gPage p.addr) f (sampleAccess (ownDev s) f (hbmWrite f (gOff p.addr) (leBytes 8 new) u)) ∧ mirrorOf (gPage p.addr) t = none) ∧
    (∃ (p : Packet) (s : State) (f : _) (q : _) (n : _) (old : _) (new : _) (u : _) (t : _) (m : _), q = { p with typ := tyAtomic } ∧ ServedHere q f s ∧ (gCls p.addr = 0 ∨ gCls p.addr = 2) ∧ (atOp p = 1 ∨ atOp p = 2) ∧ u = noteLines f n [] s ∧ old = leNat (hbmRead f (gOff p.addr) 8 u) ∧ new = (if atOp p = 1 then (old + leNat p.payload) % 2 ^ 64 else if old = leNat (p.payload.take 8) then leNat (p.payload.drop 8) else old) ∧ t = hotMigrate (gPage p.addr) f (sampleAccess (ownDev s) f (hbmWrite f (gOff p.addr) (leBytes 8 new) u)) ∧ mirrorOf (gPage p.addr) t = some m) ∧
    (∃ (p : Packet) (s : State) (f : _) (q : _) (n : _) (r : _) (u : _) (t : _), q = { p with typ := tyAtomic } ∧ ServedHere q f s ∧ atOp p = 3 ∧ performOn f q (noteLines f n [] s) = (r, u) ∧ t = hotMigrate (gPage p.addr) f (sampleAccess (ownDev s) f u) ∧ mirrorOf (gPage p.addr) t = none) ∧
    (∃ (p : Packet) (s : State) (m : Nat) (q : _) (k : _) (t : _), contribFate p s = .fits m ∧ pourOf p.heat (paPour p) s = some q ∧ contribRoom q (paChunk p) p.payload s = some (k, t)) ∧
    (∃ (p : Packet) (s : State), cmdSourceOk p.src s = true ∧ (cmdQueue (queueOfOp (cmdOp p)) s).length < queueRoom (queueOfOp (cmdOp p))) ∧
    (∃ (s : State) (l : _) (b : _) (q : _), isEdge l = true ∧ (lkStateOf l s = lkActive ∨ lkStateOf l s = lkQuarantined) ∧ blockGood b = true ∧ blockAnswer l b s = some q ∧ fieldAt b 0 1 = 2) ∧
    (∃ (s : State) (l : _) (b : _) (q : _), isEdge l = true ∧ (lkStateOf l s = lkActive ∨ lkStateOf l s = lkQuarantined) ∧ blockGood b = true ∧ blockAnswer l b s = some q ∧ fieldAt b 0 1 = 3) ∧
    (∃ (p : Packet) (s : State), (devOf p.dst ≠ ownDev s ∨ isEdge (portOf p.dst) = true)) ∧
    (∃ (p : Packet) (c : _), nakCause p = c ∧ (c = nakDamaged ∨ c = nakNoStream ∨ c = nakGapTimeout ∨ c = stBadState ∨ c = stNoResource)) :=
  ⟨⟨pput, page7, 3, _, _, rfl, ⟨by decide +kernel, by decide +kernel, by decide +kernel, rfl, by decide +kernel, ⟨_, rfl, by decide +kernel⟩, by decide +kernel, by decide +kernel⟩, by decide +kernel, rfl, by decide +kernel⟩,
   ⟨{ pput with addr := ga 2 }, mirrored7, 3, _, _, 17, rfl, ⟨by decide +kernel, by decide +kernel, by decide +kernel, rfl, by decide +kernel, ⟨_, rfl, by decide +kernel⟩, by decide +kernel, by decide +kernel⟩, by decide +kernel, rfl, by decide +kernel⟩,
   ⟨{ pput with addr := ga 1 }, paged { ent with cls := 1 } [(3, { rec3 with cls := 1 })], 3, _, _, _, _, rfl, ⟨by decide +kernel, by decide +kernel, by decide +kernel, rfl, by decide +kernel, ⟨_, rfl, by decide +kernel⟩, by decide +kernel, by decide +kernel⟩, by decide +kernel, rfl, rfl, by decide +kernel⟩,
   ⟨pget, page7, 3, _, 1, _, rfl, ⟨by decide +kernel, by decide +kernel, by decide +kernel, rfl, by decide +kernel, ⟨_, rfl, by decide +kernel⟩, by decide +kernel, by decide +kernel⟩, by decide +kernel, rfl⟩,
   ⟨pget, page7, 3, _, 1, _, _, rfl, ⟨by decide +kernel, by decide +kernel, by decide +kernel, rfl, by decide +kernel, ⟨_, rfl, by decide +kernel⟩, by decide +kernel, by decide +kernel⟩, rfl⟩,
   ⟨pget, page7, 3, _, rfl, ⟨by decide +kernel, by decide +kernel, by decide +kernel, rfl, by decide +kernel, ⟨_, rfl, by decide +kernel⟩, by decide +kernel, by decide +kernel⟩, by decide +kernel⟩,
   ⟨{ pget with addr := 0, args := 0x010001, payload := List.replicate 8 0 }, tableHere, 1, List.replicate 16 0, 0, tableHere, _, by decide +kernel, by decide +kernel, rfl⟩,
   ⟨padd, page7, 3, _, 0, _, _, _, _, rfl, ⟨by decide +kernel, by decide +kernel, by decide +kernel, rfl, by decide +kernel, ⟨_, rfl, by decide +kernel⟩, by decide +kernel, by decide +kernel⟩, by decide +kernel, by decide +kernel, rfl, rfl, rfl, rfl, by decide +kernel⟩,
   ⟨{ padd with addr := ga 2 }, mirrored7, 3, _, 0, _, _, _, _, 17, rfl, ⟨by decide +kernel, by decide +kernel, by decide +kernel, rfl, by decide +kernel, ⟨_, rfl, by decide +kernel⟩, by decide +kernel, by decide +kernel⟩, by decide +kernel, by decide +kernel, rfl, rfl, rfl, rfl, by decide +kernel⟩,
   ⟨{ padd with addr := ga 1, args := 3 + 1 * 2 ^ 8 + 8 * 2 ^ 16 }, paged { ent with cls := 1 } [(3, { rec3 with cls := 1 })], 3, _, 0, _, _, _, rfl, ⟨by decide +kernel, by decide +kernel, by decide +kernel, rfl, by decide +kernel, ⟨_, rfl, by decide +kernel⟩, by decide +kernel, by decide +kernel⟩, by decide +kernel, rfl, rfl, by decide +kernel⟩,
   ⟨contribution, barHere, 0, bar, _, _, by decide +kernel, by decide +kernel, rfl⟩,
   ⟨{ typ := 11, dst := 56, src := 112, addr := 0x0B00 }, up, by decide +kernel, by decide +kernel⟩,
   ⟨answered, 51, answerBlock1 2, _, by decide +kernel, by decide +kernel, by decide +kernel, rfl, by decide +kernel⟩,
   ⟨answered, 51, answerBlock1 3, _, by decide +kernel, by decide +kernel, by decide +kernel, rfl, by decide +kernel⟩,
   ⟨{ typ := 12, dst := 120, src := 56 }, up, by decide +kernel⟩,
   ⟨{ typ := 13, dst := 57, src := 58, args := 0x0400 }, 0x0400, by decide +kernel, by decide +kernel⟩⟩

/-- States and operands that meet the premises of SwitchEventsComplete, clause by clause. -/
theorem witness_SwitchEventsComplete :
    (∃ (s : State) (l : _) (f : Frame) (f' : _) (u : _), l < 52 ∧ linkSends l s = true ∧ takeFrameOn l f s = (f', u) ∧ headerCrcGood f'.hdr = true) ∧
    (∃ (s : State) (l : _) (i : _), l < 52 ∧ linkSends l s = true ∧ departing l (noteNoFit l s) = some i) ∧
    (∃ (s : State) (port : _) (i : _) (e : _) (q : _) (t : _) (ecc : CellErrs), 56 ≤ port ∧ port ≤ 58 ∧ departing port s = some i ∧ popQueue i s = some (e, q, t) ∧ ecc.uncorrected = []) ∧
    (∃ (s : State) (q : Nat) (c : QCmd) (r : List QCmd) (i : _), q ≤ 8 ∧ mayStart q s = true ∧ cmdQueue q s = c :: r ∧ c.len = c.payload.length ∧ parseCommand (metaOfCmd c) c.ref.op c.payload = .ok i ∧ tagInUse c { s with fore := { s.fore with queues := tabSet [] s.fore.queues q r } } = false) ∧
    (∃ (s : State) (src : _) (dst : _) (stream : _) (seq : _) (x : _), sentPkt src dst stream seq s = some x ∧ x.again = false ∧ x.tries < resendMax s) ∧
    (∃ (s : State) (src : _) (dst : _) (stream : _) (seq : _) (x : _), sentPkt src dst stream seq s = some x ∧ x.again = false ∧ resendMax s ≤ x.tries) ∧
    (∃ (s : State) (src : _) (stream : _) (dst : _) (c : _), tabFind s.net.ctxs (ctxKey src stream dst) = some c ∧ c.held ≠ [] ∧ c.handed = false) :=
  ⟨⟨linkIn 51 4, 51, { hdr := List.replicate 38 0 ++ leBytes 2 (crc16 (List.replicate 38 0)), cells := [], viol := [], abort := false }, _, _, by decide +kernel, by decide +kernel, rfl, by decide +kernel⟩,
   ⟨modVc 47 4 (fun c => { c with far := 100, sent := 0 }) { linkIn 47 4 with sw := { queues := [(380, oq 47 4 true 0 [qe])] } }, 47, 380, by decide +kernel, by decide +kernel, by decide +kernel⟩,
   ⟨withQueues [(436, oq 58 4 true 0 [qe])], 58, 436, _, _, _, {}, by decide +kernel, by decide +kernel, by decide +kernel, rfl, by decide +kernel⟩,
   ⟨{ up with fore := { up.fore with queues := [(8, [⟨⟨112, 7, 0x0B00, 2⟩, 0, 0, [], 1⟩])] } }, 8, ⟨⟨112, 7, 0x0B00, 2⟩, 0, 0, [], 1⟩, [], _, by decide +kernel, by decide +kernel, by decide +kernel, by decide +kernel, rfl, by decide +kernel⟩,
   ⟨withSent (sent1 0), 56, 112, 1, 0, sent1 0, by decide +kernel, by decide +kernel, by decide +kernel⟩,
   ⟨withSent (sent1 (resendMax up)), 56, 112, 1, 0, sent1 (resendMax up), by decide +kernel, by decide +kernel, by decide +kernel⟩,
   ⟨{ up with net := { ctxs := [(ctxKey 64 1 57, ⟨64, 1, 57, 0, 0, [⟨pk, 1, 0⟩], 0, false, []⟩)] } }, 64, 1, 57, ⟨64, 1, 57, 0, 0, [⟨pk, 1, 0⟩], 0, false, []⟩, by decide +kernel, by decide +kernel, by decide +kernel⟩⟩

/-- States and operands that meet the premises of PourMessagesComplete, clause by clause. -/
theorem witness_PourMessagesComplete :
    (∃ (s : State) (lead : _) (desc : _) (step : _) (rd : _) (sd : _) (p : _) (t : _), pourOf (dHeat desc) (dPourId desc) s = none ∧ setsMatch desc s = true ∧ descTag desc = dTag desc ∧ poursLive s < 65536 ∧ s.det.paused.contains (dHeat desc) = false ∧ homeCheck desc rd sd s = none ∧ takeHome p s = some t ∧ p = { heat := dHeat desc, pourId := dPourId desc, desc := desc, lead := false, leadDev := lead, step := step, p1 := usesP1 desc s, regAt := s.time.now }) ∧
    (∃ (s : State) (heat : Nat) (id : Nat) (q : Pour) (c : _) (res : _) (rows : _) (fl : _) (t : _), pourOf heat id s = some q ∧ (chunkOf q c).st = 2 ∧ q.state ≤ 3 ∧ patternKnown q = true ∧ flaskReady (chunkOf q c) s = true ∧ roundChunk q c (chunkOf q c) s = .ok res rows fl t) ∧
    (∃ (s : State) (heat : Nat) (id : Nat) (q : Pour) (home : _), pourOf heat id s = some q ∧ q.lead = true ∧ q.state = 0 ∧ q.endAt = none ∧ q.regWait.contains home = true) ∧
    (∃ (s : State) (heat : Nat) (id : Nat) (q : Pour), pourOf heat id s = some q ∧ q.lead = false ∧ q.state = 0 ∧ q.openAt = none) ∧
    (∃ (s : State) (heat : Nat) (id : Nat) (q : Pour) (home : _), pourOf heat id s = some q ∧ q.lead = true ∧ q.endAt = none ∧ q.roundWait.contains home = true) ∧
    (∃ (s : State) (heat : Nat) (id : Nat) (q : Pour), pourOf heat id s = some q ∧ q.lead = false ∧ q.committed = false ∧ q.state ≤ 3) ∧
    (∃ (s : State) (heat : Nat) (id : Nat) (q : Pour), pourOf heat id s = some q ∧ q.lead = false) ∧
    (∃ (s : State) (heat : Nat) (id : Nat) (q : Pour) (home : _) (k : _), pourOf heat id s = some q ∧ q.lead = true ∧ q.state ≠ 7 ∧ q.endAt = none ∧ q.queries.find? (fun x => x.1 = k) = some (k, [home])) ∧
    (∃ (s : State) (heat : Nat) (id : Nat) (q : Pour), pourOf heat id s = some q ∧ q.lead = false ∧ q.endAt = none ∧ q.state ≠ 7) ∧
    (∃ (s : State) (heat : Nat) (id : Nat) (q : Pour) (home : _), pourOf heat id s = some q ∧ q.lead = true ∧ q.state = 7 ∧ q.endAt = none ∧ q.abortWait = [home]) ∧
    (∃ (s : State) (heat : Nat) (id : Nat) (q : Pour), pourOf heat id s = some q ∧ q.lead = false ∧ q.endAt = none) ∧
    (∃ (s : State) (heat : Nat) (id : Nat) (base : _) (rule : _) (rc : _) (step : _) (row : _) (d : _) (t : _) (fl : _) (u : _), tableAt base s = some t ∧ row < t.rows ∧ rowFaults t row s = [] ∧ applyRow { heat := heat, pourId := id, base := base, rule := rule, rc := rc, step := step } t row d { s with upd := { s.upd with tables := s.upd.tables.map fun x => if x.base = base then { x with lastPour := id } else x } } = (fl, u)) :=
  ⟨⟨treed, 1, sealedDesc, 1, 0, 0, { heat := 5, pourId := 9, desc := sealedDesc, lead := false, leadDev := 1, step := 1, p1 := usesP1 sealedDesc treed, regAt := 0 }, _, by decide +kernel, by decide +kernel, by decide +kernel, by decide +kernel, by decide +kernel, by decide +kernel, rfl, rfl⟩,
   ⟨setReg .pwBayState 0 0 { withSets with pour := { withSets.pour with pours := [{ bar with chunks := [(0, { st := 2 })] }] } }, 5, 9, { bar with chunks := [(0, { st := 2 })] }, 0, _, _, _, _, by decide +kernel, by decide +kernel, by decide +kernel, by decide +kernel, by decide +kernel, rfl⟩,
   ⟨withPour { pr with regWait := [16] }, 5, 9, { pr with regWait := [16] }, 16, by decide +kernel, by decide +kernel, by decide +kernel, by decide +kernel, by decide +kernel⟩,
   ⟨withPour { pr with lead := false }, 5, 9, { pr with lead := false }, by decide +kernel, by decide +kernel, by decide +kernel, by decide +kernel⟩,
   ⟨withPour { pr with roundWait := [16] }, 5, 9, { pr with roundWait := [16] }, 16, by decide +kernel, by decide +kernel, by decide +kernel, by decide +kernel⟩,
   ⟨withPour { pr with lead := false }, 5, 9, { pr with lead := false }, by decide +kernel, by decide +kernel, by decide +kernel, by decide +kernel⟩,
   ⟨withPour { pr with lead := false }, 5, 9, { pr with lead := false }, by decide +kernel, by decide +kernel⟩,
   ⟨withPour { pr with queries := [(1, [16])] }, 5, 9, { pr with queries := [(1, [16])] }, 16, 1, by decide +kernel, by decide +kernel, by decide +kernel, by decide +kernel, by decide +kernel⟩,
   ⟨withPour { pr with lead := false }, 5, 9, { pr with lead := false }, by decide +kernel, by decide +kernel, by decide +kernel, by decide +kernel⟩,
   ⟨withPour { pr with state := 7, abortWait := [16] }, 5, 9, { pr with state := 7, abortWait := [16] }, 16, by decide +kernel, by decide +kernel, by decide +kernel, by decide +kernel, by decide +kernel⟩,
   ⟨withPour { pr with lead := false }, 5, 9, { pr with lead := false }, by decide +kernel, by decide +kernel, by decide +kernel⟩,
   ⟨withUpd [] [tb], 5, 9, 0, 1, 0, 1, 0, [], tb, _, _, by decide +kernel, by decide +kernel, by decide +kernel, rfl⟩⟩

/-- States and operands that meet the premises of PourTimersComplete, clause by clause. -/
theorem witness_PourTimersComplete :
    (∃ (s : State) (heat : Nat) (id : Nat) (q : Pour), pourOf heat id s = some q ∧ q.lead = true ∧ q.state = 0 ∧ q.regWait ≠ []) ∧
    (∃ (s : State) (heat : Nat) (id : Nat) (q : Pour) (t0 : _), pourOf heat id s = some q ∧ q.abortAt = some t0 ∧ q.lead = true ∧ q.state = 7 ∧ q.endAt = none ∧ q.abortWait ≠ []) ∧
    (∃ (s : State) (heat : Nat) (id : Nat) (q : Pour) (t0 : _), pourOf heat id s = some q ∧ q.openAt = some t0 ∧ q.lead = true ∧ dDeadline q.desc ≠ 0 ∧ 1 ≤ q.state ∧ q.state ≤ 3) ∧
    (∃ (s : State) (heat : Nat) (id : Nat) (q : Pour) (t0 : _), pourOf heat id s = some q ∧ q.endAt = some t0) ∧
    (∃ (s : State), treeRoom s = true) ∧
    (∃ (s : State) (peer : _) (tree : _) (b : _), s.route.builds.find? (fun x => x.tree = tree) = some b ∧ b.awaiting.contains peer = true) ∧
    (∃ (s : State) (peer : _) (tree : _) (b : _), s.route.builds.find? (fun x => x.tree = tree) = some b ∧ b.awaiting.contains peer = true ∧ b.awaiting.filter (· ≠ peer) = []) ∧
    (∃ (s : State) (tree : _) (x : _) (own : _) (live : _) (es : List (Nat × TreeEnt)), s.route.treeSets.find? (fun e => e.1 = tree) = some x ∧ tabFind s.route.trees (treeKey (ownDev s) tree) = some own ∧ live = x.2.filter (fun e => !fencedEp e s) ∧ treePlan tree own.heat live s = some es) :=
  ⟨⟨withPour { pr with regWait := [16] }, 5, 9, { pr with regWait := [16] }, by decide +kernel, by decide +kernel, by decide +kernel, by decide +kernel⟩,
   ⟨withPour { pr with state := 7, abortWait := [16], abortAt := some 3 }, 5, 9, { pr with state := 7, abortWait := [16], abortAt := some 3 }, 3, by decide +kernel, by decide +kernel, by decide +kernel, by decide +kernel, by decide +kernel, by decide +kernel⟩,
   ⟨barHere, 5, 9, { bar with lead := true }, 0, by decide +kernel, by decide +kernel, by decide +kernel, by decide +kernel, by decide +kernel, by decide +kernel⟩,
   ⟨withPour { pr with endAt := some 3 }, 5, 9, { pr with endAt := some 3 }, 3, by decide +kernel, by decide +kernel⟩,
   ⟨up, by decide +kernel⟩,
   ⟨{ up with route := { builds := [⟨3, [16], false, 0⟩] } }, 16, 3, ⟨3, [16], false, 0⟩, by decide +kernel, by decide +kernel⟩,
   ⟨{ up with route := { builds := [⟨3, [16], false, 0⟩] } }, 16, 3, ⟨3, [16], false, 0⟩, by decide +kernel, by decide +kernel, by decide +kernel⟩,
   ⟨{ up with route := { treeSets := [(3, [5])], trees := [(treeKey 0 3, ⟨0, 3, 5, 0, 32, false, 0⟩)] } }, 3, (3, [5]), ⟨0, 3, 5, 0, 32, false, 0⟩, _, _, by decide +kernel, by decide +kernel, rfl, rfl⟩⟩

/-- States and operands that meet the premises of ForwardingEventsComplete, clause by clause. -/
theorem witness_ForwardingEventsComplete :
    (∃ (s : State) (src : Nat) (stream : Nat) (seq : Nat) (e : _), entryCopy src stream seq s = some e) ∧
    (∃ (s : State) (src : Nat) (stream : Nat) (seq : Nat) (e : _), entryCopy src stream seq s = some e ∧ e.sent = true) ∧
    (∃ (s : State) (src : Nat) (stream : Nat) (seq : Nat) (e : _), s.net.fwdHome.find? (fun e => e.src = src && e.stream = stream && e.seq = seq && e.done) = some e) ∧
    (∃ (s : State) (g : _), servesBook (pageBook (gPage g)) s = true ∧ (bookEntry (gPage g) s).state ≠ pgMoving) ∧
    (∃ (s : State) (g : _), servesBook (pageBook (gPage g)) s = true ∧ (bookEntry (gPage g) s).state = pgMoving) ∧
    (∃ (s : State) (g : _) (e : _) (peer : _) (u : _), u = keepCopy (gPage g) (entOfBits e) peer (cacheUpdate (gPage g) (entOfBits e) s)) ∧
    (∃ (s : State) (g : _) (e : _) (peer : _), servesBook (pageBook (gPage g)) s = true ∧ (bookEntry (gPage g) (keepCopy (gPage g) (entOfBits e) peer s)).home = peer) ∧
    (∃ (n : PageNote), (n = .lost ∨ n = .lostStack ∨ n = .mirrorFailed ∨ n = .moving ∨ n = .moved)) ∧
    (∃ (s : State), s.mem.cache = []) ∧
    (∃ (s : State) (pg : _) (e : _) (d : _), s.mem.cache = [(pg, e)] ∧ bookServer (pageBook pg) s = some d ∧ d ≠ ownDev s) :=
  ⟨⟨{ up with net := { entry := [{ pkt := pk, home := 1, at' := 0, tries := 0, sent := false }] } }, 64, 0, 0, { pkt := pk, home := 1, at' := 0, tries := 0, sent := false }, by decide +kernel⟩,
   ⟨{ up with net := { entry := [{ pkt := pk, home := 1, at' := 0, tries := 0, sent := true }] } }, 64, 0, 0, { pkt := pk, home := 1, at' := 0, tries := 0, sent := true }, by decide +kernel, by decide +kernel⟩,
   ⟨{ up with net := { fwdHome := [{ src := 64, stream := 0, seq := 0, entry := 2, at' := 0, done := true }] } }, 64, 0, 0, { src := 64, stream := 0, seq := 0, entry := 2, at' := 0, done := true }, by decide +kernel⟩,
   ⟨page7, ga 0, by decide +kernel, by decide +kernel⟩,
   ⟨paged { ent with state := 3 } [], ga 0, by decide +kernel, by decide +kernel⟩,
   ⟨page7, ga 0, 0, 16, _, rfl⟩,
   ⟨page7, ga 0, entBits ent, 0, by decide +kernel, by decide +kernel⟩,
   ⟨.lost, by decide +kernel⟩,
   ⟨up, by decide +kernel⟩,
   ⟨{ up with mem := { cache := [(2319 * 2 ^ 23, ent)] } }, 2319 * 2 ^ 23, ent, 2319, by decide +kernel, by decide +kernel, by decide +kernel⟩⟩

/-- States and operands that meet the premises of PageEventsComplete, clause by clause. -/
theorem witness_PageEventsComplete :
    (∃ (s : State) (g : Nat) (mv : _), s.mem.moves.find? (fun m => m.page = gPage g && m.kind = .migrate && m.frozen) = some mv) ∧
    (∃ (s : State) (g : Nat) (f : _) (d : _) (t0 : _) (r : _), s.mem.frames = [(f, r)] ∧ r.use = .stub (gPage g) d t0) ∧
    (∃ (s : State) (f : _) (mv : _) (r : _), s.mem.moves.find? (fun m => m.old = f && m.kind = .retire) = some mv ∧ frameRec f s = some r) ∧
    (∃ (s : State) (g : Nat) (mv : _), s.mem.moves.find? (fun m => m.page = gPage g && m.kind = .resync) = some mv) ∧
    (∃ (st : _), st < 12) ∧
    (∃ (s : State) (f : _) (r : _), f < frameTotal ∧ frameRec f s = some r ∧ r.use = .zeroing) ∧
    (∃ (s : State) (f : _), f < frameTotal ∧ frameRec f s = none ∧ frameZeroed f s = false) ∧
    (∃ (s : State) (g : Nat) (peer : _) (j : _), s.mem.frees.find? (fun j => j.pages.headD 0 = gPage g && j.awaiting.contains peer) = some j) ∧
    (∃ (s : State) (g : Nat) (peer : _) (j : _), s.mem.frees.find? (fun j => j.pages.headD 0 = gPage g && j.awaiting.contains peer) = some j ∧ j.awaiting = [peer]) ∧
    (∃ (s : State) (src : _) (stream : _) (seq : _) (w : _), s.mem.mirrorWait.find? (fun w => w.1.src = src && w.1.stream = stream && w.1.seq = seq) = some w) :=
  ⟨⟨moving7 .migrate, ga 0, mv7 .migrate, by decide +kernel⟩,
   ⟨paged ent [(3, { use := .stub 7 1 40 })], ga 0, 3, 1, 40, { use := .stub 7 1 40 }, by decide +kernel, by decide +kernel⟩,
   ⟨moving7 .retire, 3, mv7 .retire, rec3, by decide +kernel, by decide +kernel⟩,
   ⟨moving7 .resync, ga 0, mv7 .resync, by decide +kernel⟩,
   ⟨11, by decide +kernel⟩,
   ⟨paged ent [(147455, { use := .zeroing })], 147455, { use := .zeroing }, by decide +kernel, by decide +kernel, by decide +kernel⟩,
   ⟨{ up with mem := { bootZeroAt := some 0 } }, 147455, by decide +kernel, by decide +kernel, by decide +kernel⟩,
   ⟨{ up with mem := { frees := [⟨[7], 5, [16, 17], false, c0⟩] } }, ga 0, 16, ⟨[7], 5, [16, 17], false, c0⟩, by decide +kernel⟩,
   ⟨{ up with mem := { frees := [⟨[7], 5, [16], false, c0⟩] } }, ga 0, 16, ⟨[7], 5, [16], false, c0⟩, by decide +kernel, by decide +kernel⟩,
   ⟨{ up with mem := { mirrorWait := [(pput, [1])] } }, 64, 0, 0, (pput, [1]), by decide +kernel⟩⟩

/-- A state and operands that meet the premises of IdleStepIsOneClockCycle. -/
theorem witness_IdleStepIsOneClockCycle :
    (∃ (s : State), s.pending = []) :=
  ⟨up, by decide +kernel⟩

/-- States and operands that meet the premises of NoCommandStops, clause by clause. -/
theorem witness_NoCommandStops :
    (∃ (l : Nat), 52 ≤ l) ∧
    (∃ (l : Nat), 52 ≤ l) ∧
    (∃ (l : Nat), 52 ≤ l) ∧
    (∃ (l : Nat), 52 ≤ l) ∧
    (∃ (l : Nat), 52 ≤ l) ∧
    (∃ (l : Nat), 52 ≤ l) ∧
    (∃ (l : Nat), 52 ≤ l) ∧
    (∃ (l : Nat), 52 ≤ l) ∧
    (∃ (l : Nat), 52 ≤ l) ∧
    (∃ (l : Nat), 52 ≤ l) ∧
    (∃ (l : Nat), 52 ≤ l) ∧
    (∃ (l : Nat), 52 ≤ l) ∧
    (∃ (l : Nat), 52 ≤ l) ∧
    (∃ (l : Nat), 52 ≤ l) ∧
    (∃ (l : Nat), 52 ≤ l) ∧
    (∃ (l : Nat), 52 ≤ l) ∧
    (∃ (l : Nat), (l < 48 ∨ 52 ≤ l)) ∧
    (∃ (h : Nat), 2 ≤ h) ∧
    (∃ (h : Nat), 2 ≤ h) ∧
    (∃ (h : Nat), 2 ≤ h) ∧
    (∃ (b : Nat), 100 ≤ b) ∧
    (∃ (b : Nat), 100 ≤ b) ∧
    (∃ (k : Nat), 12 ≤ k) ∧
    (∃ (k : Nat), 12 ≤ k) ∧
    (∃ (d : Nat), 4 ≤ d) ∧
    (∃ (k : Nat), 18 ≤ k) ∧
    (∃ (k : Nat), 9 ≤ k) ∧
    (∃ (f : Nat), 147456 ≤ f) ∧
    (∃ (f : Nat), 147456 ≤ f) :=
  ⟨⟨52, by decide +kernel⟩,
   ⟨52, by decide +kernel⟩,
   ⟨52, by decide +kernel⟩,
   ⟨52, by decide +kernel⟩,
   ⟨52, by decide +kernel⟩,
   ⟨52, by decide +kernel⟩,
   ⟨52, by decide +kernel⟩,
   ⟨52, by decide +kernel⟩,
   ⟨52, by decide +kernel⟩,
   ⟨52, by decide +kernel⟩,
   ⟨52, by decide +kernel⟩,
   ⟨52, by decide +kernel⟩,
   ⟨52, by decide +kernel⟩,
   ⟨52, by decide +kernel⟩,
   ⟨52, by decide +kernel⟩,
   ⟨52, by decide +kernel⟩,
   ⟨47, by decide +kernel⟩,
   ⟨2, by decide +kernel⟩,
   ⟨2, by decide +kernel⟩,
   ⟨2, by decide +kernel⟩,
   ⟨100, by decide +kernel⟩,
   ⟨100, by decide +kernel⟩,
   ⟨12, by decide +kernel⟩,
   ⟨12, by decide +kernel⟩,
   ⟨4, by decide +kernel⟩,
   ⟨18, by decide +kernel⟩,
   ⟨9, by decide +kernel⟩,
   ⟨147456, by decide +kernel⟩,
   ⟨147456, by decide +kernel⟩⟩

/-- States and operands that meet the premises of EveryCommandPassesTheGate, clause by clause. -/
theorem witness_EveryCommandPassesTheGate :
    (∃ (i : Instr) (m : CmdMeta) (op : Nat) (b : List Byte) (s : State), paramsOf i = some (m, op, b) ∧ flag .seRecovery 0 s = true ∧ op ∉ recoveryOps) ∧
    (∃ (i : Instr) (m : CmdMeta) (op : Nat) (b : List Byte) (s : State), paramsOf i = some (m, op, b) ∧ (flag .seRecovery 0 s = false ∨ op ∈ recoveryOps) ∧ m.resv ≠ 0) :=
  ⟨⟨.heatUnbind m0 5, m0, 3, _, setReg .seRecovery 0 1 up, rfl, by decide +kernel, by decide +kernel⟩,
   ⟨.heatUnbind { m0 with resv := 1 } 5, { m0 with resv := 1 }, 3, _, up, rfl, by decide +kernel, by decide +kernel⟩⟩

/-- A state and operands that meet the premises of HeaderCellsSpellThePacket. -/
theorem witness_HeaderCellsSpellThePacket :
    (∃ (p : Packet) (fill : List Byte), packetOk p = true ∧ p.payload.length + fill.length = 40 * payloadCells p) :=
  ⟨pput, List.replicate 39 0, by decide +kernel, by decide +kernel⟩

/-- States and operands that meet the premises of ParametersSpellTheCommand, clause by clause. -/
theorem witness_ParametersSpellTheCommand :
    (∃ (i : Instr) (m : CmdMeta) (op : Nat) (b : List Byte), wellFormed i = true ∧ paramsOf i = some (m, op, b)) ∧
    (∃ (i : Instr) (m : CmdMeta) (op : Nat) (b : List Byte), parseCommand m op b = .ok i) :=
  ⟨⟨.heatBind m0 5 0 145 1, m0, 2, _, by decide +kernel, rfl⟩,
   ⟨.heatBind m0 5 0 145 1, m0, 2, packFields [(4, 5), (1, 0), (1, 145), (4, 1)], rfl⟩⟩

/-- A state and operands that meet the premises of ReadingCommandsOnlyReply. -/
theorem witness_ReadingCommandsOnlyReply :
    (∃ (i : Instr) (m : CmdMeta) (op : Nat) (b : List Byte) (s : State) (t : State), paramsOf i = some (m, op, b) ∧ op ∈ [0x0000, 0x0001, 0x0004, 0x0012, 0x0020, 0x0030, 0x0100, 0x0105, 0x0107, 0x0110, 0x0200, 0x0220, 0x0221, 0x0230, 0x0300, 0x0312, 0x0320, 0x0400, 0x0413, 0x0421, 0x0431, 0x0440, 0x0503, 0x0520, 0x0602, 0x0603, 0x0614, 0x0630, 0x0708, 0x070A, 0x0801, 0x0812, 0x0821, 0x0830, 0x0900, 0x0905, 0x0906, 0x0910, 0x0912, 0x0913, 0x0A00, 0x0A05, 0x0A06, 0x0A10, 0x0A30, 0x0B00, 0x0B02, 0x0B04, 0x0B10, 0x0C00, 0x0C01, 0x0C02, 0x0C03, 0x0D00, 0x0D04] ∧ exec i s = .next t) :=
  ⟨.devIdentify m0, m0, 0, _, up, _, rfl, by decide +kernel, rfl⟩

/-- States and operands that meet the premises of AddressesAndEntriesSpellTheirFields, clause by clause. -/
theorem witness_AddressesAndEntriesSpellTheirFields :
    (∃ (cls : Nat) (book : Nat) (entry : Nat) (off : Nat), cls < 16 ∧ book < 2 ^ 12 ∧ entry < 2 ^ 23 ∧ off < 2 ^ 21) ∧
    (∃ (e : PageEnt), e.state < 4 ∧ e.cls < 4 ∧ e.home < 2 ^ 12 ∧ e.mirror < 2 ^ 12 ∧ e.frame < 2 ^ 18 ∧ e.hotCnt < 2 ^ 6 ∧ e.hotDev < 2 ^ 12 ∧ e.gen < 2 ^ 16 ∧ e.owner < 2 ^ 32) :=
  ⟨⟨15, 2 ^ 12 - 1, 2 ^ 23 - 1, 2 ^ 21 - 1, by decide +kernel, by decide +kernel, by decide +kernel, by decide +kernel⟩,
   ⟨⟨3, 3, true, true, true, 2 ^ 12 - 1, 2 ^ 12 - 1, 2 ^ 18 - 1, 63, 2 ^ 12 - 1, 2 ^ 16 - 1, 2 ^ 32 - 1⟩, by decide +kernel, by decide +kernel, by decide +kernel, by decide +kernel, by decide +kernel, by decide +kernel, by decide +kernel, by decide +kernel, by decide +kernel⟩⟩

/-- States and operands that meet the premises of HbmReadsBackWhatWasStored, clause by clause. -/
theorem witness_HbmReadsBackWhatWasStored :
    (∃ (f : Nat) (off : Nat) (b : List Byte) (g : Nat) (o : Nat) (n : Nat), (g * pageBytes + o + n ≤ f * pageBytes + off ∨ f * pageBytes + off + b.length ≤ g * pageBytes + o)) ∧
    (∃ (s : State), Memory.wf s.mem.hbm = true) :=
  ⟨⟨3, 0, [1], 3, 1, 1, by decide +kernel⟩,
   ⟨up, by decide +kernel⟩⟩

/-- States and operands that meet the premises of CsrFieldsFollowTheirAccessCode, clause by clause. -/
theorem witness_CsrFieldsFollowTheirAccessCode :
    (∃ (addr : Nat) (e : RegRow × Nat), e ∈ wordRows addr ∧ e.1.acc = .ro) ∧
    (∃ (addr : Nat) (e : RegRow × Nat), e ∈ wordRows addr ∧ e.1.acc = .w1c) ∧
    (∃ (addr : Nat) (e : RegRow × Nat) (k : _), e ∈ wordRows addr ∧ e.1.acc = .w1c ∧ k < fldWidth e.1.fld) ∧
    (∃ (addr : Nat) (e : RegRow × Nat), e ∈ wordRows addr ∧ e.1.acc = .rw ∧ e.1.fld ∉ [.ckClkobsSel, .scResendUs, .scResendMax]) ∧
    (∃ (addr : Nat) (w : Nat) (w' : Nat), (∀ e ∈ wordRows addr, bitsOf w e.1.hi e.1.lo = bitsOf w' e.1.hi e.1.lo)) ∧
    (∃ (addr : Nat) (s : State), blockGated addr s = true) :=
  ⟨⟨0x10000000, ((wordRows 0x10000000).find? (fun e => e.1.acc = .ro)).get (by decide +kernel), by decide +kernel, by decide +kernel⟩,
   ⟨0x10033040, (⟨.lkCbErrCnt, 0x10000040, [(52, 4096, 1)], 31, 0, .w1c⟩, 51), by decide +kernel, by decide +kernel⟩,
   ⟨0x10033040, (⟨.lkCbErrCnt, 0x10000040, [(52, 4096, 1)], 31, 0, .w1c⟩, 51), 31, by decide +kernel, by decide +kernel, by decide +kernel⟩,
   ⟨0x90000004, (⟨.ckClkEn, 0x90000004, [], 2, 0, .rw⟩, 0), by decide +kernel, by decide +kernel, by decide +kernel⟩,
   ⟨0x10000000, 0, 0, by decide +kernel⟩,
   ⟨0x10000000, up, by decide +kernel⟩⟩

/-- States and operands that meet the premises of CsrWriteRefusals, clause by clause. -/
theorem witness_CsrWriteRefusals :
    (∃ (m : CmdMeta) (addr : Nat) (count : Nat) (words : List Nat) (s : State), Takes m 0x0011 s ∧ words.length = count ∧ 1 ≤ count ∧ count ≤ 64 ∧ csrAddrOk addr count = true ∧ (∀ k < count, addr + 4 * k = 0x90000008 → clockCode (words.getD k 0 % 256) = true) ∧ csrBlock addr ∈ [0x92, 0xA1, 0xB0, 0xB1]) ∧
    (∃ (m : CmdMeta) (addr : Nat) (count : Nat) (words : List Nat) (s : State), Takes m 0x0011 s ∧ words.length = count ∧ 1 ≤ count ∧ count ≤ 64 ∧ csrAddrOk addr count = true ∧ (∀ k < count, addr + 4 * k = 0x90000008 → clockCode (words.getD k 0 % 256) = true) ∧ 0xE0 ≤ csrBlock addr ∧ (tabGet {} s.layer.bays (csrBay addr)).transfer.isSome = true) ∧
    (∃ (m : CmdMeta) (addr : Nat) (count : Nat) (words : List Nat) (s : State), Takes m 0x0011 s ∧ words.length = count ∧ 1 ≤ count ∧ count ≤ 64 ∧ csrAddrOk addr count = true ∧ (∀ k < count, addr + 4 * k = 0x90000008 → clockCode (words.getD k 0 % 256) = true) ∧ (∀ k < count, csrBlock (addr + 4 * k) ∉ [0x92, 0xA1, 0xB0, 0xB1]) ∧ (∃ k < count, blockGated (addr + 4 * k) s = true)) ∧
    (∃ (m : CmdMeta) (addr : Nat) (count : Nat) (words : List Nat) (s : State), Takes m 0x0011 s ∧ words.length = count ∧ 1 ≤ count ∧ count ≤ 64 ∧ csrAddrOk addr count = true ∧ (∀ k < count, addr + 4 * k = 0x90000008 → clockCode (words.getD k 0 % 256) = true)) :=
  ⟨⟨m0, 0xA1000000, 1, [0], up, ⟨rfl, .inl (by decide +kernel)⟩, by decide +kernel, by decide +kernel, by decide +kernel, by decide +kernel, by decide +kernel, by decide +kernel⟩,
   ⟨m0, 0xE0002000, 1, [0], { up with layer := { bays := [(0, { transfer := some (true, 15, 3) })] } }, ⟨rfl, .inl (by decide +kernel)⟩, by decide +kernel, by decide +kernel, by decide +kernel, by decide +kernel, by decide +kernel, by decide +kernel, by decide +kernel⟩,
   ⟨m0, 0x10000000, 1, [0], up, ⟨rfl, .inl (by decide +kernel)⟩, by decide +kernel, by decide +kernel, by decide +kernel, by decide +kernel, by decide +kernel, by decide +kernel, by decide +kernel⟩,
   ⟨m0, 0x90000008, 1, [0], up, ⟨rfl, .inl (by decide +kernel)⟩, by decide +kernel, by decide +kernel, by decide +kernel, by decide +kernel, by decide +kernel⟩⟩

/-- States and operands that meet the premises of IngotIsTheExactSum, clause by clause. -/
theorem witness_IngotIsTheExactSum :
    (∃ (f : Fmt) (x : Nat) (neg : Bool) (m : Nat) (e : Int), (decodeVal f x).1 = .fin neg m e) ∧
    (∃ (xs : List Nat) (ys : List Nat), xs.Perm ys) :=
  ⟨⟨.fp32, 0x3FC00000, _, _, _, rfl⟩,
   ⟨[1, 2], [2, 1], List.Perm.swap _ _ _⟩⟩

/-- A state and operands that meet the premises of RecordDigestsIgnoreOrder. -/
theorem witness_RecordDigestsIgnoreOrder :
    (∃ (ls : List (List Byte)) (ms : List (List Byte)), ls.Perm ms) :=
  ⟨[[1], [2]], [[2], [1]], List.Perm.swap _ _ _⟩

/-- States and operands that meet the premises of IntraGroupWiring, clause by clause. -/
theorem witness_IntraGroupWiring :
    (∃ (a : Nat) (b : Nat), a < 16 ∧ b < 16 ∧ b ≠ a) ∧
    (∃ (a : Nat), a < 16) :=
  ⟨⟨15, 14, by decide +kernel, by decide +kernel, by decide +kernel⟩,
   ⟨15, by decide +kernel⟩⟩

/-- A state and operands that meet the premises of WiringIsSymmetric. -/
theorem witness_WiringIsSymmetric :
    (∃ (g : Nat) (grp : Nat) (member : Nat) (l : Nat) (e : FarEnd), grp < g ∧ member < 16 ∧ wiredTo g grp member l = some e) :=
  ⟨145, 144, 15, 47, _, by decide +kernel, by decide +kernel, rfl⟩

/-- A state and operands that meet the premises of PoolLevelFollowsFreeCells. -/
theorem witness_PoolLevelFollowsFreeCells :
    (∃ (d : Nat) (s : State), reg .tuPoolStop d s ≤ reg .tuPoolSlow d s ∧ reg .tuPoolSlow d s ≤ reg .tuPoolWarn d s) :=
  ⟨1, up, by decide +kernel, by decide +kernel⟩

/-- A state and operands that meet the premises of StepsKeepTheCanonicalForm. -/
theorem witness_StepsKeepTheCanonicalForm :
    (∃ (s : State) (t : State), Canonical s ∧ step s = .next t) :=
  ⟨up, _, ⟨by decide +kernel, by decide +kernel⟩, rfl⟩

/-! ### Ill-formed commands are refused -/

/-- A command's source, tag, class and reserved bits, and each width of a parameter (R353, R471). -/
theorem test_wellFormed_fields :
    wellFormed (.heatUnbind m0 5) = true ∧
    wellFormed (.heatUnbind { m0 with src := 2 ^ 18 } 5) = false ∧
    wellFormed (.heatUnbind { m0 with tag := 2 ^ 16 } 5) = false ∧
    wellFormed (.heatUnbind { m0 with cls := 8 } 5) = false ∧
    wellFormed (.heatUnbind { m0 with resv := 2 ^ 52 } 5) = false ∧
    wellFormed (.linkStatus m0 256) = false ∧
    wellFormed (.heatList m0 65536) = false ∧
    wellFormed (.heatUnbind m0 (2 ^ 32)) = false ∧
    wellFormed (.memPageQuery m0 (2 ^ 64)) = false := by decide +kernel

/-- Lists that are too short, too long, or hold a number that is too wide (R471). -/
theorem test_wellFormed_lists :
    wellFormed (.fwWrite m0 0 0 []) = false ∧
    wellFormed (.secAttest m0 (List.replicate 33 0)) = false ∧
    wellFormed (.csrWrite m0 0x90000008 2 [1]) = false ∧
    wellFormed (.csrWrite m0 0x90000008 1 [2 ^ 32]) = false ∧
    wellFormed (.layerRun m0 5 0 0 0 0 1 0 0 0 [(65536, 0)]) = false ∧
    wellFormed (.layerRun m0 5 0 0 0 0 1 0 0 0 [(0, 2 ^ 64)]) = false := by decide +kernel

/-- Each field of a packet (R231, R232) and the two parts of a frame. -/
theorem test_wellFormed_packets :
    wellFormed (.put pput false) = true ∧
    wellFormed (.put { pput with typ := 256 } false) = false ∧ wellFormed (.put { pput with cls := 8 } false) = false ∧
    wellFormed (.put { pput with dst := 2 ^ 18 } false) = false ∧ wellFormed (.put { pput with src := 2 ^ 18 } false) = false ∧
    wellFormed (.put { pput with stream := 2 ^ 20 } false) = false ∧ wellFormed (.put { pput with seq := 2 ^ 24 } false) = false ∧
    wellFormed (.put { pput with heat := 2 ^ 32 } false) = false ∧ wellFormed (.put { pput with addr := 2 ^ 64 } false) = false ∧
    wellFormed (.put { pput with args := 2 ^ 32 } false) = false ∧ wellFormed (.put { pput with route := 2 ^ 16 } false) = false ∧
    wellFormed (.put { pput with resv := 2 ^ 18 } false) = false ∧ wellFormed (.put { pput with pcrc := 2 ^ 32 } false) = false ∧
    wellFormed (.put { pput with payload := List.replicate 2561 0 } false) = false ∧
    wellFormed (.packetReceive 51 { hdr := List.replicate 39 0, cells := [], viol := [], abort := false } {}) = false ∧
    wellFormed (.packetReceive 51 { hdr := List.replicate 40 0, cells := [0], viol := [], abort := false } {}) = false := by
  decide +kernel

/-- Units that do not exist. -/
theorem test_wellFormed_units :
    wellFormed (.linkLost 52 true) = false ∧ wellFormed (.bayWakeDone 100) = false ∧ wellFormed (.stackFailed 12) = false ∧
    wellFormed (.switchHalfBank 2) = false ∧ wellFormed (.cpllLock 4) = false ∧ wellFormed (.packetDepart 59 {}) = false ∧
    wellFormed (.fenceProbe 2320) = false ∧ wellFormed (.pinningEnd 145) = false ∧
    wellFormed (.ventEscape 262144) = false ∧ wellFormed (.assaySample 9 0 0) = false := by decide +kernel

/-! ### The manual's numbers -/

/-- Check values of R236 and R237 for "123456789". -/
theorem test_crc_check_values :
    crc16 [0x31, 0x32, 0x33, 0x34, 0x35, 0x36, 0x37, 0x38, 0x39] = 0x29B1 ∧
    crc32c [0x31, 0x32, 0x33, 0x34, 0x35, 0x36, 0x37, 0x38, 0x39] = 0xE3069283 ∧ crc32c [] = 0 := by decide +kernel

/-- The example of R43: 70,000 in FP32 converted to E4M3, FP16 and BF16, and +∞ to E4M3. -/
theorem test_convert_forward :
    convert .fp32 .e4m3 .rne 0x4788B800 = (0x7E, { ovf := true }) ∧
    convert .fp32 .fp16 .rne 0x4788B800 = (0x7BFF, { ovf := true }) ∧
    (convert .fp32 .bf16 .rne 0x4788B800).1 = 0x4789 ∧ (convert .fp32 .bf16 .rne 0x4788B800).2.ovf = false ∧
    (convert .fp32 .e4m3 .rne 0x7F800000).1 = 0x7F := by decide +kernel

/-- The example of chapter 02: ±4,096 and 382 times 2^−12 in BF16, in two orders. -/
theorem test_ingot_order :
    ((0x4580 :: 0xC580 :: List.replicate 382 0x3980).foldl (fun g x => (ingotEnter .bf16 x g).1) {}).i = 382 * 2 ^ 137 ∧
    ((0x4580 :: (List.replicate 382 0x3980 ++ [0xC580])).foldl (fun g x => (ingotEnter .bf16 x g).1) {}).i = 382 * 2 ^ 137 ∧
    (ingotRound .bf16 .rne { i := 382 * 2 ^ 137, side := 0 }).1 = 0x3DBF := by decide +kernel

/-- The example of R55: a mean that lies just above a BF16 midpoint. -/
theorem test_ingot_mean :
    (ingotMean .bf16 .rne 384
      ((0x3F808008 :: List.replicate 383 0x3F808000).foldl (fun g x => (ingotEnter .fp32 x g).1) {})).1 = 0x3F81 := by
  decide +kernel

/-- The example of R135 and R137: one element under rule kind 1 (w 0.7197265625, v 0.484375), then 0x34 in E4M3. -/
theorem test_update_element :
    let k := ruleConsts (packFields [(1, 1), (3, 0), (4, 0x3C800000), (4, 0x3D800000), (4, 0x3F600000), (4, 0), (4, 0), (4, 0), (4, 0)])
      0 true
    let r := ruleStep k (fk 0x40400000) (fk 0x3F400000) (fk 0x3F000000) (fk 0)
    r.1.1 = 0x3F384000 ∧ r.2.1.1 = 0x3EF80000 ∧ (convert .fp32 .e4m3 .rne r.1.1).1 = 0x34 := by decide +kernel

/-- Wiring of R187 and R189: link 30 of member 5 meets link 32 of member 12; slots 0 and 37 of a machine of four groups. -/
theorem test_wiring :
    wiredTo 4 2 5 30 = some { dev := 2 * 16 + 12, link := 32 } ∧
    wiredTo 4 0 0 39 = some { dev := 1 * 16 + 2, link := 39 } ∧
    wiredTo 4 0 5 41 = some { dev := 2 * 16 + 5, link := 41 } := by decide +kernel

/-- Endpoint 0x058D is link 13 of group 1 member 6 (R194). -/
theorem test_endpoint :
    groupOf (devOf 0x058D) = 1 ∧ memberOf (devOf 0x058D) = 6 ∧ portOf 0x058D = 13 := by decide +kernel

/-- The example of R142: D = 64 in E4M3 under kind 1 takes 9 pages a block, and the card table 488,282 blocks. -/
theorem test_table_pages :
    tablePages { tb with rows := 16000000000, dim := 64, fmt := 1, kind := 1 } = 9 * 488282 := by decide +kernel

/-- The example of R312: 65 cells at weights 16 and 48 advance a tag by 266,240 and 88,747. -/
theorem test_wfq_increments : ceilDiv (65 * 65536) 16 = 266240 ∧ ceilDiv (65 * 65536) 48 = 88747 := by decide +kernel

/-- D21.5 is balanced and its own code at both disparities; inverted it is D10.2 (R216). -/
theorem test_training_symbol :
    encodeSym (.d 0xB5) false = (0x155, false) ∧ encodeSym (.d 0xB5) true = (0x155, true) ∧
    decodeSym (0x3FF - 0x155) false = some (.d 0x4A) ∧ decodeSym (0x3FF - 0x155) true = some (.d 0x4A) := by decide +kernel

/-- K28.5 is unbalanced: its code at positive disparity is the complement, and each turns the disparity (R207). -/
theorem test_idle_symbol :
    (encodeSym (.k 0xBC) false).2 = true ∧ (encodeSym (.k 0xBC) true).2 = false ∧
    (encodeSym (.k 0xBC) true).1 = 0x3FF - (encodeSym (.k 0xBC) false).1 := by decide +kernel

/-! ### Single steps -/

/-- Whether a step answers a next state of which something holds. -/
def stepsTo (s : State) (p : State → Bool) : Bool :=
  match step s with
  | .next t => p t
  | _ => false

/-- An empty queue: one clock cycle. -/
theorem test_idle : stepsTo up (fun t => t.time.now = 10 && t.pending = []) = true := by decide +kernel

/-- DEV_ECHO returns its data (R361), and the queue moves on. -/
theorem test_echo :
    stepsTo { up with pending := [.devEcho m0 [1, 2], .bypass] } (fun t => t.pending = [.bypass] &&
      t.out.getLast? = some (.reply { src := 64, tag := 7, op := 0x0030, cls := 2 } 0 true [1, 2])) = true := by decide +kernel

/-- HEAT_BIND of Heat 0 is refused with BAD_PARAM, and binds nothing (R199). -/
theorem test_bind_zero :
    stepsTo { up with pending := [.heatBind m0 0 0 145 1] } (fun t => t.coord.binds = [] &&
      t.out.getLast? = some (.reply { src := 64, tag := 7, op := 0x0002, cls := 2 } 0x0101 true [])) = true := by decide +kernel

/-- CSR_WRITE to the Assay receiver's block answers DENIED (R365). -/
theorem test_csr_denied :
    stepsTo { up with pending := [.csrWrite m0 0xA1000000 1 [5]] } (fun t => t.mem = up.mem &&
      t.out.getLast? = some (.reply { src := 64, tag := 7, op := 0x0011, cls := 2 } 0x0105 true [])) = true := by decide +kernel

/-- An event of a link that does not exist changes nothing. -/
theorem test_no_such_link :
    stepsTo { up with pending := [.linkLost 52 false] } (fun t => t = up) = true := by decide +kernel

/-- JTAG IDCODE shifts out 32 bits in reset (R375, R376). -/
theorem test_idcode_width :
    stepsTo { State.reset with pending := [.idcode] }
      (fun t => match t.out.getLast? with | some (.jtag _ w) => w = 32 | _ => false) = true := by decide +kernel

end Sys2Proof.Tests
end

section
/-! PROOF. A CSR field written follows its access code (R7, R8), and a gated block reads 0 (R366). -/
namespace Sys2Proof.Machine

/-! ### Bits -/

/-- Clearing bits commutes with dropping the lowest: the step of the induction over a bit's place. -/
theorem andNot_div_two (a b : Nat) : andNot a b / 2 = andNot (a / 2) (b / 2) := by
  have hle : (a &&& b) / 2 ≤ a / 2 := Nat.div_le_div_right Nat.and_le_left
  have hlow : (a &&& b) % 2 = 1 → a % 2 = 1 := fun h => (Nat.and_mod_two_eq_one.mp h).1
  unfold andNot
  rw [← Nat.and_div_two]
  omega

theorem testBit_andNot (a b k : Nat) : (andNot a b).testBit k = (a.testBit k && !b.testBit k) := by
  induction k generalizing a b with
  | zero =>
    have hle : a &&& b ≤ a := Nat.and_le_left
    have hlow : (a &&& b) % 2 = 1 ↔ a % 2 = 1 ∧ b % 2 = 1 := Nat.and_mod_two_eq_one
    have hsub : (a - (a &&& b)) % 2 = 1 ↔ a % 2 = 1 ∧ ¬ b % 2 = 1 := by omega
    simp only [andNot, Nat.testBit_zero, hsub, Bool.decide_and, decide_not]
  | succ k ih => rw [Nat.testBit_succ, Nat.testBit_succ, Nat.testBit_succ, andNot_div_two, ih]

theorem bitsOf_lt (v hi lo : Nat) : bitsOf v hi lo < 2 ^ (hi + 1 - lo) := Nat.mod_lt _ (Nat.two_pow_pos _)

/-! ### The map -/

/-- A word is made up of rows of the map. -/
theorem mem_regMap_of_mem_wordRows {addr : Nat} {e : RegRow × Nat} (h : e ∈ wordRows addr) : e.1 ∈ regMap := by
  obtain ⟨r, hr, hrow⟩ := List.mem_filterMap.mp h
  have he : e.1 = r := by
    split at hrow
    · dsimp only at hrow
      split at hrow
      · cases hrow
      · cases hrow; rfl
    · cases hrow
  exact he ▸ hr

/-- A read-write row is no wider than its field, so that nothing of a written value is cut off. -/
theorem rw_row_fits : ∀ r ∈ regMap, r.acc = .rw → r.hi + 1 - r.lo ≤ fldWidth r.fld := by decide +kernel

/-! ### What writing a field does -/

/-- Storing a value changes the one register. -/
theorem onlyRegs_setReg (f : Fld) (i v : Nat) (s : State) : OnlyRegs [(f, i)] s (setReg f i v s) :=
  ⟨rfl, fun g j h => reg_setReg_ne v s fun ⟨hf, hi⟩ => h (by simp [hf, hi])⟩

theorem writeField_ro {e : RegRow × Nat} (h : e.1.acc = .ro) (w : Nat) (s : State) : writeField w e s = s := by
  simp [writeField, h]

theorem writeField_w1c {e : RegRow × Nat} (h : e.1.acc = .w1c) (w : Nat) (s : State) :
    writeField w e s = setReg e.1.fld e.2 (andNot (reg e.1.fld e.2 s) (bitsOf w e.1.hi e.1.lo)) s := by
  simp [writeField, h]

/-- A read-write field that stands for one register only (CLKOBS_SEL, R383 and R385, and the resend limits of both
dies do not). -/
theorem writeField_rw {e : RegRow × Nat} (h : e.1.acc = .rw) (hf : e.1.fld ∉ [.ckClkobsSel, .scResendUs, .scResendMax])
    (w : Nat) (s : State) : writeField w e s = setReg e.1.fld e.2 (bitsOf w e.1.hi e.1.lo) s := by
  simp only [List.mem_cons, List.not_mem_nil, or_false, not_or] at hf
  obtain ⟨hsel, hus, hmax⟩ := hf
  simp [writeField, h, hsel, hus, hmax]

/-- Of the word written, a field sees its own bits. -/
theorem writeField_congr {w w' : Nat} {e : RegRow × Nat} (h : bitsOf w e.1.hi e.1.lo = bitsOf w' e.1.hi e.1.lo) (s : State) :
    writeField w e s = writeField w' e s := by
  simp only [writeField, h]

theorem testBit_reg_writeField_w1c {e : RegRow × Nat} (h : e.1.acc = .w1c) (w : Nat) (s : State) {k : Nat}
    (hk : k < fldWidth e.1.fld) :
    (reg e.1.fld e.2 (writeField w e s)).testBit k =
      ((reg e.1.fld e.2 s).testBit k && !(bitsOf w e.1.hi e.1.lo).testBit k) := by
  simp [writeField_w1c h, Nat.testBit_mod_two_pow, hk, testBit_andNot]

theorem reg_writeField_rw {addr : Nat} {e : RegRow × Nat} (he : e ∈ wordRows addr) (h : e.1.acc = .rw)
    (hf : e.1.fld ∉ [.ckClkobsSel, .scResendUs, .scResendMax]) (w : Nat) (s : State) :
    reg e.1.fld e.2 (writeField w e s) = bitsOf w e.1.hi e.1.lo := by
  have hfit := rw_row_fits e.1 (mem_regMap_of_mem_wordRows he) h
  rw [writeField_rw h hf, reg_setReg_self]
  exact Nat.mod_eq_of_lt ((bitsOf_lt _ _ _).trans_le (Nat.pow_le_pow_right two_pos hfit))

/-! ### Words -/

/-- Bits of a written word outside its fields have no effect (R8). -/
theorem writeWord_congr {addr w w' : Nat} (h : ∀ e ∈ wordRows addr, bitsOf w e.1.hi e.1.lo = bitsOf w' e.1.hi e.1.lo)
    (s : State) : writeWord addr w s = writeWord addr w' s := by
  have hfold : ∀ (p : RegRow × Nat → Bool) (s : State),
      ((wordRows addr).filter p).foldl (fun s e => writeField w e s) s =
        ((wordRows addr).filter p).foldl (fun s e => writeField w' e s) s := fun p s =>
    List.foldl_ext _ _ s fun t e he => writeField_congr (h e (List.mem_of_mem_filter he)) t
  simp only [writeWord, hfold]

theorem csrWord_of_blockGated {addr : Nat} {s : State} (h : blockGated addr s = true) : csrWord addr s = 0 := by
  simp [csrWord, h]

/-- Settles O53: each access code by what `writeField` does under it; a word depends on the bits of its fields alone, since every
field it writes does. -/
theorem csrFieldsFollowTheirAccessCode : Obligations.CsrFieldsFollowTheirAccessCode := by
  refine ⟨fun addr w s e he => ⟨fun hro => writeField_ro hro w s, fun hw1c => ⟨?_, ?_⟩, fun hrw hf => ⟨?_, ?_⟩⟩, ?_, ?_⟩
  · rw [writeField_w1c hw1c]
    exact onlyRegs_setReg _ _ _ s
  · exact fun k hk => testBit_reg_writeField_w1c hw1c w s hk
  · rw [writeField_rw hrw hf]
    exact onlyRegs_setReg _ _ _ s
  · exact reg_writeField_rw he hrw hf w s
  · exact fun addr w w' s h => writeWord_congr h s
  · exact fun addr s h => csrWord_of_blockGated h

end Sys2Proof.Machine
end

section
/-! PROOF. Layer events complete (R20, R21, R116, R118, R123, R124). -/
namespace Sys2Proof.Machine

/-! ### What the operations of the layer Shop leave to be read -/

theorem tabFind_tabMod_self {α : Type} (t : Tab α) (k : Nat) (f : α → α) : tabFind (tabMod t k f) k = (tabFind t k).map f := by
  induction t with
  | nil => rfl
  | cons e r ih =>
    obtain ⟨j, v⟩ := e
    by_cases hj : j = k
    · simp [tabMod, tabFind, hj]
    · simpa [tabMod, tabFind, hj, Ne.symm hj] using ih

@[simp] theorem segOf_modSeg (i : Nat) (f : Seg → Seg) (s : State) : segOf i (modSeg i f s) = (segOf i s).map f :=
  tabFind_tabMod_self _ _ _

theorem segOf_congr {s t : State} (i : Nat) (h : t.layer = s.layer) : segOf i t = segOf i s := by rw [segOf, h, segOf]

@[simp] theorem segOf_advanceTo (i t : Nat) (s : State) : segOf i (advanceTo t s) = segOf i s := rfl

@[simp] theorem modSeg_bays (i : Nat) (f : Seg → Seg) (s : State) : (modSeg i f s).layer.bays = s.layer.bays := rfl

@[simp] theorem tabGet_modBay (b : Nat) (f : BayPart → BayPart) (s : State) :
    tabGet {} (modBay b f s).layer.bays b = f (tabGet {} s.layer.bays b) := by
  simp [modBay, tabGet_tabSet]

@[simp] theorem advanceTo_now (t : Nat) (s : State) : (advanceTo t s).time.now = max s.time.now t := by
  simp only [advanceTo, advance]
  omega

/-- Shops that are not quiet decide (R370). -/
theorem decided_of_shopsWait {s : State} (h : shopsWait s = false) (k : Out) : decided s k = k := by simp [decided, h]

/-! ### The owner field of a Bay is written (R20) -/

theorem exec_bayOwnershipTransfer_take {s : State} {b i t0 : Nat} (hb : b < 100)
    (ht : (tabGet {} s.layer.bays b).transfer = some (true, i, t0)) (hc : bayClear b s = true) (hw : shopsWait s = false) :
    exec (.bayOwnershipTransfer b) s = .next (wakeBay b (modSeg i (fun g => { g with bays := g.bays ++ [b] })
      (modBay b (fun _ => { seg := some i, transfer := none }) s))) := by
  change execBayOwnershipTransfer b s = _
  simp [execBayOwnershipTransfer, Nat.not_le.mpr hb, decided_of_shopsWait hw, ht, hc]

theorem exec_bayOwnershipTransfer_return {s : State} {b i t0 : Nat} (hb : b < 100)
    (ht : (tabGet {} s.layer.bays b).transfer = some (false, i, t0)) (hw : shopsWait s = false) :
    exec (.bayOwnershipTransfer b) s = .next (settleRemove i (modSeg i (fun g => { g with bays := g.bays.filter (· ≠ b) })
      (modBay b (fun _ => {}) s))) := by
  change execBayOwnershipTransfer b s = _
  simp [execBayOwnershipTransfer, Nat.not_le.mpr hb, decided_of_shopsWait hw, ht]

/-! ### A run starts (R118, R121, R124) -/

/-- Masks are read from HBM, of which a segment's record is no part. -/
@[simp] theorem readMasks_modSeg (g : Seg) (r : Run) (i : Nat) (f : Seg → Seg) (s : State) :
    readMasks g r (modSeg i f s) = readMasks g r s := rfl

theorem reloadWeights_of_fresh_nil {g : Seg} (h : g.fresh = []) (i : Nat) (s : State) : reloadWeights i g s = s := by
  simp [reloadWeights, h]

/-- A run as it stands when its start is over, no weight having been fresh. -/
def startedRun (g : Seg) (r : Run) (s : State) : RunState :=
  { run := r, next := r.first, startAt := max s.time.now (bayReadyAt g s), flags := noFlags, reloaded := false, work := [],
    masks := (readMasks g r (advanceTo (bayReadyAt g s) s)).1, aborted := false }

/-- A run of pass 2 has no saved activations to check: with its masks read, it is the running one. -/
theorem segOf_startRun {s : State} {i : Nat} {g : Seg} {r : Run} {rest : List Run} (hg : segOf i s = some g)
    (hrun : g.running = none) (hq : g.queue = r :: rest) (hp : paused s = false) (hpass : r.pass = 2) (hf : g.fresh = [])
    (hm : (readMasks g r (advanceTo (bayReadyAt g s) s)).2 = none) :
    segOf i (startRun i s) = some { g with queue := rest, running := some (startedRun g r s) } := by
  simp [startRun, startedRun, hg, hrun, hq, hp, hpass, reloadWeights_of_fresh_nil hf, hf, hm]

/-! ### A descriptor finishes (R100, R123, R126) -/

/-- The segment has a run that is at a descriptor. -/
def RunsAt (i next : Nat) (s : State) : Prop := ∃ g rs, segOf i s = some g ∧ g.running = some rs ∧ rs.next = next

theorem runsAt_congr {i next : Nat} {s t : State} (h : t.layer = s.layer) (hs : RunsAt i next s) : RunsAt i next t := by
  simpa only [RunsAt, segOf_congr i h] using hs

/-- A change of a segment moves its run on from descriptor to descriptor as it moves every run of it. -/
theorem runsAt_modSeg {i next next' : Nat} {s : State} {f : Seg → Seg} {k : RunState → RunState}
    (hf : ∀ g, (f g).running = g.running.map k) (hk : ∀ rs, rs.next = next → (k rs).next = next') (hs : RunsAt i next s) :
    RunsAt i next' (modSeg i f s) := by
  obtain ⟨g, rs, hg, hr, hn⟩ := hs
  exact ⟨f g, k rs, by simp [hg], by simp [hf, hr], hk rs hn⟩

@[simp] theorem engineWrite1_layer (gfa : Nat) (b : List Byte) (s : State) : (engineWrite1 gfa b s).layer = s.layer := by
  unfold engineWrite1
  dsimp only
  split
  · split <;> rfl
  · rfl

@[simp] theorem spanWrite_layer (gfa : Nat) (b : List Byte) (s : State) : (spanWrite gfa b s).layer = s.layer :=
  List.foldlRecOn (motive := fun t : State => t.layer = s.layer) _ _ rfl fun t ht _ _ => (engineWrite1_layer _ _ t).trans ht

@[simp] theorem raiseFlags_layer (bay flask : Nat) (fl : AFlags) (s : State) : (raiseFlags bay flask fl s).layer = s.layer := by
  simp only [raiseFlags, apply_ite State.layer, setReg_layer, ite_self]

@[simp] theorem raiseSomewhere_layer (bays : List Nat) (fl : AFlags) (s : State) : (raiseSomewhere bays fl s).layer = s.layer := by
  simp only [raiseSomewhere, apply_ite State.layer, raiseFlags_layer, useFree_layer, ite_self]

/-- Writing a result leaves the run where it is, wherever the tensor lies. -/
theorem runsAt_writeTensor {i next : Nat} {s : State} (hs : RunsAt i next s) (g : Seg) (rs : RunState) (w : Nat × List Nat) :
    RunsAt i next (writeTensor i g rs w s) := by
  unfold writeTensor
  dsimp only
  split
  · exact hs
  split
  · exact runsAt_congr (spanWrite_layer _ _ _) hs
  split
  · exact runsAt_modSeg (k := id) (fun g => by simp) (fun _ h => h) hs
  · exact runsAt_modSeg (fun _ => rfl) (fun _ h => h) hs

theorem noteMask_running (rs : RunState) (i : Nat) (d : List Byte) (g : Seg) : (noteMask rs i d g).running = g.running := rfl

/-- A descriptor that is dispatched, waits for no readout and reads its operands reaches its boundary with the run one further. -/
theorem runDescriptor_eq_boundary {s : State} {i : Nat} {g : Seg} {rs : RunState} (hg : segOf i s = some g)
    (hr : g.running = some rs) (hp : paused s = false) (hw : waitsReadout g (tabGet [] g.descs rs.next) = false)
    (ha : descAccess g rs (tabGet [] g.descs rs.next) s = none) :
    ∃ t, runDescriptor i s = boundary i t ∧ RunsAt i (rs.next + 1) t := by
  have hrun : RunsAt i rs.next (useFree s) := ⟨g, rs, hg, hr, rfl⟩
  refine ⟨_, by simp only [runDescriptor, hg, hr, hp, hw, ha]; rfl, ?_⟩
  have hwritten : ∀ res : List (Nat × List Nat), RunsAt i rs.next (res.foldl (fun s w => writeTensor i g rs w s) (useFree s)) :=
    fun res => List.foldlRecOn res _ hrun fun _ ht w _ => runsAt_writeTensor ht g rs w
  exact runsAt_congr (raiseSomewhere_layer _ _ _)
    (runsAt_modSeg (fun _ => noteMask_running _ _ _ _) (fun _ h => congrArg (· + 1) h) (hwritten _))

/-! ### A deadline passes (R122) -/

theorem exec_layerRunDeadline_of_running {s : State} {i : Nat} {g : Seg} {rs : RunState} (hg : segOf i s = some g)
    (hr : g.running = some rs) (hd : rs.run.deadline ≠ 0) (hm : rs.missed = false) :
    exec (.layerRunDeadline i) s = .next (modSeg i (fun g => { g with running := some { rs with missed := true } })
      (advanceTo (rs.startAt + rs.run.deadline) s)) := by
  change execLayerRunDeadline i s = _
  simp [execLayerRunDeadline, hg, hr, hd, hm]

/-! ### Placement (R21, R96, R97) -/

theorem placeSegment_of_ready {s : State} {i : Nat} {g : Seg} (hg : segOf i s = some g) (hst : g.state = .placing)
    (hb : g.want ≤ g.bays.length) (ha : segAccess g s = none) :
    placeSegment i s = settlePlace i g ((savedSuffix g g.maxRows (savedBudget g.want) (savedOrder g)).foldl withBit 0) s := by
  simp [placeSegment, hg, hst, Nat.not_lt.mpr hb, ha]

theorem settlePlace_of_pages {s t : State} {i sram : Nat} {g : Seg} {l : List Nat}
    (hp : takeSegPages i g.heat (segPages g sram g.maxRows g.want) [] s = some (l, t)) (hg : segOf i t = some g) :
    settlePlace i g sram s =
      let g' := { g with state := .placed, sram := sram, weights := loadWeights g t, placeCmd := none, fresh := [], pages := l,
                         lost := [], work := [], dwMask := [] }
      finishOpt g.placeCmd stDone (placeReply g') (notePlaced g' (putSeg i g' t)) := by
  simp [settlePlace, hp, hg]

theorem missBays_of_missing {s : State} {i : Nat} {g : Seg} (hg : segOf i s = some g) (hst : g.state = .placing)
    (hb : g.bays.length < g.want) : missBays i s = failPlace i stNoResource (advanceTo (g.placeAt + 10000000) s) := by
  simp [missBays, hg, hst, Nat.not_le.mpr hb]

/-- Settles O23: each event by what its operation does under the clause's conditions; the results that a descriptor writes leave its
run at that descriptor, which the boundary then finds one further. -/
theorem layerEventsComplete : Obligations.LayerEventsComplete := by
  intro s i
  refine ⟨?take, ?give, ?start, ?desc, ?deadline, ?placed, ?settled, ?timeout⟩
  case take =>
    intro b t0 hb ht hc hw
    exact ⟨_, exec_bayOwnershipTransfer_take hb ht hc hw, by simp, by simp, rfl⟩
  case give =>
    intro b t0 hb ht hw
    exact ⟨_, exec_bayOwnershipTransfer_return hb ht hw, by simp, by simp, rfl⟩
  case start =>
    intro g r rest hg hrun hq hp hpass hf hm
    exact ⟨startRun i s, rfl, _, _, segOf_startRun hg hrun hq hp hpass hf hm, rfl, rfl, rfl, rfl, rfl⟩
  case desc =>
    rintro g rs _ hg hr rfl hp hw ha
    obtain ⟨t, hrun, g', rs', hg', hr', hn⟩ := runDescriptor_eq_boundary hg hr hp hw ha
    exact ⟨t, congrArg Host.Outcome.next hrun, g', rs', hg', hr', hn⟩
  case deadline =>
    intro g rs hg hr hd hm
    exact ⟨_, exec_layerRunDeadline_of_running hg hr hd hm, advanceTo_now _ _, { g with running := some { rs with missed := true } },
      { rs with missed := true }, by simp [hg], rfl, rfl⟩
  case placed => exact fun hw => decided_of_shopsWait hw _
  case settled =>
    rintro g _ _ l t hg hst hb ha rfl hp hgt rfl
    exact (placeSegment_of_ready hg hst hb ha).trans (settlePlace_of_pages hp hgt)
  case timeout =>
    intro g hg hst hb
    exact congrArg (fun t => Host.Outcome.next (settleResumes t)) (missBays_of_missing hg hst hb)

end Sys2Proof.Machine
end

section
/-! PROOF. An Ingot is the exact sum of its contributions, in any order and grouping (R44, R47 to R49): its integer, its side store and
its flags are each a fold, over the elements, of an operation that is associative and commutative. -/
namespace Sys2Proof.Machine

/-! ### What one element contributes (R47) -/

/-- What an element adds to an Ingot's integer: its value in units of 2^-149 (R44). -/
def ingotUnits (f : Fmt) (x : Nat) : Int :=
  match (decodeVal f x).1 with
  | .fin neg m e => (if neg then -1 else 1) * (m : Int) * 2 ^ (e + 149).toNat
  | _ => 0

/-- What an element sets in an Ingot's side store (R45). -/
def ingotSide (f : Fmt) (x : Nat) : Nat :=
  match (decodeVal f x).1 with
  | .nan => 1
  | .inf neg => if neg then 4 else 2
  | _ => 0

/-- A finite element of any format is a whole number of units of 2^-149: the smallest exponent is that of FP32 and BF16 numbers. -/
theorem decodeVal_fin_exponent {f : Fmt} {x : Nat} {neg : Bool} {m : Nat} {e : Int} (h : (decodeVal f x).1 = .fin neg m e) :
    0 ≤ e + 149 := by
  have hscale : (f.bias : Int) + f.frac ≤ 150 := by cases f <;> decide
  simp only [decodeVal] at h
  split_ifs at h with hint hzero hnan hall hinf hsub
  · injection h with _ _ he
    omega
  · injection h with _ _ he
    omega

theorem natCast_subMod (a b : Nat) {m : Nat} (hm : 0 < m) : (subMod a b m : Int) = ((a : Int) - b) % m := by
  rw [subMod, Int.natCast_mod, Nat.cast_add, Nat.cast_sub (Nat.mod_lt b hm).le, Int.natCast_mod, Int.natCast_mod,
    Int.emod_add_emod, ← add_sub_assoc, Int.sub_emod_emod, add_sub_right_comm, Int.add_emod_right]

/-! ### Entering one element -/

@[simp] theorem ingotEnter_flags (f : Fmt) (x : Nat) (g : Ingot) : (ingotEnter f x g).2 = (decodeVal f x).2 := by
  unfold ingotEnter
  cases hv : (decodeVal f x).1 <;> simp [hv]

@[simp] theorem ingotEnter_side (f : Fmt) (x : Nat) (g : Ingot) : (ingotEnter f x g).1.side = g.side ||| ingotSide f x := by
  unfold ingotEnter ingotSide
  cases hv : (decodeVal f x).1 <;> simp [hv]

theorem ingotEnter_i (f : Fmt) (x : Nat) {g : Ingot} (hg : g.i < 2 ^ 320) :
    ((ingotEnter f x g).1.i : Int) = (g.i + ingotUnits f x) % 2 ^ 320 := by
  have hsame : (g.i : Int) = (g.i + 0) % 2 ^ 320 := by omega
  unfold ingotEnter ingotUnits
  cases hv : (decodeVal f x).1 with
  | nan => simpa [hv] using hsame
  | inf neg => simpa [hv] using hsame
  | zero neg => simpa [hv] using hsame
  | fin neg m e =>
    cases neg with
    | false => simp [hv, Nat.shiftLeft_eq]
    | true => simp [hv, Nat.shiftLeft_eq, natCast_subMod, sub_eq_add_neg]

/-! ### The Ingot of a list -/

theorem ingotOf_concat (f : Fmt) (xs : List Nat) (x : Nat) :
    ingotOf f (xs ++ [x]) =
      ((ingotEnter f x (ingotOf f xs).1).1, orFlags (ingotOf f xs).2 (ingotEnter f x (ingotOf f xs).1).2) := by
  simp [ingotOf]

theorem ingotOf_i (f : Fmt) (xs : List Nat) : ((ingotOf f xs).1.i : Int) = (xs.map (ingotUnits f)).sum % 2 ^ 320 := by
  induction xs using List.reverseRecOn with
  | nil => rfl
  | append_singleton xs x ih =>
    have hlt : (ingotOf f xs).1.i < 2 ^ 320 := by omega
    rw [ingotOf_concat, ingotEnter_i f x hlt, ih, Int.emod_add_emod]
    simp

theorem ingotOf_side (f : Fmt) (xs : List Nat) : (ingotOf f xs).1.side = (xs.map (ingotSide f)).foldl (· ||| ·) 0 := by
  induction xs using List.reverseRecOn with
  | nil => rfl
  | append_singleton xs x ih => simp [ingotOf_concat, ih]

theorem ingotOf_flags (f : Fmt) (xs : List Nat) :
    (ingotOf f xs).2 = xs.foldl (fun fl x => orFlags fl (decodeVal f x).2) noFlags := by
  induction xs using List.reverseRecOn with
  | nil => rfl
  | append_singleton xs x ih => simp [ingotOf_concat, ih]

/-! ### Any order and any grouping (R49) -/

theorem ingot_ext {a b : Ingot} (hi : (a.i : Int) = b.i) (hside : a.side = b.side) : a = b := by
  cases a
  cases b
  simpa using ⟨Int.ofNat.inj hi, hside⟩

theorem orFlags_right_comm (a b c : AFlags) : orFlags (orFlags a b) c = orFlags (orFlags a c) b := by
  simp [orFlags, Bool.or_right_comm]

theorem ingotOf_perm (f : Fmt) {xs ys : List Nat} (h : xs.Perm ys) : ingotOf f xs = ingotOf f ys := by
  refine Prod.ext (ingot_ext ?i ?side) ?flags
  case i => rw [ingotOf_i, ingotOf_i, (h.map _).sum_eq]
  case side => rw [ingotOf_side, ingotOf_side, (h.map _).foldl_eq]
  case flags =>
    rw [ingotOf_flags, ingotOf_flags]
    exact h.foldl_eq' (fun _ _ _ _ _ => orFlags_right_comm _ _ _) _

theorem ingotOf_append (f : Fmt) (xs ys : List Nat) :
    (ingotOf f (xs ++ ys)).1 = ingotAdd (ingotOf f xs).1 (ingotOf f ys).1 := by
  refine ingot_ext ?i ?side
  case i => simp [ingotAdd, ingotOf_i]
  case side =>
    simp only [ingotAdd, ingotOf_side, List.map_append, List.foldl_append]
    rw [← List.foldl_assoc (op := fun a b : Nat => a ||| b), Nat.or_zero]

/-- Settles O55: the integer is the sum of the elements' units modulo 2^320, the side store and the flags an OR over the elements;
none of the three depends on the order, and the first two add up over the parts of a list. -/
theorem ingotIsTheExactSum : Obligations.IngotIsTheExactSum :=
  fun f xs ys => ⟨ingotOf_i f xs, fun _ _ _ _ h => decodeVal_fin_exponent h, ingotOf_perm f, ingotOf_append f xs ys⟩

end Sys2Proof.Machine
end

section
/-! PROOF. Pour commands complete (R61, R62, R66, R85, R86, R88, R91, R92). -/
namespace Sys2Proof.Machine

/-! ### The table of a set's entries (R61) -/

theorem tabFind_tabDel_ne {α : Type} (t : Tab α) {k j : Nat} (h : j ≠ k) : tabFind (tabDel t k) j = tabFind t j := by
  induction t with
  | nil => rfl
  | cons e r ih =>
    obtain ⟨i, v⟩ := e
    by_cases hik : i = k
    · simpa [tabDel, tabFind, hik, h] using ih
    · simpa [tabDel, tabFind, hik] using congrArg (ite (j = i) (some v)) ih

theorem tabFind_tabIns_self {α : Type} (t : Tab α) (k : Nat) (v : α) (h : ∀ e ∈ t, e.1 ≠ k) :
    tabFind (tabIns k v t) k = some v := by
  induction t with
  | nil => simp [tabIns, tabFind]
  | cons e r ih =>
    obtain ⟨i, w⟩ := e
    obtain ⟨hi, hr⟩ := List.forall_mem_cons.mp h
    by_cases hlt : k < i
    · simp [tabIns, tabFind, hlt]
    · simp [tabIns, tabFind, hlt, Ne.symm hi, ih hr]

theorem tabFind_tabIns_ne {α : Type} (t : Tab α) {k j : Nat} (v : α) (h : j ≠ k) : tabFind (tabIns k v t) j = tabFind t j := by
  induction t with
  | nil => simp [tabIns, tabFind, h]
  | cons e r ih =>
    obtain ⟨i, w⟩ := e
    by_cases hlt : k < i
    · simp [tabIns, tabFind, hlt, h]
    · simp [tabIns, tabFind, hlt, ih]

/-- An entry put in a table is the one found at its key, and no other key is touched. -/
theorem tabFind_tabPut {α : Type} (t : Tab α) (k : Nat) (v : α) (j : Nat) :
    tabFind (tabPut t k v) j = if j = k then some v else tabFind t j := by
  by_cases h : j = k
  · subst h
    simpa [tabPut] using tabFind_tabIns_self _ _ v (tabDel_keys t j)
  · simp [tabPut, h, tabFind_tabIns_ne _ v h, tabFind_tabDel_ne t h]

/-- A set's entries after a list is written from a position on (MSET_WRITE, R92). -/
def writeSetEntries (t : Tab Nat) (first : Nat) (es : List Nat) : Tab Nat :=
  (List.range es.length).foldl (fun l i => tabPut l (first + i) (es.getD i 0)) t

/-- After the first `n` values of a list are put at consecutive keys, those keys hold them and the others what they held. -/
theorem tabFind_foldl_tabPut (t : Tab Nat) (first : Nat) (es : List Nat) (n j : Nat) :
    tabFind ((List.range n).foldl (fun l i => tabPut l (first + i) (es.getD i 0)) t) j =
      if first ≤ j ∧ j < first + n then some (es.getD (j - first) 0) else tabFind t j := by
  induction n with
  | zero => simp [show ¬ (first ≤ j ∧ j < first) by omega]
  | succ n ih =>
    rw [List.range_succ, List.foldl_append, List.foldl_cons, List.foldl_nil, tabFind_tabPut, ih]
    by_cases hj : j = first + n
    · simp [hj]
    · simp only [hj, if_false, show (first ≤ j ∧ j < first + (n + 1)) ↔ (first ≤ j ∧ j < first + n) by omega]

theorem tabFind_writeSetEntries_of_lt (t : Tab Nat) (first : Nat) {es : List Nat} {k : Nat} (h : k < es.length) :
    tabFind (writeSetEntries t first es) (first + k) = es[k]? := by
  rw [writeSetEntries, tabFind_foldl_tabPut]
  simp [h]

theorem tabFind_writeSetEntries_of_outside (t : Tab Nat) {first : Nat} {es : List Nat} {k : Nat}
    (h : k < first ∨ first + es.length ≤ k) : tabFind (writeSetEntries t first es) k = tabFind t k := by
  rw [writeSetEntries, tabFind_foldl_tabPut, if_neg (by omega)]

/-! ### Commands about a Pour (R66, R85, R92) -/

theorem exec_pourRegister {m : CmdMeta} {s : State} {desc : List Byte} (ht : TakesLong m 0x0600 s)
    (hc : registerCheck desc s = none) :
    exec (.pourRegister m desc) s = .next (registerLead desc (refOf m 0x0600) (accepted (refOf m 0x0600) s)) := by
  change execPourRegister m desc s = _
  simp [execPourRegister, command_of_takes ht.1, hc, accept_of_takesLong ht]

theorem exec_pourAbort {m : CmdMeta} {s : State} {heat id : Nat} {p : Pour} (ht : Takes m 0x0601 s)
    (hp : pourOf heat id s = some p) (hlead : p.lead = true) (hend : p.endAt = none) (hst : p.state ≤ 3) :
    exec (.pourAbort m heat id) s = .next (done (refOf m 0x0601) (failPour heat id stDenied cAborted 0 s)) := by
  change execPourAbort m heat id s = _
  simp [execPourAbort, command_of_takes ht, hp, hlead, hend, Nat.not_lt.mpr hst]

theorem exec_pourQuery_live {m : CmdMeta} {s : State} {heat id : Nat} {p : Pour} (ht : Takes m 0x0602 s)
    (hp : pourOf heat id s = some p) (hend : p.endAt = none) :
    exec (.pourQuery m heat id) s = .next (answer (refOf m 0x0602) stDone
      (leBytes 1 p.state ++ (chunkCounts p s).flatMap (leBytes 3)) s) := by
  change execPourQuery m heat id s = _
  simp [execPourQuery, command_of_takes ht, hp, hend]

theorem exec_pourQuery_tombstone {m : CmdMeta} {s : State} {heat id t0 : Nat} {p : Pour} (ht : Takes m 0x0602 s)
    (hp : pourOf heat id s = some p) (hend : p.endAt = some t0) :
    exec (.pourQuery m heat id) s = .next (answer (refOf m 0x0602) stDone
      (leBytes 1 p.state ++ p.counts.flatMap (leBytes 3) ++ completionRecord p t0) s) := by
  change execPourQuery m heat id s = _
  simp [execPourQuery, command_of_takes ht, hp, hend]

/-- Select 0 shows the members' map and select 1 that of the destinations. -/
theorem exec_pourFenceMap {m : CmdMeta} {s : State} {heat id sel : Nat} {p : Pour} (ht : Takes m 0x0603 s)
    (hp : pourOf heat id s = some p) (hlead : p.lead = true) (hsel : sel ≤ 1) :
    exec (.pourFenceMap m heat id sel) s = .next (answer (refOf m 0x0603) stDone
      (leBytes 2048 ((if sel = 0 then p.memMap else p.destMap).foldl withBit 0)) s) := by
  change execPourFenceMap m heat id sel s = _
  simp [execPourFenceMap, command_of_takes ht, hp, hlead, Nat.not_lt.mpr hsel]

/-! ### Commands about sets (R61, R62, R92) -/

theorem exec_msetBegin {m : CmdMeta} {s : State} {i n : Nat} (ht : Takes m 0x0610 s) (hi : i ≤ 4095) (hpos : 1 ≤ n)
    (hn : n ≤ 16384) (hfree : setInUse i s = false) (hroom : setEntriesUsed i s + n ≤ 4194304) :
    exec (.msetBegin m i n) s =
      .next (done (refOf m 0x0610) (putSet i { count := n, entries := [], closed := false, kind := 0 } s)) := by
  change execMsetBegin m i n s = _
  have hok : ¬ (i > 4095 ∨ n = 0 ∨ n > 16384) := by omega
  simp [execMsetBegin, command_of_takes ht, hok, hfree, Nat.not_lt.mpr hroom]

theorem exec_msetWrite {m : CmdMeta} {s : State} {i first : Nat} {es : List Nat} {t : MSet} (ht : Takes m 0x0611 s)
    (hne : es ≠ []) (hlen : es.length ≤ 600) (hi : i ≤ 4095) (hset : tabFind s.pour.sets i = some t)
    (hfit : first + es.length ≤ t.count) (hep : ∀ e ∈ es, e < 2 ^ 18) (hfree : setInUse i s = false) :
    exec (.msetWrite m i first es) s = .next (done (refOf m 0x0611)
      (putSet i { t with entries := writeSetEntries t.entries first es, closed := false } s)) := by
  change execMsetWrite m i first es s = _
  have hlen' : ¬ (es = [] ∨ es.length > 600) := by simp [hne, hlen]
  have hok : ¬ (first + es.length > t.count ∨ es.any (fun e => decide (e ≥ 2 ^ 18)) = true) := by
    simpa using ⟨hfit, hep⟩
  simp only [execMsetWrite, command_of_takes ht, if_neg hlen', if_neg (Nat.not_lt.mpr hi), hset, if_neg hok, hfree]
  rfl

theorem exec_msetSeal {m : CmdMeta} {s : State} {i kind : Nat} {t : MSet} (ht : Takes m 0x0612 s) (hi : i ≤ 4095)
    (hk : kind ≤ 1) (hset : tabFind s.pour.sets i = some t) (hfree : setInUse i s = false)
    (hfull : t.count ≤ t.entries.length) (hhome : kind = 1 → (setList t).length ≤ 2320)
    (hports : ∀ e ∈ setList t, entryOk kind e = true) (hdup : (dedupNat (setList t)).length = (setList t).length) :
    exec (.msetSeal m i kind) s = .next (answer (refOf m 0x0612) stDone (shake256 8 (setBytes (setList t)))
      (putSet i { t with closed := true, kind := kind } s)) := by
  change execMsetSeal m i kind s = _
  have hpar : ¬ (i > 4095 ∨ kind > 1) := by omega
  have hok : ¬ ((kind = 1 ∧ (setList t).length > 2320) ∨ (setList t).any (fun e => !entryOk kind e) = true ∨
      (dedupNat (setList t)).length ≠ (setList t).length) := by
    simpa [hdup] using ⟨hhome, hports⟩
  simp only [execMsetSeal, command_of_takes ht, if_neg hpar, hset, hfree, if_neg (Nat.not_lt.mpr hfull), if_neg hok]
  rfl

theorem exec_msetFree {m : CmdMeta} {s : State} {i : Nat} {t : MSet} (ht : Takes m 0x0613 s) (hi : i ≤ 4095)
    (hset : tabFind s.pour.sets i = some t) (hfree : setInUse i s = false) :
    exec (.msetFree m i) s =
      .next (done (refOf m 0x0613) { s with pour := { s.pour with sets := tabDel s.pour.sets i } }) := by
  change execMsetFree m i s = _
  simp [execMsetFree, command_of_takes ht, Nat.not_lt.mpr hi, hset, hfree]

theorem exec_msetRead {m : CmdMeta} {s : State} {i first : Nat} {t : MSet} (ht : Takes m 0x0614 s) (hi : i ≤ 4095)
    (hset : tabFind s.pour.sets i = some t) (hfirst : first < t.count) :
    exec (.msetRead m i first) s = .next (answer (refOf m 0x0614) stDone
      ((List.range (min 600 (t.count - first))).flatMap fun k =>
        leBytes 4 ((tabFind t.entries (first + k)).getD 0xFFFFFFFF)) s) := by
  change execMsetRead m i first s = _
  simp only [execMsetRead, command_of_takes ht, if_neg (Nat.not_lt.mpr hi), hset, if_neg (Nat.not_le.mpr hfirst)]
  congr 3
  funext k
  cases tabFind t.entries (first + k) <;> rfl

/-! ### Class weights, spill reserve, statistics (R86, R88, R91) -/

theorem exec_pourClassSet {m : CmdMeta} {s : State} {cls w : Nat} (ht : Takes m 0x0620 s) (hc : cls ≤ 4) (hpos : 1 ≤ w)
    (hw : w ≤ 255) : exec (.pourClassSet m cls w) s = .next (done (refOf m 0x0620) (setReg .peClassWeight cls w s)) := by
  change execPourClassSet m cls w s = _
  simp [execPourClassSet, command_of_takes ht, hc, hpos, hw]

theorem exec_pourSpillReserve_more {m : CmdMeta} {s : State} {n : Nat} (ht : Takes m 0x0621 s) (hn : n ≤ 1048575)
    (hmore : s.pour.spill < n) (hgrew : s.pour.spill < (growSpill n s).pour.spill) :
    exec (.pourSpillReserve m n) s =
      .next (answer (refOf m 0x0621) stDone (leBytes 4 (growSpill n s).pour.spill) (growSpill n s)) := by
  change execPourSpillReserve m n s = _
  simp [execPourSpillReserve, command_of_takes ht, Nat.not_lt.mpr hn, hmore, hgrew.ne']

theorem exec_pourSpillReserve_less {m : CmdMeta} {s : State} {n : Nat} (ht : Takes m 0x0621 s) (hn : n ≤ 1048575)
    (hless : n ≤ s.pour.spill) : exec (.pourSpillReserve m n) s =
      .next (answer (refOf m 0x0621) stDone (leBytes 4 (shrinkSpill n s).pour.spill) (shrinkSpill n s)) := by
  change execPourSpillReserve m n s = _
  simp [execPourSpillReserve, command_of_takes ht, Nat.not_lt.mpr hn, Nat.not_lt.mpr hless]

theorem exec_pourStats {m : CmdMeta} {s : State} (ht : Takes m 0x0630 s) :
    exec (.pourStats m) s = .next (answer (refOf m 0x0630) stDone (readWords 0x60000010 6 s) s) :=
  command_of_takes ht fun c s => answer c stDone (readWords 0x60000010 6 s) s

/-- Settles O21: each command passes its checks under the clause's conditions and does the one thing they lead to; what MSET_WRITE
leaves in a set's table is read entry by entry. -/
theorem pourCommandsComplete : Obligations.PourCommandsComplete := by
  intro m s
  refine ⟨?register, ?abort, ?queryLive, ?queryTombstone, ?fenceMap, ?setBegin, ?setWrite, ?setSeal, ?setFree, ?setRead,
    ?classSet, ?spillMore, ?spillLess, exec_pourStats⟩
  case register => exact fun _ => exec_pourRegister
  case abort => exact fun _ _ _ => exec_pourAbort
  case queryLive => exact fun _ _ _ => exec_pourQuery_live
  case queryTombstone => exact fun _ _ _ _ => exec_pourQuery_tombstone
  case fenceMap =>
    exact fun _ _ _ ht hp hl => ⟨exec_pourFenceMap ht hp hl zero_le_one, exec_pourFenceMap ht hp hl le_rfl⟩
  case setBegin => exact fun _ _ => exec_msetBegin
  case setWrite =>
    intro i first es t ht hne hlen hi hset hfit hep hfree
    exact ⟨_, exec_msetWrite ht hne hlen hi hset hfit hep hfree, fun _ h => tabFind_writeSetEntries_of_lt _ _ h,
      fun _ h => tabFind_writeSetEntries_of_outside _ h⟩
  case setSeal => exact fun _ _ _ => exec_msetSeal
  case setFree => exact fun _ _ => exec_msetFree
  case setRead => exact fun _ _ _ => exec_msetRead
  case classSet => exact fun _ _ => exec_pourClassSet
  case spillMore => exact fun _ => exec_pourSpillReserve_more
  case spillLess => exact fun _ => exec_pourSpillReserve_less

end Sys2Proof.Machine
end

section
/-! PROOF. Packets at the ports complete (R71, R74, R124, R143, R163 to R166, R242 to R244, R354). -/
namespace Sys2Proof.Machine

/-! ### Coordinates -/

theorem ownDev_congr {s t : State} (h : t.coord = s.coord) : ownDev t = ownDev s := by
  simp only [ownDev, ownGroup, h]

/-- A fold of steps that keep the coordinates keeps them. -/
theorem foldl_coord {α : Type} (f : State → α → State) (h : ∀ s a, (f s a).coord = s.coord) (l : List α) (s : State) :
    (l.foldl f s).coord = s.coord :=
  List.foldlRecOn (motive := fun t : State => t.coord = s.coord) l f rfl fun t ht a _ => (h t a).trans ht

@[simp] theorem putPageIngot_coord (f i : Nat) (g : Ingot) (s : State) : (putPageIngot f i g s).coord = s.coord := by
  simp [putPageIngot]

@[simp] theorem putIngotBytes_coord (f off : Nat) (b : List Byte) (s : State) : (putIngotBytes f off b s).coord = s.coord :=
  hbmWrite_coord _ _ _ s

theorem performOn_coord (f : Nat) (p : Packet) (s : State) : (performOn f p s).2.coord = s.coord := by
  unfold performOn
  dsimp only
  split_ifs
  · exact putIngotBytes_coord _ _ _ s
  · exact hbmWrite_coord _ _ _ s
  · rfl
  · split
    · rfl
    · exact foldl_coord _ (fun _ _ => putPageIngot_coord _ _ _ _) _ s
  · split <;> rfl
  · split
    · rfl
    · exact foldl_coord _ (fun _ _ => putPageIngot_coord _ _ _ _) _ s
  all_goals exact hbmWrite_coord _ _ _ s

/-! ### What performing a request does (R163, R164, R166) -/

theorem performOn_put {f : Nat} {p : Packet} (ht : p.typ = tyPut) (hc : gCls p.addr ≠ 1) (s : State) :
    performOn f p s = (.ack, hbmWrite f (gOff p.addr) p.payload s) := by
  simp [performOn, ht, hc]

theorem performOn_get {f : Nat} {p : Packet} (ht : p.typ = tyGet) (hform : getForm p = 0) (s : State) :
    performOn f p s = (.data (hbmRead f (gOff p.addr) (getLow p + 1) s) 0, s) := by
  simp [performOn, ht, hform, tyGet, tyPut]

/-- The word an ATOMIC leaves: the sum for operation 1, the exchange where the operand matches for operation 2. -/
def atomicWord (p : Packet) (old : Nat) : Nat :=
  if atOp p = 1 then (old + leNat p.payload) % 2 ^ 64
  else if old = leNat (p.payload.take 8) then leNat (p.payload.drop 8) else old

theorem performOn_atomic {f : Nat} {p : Packet} {s : State} {old : Nat} (ht : p.typ = tyAtomic) (hop : atOp p = 1 ∨ atOp p = 2)
    (hold : old = leNat (hbmRead f (gOff p.addr) 8 s)) : performOn f p s =
      (.data (leBytes 8 old) 0, hbmWrite f (gOff p.addr) (leBytes 8 (atomicWord p old)) s) := by
  have hword : atOp p ≠ 3 := by omega
  simp [performOn, atomicWord, ht, hword, hold, tyAtomic, tyGet, tyPut]

/-! ### A request that is performed here (R161, R167, R177) -/

/-- No check stands in the way of a request that is served here. -/
theorem memPort_of_servedHere {p : Packet} {f : Nat} {s : State} (h : ServedHere p f s) (n : Nat) (unc : List (Nat × Nat)) :
    memPort p s n unc = homePerform f p n unc s := by
  obtain ⟨hok, hbook, hrows, hfwd, hhome, ⟨e, hmap, href⟩, hwarm, hfrozen⟩ := h
  simp [memPort, atHome, fwdKnown, hrows, hok, Nat.not_lt.mpr hbook, hhome, hfwd, hmap, href, hwarm, hfrozen]

/-- The state in which the home performs a request: a read has noted the lines it met. -/
def linesNoted (p : Packet) (f n : Nat) (s : State) : State := if p.typ = tyPut then s else noteLines f n [] s

@[simp] theorem linesNoted_coord (p : Packet) (f n : Nat) (s : State) : (linesNoted p f n s).coord = s.coord := by
  unfold linesNoted
  split <;> rfl

/-- The state after a request on frame `f` was performed, with the access sampled (R174). -/
def sampled (p : Packet) (f : Nat) (s u : State) : State :=
  hotMigrate (gPage p.addr) f (sampleAccess (ownDev s) f u)

/-- What the home does once a request on frame `f` was performed with an outcome: a write waits for its second copy (R177), any
other request ends. -/
def afterPerformed (f : Nat) (p : Packet) (r : Served) (s : State) : State :=
  match isWrite p, r, mirrorOf (gPage p.addr) s with
  | true, .nak c, _ => endRequest p (.nak c) s
  | true, r, some m => awaitMirror f m p r s
  | _, r, _ => endRequest p r s

theorem afterPerformed_read {p : Packet} (h : isWrite p = false) (f : Nat) (r : Served) (s : State) :
    afterPerformed f p r s = endRequest p r s := by
  simp [afterPerformed, h]

theorem afterPerformed_one_copy {p : Packet} {s : State} (h : mirrorOf (gPage p.addr) s = none) (f : Nat) (r : Served) :
    afterPerformed f p r s = endRequest p r s := by
  cases hw : isWrite p with
  | false => exact afterPerformed_read hw f r s
  | true => cases r <;> simp [afterPerformed, hw, h]

theorem afterPerformed_two_copies {p : Packet} {s : State} {r : Served} {m : Nat} (hw : isWrite p = true)
    (hr : ∀ c, r ≠ .nak c) (h : mirrorOf (gPage p.addr) s = some m) (f : Nat) :
    afterPerformed f p r s = awaitMirror f m p r s := by
  cases r with
  | nak c => exact absurd rfl (hr c)
  | ack => simp [afterPerformed, hw, h]
  | data b fl => simp [afterPerformed, hw, h]

/-- A served request is performed; the device it came through is this one, whose access is sampled. -/
theorem memPort_of_performOn {p : Packet} {f n : Nat} {r : Served} {s u : State} (h : ServedHere p f s)
    (hperf : performOn f p (linesNoted p f n s) = (r, u)) : memPort p s n [] = afterPerformed f p r (sampled p f s u) := by
  have hu := performOn_coord f p (linesNoted p f n s)
  rw [hperf, linesNoted_coord] at hu
  rw [memPort_of_servedHere h]
  obtain ⟨-, -, -, hfwd, -⟩ := h
  rw [linesNoted] at hperf
  have hdev : entryDevice p u = ownDev s := by simp [entryDevice, hfwd, ownDev_congr hu]
  simp only [homePerform, ne_eq, not_true_eq_false, Option.isNone_iff_eq_none, false_and, and_false, ↓reduceIte, enterFwd,
    hfwd, Bool.not_false, hperf, hdev]
  rfl

/-- The entry that serves a request is of the request's class. -/
theorem mirrorOf_of_servedHere {p : Packet} {f : Nat} {s : State} (h : ServedHere p f s) (hc : gCls p.addr ≠ 2) :
    mirrorOf (gPage p.addr) s = none := by
  obtain ⟨-, -, -, -, -, ⟨e, hmap, href⟩, -, -⟩ := h
  have hcls : e.cls = gCls p.addr := by
    by_contra hne
    simp [entryRefusal, hne] at href
  simp [mirrorOf, hmap, hcls, hc]

theorem mirrorOf_noteLines (pg f n : Nat) (unc : List (Nat × Nat)) (s : State) :
    mirrorOf pg (noteLines f n unc s) = mirrorOf pg s := rfl

/-- A page of one copy does not survive a read that met an uncorrectable line (R179). -/
theorem memPort_read_uncorrectable {p : Packet} {f : Nat} {s : State} (h : ServedHere p f s) (ht : p.typ = tyGet)
    (hc : gCls p.addr ≠ 2) (n : Nat) (x : Nat × Nat) (unc : List (Nat × Nat)) :
    memPort p s n (x :: unc) =
      endRequest p (.nak stDataLost) (frameLost (gPage p.addr) 1 (noteLines f n (x :: unc) s)) := by
  have hmir := (mirrorOf_noteLines (gPage p.addr) f n (x :: unc) s).trans (mirrorOf_of_servedHere h hc)
  rw [memPort_of_servedHere h]
  simp [homePerform, ht, tyGet, tyPut, hmir]

/-! ### PUT, GET and ATOMIC (R163, R164, R166) -/

/-- A port's packet answers the state it was dealt with in, with what follows it settled. -/
theorem next_settleAnswers {t u : State} (h : t = u) : (.next (settleAnswers t) : Out) = .next (settleAnswers u) := by rw [h]

section
variable {p : Packet} {f : Nat} {s : State}

theorem exec_put_of_performOn {r : Served} {u t : State} (h : ServedHere { p with typ := tyPut } f s)
    (hperf : performOn f { p with typ := tyPut } s = (r, u))
    (ht : t = hotMigrate (gPage p.addr) f (sampleAccess (ownDev s) f u)) :
    exec (.put p false) s = .next (settleAnswers (afterPerformed f { p with typ := tyPut } r t)) := by
  subst ht
  exact next_settleAnswers (memPort_of_performOn (n := 0) h hperf)

theorem exec_get_of_performOn {n : Nat} {r : Served} {u : State} (h : ServedHere { p with typ := tyGet } f s)
    (hperf : performOn f { p with typ := tyGet } (noteLines f n [] s) = (r, u)) :
    exec (.get p n []) s = .next (settleAnswers (endRequest { p with typ := tyGet } r
      (hotMigrate (gPage p.addr) f (sampleAccess (ownDev s) f u)))) :=
  next_settleAnswers
    ((memPort_of_performOn h hperf).trans (afterPerformed_read (by rfl) f r _))

theorem exec_atomic_of_performOn {n : Nat} {r : Served} {u t : State} (h : ServedHere { p with typ := tyAtomic } f s)
    (hperf : performOn f { p with typ := tyAtomic } (noteLines f n [] s) = (r, u))
    (ht : t = hotMigrate (gPage p.addr) f (sampleAccess (ownDev s) f u)) :
    exec (.atomic p n []) s = .next (settleAnswers (afterPerformed f { p with typ := tyAtomic } r t)) := by
  subst ht
  exact next_settleAnswers (memPort_of_performOn h hperf)

end

/-! ### GATHER_ROWS (R143) -/

/-- The state after rows were read: counted, with the lines met noted at the frame of the first row. -/
def rowsNoted (p : Packet) (n : Nat) (s t : State) : State :=
  match (tableAt p.addr s).bind fun t => homeFrame (gPage (rowGfa t 0 (leNat (p.payload.take 8)))) s with
  | some f => noteLines f n [] (incReg .upGatherCnt 0 t)
  | none => incReg .upGatherCnt 0 t

theorem gatherPort_of_data {p : Packet} {s t : State} {b : List Byte} {fl : Nat} (hw : s.power.state ≠ .warm)
    (h : gatherRows p false s = (.data b fl, t)) (n : Nat) :
    gatherPort p s n [] = endRequest p (.data b fl) (rowsNoted p n s t) := by
  have hbad : decide (([] : List (Nat × Nat)) ≠ []) = false := rfl
  simp only [gatherPort, if_neg hw, hbad, h, rowsNoted]
  generalize (tableAt p.addr s).bind _ = fr
  cases fr <;> rfl

/-! ### Port 58 (R71) -/

theorem contribPort_of_fits {p : Packet} {s t : State} {m : Nat} {q : Pour} {k : Chunk} (hfate : contribFate p s = .fits m)
    (hq : pourOf p.heat (paPour p) s = some q) (hroom : contribRoom q (paChunk p) p.payload s = some (k, t)) :
    contribPort p s = acceptContrib q m p k t := by
  simp [contribPort, hfate, hq, hroom]

/-! ### Port 56 (R354) -/

theorem forePort_cmd {p : Packet} (h : p.typ = tyCmd) (s : State) : forePort p s = cmdPort p s := by simp [forePort, h]

theorem forePort_mgmt {p : Packet} (h : p.typ = tyMgmt) (s : State) : forePort p s = ackFore p s := by
  simp [forePort, h, tyMgmt, tyCmd]

theorem cmdPort_of_room {p : Packet} {s : State} (hsrc : cmdSourceOk p.src s = true)
    (hroom : (cmdQueue (queueOfOp (cmdOp p)) s).length < queueRoom (queueOfOp (cmdOp p))) :
    cmdPort p s = ackFore p (acceptCmd p (incReg .foreCmdCnt 0 s)) := by
  simp [cmdPort, hsrc, Nat.not_le.mpr hroom]

/-! ### Answers (R242 to R244) -/

theorem noteAcked_of_not_ack {p : Packet} (h : p.typ ≠ tyAck) (s : State) : noteAcked p s = s := by simp [noteAcked, h]

/-- An answer that ends no packet of a port here: no function that sent one learns of it. -/
theorem takeAnswer_of_not_final {p : Packet} {s : State} (h : finalNak p s = false) :
    takeAnswer p s = settleAnswers (sendAnswer p (noteAcked p s)) := by
  simp [takeAnswer, h, failPurpose]

theorem takeAnswer_of_elsewhere {p : Packet} {s : State} (h : devOf p.dst ≠ ownDev s ∨ isEdge (portOf p.dst) = true) :
    takeAnswer p s = settleAnswers (sendAnswer p (noteAcked p s)) := by
  have hmine : (decide (devOf p.dst = ownDev s) && !isEdge (portOf p.dst)) = false := by
    obtain h | h := h <;> simp [h]
  simp [takeAnswer, hmine, failPurpose]

theorem finalNak_of_not_nak {p : Packet} (h : p.typ ≠ tyNak) (s : State) : finalNak p s = false := by simp [finalNak, h]

/-- The causes after which the packet goes again (R243). -/
theorem finalNak_of_resend_cause {p : Packet} (h : nakCause p = nakDamaged ∨ nakCause p = nakNoStream ∨
    nakCause p = nakGapTimeout ∨ nakCause p = stBadState ∨ nakCause p = stNoResource) (s : State) : finalNak p s = false := by
  obtain h | h | h | h | h := h <;> simp [finalNak, h]

theorem takeBlock_of_answer {kind l : Nat} {b : List Byte} {s : State} {q : Packet} (hl : isEdge l = true)
    (hst : lkStateOf l s = lkActive ∨ lkStateOf l s = lkQuarantined) (hb : blockGood b = true) (hk : fieldAt b 0 1 = kind)
    (hq : blockAnswer l b s = some q) : takeBlock kind l b s = takeAnswer q s := by
  have hup : (reg .lkState l s = 4 || reg .lkState l s = 3) = true := by simpa [lkStateOf, lkActive, lkQuarantined] using hst
  simp [takeBlock, hl, hup, hb, hk, hq]

/-- Settles O37: a request of port 57 that is served here is performed on its frame, and a write then waits for the page's second
copy; ports 56 and 58 take what they accept, and an answer that ends no packet here is only passed on. -/
theorem portPacketsComplete : Obligations.PortPacketsComplete := by
  intro p s
  refine ⟨?put, ?putIngots, rfl, ?getBytes, ?get, ?getLost, ?rows, ?atomicWord, ?atomicIngots, rfl, ?contrib, rfl, rfl, ?cmd,
    ?mgmt, ?ack, ?block, ?nakElsewhere, ?nakResend⟩
  case put =>
    rintro f _ t rfl h hc ht
    have hput := exec_put_of_performOn h (performOn_put (p := { p with typ := tyPut }) rfl hc s) ht
    refine ⟨fun hm => hput.trans (next_settleAnswers ?_), fun m hm => hput.trans (next_settleAnswers ?_)⟩
    · exact afterPerformed_one_copy (p := { p with typ := tyPut }) hm f .ack
    · exact afterPerformed_two_copies (p := { p with typ := tyPut }) (r := .ack) rfl nofun hm f
  case putIngots =>
    rintro f _ u r t rfl h - hperf ht hm
    exact (exec_put_of_performOn h hperf ht).trans
      (next_settleAnswers (afterPerformed_one_copy (p := { p with typ := tyPut }) hm f r))
  case getBytes =>
    rintro f _ n _ rfl h hform rfl
    exact exec_get_of_performOn h (performOn_get (p := { p with typ := tyGet }) rfl hform _)
  case get =>
    rintro f _ n r u rfl h hperf
    exact exec_get_of_performOn h hperf
  case getLost =>
    rintro f _ n x unc rfl h hc
    exact next_settleAnswers (memPort_read_uncorrectable h rfl hc n x unc)
  case rows =>
    rintro n b fl t _ hw hrows rfl
    exact next_settleAnswers (gatherPort_of_data hw hrows n)
  case atomicWord =>
    intro f q n old new u t hq h _ hop hu hold hnew ht
    subst hq hu
    rw [hnew] at ht
    have hatomic := exec_atomic_of_performOn h (performOn_atomic (p := { p with typ := tyAtomic }) rfl hop hold) ht
    refine ⟨fun hm => hatomic.trans (next_settleAnswers ?_), fun m hm => hatomic.trans (next_settleAnswers ?_)⟩
    · exact afterPerformed_one_copy (p := { p with typ := tyAtomic }) hm f _
    · exact afterPerformed_two_copies (p := { p with typ := tyAtomic }) (r := .data _ 0) rfl nofun hm f
  case atomicIngots =>
    rintro f _ n r u t rfl h - hperf ht hm
    exact (exec_atomic_of_performOn h hperf ht).trans
      (next_settleAnswers (afterPerformed_one_copy (p := { p with typ := tyAtomic }) hm f r))
  case contrib =>
    intro m q k t hfate hq hroom
    exact next_settleAnswers (contribPort_of_fits hfate hq hroom)
  case cmd =>
    intro hsrc hroom
    exact next_settleAnswers ((forePort_cmd rfl s).trans (cmdPort_of_room hsrc hroom))
  case mgmt => exact next_settleAnswers (forePort_mgmt rfl s)
  case ack =>
    have hack : finalNak { p with typ := tyAck } s = false := finalNak_of_not_nak (by decide : tyAck ≠ tyNak) s
    exact congrArg Host.Outcome.next (takeAnswer_of_not_final hack)
  case block =>
    intro l b q hl hst hb hq
    exact ⟨fun hk => congrArg Host.Outcome.next (takeBlock_of_answer hl hst hb hk hq),
      fun hk => congrArg Host.Outcome.next (takeBlock_of_answer hl hst hb hk hq)⟩
  case nakElsewhere =>
    intro h
    refine congrArg Host.Outcome.next ((takeAnswer_of_elsewhere (p := { p with typ := tyNak }) h).trans ?_)
    rw [noteAcked_of_not_ack (by decide : tyNak ≠ tyAck)]
  case nakResend =>
    rintro _ rfl h
    have hnak := finalNak_of_resend_cause (p := { p with typ := tyNak }) h s
    refine congrArg Host.Outcome.next ((takeAnswer_of_not_final hnak).trans ?_)
    rw [noteAcked_of_not_ack (by decide : tyNak ≠ tyAck)]

end Sys2Proof.Machine
end

section
/-! PROOF. Messages between home devices and lead complete (R71, R73 to R77, R79, R80, R84, R87). -/
namespace Sys2Proof.Machine

/-! ### Registration and opening (R77, R87, R134) -/

theorem takeRegister_of_takeHome {lead step rd sd : Nat} {desc : List Byte} {p : Pour} {s t : State}
    (hnew : pourOf (dHeat desc) (dPourId desc) s = none) (hsets : setsMatch desc s = true) (htag : descTag desc = dTag desc)
    (hroom : poursLive s < 65536) (hrun : s.det.paused.contains (dHeat desc) = false) (hcheck : homeCheck desc rd sd s = none)
    (hhome : takeHome p s = some t)
    (hp : p = { heat := dHeat desc, pourId := dPourId desc, desc := desc, lead := false, leadDev := lead, step := step,
                p1 := usesP1 desc s, regAt := s.time.now }) :
    takeRegister lead desc step rd sd s = settleReg (dHeat desc) (dPourId desc) t := by
  subst hp
  have hroom' : ¬ (poursLive s ≥ 65536 ∨ s.det.paused.contains (dHeat desc) = true) :=
    not_or.mpr ⟨Nat.not_le.mpr hroom, Bool.eq_false_iff.mp hrun⟩
  simp only [takeRegister, hnew, hsets, htag, if_neg hroom', hcheck, hhome]
  simp

section
variable {heat id : Nat} {q : Pour} {s : State} (hq : pourOf heat id s = some q)
include hq

theorem roundHere_of_ok {c : Nat} {res : List Byte} {rows : List (Nat × List Nat)} {fl : AFlags} {t : State}
    (hst : (chunkOf q c).st = 2) (hlive : q.state ≤ 3) (hpat : patternKnown q = true)
    (hready : flaskReady (chunkOf q c) s = true) (hround : roundChunk q c (chunkOf q c) s = .ok res rows fl t) :
    roundHere heat id c s = tryRoundDone heat id (storeRounded q c res rows fl t) := by
  simp [roundHere, hq, hst, Nat.not_lt.mpr hlive, hpat, hready, hround]

/-- A home device that took the Pour under the lead's tag is awaited no more. -/
theorem takeRegAck_of_agreement {home : Nat} (p1 : Bool) (hlead : q.lead = true) (hst : q.state = 0) (hend : q.endAt = none)
    (hwait : q.regWait.contains home = true) :
    takeRegAck home heat id (leNat (dTag q.desc)) true true p1 s = tryOpen heat id
      (modPour heat id (fun q => { q with regWait := q.regWait.filter (· ≠ home), p1 := q.p1 || p1 }) s) := by
  simp [takeRegAck, hq, hlead, hst, hend, List.contains_iff_mem.mp hwait]

theorem exec_openPour (p1 : Bool) (hlead : q.lead = false) (hst : q.state = 0) (hopen : q.openAt = none) :
    exec (.openPour heat id p1) s = .next (openHere heat id p1 s) := by
  change execOpenPour heat id p1 s = _
  simp [execOpenPour, hq, hlead, hst, hopen]

/-! ### Rounding reports and commit (R75, R76) -/

theorem takeReport_rounded {home fl : Nat} (hlead : q.lead = true) (hend : q.endAt = none)
    (hwait : q.roundWait.contains home = true) :
    takeReport home heat id 0 fl s = tryCommit heat id (noteRounding heat id (modPour heat id (fun q => { q with
      state := if q.state = 1 ∧ ¬ dRepublish q.desc then 2 else q.state, spilled := q.spilled || bitAt fl 4,
      roundWait := q.roundWait.filter (· ≠ home), flags := orFlags q.flags (flagsOf fl) }) s)) := by
  simp [takeReport, hq, hlead, hend, List.contains_iff_mem.mp hwait]

theorem exec_commitPour (hlead : q.lead = false) (hfirst : q.committed = false) (hlive : q.state ≤ 3) :
    exec (.commitPour heat id) s = .next (settleOne heat id (commitHere heat id s)) := by
  change execCommitPour heat id s = _
  simp [execCommitPour, hq, hlead, hfirst, Nat.not_lt.mpr hlive]

/-! ### Fenced members (R84) -/

theorem exec_fenceQuery (k : Nat) (hlead : q.lead = false) : exec (.fenceQuery heat id k) s
    = .next (emit (.ctl q.leadDev .fenceReply [ownDev s, heat, id, k, b2n (holdsMember q k s)] []) s) := by
  change execFenceQuery heat id k s = _
  simp [execFenceQuery, hq, hlead]

/-- The last home device asked has the member's whole contribution. -/
theorem takeFenceReply_last {home k : Nat} (hlead : q.lead = true) (hlive : q.state ≠ 7) (hend : q.endAt = none)
    (hask : q.queries.find? (fun x => x.1 = k) = some (k, [home])) :
    takeFenceReply home heat id k true s = markMember heat id k
      (modPour heat id (fun p => { p with queries := q.queries.filter fun y => y.1 ≠ k }) s) := by
  simp [takeFenceReply, hq, hask, hlead, hend, hlive]

theorem takeFenceReply_incomplete {home k : Nat} (hlead : q.lead = true) (hend : q.endAt = none)
    (hask : q.queries.find? (fun x => x.1 = k) = some (k, [home])) :
    takeFenceReply home heat id k false s = failPour heat id stMemberFenced 0 ((pMembers q s).getD k 0) s := by
  simp [takeFenceReply, hq, hask, hlead, hend]

/-! ### Ends (R77, R79, R80) -/

theorem exec_abortPour (st : Nat) (hlead : q.lead = false) (hend : q.endAt = none) (hlive : q.state ≠ 7) :
    exec (.abortPour heat id st) s = .next (emit (.ctl q.leadDev .abortAck [ownDev s, heat, id, roundedHere q] []) (trimSpill
      (modPour heat id (fun q => { q with state := 7, status := st, rounded := roundedHere q, chunks := [] }) s))) := by
  change execAbortPour heat id st s = _
  simp [execAbortPour, hq, hlead, hend, hlive]

/-- The last ABORT_ACK ends the Pour. -/
theorem exec_abortAck_last {home : Nat} (n : Nat) (hlead : q.lead = true) (hst : q.state = 7) (hend : q.endAt = none)
    (hwait : q.abortWait = [home]) : exec (.abortAck home heat id n) s
      = .next (endPour heat id (modPour heat id (fun q => { q with abortWait := [], rounded := q.rounded + n }) s)) := by
  change execAbortAck home heat id n s = _
  simp [execAbortAck, hq, hlead, hst, hend, hwait]

theorem exec_endPour_done (cause : Nat) (c : Bool) (hlead : q.lead = false) (hend : q.endAt = none) :
    exec (.endPour heat id stDone cause c) s = .next (tombstone heat id 5 stDone cause
      (modPour heat id (fun q => { q with committed := q.committed || c }) s)) := by
  change execEndPour heat id stDone cause c s = _
  simp [execEndPour, hq, hlead, hend]

end

/-! ### A row at its block home (R147) -/

@[simp] theorem engineWrite1_coord (gfa : Nat) (b : List Byte) (s : State) : (engineWrite1 gfa b s).coord = s.coord := by
  unfold engineWrite1
  dsimp only
  split
  · split <;> rfl
  · rfl

@[simp] theorem spanWrite_coord (gfa : Nat) (b : List Byte) (s : State) : (spanWrite gfa b s).coord = s.coord :=
  foldl_coord _ (fun _ _ => engineWrite1_coord _ _ _) _ s

@[simp] theorem raiseSomewhere_coord (bays : List Nat) (fl : AFlags) (s : State) :
    (raiseSomewhere bays fl s).coord = s.coord := by
  simp only [raiseSomewhere, raiseFlags, apply_ite State.coord, setReg_coord, useFree_coord, ite_self]

theorem applyRow_coord (j : RowJob) (t : EmbTable) (row : Nat) (gs : List Nat) (s : State) :
    (applyRow j t row gs s).2.coord = s.coord := by
  unfold applyRow
  split
  · rfl
  · simp only [incReg_coord, spanWrite_coord, raiseSomewhere_coord, apply_ite State.coord, ite_self]

/-- A row none of whose accesses fails is written and reported with the flags it raised; the report names this device, which writing
a row does not rename. -/
theorem exec_rowUpdate {peer heat id base rule rc step row : Nat} {d : List Nat} {t : EmbTable} {fl : AFlags} {s u : State}
    (ht : tableAt base s = some t) (hrow : row < t.rows) (hok : rowFaults t row s = [])
    (hrun : applyRow { heat := heat, pourId := id, base := base, rule := rule, rc := rc, step := step } t row d
      { s with upd := { s.upd with tables := s.upd.tables.map fun x => if x.base = base then { x with lastPour := id } else x } }
        = (fl, u)) :
    exec (.rowUpdate peer heat id base rule rc step row d) s
      = .next (emit (.ctl peer .roundDone [ownDev s, heat, id, 2, flagBits fl] []) u) := by
  have hdev : ownDev u = ownDev s := by
    have hu := applyRow_coord { heat := heat, pourId := id, base := base, rule := rule, rc := rc, step := step } t row d
      { s with upd := { s.upd with tables := s.upd.tables.map fun x => if x.base = base then { x with lastPour := id } else x } }
    rw [hrun] at hu
    exact ownDev_congr hu
  change execRowUpdate peer heat id base rule rc step row d s = _
  simp [execRowUpdate, ht, Nat.not_le.mpr hrow, hok, hrun, hdev]

/-- Settles O39: each message does what its operation does where none of its refusals applies; a row's report still names this
device, since a row written leaves the coordinates alone. -/
theorem pourMessagesComplete : Obligations.PourMessagesComplete := by
  intro s heat id q
  refine ⟨?register, fun hq => ⟨?rounded, ?regAck, ?openPour, ?roundDone, ?commit, ?fenceQuery, ?fenceReply, ?abort, ?abortAck,
    ?endPour⟩, ?rowUpdate⟩
  case register =>
    intro lead desc step rd sd p t hnew hsets htag hroom hrun hcheck hhome hp
    exact congrArg Host.Outcome.next (takeRegister_of_takeHome hnew hsets htag hroom hrun hcheck hhome hp)
  case rounded =>
    intro c res rows fl t hst hlive hpat hready hround
    exact congrArg Host.Outcome.next (roundHere_of_ok hq hst hlive hpat hready hround)
  case regAck =>
    intro home hlead hst hend hwait
    exact ⟨_, congrArg Host.Outcome.next (takeRegAck_of_agreement hq false hlead hst hend hwait), rfl⟩
  case openPour => exact fun p1 => exec_openPour hq p1
  case roundDone =>
    intro home fl hlead hend hwait
    exact congrArg Host.Outcome.next (takeReport_rounded hq hlead hend hwait)
  case commit => exact exec_commitPour hq
  case fenceQuery => exact fun k => exec_fenceQuery hq k
  case fenceReply =>
    intro home k hlead hlive hend hask
    exact ⟨congrArg Host.Outcome.next (takeFenceReply_last hq hlead hlive hend hask),
      congrArg Host.Outcome.next (takeFenceReply_incomplete hq hlead hend hask)⟩
  case abort => exact fun st => exec_abortPour hq st
  case abortAck => exact fun home n => exec_abortAck_last hq n
  case endPour => exact fun cause c => exec_endPour_done hq cause c
  case rowUpdate => exact fun _ _ _ _ _ _ _ _ _ _ => exec_rowUpdate

end Sys2Proof.Machine
end

section
/-! PROOF. Pour timeouts and tree messages do not all complete as stated: a deadline that finds its Pour ended (R79, R83). -/
namespace Sys2Proof.Machine

/-- A Pour that has ended on this device meets no deadline (R79). -/
theorem exec_pourDeadline_of_ended {s : State} {heat id t0 t1 : Nat} {q : Pour} (hq : pourOf heat id s = some q)
    (hopen : q.openAt = some t0) (hend : q.endAt = some t1) : exec (.pourDeadline heat id) s = .next s := by
  change execPourDeadline heat id s = _
  simp [execPourDeadline, hq, hopen, hend]

/-- What the clause on POUR_DEADLINE says, under the premises it leaves out. -/
theorem exec_pourDeadline_of_running {s : State} {heat id t0 : Nat} {q : Pour} (hq : pourOf heat id s = some q)
    (hopen : q.openAt = some t0) (hlead : q.lead = true) (hdl : dDeadline q.desc ≠ 0) (hst : 1 ≤ q.state)
    (hrun : q.committed = false) (hend : q.endAt = none) :
    exec (.pourDeadline heat id) s = .next (missDeadline heat id (advanceTo (t0 + dDeadline q.desc) s)) := by
  change execPourDeadline heat id s = _
  simp [execPourDeadline, hq, hopen, hlead, hdl, Nat.one_le_iff_ne_zero.mp hst, hrun, hend]

/-- A lead's Pour that is open, of deadline 1 ns, and has ended. -/
def endedPour : Pour :=
  { heat := 5, pourId := 9, desc := List.replicate 32 0 ++ leBytes 4 1 ++ List.replicate 28 0, lead := true, leadDev := 0, step := 1,
    state := 1, openAt := some 0, endAt := some 0 }

/-- A device at time 0 that holds it. -/
def endedHere : State := { State.reset with pour := { pours := [endedPour] } }

theorem pourOf_endedHere : pourOf 5 9 endedHere = some endedPour := rfl

/-- Refutes O40: the clause on POUR_DEADLINE asks that the Pour is in states 1 to 3, and not that it has neither committed nor
ended, which the event asks and which the state number alone does not say of every state. At `endedHere` the event changes nothing,
where the clause has time pass to the deadline; `exec_pourDeadline_of_running` is the clause with the two premises. -/
theorem not_pourTimersComplete : ¬ Obligations.PourTimersComplete := by
  intro h
  obtain ⟨-, -, hdeadline, -⟩ := (h endedHere 5 9 endedPour).1 pourOf_endedHere
  have hmiss := hdeadline 0 rfl rfl (by decide) (by decide) (by decide)
  rw [exec_pourDeadline_of_ended pourOf_endedHere rfl rfl, Host.Outcome.next.injEq] at hmiss
  have hnow : (0 : Nat) = 1 := congrArg (fun t : State => t.time.now) hmiss
  exact absurd hnow (by decide)

end Sys2Proof.Machine
end

section
/-! PROOF. Layer commands complete (R95 to R98, R102, R121 to R123, R128). -/
namespace Sys2Proof.Machine

@[simp] theorem segOf_putSeg (i : Nat) (g : Seg) (s : State) : segOf i (putSeg i g s) = some g := by
  simp [segOf, putSeg, tabFind_tabPut]

section
variable {m : CmdMeta} {s : State} {i : Nat} {g : Seg}

/-! ### A segment is defined and sealed (R95, R102, R128) -/

/-- The index is free, or its segment is still being defined. -/
theorem exec_layerSegBegin {heat d t : Nat} (hi : i ≤ 15) (ht : Takes m 0x0700 s) (hd : 1 ≤ d) (hd' : d ≤ 1024) (hn : 1 ≤ t)
    (hn' : t ≤ 1024) (hst : ∀ g, segOf i s = some g → g.state = .defining) : exec (.layerSegBegin m heat i d t) s =
      .next (done (refOf m 0x0700) (putSeg i { state := .defining, heat := heat, nDesc := d, nTens := t } s)) := by
  change execLayerSegBegin m heat i d t s = _
  have hpar : ¬ (i > 15 ∨ d = 0 ∨ t = 0) := by omega
  have hroom : ¬ (d > 1024 ∨ t > 1024) := by omega
  cases hg : segOf i s with
  | none => simp [execLayerSegBegin, command_of_takes ht, hpar, hroom, hg]
  | some g => simp [execLayerSegBegin, command_of_takes ht, hpar, hroom, hg, hst g hg]

/-- The checks of LAYER_TENSOR_WRITE and LAYER_DESC_WRITE pass. -/
theorem writeEntries_of_defining {first : Nat} {es : List Nat} {resvOk : List Byte → Bool} {limit : Seg → Nat} (hi : i ≤ 15)
    (hne : es ≠ []) (hlen : es.length ≤ 60) (hg : segOf i s = some g) (hst : g.state = .defining)
    (hres : ∀ e ∈ es, resvOk (leBytes 32 e) = true) (hfit : first + es.length ≤ limit g) (c : CmdRef) (k : Seg → Seg) :
    writeEntries c i first es resvOk limit k s = done c (putSeg i (k g) s) := by
  have hlen' : ¬ (es = [] ∨ es.length > 60) := by simp [hne, hlen]
  have hpar : ¬ (i > 15 ∨ (!es.all fun e => resvOk (leBytes 32 e)) = true) := by simpa using ⟨hi, hres⟩
  simp only [writeEntries, if_neg hlen', if_neg hpar, hg, if_neg (not_not_intro hst), if_neg (Nat.not_lt.mpr hfit)]

theorem exec_layerTensorWrite {first : Nat} {es : List Nat} (hi : i ≤ 15) (hne : es ≠ []) (hlen : es.length ≤ 60)
    (hg : segOf i s = some g) (hst : g.state = .defining) (ht : Takes m 0x0701 s)
    (hres : ∀ e ∈ es, tensorResvOk (leBytes 32 e) = true) (hfit : first + es.length ≤ g.nTens) :
    exec (.layerTensorWrite m i first es) s =
      .next (done (refOf m 0x0701) (putSeg i { g with tens := putEntries g.tens first es } s)) := by
  change execLayerTensorWrite m i first es s = _
  rw [execLayerTensorWrite, command_of_takes ht, writeEntries_of_defining hi hne hlen hg hst hres hfit]

theorem exec_layerDescWrite {first : Nat} {es : List Nat} (hi : i ≤ 15) (hne : es ≠ []) (hlen : es.length ≤ 60)
    (hg : segOf i s = some g) (hst : g.state = .defining) (ht : Takes m 0x0702 s)
    (hres : ∀ e ∈ es, ldResvOk (leBytes 32 e) = true) (hfit : first + es.length ≤ g.nDesc) :
    exec (.layerDescWrite m i first es) s =
      .next (done (refOf m 0x0702) (putSeg i { g with descs := putEntries g.descs first es } s)) := by
  change execLayerDescWrite m i first es s = _
  rw [execLayerDescWrite, command_of_takes ht, writeEntries_of_defining hi hne hlen hg hst hres hfit]

/-- The digest of a segment's tables, which sealing answers (R102). -/
def segDigest (g : Seg) : List Byte := shake256 64 ((segTens g).flatten ++ (segDescs g).flatten)

theorem exec_layerSegSeal (hi : i ≤ 15) (ht : Takes m 0x0703 s) (hg : segOf i s = some g) (hst : g.state = .defining)
    (hc : sealCheck g = none) : exec (.layerSegSeal m i) s = .next (answer (refOf m 0x0703) stDone (segDigest g)
      (putSeg i { g with state := .closed, digest := segDigest g } s)) := by
  change execLayerSegSeal m i s = _
  simp [execLayerSegSeal, command_of_takes ht, Nat.not_lt.mpr hi, hg, hst, hc, segDigest]

/-! ### Placement and removal (R96, R98) -/

theorem exec_layerSegPlace {bays rows : Nat} (hi : i ≤ 15) (ht : TakesLong m 0x0704 s) (hg : segOf i s = some g)
    (hst : g.state = .closed) (hb : 1 ≤ bays) (hb' : bays ≤ 100) (hr : 1 ≤ rows) (hr' : rows ≤ 16777216) :
    exec (.layerSegPlace m i bays rows) s =
      .next (startPlace i g (some (refOf m 0x0704)) bays rows (accepted (refOf m 0x0704) s)) := by
  change execLayerSegPlace m i bays rows s = _
  have hpar : ¬ (i > 15 ∨ bays = 0 ∨ bays > 100 ∨ rows = 0 ∨ rows > 16777216) := by omega
  simp [execLayerSegPlace, command_of_takes ht.1, hpar, hg, hst, accept_of_takesLong ht]

theorem exec_layerSegRemove (hi : i ≤ 15) (ht : TakesLong m 0x0705 s) (hg : segOf i s = some g) (hp : g.state ≠ .placing)
    (hr : g.state ≠ .removing) (hrun : g.running = none) (hq : g.queue = []) :
    exec (.layerSegRemove m i) s = .next (beginRemove i g (refOf m 0x0705) (accepted (refOf m 0x0705) s)) := by
  change execLayerSegRemove m i s = _
  simp [execLayerSegRemove, command_of_takes ht.1, Nat.not_lt.mpr hi, hg, hp, hr, hrun, hq, accept_of_takesLong ht]

/-! ### Runs (R121, R123) -/

/-- The run LAYER_RUN queues: its operands, with the step its Heat is in (R336). -/
theorem exec_layerRun {pass tag fwd rows first last dl : Nat} {pairs : List (Nat × Nat)} (hi : i ≤ 15) (ht : TakesLong m 0x0706 s)
    (hg : segOf i s = some g) (hst : g.state = .placed) (hpass : pass ≤ 2) (hlen : pairs.length ≤ 8) (hr : 1 ≤ rows)
    (hr' : rows ≤ g.maxRows) (hfl : first ≤ last) (hlast : last < g.nDesc)
    (hpairs : ∀ p ∈ pairs, pairOkRun g pass first last p.1 = true ∧ gResv p.2 = 0) (hheat : s.det.paused.contains g.heat = false)
    (hroom : g.queue.length + b2n g.running.isSome < 4) :
    exec (.layerRun m g.heat i pass tag fwd rows first last dl pairs) s = .next (queueRun i
      { cmd := refOf m 0x0706, heat := g.heat, pass := pass, tag := tag, fwd := fwd, rows := rows, first := first, last := last,
        deadline := dl, pairs := pairs, step := tabGet 0 s.det.steps g.heat } g.bays (accepted (refOf m 0x0706) s)) := by
  change execLayerRun m g.heat i pass tag fwd rows first last dl pairs s = _
  have hpar : ¬ (i > 15 ∨ pass > 2 ∨ pairs.length > 8) := by omega
  have hrun : ¬ (g.heat ≠ g.heat ∨ rows = 0 ∨ rows > g.maxRows ∨ first > last ∨ last ≥ g.nDesc ∨
      pairs.any (fun p => !pairOkRun g pass first last p.1 || gResv p.2 ≠ 0) = true) := by
    simpa using ⟨Nat.ne_of_gt hr, hr', hfl, hlast, fun _ _ hp => hpairs _ hp⟩
  have hplace : ¬ g.queue.length + (if g.running.isSome then 1 else 0) ≥ 4 := Nat.not_le.mpr hroom
  simp only [execLayerRun, command_of_takes ht.1, if_neg hpar, hg, if_neg (not_not_intro hst), if_neg hrun, hheat,
    if_neg Bool.false_ne_true, if_neg hplace, accept_of_takesLong ht]

theorem exec_layerAbort (hi : i ≤ 15) (ht : Takes m 0x0707 s) (hg : segOf i s = some g) (hst : g.state = .placed) :
    exec (.layerAbort m g.heat i) s = .next (done (refOf m 0x0707) (abortRuns i g s)) := by
  change execLayerAbort m g.heat i s = _
  simp [execLayerAbort, command_of_takes ht, Nat.not_lt.mpr hi, hg, hst]

/-! ### Queries and saved activations (R118, R127, R128) -/

theorem exec_layerQuery (ht : Takes m 0x0708 s) (hg : segOf i s = some g) :
    exec (.layerQuery m i) s = .next (answer (refOf m 0x0708) stDone (segBody g) s) := by
  change execLayerQuery m i s = _
  simp [execLayerQuery, command_of_takes ht, hg]

/-- No pass-1 run is there to read the activations that are given up. -/
theorem exec_layerSavedRelease {tag : Nat} (hi : i ≤ 15) (ht : Takes m 0x0709 s) (hg : segOf i s = some g)
    (hst : g.state = .placed) (htag : g.savedTag = some tag) (hrun : ∀ rs, g.running = some rs → rs.run.pass ≠ 1) :
    exec (.layerSavedRelease m i tag) s = .next (done (refOf m 0x0709)
      (modSeg i (fun g => { g with saved := [], savedTag := none, savedGfa := [] }) s)) := by
  change execLayerSavedRelease m i tag s = _
  have hread : g.running.any (fun rs => rs.run.pass = 1) = false := by simpa [Option.any_eq_false] using hrun
  simp [execLayerSavedRelease, command_of_takes ht, Nat.not_lt.mpr hi, hg, hst, htag, hread]

theorem exec_layerStats (ht : Takes m 0x070A s) :
    exec (.layerStats m) s = .next (answer (refOf m 0x070A) stDone (readWords 0x70000010 4 s) s) :=
  command_of_takes ht fun c s => answer c stDone (readWords 0x70000010 4 s) s

end

/-- Settles O22: each command passes its checks under the clause's conditions and does the one thing they lead to; the segment that
LAYER_SEG_SEAL and LAYER_SAVED_RELEASE leave is then read back. -/
theorem layerCommandsComplete : Obligations.LayerCommandsComplete := by
  intro m s i hi
  refine ⟨?begins, ?writes, ?seals, ?places, ?removes, ?runs, ?aborts, ?queries, ?releases, exec_layerStats⟩
  case begins => exact fun _ _ _ => exec_layerSegBegin hi
  case writes =>
    exact fun _ _ _ hne hlen hg hst =>
      ⟨exec_layerTensorWrite hi hne hlen hg hst, exec_layerDescWrite hi hne hlen hg hst⟩
  case seals =>
    exact fun g ht hg hst hc => ⟨_, exec_layerSegSeal hi ht hg hst hc, segOf_putSeg _ _ _, rfl, rfl⟩
  case places => exact fun _ _ _ => exec_layerSegPlace hi
  case removes => exact fun _ => exec_layerSegRemove hi
  case runs => exact fun _ _ _ _ _ _ _ _ _ => exec_layerRun hi
  case aborts => exact fun _ => exec_layerAbort hi
  case queries => exact fun _ => exec_layerQuery
  case releases =>
    exact fun g tag ht hg hst htag hrun =>
      ⟨_, exec_layerSavedRelease hi ht hg hst htag hrun, by simp [hg], rfl, rfl⟩

end Sys2Proof.Machine
end

section
/-! PROOF. Update commands complete (R129, R132, R133, R139, R141, R148, R149). -/
namespace Sys2Proof.Machine

section
variable {m : CmdMeta} {s : State} {base : Nat}

/-! ### Rules of the update engine (R129, R130) -/

theorem exec_updRuleSet {i : Nat} {e : List Byte} (ht : Takes m 0x0800 s) (hi : 1 ≤ i) (hi' : i ≤ 1023) (hok : ruleOk e = true)
    (hfree : pourUses (fun p => (pourOp p = 9 || pourOp p = 10) && pourRule p = i) s = false) :
    exec (.updRuleSet m i e) s = .next (answer (refOf m 0x0800) stDone (ruleDigest e)
      { s with upd := { s.upd with rules := tabPut s.upd.rules i e } }) := by
  change execUpdRuleSet m i e s = _
  simp [execUpdRuleSet, command_of_takes ht, Nat.one_le_iff_ne_zero.mp hi, Nat.not_lt.mpr hi', hok, hfree]

theorem exec_updRuleRead {i : Nat} (ht : Takes m 0x0801 s) (hi : 1 ≤ i) (hi' : i ≤ 1023) :
    exec (.updRuleRead m i) s = .next (answer (refOf m 0x0801) stDone
      (tabGet (List.replicate 32 0) s.upd.rules i ++ ruleDigest (tabGet (List.replicate 32 0) s.upd.rules i)) s) := by
  change execUpdRuleRead m i s = _
  simp [execUpdRuleRead, command_of_takes ht, hi, hi']

/-! ### Dense update states (R132, R139) -/

/-- A free place for a record is asked for even where the base GFA has a state already, which would need none. -/
theorem exec_updStateDefine {heat n kind slot t : Nat} (ht : Takes m 0x0810 s) (hn : 1 ≤ n) (hn' : n ≤ 2 ^ 40) (hk : 1 ≤ kind)
    (hk' : kind ≤ 3) (hslot : slot ≤ 1) (hcls : gCls base = 0 ∨ gCls base = 2) (hresv : gResv base = 0) (hoff : gOff base = 0)
    (hrange : rangeStatus heat base (stateBytes n kind) s = none)
    (hfree : pourUses (fun p => pourOp p = 9 && pourBase p = base) s = false) (hroom : updRoom s = true) :
    exec (.updStateDefine m heat base n kind slot t) s = .next (answer (refOf m 0x0810) stDone
      (stateDigest { heat := heat, base := base, elems := n, kind := kind, slot := slot, t := t })
      { s with upd := { s.upd with states := (s.upd.states.filter fun x => x.base ≠ base) ++
        [{ heat := heat, base := base, elems := n, kind := kind, slot := slot, t := t }] } }) := by
  change execUpdStateDefine m heat base n kind slot t s = _
  have hpar : ¬ (n = 0 ∨ n > 2 ^ 40 ∨ kind = 0 ∨ kind > 3 ∨ slot > 1 ∨ (gCls base ≠ 0 ∧ gCls base ≠ 2) ∨
      gResv base ≠ 0 ∨ gOff base ≠ 0) := by omega
  simp only [execUpdStateDefine, command_of_takes ht, if_neg hpar, hrange, hfree, hroom, if_neg Bool.false_ne_true,
    not_true, and_false, if_false]

theorem exec_updStateQuery {u : UpdState} (ht : Takes m 0x0812 s) (hu : stateAt base s = some u) :
    exec (.updStateQuery m base) s = .next (answer (refOf m 0x0812) stDone (packFields [(1, u.slot), (4, u.t)] ++ stateDigest u
      ++ packFields [(4, u.lastPour), (1, b2n u.canRevert)]) s) := by
  change execUpdStateQuery m base s = _
  simp only [execUpdStateQuery, command_of_takes ht, hu]

theorem exec_updStateRevert {u : UpdState} (ht : Takes m 0x0813 s) (hu : stateAt base s = some u) (hrev : u.canRevert = true)
    (hfree : pourUses (fun p => pourOp p = 9 && pourBase p = base) s = false) :
    exec (.updStateRevert m base) s = .next (answer (refOf m 0x0813) stDone (packFields [(1, 1 - u.slot), (4, u.prevT)])
      (incReg .upRevertCnt 0 (modState base (fun _ => { u with slot := 1 - u.slot, t := u.prevT, canRevert := false }) s))) := by
  change execUpdStateRevert m base s = _
  simp [execUpdStateRevert, command_of_takes ht, hu, hrev, hfree]

theorem exec_updStateFree {u : UpdState} (ht : Takes m 0x0814 s) (hu : stateAt base s = some u)
    (hfree : pourUses (fun p => pourOp p = 9 && pourBase p = base) s = false) :
    exec (.updStateFree m base) s = .next (done (refOf m 0x0814)
      { s with upd := { s.upd with states := s.upd.states.filter fun x => x.base ≠ base } }) := by
  change execUpdStateFree m base s = _
  simp [execUpdStateFree, command_of_takes ht, hu, hfree]

/-! ### Masks of a state (R133) -/

/-- The masks of a state but for a region. -/
def masksBut (r : Nat) (u : UpdState) : List MaskRegion := u.masks.filter fun x => x.region ≠ r

/-- No other region overlaps the elements that are masked. -/
theorem masksBut_clear_of_disjoint {r o len : Nat} {u : UpdState}
    (hdis : ∀ x ∈ u.masks, x.region ≠ r → x.o + x.k * x.n ≤ o ∨ o + len ≤ x.o) :
    (masksBut r u).any (fun x => decide (o < x.o + x.k * x.n) && decide (x.o < o + len)) = false := by
  simp only [List.any_eq_false, masksBut, List.mem_filter, Bool.and_eq_true, decide_eq_true_eq]
  rintro x ⟨hx, hr⟩
  have := hdis x hx hr
  omega

theorem exec_updStateMask_set {r o k n kind bitmap : Nat} {u : UpdState} (ht : Takes m 0x0811 s) (hu : stateAt base s = some u)
    (hr : r ≤ 15) (hkind : kind ≤ 1) (hk : 1 ≤ k) (hn : 1 ≤ n) (hfit : o + k * n ≤ u.elems)
    (hdis : ∀ x ∈ u.masks, x.region ≠ r → x.o + x.k * x.n ≤ o ∨ o + k * n ≤ x.o)
    (hfree : pourUses (fun p => pourOp p = 9 && pourBase p = base) s = false)
    (hrange : rangeStatus u.heat bitmap (ceilDiv (maskBits k n kind) 8) s = none) {u' : UpdState}
    (hu' : u' = { u with masks := masksBut r u ++
      [{ region := r, o := o, k := k, n := n, kind := kind, bitmap := spanRead bitmap (ceilDiv (maskBits k n kind) 8) s }] }) :
    exec (.updStateMask m base r o k n kind bitmap) s
      = .next (answer (refOf m 0x0811) stDone (stateDigest u') (modState base (fun _ => u') s)) := by
  change execUpdStateMask m base r o k n kind bitmap s = _
  have hset : kind ≠ 0xFF := by omega
  have hpar : ¬ (r > 15 ∨ (kind ≠ 0xFF ∧ kind > 1)) := by omega
  have hregion : ¬ (kind ≠ 0xFF ∧ (k = 0 ∨ n = 0 ∨ o + k * n > u.elems ∨
      (masksBut r u).any (fun x => decide (o < x.o + x.k * x.n) && decide (x.o < o + k * n)) = true)) := by
    simp only [masksBut_clear_of_disjoint hdis, Bool.false_eq_true, or_false]
    omega
  rw [masksBut] at hregion
  simp only [execUpdStateMask, command_of_takes ht, hu, if_neg hpar, if_neg hregion, hfree, if_neg Bool.false_ne_true,
    if_neg hset, hrange, hu', masksBut]

/-- The bounds and the bitmap of a region that is cleared are not looked at. -/
theorem exec_updStateMask_clear {r o k n bitmap : Nat} {u : UpdState} (ht : Takes m 0x0811 s) (hu : stateAt base s = some u)
    (hr : r ≤ 15) (hfree : pourUses (fun p => pourOp p = 9 && pourBase p = base) s = false) {u' : UpdState}
    (hu' : u' = { u with masks := masksBut r u }) : exec (.updStateMask m base r o k n 0xFF bitmap) s
      = .next (answer (refOf m 0x0811) stDone (stateDigest u') (modState base (fun _ => u') s)) := by
  change execUpdStateMask m base r o k n 0xFF bitmap s = _
  simp [execUpdStateMask, command_of_takes ht, hu, Nat.not_lt.mpr hr, hfree, hu', masksBut]

/-! ### Embedding tables (R141) -/

theorem exec_embTableDefine {t : EmbTable} {x : MSet} (ht : Takes m 0x0820 s) (hnew : t.lastPour = 0)
    (hok : tableOk t = true) (hset : tabFind s.pour.sets t.setIndex = some x) (hclosed : x.closed = true) (hhome : x.kind = 1)
    (hfree : pourUses (fun p => pourOp p = 10 && pourBase p = t.base) s = false)
    (hpages : ∀ p ∈ piecesOf t.base (tablePages t * pageBytes), engineCheck t.heat p.1 s ≠ some .denied)
    (hroom : updRoom s = true) :
    exec (.embTableDefine m t.heat t.base t.rows t.dim t.fmt t.kind t.buckets t.setIndex) s
      = .next (answer (refOf m 0x0820) stDone (tableDigest t)
        { s with upd := { s.upd with tables := (s.upd.tables.filter fun x => x.base ≠ t.base) ++ [t] } }) := by
  change execEmbTableDefine m t.heat t.base t.rows t.dim t.fmt t.kind t.buckets t.setIndex s = _
  have hrecord : EmbTable.mk t.heat t.base t.rows t.dim t.fmt t.kind t.buckets t.setIndex 0 = t := by rw [← hnew]
  have hheld : (piecesOf t.base (tablePages t * pageBytes)).any (fun p => engineCheck t.heat p.1 s = some .denied) = false := by
    simpa using fun a b => hpages (a, b)
  simp [execEmbTableDefine, command_of_takes ht, hrecord, hok, hset, hclosed, hhome, hfree, hheld, hroom]

theorem exec_embTableQuery {t : EmbTable} (ht : Takes m 0x0821 s) (htab : tableAt base s = some t) :
    exec (.embTableQuery m base) s = .next (answer (refOf m 0x0821) stDone (packFields [(4, t.heat), (8, t.base), (8, t.rows),
      (2, t.dim), (1, t.fmt), (1, t.kind), (4, t.buckets), (2, t.setIndex)] ++ tableDigest t ++ leBytes 4 t.lastPour) s) := by
  change execEmbTableQuery m base s = _
  simp only [execEmbTableQuery, command_of_takes ht, htab]

theorem exec_embTableFree {t : EmbTable} (ht : Takes m 0x0822 s) (htab : tableAt base s = some t)
    (hfree : pourUses (fun p => pourOp p = 10 && pourBase p = base) s = false) :
    exec (.embTableFree m base) s = .next (done (refOf m 0x0822)
      { s with upd := { s.upd with tables := s.upd.tables.filter fun x => x.base ≠ base } }) := by
  change execEmbTableFree m base s = _
  simp [execEmbTableFree, command_of_takes ht, htab, hfree]

/-! ### Statistics (R148) -/

theorem exec_updStats (ht : Takes m 0x0830 s) :
    exec (.updStats m) s = .next (answer (refOf m 0x0830) stDone (readWords 0x80000008 6 s) s) :=
  command_of_takes ht fun c s => answer c stDone (readWords 0x80000008 6 s) s

end

/-- Settles O24: each command passes its checks under the clause's conditions and does the one thing they lead to; a new mask region
passes for the others because it overlaps none of them. -/
theorem updateCommandsComplete : Obligations.UpdateCommandsComplete := by
  intro m s
  refine ⟨?ruleSet, ?ruleRead, ?stateDefine, ?maskSet, ?maskClear, ?stateQuery, ?stateRevert, ?stateFree, ?tableDefine,
    ?tableQuery, ?tableFree, exec_updStats⟩
  case ruleSet => exact fun _ _ => exec_updRuleSet
  case ruleRead => exact fun _ => exec_updRuleRead
  case stateDefine => exact fun _ _ _ _ _ _ => exec_updStateDefine
  case maskSet =>
    exact fun _ _ _ _ _ _ _ _ ht hu hr hkind hk hn hfit hdis hfree hrange =>
      ⟨_, exec_updStateMask_set ht hu hr hkind hk hn hfit hdis hfree hrange rfl, rfl⟩
  case maskClear => exact fun _ _ _ _ _ _ _ ht hu hr hfree => ⟨_, exec_updStateMask_clear ht hu hr hfree rfl, rfl⟩
  case stateQuery => exact fun _ _ => exec_updStateQuery
  case stateRevert => exact fun _ _ => exec_updStateRevert
  case stateFree => exact fun _ _ => exec_updStateFree
  case tableDefine => exact fun _ _ => exec_embTableDefine
  case tableQuery => exact fun _ _ => exec_embTableQuery
  case tableFree => exact fun _ _ => exec_embTableFree

end Sys2Proof.Machine
end

section
/-! PROOF. Fabric addresses and Pattern Book entries read back as they were built (R155, R157). -/
namespace Sys2Proof.Machine

theorem bitsOf_eq_div_mod (v hi lo : Nat) : bitsOf v hi lo = v / 2 ^ lo % 2 ^ (hi + 1 - lo) := by
  rw [bitsOf, Nat.shiftRight_eq_div_pow]

theorem b2n_lt_two (b : Bool) : b2n b < 2 := by cases b <;> decide

/-- A bit is the field of width 1 at its place. -/
theorem bitAt_eq_iff (v i : Nat) (b : Bool) : bitAt v i = b ↔ v / 2 ^ i % 2 = b2n b := by
  rw [bitAt, Nat.testBit_eq_decide_div_mod_eq]
  cases b <;> simp [b2n]

/-- The fields of an address lie side by side from bit 0 to bit 63, and its page number spans book device and entry (R155). -/
theorem pageGfa_fields {cls book entry off : Nat} (hcls : cls < 16) (hbook : book < 2 ^ 12) (hentry : entry < 2 ^ 23)
    (hoff : off < 2 ^ 21) :
    gCls (pageGfa cls (book * 2 ^ 23 + entry) + off) = cls ∧ gResv (pageGfa cls (book * 2 ^ 23 + entry) + off) = 0 ∧
    gBook (pageGfa cls (book * 2 ^ 23 + entry) + off) = book ∧ gEntry (pageGfa cls (book * 2 ^ 23 + entry) + off) = entry ∧
    gOff (pageGfa cls (book * 2 ^ 23 + entry) + off) = off ∧
    gPage (pageGfa cls (book * 2 ^ 23 + entry) + off) = book * 2 ^ 23 + entry ∧
    pageBook (book * 2 ^ 23 + entry) = book ∧ pageEntry (book * 2 ^ 23 + entry) = entry := by
  simp only [gCls, gResv, gBook, gEntry, gOff, gPage, pageBook, pageEntry, pageGfa, bitsOf_eq_div_mod]
  norm_num at *
  omega

/-- The fields of an entry do not overlap, so that each is cut out of their sum by its place and width (R157). -/
theorem entOfBits_entBits {e : PageEnt} (hst : e.state < 4) (hcls : e.cls < 4) (hhome : e.home < 2 ^ 12) (hmirror : e.mirror < 2 ^ 12)
    (hframe : e.frame < 2 ^ 18) (hcnt : e.hotCnt < 2 ^ 6) (hdev : e.hotDev < 2 ^ 12) (hgen : e.gen < 2 ^ 16)
    (howner : e.owner < 2 ^ 32) : entBits e < 2 ^ 128 ∧ entOfBits (entBits e) = e := by
  obtain ⟨state, cls, rw', mig, degraded, home, mirror, frame, hotCnt, hotDev, gen, owner⟩ := e
  have hrw := b2n_lt_two rw'
  have hmig := b2n_lt_two mig
  have hdeg := b2n_lt_two degraded
  simp only [entBits, entOfBits, bitsOf_eq_div_mod, bitAt_eq_iff, PageEnt.mk.injEq] at *
  generalize b2n rw' = bit4, b2n mig = bit5, b2n degraded = bit6 at *
  norm_num at *
  omega

/-- Settles O51: by the places and widths of the fields of an address and of an entry. -/
theorem addressesAndEntriesSpellTheirFields : Obligations.AddressesAndEntriesSpellTheirFields :=
  ⟨fun _ _ _ _ => pageGfa_fields, fun _ => entOfBits_entBits⟩

end Sys2Proof.Machine
end

section
/-! PROOF. HBM returns what was stored (R150, R151). -/
namespace Sys2Proof.Machine

theorem hbmRead_eq_map (f off n : Nat) (s : State) :
    hbmRead f off n s = (List.range n).map fun i => tabGet 0 s.mem.hbm (f * pageBytes + off + i) := tabRange_eq 0 _ _ n

theorem hbmRead_hbmWrite_same (f off : Nat) (b : List Byte) (s : State) : hbmRead f off b.length (hbmWrite f off b s) = b := by
  rw [hbmRead_eq_map]
  refine List.ext_getElem (by simp) fun i _ hi => ?_
  rw [List.getElem_map, List.getElem_range, hbm_after_hbmWrite, if_pos (by omega), Nat.add_sub_cancel_left,
    List.getD_eq_getElem _ _ hi]

/-- Bytes outside the stored ones, of this frame or another, are read as before. -/
theorem hbmRead_hbmWrite_outside {f off g o n : Nat} {b : List Byte}
    (h : g * pageBytes + o + n ≤ f * pageBytes + off ∨ f * pageBytes + off + b.length ≤ g * pageBytes + o) (s : State) :
    hbmRead g o n (hbmWrite f off b s) = hbmRead g o n s := by
  simp only [hbmRead_eq_map]
  refine List.map_congr_left fun i hi => ?_
  have hin : i < n := List.mem_range.mp hi
  rw [hbm_after_hbmWrite, if_neg (by omega)]

/-- Settles O52: a byte read after a store is the stored one inside the range and the old one outside it, and only HBM changed. -/
theorem hbmReadsBackWhatWasStored : Obligations.HbmReadsBackWhatWasStored := fun f off b s =>
  ⟨hbmRead_hbmWrite_same f off b s, fun _ _ _ h => hbmRead_hbmWrite_outside h s, rfl, hbmWrite_wf f off b s⟩

end Sys2Proof.Machine
end

section
/-! PROOF. Forwarded requests, walks and invalidations complete (R159, R160, R252). -/
namespace Sys2Proof.Machine

section
variable {s : State} {src stream seq : Nat}

/-! ### Forwarded requests (R252) -/

/-- A copy that is dropped is no longer found. -/
theorem entryCopy_dropCopy (src stream seq : Nat) (s : State) : entryCopy src stream seq (dropCopy src stream seq s) = none := by
  refine List.find?_eq_none.mpr fun e he hfound => ?_
  have hkept := (List.mem_filter.mp he).2
  simp [hfound] at hkept

/-- The entry device after word that a request was performed: the home has its acknowledgement, the copy is gone, and the request is
known as done. -/
def fwdPerformed (src stream seq home : Nat) (s : State) : State :=
  let s := dropCopy src stream seq (emit (.ctl home .fwdAck [src, stream, seq] []) s)
  { s with net := { s.net with fwdDone := s.net.fwdDone ++ [(src, stream, seq, home)] } }

theorem exec_fwdDone_performed {home cause : Nat} {e : EntryCopy} (he : entryCopy src stream seq s = some e) :
    exec (.fwdDone src stream seq home 0 cause) s
      = .next (releaseFwd src stream (gPage e.pkt.addr) (fwdPerformed src stream seq home s)) := by
  have hcopy : entryCopy src stream seq (emit (.ctl home .fwdAck [src, stream, seq] []) s) = some e := he
  change execFwdDone src stream seq home 0 cause s = _
  simp only [execFwdDone, hcopy, OfNat.zero_ne_ofNat, if_false, if_true, fwdPerformed]

theorem exec_fwdReforwardTimeout_sent {e : EntryCopy} (he : entryCopy src stream seq s = some e) (hsent : e.sent = true) :
    exec (.fwdReforwardTimeout src stream seq) s = .next (reforward e (advanceTo (e.at' + resendNs s) s)) := by
  change execFwdReforwardTimeout src stream seq s = _
  simp [execFwdReforwardTimeout, he, hsent]

/-- The home's entry of a request with the moment at which its confirmation was last sent. -/
def fwdDoneAgain (src stream seq : Nat) (s : State) : State :=
  { s with net := { s.net with fwdHome := s.net.fwdHome.map fun x =>
      if x.src = src ∧ x.stream = stream ∧ x.seq = seq then { x with at' := s.time.now } else x } }

theorem exec_fwdDoneResendTimeout_done {e : FwdHome}
    (he : s.net.fwdHome.find? (fun e => e.src = src && e.stream = stream && e.seq = seq && e.done) = some e) :
    exec (.fwdDoneResendTimeout src stream seq) s = .next (emit (.ctl e.entry .fwdDone [src, stream, seq, ownDev s, 0, 0] [])
      (fwdDoneAgain src stream seq (advanceTo (e.at' + resendNs s) s))) := by
  change execFwdDoneResendTimeout src stream seq s = _
  simp only [execFwdDoneResendTimeout, he, fwdDoneAgain]
  rfl

end

/-! ### Walks (R159) -/

section
variable {s : State} {peer g : Nat}

theorem exec_patternBookWalk_answered (hbook : servesBook (pageBook (gPage g)) s = true)
    (hst : (bookEntry (gPage g) s).state ≠ pgMoving) : exec (.patternBookWalk peer g) s
      = .next (emit (.ctl peer .walkReply [gPage g, entBits (bookEntry (gPage g) s)] []) s) := by
  change execPatternBookWalk peer g s = _
  simp [execPatternBookWalk, hbook, hst]

theorem exec_patternBookWalk_held (hbook : servesBook (pageBook (gPage g)) s = true)
    (hst : (bookEntry (gPage g) s).state = pgMoving) : exec (.patternBookWalk peer g) s
      = .next { s with mem := { s.mem with walkHeld := s.mem.walkHeld ++ [(gPage g, peer)] } } := by
  change execPatternBookWalk peer g s = _
  simp [execPatternBookWalk, hbook, hst]

/-! ### Invalidations and words on a page (R160, R175, R178, R179) -/

theorem exec_invalidation_copy {e : Nat} (hbook : servesBook (pageBook (gPage g)) s = true)
    (hhome : (bookEntry (gPage g) (keepCopy (gPage g) (entOfBits e) peer s)).home = peer) :
    exec (.invalidation g e peer .copy) s = .next (amendEntry (gPage g) (fun o => { o with degraded := (entOfBits e).degraded })
      (keepCopy (gPage g) (entOfBits e) peer s)) := by
  change execInvalidation g e peer .copy s = _
  simp [execInvalidation, hbook, hhome]

/-- Every word but an invalidation and a copy is the home's report. -/
theorem exec_invalidation_report {e : Nat} {n : PageNote} (hn : n = .lost ∨ n = .lostStack ∨ n = .mirrorFailed ∨ n = .moving ∨ n = .moved) :
    exec (.invalidation g e peer n) s = .next (homeReport (gPage g) n (entOfBits e) peer s) := by
  obtain rfl | rfl | rfl | rfl | rfl := hn <;> rfl

/-! ### Revalidation of the page cache (R160) -/

@[simp] theorem bookServer_advanceTo (b t : Nat) (s : State) : bookServer b (advanceTo t s) = bookServer b s := rfl

@[simp] theorem ownDev_advanceTo (t : Nat) (s : State) : ownDev (advanceTo t s) = ownDev s := rfl

theorem exec_pageCacheRevalidate (s : State) : exec .pageCacheRevalidate s = execPageCacheRevalidate s := rfl

theorem exec_pageCacheRevalidate_empty (h : s.mem.cache = []) :
    exec .pageCacheRevalidate s = .next (advanceTo ((s.time.now / 100000000 + 1) * 100000000) s) := by
  rw [exec_pageCacheRevalidate, execPageCacheRevalidate, advanceTo_mem, h, List.foldl_nil]

/-- A page whose book is elsewhere is walked for. -/
theorem exec_pageCacheRevalidate_one {pg d : Nat} {e : PageEnt} (h : s.mem.cache = [(pg, e)])
    (hd : bookServer (pageBook pg) s = some d) (hother : d ≠ ownDev s) : exec .pageCacheRevalidate s
      = .next (emit (.ctl d .walk [pg] []) (incReg .meCacheMiss 0 (advanceTo ((s.time.now / 100000000 + 1) * 100000000) s))) := by
  rw [exec_pageCacheRevalidate, execPageCacheRevalidate]
  rw [← advanceTo_mem ((s.time.now / 100000000 + 1) * 100000000) s] at h
  rw [← bookServer_advanceTo _ ((s.time.now / 100000000 + 1) * 100000000) s] at hd
  rw [← ownDev_advanceTo ((s.time.now / 100000000 + 1) * 100000000) s] at hother
  generalize advanceTo ((s.time.now / 100000000 + 1) * 100000000) s = t at *
  simp only [h, List.foldl_cons, List.foldl_nil, hd, if_neg hother]

end

/-- Settles O41: each event by what it does under the clause's conditions. -/
theorem forwardingEventsComplete : Obligations.ForwardingEventsComplete := by
  intro s src stream seq
  refine ⟨?done, ?ack, ?reforward, ?resend, ?walk, ?walkHeld, fun _ _ => rfl, ?invalidate, ?copy, ?report, fun _ _ => rfl,
    exec_pageCacheRevalidate_empty, ?revalidate⟩
  case done => exact fun home cause e he => ⟨_, exec_fwdDone_performed he, rfl, entryCopy_dropCopy src stream seq _, rfl⟩
  case ack => exact fun d => ⟨_, rfl, rfl, rfl, rfl⟩
  case reforward => exact fun e he hsent => exec_fwdReforwardTimeout_sent he hsent
  case resend => exact fun e he => ⟨_, exec_fwdDoneResendTimeout_done he, rfl, advanceTo_now _ _⟩
  case walk => exact fun peer g hbook hst => exec_patternBookWalk_answered hbook hst
  case walkHeld => exact fun peer g hbook hst => exec_patternBookWalk_held hbook hst
  case invalidate => rintro g e peer fresh _ rfl; rfl
  case copy => exact fun g e peer hbook hhome => exec_invalidation_copy hbook hhome
  case report => exact fun g e peer n hn => exec_invalidation_report hn
  case revalidate => exact fun pg e d h hd hother => ⟨_, exec_pageCacheRevalidate_one h hd hother, rfl⟩

end Sys2Proof.Machine
end

section
/-! PROOF. Page moves, stacks, frames and slice queries complete (R172, R173, R175 to R178, R181). -/
namespace Sys2Proof.Machine

section
variable {s : State} {g f : Nat}

/-! ### Moves of a page (R175, R176, R178) -/

theorem exec_migrationRemap_frozen {mv : Move}
    (h : s.mem.moves.find? (fun m => m.page = gPage g && m.kind = .migrate && m.frozen) = some mv) :
    exec (.migrationRemap g) s = .next (remapMoved (gPage g) mv s) := by
  change execMigrationRemap g s = _
  simp only [execMigrationRemap, h]

/-- The one listed frame is the stub: it is released at the stub's moment. -/
theorem exec_forwardingStubExpiry_one {d t : Nat} {r : FrameRec} (h : s.mem.frames = [(f, r)]) (huse : r.use = .stub (gPage g) d t) :
    exec (.forwardingStubExpiry g) s = .next (releaseFrame f (advanceTo t s)) := by
  change execForwardingStubExpiry g s = _
  simp [execForwardingStubExpiry, h, huse]

theorem exec_frameRetirementDone_copied {mv : Move} {r : FrameRec}
    (h : s.mem.moves.find? (fun m => m.old = f && m.kind = .retire) = some mv) (hrec : frameRec f s = some r) :
    exec (.frameRetirementDone f) s = .next (endRetire f mv r s) := by
  change execFrameRetirementDone f s = _
  simp only [execFrameRetirementDone, h, hrec]

theorem exec_mirrorResyncDone_copied {mv : Move}
    (h : s.mem.moves.find? (fun m => m.page = gPage g && m.kind = .resync) = some mv) :
    exec (.mirrorResyncDone g) s = .next (endResync (gPage g) mv s) := by
  change execMirrorResyncDone g s = _
  simp only [execMirrorResyncDone, h]

/-! ### Stacks and frames (R172, R181) -/

theorem exec_stackFailed_of_lt {st : Nat} (h : st < 12) : exec (.stackFailed st) s = .next (failStack st s) := by
  change execStackFailed st s = _
  simp only [execStackFailed, onUnit, h, decide_true, if_true]

/-- A released frame is free again once it is zeroed. -/
theorem exec_frameZeroed_released {r : FrameRec} (hf : f < frameTotal) (hrec : frameRec f s = some r) (huse : r.use = .zeroing) :
    exec (.frameZeroed f) s
      = .next (retryAllocs (wipeFrame f { s with mem := { s.mem with frames := tabDel s.mem.frames f } })) := by
  change execFrameZeroed f s = _
  simp only [execFrameZeroed, ge_iff_le, Nat.not_le.mpr hf, if_false, hrec, huse, if_true]

/-- A frame that holds nothing is zeroed for the first time after main power-on. -/
theorem exec_frameZeroed_fresh (hf : f < frameTotal) (hrec : frameRec f s = none) (hz : frameZeroed f s = false) :
    exec (.frameZeroed f) s = .next (retryAllocs { s with mem := { s.mem with bootZeroed := s.mem.bootZeroed ++ [f] } }) := by
  change execFrameZeroed f s = _
  simp only [execFrameZeroed, ge_iff_le, Nat.not_le.mpr hf, if_false, hrec, hz, Bool.false_eq_true]

/-! ### Slice queries and mirror confirmations (R173, R177) -/

theorem exec_sliceRecordReply_covers {peer : Nat} {j : FreeJob}
    (h : s.mem.frees.find? (fun j => j.pages.headD 0 = gPage g && j.awaiting.contains peer) = some j) :
    exec (.sliceRecordReply peer g true) s
      = .next (finish j.cmd stBadState [] { s with mem := { s.mem with frees := s.mem.frees.filter fun x => x ≠ j } }) := by
  change execSliceRecordReply peer g true s = _
  simp only [execSliceRecordReply, h, if_true]

/-- The last device that was asked has no record: the pages are freed. -/
theorem exec_sliceRecordReply_last {peer : Nat} {j : FreeJob}
    (h : s.mem.frees.find? (fun j => j.pages.headD 0 = gPage g && j.awaiting.contains peer) = some j) (hlast : j.awaiting = [peer]) :
    exec (.sliceRecordReply peer g false) s = .next (performFree { j with awaiting := [] }
      { s with mem := { s.mem with frees := s.mem.frees.filter fun x => x ≠ j } }) := by
  have hleft : j.awaiting.filter (· ≠ peer) = [] := by simp [hlast]
  change execSliceRecordReply peer g false s = _
  simp only [execSliceRecordReply, h, hleft, Bool.false_eq_true, if_false, if_true]

theorem exec_mirrorConfirm_awaited {src stream seq : Nat} {w : Packet × List Byte}
    (h : s.mem.mirrorWait.find? (fun w => w.1.src = src && w.1.stream = stream && w.1.seq = seq) = some w) :
    exec (.mirrorConfirm src stream seq) s = .next (endRequest w.1 (if w.2 = [] then .ack else .data w.2 0)
      { s with mem := { s.mem with mirrorWait := s.mem.mirrorWait.erase w } }) := by
  change execMirrorConfirm src stream seq s = _
  simp only [execMirrorConfirm, h]

end

/-- Settles O42: each event finds what the clause names and does what follows for it. -/
theorem pageEventsComplete : Obligations.PageEventsComplete := by
  intro s g
  refine ⟨rfl, ?remap, ?stub, ?retire, ?resync, ?stack, ?released, ?fresh, fun _ _ _ => rfl, ?reply, ?confirm⟩
  case remap => exact fun _ => exec_migrationRemap_frozen
  case stub => exact fun _ _ _ _ => exec_forwardingStubExpiry_one
  case retire => exact fun _ _ _ => exec_frameRetirementDone_copied
  case resync => exact fun _ => exec_mirrorResyncDone_copied
  case stack => exact fun _ => exec_stackFailed_of_lt
  case released => exact fun _ _ => exec_frameZeroed_released
  case fresh => exact fun _ => exec_frameZeroed_fresh
  case reply => exact fun _ _ h => ⟨exec_sliceRecordReply_covers h, exec_sliceRecordReply_last h⟩
  case confirm => exact fun _ _ _ _ => exec_mirrorConfirm_awaited

end Sys2Proof.Machine
end

section
/-! PROOF. Scrubbing, stack failure and the Shakeout writer complete (R181, R305, R414 to R417). -/
namespace Sys2Proof.Machine

section
variable {s : State}

/-! ### HBM (R414) -/

@[simp] theorem noteLines_mem (f n : Nat) (unc : List (Nat × Nat)) (s : State) : (noteLines f n unc s).mem = s.mem := rfl

@[simp] theorem noteLines_scrubPos (f n : Nat) (unc : List (Nat × Nat)) (s : State) :
    (noteLines f n unc s).rel.scrubPos = s.rel.scrubPos := rfl

/-- The corrected lines of a read are counted by the stack of its frame. -/
theorem hbCorrCnt_noteLines (f n : Nat) (unc : List (Nat × Nat)) (s : State) : reg .hbCorrCnt (stackOf f) (noteLines f n unc s)
    = min (reg .hbCorrCnt (stackOf f) s + n) (2 ^ fldWidth .hbCorrCnt - 1) := by
  change reg .hbCorrCnt (stackOf f) (addReg .hbUncorrCnt (stackOf f) unc.length (addReg .hbCorrCnt (stackOf f) n s)) = _
  rw [reg_addReg_fld _ _ (by simp), reg_addReg_self]

/-- The state in which the scrub of a frame notes its lines: the rotation has come to it, and where it began again a pass has ended. -/
def scrubbedTo (f : Nat) (s : State) : State :=
  let s := if f < s.rel.scrubPos then incReg .reScrubPassCnt 0 s else s
  { s with rel := { s.rel with scrubPos := f + 1 } }

@[simp] theorem scrubbedTo_mem (f : Nat) (s : State) : (scrubbedTo f s).mem = s.mem := by
  unfold scrubbedTo
  split <;> rfl

theorem hbCorrCnt_scrubbedTo (f i : Nat) (s : State) : reg .hbCorrCnt i (scrubbedTo f s) = reg .hbCorrCnt i s := by
  unfold scrubbedTo
  split
  · exact reg_incReg_fld s (by simp)
  · rfl

theorem exec_hbmScrub_corrected {f n : Nat} (hf : f < frameTotal) (hok : onFailed f s = false) (halloc : frameAllocated f s = true) :
    exec (.hbmScrub f n []) s = .next (noteLines f n [] (scrubbedTo f s)) := by
  change execHbmScrub f n [] s = _
  simp only [execHbmScrub, ge_iff_le, Nat.not_le.mpr hf, if_false, hok, halloc, Bool.true_or, Bool.not_true, Bool.or_self,
    Bool.false_eq_true, if_true, scrubbedTo]

/-! ### Stacks (R181, R415) -/

theorem exec_stackFailureDetected_new {st : Nat} (hst : st < 12) (hnew : s.mem.lostStacks.testBit st = false) :
    exec (.stackFailureDetected st) s = .next (declareStack st s) := by
  change execStackFailureDetected st s = _
  simp only [execStackFailureDetected, onUnit, hst, decide_true, if_true, hnew, Bool.false_eq_true, if_false]

/-! ### Flask SRAM and Tundish (R305, R414) -/

/-- A timed scrub runs at a whole multiple of its period. -/
theorem toBoundary_now_mod {period : Nat} (h : 0 < period) (s : State) : (toBoundary period s).time.now % period = 0 := by
  have hlt := Nat.mod_lt s.time.now h
  have hnext : s.time.now + (period - s.time.now % period) = period * (s.time.now / period + 1) := by
    have hsplit := Nat.div_add_mod s.time.now period
    rw [Nat.mul_add]
    omega
  change (s.time.now + (period - s.time.now % period) % period) % period = 0
  rw [Nat.add_mod_mod, hnext, Nat.mul_mod_right]

@[simp] theorem toBoundary_mem (period : Nat) (s : State) : (toBoundary period s).mem = s.mem := rfl

@[simp] theorem reg_toBoundary (f : Fld) (i period : Nat) (s : State) : reg f i (toBoundary period s) = reg f i s := rfl

/-- One Flask with corrected errors, as a scrub finds it at its moment. -/
def flaskScrubbed (u n : Nat) (s : State) : State :=
  addReg .reFlaskCorrCnt 0 n { s with rel := { s.rel with flaskErrs := noteErrs u n spanFlask s.time.now s.rel.flaskErrs } }

theorem exec_flaskSramScrub_one {u n : Nat} (hu : u < 10000) (hbay : reg .pwBayState (u / 100) s ≤ 1) :
    exec (.flaskSramScrub [(u, n)]) s = .next (flaskScrubbed u n (toBoundary 1000000000 s)) := by
  rw [← reg_toBoundary _ _ 1000000000 s] at hbay
  change execFlaskSramScrub [(u, n)] s = _
  unfold execFlaskSramScrub
  generalize toBoundary 1000000000 s = t at *
  simp only [List.filter_cons, List.filter_nil, hu, hbay, decide_true, Bool.and_self, if_true, List.foldl_cons, List.foldl_nil,
    flaskScrubbed]

@[simp] theorem modHalf_mem (d : Nat) (k : TundishHalf → TundishHalf) (s : State) : (modHalf d k s).mem = s.mem := by
  unfold modHalf; split <;> rfl

@[simp] theorem modHalf_time (d : Nat) (k : TundishHalf → TundishHalf) (s : State) : (modHalf d k s).time = s.time := by
  unfold modHalf; split <;> rfl

@[simp] theorem reg_modHalf (f : Fld) (i d : Nat) (k : TundishHalf → TundishHalf) (s : State) :
    reg f i (modHalf d k s) = reg f i s := by
  unfold modHalf; split <;> rfl

/-- The corrected errors of the 32 banks that a half has. -/
def correctedBanks (c : List (Nat × Nat)) : List (Nat × Nat) := c.filter fun e => decide (e.1 < 32)

/-- The uncorrectable errors of its banks. -/
def uncorrectedBanks (u : List (Nat × Nat)) : List (Nat × Nat) := u.filter fun e => decide (e.1 < 32) && e.2 ≠ 0

/-- What a scrub tells a half of its banks. -/
def banksScrubbed (c u : List (Nat × Nat)) (now : Nat) (h : TundishHalf) : TundishHalf :=
  { h with
    bankErrs := (correctedBanks c).foldl (fun l e => noteErrs e.1 e.2 spanBank now l) h.bankErrs
    bankBad := dedupNat (h.bankBad ++ (uncorrectedBanks u).map (·.1)) }

/-- The state at a Tundish scrub's moment with the half's errors counted, `unc` of them uncorrectable. -/
def tundishCounted (d cor unc : Nat) (s : State) : State :=
  noteCorrected cor (addReg .tuEccCorrCnt d cor (addReg .tuEccUncorrCnt d unc (toBoundary 10000000000 s)))

theorem tuEccCorrCnt_tundishCounted (d cor unc : Nat) (s : State) : reg .tuEccCorrCnt d (tundishCounted d cor unc s)
    = min (reg .tuEccCorrCnt d s + cor) (2 ^ fldWidth .tuEccCorrCnt - 1) := by
  change reg .tuEccCorrCnt d (addReg .tuEccCorrCnt d cor (addReg .tuEccUncorrCnt d unc (toBoundary 10000000000 s))) = _
  rw [reg_addReg_self, reg_addReg_fld _ _ (by simp), reg_toBoundary]

theorem exec_tundishScrub_half {d : Nat} (hd : d < 2) (c u : List (Nat × Nat)) :
    exec (.tundishScrub d c u) s = .next (modHalf d (banksScrubbed c u (toBoundary 10000000000 s).time.now)
      (tundishCounted d (sumNat ((correctedBanks c).map (·.2))) (sumNat ((uncorrectedBanks u).map (·.2))) s)) := by
  change execTundishScrub d c u s = _
  rw [execTundishScrub, if_neg (Nat.not_le.mpr hd)]
  rfl

/-! ### The Shakeout writer (R416, R417) -/

/-- The front event takes 10 ns: while the record is frozen it is counted lost, else it is written. -/
theorem exec_shakeoutWrite_cons {e : ShEntry} {r : List ShEntry} (hw : s.rel.writer = e :: r) : exec .shakeoutWrite s = .next
    (if flag .shFrozen 0 s then incReg .shLostCnt 0 (advance 10 { s with rel := { s.rel with writer := r } })
     else writeEntry e (advance 10 { s with rel := { s.rel with writer := r } })) := by
  change execShakeoutWrite s = _
  rw [execShakeoutWrite, hw]
  rfl

end

/-- Settles O29: each event by what it does to its counter and to time; none of the scrubs touches the memory's state. -/
theorem scrubEventsComplete : Obligations.ScrubEventsComplete := by
  intro s
  refine ⟨?hbm, fun _ => exec_stackFailureDetected_new, ?flask, ?tundish, ?writeOpen, ?writeFrozen⟩
  case hbm =>
    intro f n hf hok halloc
    refine ⟨_, exec_hbmScrub_corrected hf hok halloc, ?_, ?_, ?_⟩
    · simp [scrubbedTo]
    · simp
    · rw [hbCorrCnt_noteLines, hbCorrCnt_scrubbedTo]
  case flask =>
    intro u n hu hbay
    refine ⟨_, exec_flaskSramScrub_one hu hbay, ?_, ?_, ?_⟩
    · exact toBoundary_now_mod (by norm_num) s
    · rfl
    · exact reg_addReg_self _ _ _ _
  case tundish =>
    intro d c u hd
    refine ⟨_, exec_tundishScrub_half hd c u, ?_, ?_, ?_⟩
    · rw [modHalf_time]
      exact toBoundary_now_mod (by norm_num) s
    · rw [modHalf_mem]
      rfl
    · rw [reg_modHalf, tuEccCorrCnt_tundishCounted, correctedBanks]
  case writeOpen =>
    intro e r hw hf
    rw [exec_shakeoutWrite_cons hw, if_neg (by simp [hf])]
  case writeFrozen =>
    intro e r hw hf
    rw [exec_shakeoutWrite_cons hw, if_pos hf]

end Sys2Proof.Machine
end

section
/-! PROOF. Commands of the memory Shop's engines and tables complete (R157, R174, R183, R185). -/
namespace Sys2Proof.Machine

section
variable {m : CmdMeta} {s : State}

/-! ### The entry of a page (R157) -/

theorem exec_memPageQuery_elsewhere {g : Nat} (ht : Takes m 0x0503 s) (hok : gfaOk g = true) (hbook : bookServer (gBook g) s ≠ none)
    (hhome : homeFrame (gPage g) s = none) :
    exec (.memPageQuery m g) s = .next (answer (refOf m 0x0503) stDone (leBytes 16 (entBits (entryAt (gPage g) s))) s) := by
  change execMemPageQuery m g s = _
  simp [execMemPageQuery, command_of_takes ht, hok, hbook, hhome]

/-- The hot counters of a page homed here are the home map's. -/
theorem exec_memPageQuery_home {g f : Nat} {r : FrameRec} (ht : Takes m 0x0503 s) (hok : gfaOk g = true)
    (hbook : bookServer (gBook g) s ≠ none) (hhome : homeFrame (gPage g) s = some f) (hrec : frameRec f s = some r) :
    exec (.memPageQuery m g) s = .next (answer (refOf m 0x0503) stDone
      (leBytes 16 (entBits { entryAt (gPage g) s with hotCnt := r.hotCnt, hotDev := r.hotDev })) s) := by
  change execMemPageQuery m g s = _
  simp [execMemPageQuery, command_of_takes ht, hok, hbook, hhome, hrec]

/-! ### Weights and the migration switch (R174, R185) -/

/-- The state with the four weights of the controllers' arbiter stored. -/
def withWeights (wf wp wl we : Nat) (s : State) : State :=
  setReg .meWFettler 0 we (setReg .meWLayer 0 wl (setReg .meWPour 0 wp (setReg .meWFabric 0 wf s)))

/-- A weight fits the field of any of the four. -/
theorem weight_mod {f : Fld} {w : Nat} (hf : f ∈ [Fld.meWFabric, .meWPour, .meWLayer, .meWFettler]) (hw : w ≤ 255) :
    w % 2 ^ fldWidth f = w := by
  have hwidth : ∀ f ∈ [Fld.meWFabric, .meWPour, .meWLayer, .meWFettler], fldWidth f = 8 := by decide
  rw [hwidth f hf]
  omega

theorem exec_memArbSet_inRange {wf wp wl we : Nat} (ht : Takes m 0x0510 s) (hwf : 1 ≤ wf ∧ wf ≤ 255) (hwp : 1 ≤ wp ∧ wp ≤ 255)
    (hwl : 1 ≤ wl ∧ wl ≤ 255) (hwe : 1 ≤ we ∧ we ≤ 255) :
    exec (.memArbSet m wf wp wl we) s = .next (done (refOf m 0x0510) (withWeights wf wp wl we s)) := by
  change execMemArbSet m wf wp wl we s = _
  simp [execMemArbSet, command_of_takes ht, hwf, hwp, hwl, hwe, withWeights]

theorem onlyRegs_withWeights (wf wp wl we : Nat) (s : State) :
    OnlyRegs [(.meWFabric, 0), (.meWPour, 0), (.meWLayer, 0), (.meWFettler, 0)] s (withWeights wf wp wl we s) := by
  refine ⟨rfl, fun f i hnot => ?_⟩
  simp only [List.mem_cons, Prod.mk.injEq, List.not_mem_nil, or_false, not_or] at hnot
  obtain ⟨hfabric, hpour, hlayer, hfettler⟩ := hnot
  rw [withWeights, reg_setReg_ne _ _ hfettler, reg_setReg_ne _ _ hlayer, reg_setReg_ne _ _ hpour, reg_setReg_ne _ _ hfabric]

theorem exec_memMigrateCtrl_inRange {on : Nat} (ht : Takes m 0x0511 s) (hon : on ≤ 1) :
    exec (.memMigrateCtrl m on) s = .next (done (refOf m 0x0511) (setReg .meMigOn 0 on s)) := by
  change execMemMigrateCtrl m on s = _
  simp only [execMemMigrateCtrl, command_of_takes ht, hon, decide_true, requires_true]

/-! ### Statistics and the page cache (R183, R185) -/

theorem exec_memStats (ht : Takes m 0x0520 s) : exec (.memStats m) s
    = .next (answer (refOf m 0x0520) stDone (readWords 0x50000000 11 s ++ readWords 0x50000030 2 s) s) := by
  change execMemStats m s = _
  rw [execMemStats, command_of_takes ht]

theorem exec_memCacheFlush (ht : Takes m 0x0521 s) :
    exec (.memCacheFlush m) s = .next (done (refOf m 0x0521) { s with mem := { s.mem with cache := [] } }) :=
  command_of_takes ht fun c s => done c { s with mem := { s.mem with cache := [] } }

end

/-- Settles O20: each command passes its checks under the clause's conditions; a weight fits its field, so that it is read back. -/
theorem memoryShopCommandsComplete : Obligations.MemoryShopCommandsComplete := by
  intro m s
  refine ⟨?elsewhere, ?home, ?weights, ?migrate, exec_memStats, ?flush⟩
  case elsewhere => exact fun g => exec_memPageQuery_elsewhere
  case home => exact fun g f r => exec_memPageQuery_home
  case weights =>
    intro wf wp wl we ht hwf hwf' hwp hwp' hwl hwl' hwe hwe'
    refine ⟨_, exec_memArbSet_inRange ht ⟨hwf, hwf'⟩ ⟨hwp, hwp'⟩ ⟨hwl, hwl'⟩ ⟨hwe, hwe'⟩, ?_, ?_, ?_, ?_,
      onlyRegs_withWeights wf wp wl we s⟩
    all_goals simp [withWeights, weight_mod, hwf', hwp', hwl', hwe']
  case migrate =>
    intro on ht hon
    refine ⟨_, exec_memMigrateCtrl_inRange ht hon, ?_, onlyRegs_setReg _ _ _ s⟩
    rw [reg_setReg_self]
    exact Nat.mod_eq_of_lt (Nat.lt_succ_of_le hon)
  case flush => exact fun ht => ⟨_, exec_memCacheFlush ht, rfl, rfl⟩

end Sys2Proof.Machine
end

section
/-! PROOF. What port 56 sends leaves the fences alone (R280). -/
namespace Sys2Proof.Machine

/-! ### Cells, credit and queues -/

/-- A fold of steps that keep the fences keeps them. -/
theorem foldl_fenceDev {α : Type} (f : State → α → State) (h : ∀ s a, (f s a).route.fenceDev = s.route.fenceDev) (l : List α)
    (s : State) : (l.foldl f s).route.fenceDev = s.route.fenceDev :=
  List.foldlRecOn (motive := fun t : State => t.route.fenceDev = s.route.fenceDev) l f rfl fun t ht a _ => (h t a).trans ht

@[simp] theorem modHalf_route (d : Nat) (f : TundishHalf → TundishHalf) (s : State) : (modHalf d f s).route = s.route := by
  unfold modHalf; split <;> rfl

@[simp] theorem logEvent_route (a b c d : Nat) (e : List Byte) (s : State) : (logEvent a b c d e s).route = s.route := by
  unfold logEvent; split <;> rfl

@[simp] theorem giveCredit_route (l : Option Nat) (v n : Nat) (s : State) : (giveCredit l v n s).route = s.route := by
  unfold giveCredit; split <;> rfl

@[simp] theorem returnCredit_route (l v n : Nat) (s : State) : (returnCredit l v n s).route = s.route := by
  simp only [returnCredit, apply_ite State.route, addReg_route, ite_self]
  rfl

theorem holdCells_route {d p v c k : Nat} {l : Option Nat} {w id : Nat} {s t : State} (h : holdCells d p v c k l w s = some (id, t)) :
    t.route = s.route := by
  unfold holdCells at h
  split at h
  · cases h
  · split at h
    · cases h
    · cases h
      exact modHalf_route d _ s

@[simp] theorem dropHold_route (id : Nat) (s : State) : (dropHold id s).route = s.route := by
  unfold dropHold
  split
  · rfl
  · dsimp only
    split
    · rfl
    · split
      · rw [returnCredit_route]; exact modHalf_route _ _ s
      · exact modHalf_route _ _ s

@[simp] theorem noteNoRoom_route (d p v : Nat) (s : State) : (noteNoRoom d p v s).route = s.route := by
  simp only [noteNoRoom, apply_ite State.route, incReg_route, modHalf_route, logEvent_route, ite_self]

theorem noteEnqueue_route (i d : Nat) (s : State) : (noteEnqueue i d s).2.route = s.route := by
  unfold noteEnqueue
  split
  · rfl
  · split <;> rfl

@[simp] theorem enqueue_route (p v : Nat) (k : Packet) (c h : Nat) (s : State) : (enqueue p v k c h s).route = s.route := by
  unfold enqueue
  dsimp only
  split
  · rfl
  · exact noteEnqueue_route _ _ s

/-! ### A packet goes to the fabric, or is answered -/

theorem preparePath_route (l : Option Nat) (p : Packet) (s : State) : (preparePath l p s).2.route = s.route := by
  unfold preparePath
  split
  · rfl
  · split <;> rfl

/-- A hop moves the rotation among equal choices on, and nothing else of the routes. -/
@[simp] theorem noteHop_fenceDev (b : Bool) (h : Hop) (s : State) : (noteHop b h s).route.fenceDev = s.route.fenceDev := by
  unfold noteHop
  dsimp only
  split <;> split <;> split <;> rfl

theorem putFabric_fenceDev (b : Bool) (l : Option Nat) (v : Nat) (p : Packet) (s : State) :
    (putFabric b l v p s).state.route.fenceDev = s.route.fenceDev := by
  unfold putFabric
  split
  · simp [PutResult.state]
  · dsimp only
    split
    · simp [PutResult.state]
    · rename_i hcells
      simp [PutResult.state, holdCells_route hcells]

@[simp] theorem launch_fenceDev (p : Packet) (s : State) : (launch p s).route.fenceDev = s.route.fenceDev := by
  have h := putFabric_fenceDev true none (preparePath none p s).1.cls (preparePath none p s).1 (preparePath none p s).2
  rw [preparePath_route] at h
  unfold launch
  dsimp only
  split <;> rename_i heq <;> rwa [heq] at h

@[simp] theorem countResend_route (d : Nat) (s : State) : (countResend d s).route = s.route := rfl

@[simp] theorem resendNow_fenceDev (a b c : Nat) (s : State) : (resendNow a b c s).route.fenceDev = s.route.fenceDev := by
  unfold resendNow
  dsimp only
  rw [foldl_fenceDev _ fun s x => by simp]

@[simp] theorem answerOwn_fenceDev (p : Packet) (s : State) : (answerOwn p s).route.fenceDev = s.route.fenceDev := by
  unfold answerOwn
  dsimp only
  split_ifs
  · rfl
  · exact resendNow_fenceDev _ _ _ s
  all_goals rfl

@[simp] theorem sendAnswer_fenceDev (p : Packet) (s : State) : (sendAnswer p s).route.fenceDev = s.route.fenceDev := by
  unfold sendAnswer
  split_ifs
  · rfl
  · exact answerOwn_fenceDev p s
  · exact launch_fenceDev p s

@[simp] theorem nak_fenceDev (p : Packet) (c : Nat) (s : State) : (nak p c s).route.fenceDev = s.route.fenceDev := by
  unfold nak
  split
  · rfl
  · exact sendAnswer_fenceDev _ s

/-! ### A packet arrives at its port -/

theorem roomForCtx_route {k : Nat} {s t : State} (h : roomForCtx k s = some t) : t.route = s.route := by
  unfold roomForCtx at h
  dsimp only at h
  split at h
  · cases h; rfl
  · split at h
    · cases h; rfl
    · cases h

@[simp] theorem touchCtx_route (k d : Nat) (s : State) : (touchCtx k d s).route = s.route := by
  unfold touchCtx
  dsimp only
  split
  · rfl
  · split <;> rfl

@[simp] theorem outputPkt_fenceDev (p : Packet) (h : Nat) (s : State) : (outputPkt p h s).route.fenceDev = s.route.fenceDev := by
  unfold outputPkt
  dsimp only
  split <;> simp

theorem drainHeld_fenceDev (n : Nat) (c : Ctx) (s : State) : (drainHeld n c s).2.route.fenceDev = s.route.fenceDev := by
  induction n generalizing c s with
  | zero => rfl
  | succ n ih =>
    unfold drainHeld
    split
    · rfl
    · dsimp only
      split
      · rw [ih, outputPkt_fenceDev]
      · exact outputPkt_fenceDev _ _ s

@[simp] theorem deliverNext_fenceDev (c : Ctx) (p : Packet) (h : Nat) (s : State) :
    (deliverNext c p h s).route.fenceDev = s.route.fenceDev := by
  unfold deliverNext
  split
  · dsimp only
    rw [putCtx_route, drainHeld_fenceDev, outputPkt_fenceDev]
  · split <;> simp

@[simp] theorem dropDamaged_fenceDev (p : Packet) (s : State) : (dropDamaged p s).route.fenceDev = s.route.fenceDev := by
  simp [dropDamaged, dropDamagedAt]

@[simp] theorem resequence_fenceDev (c : Ctx) (p : Packet) (h : Nat) (s : State) :
    (resequence c p h s).route.fenceDev = s.route.fenceDev := by
  unfold resequence
  dsimp only
  split_ifs <;> simp

@[simp] theorem sequencePkt_fenceDev (p : Packet) (h : Nat) (s : State) : (sequencePkt p h s).route.fenceDev = s.route.fenceDev := by
  unfold sequencePkt
  dsimp only
  rw [← touchCtx_route (ctxKey p.src p.stream p.dst) (dieOfDst p s) s]
  generalize touchCtx (ctxKey p.src p.stream p.dst) (dieOfDst p s) s = t
  split
  · split
    · split
      · rename_i hroom
        rw [resequence_fenceDev, roomForCtx_route hroom]
      · simp
    · simp
  · split_ifs <;> simp

@[simp] theorem takeHere_fenceDev (l : Option Nat) (v : Nat) (p : Packet) (s : State) :
    (takeHere l v p s).route.fenceDev = s.route.fenceDev := by
  unfold takeHere
  dsimp only
  split
  · simp
  · split
    · simp
    · rename_i hcells
      split <;> simp [holdCells_route hcells]

@[simp] theorem arriveHere_fenceDev (l : Option Nat) (v : Nat) (p : Packet) (s : State) :
    (arriveHere l v p s).route.fenceDev = s.route.fenceDev := by
  have hpath : ∀ (c : Bool), (if c then preparePath l p s else (p, s)).2.route = s.route := fun c => by
    split
    · exact preparePath_route l p s
    · rfl
  exact (takeHere_fenceDev l v _ _).trans (congrArg RoutePart.fenceDev (hpath _))

/-! ### Multicast copies -/

/-- A miss changes what a die caches of the trees, and nothing else of the routes. -/
@[simp] theorem touchTree_fenceDev (k d : Nat) (s : State) : (touchTree k d s).route.fenceDev = s.route.fenceDev := by
  unfold touchTree
  dsimp only
  split
  · rfl
  · split <;> rfl

@[simp] theorem replicateOn_fenceDev (d : Nat) (a b : List Nat) (l : Option Nat) (v : Nat) (p : Packet) (s : State) :
    (replicateOn d a b l v p s).route.fenceDev = s.route.fenceDev := by
  unfold replicateOn
  split
  · rfl
  · rename_i hcells
    dsimp only
    rw [foldl_fenceDev _ (fun s x => by simp), foldl_fenceDev _ (fun s x => by simp), incReg_route, holdCells_route hcells]

@[simp] theorem replicate_fenceDev (l : Option Nat) (v : Nat) (p : Packet) (s : State) :
    (replicate l v p s).route.fenceDev = s.route.fenceDev := by
  unfold replicate
  split
  · simp
  · dsimp only
    split
    · simp
    · rw [apply_ite State.route, apply_ite RoutePart.fenceDev, foldl_fenceDev _ (fun s x => by simp), giveCredit_route, ite_self]

/-! ### Streams and replies -/

@[simp] theorem inject_fenceDev (p : Packet) (s : State) : (inject p s).route.fenceDev = s.route.fenceDev := by
  unfold inject
  split_ifs <;> simp [preparePath_route]

theorem sendOne_fenceDev (o : OutStream) (x : Packet × List Nat × Purpose) (s : State) :
    (sendOne o x s).2.route.fenceDev = s.route.fenceDev := by
  unfold sendOne
  rw [inject_fenceDev]
  split <;> rfl

theorem flushStream_fenceDev (n : Nat) (o : OutStream) (s : State) : (flushStream n o s).2.route.fenceDev = s.route.fenceDev := by
  induction n generalizing o s with
  | zero => rfl
  | succ n ih =>
    unfold flushStream
    split
    · rfl
    · split
      · rfl
      · dsimp only
        rw [ih, sendOne_fenceDev]

@[simp] theorem flushOne_fenceDev (a b c : Nat) (s : State) : (flushOne a b c s).route.fenceDev = s.route.fenceDev := by
  unfold flushOne
  split
  · rfl
  · exact flushStream_fenceDev (_ + 1) _ s

@[simp] theorem sendFrom_fenceDev (p : Packet) (l : List Nat) (w : Purpose) (s : State) :
    (sendFrom p l w s).route.fenceDev = s.route.fenceDev := by
  unfold sendFrom flushPort
  dsimp only
  rw [foldl_fenceDev _ fun s o => by simp]

@[simp] theorem reply_fenceDev (c : CmdRef) (st : Nat) (f : Bool) (b : List Byte) (s : State) :
    (reply c st f b s).route.fenceDev = s.route.fenceDev := by
  rw [reply, sendFrom_fenceDev, emit_route]

/-- ACCEPTED fences no device and frees none. -/
@[simp] theorem fencedDev_accepted (d : Nat) (c : CmdRef) (s : State) : fencedDev d (accepted c s) = fencedDev d s := by
  rw [fencedDev, accepted, reply_fenceDev, fencedDev]

end Sys2Proof.Machine
end

section
/-! PROOF. Commands on pages complete (R171, R173, R175, R178, R179, R185). -/
namespace Sys2Proof.Machine

/-! ### What ACCEPTED leaves to be read (R357) -/

theorem mem_of_rest {s t : State} (h : rest t = rest s) : t.mem = s.mem := by
  change (rest t).mem = (rest s).mem
  rw [h]

theorem time_of_rest {s t : State} (h : rest t = rest s) : t.time = s.time := by
  change (rest t).time = (rest s).time
  rw [h]

theorem coord_of_rest {s t : State} (h : rest t = rest s) : t.coord = s.coord := by
  change (rest t).coord = (rest s).coord
  rw [h]

@[simp] theorem accepted_mem (c : CmdRef) (s : State) : (accepted c s).mem = s.mem :=
  (mem_of_rest (rest_accepted c s)).trans rfl

@[simp] theorem accepted_time (c : CmdRef) (s : State) : (accepted c s).time = s.time :=
  (time_of_rest (rest_accepted c s)).trans rfl

@[simp] theorem accepted_coord (c : CmdRef) (s : State) : (accepted c s).coord = s.coord :=
  (coord_of_rest (rest_accepted c s)).trans rfl

@[simp] theorem ownDev_accepted (c : CmdRef) (s : State) : ownDev (accepted c s) = ownDev s := ownDev_congr (accepted_coord c s)

@[simp] theorem sliceDevs_accepted (heat : Nat) (c : CmdRef) (s : State) : sliceDevs heat (accepted c s) = sliceDevs heat s := by
  simp only [sliceDevs, bindOf, accepted_coord]

@[simp] theorem presentDev_accepted (d : Nat) (c : CmdRef) (s : State) : presentDev d (accepted c s) = presentDev d s := by
  unfold presentDev memberSeen ownGroup
  rw [accepted_coord]

@[simp] theorem softFree_accepted (c : CmdRef) (s : State) : softFree (accepted c s) = softFree s := by
  simp only [softFree, framesIn, standIns, listedIn, onFailed, accepted_mem]

@[simp] theorem ownFrames_accepted (j : AllocJob) (c : CmdRef) (s : State) : ownFrames j (accepted c s) = ownFrames j s := by
  simp only [ownFrames, ownDev_accepted]

@[simp] theorem framesReady_accepted (j : AllocJob) (c : CmdRef) (s : State) :
    framesReady j (accepted c s) = framesReady j s := by
  unfold framesReady softFrame frameRec onFailed
  rw [ownFrames_accepted, accepted_mem, accepted_time]

/-! ### A page is allocated: the coordinates stay (R171) -/

@[simp] theorem finish_coord (c : CmdRef) (st : Nat) (b : List Byte) (s : State) : (finish c st b s).coord = s.coord := by
  unfold finish
  split
  · rfl
  · dsimp only
    exact (coord_of_rest (rest_reply c st true b _)).trans rfl

@[simp] theorem finishOpt_coord (c : Option CmdRef) (st : Nat) (b : List Byte) (s : State) : (finishOpt c st b s).coord = s.coord := by
  cases c with
  | none => rfl
  | some c => exact finish_coord c st b s

@[simp] theorem emitCtl_coord (ds : List Nat) (k : CtlKind) (fields : List Nat) (body : List Byte) (s : State) :
    (emitCtl ds k fields body s).coord = s.coord := by
  unfold emitCtl
  exact foldl_coord _ (fun s d => emit_coord _ s) ds s

theorem takeFrame_coord (d : Nat) (r : FrameRec) (s : State) : (takeFrame d r s).2.coord = s.coord := by
  unfold takeFrame
  split
  · split <;> rfl
  · rfl

theorem hotOf_coord (p : Nat) (e : PageEnt) (s : State) : (hotOf p e s).2.coord = s.coord := by
  unfold hotOf
  split
  · rfl
  · split <;> rfl

@[simp] theorem paceRemap_coord (p : Nat) (s : State) : (paceRemap p s).coord = s.coord := by
  unfold paceRemap
  dsimp only
  split <;> rfl

@[simp] theorem putEntry_coord (p : Nat) (e : PageEnt) (s : State) : (putEntry p e s).coord = s.coord := by
  unfold putEntry
  dsimp only
  split
  · split
    · split <;> rfl
    · rfl
  · rfl

theorem bookRemap_coord (p : Nat) (k : PageEnt → PageEnt) (s : State) : (bookRemap p k s).2.coord = s.coord :=
  (putEntry_coord _ _ _).trans ((hotOf_coord _ _ _).trans (paceRemap_coord p s))

@[simp] theorem cacheUpdate_coord (p : Nat) (e : PageEnt) (s : State) : (cacheUpdate p e s).coord = s.coord := by
  unfold cacheUpdate
  split <;> rfl

@[simp] theorem settleInvals_coord (s : State) : (settleInvals s).coord = s.coord := by
  unfold settleInvals
  dsimp only
  rw [foldl_coord _ fun t i => ?_]
  rw [finishOpt_coord]
  split <;> rfl

@[simp] theorem invalidate_coord (p : Nat) (e : PageEnt) (stub : Option (Nat × Nat)) (c : Option CmdRef) (s : State) :
    (invalidate p e stub c s).coord = s.coord := by
  unfold invalidate
  dsimp only
  rw [settleInvals_coord]
  exact (emitCtl_coord _ _ _ _ _).trans (cacheUpdate_coord p e s)

@[simp] theorem remap_coord (p : Nat) (k : PageEnt → PageEnt) (s : State) : (remap p k s).coord = s.coord :=
  (invalidate_coord _ _ _ _ _).trans (bookRemap_coord p k s)

@[simp] theorem allocPage_coord (j : AllocJob) (base i : Nat) (s : State) : (allocPage j base i s).coord = s.coord := by
  unfold allocPage
  extract_lets p h m e
  split
  rename_i f t hhome
  have ht : t.coord = s.coord := (congrArg (fun x : Nat × State => x.2.coord) hhome).symm.trans (takeFrame_coord _ _ s)
  refine (remap_coord _ _ _).trans ?_
  split
  · exact (takeFrame_coord _ _ t).trans ht
  · exact ht

/-- The same for a fold over an operation that takes its operand first. -/
theorem foldl_step_coord {α : Type} (g : α → State → State) (h : ∀ a s, (g a s).coord = s.coord) (l : List α) (s : State) :
    (l.foldl (fun s a => g a s) s).coord = s.coord := foldl_coord _ (fun s a => h a s) l s

/-- Where there is a run of entries and frames enough, the pages are taken one by one, and the first is named in the reply. -/
theorem performAlloc_of_room {j : AllocJob} {s : State} {base : Nat} (hrun : freeRun j.count 0 s.mem.book = some base)
    (hroom : ownFrames j s ≤ softFree s) : performAlloc j s
      = finish j.cmd stDone (leBytes 8 (pageGfa j.cls (ownDev s * 2 ^ 23 + base)))
          ((List.range j.count).foldl (fun s i => allocPage j base i s) s) := by
  have hown := ownDev_congr (foldl_step_coord (allocPage j base) (allocPage_coord j base) (List.range j.count) s)
  unfold performAlloc
  split
  case h_1 hnone => exact absurd (hnone.symm.trans hrun) nofun
  case h_2 hfew _ => exact absurd (of_decide_eq_true hfew) (Nat.not_lt.mpr hroom)
  case h_3 hsome _ =>
    cases hsome.symm.trans hrun
    dsimp only
    rw [hown]

theorem ownFrames_le_of_allocRefusal_none {j : AllocJob} {s : State} (h : allocRefusal j s = none) : ownFrames j s ≤ softFree s := by
  unfold allocRefusal at h
  split_ifs at h with _ _ _ _ hroom
  simp only [Bool.or_eq_true, decide_eq_true_eq, not_or, not_lt] at hroom
  exact hroom.1.2

section
variable {m : CmdMeta} {s : State}

/-- An allocation whose parameters are in range and that meets no refusal is begun. -/
theorem exec_allocPages_begun {heat cls count rwEn mig set first stripe mstep : Nat} {homes : List Nat} {j : AllocJob}
    (ht : TakesLong m 0x0500 s) (hhomes : homesOf set s = some homes) (hne : homes ≠ []) (hcls : cls ≤ 2)
    (hcount : 1 ≤ count ∧ count ≤ 8388608) (hrw : rwEn ≤ 1) (hmig : mig ≤ 1) (hstripe : 1 ≤ stripe ∧ stripe ≤ 65536)
    (hmirror : cls = 2 → 2 ≤ homes.length ∧ 1 ≤ mstep ∧ mstep < homes.length)
    (hj : j = { heat := heat, cls := cls, count := count, rw := rwEn = 1, mig := mig = 1, homes := homes, first := first,
                stripe := stripe, mstep := mstep, cmd := refOf m 0x0500 })
    (hok : allocRefusal j s = none) :
    exec (.allocPages m heat cls count rwEn mig set first stripe mstep) s = .next (beginAlloc j (accepted (refOf m 0x0500) s)) := by
  change execAllocPages m heat cls count rwEn mig set first stripe mstep s = _
  simp only [execAllocPages, command_of_takes ht.1, hhomes]
  rw [if_neg (not_not.mpr ⟨hcls, hcount.1, hcount.2, hrw, hmig, hstripe.1, hstripe.2, hne, (em (cls = 2)).symm.imp_right hmirror⟩),
    ← hj, hok]
  exact congrArg Host.Outcome.next (accept_of_takesLong ht _ _)

theorem beginAlloc_ready {j : AllocJob} (h : framesReady j s = true) : beginAlloc j s = performAlloc j s := if_pos h

theorem beginAlloc_waits {j : AllocJob} (h : framesReady j s = false) :
    beginAlloc j s = { s with mem := { s.mem with allocs := s.mem.allocs ++ [j] } } := if_neg (by simp [h])

theorem beginAlloc_accepted_ready {j : AllocJob} {base : Nat} (hready : framesReady j s = true)
    (hrun : freeRun j.count 0 s.mem.book = some base) (hok : allocRefusal j s = none) (c : CmdRef) : beginAlloc j (accepted c s)
      = finish j.cmd stDone (leBytes 8 (pageGfa j.cls (ownDev s * 2 ^ 23 + base)))
          ((List.range j.count).foldl (fun s i => allocPage j base i s) (accepted c s)) := by
  have hbook : freeRun j.count 0 (accepted c s).mem.book = some base := by rwa [accepted_mem]
  have hroom : ownFrames j (accepted c s) ≤ softFree (accepted c s) := by
    simpa using ownFrames_le_of_allocRefusal_none hok
  rw [beginAlloc_ready (by simpa using hready), performAlloc_of_room hbook hroom, ownDev_accepted]

/-! ### Pages are freed (R173) -/

/-- Pages that no remap is at and no record here covers may be freed. -/
theorem none_busy_or_covered {pages : List Nat} (h : ∀ p ∈ pages, pageBusy p s = false ∧ coversPage p s = false) :
    pages.any (fun p => pageBusy p s || coversPage p s) = false :=
  List.any_eq_false.mpr fun p hp => by simp [h p hp]

/-- With no other device of the slice to ask, the pages are freed at once. -/
theorem startFree_of_none_asked {heat : Nat} (h : ∀ d ∈ sliceDevs heat s, d = ownDev s ∨ presentDev d s = false ∨ fencedDev d s = true)
    (pages : List Nat) (whole : Bool) (c : CmdRef) : startFree pages heat whole c s
      = finish c stDone (if whole then leBytes 4 pages.length else []) (pages.foldl (fun s p => freePage p s) s) := by
  have hasked : ((sliceDevs heat s).filter fun d => d ≠ ownDev s && presentDev d s && !fencedDev d s) = [] := by
    refine List.filter_eq_nil_iff.mpr fun d hd => ?_
    obtain h | h | h := h d hd <;> simp [h]
  simp only [startFree, hasked, if_true, performFree]

theorem startFree_accepted_of_none_asked {heat : Nat}
    (h : ∀ d ∈ sliceDevs heat s, d = ownDev s ∨ presentDev d s = false ∨ fencedDev d s = true) (pages : List Nat) (whole : Bool)
    (c : CmdRef) : startFree pages heat whole c (accepted c s) = finish c stDone (if whole then leBytes 4 pages.length else [])
      (pages.foldl (fun s p => freePage p s) (accepted c s)) :=
  startFree_of_none_asked (by simpa using h) pages whole c

theorem exec_freePages_begun {g count heat : Nat} (ht : TakesLong m 0x0501 s) (hrun : runOk g count s = true)
    (hused : runUsed g count s = true) (howned : runOwned g count heat s = true)
    (hfree : ∀ p ∈ runPages g count, pageBusy p s = false ∧ coversPage p s = false) : exec (.freePages m g count heat) s
      = .next (startFree (runPages g count) heat false (refOf m 0x0501) (accepted (refOf m 0x0501) s)) := by
  change execFreePages m g count heat s = _
  simp only [execFreePages, command_of_takes ht.1, hrun, hused, howned, none_busy_or_covered hfree, accept_of_takesLong ht,
    Bool.not_true, Bool.or_self, Bool.false_eq_true, if_false]

/-- The pages of a Heat in the books that this device serves. -/
def heatPages (heat : Nat) (s : State) : List Nat :=
  ((s.mem.book.filter fun e => e.2.state ≠ pgFree && e.2.owner = heat).map fun e => ownDev s * 2 ^ 23 + e.1)
    ++ (s.mem.partner.filter fun e => e.2.state ≠ pgFree && e.2.owner = heat && servesBook (pageBook e.1) s).map (·.1)

theorem exec_memHeatFree_begun {heat : Nat} (ht : TakesLong m 0x0502 s)
    (hfree : ∀ p ∈ heatPages heat s, pageBusy p s = false ∧ coversPage p s = false) : exec (.memHeatFree m heat) s
      = .next (startFree (heatPages heat s) heat true (refOf m 0x0502) (accepted (refOf m 0x0502) s)) := by
  have hnone := none_busy_or_covered hfree
  change execMemHeatFree m heat s = _
  simp only [heatPages] at hnone
  simp only [execMemHeatFree, command_of_takes ht.1, hnone, accept_of_takesLong ht, Bool.false_eq_true, if_false, heatPages]

/-! ### Settings of pages (R157, R179) -/

theorem exec_memPageSet_run {g count rwEn mig old new : Nat} (ht : Takes m 0x0504 s) (hrun : runOk g count s = true)
    (hused : runUsed g count s = true) (hrw : rwEn ≤ 1) (hmig : mig ≤ 1) (hnew : new ≠ 0) (howned : runOwned g count old s = true)
    (hfree : ∀ p ∈ runPages g count, pageBusy p s = false) :
    exec (.memPageSet m g count rwEn mig old new) s = .next (done (refOf m 0x0504)
      ((runPages g count).foldl (fun s p => setPage p (rwEn = 1) (mig = 1) new s) s)) := by
  have hbusy : (runPages g count).any (fun p => pageBusy p s) = false := List.any_eq_false.mpr fun p hp => by simp [hfree p hp]
  change execMemPageSet m g count rwEn mig old new s = _
  simp only [execMemPageSet, command_of_takes ht, hrun, hused, gt_iff_lt, Nat.not_lt.mpr hrw, Nat.not_lt.mpr hmig, hnew, howned, hbusy,
    decide_false, Bool.not_true, Bool.or_self, Bool.false_eq_true, if_false]

theorem exec_memPageClearLost_lost {g heat h mr : Nat} (ht : Takes m 0x0505 s) (hrun : runOk g 1 s = true)
    (hused : runUsed g 1 s = true) (howned : (bookEntry (gPage g) s).owner = heat) (hlost : (bookEntry (gPage g) s).state = pgLost)
    (hmoves : ∀ x ∈ s.mem.moves, x.page ≠ gPage g) (hhome : clearHome (bookEntry (gPage g) s) s = some h)
    (hmirror : clearMirror (bookEntry (gPage g) s) h s = some mr) :
    exec (.memPageClearLost m g heat) s = .next (restorePage (gPage g) h mr (refOf m 0x0505) s) := by
  have hstill : s.mem.moves.any (fun x => x.page = gPage g) = false := List.any_eq_false.mpr fun x hx => by simp [hmoves x hx]
  change execMemPageClearLost m g heat s = _
  simp only [execMemPageClearLost, command_of_takes ht, hrun, hused, howned, hlost, hstill, hhome, hmirror, ne_eq, not_true_eq_false,
    Bool.not_true, Bool.or_self, Bool.false_eq_true, or_self, if_false]

/-! ### Moves that are asked for (R175, R178) -/

theorem exec_memMigrate_begun {g d : Nat} (ht : TakesLong m 0x0506 s) (hrun : runOk g 1 s = true) (hused : runUsed g 1 s = true)
    (hd : d ≤ 2319) (hslice : devInSlice (bookEntry (gPage g) s).owner d s = true) (hbusy : pageBusy (gPage g) s = false)
    (htable : onTable (gPage g) s = false) (hst : (bookEntry (gPage g) s).state = pgValid) (hhome : d ≠ (bookEntry (gPage g) s).home)
    (hmirror : d ≠ (bookEntry (gPage g) s).mirror) (hfence : fencedDev d s = false) (hhere : presentDev d s = true)
    (hframe : suppliesFrame d s = true) :
    exec (.memMigrate m g d) s = .next (beginMigrate (gPage g) d (refOf m 0x0506) (accepted (refOf m 0x0506) s)) := by
  change execMemMigrate m g d s = _
  simp [execMemMigrate, command_of_takes ht.1, accept_of_takesLong ht, *]

theorem exec_memMirrorSet_begun {g d : Nat} (ht : TakesLong m 0x0507 s) (hrun : runOk g 1 s = true) (hused : runUsed g 1 s = true)
    (hcls : gCls g = 2) (hd : d ≤ 2319) (hslice : devInSlice (bookEntry (gPage g) s).owner d s = true)
    (hbusy : pageBusy (gPage g) s = false) (hst : (bookEntry (gPage g) s).state = pgValid)
    (hhome : d ≠ (bookEntry (gPage g) s).home) (hfence : fencedDev d s = false) (hhere : presentDev d s = true)
    (hframe : suppliesFrame d s = true) :
    exec (.memMirrorSet m g d) s = .next (beginMirror (gPage g) d (refOf m 0x0507) (accepted (refOf m 0x0507) s)) := by
  change execMemMirrorSet m g d s = _
  simp [execMemMirrorSet, command_of_takes ht.1, accept_of_takesLong ht, *]

end

/-- Settles O19: a long command's checks are made on the state as it stands, and its work is done after ACCEPTED, which leaves the
memory, the clock, the coordinates and the fences as they were. -/
theorem pageCommandsComplete : Obligations.PageCommandsComplete := by
  intro m s
  refine ⟨?alloc, ?free, ?heatFree, ?set, ?clearLost, ?migrate, ?mirror⟩
  case alloc =>
    intro heat cls count rwEn mig set first stripe mstep homes j base ht hhomes hne hcls hcount hcount' hrw hmig hstripe hstripe'
      hmirror hj hok hrun
    have hbegun := exec_allocPages_begun ht hhomes hne hcls ⟨hcount, hcount'⟩ hrw hmig ⟨hstripe, hstripe'⟩ hmirror hj hok
    refine ⟨fun hready => ?_, fun hwait => ⟨_, hbegun, ?_⟩⟩
    · subst hj
      exact hbegun.trans (congrArg Host.Outcome.next (beginAlloc_accepted_ready hready hrun hok _))
    · rw [beginAlloc_waits (by simpa using hwait), accepted_mem]
      exact ⟨rfl, rfl, rfl⟩
  case free =>
    intro g count heat ht hrun hused howned hfree
    have hbegun := exec_freePages_begun ht hrun hused howned hfree
    exact ⟨hbegun, fun hnone => hbegun.trans (congrArg Host.Outcome.next (startFree_accepted_of_none_asked hnone _ _ _))⟩
  case heatFree =>
    rintro heat _ ht rfl hfree
    have hbegun := exec_memHeatFree_begun ht hfree
    exact ⟨hbegun, fun hnone => hbegun.trans (congrArg Host.Outcome.next (startFree_accepted_of_none_asked hnone _ _ _))⟩
  case set => exact fun g count rwEn mig old new => exec_memPageSet_run
  case clearLost => exact fun g heat h mr => exec_memPageClearLost_lost
  case migrate => exact fun g d => exec_memMigrate_begun
  case mirror => exact fun g d => exec_memMirrorSet_begun

end Sys2Proof.Machine
end

section
/-! PROOF. The wiring of a machine: the links of a group, and cables with two ends (R187, R189). -/
namespace Sys2Proof.Machine

/-! ### Links inside a group (R187) -/

theorem isIntra_iff (l : Nat) : isIntra l = true ↔ 24 ≤ l ∧ l < 39 := by simp [isIntra]

theorem isGlobal_iff (l : Nat) : isGlobal l = true ↔ 39 ≤ l ∧ l < 48 := by simp [isGlobal]

theorem isFabric_iff (l : Nat) : isFabric l = true ↔ 24 ≤ l ∧ l < 48 := by simp [isFabric]

theorem intraLink_eq {a b : Nat} (ha : a < 16) (hb : b < 16) : intraLink a b = 23 + (b + 16 - a) % 16 := by
  unfold intraLink subMod
  omega

/-- The link 23 + d leads d members on, modulo 16. -/
theorem wiredTo_intra {d : Nat} (hd : 1 ≤ d) (hd' : d ≤ 15) (g grp a : Nat) :
    wiredTo g grp a (23 + d) = some { dev := grp * 16 + (a + d) % 16, link := 39 - d } := by
  simp [wiredTo, (isIntra_iff (23 + d)).mpr (by omega)]

/-- Settles O57: member b lies d = (b - a) mod 16 members past member a, and 1 ≤ d ≤ 15 since they differ. -/
theorem intraGroupWiring : Obligations.IntraGroupWiring := by
  refine ⟨fun g grp a b ha hb hne => ?_, fun g grp a ha => ⟨?_, ?_⟩⟩
  · rw [intraLink_eq ha hb]
    have hd : 1 ≤ (b + 16 - a) % 16 ∧ (b + 16 - a) % 16 ≤ 15 := by omega
    have hback : (a + (b + 16 - a) % 16) % 16 = b := by omega
    refine ⟨rfl, (isIntra_iff _).mpr (by omega), ?_, ?_⟩
    · rw [wiredTo_intra hd.1 hd.2, hback]
    · unfold dieOfLink
      omega
  · exact wiredTo_intra (d := 1) (by decide) (by decide) g grp a
  · exact wiredTo_intra (d := 15) (by decide) (by decide) g grp a

/-! ### Global slots (R189) -/

/-- A slot of a group is cable j of the cables to the group q + 1 places on: slot j (g - 1) + q. Its far end is cable j of that
group's cables to the group g - 2 - q + 1 places on, which is the first group again. -/
theorem slotPeer_cable {g j q : Nat} (hj : j < pairLinks g) (hq : q < g - 1) (grp : Nat) :
    slotPeer g grp (j * (g - 1) + q) = some ((grp + q + 1) % g, j * (g - 1) + (g - 2 - q)) := by
  have hpos : 0 < g - 1 := by omega
  have hdiv : (j * (g - 1) + q) / (g - 1) = j := by
    rw [Nat.mul_comm, Nat.mul_add_div hpos, Nat.div_eq_of_lt hq, Nat.add_zero]
  have hmod : (j * (g - 1) + q) % (g - 1) = q := by rw [Nat.mul_comm, Nat.mul_add_mod, Nat.mod_eq_of_lt hq]
  have hlt : j * (g - 1) + q < pairLinks g * (g - 1) :=
    calc j * (g - 1) + q < (j + 1) * (g - 1) := by rw [Nat.add_mul, Nat.one_mul]; omega
      _ ≤ pairLinks g * (g - 1) := Nat.mul_le_mul_right _ hj
  rw [slotPeer, if_neg (by omega)]
  simp only [hdiv, hmod]

/-- Every slot that is used is such a cable. -/
theorem cable_of_slotPeer {g grp k : Nat} {x : Nat × Nat} (h : slotPeer g grp k = some x) :
    ∃ j q, j < pairLinks g ∧ q < g - 1 ∧ k = j * (g - 1) + q ∧ x = ((grp + q + 1) % g, j * (g - 1) + (g - 2 - q)) := by
  unfold slotPeer at h
  split at h
  · cases h
  next hused =>
    have hpos : 0 < g - 1 := by omega
    exact ⟨k / (g - 1), k % (g - 1), (Nat.div_lt_iff_lt_mul hpos).mpr (by omega), Nat.mod_lt _ hpos,
      (Nat.div_add_mod' k (g - 1)).symm, (Option.some.inj h).symm⟩

/-- The slots in use are among the 144 of a group. -/
theorem cable_lt {g j q : Nat} (hj : j < pairLinks g) (hq : q < g - 1) : j * (g - 1) + q < 144 := by
  have hcap : pairLinks g * (g - 1) ≤ 144 := by
    rw [pairLinks, if_neg (by omega)]
    exact Nat.div_mul_le_self 144 (g - 1)
  calc j * (g - 1) + q < (j + 1) * (g - 1) := by rw [Nat.add_mul, Nat.one_mul]; omega
    _ ≤ pairLinks g * (g - 1) := Nat.mul_le_mul_right _ hj
    _ ≤ 144 := hcap

/-- The far slot is joined back, lies in the machine, among the 144 of its group, and in another group. -/
theorem slotPeer_symm {g grp k grp' k' : Nat} (hgrp : grp < g) (h : slotPeer g grp k = some (grp', k')) :
    slotPeer g grp' k' = some (grp, k) ∧ grp' < g ∧ grp' ≠ grp ∧ k' < 144 := by
  obtain ⟨j, q, hj, hq, rfl, hx⟩ := cable_of_slotPeer h
  obtain ⟨rfl, rfl⟩ := Prod.mk.inj hx
  have hfar : g - 2 - q < g - 1 := by omega
  refine ⟨?_, Nat.mod_lt _ (by omega), ?_, cable_lt hj hfar⟩
  · have hgroup : ((grp + q + 1) % g + (g - 2 - q) + 1) % g = grp := by
      rw [Nat.add_assoc, Nat.mod_add_mod, show grp + q + 1 + (g - 2 - q + 1) = grp + g by omega, Nat.add_mod_right,
        Nat.mod_eq_of_lt hgrp]
    rw [slotPeer_cable hj hfar, hgroup, show g - 2 - (g - 2 - q) = q by omega]
  · rcases Nat.lt_or_ge (grp + q + 1) g with hlt | hge
    · rw [Nat.mod_eq_of_lt hlt]
      omega
    · rw [Nat.mod_eq_sub_mod hge, Nat.mod_eq_of_lt (by omega)]
      omega

/-- Slot k of a group is on link 39 + k / 16 of member k mod 16. -/
theorem wiredTo_slot {k : Nat} (hk : k < 144) (g grp : Nat) : wiredTo g grp (k % 16) (39 + k / 16) =
    (slotPeer g grp k).map fun x => { dev := x.1 * 16 + x.2 % 16, link := 39 + x.2 / 16 } := by
  have hintra : isIntra (39 + k / 16) = false := by simp [isIntra]
  have hslot : (39 + k / 16 - 39) * 16 + k % 16 = k := by omega
  simp only [wiredTo, hintra, (isGlobal_iff (39 + k / 16)).mpr (by omega), hslot, Bool.false_eq_true, if_false, if_true]
  cases slotPeer g grp k <;> rfl

/-! ### Any cable -/

/-- A wired link is one inside the group, or a slot joined to another. -/
theorem wired_cases {g grp member l : Nat} {e : FarEnd} (hm : member < 16) (h : wiredTo g grp member l = some e) :
    (∃ d, 1 ≤ d ∧ d ≤ 15 ∧ l = 23 + d ∧ e = { dev := grp * 16 + (member + d) % 16, link := 39 - d }) ∨
    (∃ k grp' k', k < 144 ∧ member = k % 16 ∧ l = 39 + k / 16 ∧ slotPeer g grp k = some (grp', k') ∧
      e = { dev := grp' * 16 + k' % 16, link := 39 + k' / 16 }) := by
  by_cases hi : isIntra l = true
  · obtain ⟨hlo, hhi⟩ := (isIntra_iff l).mp hi
    obtain ⟨d, rfl⟩ : ∃ d, l = 23 + d := ⟨l - 23, by omega⟩
    rw [wiredTo_intra (by omega) (by omega)] at h
    exact .inl ⟨d, by omega, by omega, rfl, (Option.some.inj h).symm⟩
  · by_cases hg : isGlobal l = true
    · obtain ⟨hlo, hhi⟩ := (isGlobal_iff l).mp hg
      obtain ⟨k, hk, rfl, rfl⟩ : ∃ k, k < 144 ∧ member = k % 16 ∧ l = 39 + k / 16 :=
        ⟨(l - 39) * 16 + member, by omega, by omega, by omega⟩
      rw [wiredTo_slot hk] at h
      obtain ⟨⟨grp', k'⟩, hpeer, rfl⟩ := Option.map_eq_some_iff.mp h
      exact .inr ⟨k, grp', k', hk, rfl, rfl, hpeer, rfl⟩
    · simp [wiredTo, hi, hg] at h

theorem groupOf_dev (grp : Nat) {a : Nat} (ha : a < 16) : groupOf (grp * 16 + a) = grp := by
  unfold groupOf
  omega

theorem memberOf_dev (grp : Nat) {a : Nat} (ha : a < 16) : memberOf (grp * 16 + a) = a := by
  unfold memberOf
  omega

/-- Settles O58: inside a group, going d members on and then 16 - d comes back; between groups, by `slotPeer_symm`. -/
theorem wiringIsSymmetric : Obligations.WiringIsSymmetric := by
  intro g grp member l e hgrp hm h
  obtain ⟨d, hd, hd', rfl, rfl⟩ | ⟨k, grp', k', hk, rfl, rfl, hpeer, rfl⟩ := wired_cases hm h
  · have hfar : (member + d) % 16 < 16 := Nat.mod_lt _ (by decide)
    have hback : ((member + d) % 16 + (16 - d)) % 16 = member := by omega
    rw [groupOf_dev grp hfar, memberOf_dev grp hfar, show 39 - d = 23 + (16 - d) by omega,
      wiredTo_intra (by omega) (by omega), hback, show 39 - (16 - d) = 23 + d by omega]
    exact ⟨rfl, hgrp, by dsimp only; omega, by simp only [isFabric_iff]; omega⟩
  · obtain ⟨hback, hin, hother, hk'⟩ := slotPeer_symm hgrp hpeer
    have hfar : k' % 16 < 16 := Nat.mod_lt _ (by decide)
    rw [groupOf_dev grp' hfar, memberOf_dev grp' hfar, wiredTo_slot hk', hback]
    exact ⟨rfl, hin, by dsimp only; omega, by simp only [isFabric_iff]; omega⟩

end Sys2Proof.Machine
end

section
/-! PROOF. The sideband completes (R193, R197, R371 to R374). -/
namespace Sys2Proof.Machine

/-! ### Unused slots are powered down: what that leaves alone (R190) -/

@[simp] theorem setLinkState_coord (l st : Nat) (s : State) : (setLinkState l st s).coord = s.coord := by
  unfold setLinkState
  dsimp only
  split <;> rfl

theorem reg_setLinkState_fld {f : Fld} (h : f ≠ .lkState) (l st i : Nat) (s : State) :
    reg f i (setLinkState l st s) = reg f i s := by
  unfold setLinkState
  dsimp only
  split <;> simp [h]

theorem isEdge_of_isGlobal {l : Nat} (h : isGlobal l = true) : isEdge l = false := by
  simp only [isGlobal_iff] at h
  simp only [isEdge, isAccel, isService, Bool.or_eq_false_iff, Bool.and_eq_false_iff, decide_eq_false_iff_not]
  omega

/-- A link that is no edge link declares no fence as it goes down. -/
theorem powerDown_coord {l : Nat} (h : isEdge l = false) (s : State) : (powerDown l s).coord = s.coord := by
  simp [powerDown, h]

theorem reg_powerDown_fld {l : Nat} (h : isEdge l = false) {f : Fld} (hf : f ∉ [Fld.lkState, .lkLevel, .lkP1]) (i : Nat) (s : State) :
    reg f i (powerDown l s) = reg f i s := by
  simp only [List.mem_cons, List.not_mem_nil, or_false, not_or] at hf
  obtain ⟨hstate, hlevel, hp1⟩ := hf
  simp [powerDown, h, hlevel, hp1, reg_setLinkState_fld hstate]

/-- A slot is left alone, or it is a global link and powered down. -/
theorem dropUnused_cases (l : Nat) (s : State) : dropUnused l s = s ∨ isEdge l = false ∧ dropUnused l s = powerDown l s := by
  unfold dropUnused
  split
  next h =>
    simp only [Bool.and_eq_true] at h
    obtain ⟨⟨⟨hg, -⟩, -⟩, -⟩ := h
    exact .inr ⟨isEdge_of_isGlobal hg, rfl⟩
  next => exact .inl rfl

theorem dropUnused_coord (l : Nat) (s : State) : (dropUnused l s).coord = s.coord := by
  obtain h | ⟨hl, h⟩ := dropUnused_cases l s
  · rw [h]
  · rw [h, powerDown_coord hl]

@[simp] theorem settleSlots_coord (s : State) : (settleSlots s).coord = s.coord :=
  foldl_coord _ (fun s i => dropUnused_coord (39 + i) s) _ s

theorem reg_settleSlots_fld {f : Fld} (hf : f ∉ [Fld.lkState, .lkLevel, .lkP1]) (i : Nat) (s : State) :
    reg f i (settleSlots s) = reg f i s := by
  refine List.foldlRecOn (motive := fun t : State => reg f i t = reg f i s) _ _ rfl fun t ht k _ => Eq.trans ?_ ht
  obtain h | ⟨hl, h⟩ := dropUnused_cases (39 + k) t
  · rw [h]
  · rw [h, reg_powerDown_fld hl hf]

/-! ### A first group number, a first count (R193, R197) -/

theorem setGroup_first {g n : Nat} {s : State} (hn : s.coord.lastCount = some n) (hg : g ≤ 144) (hgn : g < n)
    (hnone : s.coord.group = none) :
    setGroup g s = (sbDone, settleSlots { s with coord := { s.coord with group := some g } }) := by
  have hok : ¬ (g > 144 ∨ g ≥ n) := by omega
  simp only [setGroup, hn, hok, hnone, Option.isNone_none, if_false, if_true]

theorem setCount_first {n : Nat} {s : State} (hpos : n ≠ 0) (hn : n ≤ 145) (hgroup : s.coord.group = none)
    (hpend : s.coord.pendGroup = none) (hnone : s.coord.count = none) :
    setCount n s = (sbDone, settleSlots { s with coord := { s.coord with lastCount := some n, count := some n } }) := by
  simp [setCount, hpos, Nat.not_lt.mpr hn, hgroup, hpend, hnone]

/-! ### Reads and writes on standby power (R371, R373) -/

section
variable {s : State} (hsb : s.pins.p12sb = true)
include hsb

theorem sbSnapRead_on (code off n : Nat) :
    sbSnapRead code off n s = .next (sbRead code (((snapshot s).drop off).take n) s) := by
  rw [sbSnapRead, if_pos hsb]

/-- A write whose PEC is good is noted, performed, and its outcome recorded; a refusal is counted. -/
theorem sbWrite_good_pec (code : Nat) (data : List Byte) {k : State → Nat × State} {st : Nat} {t : State}
    (hk : k (setReg .sbLastCmd 0 code (incReg .sbWriteCnt 0 s)) = (st, t)) :
    sbWrite code data (writePec (reg .sbAddr 0 s) code data) k s
      = .next (setReg .sbLastStatus 0 st (if st = sbRefused ∨ st ≥ sbBadCmd then incReg .sbRefusedCnt 0 t else t)) := by
  simp [sbWrite, hsb, hk]

/-! ### Commands on standby power (R197, R373) -/

theorem exec_sbGroupSet_first {g : Byte} {n : Nat} (hn : s.coord.lastCount = some n) (hg : g.toNat ≤ 144) (hgn : g.toNat < n)
    (hnone : s.coord.group = none) : exec (.sbGroupSet [g] (writePec (reg .sbAddr 0 s) 0x03 [g])) s
      = .next (setReg .sbLastStatus 0 sbDone (settleSlots { setReg .sbLastCmd 0 3 (incReg .sbWriteCnt 0 s) with
          coord := { s.coord with group := some g.toNat } })) :=
  sbWrite_good_pec hsb 0x03 [g] (setGroup_first hn hg hgn hnone)

theorem exec_sbCountSet_first {n : Byte} (hpos : n.toNat ≠ 0) (hn : n.toNat ≤ 145) (hgroup : s.coord.group = none)
    (hpend : s.coord.pendGroup = none) (hnone : s.coord.count = none) :
    exec (.sbCountSet [n] (writePec (reg .sbAddr 0 s) 0x04 [n])) s
      = .next (setReg .sbLastStatus 0 sbDone (settleSlots { setReg .sbLastCmd 0 4 (incReg .sbWriteCnt 0 s) with
          coord := { s.coord with lastCount := some n.toNat, count := some n.toNat } })) :=
  sbWrite_good_pec hsb 0x04 [n] (setCount_first hpos hn hgroup hpend hnone)

theorem exec_sbUndefinedCode_write (code : Nat) (data : List Byte) :
    exec (.sbUndefinedCode code true data (writePec (reg .sbAddr 0 s) code data)) s
      = .next (setReg .sbLastStatus 0 sbBadCmd (incReg .sbRefusedCnt 0 (setReg .sbLastCmd 0 code (incReg .sbWriteCnt 0 s)))) :=
  sbWrite_good_pec hsb code data rfl

theorem exec_sbUndefinedCode_read (code : Nat) (data : List Byte) (pec : Nat) :
    exec (.sbUndefinedCode code false data pec) s = .next (setReg .sbLastStatus 0 sbBadCmd (sbRead code [] s)) := by
  change execSbUndefinedCode code false data pec s = _
  simp only [execSbUndefinedCode, hsb, Bool.false_eq_true, if_false, if_true]

theorem exec_sbStatus_on : exec .sbStatus s = .next (sbRead 0x08 (leBytes 1 (reg .sbLastStatus 0 s)) s) := by
  change execSbStatus s = _
  rw [execSbStatus, if_pos hsb]

/-- The snapshot is taken once its 10 ms or 100 ms have passed. -/
theorem exec_sbSnapshotRefresh_on {t : State}
    (ht : t = advanceTo (s.sb.snapAt + if flag .sbMainSnap 0 s then 10000000 else 100000000) s) :
    exec .sbSnapshotRefresh s = .next { t with sb := { t.sb with snapshot := snapBytes t, snapAt := t.time.now } } := by
  change execSbSnapshotRefresh s = _
  simp only [execSbSnapshotRefresh, hsb, Bool.not_true, Bool.false_eq_true, if_false, ht]

end

/-- Settles O35: each read by the bytes it cuts from the snapshot, each write by `sbWrite_good_pec`; the slots that a first group
number or count shows to be unused go down with nothing of the sideband changed. -/
theorem sidebandComplete : Obligations.SidebandComplete := by
  intro s hsb
  refine ⟨sbSnapRead_on hsb 0x01 0 24, sbSnapRead_on hsb 0x02 24 5, sbSnapRead_on hsb 0x05 29 32, sbSnapRead_on hsb 0x06 61 35,
    sbSnapRead_on hsb 0x07 96 13, exec_sbStatus_on hsb, ?group, ?count, ?undefinedWrite, fun code data pec =>
    exec_sbUndefinedCode_read hsb code data pec, _, exec_sbSnapshotRefresh_on hsb rfl, rfl⟩
  case group =>
    intro g n hn hg hgn hnone
    refine ⟨_, exec_sbGroupSet_first hsb hn hg hgn hnone, by simp, by simp [sbDone], ?_⟩
    rw [reg_setReg_fld _ _ (by simp), reg_settleSlots_fld (by decide)]
    exact reg_setReg_self .sbLastCmd 0 3 (incReg .sbWriteCnt 0 s)
  case count =>
    intro n hpos hn hgroup hpend hnone
    exact ⟨_, exec_sbCountSet_first hsb hpos hn hgroup hpend hnone, by simp, by simp, by simp [sbDone]⟩
  case undefinedWrite =>
    exact fun code data => ⟨_, exec_sbUndefinedCode_write hsb code data, reg_setReg_self .sbLastStatus 0 sbBadCmd _, rfl⟩

end Sys2Proof.Machine
end

section
/-! PROOF. Device, CSR and slice-table commands complete (R199, R361 to R366, R372). -/
namespace Sys2Proof.Machine

section
variable {m : CmdMeta} {s : State}

/-! ### Records (R362, R372) -/

theorem exec_devIdentify (ht : Takes m 0x0000 s) :
    exec (.devIdentify m) s = .next (answer (refOf m 0x0000) stDone (identityRecord s) s) := by
  change execDevIdentify m s = _
  rw [execDevIdentify, command_of_takes ht]

theorem exec_devHealth (ht : Takes m 0x0001 s) :
    exec (.devHealth m) s = .next (answer (refOf m 0x0001) stDone (healthRecord s) s) := by
  change execDevHealth m s = _
  rw [execDevHealth, command_of_takes ht]

theorem exec_devEcho {data : List Byte} (ht : Takes m 0x0030 s) (hlen : data.length ≤ 2560) :
    exec (.devEcho m data) s = .next (answer (refOf m 0x0030) stDone data s) := by
  change execDevEcho m data s = _
  rw [execDevEcho, command_of_takes ht, if_neg (Nat.not_lt.mpr hlen)]

/-! ### The slice table (R199) -/

/-- The operands of HEAT_BIND name a Heat, an edge link mask, and a slice of groups below the count that holds this device's group. -/
structure BindsHere (heat f c mask : Nat) (s : State) : Prop where
  heat_ne : heat ≠ 0
  count_pos : 1 ≤ c
  count_le : c ≤ 145
  first_lt : f < 145
  mask_lt : mask < 2 ^ 28
  slice : ∃ n own, s.coord.count = some n ∧ s.coord.group = some own ∧ sliceBelow f c n = true ∧ inSlice f c own = true

/-- None of the outcomes for bad operands. -/
theorem BindsHere.operands_good {heat f c mask : Nat} (h : BindsHere heat f c mask s) :
    ¬ (heat = 0 ∨ c = 0 ∨ c > 145 ∨ f ≥ 145 ∨ mask ≥ 2 ^ 28 ∨ ¬ sliceBelow f c (s.coord.count.getD 0) ∨ s.coord.group = none
      ∨ ¬ inSlice f c (ownGroup s)) := by
  obtain ⟨hheat, hpos, hmax, hf, hmask, n, own, hn, hown, hbelow, hin⟩ := h
  have hgroup : ownGroup s = own := by rw [ownGroup, hown, Option.getD_some]
  simp only [hgroup, hn, hown, hbelow, hin, Option.getD_some, reduceCtorEq, not_true_eq_false, or_false]
  omega

theorem bindCheck_new {heat f c mask : Nat} (h : BindsHere heat f c mask s) (hnew : bindOf heat s = none)
    (hold : recentlyUnbound heat s = false) (hroom : s.coord.binds.length < 1024) : bindCheck heat f c mask s = stDone := by
  rw [bindCheck, if_neg h.operands_good]
  simp [hnew, hold, Nat.not_le.mpr hroom]

theorem bindCheck_again {heat f c mask : Nat} {b : Bind} (h : BindsHere heat f c mask s) (hb : bindOf heat s = some b)
    (hf : b.f = f) (hc : b.c = c) : bindCheck heat f c mask s = stDone := by
  rw [bindCheck, if_neg h.operands_good]
  simp [hb, hf, hc]

theorem exec_heatBind_of_done {heat f c mask : Nat} (ht : Takes m 0x0002 s) (h : bindCheck heat f c mask s = stDone) :
    exec (.heatBind m heat f c mask) s = .next (done (refOf m 0x0002) (putBind heat f c mask s)) := by
  change execHeatBind m heat f c mask s = _
  simp only [execHeatBind, command_of_takes ht, h, if_true]

theorem exec_heatBind_new {heat f c mask : Nat} (ht : Takes m 0x0002 s) (h : BindsHere heat f c mask s) (hnew : bindOf heat s = none)
    (hold : recentlyUnbound heat s = false) (hroom : s.coord.binds.length < 1024) :
    exec (.heatBind m heat f c mask) s = .next (done (refOf m 0x0002)
      { s with coord := { s.coord with binds := s.coord.binds ++ [{ heat := heat, f := f, c := c, mask := mask }],
                                       unbound := s.coord.unbound.filter fun e => e.1 ≠ heat },
               det := { s.det with steps := tabSet 0 s.det.steps heat 0, records := tabSet 0 s.det.records heat 0 } }) := by
  have hfree : isBound heat s = false := by simp [isBound, hnew]
  simp only [exec_heatBind_of_done ht (bindCheck_new h hnew hold hroom), putBind, hfree, Bool.false_eq_true, if_false]

theorem exec_heatBind_again {heat f c mask : Nat} {b : Bind} (ht : Takes m 0x0002 s) (h : BindsHere heat f c mask s)
    (hb : bindOf heat s = some b) (hf : b.f = f) (hc : b.c = c) :
    exec (.heatBind m heat f c mask) s = .next (done (refOf m 0x0002)
      { s with coord := { s.coord with binds := s.coord.binds.map fun x =>
          if x.heat = heat then { heat := heat, f := f, c := c, mask := mask } else x } }) := by
  have hheld : isBound heat s = true := by simp [isBound, hb]
  simp only [exec_heatBind_of_done ht (bindCheck_again h hb hf hc), putBind, hheld, if_true]

theorem exec_heatUnbind_unused {heat : Nat} (ht : Takes m 0x0003 s) (hne : heat ≠ 0) (hbound : isBound heat s = true)
    (hfree : heatInUse heat s = false) :
    exec (.heatUnbind m heat) s = .next (done (refOf m 0x0003) (dropBind heat s)) := by
  change execHeatUnbind m heat s = _
  simp only [execHeatUnbind, command_of_takes ht, hne, hbound, hfree, Bool.not_true, Bool.or_self, Bool.false_eq_true, if_false]

theorem exec_heatList {first : Nat} (ht : Takes m 0x0004 s) (hfirst : first < 1024) :
    exec (.heatList m first) s = .next (answer (refOf m 0x0004) stDone
      (((s.coord.binds.drop first).take 200).flatMap fun b =>
        packFields [(4, b.heat), (1, b.f), (1, b.c), (2, 0), (4, b.mask)]) s) := by
  change execHeatList m first s = _
  rw [execHeatList, command_of_takes ht, decide_eq_true hfirst, requires_true]

/-! ### CSR access (R363 to R366) -/

theorem exec_csrRead_defined {addr count : Nat} (ht : Takes m 0x0010 s) (hpos : 1 ≤ count) (hmax : count ≤ 64)
    (hok : csrAddrOk addr count = true) :
    exec (.csrRead m addr count) s
      = .next (answer (refOf m 0x0010) stDone (csrRead count addr s).1 (csrRead count addr s).2) := by
  have hparam : ¬ (count = 0 ∨ count > 64 ∨ ¬ csrAddrOk addr count) := by
    simp only [hok, not_true_eq_false, or_false]
    omega
  change execCsrRead m addr count s = _
  rw [execCsrRead, command_of_takes ht, if_neg hparam]

/-- Through the Shop that owns the block, a write is the block agent's (R15, R16). -/
@[simp] theorem agentWrite_owner (addr w : Nat) (s : State) : agentWrite (blockOwner addr s) addr w s = writeWord addr w s := by
  simp [agentWrite]

/-- The words of a command, each with its address. -/
def csrPairs (addr count : Nat) (words : List Nat) : List (Nat × Nat) :=
  ((List.range count).map fun k => addr + 4 * k).zip words

theorem exists_index_of_mem_csrPairs {addr count : Nat} {words : List Nat} (hlen : words.length = count) {e : Nat × Nat}
    (he : e ∈ csrPairs addr count words) : ∃ k < count, e = (addr + 4 * k, words.getD k 0) := by
  obtain ⟨k, hk, rfl⟩ := List.mem_iff_getElem.mp he
  have hk' : k < count := by simpa [csrPairs, hlen] using hk
  exact ⟨k, hk', by simp [csrPairs, hlen, hk']⟩

theorem exec_csrWrite_taken {addr count : Nat} {words : List Nat} (ht : Takes m 0x0011 s) (hpos : 1 ≤ count) (hmax : count ≤ 64)
    (hlen : words.length = count) (hok : csrAddrOk addr count = true) (htaken : ∀ k < count, writeRefusal (addr + 4 * k) s = none)
    (hcode : ∀ k < count, addr + 4 * k = 0x90000008 → clockCode (words.getD k 0 % 256) = true) :
    exec (.csrWrite m addr count words) s = .next (done (refOf m 0x0011)
      ((csrPairs addr count words).foldl (fun s e => writeWord e.1 e.2 s) s)) := by
  have hgood : ((csrPairs addr count words).any fun e => e.1 = 0x90000008 && !clockCode (e.2 % 256)) = false := by
    refine List.any_eq_false.mpr fun e he => ?_
    obtain ⟨k, hk, rfl⟩ := exists_index_of_mem_csrPairs hlen he
    simpa using hcode k hk
  have hnone : ((List.range count).map fun k => addr + 4 * k).findSome? (fun a => writeRefusal a s) = none := by
    simpa using htaken
  have hparam : ¬ (count = 0 ∨ count > 64 ∨ ¬ csrAddrOk addr count ∨
      (csrPairs addr count words).any (fun e => e.1 = 0x90000008 && !clockCode (e.2 % 256))) := by
    simp only [hok, hgood, not_true_eq_false, Bool.false_eq_true, or_false]
    omega
  change execCsrWrite m addr count words s = _
  rw [execCsrWrite, command_of_takes ht]
  simp only [csrPairs] at hparam ⊢
  simp only [hlen, ne_eq, not_true_eq_false, if_false, hparam, hnone, agentWrite_owner]

/-! ### The state of a block (R366) -/

theorem exec_devBlockState_gate {addr k : Nat} {g : Bool} (ht : Takes m 0x0012 s) (hok : csrAddrOk addr 1 = true)
    (hgate : blockGate addr s = some (k, g)) :
    exec (.devBlockState m addr) s = .next (answer (refOf m 0x0012) stDone
      (packFields [(1, blockOwner addr s), (1, b2n g), (2, tabGet 0 s.fore.gateEpoch k)]) s) := by
  change execDevBlockState m addr s = _
  simp only [execDevBlockState, command_of_takes ht, hok, hgate, not_true_eq_false, if_false]

theorem exec_devBlockState_never_gated {addr : Nat} (ht : Takes m 0x0012 s) (hok : csrAddrOk addr 1 = true)
    (hgate : blockGate addr s = none) :
    exec (.devBlockState m addr) s = .next (answer (refOf m 0x0012) stDone
      (packFields [(1, blockOwner addr s), (1, 0), (2, 0)]) s) := by
  change execDevBlockState m addr s = _
  simp only [execDevBlockState, command_of_takes ht, hok, hgate, not_true_eq_false, if_false]
  rfl

end

/-- Settles O1: under its operands' conditions none of a command's refusals applies, and what is left is its effect and DONE. -/
theorem deviceCommandsComplete : Obligations.DeviceCommandsComplete := by
  intro m s
  refine ⟨exec_devIdentify, exec_devHealth, ?bind, fun heat => exec_heatUnbind_unused, fun first => exec_heatList,
    fun addr count => exec_csrRead_defined, fun addr count words => exec_csrWrite_taken, fun addr k g => exec_devBlockState_gate,
    fun addr => exec_devBlockState_never_gated, fun data => exec_devEcho⟩
  case bind =>
    intro heat f c mask ht hheat hpos hmax hf hmask hslice
    have hhere : BindsHere heat f c mask s := ⟨hheat, hpos, hmax, hf, hmask, hslice⟩
    exact ⟨exec_heatBind_new ht hhere, fun b => exec_heatBind_again ht hhere⟩

end Sys2Proof.Machine
end

section
/-! PROOF. Link commands complete (R215, R222, R224, R226, R229, R230, R275, R277). -/
namespace Sys2Proof.Machine

section
variable {m : CmdMeta} {s : State} {l : Nat}

/-- A command about a link that exists, taken by port 56, goes to its own checks. -/
theorem linkCommand_of_takes {op : Nat} (ht : Takes m op s) (hl : l < 52) (k : CmdRef → State → State) :
    linkCommand m op l k s = .next (k (refOf m op) s) := by
  rw [linkCommand, command_of_takes ht, decide_eq_true hl, requires_true]

/-! ### State, counters and neighbour of a link (R229, R230) -/

theorem exec_linkStatus (hl : l < 52) (ht : Takes m 0x0100 s) : exec (.linkStatus m l) s
    = .next (answer (refOf m 0x0100) stDone (readWords (0x10000000 + 0x1000 * l) 3 s) s) := by
  change execLinkStatus m l s = _
  rw [execLinkStatus, linkCommand_of_takes ht hl]

theorem exec_linkNeighbour (hl : l < 52) (ht : Takes m 0x0107 s) :
    exec (.linkNeighbour m l) s = .next (answer (refOf m 0x0107) stDone (neighBytes l s) s) := by
  change execLinkNeighbour m l s = _
  rw [execLinkNeighbour, linkCommand_of_takes ht hl]

theorem exec_linkStats (hl : l < 52) (ht : Takes m 0x0110 s) : exec (.linkStats m l) s
    = .next (answer (refOf m 0x0110) stDone
        (readWords (0x10000010 + 0x1000 * l) 9 s ++ readWords (0x10000040 + 0x1000 * l) 5 s) s) := by
  change execLinkStats m l s = _
  rw [execLinkStats, linkCommand_of_takes ht hl]

/-! ### Settings (R215, R222, R226) -/

theorem exec_linkConfig_inRange {rate ceiling cv en clr : Nat} (hl : l < 52) (ht : Takes m 0x0101 s) (hrate : rate ≤ 2)
    (hceil : ceiling = 1 ∨ ceiling = 2) (hcv : cv < 65536) (hen : en ≤ 1) (hclr : clr ≤ 1) :
    exec (.linkConfig m l rate ceiling cv en clr) s
      = .next (done (refOf m 0x0101) (configLink l rate ceiling cv en clr s)) := by
  have hceil' : (decide (ceiling = 1) || decide (ceiling = 2)) = true := by simpa using hceil
  change execLinkConfig m l rate ceiling cv en clr s = _
  simp only [execLinkConfig, linkCommand_of_takes ht hl, hrate, hceil', hcv, hen, hclr, decide_true, Bool.and_self, requires_true]

theorem exec_linkEqRead_inRange {lane rate : Nat} (hl : l < 52) (ht : Takes m 0x0105 s) (hlane : lane ≤ 9) (hrate : rate ≤ 2) :
    exec (.linkEqRead m l lane rate) s = .next (answer (refOf m 0x0105) stDone
      (leBytes 8 (eqEntry (eqIdx l lane rate) s) ++ leBytes 1 (b2n (tabFind s.eq (eqIdx l lane rate)).isNone)) s) := by
  change execLinkEqRead m l lane rate s = _
  simp [execLinkEqRead, linkCommand_of_takes ht hl, hlane, hrate]

theorem exec_linkEqSet_inRange {lane rate entry : Nat} (hl : l < 52) (ht : Takes m 0x0106 s) (hlane : lane ≤ 9) (hrate : rate ≤ 2)
    (hentry : entry < 2 ^ 64) (hok : eqOk entry = true) : exec (.linkEqSet m l lane rate entry) s
      = .next (done (refOf m 0x0106) { s with eq := tabPut s.eq (eqIdx l lane rate) entry }) := by
  change execLinkEqSet m l lane rate entry s = _
  simp only [execLinkEqSet, linkCommand_of_takes ht hl, hlane, hrate, hentry, hok, decide_true, Bool.and_self, requires_true]

/-! ### Trained again, powered down, swapped, opened (R224, R230, R275, R277) -/

theorem exec_linkRetrain_accepted (hl : l < 52) (ht : TakesLong m 0x0102 s) (hover : cameOver m l s = false)
    (hst : lkStateOf l s ≠ lkTraining) (hused : (linkUsed l s || usedUnder (linkCount l s) l s) = true)
    (hopen : (link l s).closing = false) :
    exec (.linkRetrain m l) s = .next (retrainLink l (refOf m 0x0102) (accepted (refOf m 0x0102) s)) := by
  change execLinkRetrain m l s = _
  simp only [execLinkRetrain, linkCommand_of_takes ht.1 hl, accept_of_takesLong ht, hover, hst, hused, hopen, Bool.not_true,
    Bool.false_eq_true, or_self, if_false]

/-- What LINK_DOWN does once no refusal applies: at once where it is forced or nothing is to drain. -/
theorem exec_linkDown_accepted {force : Nat} (hl : l < 52) (ht : TakesLong m 0x0103 s) (hforce : force ≤ 1)
    (hover : cameOver m l s = false) (hopen : (link l s).closing = false) : exec (.linkDown m l force) s
      = .next (if force = 1 ∨ lkStateOf l (accepted (refOf m 0x0103) s) ≠ lkActive
          then dropLink l (refOf m 0x0103) (accepted (refOf m 0x0103) s)
          else startChange l false (some (refOf m 0x0103)) true (accepted (refOf m 0x0103) s)) := by
  change execLinkDown m l force s = _
  simp only [execLinkDown, linkCommand_of_takes ht.1 hl, accept_of_takesLong ht, Nat.not_lt.mpr hforce, hover, hopen,
    Bool.false_eq_true, if_false]

theorem exec_linkLaneSwap_accepted {lane : Nat} (hl : l < 52) (ht : TakesLong m 0x0104 s) (hlane : lane < 8)
    (hfree : swapRefusal l s = none) : exec (.linkLaneSwap m l lane) s
      = .next (sendSwapReq l lane 0 (some (refOf m 0x0104)) (accepted (refOf m 0x0104) s)) := by
  change execLinkLaneSwap m l lane s = _
  simp only [execLinkLaneSwap, linkCommand_of_takes ht.1 hl, accept_of_takesLong ht, Nat.not_le.mpr hlane, hfree, if_false]

theorem exec_routeLinkOpen_accepted (ht : TakesLong m 0x0202 s) (hfab : isFabric l = true) (hmay : mayOpen l s = true) :
    exec (.routeLinkOpen m l) s = .next (openLink l (refOf m 0x0202) (accepted (refOf m 0x0202) s)) := by
  change execRouteLinkOpen m l s = _
  simp only [execRouteLinkOpen, command_of_takes ht.1, accept_of_takesLong ht, hfab, hmay, Bool.not_true,
    Bool.false_eq_true, if_false]

end

/-- Settles O9: with none of a link command's refusals in the way, what is left is its reply, or its work after ACCEPTED. -/
theorem linkCommandsComplete : Obligations.LinkCommandsComplete := by
  intro m s l hl
  refine ⟨exec_linkStatus hl, fun _ _ _ _ _ => exec_linkConfig_inRange hl, exec_linkRetrain_accepted hl, ?down, ?drain,
    fun _ => exec_linkLaneSwap_accepted hl, fun _ _ => exec_linkEqRead_inRange hl, fun _ _ _ => exec_linkEqSet_inRange hl,
    exec_linkNeighbour hl, exec_linkStats hl, exec_routeLinkOpen_accepted⟩
  case down =>
    intro ht hover hopen
    rw [exec_linkDown_accepted hl ht le_rfl hover hopen, if_pos (.inl rfl)]
  case drain =>
    intro ht hover hopen hactive
    rw [exec_linkDown_accepted hl ht zero_le_one hover hopen, if_neg (by simp [hactive])]

end Sys2Proof.Machine
end

section
/-! PROOF. Bring-up events complete (R216 to R222, R270, R394). -/
namespace Sys2Proof.Machine

/-! ### What the operations of a link leave to be read -/

theorem link_congr {s t : State} (l : Nat) (h : t.links = s.links) : link l t = link l s := by rw [link, h, link]

@[simp] theorem link_modLink_self (l : Nat) (f : LinkPart → LinkPart) (s : State) : link l (modLink l f s) = f (link l s) := by
  simp [link, modLink, tabGet_tabSet]

@[simp] theorem link_advanceTo (l t : Nat) (s : State) : link l (advanceTo t s) = link l s := rfl

@[simp] theorem sendLine_links (l : Nat) (o : OutMsg) (c : List Column) (s : State) : (sendLine l o c s).links = s.links := rfl

@[simp] theorem sendLine_time (l : Nat) (o : OutMsg) (c : List Column) (s : State) : (sendLine l o c s).time = s.time := rfl

/-- Of what a line carries only the message itself leaves the block. -/
@[simp] theorem sendLine_out (l : Nat) (o : OutMsg) (c : List Column) (s : State) : (sendLine l o c s).out = s.out ++ [o] := rfl

@[simp] theorem reg_startColumns (f : Fld) (i l : Nat) (s : State) : reg f i (startColumns l s) = reg f i s := by
  unfold startColumns
  split <;> rfl

@[simp] theorem startColumns_mem (l : Nat) (s : State) : (startColumns l s).mem = s.mem := by
  unfold startColumns
  split <;> rfl

theorem restart_of_pause {s : State} {l t0 : Nat} (h : (link l s).restartAt = some t0) :
    restart l s = powerUp l (advanceTo t0 s) := by
  simp only [restart, h]

/-- The steps whose bound ends the attempt in any case, with the bound in ns and the cause it leaves (R217, R219). -/
def boundedSteps : List (Nat × Nat × Nat) := [(4, 1000, lcLaneOrder), (5, 5000, lcDeskew), (7, 10000, lcCredit)]

section
variable {s : State} {l : Nat} (hl : l < 52)
include hl

/-! ### Steps 1 to 5 (R216 to R218) -/

/-- The rate is read after the attempt may have begun, which leaves it. -/
theorem exec_laneCkLock_near {khz : Nat} (hst : lkStateOf l s = lkTraining) (hstep : (link l s).step = 1)
    (hnear : ckNear khz (reg .lkRate l s) = true) :
    exec (.laneCkLock l khz) s = .next (toStep l 2 (if (link l s).ckSeen then s else beginAttempt l s)) := by
  have hrate : reg .lkRate l (if (link l s).ckSeen then s else beginAttempt l s) = reg .lkRate l s := by
    split
    · rfl
    · simp [beginAttempt]
  change execLaneCkLock l khz s = _
  simp [execLaneCkLock, Nat.not_le.mpr hl, hst, hstep, hrate, hnear]

/-- In steps 2 and 4 what the receiver saw is kept, and the steps end where it shows enough: all lanes locked, their IDs. -/
theorem exec_trainingSet_observed {o : TrainObs} (hst : lkStateOf l s = lkTraining)
    (hstep : (link l s).step = 2 ∨ (link l s).step = 4) : exec (.trainingSet l o) s
      = .next (if (link l s).step = 4 ∧ o.ids = [] ∨
            (link l s).step = 2 ∧ !allLocked l o (modLink l (fun k => { k with obs := some o }) s)
          then modLink l (fun k => { k with obs := some o }) s
          else trainLanes l o (modLink l (fun k => { k with obs := some o }) s)) := by
  change execTrainingSet l o s = _
  simp only [execTrainingSet, Nat.not_le.mpr hl, hst, hstep, ne_eq, not_true, if_false, if_true]

theorem exec_trainingSet_farTs2 {o : TrainObs} (hst : lkStateOf l s = lkTraining) (hstep : (link l s).step = 5)
    (hts2 : o.ts2 = true) : exec (.trainingSet l o) s = .next (startColumns l s) := by
  change execTrainingSet l o s = _
  simp [execTrainingSet, Nat.not_le.mpr hl, hst, hstep, hts2]

theorem exec_linkDeskew_inBound {skew : Nat} (hst : lkStateOf l s = lkTraining) (hstep : (link l s).step = 5)
    (hskew : skew ≤ 64) : exec (.linkDeskew l skew) s
      = .next (modLink l (fun k => { k with markerAt := s.time.now, identSent := s.time.now })
          (toStep l 6 (startColumns l (setReg .lkMaxSkew l skew s)))) := by
  have hmin : min skew 127 = skew := by omega
  change execLinkDeskew l skew s = _
  simp [execLinkDeskew, Nat.not_le.mpr hl, hst, hstep, hmin, Nat.not_lt.mpr hskew]

/-! ### Steps 6 and 7 (R220, R221, R270) -/

theorem exec_ident_good {body : List Byte} (hst : lkStateOf l s = lkTraining) (hstep : 6 ≤ (link l s).step)
    (hgood : blockGood body = true) (hkind : fieldAt body 0 1 = 0x10) : exec (.ident l body) s = .next (takeIdent l body s) := by
  change execIdent l body s = _
  simp [execIdent, Nat.not_le.mpr hl, hst, hstep, hgood, hkind]

theorem exec_identSendTick_step6 (hst : lkStateOf l s = lkTraining) (hstep : (link l s).step = 6) {u : State}
    (hu : u = advanceTo ((link l s).identSent + 1000) s) : exec (.identSendTick l) s
      = .next (modLink l (fun k => { k with identSent := u.time.now }) (sendBlock l (identBlock l u) u)) := by
  change execIdentSendTick l s = _
  simp [execIdentSendTick, Nat.not_le.mpr hl, hst, hstep, hu]

theorem exec_credit_active {h : Nat} {counts : List Nat} (hh : h < 2) (hst : lkStateOf l s = lkActive) :
    exec (.credit l h counts) s = .next (takeCounts l h counts s) := by
  change execCredit l h counts s = _
  simp [execCredit, Nat.not_le.mpr hl, Nat.not_le.mpr hh, hst, lkActive, lkTraining]

theorem exec_credit_bothHalves {h : Nat} {counts : List Nat} (hh : h < 2) (hst : lkStateOf l s = lkTraining)
    (hstep : (link l s).step = 7) (hseen : (link l (takeCounts l h counts s)).creditSeen = 3) :
    exec (.credit l h counts) s = .next (activate l (takeCounts l h counts s)) := by
  change execCredit l h counts s = _
  simp [execCredit, Nat.not_le.mpr hl, Nat.not_le.mpr hh, hst, hstep, hseen]

/-! ### A step's bound passes (R217, R394) -/

theorem exec_trainingStepTimeout_step1 (hst : lkStateOf l s = lkTraining) (hstep : (link l s).step = 1)
    (hck : (link l s).ckSeen = true) : exec (.trainingStepTimeout l) s
      = .next (failAttempt l lcClockLock (advanceTo ((link l s).stepAt + 50000) s)) := by
  change execTrainingStepTimeout l s = _
  simp [execTrainingStepTimeout, Nat.not_le.mpr hl, hst, hstep, hck]

theorem exec_trainingStepTimeout_step2 (hst : lkStateOf l s = lkTraining) (hstep : (link l s).step = 2)
    (hobs : (link l s).obs = none) : exec (.trainingStepTimeout l) s
      = .next (failAttempt l lcSymbolLock (advanceTo ((link l s).stepAt + 10000) s)) := by
  change execTrainingStepTimeout l s = _
  simp [execTrainingStepTimeout, Nat.not_le.mpr hl, hst, hstep, hobs]

theorem exec_trainingStepTimeout_step6 (hst : lkStateOf l s = lkTraining) (hstep : (link l s).step = 6)
    (hready : halfReady (dieOfLink l) s = true) : exec (.trainingStepTimeout l) s
      = .next (failAttempt l lcIdentTimeout (advanceTo ((link l s).stepAt + 20000) s)) := by
  change execTrainingStepTimeout l s = _
  simp [execTrainingStepTimeout, Nat.not_le.mpr hl, hst, hstep, hready]

theorem exec_trainingStepTimeout_bounded {n bound cause : Nat} (hst : lkStateOf l s = lkTraining) (hstep : (link l s).step = n)
    (hn : (n, bound, cause) ∈ boundedSteps) : exec (.trainingStepTimeout l) s
      = .next (failAttempt l cause (advanceTo ((link l s).stepAt + bound) s)) := by
  change execTrainingStepTimeout l s = _
  simp only [boundedSteps, List.mem_cons, Prod.mk.injEq, List.not_mem_nil, or_false] at hn
  obtain ⟨rfl, rfl, rfl⟩ | ⟨rfl, rfl, rfl⟩ | ⟨rfl, rfl, rfl⟩ := hn <;>
    simp [execTrainingStepTimeout, Nat.not_le.mpr hl, hst, hstep]

/-! ### The lanes power up again (R219, R221, R223) -/

theorem exec_trainingRestart_failed {t0 : Nat} (hfails : (link l s).fails ≠ 0) (h : (link l s).restartAt = some t0) :
    exec (.trainingRestart l) s = .next (powerUp l (advanceTo t0 s)) := by
  change execTrainingRestart l s = _
  rw [execTrainingRestart, if_neg (Nat.not_le.mpr hl), if_neg hfails, restart_of_pause h]

theorem exec_lostLockRetrain_lost {t0 : Nat} (hfails : (link l s).fails = 0) (h : (link l s).restartAt = some t0) :
    exec (.lostLockRetrain l) s = .next (powerUp l (advanceTo t0 s)) := by
  change execLostLockRetrain l s = _
  rw [execLostLockRetrain, if_neg (Nat.not_le.mpr hl), if_pos hfails, restart_of_pause h]

theorem exec_coordinatesSetResume_resumable (h : resumable l (dropUnused l s) = true) :
    exec (.coordinatesSetResume l) s = .next (resumeIdent l (dropUnused l s)) := by
  change execCoordinatesSetResume l s = _
  simp only [execCoordinatesSetResume, Nat.not_le.mpr hl, h, if_false, if_true]

end

/-- Settles O10: each event by the state and the step in which it is taken; the two that the statement only describes, LINK_DESKEW and
IDENT_SEND_TICK, by what their last writes leave to be read. -/
theorem linkTrainingEventsComplete : Obligations.LinkTrainingEventsComplete := by
  intro s l hl
  refine ⟨fun _ => exec_laneCkLock_near hl, ?locked, ?unlocked, ?order, fun _ => exec_trainingSet_farTs2 hl, ?deskew,
    fun _ => exec_ident_good hl, ?identTick, fun _ _ => exec_credit_active hl, fun _ _ => exec_credit_bothHalves hl, ?timeout,
    fun _ => exec_trainingRestart_failed hl, fun _ => exec_lostLockRetrain_lost hl, exec_coordinatesSetResume_resumable hl⟩
  case locked =>
    intro o hst hstep hlock
    rw [exec_trainingSet_observed hl hst (.inl hstep), if_neg (by simp [hstep, hlock])]
  case unlocked =>
    intro o hst hstep hlock
    rw [exec_trainingSet_observed hl hst (.inl hstep), if_pos (by simp [hstep, hlock])]
  case order =>
    intro o hst hstep hids
    rw [exec_trainingSet_observed hl hst (.inr hstep), if_neg (by simp [hstep, hids])]
  case deskew =>
    intro skew hst hstep hskew
    refine ⟨_, exec_linkDeskew_inBound hl hst hstep hskew, by simp [toStep], by simp, ?_, by simp [toStep]⟩
    have hfits : skew < 2 ^ fldWidth .lkMaxSkew := lt_of_le_of_lt hskew (by decide)
    simp [toStep, Nat.mod_eq_of_lt hfits]
  case identTick =>
    exact fun hst hstep => ⟨_, exec_identSendTick_step6 hl hst hstep rfl, by simp [sendBlock], by simp [sendBlock]⟩
  case timeout =>
    exact fun hst => ⟨exec_trainingStepTimeout_step1 hl hst, fun hstep => exec_trainingStepTimeout_bounded hl hst hstep (by decide),
      exec_trainingStepTimeout_step2 hl hst, fun hstep => exec_trainingStepTimeout_bounded hl hst hstep (by decide),
      exec_trainingStepTimeout_step6 hl hst, fun hstep => exec_trainingStepTimeout_bounded hl hst hstep (by decide)⟩

end Sys2Proof.Machine
end

section
/-! PROOF. Events of links in service complete (R211, R212, R223 to R227, R271, R382). -/
namespace Sys2Proof.Machine

/-! ### The event log and a link (R417) -/

@[simp] theorem link_logEvent (l a b c d : Nat) (e : List Byte) (s : State) : link l (logEvent a b c d e s) = link l s := by
  unfold logEvent
  split <;> rfl

@[simp] theorem logEvent_time (a b c d : Nat) (e : List Byte) (s : State) : (logEvent a b c d e s).time = s.time :=
  time_of_rest (rest_logEvent a b c d e s)

/-- Of the registers a logged event changes at most the count of lost ones. -/
theorem reg_logEvent_fld {f : Fld} (h : f ≠ .shLostCnt) (i a b c d : Nat) (e : List Byte) (s : State) :
    reg f i (logEvent a b c d e s) = reg f i s := by
  unfold logEvent
  split
  · rfl
  · simp [h]

/-! ### Swaps (R224 to R226) -/

/-- What decides whether a swap may start: the link's record, five of its registers and the time. -/
theorem swapRefusal_congr {l : Nat} {s t : State} (hlink : link l t = link l s) (htime : t.time = s.time)
    (hreg : ∀ f ∈ [Fld.lkState, .lkLevel, .lkRxSwap, .lkSpDown, .lkReversed], reg f l t = reg f l s) :
    swapRefusal l t = swapRefusal l s := by
  simp only [List.forall_mem_cons] at hreg
  obtain ⟨hstate, hlevel, hswap, hdown, hrev, -⟩ := hreg
  have hdown' : flag .lkSpDown l t = flag .lkSpDown l s := by rw [flag, hdown, flag]
  have hgrowth : cvGrowth l 8 t = cvGrowth l 8 s := by simp only [cvGrowth, flag, hrev, hlink, htime]
  rw [swapRefusal, lkStateOf, hstate, hlink, hlevel, hswap, hdown', hgrowth, swapRefusal, lkStateOf]

/-- The request goes out with its marker, and the receive direction waits for the answer. -/
theorem rxSwapJob_sendSwapReq (l lane attempt : Nat) (cmd : Option CmdRef) (s : State) :
    ∃ marker, (link l (sendSwapReq l lane attempt cmd s)).rxSwapJob
      = some { lane := lane, marker := marker, acked := false, attempt := attempt, cmd := cmd } :=
  ⟨_, by rw [sendSwapReq, link_modLink_self]⟩

/-- The trigger of a proposal is in the log (R409). -/
def triggerLogged (l lane : Nat) (s : State) : State :=
  logEvent 0x0A01 sevI 0x10 l (packFields [(1, 1), (4, 100 * l + lane), (4, cvGrowth l lane s)]) s

/-- A proposal is in the log, and counted. -/
def proposed (l lane : Nat) (s : State) : State := incReg .reProposalCnt 0 (triggerLogged l lane s)

@[simp] theorem swapRefusal_proposed (l lane : Nat) (s : State) : swapRefusal l (proposed l lane s) = swapRefusal l s := by
  refine swapRefusal_congr ?_ (by simp [proposed, triggerLogged]) fun f hf => ?_
  · exact (link_congr l (incReg_links _ _ _)).trans (link_logEvent ..)
  · have hne : f ≠ .reProposalCnt ∧ f ≠ .shLostCnt := by
      constructor <;> rintro rfl <;> simp at hf
    rw [proposed, reg_incReg_fld _ (eq_false hne.1), triggerLogged, reg_logEvent_fld hne.2]

/-! ### The stamp of a frame (R227) -/

/-- A frame's arrival is stamped into SOF_TIME, and the link's frame number is noted. -/
def sofStamped (l n : Nat) (s : State) : State :=
  { setReg .lkSofTimeHi l (timeBase s / 2 ^ 32) (setReg .lkSofTimeLo l (timeBase s % 2 ^ 32) s) with
    time := { s.time with frames := tabPut s.time.frames l (n % 2 ^ 48) } }

theorem lkSofTimeLo_sofStamped (l n : Nat) (s : State) : reg .lkSofTimeLo l (sofStamped l n s) = timeBase s % 2 ^ 32 :=
  calc reg .lkSofTimeLo l (sofStamped l n s)
    _ = reg .lkSofTimeLo l (setReg .lkSofTimeLo l (timeBase s % 2 ^ 32) s) := reg_setReg_fld _ _ (by simp)
    _ = timeBase s % 2 ^ 32 % 2 ^ fldWidth .lkSofTimeLo := reg_setReg_self ..
    _ = timeBase s % 2 ^ 32 := Nat.mod_mod _ _

theorem frames_sofStamped (l n : Nat) (s : State) : tabFind (sofStamped l n s).time.frames l = some (n % 2 ^ 48) := by
  simp [sofStamped, tabFind_tabPut]

section
variable {s : State} {l : Nat} (hl : l < 52)
include hl

/-! ### A lane is proposed, asked for, agreed and swapped (R224, R225, R409) -/

/-- With automatic swap of lanes off, the trigger is logged alone; a proposal that a refusal meets starts no swap. -/
theorem exec_cvThresholdSwapProposal_grown {lane : Nat} (hlane : lane < 8) (hshops : shopsWait s = false)
    (hgrown : (link l s).cvThresh < cvGrowth l lane s) : exec (.cvThresholdSwapProposal l lane) s
      = .next (if !(reg .reAuto 0 s).testBit 1 then triggerLogged l lane s
          else if (swapRefusal l s).isSome then proposed l lane s else sendSwapReq l lane 0 none (proposed l lane s)) := by
  have hrange : ¬ (l ≥ 52 ∨ lane ≥ 8) := by omega
  have hauto : reg .reAuto 0 (triggerLogged l lane s) = reg .reAuto 0 s := reg_logEvent_fld (by decide) ..
  rw [← swapRefusal_proposed l lane s, ← hauto]
  change execCvThresholdSwapProposal l lane s = _
  rw [execCvThresholdSwapProposal, decided_of_shopsWait hshops, if_neg hrange, if_neg (Nat.not_le.mpr hgrown)]
  rfl

theorem exec_swapReq_active {lane marker : Nat} (hlane : lane < 8) (hst : lkStateOf l s = lkActive)
    (hlevel : 2 ≤ reg .lkLevel l s) :
    exec (.swapReq l lane marker) s = .next (modLink l
      (fun k => { k with txSwapJob := some { lane := lane, marker := marker % 65536, acked := true, attempt := 0, cmd := none } })
      (sendBlock l (controlBlock ([0x12#8] ++ leBytes 1 lane ++ leBytes 2 marker)) s)) := by
  change execSwapReq l lane marker s = _
  simp [execSwapReq, Nat.not_le.mpr hl, Nat.not_le.mpr hlane, hst, Nat.not_lt.mpr hlevel]

theorem exec_swapAck_awaited {j : SwapJob} (hj : (link l s).rxSwapJob = some j) :
    ∃ t, exec (.swapAck l j.lane j.marker) s = .next t ∧ (link l t).rxSwapJob = some { j with acked := true } := by
  change ∃ t, execSwapAck l j.lane j.marker s = .next t ∧ _
  rw [execSwapAck, onUnit, if_pos (decide_eq_true hl)]
  exact ⟨_, rfl, by simp [hj]⟩

theorem exec_swapMarkerReached_tx {j : SwapJob} (hj : (link l s).txSwapJob = some j) (b : Bool) :
    exec (.swapMarkerReached l true b) s = .next (logSwap l 1 j (modLink l (fun k => { k with txSwapJob := none })
      (setReg .lkTxSwap l j.lane (toMarker l (link l s).txMarkerAt j.marker s)))) := by
  change execSwapMarkerReached l true b s = _
  simp only [execSwapMarkerReached, Nat.not_le.mpr hl, hj, if_false, if_true]

theorem exec_swapMarkerReached_rx_agreed {j : SwapJob} (hj : (link l s).rxSwapJob = some j) (hack : j.acked = true) (b : Bool) :
    exec (.swapMarkerReached l false b) s = .next (finishOpt j.cmd stDone [] (logSwap l 0 j
      (modLink l (fun k => { k with rxSwapJob := none, cutNext := b })
        (setReg .lkRxSwap l j.lane (toMarker l (link l s).markerAt j.marker s))))) := by
  change execSwapMarkerReached l false b s = _
  simp only [execSwapMarkerReached, Nat.not_le.mpr hl, hj, hack, Bool.false_eq_true, if_false, if_true]

theorem exec_swapMarkerReached_rx_again {j : SwapJob} (hj : (link l s).rxSwapJob = some j) (hack : j.acked = false)
    (hfirst : j.attempt = 0) (b : Bool) : exec (.swapMarkerReached l false b) s
      = .next (sendSwapReq l j.lane 1 j.cmd (toMarker l (link l s).markerAt j.marker s)) := by
  change execSwapMarkerReached l false b s = _
  simp only [execSwapMarkerReached, Nat.not_le.mpr hl, hj, hack, hfirst, Bool.false_eq_true, if_false, if_true]

/-! ### Loss, and what a receiver counts (R211, R212, R223, R271) -/

theorem exec_linkLost_inService (ck : Bool) (hst : lkStateOf l s = lkActive ∨ lkStateOf l s = lkQuarantined) :
    exec (.linkLost l ck) s = .next (loseLink l (if ck then lcClockLock else lcLostLock) s) := by
  change execLinkLost l ck s = _
  simp only [execLinkLost, Nat.not_le.mpr hl, hst, if_false, if_true]

theorem exec_linkLost_inTraining (hst : lkStateOf l s = lkWaiting ∨ (lkStateOf l s = lkTraining ∧ 2 ≤ (link l s).step)) :
    exec (.linkLost l true) s = .next (failAttempt l lcClockLock (setLinkState l lkTraining s)) := by
  have hout : ¬ (lkStateOf l s = lkActive ∨ lkStateOf l s = lkQuarantined) := by
    obtain h | ⟨h, -⟩ := hst <;> rw [h] <;> decide
  change execLinkLost l true s = _
  simp [execLinkLost, Nat.not_le.mpr hl, hout, hst]

theorem exec_creditTimeout_active (hst : lkStateOf l s = lkActive) :
    exec (.creditTimeout l) s = .next (loseLink l lcCredit (advanceTo ((link l s).creditRx + 10000) s)) := by
  change execCreditTimeout l s = _
  rw [execCreditTimeout, if_neg (Nat.not_le.mpr hl), if_pos hst]

theorem exec_controlBlockDiscard_bad {body : List Byte} (hbad : blockGood body = false) :
    exec (.controlBlockDiscard l body) s = .next (incReg .lkCbErrCnt l s) := by
  change execControlBlockDiscard l body s = _
  simp [execControlBlockDiscard, onUnit, hl, hbad]

theorem exec_badColumn (rd : Option Nat) (groups bad : List Nat)
    (hbad : bad = columnViolations (isService l) (flag .lkReversed l s) (reg .lkRxSwap l s) (reg .lkPolInv l s)
      (rd.getD (link l s).rxRd) groups) :
    exec (.badColumn l rd groups) s = .next (countViolations l (countedPositions l bad s)
      (modLink l (fun k => { k with rxRd := rdReceived (reg .lkPolInv l s) (rd.getD (link l s).rxRd) groups }) s)) := by
  subst hbad
  change execBadColumn l rd groups s = _
  rw [execBadColumn, onUnit, if_pos (decide_eq_true hl)]

/-! ### Start-of-frame markers (R227, R382) -/

theorem exec_startOfFrame_unarmed {n : Nat} (hserv : isService l = true) (hst : lkStateOf l s = lkActive)
    (hnone : s.time.armed = none) : exec (.startOfFrame l n) s = .next (sofStamped l n s) := by
  change execStartOfFrame l n s = _
  simp [execStartOfFrame, Nat.not_le.mpr hl, hserv, hst, hnone, sofStamped]

end

theorem exec_startOfFrameSend_active {s : State} {l : Nat} (hserv : isService l = true) (hst : lkStateOf l s = lkActive) :
    exec (.startOfFrameSend l) s = .next (modLink l
      (fun k => { k with frameNo := (k.frameNo + 1) % 2 ^ 48, sofAt := k.sofAt + 125000 })
      (sendSof l (link l s).frameNo (advanceTo ((link l s).sofAt + 125000) s))) := by
  change execStartOfFrameSend l s = _
  simp [execStartOfFrameSend, hserv, hst]

/-- Settles O11: each event by the state in which it is taken. Logging and counting a proposal leave all that a refusal depends on, so
one that meets none starts a swap; a message that leaves on a link does not touch the link's record. -/
theorem linkServiceEventsComplete : Obligations.LinkServiceEventsComplete := by
  intro s l hl
  refine ⟨exec_linkLost_inService hl, exec_linkLost_inTraining hl, exec_creditTimeout_active hl,
    fun _ => exec_controlBlockDiscard_bad hl, exec_badColumn hl, ?proposal, ?req, fun _ => exec_swapAck_awaited hl,
    fun _ => exec_swapMarkerReached_tx hl, fun _ => exec_swapMarkerReached_rx_agreed hl,
    fun _ => exec_swapMarkerReached_rx_again hl, ?stamp, ?send⟩
  case proposal =>
    intro lane hlane hshops hgrown
    refine ⟨_, exec_cvThresholdSwapProposal_grown hl hlane hshops hgrown, fun hauto hfree _ => ?_⟩
    obtain ⟨marker, hjob⟩ := rxSwapJob_sendSwapReq l lane 0 none (proposed l lane s)
    exact ⟨_, by simpa [hauto, hfree] using hjob, rfl, rfl, rfl⟩
  case req =>
    intro lane marker hlane hst hlevel
    exact ⟨_, exec_swapReq_active hl hlane hst hlevel, by simp [sendBlock], by simp⟩
  case stamp =>
    exact fun n hserv hst hnone => ⟨_, exec_startOfFrame_unarmed hl hserv hst hnone, lkSofTimeLo_sofStamped l n s,
      frames_sofStamped l n s, rfl⟩
  case send =>
    intro hserv hst
    refine ⟨_, exec_startOfFrameSend_active hserv hst, by simp [sendSof], ?_⟩
    rw [link_modLink_self, sendSof, link_congr l (sendLine_links ..), link_advanceTo]

end Sys2Proof.Machine
end

section
/-! PROOF. The header and payload cells of a packet read back as that packet (R231 to R233, R236). -/
namespace Sys2Proof.Machine

/-! ### Fields side by side -/

/-- Fields of given widths side by side, the first from bit 0 on. -/
def packBits : List (Nat × Nat) → Nat
  | [] => 0
  | (w, v) :: r => v % 2 ^ w + 2 ^ w * packBits r

theorem packBits_cons_div {w n : Nat} (h : w ≤ n) (v : Nat) (r : List (Nat × Nat)) :
    packBits ((w, v) :: r) / 2 ^ n = packBits r / 2 ^ (n - w) := by
  have hw : (v % 2 ^ w + 2 ^ w * packBits r) / 2 ^ w = packBits r := by
    rw [Nat.add_mul_div_left _ _ (Nat.two_pow_pos w), Nat.div_eq_of_lt (Nat.mod_lt _ (Nat.two_pow_pos w)), Nat.zero_add]
  conv_lhs => rw [← Nat.add_sub_cancel' h, pow_add, ← Nat.div_div_eq_div_mul, packBits, hw]

theorem packBits_cons_mod (w v : Nat) (r : List (Nat × Nat)) : packBits ((w, v) :: r) % 2 ^ w = v % 2 ^ w := by
  rw [packBits, Nat.add_mul_mod_self_left, Nat.mod_mod]

theorem packBits_cons_bit (b : Bool) (r : List (Nat × Nat)) : packBits ((1, b2n b) :: r) % 2 = b2n b :=
  (packBits_cons_mod 1 _ r).trans (Nat.mod_eq_of_lt (b2n_lt_two b))

theorem leNat_append : ∀ a b : List Byte, leNat (a ++ b) = leNat a + 256 ^ a.length * leNat b
  | [], b => by simp [leNat]
  | x :: a, b => by rw [List.cons_append, leNat, leNat_append a b, leNat, List.length_cons, pow_succ]; ring

/-! ### The header CRC (R236) -/

theorem crcLeftSteps_lt {w poly : Nat} (hpoly : poly < 2 ^ w) : ∀ k c : Nat, c < 2 ^ w → crcLeftSteps w poly k c < 2 ^ w
  | 0, _, hc => hc
  | k + 1, c, _ => by
    have hshift : c * 2 % 2 ^ w < 2 ^ w := Nat.mod_lt _ (Nat.two_pow_pos w)
    refine crcLeftSteps_lt hpoly k _ ?_
    split_ifs
    · exact Nat.xor_lt_two_pow hshift hpoly
    · exact hshift

theorem crc16_lt (b : List Byte) : crc16 b < 2 ^ 16 :=
  List.foldlRecOn (motive := fun c => c < 2 ^ 16) b _ (by norm_num) fun c hc x _ =>
    crcLeftSteps_lt (by norm_num) 8 _ (Nat.xor_lt_two_pow hc (by have := x.isLt; omega))

@[simp] theorem encodeHeader_length (p : Packet) : (encodeHeader p).length = 40 := by simp [encodeHeader]

theorem headerCrcGood_encodeHeader (p : Packet) : headerCrcGood (encodeHeader p) = true := by
  have hcrc := crc16_lt (leBytes 38 (headerBits p))
  have htake : (encodeHeader p).take 38 = leBytes 38 (headerBits p) := by simp [encodeHeader]
  have hdrop : (encodeHeader p).drop 38 = leBytes 2 (crc16 (leBytes 38 (headerBits p))) := by simp [encodeHeader]
  rw [headerCrcGood, encodeHeader_length, htake, hdrop, leNat_leBytes, Nat.mod_eq_of_lt (by omega)]
  simp

/-! ### The fields of the header (R232) -/

/-- Widths and values of the fields in header bits [303:0], in order of place, the four reserved fields among them. -/
def headerFields (p : Packet) : List (Nat × Nat) :=
  [(8, p.typ), (1, b2n p.last), (1, b2n p.mcast), (1, b2n p.pinned), (1, b2n p.digest), (1, b2n p.sos), (1, b2n p.fwd),
   (2, bitsOf p.resv 1 0), (3, p.cls), (5, bitsOf p.resv 6 2), (18, p.dst), (18, p.src), (4, bitsOf p.resv 10 7),
   (20, p.stream), (24, p.seq), (32, p.heat), (7, payloadCells p), (6, lastBytes p), (7, bitsOf p.resv 17 11),
   (64, p.addr), (32, p.pcrc), (32, p.args), (16, p.route)]

theorem bitsOf_mod_width (v : Nat) {hi lo w : Nat} (h : hi + 1 - lo = w) : bitsOf v hi lo % 2 ^ w = bitsOf v hi lo :=
  h ▸ Nat.mod_eq_of_lt (bitsOf_lt v hi lo)

theorem headerBits_eq_packBits (p : Packet) : headerBits p = packBits (headerFields p) := by
  have hb (b : Bool) : b2n b % 2 ^ 1 = b2n b := Nat.mod_eq_of_lt (b2n_lt_two b)
  simp only [headerBits, headerFields, packBits, hb, bitsOf_mod_width _ rfl]
  omega

/-- Bits within the first `n` bytes are those of the number these bytes spell, whatever follows. -/
theorem bitsOf_leBytes_append {n hi : Nat} (h : hi < 8 * n) (lo v : Nat) (t : List Byte) :
    bitsOf (leNat (leBytes n v ++ t)) hi lo = bitsOf v hi lo := by
  refine Nat.eq_of_testBit_eq fun i => ?_
  have hspell : leNat (leBytes n v ++ t) = 2 ^ (8 * n) * leNat t + v % 2 ^ (8 * n) := by
    rw [leNat_append, leNat_leBytes, leBytes_length, pow_mul, Nat.add_comm]
    rfl
  rw [hspell, bitsOf, bitsOf, Nat.testBit_mod_two_pow, Nat.testBit_mod_two_pow, Nat.testBit_shiftRight, Nat.testBit_shiftRight,
    Nat.testBit_two_pow_mul_add _ (Nat.mod_lt _ (Nat.two_pow_pos _)), Nat.testBit_mod_two_pow]
  grind

/-- A field below the header CRC is read off the fields laid side by side. -/
theorem bitsOf_encodeHeader {hi : Nat} (h : hi < 304) (lo : Nat) (p : Packet) :
    bitsOf (leNat (encodeHeader p)) hi lo = packBits (headerFields p) / 2 ^ lo % 2 ^ (hi + 1 - lo) := by
  rw [encodeHeader, bitsOf_leBytes_append (n := 38) h, headerBits_eq_packBits, bitsOf_eq_div_mod]

/-- A bit is the field of width 1 at its place, of the header as of any number. -/
theorem bitAt_eq_bitsOf (v i : Nat) : bitAt v i = decide (bitsOf v i i = 1) := by
  rw [bitAt, Nat.testBit_eq_decide_div_mod_eq, bitsOf_eq_div_mod, Nat.add_sub_cancel_left, pow_one]

theorem b2n_mod_two_eq_one (b : Bool) : decide (b2n b % 2 ^ 1 = 1) = b := by cases b <;> rfl

/-- Four fields of 2, 5, 4 and 7 bits are the reserved bits they were cut from. -/
theorem reserved_bits {r : Nat} (h : r < 2 ^ 18) :
    bitsOf r 1 0 + bitsOf r 6 2 * 4 + bitsOf r 10 7 * 128 + bitsOf r 17 11 * 2048 = r := by
  simp only [bitsOf_eq_div_mod]
  omega

theorem payloadCells_le {p : Packet} (h : p.payload.length ≤ 2560) : payloadCells p ≤ 64 := by
  rw [payloadCells]; omega

theorem lastBytes_le (p : Packet) : lastBytes p ≤ 40 := by
  rw [lastBytes, payloadCells]; omega

theorem hdrCells_encodeHeader {p : Packet} (h : p.payload.length ≤ 2560) : hdrCells (encodeHeader p) = payloadCells p := by
  have hc : payloadCells p < 2 ^ 7 := by have := payloadCells_le h; omega
  rw [hdrCells, bitsOf_encodeHeader (by decide)]
  simp only [headerFields, packBits_cons_div, packBits_cons_mod, Nat.mod_eq_of_lt hc, Nat.reduceAdd, Nat.reduceSub, Nat.reduceLeDiff,
    pow_zero, Nat.div_one]

theorem hdrLast_encodeHeader (p : Packet) : hdrLast (encodeHeader p) = lastBytes p := by
  have hl : lastBytes p < 2 ^ 6 := by have := lastBytes_le p; omega
  rw [hdrLast, bitsOf_encodeHeader (by decide)]
  simp only [headerFields, packBits_cons_div, packBits_cons_mod, Nat.mod_eq_of_lt hl, Nat.reduceAdd, Nat.reduceSub, Nat.reduceLeDiff,
    pow_zero, Nat.div_one]

/-- Every field of the header is cut out at its place (R232). -/
theorem decodeHeader_encodeHeader {p : Packet} (h : packetOk p = true) (payload : List Byte) :
    decodeHeader (encodeHeader p) payload = { p with payload := payload } := by
  simp only [packetOk, Bool.and_eq_true, decide_eq_true_eq] at h
  obtain ⟨⟨⟨⟨⟨⟨⟨⟨⟨⟨⟨⟨htyp, hcls⟩, hdst⟩, hsrc⟩, hstream⟩, hseq⟩, hheat⟩, haddr⟩, hargs⟩, hroute⟩, hresv⟩, hpcrc⟩, -⟩ := h
  have hcls' : p.cls < 2 ^ 3 := hcls
  simp only [decodeHeader, bitAt_eq_bitsOf, bitsOf_encodeHeader, headerFields, packBits_cons_div, packBits_cons_mod, b2n_mod_two_eq_one,
    bitsOf_mod_width, reserved_bits, Nat.mod_eq_of_lt, htyp, hcls', hdst, hsrc, hstream, hseq, hheat, haddr, hargs, hroute, hresv, hpcrc,
    Nat.reduceAdd, Nat.reduceSub, Nat.reduceLeDiff, Nat.reduceLT, pow_zero, Nat.div_one]

/-! ### The payload cells (R231, R233) -/

theorem payloadCells_eq_zero {p : Packet} : payloadCells p = 0 ↔ p.payload.length = 0 := by
  rw [payloadCells]; omega

/-- The cells up to the last one and the bytes of the last one are the payload's length. -/
theorem payload_length_eq {p : Packet} :
    (if payloadCells p = 0 then 0 else (payloadCells p - 1) * 40 + lastBytes p) = p.payload.length := by
  rw [lastBytes, payloadCells]
  split_ifs <;> omega

theorem framingGood_encodeHeader {p : Packet} {cells : List Byte} (h : p.payload.length ≤ 2560)
    (hcells : cells.length = 40 * payloadCells p) (viol : List Nat) (abort : Bool) :
    framingGood { hdr := encodeHeader p, cells := cells, viol := viol, abort := abort } = true := by
  have hc := payloadCells_le h
  have hlast : if payloadCells p = 0 then lastBytes p = 0 else 1 ≤ lastBytes p ∧ lastBytes p ≤ 40 := by
    rw [lastBytes, payloadCells]
    split_ifs <;> omega
  simp only [framingGood, hdrCells_encodeHeader h, hdrLast_encodeHeader, hcells, hc]
  split_ifs at hlast ⊢ <;> simp [hlast]

/-- Settles O47: the header's fields lie side by side below its CRC, and the length they give cuts the payload out of its cells. -/
theorem headerCellsSpellThePacket : Obligations.HeaderCellsSpellThePacket := by
  intro p fill viol abort hok hfill
  have hlen : p.payload.length ≤ 2560 := by
    simp only [packetOk, Bool.and_eq_true, decide_eq_true_eq] at hok
    exact hok.2
  refine ⟨headerCrcGood_encodeHeader p, framingGood_encodeHeader hlen (by rw [List.length_append, hfill]) viol abort, ?_⟩
  simp only [frameToPacket, hdrCells_encodeHeader hlen, hdrLast_encodeHeader, payload_length_eq, List.take_left,
    decodeHeader_encodeHeader hok]

end Sys2Proof.Machine
end

section
/-! PROOF. Routing commands complete (R253, R272 to R278, R282, R286, R288, R297). -/
namespace Sys2Proof.Machine

section
variable {m : CmdMeta} {s : State}

/-! ### A register of both switch halves -/

@[simp] theorem setBoth_route (f : Fld) (v : Nat) (s : State) : (setBoth f v s).route = s.route := rfl

theorem reg_setBoth_self {f : Fld} {v j : Nat} (hj : j < 2) (hv : v < 2 ^ fldWidth f) (s : State) : reg f j (setBoth f v s) = v := by
  obtain rfl | rfl : j = 0 ∨ j = 1 := by omega
  · rw [setBoth, reg_setReg_ne _ _ (by simp), reg_setReg_self, Nat.mod_eq_of_lt hv]
  · rw [setBoth, reg_setReg_self, Nat.mod_eq_of_lt hv]

theorem reg_setBoth_fld {f g : Fld} (h : g ≠ f) (v j : Nat) (s : State) : reg g j (setBoth f v s) = reg g j s := by
  rw [setBoth, reg_setReg_ne _ _ (by simp [h]), reg_setReg_ne _ _ (by simp [h])]

theorem onlyRegs_trans {ks ls : List (Fld × Nat)} {s t u : State} (hst : OnlyRegs ks s t) (htu : OnlyRegs ls t u) :
    OnlyRegs (ks ++ ls) s u := by
  obtain ⟨hs, hregs⟩ := hst
  obtain ⟨ht, hregt⟩ := htu
  refine ⟨?_, fun f i hnot => ?_⟩
  · rw [← hs, ← ht]
  · rw [List.mem_append, not_or] at hnot
    rw [hregt f i hnot.2, hregs f i hnot.1]

theorem onlyRegs_setBoth (f : Fld) (v : Nat) (s : State) : OnlyRegs [(f, 0), (f, 1)] s (setBoth f v s) :=
  onlyRegs_trans (onlyRegs_setReg f 0 v s) (onlyRegs_setReg f 1 v _)

/-! ### State, statistics, fences and trees (R282, R288) -/

theorem exec_routeStatus (ht : Takes m 0x0200 s) : exec (.routeStatus m) s = .next (answer (refOf m 0x0200) stDone
    (packFields [(2, reg .rtGen 0 s), (1, reg .rtSpread 0 s), (1, reg .rtTest 0 s), (4, (fenceList s).length)]) s) := by
  change execRouteStatus m s = _
  rw [execRouteStatus, command_of_takes ht]

theorem exec_routeStats (ht : Takes m 0x0230 s) : exec (.routeStats m) s
    = .next (answer (refOf m 0x0230) stDone (readWords 0x20000010 7 s ++ readWords 0x21000010 7 s) s) := by
  change execRouteStats m s = _
  rw [execRouteStats, command_of_takes ht]

theorem exec_routeFenceList_inRange {first : Nat} (ht : Takes m 0x0221 s) (hfirst : first ≤ (fenceList s).length) :
    exec (.routeFenceList m first) s
      = .next (answer (refOf m 0x0221) stDone ((((fenceList s).drop first).take 256).flatMap (leBytes 4)) s) := by
  change execRouteFenceList m first s = _
  rw [execRouteFenceList, command_of_takes ht, if_neg (Nat.not_lt.mpr hfirst)]

theorem exec_routeTreeRead_found {root tree : Nat} {e : TreeEnt} (ht : Takes m 0x0220 s) (hroot : root < 2320) (htree : tree < 2 ^ 18)
    (hfound : tabFind s.route.trees (treeKey root tree) = some e) :
    exec (.routeTreeRead m root tree) s = .next (answer (refOf m 0x0220) stDone (treeBytes e) s) := by
  change execRouteTreeRead m root tree s = _
  simp only [execRouteTreeRead, command_of_takes ht, hfound, hroot, htree, and_self, if_true]

/-! ### A link leaves service (R275) -/

theorem exec_routeLinkClose_accepted {l : Nat} (ht : TakesLong m 0x0201 s) (hfab : isFabric l = true) (hactive : lkStateOf l s = lkActive)
    (hopen : (link l s).closing = false) (hidle : changeOf l s = none) : exec (.routeLinkClose m l) s
      = .next (startChange l false (some (refOf m 0x0201)) true (accepted (refOf m 0x0201) s)) := by
  have hreg : reg .lkState l s = 4 := hactive
  have hfree : ¬ (reg .lkState l s ≠ 4 ∨ (link l s).closing ∨ (changeOf l s).isSome) := by simp [hreg, hopen, hidle]
  change execRouteLinkClose m l s = _
  simp only [execRouteLinkClose, command_of_takes ht.1, accept_of_takesLong ht, hfab, hfree, Bool.not_true, Bool.false_eq_true, if_false]

/-! ### Settings (R253, R273, R286) -/

/-- The state with the three routing limits stored in both halves. -/
def withRouteLimits (vent bias drain : Nat) (s : State) : State :=
  setBoth .rtVentWait vent (setBoth .rtNmBias bias (setBoth .rtDrainMax drain s))

theorem onlyRegs_withRouteLimits (vent bias drain : Nat) (s : State) :
    OnlyRegs [(.rtVentWait, 0), (.rtVentWait, 1), (.rtNmBias, 0), (.rtNmBias, 1), (.rtDrainMax, 0), (.rtDrainMax, 1)] s
      (withRouteLimits vent bias drain s) := by
  obtain ⟨hrest, hregs⟩ := onlyRegs_trans (onlyRegs_setBoth .rtDrainMax drain s)
    (onlyRegs_trans (onlyRegs_setBoth .rtNmBias bias _) (onlyRegs_setBoth .rtVentWait vent _))
  refine ⟨hrest, fun f i hnot => hregs f i fun hmem => hnot ?_⟩
  simp only [List.mem_append, List.mem_cons, List.not_mem_nil, or_false] at hmem ⊢
  tauto

theorem exec_routeParamSet_inRange {vent bias drain : Nat} (ht : Takes m 0x0203 s) (hmin : 100 ≤ vent) (hvent : vent < 65536)
    (hbias : bias < 65536) (hdmin : 10 ≤ drain) (hdrain : drain < 65536) :
    exec (.routeParamSet m vent bias drain) s = .next (done (refOf m 0x0203) (withRouteLimits vent bias drain s)) := by
  change execRouteParamSet m vent bias drain s = _
  simp only [execRouteParamSet, command_of_takes ht, hmin, hvent, hbias, hdmin, hdrain, decide_true, Bool.and_self, requires_true,
    withRouteLimits]

theorem reg_withRouteLimits {vent bias drain j : Nat} (hj : j < 2) (hvent : vent < 65536) (hbias : bias < 65536) (hdrain : drain < 65536)
    (s : State) : reg .rtVentWait j (withRouteLimits vent bias drain s) = vent ∧
      reg .rtNmBias j (withRouteLimits vent bias drain s) = bias ∧ reg .rtDrainMax j (withRouteLimits vent bias drain s) = drain := by
  refine ⟨reg_setBoth_self hj hvent _, ?_, ?_⟩
  · rw [withRouteLimits, reg_setBoth_fld (by decide), reg_setBoth_self hj hbias]
  · rw [withRouteLimits, reg_setBoth_fld (by decide), reg_setBoth_fld (by decide), reg_setBoth_self hj hdrain]

theorem exec_routeSpread_flag {on : Nat} (ht : Takes m 0x0204 s) (hon : on ≤ 1) : exec (.routeSpread m on) s
    = .next (done (refOf m 0x0204)
        (setBoth .rtSpread on (if on = 1 then { s with route := { s.route with startUp := false } } else s))) := by
  change execRouteSpread m on s = _
  simp only [execRouteSpread, command_of_takes ht, hon, decide_true, requires_true]

theorem exec_routeTest_flag {on : Nat} (ht : Takes m 0x0205 s) (hon : on ≤ 1) :
    exec (.routeTest m on) s = .next (done (refOf m 0x0205) (setBoth .rtTest on s)) := by
  change execRouteTest m on s = _
  simp only [execRouteTest, command_of_takes ht, hon, decide_true, requires_true]

/-! ### Reserved links (R278) -/

theorem exec_routeReserve_clear {mask : Nat} (ht : Takes m 0x0206 s) (hmask : mask < 2 ^ 24) :
    exec (.routeReserve m mask 0) s = .next (done (refOf m 0x0206)
      { s with route := { s.route with reserved := ((bitList 24 mask).map (· + 24)).foldl tabDel s.route.reserved } }) := by
  change execRouteReserve m mask 0 s = _
  simp only [execRouteReserve, command_of_takes ht, Nat.not_le.mpr hmask, if_true, if_false]

theorem exec_routeReserve_set {mask heat : Nat} (ht : Takes m 0x0206 s) (hmask : mask < 2 ^ 24) (hheat : heat ≠ 0)
    (hfree : ∀ l ∈ (bitList 24 mask).map (· + 24), reservedAgainst s heat l = false) :
    exec (.routeReserve m mask heat) s = .next (done (refOf m 0x0206) { s with route := { s.route with
      reserved := ((bitList 24 mask).map (· + 24)).foldl (fun t l => tabPut t l heat) s.route.reserved } }) := by
  have hany : ((bitList 24 mask).map (· + 24)).any (fun l => reservedAgainst s heat l) = false :=
    List.any_eq_false.mpr fun l hl => by simp [hfree l hl]
  change execRouteReserve m mask heat s = _
  simp only [execRouteReserve, command_of_takes ht, Nat.not_le.mpr hmask, hheat, hany, Bool.false_eq_true, if_false]

/-! ### Allowances (R297) -/

theorem exec_routeCreditSet_inRange {l v a : Nat} (ht : Takes m 0x0210 s) (hl : l < 52) (hv : v < 8) (hvc : v < 5 ∨ isFabric l = true)
    (hmin : 65 ≤ a) (hmax : a ≤ 4194304) (hsum : allowSum l v a (List.range 8) s ≤ 5242880)
    (hhigh : allowSum l v a [5, 6, 7] s ≤ min (reg .tuReserve 0 s) (reg .tuReserve 1 s) - 16384) :
    exec (.routeCreditSet m l v a) s = .next (done (refOf m 0x0210) (modVc l v (fun x => { x with allowCfg := a }) s)) := by
  have hedge : ¬ (¬ isFabric l = true ∧ v ≥ 5) := fun ⟨hfab, hhi⟩ => hvc.elim (Nat.not_lt.mpr hhi) hfab
  change execRouteCreditSet m l v a s = _
  simp only [execRouteCreditSet, command_of_takes ht, hedge, Nat.not_le.mpr hl, Nat.not_le.mpr hv, Nat.not_lt.mpr hmin,
    Nat.not_lt.mpr hmax, Nat.not_lt.mpr hsum, Nat.not_lt.mpr hhigh, or_self, if_false]

end

/-- Settles O12: with none of a command's refusals in the way its work and reply are left; what it stores in both halves fits its
field, so that it is read back. -/
theorem routeCommandsComplete : Obligations.RouteCommandsComplete := by
  intro m s
  refine ⟨exec_routeStatus, fun _ => exec_routeLinkClose_accepted, ?limits, ?spread, ?test, fun _ => exec_routeReserve_clear,
    fun _ _ => exec_routeReserve_set, fun _ _ _ => exec_routeCreditSet_inRange, fun _ _ _ => exec_routeTreeRead_found,
    fun _ => exec_routeFenceList_inRange, exec_routeStats⟩
  case limits =>
    intro vent bias drain ht hmin hvent hbias hdmin hdrain
    obtain ⟨hvent₀, hbias₀, hdrain₀⟩ := reg_withRouteLimits zero_lt_two hvent hbias hdrain s
    obtain ⟨hvent₁, hbias₁, hdrain₁⟩ := reg_withRouteLimits one_lt_two hvent hbias hdrain s
    exact ⟨_, exec_routeParamSet_inRange ht hmin hvent hbias hdmin hdrain, hvent₀, hvent₁, hbias₀, hbias₁, hdrain₀, hdrain₁,
      onlyRegs_withRouteLimits vent bias drain s⟩
  case spread =>
    intro on ht hon
    have hfit : on < 2 ^ fldWidth .rtSpread := Nat.lt_succ_of_le hon
    refine ⟨_, exec_routeSpread_flag ht hon, reg_setBoth_self zero_lt_two hfit _, reg_setBoth_self one_lt_two hfit _, fun h => ?_⟩
    rw [setBoth_route, if_pos h]
  case test =>
    intro on ht hon
    have hfit : on < 2 ^ fldWidth .rtTest := Nat.lt_succ_of_le hon
    exact ⟨_, exec_routeTest_flag ht hon, reg_setBoth_self zero_lt_two hfit _, reg_setBoth_self one_lt_two hfit _,
      onlyRegs_setBoth _ _ s⟩

end Sys2Proof.Machine
end

section
/-! PROOF. The switch and the command queues complete (R240, R244, R247, R250, R310, R356). -/
namespace Sys2Proof.Machine

section
variable {s : State}

/-! ### A frame arrives (R240, R310) -/

/-- A frame with a good header CRC is a packet for the switch core, its corrected cell errors counted. -/
theorem receiveFrame_of_good {l : Nat} {f f' : Frame} {u : State} (htake : takeFrameOn l f s = (f', u))
    (hcrc : headerCrcGood f'.hdr = true) (ecc : CellErrs) :
    receiveFrame l f ecc s = receiveHeader l (1 + f'.cells.length / 40) (frameDamaged f' || ecc.uncorrected ≠ []) (frameToPacket f')
      (noteCorrected ecc.corrected.length (addReg .xbEccCnt (dieOfLink l) ecc.corrected.length u)) := by
  simp only [receiveFrame, htake, hcrc, Bool.not_true, Bool.false_eq_true, if_false]

theorem exec_packetReceive_of_good {l : Nat} {f f' : Frame} {u : State} (hl : l < 52) (hsends : linkSends l s = true)
    (htake : takeFrameOn l f s = (f', u)) (hcrc : headerCrcGood f'.hdr = true) (ecc : CellErrs) :
    exec (.packetReceive l f ecc) s = .next (resendMarked (receiveHeader l (1 + f'.cells.length / 40)
      (frameDamaged f' || ecc.uncorrected ≠ []) (frameToPacket f')
      (noteCorrected ecc.corrected.length (addReg .xbEccCnt (dieOfLink l) ecc.corrected.length u)))) := by
  change execPacketReceive l f ecc s = _
  rw [execPacketReceive, decide_eq_true hl, if_pos hsends, receiveFrame_of_good htake hcrc, onUnit, if_pos rfl]

/-! ### The head of a queue departs (R310) -/

theorem exec_packetDepart_link {l i : Nat} (hl : l < 52) (hsends : linkSends l s = true) (hhead : departing l (noteNoFit l s) = some i)
    (ecc : CellErrs) : exec (.packetDepart l ecc) s = .next (resendMarked (sendHead l i false ecc (noteNoFit l s))) := by
  have hdep : departLink l ecc s = sendHead l i false ecc (noteNoFit l s) := by
    simp only [departLink, hsends, hhead, Bool.not_true, Bool.false_eq_true, if_false]
  change execPacketDepart l ecc s = _
  rw [execPacketDepart, if_pos hl, hdep]

theorem exec_packetDepart_port {port i : Nat} {e : QEnt} {q : OutQueue} {t : State} {ecc : CellErrs} (hlo : 56 ≤ port) (hhi : port ≤ 58)
    (hhead : departing port s = some i) (hpop : popQueue i s = some (e, q, t)) (hecc : ecc.uncorrected = []) :
    exec (.packetDepart port ecc) s
      = .next (settleAnswers (portTakes port e.pkt (settleBindings (dropHold e.hold (noteCellErrs e.hold ecc t))))) := by
  have hdep : departPort port ecc s
      = settleAnswers (portTakes port e.pkt (settleBindings (dropHold e.hold (noteCellErrs e.hold ecc t)))) := by
    simp only [departPort, hhead, hpop, hecc, ne_eq, not_true_eq_false, if_false]
  change execPacketDepart port ecc s = _
  rw [execPacketDepart, if_neg (by omega), decide_eq_true hlo, decide_eq_true hhi, hdep, onUnit, if_pos (by rfl)]

/-! ### A command starts (R356) -/

/-- Whatever a command's own work comes to, `command` makes it a next state: every arm reduces to one. -/
theorem runCommand_answers (i : Instr) (s : State) : ∃ t, runCommand i s = .next t := by
  cases i <;> exact ⟨_, rfl⟩

theorem exec_commandStart_parsed {q : Nat} {c : QCmd} {r : List QCmd} {i : Instr} (hq : q ≤ 8) (hmay : mayStart q s = true)
    (hfront : cmdQueue q s = c :: r) (hlen : c.len = c.payload.length)
    (hparse : parseCommand (metaOfCmd c) c.ref.op c.payload = .ok i)
    (htag : tagInUse c { s with fore := { s.fore with queues := tabSet [] s.fore.queues q r } } = false) :
    exec (.commandStart q) s = runCommand i { s with fore := { s.fore with queues := tabSet [] s.fore.queues q r } } := by
  change execCommandStart q s = _
  simp only [execCommandStart, startCmd, Nat.not_lt.mpr hq, hmay, hfront, hlen, hparse, htag, ne_eq, not_true_eq_false, Bool.not_true,
    Bool.false_eq_true, if_false]

/-! ### Timers of streams (R244, R247, R250) -/

theorem resendMax_advanceTo (t : Nat) (s : State) : resendMax (advanceTo t s) = resendMax s := by simp [resendMax]

theorem exec_resendTimeout_kept {src dst stream seq : Nat} {x : SentPkt} (hsent : sentPkt src dst stream seq s = some x)
    (hagain : x.again = false) (htries : x.tries < resendMax s) : exec (.resendTimeout src dst stream seq) s
      = .next (resendKept src dst stream x (advanceTo (x.at' + resendNs s) s)) := by
  change execResendTimeout src dst stream seq s = _
  simp only [execResendTimeout, hsent, hagain, resendMax_advanceTo, Nat.not_le.mpr htries, Bool.false_eq_true, if_false]

theorem exec_resendTimeout_givenUp {src dst stream seq : Nat} {x : SentPkt} (hsent : sentPkt src dst stream seq s = some x)
    (hagain : x.again = false) (htries : resendMax s ≤ x.tries) : exec (.resendTimeout src dst stream seq) s
      = .next (giveUp src stream x (advanceTo (x.at' + resendNs s) s)) := by
  change execResendTimeout src dst stream seq s = _
  simp only [execResendTimeout, hsent, hagain, resendMax_advanceTo, htries, Bool.false_eq_true, if_false, if_true]

theorem exec_gapTimeout_held {src stream dst : Nat} {c : Ctx} (hctx : tabFind s.net.ctxs (ctxKey src stream dst) = some c)
    (hheld : c.held ≠ []) (hhanded : c.handed = false) : exec (.gapTimeout src stream dst) s
      = .next (resendMarked (breakStream c (advanceTo (oldestHeld c + 1000000) s))) := by
  change execGapTimeout src stream dst s = _
  simp only [execGapTimeout, hctx, hheld, hhanded, Bool.false_eq_true, or_self, if_false]

end

/-- Settles O38: each event finds its unit, its queue's front or its stream's record as the clause says, and does the one thing that
leads to; a command that starts answers a next state whatever it is. -/
theorem switchEventsComplete : Obligations.SwitchEventsComplete := by
  intro s
  refine ⟨fun _ _ _ ecc _ hl hsends htake hcrc => exec_packetReceive_of_good hl hsends htake hcrc ecc,
    fun _ _ ecc hl hsends hhead => exec_packetDepart_link hl hsends hhead ecc, fun _ _ _ _ _ _ => exec_packetDepart_port, ?start,
    fun _ _ _ _ _ => exec_resendTimeout_kept, fun _ _ _ _ _ => exec_resendTimeout_givenUp, fun _ _ _ _ => exec_gapTimeout_held⟩
  case start =>
    intro q c r i hq hmay hfront hlen hparse htag
    have hrun := exec_commandStart_parsed hq hmay hfront hlen hparse htag
    exact ⟨hrun, hrun ▸ runCommand_answers i _⟩

end Sys2Proof.Machine
end

section
/-! PROOF. Routing and credit events complete (R265, R271, R273, R275 to R277, R302). -/
namespace Sys2Proof.Machine

/-! ### Routing's own writes and this device's name (R193, R273) -/

@[simp] theorem writeShadow_coord (f : RouteTables → RouteTables) (s : State) : (writeShadow f s).coord = s.coord := rfl

@[simp] theorem pinGroups_coord (gs : List Nat) (s : State) : (pinGroups gs s).coord = s.coord := rfl

@[simp] theorem ownDev_writeShadow (f : RouteTables → RouteTables) (s : State) : ownDev (writeShadow f s) = ownDev s :=
  ownDev_congr rfl

@[simp] theorem ownDev_pinGroups (gs : List Nat) (s : State) : ownDev (pinGroups gs s) = ownDev s := ownDev_congr rfl

@[simp] theorem ownDev_emit (o : OutMsg) (s : State) : ownDev (emit o s) = ownDev s := ownDev_congr rfl

section
variable {s : State} {l : Nat}

/-! ### Credits (R271, R302) -/

/-- A tick on an active link sends the half's counts, after the 1 us since the last ones where no channel has grown by 256. -/
theorem exec_creditSendTick_active {h : Nat} (hl : l < 52) (hh : h < 2) (hst : lkStateOf l s = lkActive) :
    exec (.creditSendTick l h) s
      = .next (sendCredit l h (if (halfVcs h).any (fun v => decide (subMod (vcOf l v s).c (vcOf l v s).lastC (2 ^ 24) ≥ 256)) then s
          else advanceTo ((vcOf l (4 * h) s).lastAt + 1000) s)) := by
  have hreg : reg .lkState l s = 4 := hst
  have hunit : ¬ (l ≥ 52 ∨ h ≥ 2) := by omega
  change execCreditSendTick l h s = _
  simp only [execCreditSendTick, hunit, hreg, decide_true, Bool.or_true, Bool.true_or, Bool.not_true, Bool.false_eq_true, if_false]

theorem exec_creditSendTick_grown {h : Nat} (hl : l < 52) (hh : h < 2) (hst : lkStateOf l s = lkActive)
    (hgrown : ∃ v ∈ halfVcs h, 256 ≤ subMod (vcOf l v s).c (vcOf l v s).lastC (2 ^ 24)) :
    exec (.creditSendTick l h) s = .next (sendCredit l h s) := by
  rw [exec_creditSendTick_active hl hh hst, if_pos (by simpa using hgrown)]

theorem exec_creditSendTick_due {h : Nat} (hl : l < 52) (hh : h < 2) (hst : lkStateOf l s = lkActive)
    (hsmall : ∀ v ∈ halfVcs h, subMod (vcOf l v s).c (vcOf l v s).lastC (2 ^ 24) < 256) :
    exec (.creditSendTick l h) s = .next (sendCredit l h (advanceTo ((vcOf l (4 * h) s).lastAt + 1000) s)) := by
  rw [exec_creditSendTick_active hl hh hst, if_neg (by simpa using hsmall)]

theorem exec_levelFallRelease_unit {v : Nat} (hl : l < 52) (hv : v < 5) :
    exec (.levelFallRelease l v) s = .next (releaseLevel l v s) := by
  change execLevelFallRelease l v s = _
  rw [execLevelFallRelease, if_neg (by omega)]

/-! ### The Vent (R265) -/

/-- A packet vents once only credit holds it back: its class is open and it fits the window. -/
theorem exec_ventEscape_starved {i : Nat} {q : OutQueue} {e : QEnt} {r : List QEnt} (hq : queueOf i s = some q) (hents : q.ents = e :: r)
    (hvc : q.vc < 5) (hfab : isFabric q.port = true) (hcredit : creditAvail q.port q.vc s < e.cells)
    (hopen : classOpen q.port q.vc s = true) (hfits : fitsWindow q.port q.vc e.cells s = true) :
    exec (.ventEscape i) s = .next (ventHead i q e (advanceTo (e.headAt + reg .rtVentWait 0 s) s)) := by
  change execVentEscape i s = _
  simp only [execVentEscape, hq, hents, hfab, hopen, hfits, Nat.not_le.mpr hvc, Nat.not_le.mpr hcredit, not_true_eq_false, or_self,
    if_false]

/-! ### A link elsewhere changes (R275) -/

/-- A change of a link that neither ends at this device nor runs within a group is entered in the shadow tables and acknowledged. -/
theorem exec_routeUpdate_elsewhere {peer : Nat} {add : Bool}
    (hfar : ∀ e, wiredTo (s.coord.count.getD 1) (groupOf peer) (memberOf peer) l = some e → e.dev ≠ ownDev s)
    (hglobal : isIntra l = false) : exec (.routeUpdate peer l add) s = .next (emit (.ctl peer .routeAck [ownDev s, l] [])
      (writeShadow (withLink s peer l add) (pinGroups (servedGroups peer l s) s))) := by
  change execRouteUpdate peer l add s = _
  simp only [execRouteUpdate, emit_coord, writeShadow_coord, pinGroups_coord, ownDev_emit, ownDev_writeShadow, ownDev_pinGroups]
  split
  case h_1 => rfl
  case h_2 e he =>
    rw [if_neg (hfar e he), if_neg (by simp [hglobal])]

/-! ### The steps of a change on this device (R275 to R277) -/

theorem exec_routeTableFlip_changed (hdiff : s.route.shadow ≠ s.route.active) : exec .routeTableFlip s = .next (flipTables s) := by
  change execRouteTableFlip s = _
  rw [execRouteTableFlip, if_neg fun h => hdiff h.1]

/-- A closing enters the shadow tables once its link has drained, not before: the model's choice (log entry 15). -/
theorem exec_linkDrained_quiet {c : RouteChange} (hl : l < 52) (hc : changeOf l s = some c) (hclose : c.add = false)
    (hstep : c.step = 3) (hquiet : linkQuiet l s = true) : exec (.linkDrained l) s
      = .next (writeShadow (withOwnLink s l false) (putChange l (some { c with step := 4, since := s.time.now }) s)) := by
  change execLinkDrained l s = _
  simp only [execLinkDrained, Nat.not_le.mpr hl, hc, hclose, hstep, hquiet, ne_eq, not_true_eq_false, Bool.false_eq_true, or_self,
    if_false]

/-- A change not yet ready for the flip is given up at its step's bound: 20 us for the answers, DRAIN_MAX for the drain (R275). -/
theorem exec_drainTimeout_unready {c : RouteChange} (hl : l < 52) (hc : changeOf l s = some c) (hstep : c.step ≠ 4) :
    exec (.drainTimeout l) s = .next (reopenLink l c
      (advanceTo (c.since + (if c.step = 2 then 20000 else reg .rtDrainMax 0 s * 1000)) s)) := by
  change execDrainTimeout l s = _
  simp only [execDrainTimeout, Nat.not_le.mpr hl, hc, hstep, if_false]

theorem exec_drainTimeout_answers {c : RouteChange} (hl : l < 52) (hc : changeOf l s = some c) (hstep : c.step = 2) :
    exec (.drainTimeout l) s = .next (reopenLink l c (advanceTo (c.since + 20000) s)) := by
  rw [exec_drainTimeout_unready hl hc (by omega), if_pos hstep]

theorem exec_drainTimeout_drain {c : RouteChange} (hl : l < 52) (hc : changeOf l s = some c) (hstep : c.step = 3) :
    exec (.drainTimeout l) s = .next (reopenLink l c (advanceTo (c.since + reg .rtDrainMax 0 s * 1000) s)) := by
  rw [exec_drainTimeout_unready hl hc (by omega), if_neg (by omega)]

theorem exec_pinningEnd_timed {g t0 : Nat} (hpin : tabFind s.route.pinned g = some t0) (hne : t0 ≠ 0) :
    exec (.pinningEnd g) s
      = .next { advanceTo t0 s with route := { s.route with pinned := tabDel s.route.pinned g } } := by
  change execPinningEnd g s = _
  simp only [execPinningEnd, hpin, hne, if_false, advanceTo_route]

theorem exec_routeChangeAck_pending {peer : Nat} {c : RouteChange} (hc : changeOf l s = some c) : exec (.routeChangeAck peer l) s
    = .next (settleAcks l (putChange l (some { c with awaiting := c.awaiting.filter (· ≠ peer) }) s)) := by
  change execRouteChangeAck peer l s = _
  simp only [execRouteChangeAck, hc]

end

/-- Settles O13: each event by the one state its conditions leave; the end of a pinning is read off that state. -/
theorem routeEventsComplete : Obligations.RouteEventsComplete := by
  intro s
  refine ⟨fun _ _ => exec_creditSendTick_grown, fun _ _ => exec_creditSendTick_due, fun _ _ _ _ => exec_ventEscape_starved,
    fun _ _ => exec_levelFallRelease_unit, fun _ _ _ => exec_routeUpdate_elsewhere, exec_routeTableFlip_changed,
    fun _ _ => exec_linkDrained_quiet, fun _ _ => exec_drainTimeout_answers, fun _ _ => exec_drainTimeout_drain, ?pinning,
    fun _ _ _ => exec_routeChangeAck_pending⟩
  case pinning =>
    exact fun g t0 hpin hne => ⟨_, exec_pinningEnd_timed hpin hne, rfl, advanceTo_now t0 s⟩

end Sys2Proof.Machine
end

section
/-! PROOF. Fencing events complete (R280, R281). -/
namespace Sys2Proof.Machine

section
variable {s : State} {e d : Nat}

/-! ### Notices and reports from other devices (R280, R281) -/

theorem exec_fenceNotice_new {peer : Nat} (hnew : (fenceList s).contains e = false) :
    exec (.fenceNotice peer e) s = .next (takeFence e peer (passNotice peer e .fenceNotice s)) := by
  change execFenceNotice peer e s = _
  simp only [execFenceNotice, hnew, Bool.false_eq_true, if_false]

theorem exec_unfenceNotice_fenced {peer : Nat} (hheld : (fenceList s).contains e = true) :
    exec (.unfenceNotice peer e) s = .next (dropFence e (passNotice peer e .unfenceNotice s)) := by
  change execUnfenceNotice peer e s = _
  simp only [execUnfenceNotice, hheld, Bool.not_true, Bool.false_eq_true, if_false]

theorem exec_giveUpReport (peer e : Nat) (s : State) : exec (.giveUpReport peer e) s = .next (takeGiveUp e s) := rfl

/-! ### Probes of a device (R280) -/

theorem exec_fenceProbe (peer : Nat) (s : State) :
    exec (.fenceProbe peer) s = .next (emit (.ctl peer .probeReply [ownDev s] []) s) := rfl

theorem exec_fenceProbeReply_awaited (hprobe : s.route.probes.any (fun x => x.1 = d) = true) :
    exec (.fenceProbeReply d) s = .next (foundLive (devEp d)
      { s with route := { s.route with probes := s.route.probes.filter fun x => x.1 ≠ d } }) := by
  change execFenceProbeReply d s = _
  rw [execFenceProbeReply, if_pos hprobe]

theorem exec_fenceProbeTimeout_awaited {x : Nat × Nat × Nat} (hprobe : s.route.probes.find? (fun x => x.1 = d) = some x) :
    exec (.fenceProbeTimeout d) s = .next (declareFence (devEp d)
      { advanceTo (x.2.2 + 10000) s with route := { s.route with probes := s.route.probes.filter fun x => x.1 ≠ d } }) := by
  change execFenceProbeTimeout d s = _
  simp only [execFenceProbeTimeout, hprobe, advanceTo_route]

/-! ### An endpoint of this device returns no credit (R280) -/

/-- The watch ends after 100 us without credit from the endpoint: with cells still waiting for it the endpoint is fenced, else live. -/
theorem exec_endpointCreditStall_watched {l t0 : Nat} {t : State} (hedge : isEdge l = true) (hwatch : (link l s).giveUpAt = some t0)
    (ht : t = advanceTo (stallStart l s + 100000) (modLink l (fun k => { k with giveUpAt := none }) s)) :
    exec (.endpointCreditStall l) s
      = .next (if cellsWait l t then declareFence (ownEp l t) t else foundLive (ownEp l t) t) := by
  change execEndpointCreditStall l s = _
  simp only [execEndpointCreditStall, hedge, hwatch, ht, Bool.not_true, Bool.false_eq_true, if_false]

end

/-- Settles O14: each event by the one state its conditions leave; of a stalled endpoint that state is the one after its watch has
ended. -/
theorem fenceEventsComplete : Obligations.FenceEventsComplete := by
  intro s
  refine ⟨fun _ _ => exec_fenceNotice_new, fun _ _ => exec_unfenceNotice_fenced, fun peer e => exec_giveUpReport peer e s,
    fun peer => exec_fenceProbe peer s, fun _ => exec_fenceProbeReply_awaited, fun _ _ => exec_fenceProbeTimeout_awaited, ?stall⟩
  case stall =>
    exact fun l t0 hedge hwatch => ⟨_, exec_endpointCreditStall_watched hedge hwatch rfl, by simp⟩

end Sys2Proof.Machine
end

section
/-! PROOF. Opcode and packed parameters spell a command, and nothing else does (R353, R356, R471). -/
namespace Sys2Proof.Machine

/-! ### Fixed fields, cut and packed (R471) -/

theorem takeFront_packFields (l : List (Nat × Nat)) (t : List Byte) (h : ∀ e ∈ l, fits e.1 e.2 = true) :
    takeFront (l.map (·.1)) (packFields l ++ t) = some (l.map (·.2), t) := by
  induction l with
  | nil => rfl
  | cons e l ih =>
    obtain ⟨he, hl⟩ := List.forall_mem_cons.mp h
    simp only [List.map_cons, packFields, List.append_assoc, takeFront_pack, ih hl, Option.map_some, mod_of_fits he]

/-- The fixed fields of a form with the values that its command takes for them. -/
def formFields (widths v : List Nat) : List (Nat × Nat) := widths.zipIdx.map fun e => (e.1, v.getD e.2 0)

theorem formFields_cons (w x : Nat) (r v : List Nat) : formFields (w :: r) (x :: v) = (w, x) :: formFields r v := by
  simp [formFields, List.zipIdx_succ (l := r) (i := 0), Function.comp_def]

theorem packFields_of_takeFront {widths : List Nat} {b t : List Byte} {v : List Nat} (h : takeFront widths b = some (v, t)) :
    packFields (formFields widths v) ++ t = b := by
  induction widths generalizing b v with
  | nil => cases h; rfl
  | cons w r ih =>
    obtain ⟨x, v', b', rfl, rfl, -, hr⟩ := takeFront_inv h
    rw [formFields_cons, packFields, List.append_assoc, ih hr]

/-! ### What follows the fixed fields -/

/-- The bytes a command spells for what was read as its tail. -/
def tailBytes (f : FormTail) (t : List Byte) : List Byte :=
  match f with
  | .none => []
  | .bytes _ _ => t
  | .list w _ _ => numberBytes w (numbers w t)
  | .counted _ w => numberBytes w (numbers w t)
  | .pairs _ => pairBytes (numberPairs t)

/-- Whole numbers are spelt by what they are read as; of width 0 there are none. -/
theorem numberBytes_numbers_of_dvd {w : Nat} {t : List Byte} (h : w ∣ t.length) : numberBytes w (numbers w t) = t := by
  obtain ⟨k, hk⟩ := h
  rcases Nat.eq_zero_or_pos w with rfl | hw
  · have ht : t = [] := List.length_eq_zero_iff.mp (by rw [hk, Nat.zero_mul])
    subst ht
    rfl
  · exact numberBytes_numbers hw k t hk

theorem tailBytes_of_tailFits {f : FormTail} {v : List Nat} {t : List Byte} (h : tailFits f v t = true) : tailBytes f t = t := by
  cases f with
  | none => exact (of_decide_eq_true h).symm
  | bytes lo hi => rfl
  | list w lo hi =>
    simp only [tailFits, Bool.and_eq_true, decide_eq_true_eq] at h
    obtain ⟨⟨hw, -⟩, -⟩ := h
    exact numberBytes_numbers_of_dvd (Nat.dvd_of_mod_eq_zero hw)
  | counted i w => exact numberBytes_numbers_of_dvd ⟨_, of_decide_eq_true h⟩
  | pairs k =>
    simp only [tailFits, Bool.and_eq_true, decide_eq_true_eq] at h
    obtain ⟨hten, -⟩ := h
    obtain ⟨n, hn⟩ := Nat.dvd_of_mod_eq_zero hten
    exact pairBytes_numberPairs n t hn

theorem tailFits_list {w lo hi : Nat} (hw : 0 < w) {l : List Nat} (h : lengthIn lo hi l = true) (v : List Nat) :
    tailFits (.list w lo hi) v (numberBytes w l) = true := by
  simpa [tailFits, hw, lengthIn] using h

theorem tailFits_counted {w n : Nat} {l : List Nat} (h : lengthIn n n l = true) {v : List Nat} {i : Nat} (hv : v.getD i 0 = n) :
    tailFits (.counted i w) v (numberBytes w l) = true := by
  have hlen : l.length = n := by
    simp only [lengthIn, Bool.and_eq_true, decide_eq_true_eq] at h
    omega
  rw [tailFits, numberBytes_length, hlen, hv, decide_eq_true rfl]

theorem tailFits_pairs {l : List (Nat × Nat)} {k : Nat} (h : lengthIn 0 k l = true) (v : List Nat) :
    tailFits (.pairs k) v (pairBytes l) = true := by
  simpa [tailFits, lengthIn] using h

/-! ### What is read is what was spelt -/

/-- The commands a form builds spell its opcode and, packed, the values of its fields and what follows. -/
theorem paramsOf_build : ∀ f ∈ cmdForms, ∀ (m : CmdMeta) (v : List Nat) (t : List Byte),
    paramsOf (f.build m v t) = some (m, f.op, packFields (formFields f.widths v) ++ tailBytes f.tail t) := by
  simp only [cmdForms, deviceForms, linkForms, routeForms, tundishForms, schedForms, memForms, pourForms, layerForms, updateForms,
    powerForms, relForms, secForms, assayForms, detForms, List.cons_append, List.nil_append, List.forall_mem_cons, List.not_mem_nil,
    false_implies, implies_true, and_true]
  and_intros
  all_goals exact fun _ _ _ => rfl

theorem paramsOf_of_parseCommand {i : Instr} {m : CmdMeta} {op : Nat} {b : List Byte} (h : parseCommand m op b = .ok i) :
    paramsOf i = some (m, op, b) := by
  unfold parseCommand at h
  split at h
  next => cases h
  next f hf =>
    have hop : f.op = op := by simpa using List.find?_some hf
    unfold parseForm at h
    split at h
    next v t hcut =>
      split at h
      next htail =>
        cases h
        rw [paramsOf_build f (List.mem_of_find?_eq_some hf), tailBytes_of_tailFits htail, packFields_of_takeFront hcut, hop]
      next => cases h
    next => cases h

/-! ### What is spelt is read -/

theorem parseCommand_packed {f : CmdForm} {m : CmdMeta} {op : Nat} {l : List (Nat × Nat)} {t : List Byte} {i : Instr}
    (hf : cmdForms.find? (fun f => f.op = op) = some f) (hw : l.map (·.1) = f.widths) (hl : l.all (fun e => fits e.1 e.2) = true)
    (ht : tailFits f.tail (l.map (·.2)) t = true) (hi : f.build m (l.map (·.2)) t = i) :
    parseCommand m op (packFields l ++ t) = .ok i := by
  have hfits : ∀ e ∈ l, fits e.1 e.2 = true := List.all_eq_true.mp hl
  simp only [parseCommand, hf, parseForm, ← hw, takeFront_packFields l t hfits, ht, hi, if_true]

theorem parseCommand_fixed {f : CmdForm} {m : CmdMeta} {op : Nat} {l : List (Nat × Nat)} {i : Instr}
    (hf : cmdForms.find? (fun f => f.op = op) = some f) (hw : l.map (·.1) = f.widths) (ht : f.tail = .none)
    (hi : f.build m (l.map (·.2)) [] = i) (hl : l.all (fun e => fits e.1 e.2) = true) :
    parseCommand m op (packFields l) = .ok i := by
  simpa using parseCommand_packed hf hw hl (t := []) (by rw [ht]; rfl) hi

theorem parseCommand_bytes {f : CmdForm} {m : CmdMeta} {op : Nat} {t : List Byte} {i : Instr}
    (hf : cmdForms.find? (fun f => f.op = op) = some f) (hw : f.widths = []) (hi : f.build m [] t = i)
    (ht : tailFits f.tail [] t = true) : parseCommand m op t = .ok i :=
  parseCommand_packed (l := []) hf hw.symm rfl ht hi

/-- The nonce of SHAKEOUT_READ lies between its fixed fields, and is read as one of them. -/
theorem parseCommand_shakeoutRead {m : CmdMeta} {first count sign : Nat} {nonce : List Byte} (hfirst : fits 4 first = true)
    (hcount : fits 1 count = true) (hlen : lengthIn 16 16 nonce = true) (hsign : fits 1 sign = true) :
    parseCommand m 0x0A11 (packFields [(4, first), (1, count)] ++ nonce ++ packFields [(1, sign)])
      = .ok (.shakeoutRead m first count nonce sign) := by
  have hlen' : nonce.length = 16 := by
    simp only [lengthIn, Bool.and_eq_true, decide_eq_true_eq] at hlen
    omega
  have hnum : leBytes 16 (leNat nonce) = nonce := hlen' ▸ leBytes_leNat nonce
  have hfit : fits 16 (leNat nonce) = true := decide_eq_true (hlen' ▸ leNat_lt nonce)
  have hread := parseCommand_fixed (m := m) (op := 0x0A11) (l := [(4, first), (1, count), (16, leNat nonce), (1, sign)]) rfl rfl rfl rfl
    (by simp [hfirst, hcount, hfit, hsign])
  simpa [packFields, hnum] using hread

/-- A well-formed command's bytes are read by the form of its opcode: each field at every value its width admits, and what follows. -/
theorem parseCommand_of_paramsOf {i : Instr} {m : CmdMeta} {op : Nat} {b : List Byte} (hw : wellFormed i = true)
    (h : paramsOf i = some (m, op, b)) : parseCommand m op b = .ok i := by
  cases i
  all_goals cases h
  case devIdentify | devHealth | fwStatus | routeStatus | routeStats | tundishStats | memStats | memCacheFlush | pourStats | layerStats |
      updStats | clkStatus | clkPlan | pwrStatus | pwrProfileRead | pwrStats | relStatus | shakeoutStatus | relStats | secStatus |
      secIdentityRead | secRootRead | secStats | assayStatus =>
    exact parseCommand_bytes rfl rfl rfl rfl
  case devEcho | pourRegister | pwrProfileSet | secAttest =>
    refine parseCommand_bytes rfl rfl rfl ?_
    simp_all [wellFormed, tailFits, lengthIn]
  case fwWrite | updRuleSet | resumeHeat =>
    refine parseCommand_packed rfl rfl ?_ ?_ rfl <;> simp_all [wellFormed, tailFits, lengthIn]
  case schedWinWrite | msetWrite | layerTensorWrite | layerDescWrite =>
    simp only [wellFormed, Bool.and_eq_true] at hw
    obtain ⟨⟨⟨⟨-, hunit⟩, hfirst⟩, hlen⟩, hfit⟩ := hw
    exact parseCommand_packed rfl rfl (by simp [hunit, hfirst]) (tailFits_list (by decide) hlen _)
      (congrArg _ (numbers_numberBytes (by decide) hfit))
  case csrWrite =>
    simp only [wellFormed, Bool.and_eq_true] at hw
    obtain ⟨⟨⟨⟨-, haddr⟩, hcount⟩, hlen⟩, hfit⟩ := hw
    exact parseCommand_packed rfl rfl (by simp [haddr, hcount]) (tailFits_counted hlen rfl) (congrArg _ (numbers_numberBytes (by decide) hfit))
  case layerRun =>
    simp only [wellFormed, Bool.and_eq_true] at hw
    obtain ⟨⟨hfields, hlen⟩, hok⟩ := hw
    refine parseCommand_packed rfl rfl ?_ (tailFits_pairs hlen _) (congrArg _ (numberPairs_pairBytes hok))
    simp_all
  case shakeoutRead =>
    simp only [wellFormed, Bool.and_eq_true] at hw
    obtain ⟨⟨⟨⟨-, hfirst⟩, hcount⟩, hlen⟩, hsign⟩ := hw
    exact parseCommand_shakeoutRead hfirst hcount hlen hsign
  all_goals
    refine parseCommand_fixed rfl rfl rfl rfl ?_
    simp_all [wellFormed]

/-- Settles O48: reading cuts the bytes into the fields of the opcode's form, which are those that every command it builds spells. -/
theorem parametersSpellTheCommand : Obligations.ParametersSpellTheCommand :=
  ⟨fun _ _ _ _ => parseCommand_of_paramsOf, fun _ _ _ _ => paramsOf_of_parseCommand⟩

end Sys2Proof.Machine
end

section
/-! PROOF. Every step keeps the canonical form of HBM and registers and takes exactly the front command (R151, R357, R380). -/
namespace Sys2Proof.Machine

variable {q : List Instr} {n : Nat}

/-- Every command keeps the queue, the clock and the canonical form, by the law of its own meaning: the dispatch of `exec`, arm by
arm. -/
theorem exec_answers (i : Instr) (s : State) (h : Keeps q n s) : Answers q n (exec i s) :=
  match i with
  | .devIdentify m => execDevIdentify_keeps m s h
  | .devHealth m => execDevHealth_keeps m s h
  | .heatBind m heat f c mask => execHeatBind_keeps m heat f c mask s h
  | .heatUnbind m heat => execHeatUnbind_keeps m heat s h
  | .heatList m first => execHeatList_keeps m first s h
  | .devResetWarm m confirm => execDevResetWarm_keeps m confirm s h
  | .devResetDomain m kind index => execDevResetDomain_keeps m kind index s h
  | .csrRead m addr count => execCsrRead_keeps m addr count s h
  | .csrWrite m addr count words => execCsrWrite_keeps m addr count words s h
  | .devBlockState m addr => execDevBlockState_keeps m addr s h
  | .fwStatus m => execFwStatus_keeps m s h
  | .fwWrite m slot offset data => execFwWrite_keeps m slot offset data s h
  | .fwVerify m slot => execFwVerify_keeps m slot s h
  | .fwSwitch m slot => execFwSwitch_keeps m slot s h
  | .devEcho m data => execDevEcho_keeps m data s h
  | .linkStatus m link => execLinkStatus_keeps m link s h
  | .linkConfig m link rate ceiling cvThresh enable clearSwap => execLinkConfig_keeps m link rate ceiling cvThresh enable clearSwap s h
  | .linkRetrain m link => execLinkRetrain_keeps m link s h
  | .linkDown m link force => execLinkDown_keeps m link force s h
  | .linkLaneSwap m link lane => execLinkLaneSwap_keeps m link lane s h
  | .linkEqRead m link lane rate => execLinkEqRead_keeps m link lane rate s h
  | .linkEqSet m link lane rate entry => execLinkEqSet_keeps m link lane rate entry s h
  | .linkNeighbour m link => execLinkNeighbour_keeps m link s h
  | .linkStats m link => execLinkStats_keeps m link s h
  | .routeStatus m => execRouteStatus_keeps m s h
  | .routeLinkClose m link => execRouteLinkClose_keeps m link s h
  | .routeLinkOpen m link => execRouteLinkOpen_keeps m link s h
  | .routeParamSet m ventWait nmBias drainMax => execRouteParamSet_keeps m ventWait nmBias drainMax s h
  | .routeSpread m on => execRouteSpread_keeps m on s h
  | .routeTest m on => execRouteTest_keeps m on s h
  | .routeReserve m mask heat => execRouteReserve_keeps m mask heat s h
  | .routeCreditSet m link vc allowance => execRouteCreditSet_keeps m link vc allowance s h
  | .routeTreeRead m root tree => execRouteTreeRead_keeps m root tree s h
  | .routeFenceList m first => execRouteFenceList_keeps m first s h
  | .routeStats m => execRouteStats_keeps m s h
  | .tundishStatus m half => execTundishStatus_keeps m half s h
  | .tundishThreshSet m port cls warn slow stop => execTundishThreshSet_keeps m port cls warn slow stop s h
  | .tundishPoolSet m half warn slow stop reserve => execTundishPoolSet_keeps m half warn slow stop reserve s h
  | .tundishBankSwap m half bank => execTundishBankSwap_keeps m half bank s h
  | .queueAlloc m port cls heat => execQueueAlloc_keeps m port cls heat s h
  | .queueFree m queue => execQueueFree_keeps m queue s h
  | .queueQuery m queue => execQueueQuery_keeps m queue s h
  | .tundishStats m => execTundishStats_keeps m s h
  | .schedStatus m port => execSchedStatus_keeps m port s h
  | .schedClassWeight m port cls weight => execSchedClassWeight_keeps m port cls weight s h
  | .schedQueueWeight m queue weight => execSchedQueueWeight_keeps m queue weight s h
  | .schedWinWrite m port first entries => execSchedWinWrite_keeps m port first entries s h
  | .schedWinCommit m port count cycleNs idleMask guardNs activateAt => execSchedWinCommit_keeps m port count cycleNs idleMask guardNs activateAt s h
  | .schedWinOff m port activateAt => execSchedWinOff_keeps m port activateAt s h
  | .schedWinRead m port table first => execSchedWinRead_keeps m port table first s h
  | .policerSet m port kind stream cls r b => execPolicerSet_keeps m port kind stream cls r b s h
  | .policerRead m port kind stream cls => execPolicerRead_keeps m port kind stream cls s h
  | .schedSample m queue on => execSchedSample_keeps m queue on s h
  | .schedHistRead m queue clear => execSchedHistRead_keeps m queue clear s h
  | .schedSampleRate m shift => execSchedSampleRate_keeps m shift s h
  | .schedStats m port => execSchedStats_keeps m port s h
  | .allocPages m heat cls count rw migEn homeSet first stripe mirrorStep => execAllocPages_keeps m heat cls count rw migEn homeSet first stripe mirrorStep s h
  | .freePages m gfa count heat => execFreePages_keeps m gfa count heat s h
  | .memHeatFree m heat => execMemHeatFree_keeps m heat s h
  | .memPageQuery m gfa => execMemPageQuery_keeps m gfa s h
  | .memPageSet m gfa count rw migEn oldHeat newHeat => execMemPageSet_keeps m gfa count rw migEn oldHeat newHeat s h
  | .memPageClearLost m gfa heat => execMemPageClearLost_keeps m gfa heat s h
  | .memMigrate m gfa target => execMemMigrate_keeps m gfa target s h
  | .memMirrorSet m gfa mirror => execMemMirrorSet_keeps m gfa mirror s h
  | .memArbSet m fabric pour layer fettler => execMemArbSet_keeps m fabric pour layer fettler s h
  | .memMigrateCtrl m on => execMemMigrateCtrl_keeps m on s h
  | .memStats m => execMemStats_keeps m s h
  | .memCacheFlush m => execMemCacheFlush_keeps m s h
  | .pourRegister m desc => execPourRegister_keeps m desc s h
  | .pourAbort m heat pourId => execPourAbort_keeps m heat pourId s h
  | .pourQuery m heat pourId => execPourQuery_keeps m heat pourId s h
  | .pourFenceMap m heat pourId select => execPourFenceMap_keeps m heat pourId select s h
  | .msetBegin m index count => execMsetBegin_keeps m index count s h
  | .msetWrite m index first entries => execMsetWrite_keeps m index first entries s h
  | .msetSeal m index kind => execMsetSeal_keeps m index kind s h
  | .msetFree m index => execMsetFree_keeps m index s h
  | .msetRead m index first => execMsetRead_keeps m index first s h
  | .pourClassSet m cls weight => execPourClassSet_keeps m cls weight s h
  | .pourSpillReserve m pages => execPourSpillReserve_keeps m pages s h
  | .pourStats m => execPourStats_keeps m s h
  | .layerSegBegin m heat seg descs tensors => execLayerSegBegin_keeps m heat seg descs tensors s h
  | .layerTensorWrite m seg first entries => execLayerTensorWrite_keeps m seg first entries s h
  | .layerDescWrite m seg first entries => execLayerDescWrite_keeps m seg first entries s h
  | .layerSegSeal m seg => execLayerSegSeal_keeps m seg s h
  | .layerSegPlace m seg bays maxRows => execLayerSegPlace_keeps m seg bays maxRows s h
  | .layerSegRemove m seg => execLayerSegRemove_keeps m seg s h
  | .layerRun m heat seg pass runTag fwdTag rows firstDesc lastDesc deadline pairs => execLayerRun_keeps m heat seg pass runTag fwdTag rows firstDesc lastDesc deadline pairs s h
  | .layerAbort m heat seg => execLayerAbort_keeps m heat seg s h
  | .layerQuery m seg => execLayerQuery_keeps m seg s h
  | .layerSavedRelease m seg runTag => execLayerSavedRelease_keeps m seg runTag s h
  | .layerStats m => execLayerStats_keeps m s h
  | .updRuleSet m index entry => execUpdRuleSet_keeps m index entry s h
  | .updRuleRead m index => execUpdRuleRead_keeps m index s h
  | .updStateDefine m heat base elems kind slot t => execUpdStateDefine_keeps m heat base elems kind slot t s h
  | .updStateMask m base region o k n kind bitmap => execUpdStateMask_keeps m base region o k n kind bitmap s h
  | .updStateQuery m base => execUpdStateQuery_keeps m base s h
  | .updStateRevert m base => execUpdStateRevert_keeps m base s h
  | .updStateFree m base => execUpdStateFree_keeps m base s h
  | .embTableDefine m heat base rows dim fmt kind buckets setIndex => execEmbTableDefine_keeps m heat base rows dim fmt kind buckets setIndex s h
  | .embTableQuery m base => execEmbTableQuery_keeps m base s h
  | .embTableFree m base => execEmbTableFree_keeps m base s h
  | .updStats m => execUpdStats_keeps m s h
  | .clkStatus m => execClkStatus_keeps m s h
  | .clkAclkSwap m source => execClkAclkSwap_keeps m source s h
  | .clkobsSet m code divider => execClkobsSet_keeps m code divider s h
  | .clkTrim m source link => execClkTrim_keeps m source link s h
  | .timeSet m link frame time => execTimeSet_keeps m link frame time s h
  | .clkMonRead m code => execClkMonRead_keeps m code s h
  | .clkPlan m => execClkPlan_keeps m s h
  | .pwrStatus m => execPwrStatus_keeps m s h
  | .pwrProfileSet m profile => execPwrProfileSet_keeps m profile s h
  | .pwrProfileRead m => execPwrProfileRead_keeps m s h
  | .pwrStats m => execPwrStats_keeps m s h
  | .relStatus m => execRelStatus_keeps m s h
  | .riserPolicy m auto ageMin flaskLimit frameLimit scrubH => execRiserPolicy_keeps m auto ageMin flaskLimit frameLimit scrubH s h
  | .riserFlaskSwap m bay flask => execRiserFlaskSwap_keeps m bay flask s h
  | .frameRetire m frame => execFrameRetire_keeps m frame s h
  | .stackFail m stack => execStackFail_keeps m stack s h
  | .agingRead m bay => execAgingRead_keeps m bay s h
  | .riserHistoryRead m first => execRiserHistoryRead_keeps m first s h
  | .shakeoutStatus m => execShakeoutStatus_keeps m s h
  | .shakeoutRead m first count nonce sign => execShakeoutRead_keeps m first count nonce sign s h
  | .shakeoutUnfreeze m freezeSeq => execShakeoutUnfreeze_keeps m freezeSeq s h
  | .faultSubscribe m endpoint cls severity => execFaultSubscribe_keeps m endpoint cls severity s h
  | .faultUnsubscribe m endpoint => execFaultUnsubscribe_keeps m endpoint s h
  | .relStats m => execRelStats_keeps m s h
  | .secStatus m => execSecStatus_keeps m s h
  | .secAttest m nonce => execSecAttest_keeps m nonce s h
  | .secIdentityRead m => execSecIdentityRead_keeps m s h
  | .secRollbackCommit m v => execSecRollbackCommit_keeps m v s h
  | .secRootRead m => execSecRootRead_keeps m s h
  | .secStats m => execSecStats_keeps m s h
  | .assayStatus m => execAssayStatus_keeps m s h
  | .assayRead m channel => execAssayRead_keeps m channel s h
  | .assayAttrib m heat => execAssayAttrib_keeps m heat s h
  | .assayAttribList m first => execAssayAttribList_keeps m first s h
  | .detStatus m heat => execDetStatus_keeps m heat s h
  | .detRecordOpen m heat record scope => execDetRecordOpen_keeps m heat record scope s h
  | .detDigestRange m heat kind gfa length => execDetDigestRange_keeps m heat kind gfa length s h
  | .detRecordClose m heat scope sign => execDetRecordClose_keeps m heat scope sign s h
  | .detRecordRead m heat => execDetRecordRead_keeps m heat s h
  | .detStepSet m heat step => execDetStepSet_keeps m heat step s h
  | .saveHeat m heat endpoint offset waitLimit cont => execSaveHeat_keeps m heat endpoint offset waitLimit cont s h
  | .resumeHeat m endpoint offset length digest => execResumeHeat_keeps m endpoint offset length digest s h
  | .sbIdentify => execSbIdentify_keeps s h
  | .sbCoord => execSbCoord_keeps s h
  | .sbGroupSet data pec => execSbGroupSet_keeps data pec s h
  | .sbCountSet data pec => execSbCountSet_keeps data pec s h
  | .sbHealth => execSbHealth_keeps s h
  | .sbShakeout => execSbShakeout_keeps s h
  | .sbAssay => execSbAssay_keeps s h
  | .sbStatus => execSbStatus_keeps s h
  | .sbUndefinedCode code write data pec => execSbUndefinedCode_keeps code write data pec s h
  | .sbSnapshotRefresh => execSbSnapshotRefresh_keeps s h
  | .asIdent => execAsIdent_keeps s h
  | .asSign channel nonce pec => execAsSign_keeps channel nonce pec s h
  | .asSignedReadingReady => execAsSignedReadingReady_keeps s h
  | .asReading => execAsReading_keeps s h
  | .asParam param channel pec => execAsParam_keeps param channel pec s h
  | .asTrail index pec => execAsTrail_keeps index pec s h
  | .asCert => execAsCert_keeps s h
  | .asChange block pec => execAsChange_keeps block pec s h
  | .asStatus => execAsStatus_keeps s h
  | .asUndefinedCode code write => execAsUndefinedCode_keeps code write s h
  | .bypass => execBypass_keeps s h
  | .idcode => execIdcode_keeps s h
  | .samplePreload bits => execSamplePreload_keeps bits s h
  | .extest => execExtest_keeps s h
  | .clamp => execClamp_keeps s h
  | .highz => execHighz_keeps s h
  | .clkobsSelWrite value => execClkobsSelWrite_keeps value s h
  | .clkobsRst => execClkobsRst_keeps s h
  | .clkEnWrite value => execClkEnWrite_keeps value s h
  | .timeLoRead => execTimeLoRead_keeps s h
  | .clkobsMuxRelease => execClkobsMuxRelease_keeps s h
  | .cmd pkt => execCmd_keeps pkt s h
  | .commandStart queue => execCommandStart_keeps queue s h
  | .packetReceive link frame ecc => execPacketReceive_keeps link frame ecc s h
  | .packetDepart port ecc => execPacketDepart_keeps port ecc s h
  | .contrib pkt => execContrib_keeps pkt s h
  | .chunkRounded heat pourId chunk => execChunkRounded_keeps heat pourId chunk s h
  | .result pkt => execResult_keeps pkt s h
  | .chunkMark pkt => execChunkMark_keeps pkt s h
  | .mgmt pkt => execMgmt_keeps pkt s h
  | .ack ans => execAck_keeps ans s h
  | .nak ans => execNak_keeps ans s h
  | .resendTimeout src dst stream seq => execResendTimeout_keeps src dst stream seq s h
  | .gapTimeout src stream dst => execGapTimeout_keeps src stream dst s h
  | .put pkt copy => execPut_keeps pkt copy s h
  | .get pkt corrected uncorrected => execGet_keeps pkt corrected uncorrected s h
  | .gatherRows pkt corrected uncorrected => execGatherRows_keeps pkt corrected uncorrected s h
  | .atomic pkt corrected uncorrected => execAtomic_keeps pkt corrected uncorrected s h
  | .getReply pkt => execGetReply_keeps pkt s h
  | .fwdDone src stream seq home result cause => execFwdDone_keeps src stream seq home result cause s h
  | .fwdAck src stream seq entry => execFwdAck_keeps src stream seq entry s h
  | .fwdReforwardTimeout src stream seq => execFwdReforwardTimeout_keeps src stream seq s h
  | .fwdDoneResendTimeout src stream seq => execFwdDoneResendTimeout_keeps src stream seq s h
  | .credit link half counts => execCredit_keeps link half counts s h
  | .creditSendTick link half => execCreditSendTick_keeps link half s h
  | .creditTimeout link => execCreditTimeout_keeps link s h
  | .ventEscape queue => execVentEscape_keeps queue s h
  | .levelFallRelease link vc => execLevelFallRelease_keeps link vc s h
  | .policerRefill port => execPolicerRefill_keeps port s h
  | .windowEdge port => execWindowEdge_keeps port s h
  | .cycleStart port => execCycleStart_keeps port s h
  | .scheduleFlip port => execScheduleFlip_keeps port s h
  | .ident link body => execIdent_keeps link body s h
  | .identSendTick link => execIdentSendTick_keeps link s h
  | .trainingSet link obs => execTrainingSet_keeps link obs s h
  | .laneCkLock link measured => execLaneCkLock_keeps link measured s h
  | .linkDeskew link skew => execLinkDeskew_keeps link skew s h
  | .trainingStepTimeout link => execTrainingStepTimeout_keeps link s h
  | .trainingRestart link => execTrainingRestart_keeps link s h
  | .linkLost link ck => execLinkLost_keeps link ck s h
  | .lostLockRetrain link => execLostLockRetrain_keeps link s h
  | .coordinatesSetResume link => execCoordinatesSetResume_keeps link s h
  | .cvThresholdSwapProposal link lane => execCvThresholdSwapProposal_keeps link lane s h
  | .swapReq link lane marker => execSwapReq_keeps link lane marker s h
  | .swapAck link lane marker => execSwapAck_keeps link lane marker s h
  | .swapMarkerReached link tx straddles => execSwapMarkerReached_keeps link tx straddles s h
  | .startOfFrame link frameNo => execStartOfFrame_keeps link frameNo s h
  | .startOfFrameSend link => execStartOfFrameSend_keeps link s h
  | .registerPour lead desc step ruleDig stateDig => execRegisterPour_keeps lead desc step ruleDig stateDig s h
  | .regAck home heat pourId tag setOk accepted p1 => execRegAck_keeps home heat pourId tag setOk accepted p1 s h
  | .regAckTimeout heat pourId => execRegAckTimeout_keeps heat pourId s h
  | .openPour heat pourId p1 => execOpenPour_keeps heat pourId p1 s h
  | .roundDone home heat pourId status ovf => execRoundDone_keeps home heat pourId status ovf s h
  | .commitPour heat pourId => execCommitPour_keeps heat pourId s h
  | .rowUpdate peer heat pourId base rule rc step row delta => execRowUpdate_keeps peer heat pourId base rule rc step row delta s h
  | .fenceQuery heat pourId member => execFenceQuery_keeps heat pourId member s h
  | .fenceReply home heat pourId member complete => execFenceReply_keeps home heat pourId member complete s h
  | .abortPour heat pourId status => execAbortPour_keeps heat pourId status s h
  | .abortAck home heat pourId rounded => execAbortAck_keeps home heat pourId rounded s h
  | .abortAckTimeout heat pourId => execAbortAckTimeout_keeps heat pourId s h
  | .endPour heat pourId status cause committed => execEndPour_keeps heat pourId status cause committed s h
  | .pourDeadline heat pourId => execPourDeadline_keeps heat pourId s h
  | .tombstoneExpiry heat pourId => execTombstoneExpiry_keeps heat pourId s h
  | .bayOwnershipTransfer bay => execBayOwnershipTransfer_keeps bay s h
  | .bayTransferTimeout seg => execBayTransferTimeout_keeps seg s h
  | .layerRunStart seg => execLayerRunStart_keeps seg s h
  | .layerDescriptorDone seg => execLayerDescriptorDone_keeps seg s h
  | .layerRunDeadline seg => execLayerRunDeadline_keeps seg s h
  | .flaskUncorrectable bay flask => execFlaskUncorrectable_keeps bay flask s h
  | .segmentPlaced seg => execSegmentPlaced_keeps seg s h
  | .patternBookWalk peer gfa => execPatternBookWalk_keeps peer gfa s h
  | .walkReply gfa entry => execWalkReply_keeps gfa entry s h
  | .invalidation gfa entry peer note => execInvalidation_keeps gfa entry peer note s h
  | .invalidationAck gfa peer => execInvalidationAck_keeps gfa peer s h
  | .migrationCopyDone gfa => execMigrationCopyDone_keeps gfa s h
  | .migrationRemap gfa => execMigrationRemap_keeps gfa s h
  | .forwardingStubExpiry gfa => execForwardingStubExpiry_keeps gfa s h
  | .frameRetirementDone frame => execFrameRetirementDone_keeps frame s h
  | .mirrorResyncDone gfa => execMirrorResyncDone_keeps gfa s h
  | .stackFailed stack => execStackFailed_keeps stack s h
  | .stackFailureDetected stack => execStackFailureDetected_keeps stack s h
  | .frameZeroed frame => execFrameZeroed_keeps frame s h
  | .sliceRecordQuery peer heat gfas => execSliceRecordQuery_keeps peer heat gfas s h
  | .fenceNotice peer endpoint => execFenceNotice_keeps peer endpoint s h
  | .unfenceNotice peer endpoint => execUnfenceNotice_keeps peer endpoint s h
  | .giveUpReport peer endpoint => execGiveUpReport_keeps peer endpoint s h
  | .fenceProbeTimeout device => execFenceProbeTimeout_keeps device s h
  | .endpointCreditStall link => execEndpointCreditStall_keeps link s h
  | .routeUpdate peer link add => execRouteUpdate_keeps peer link add s h
  | .routeTableFlip => execRouteTableFlip_keeps s h
  | .linkDrained link => execLinkDrained_keeps link s h
  | .drainTimeout link => execDrainTimeout_keeps link s h
  | .pinningEnd group => execPinningEnd_keeps group s h
  | .treeSetup peer entry => execTreeSetup_keeps peer entry s h
  | .treeSetupReply peer tree ok => execTreeSetupReply_keeps peer tree ok s h
  | .treeLinkRepair peer tree link => execTreeLinkRepair_keeps peer tree link s h
  | .tundishRingTransfer half => execTundishRingTransfer_keeps half s h
  | .tundishRebuildDone half => execTundishRebuildDone_keeps half s h
  | .bankSwapCopyDone half lost => execBankSwapCopyDone_keeps half lost s h
  | .heartbeat => execHeartbeat_keeps s h
  | .coreTakeover => execCoreTakeover_keeps s h
  | .standbyCoreReady pass => execStandbyCoreReady_keeps pass s h
  | .fwSwitchStandbyLoaded ok => execFwSwitchStandbyLoaded_keeps ok s h
  | .fwSwitchHandover => execFwSwitchHandover_keeps s h
  | .fwSwitchDirectoryDone => execFwSwitchDirectoryDone_keeps s h
  | .standbyPowerOn i2cAddr => execStandbyPowerOn_keeps i2cAddr s h
  | .standbyPowerLoss => execStandbyPowerLoss_keeps s h
  | .mainPowerGood mv => execMainPowerGood_keeps mv s h
  | .resetNRelease straps => execResetNRelease_keeps straps s h
  | .resetNAssert => execResetNAssert_keeps s h
  | .resetLevel mv => execResetLevel_keeps mv s h
  | .resetLevelRestart => execResetLevelRestart_keeps s h
  | .brownoutWarning mv => execBrownoutWarning_keeps mv s h
  | .brownoutRelease => execBrownoutRelease_keeps s h
  | .thermalThrottle sensor celsius => execThermalThrottle_keeps sensor celsius s h
  | .throttleRelease => execThrottleRelease_keeps s h
  | .thermalShutdown sensor celsius => execThermalShutdown_keeps sensor celsius s h
  | .coolFailAssert => execCoolFailAssert_keeps s h
  | .coolFailShutdown => execCoolFailShutdown_keeps s h
  | .coolFailRelease => execCoolFailRelease_keeps s h
  | .refclkLoss => execRefclkLoss_keeps s h
  | .refclkLossTimeout => execRefclkLossTimeout_keeps s h
  | .refclkReturn => execRefclkReturn_keeps s h
  | .aclkHang => execAclkHang_keeps s h
  | .aclkSwapLocked => execAclkSwapLocked_keeps s h
  | .pllFaultProposal => execPllFaultProposal_keeps s h
  | .clockMonitorWindow readings => execClockMonitorWindow_keeps readings s h
  | .trimUpdate reference => execTrimUpdate_keeps reference s h
  | .timeBaseWrap => execTimeBaseWrap_keeps s h
  | .cpllLock die => execCpllLock_keeps die s h
  | .bayWakeDone bay => execBayWakeDone_keeps bay s h
  | .bayIdleTimer bay => execBayIdleTimer_keeps bay s h
  | .switchHalfBank half => execSwitchHalfBank_keeps half s h
  | .switchHalfWake half => execSwitchHalfWake_keeps half s h
  | .warmResetDone => execWarmResetDone_keeps s h
  | .domainResetDone kind index => execDomainResetDone_keeps kind index s h
  | .riserProposal kind unit => execRiserProposal_keeps kind unit s h
  | .riserFlaskCopied bay flask => execRiserFlaskCopied_keeps bay flask s h
  | .riserProposalLapse kind unit => execRiserProposalLapse_keeps kind unit s h
  | .agingMonitorReport margins => execAgingMonitorReport_keeps margins s h
  | .hbmScrub frame corrected uncorrected => execHbmScrub_keeps frame corrected uncorrected s h
  | .pageCacheRevalidate => execPageCacheRevalidate_keeps s h
  | .flaskSramScrub counts => execFlaskSramScrub_keeps counts s h
  | .tundishScrub half corrected uncorrected => execTundishScrub_keeps half corrected uncorrected s h
  | .shakeoutWrite => execShakeoutWrite_keeps s h
  | .signatureDone => execSignatureDone_keeps s h
  | .rollbackFuseBlown ok => execRollbackFuseBlown_keeps ok s h
  | .saveHeatWaitDone heat => execSaveHeatWaitDone_keeps heat s h
  | .saveHeatWaitTimeout heat => execSaveHeatWaitTimeout_keeps heat s h
  | .recordCloseReply peer heat body => execRecordCloseReply_keeps peer heat body s h
  | .recordCloseTimeout heat => execRecordCloseTimeout_keeps heat s h
  | .assaySample channel volts amps => execAssaySample_keeps channel volts amps s h
  | .assayNvCommit => execAssayNvCommit_keeps s h
  | .assayVddGood straps => execAssayVddGood_keeps straps s h
  | .assayVddFalling => execAssayVddFalling_keeps s h
  | .sealOpenChange isOpen => execSealOpenChange_keeps isOpen s h
  | .assayFrameSend => execAssayFrameSend_keeps s h
  | .assayFrame bytes => execAssayFrame_keeps bytes s h
  | .assaySilent => execAssaySilent_keeps s h
  | .fwSwitchStepTimeout => execFwSwitchStepTimeout_keeps s h
  | .domainResetWaitTimeout bay => execDomainResetWaitTimeout_keeps bay s h
  | .digestRangeDone heat => execDigestRangeDone_keeps heat s h
  | .controlBlockDiscard link body => execControlBlockDiscard_keeps link body s h
  | .badColumn link rd groups => execBadColumn_keeps link rd groups s h
  | .fenceProbe peer => execFenceProbe_keeps peer s h
  | .fenceProbeReply device => execFenceProbeReply_keeps device s h
  | .standbyPowerSettled => execStandbyPowerSettled_keeps s h
  | .refresh2xChange stack celsius => execRefresh2xChange_keeps stack celsius s h
  | .mirrorConfirm src stream seq => execMirrorConfirm_keeps src stream seq s h
  | .routeChangeAck peer link => execRouteChangeAck_keeps peer link s h
  | .sliceRecordReply peer gfa covers => execSliceRecordReply_keeps peer gfa covers s h

/-- A step answers a state that keeps what it took the front command from: the queue's rest, the clock, the canonical form. -/
theorem step_answers {s : State} (h : Canonical s) : Answers s.pending.tail s.time.now (step s) := by
  unfold step
  split
  next hq =>
    have hs : Keeps s.pending.tail s.time.now s := by
      rw [hq, List.tail_nil, ← hq]
      exact keeps_of_canonical h
    exact answers_next (oscCycle_keeps s hs)
  next c r hq =>
    rw [hq, List.tail_cons]
    exact exec_answers c _ ⟨rfl, Nat.le_refl _, h⟩

/-- Settles O60: the invariant is `Keeps` of the queue's rest and the clock before the step, which every meaning keeps. -/
theorem stepsKeepTheCanonicalForm : Obligations.StepsKeepTheCanonicalForm := by
  intro s t h hstep
  obtain ⟨hq, htime, hcanon⟩ := step_answers h t hstep
  exact ⟨hcanon, hq, htime⟩

end Sys2Proof.Machine
end

section
/-! PROOF. Recovery and reserved parameter bits refuse every command before its own work (R353, R356, R432). -/
namespace Sys2Proof.Machine

/-- What port 56 makes of a command whose own work leads to `t`. -/
def gated (m : CmdMeta) (op : Nat) (s t : State) : State :=
  if flag .seRecovery 0 s && !recoveryOps.contains op then refuse (refOf m op) stBadState s
  else if m.resv ≠ 0 then refuse (refOf m op) stBadParam s
  else t

/-- Every row that has parameters is checked with its own opcode before its work. -/
theorem exec_eq_gated {i : Instr} {m : CmdMeta} {op : Nat} {b : List Byte} (h : paramsOf i = some (m, op, b)) (s : State) :
    ∃ t, exec i s = .next (gated m op s t) := by
  cases i
  all_goals cases h
  all_goals exact ⟨_, rfl⟩

theorem gated_in_recovery {m : CmdMeta} {op : Nat} {s : State} (h : flag .seRecovery 0 s = true) (hop : op ∉ recoveryOps) (t : State) :
    gated m op s t = refuse (refOf m op) stBadState s := by
  simp [gated, h, hop]

theorem gated_of_reserved {m : CmdMeta} {op : Nat} {s : State} (h : flag .seRecovery 0 s = false ∨ op ∈ recoveryOps) (hr : m.resv ≠ 0)
    (t : State) : gated m op s t = refuse (refOf m op) stBadParam s := by
  obtain h | h := h <;> simp [gated, h, hr]

/-- Settles O46: the two checks stand in front of the work of every command of port 56. -/
theorem everyCommandPassesTheGate : Obligations.EveryCommandPassesTheGate := by
  intro i m op b s h
  obtain ⟨t, ht⟩ := exec_eq_gated h s
  rw [ht]
  exact ⟨fun hrec hop => by rw [gated_in_recovery hrec hop], fun hserved hresv => by rw [gated_of_reserved hserved hresv]⟩

end Sys2Proof.Machine
end

section
/-! PROOF. CSR_WRITE is refused by blocks that change only through commands, by a Bay in transfer and by a gated block (R365). -/
namespace Sys2Proof.Machine

section
variable {m : CmdMeta} {addr count : Nat} {words : List Nat} {s : State}

/-! ### Why one word is refused -/

theorem writeRefusal_of_sealed (h : csrBlock addr ∈ [0x92, 0xA1, 0xB0, 0xB1]) : writeRefusal addr s = some stDenied := by
  have hsealed : csrBlock addr = 0x92 ∨ csrBlock addr = 0xA1 ∨ csrBlock addr = 0xB0 ∨ csrBlock addr = 0xB1 := by simpa using h
  simp only [writeRefusal, hsealed, if_true]

/-- Outside the sealed blocks a word is refused with BAD_STATE, if it is refused. -/
theorem writeRefusal_of_not_sealed (h : csrBlock addr ∉ [0x92, 0xA1, 0xB0, 0xB1]) :
    writeRefusal addr s = none ∨ writeRefusal addr s = some stBadState := by
  have hopen : ¬ (csrBlock addr = 0x92 ∨ csrBlock addr = 0xA1 ∨ csrBlock addr = 0xB0 ∨ csrBlock addr = 0xB1) := by simpa using h
  simp only [writeRefusal, hopen, if_false]
  split
  · exact .inr rfl
  · split
    · exact .inr rfl
    · exact .inl rfl

theorem writeRefusal_of_transfer (hbay : 0xE0 ≤ csrBlock addr)
    (ht : (tabGet {} s.layer.bays (csrBay addr)).transfer.isSome = true) : writeRefusal addr s = some stBadState := by
  have hopen : ¬ (csrBlock addr = 0x92 ∨ csrBlock addr = 0xA1 ∨ csrBlock addr = 0xB0 ∨ csrBlock addr = 0xB1) := by omega
  simp only [writeRefusal, hopen, hbay, ht, and_self, if_false, if_true]

theorem writeRefusal_ne_none_of_gated (h : blockGated addr s = true) : writeRefusal addr s ≠ none := by
  simp only [writeRefusal, h, true_or, if_true]
  split
  · simp
  · split <;> simp

/-! ### Why the command is refused -/

/-- The first word refused decides the answer of the command. -/
def csrRefusal (addr count : Nat) (s : State) : Option Nat :=
  ((List.range count).map fun k => addr + 4 * k).findSome? fun a => writeRefusal a s

theorem csrRefusal_of_first {st : Nat} (hpos : 1 ≤ count) (h : writeRefusal addr s = some st) : csrRefusal addr count s = some st := by
  obtain ⟨n, rfl⟩ := Nat.exists_eq_add_of_le' hpos
  simp [csrRefusal, List.range_succ_eq_map, h]

theorem csrRefusal_of_gated (hopen : ∀ k < count, csrBlock (addr + 4 * k) ∉ [0x92, 0xA1, 0xB0, 0xB1])
    (hgated : ∃ k < count, blockGated (addr + 4 * k) s = true) : csrRefusal addr count s = some stBadState := by
  obtain ⟨k, hk, hg⟩ := hgated
  have hsome : csrRefusal addr count s ≠ none := fun hnone => by
    rw [csrRefusal, List.findSome?_eq_none_iff] at hnone
    exact writeRefusal_ne_none_of_gated hg (hnone _ (List.mem_map_of_mem (List.mem_range.mpr hk)))
  obtain ⟨st, hst⟩ := Option.ne_none_iff_exists'.mp hsome
  obtain ⟨a, ha, hast⟩ := List.exists_of_findSome?_eq_some hst
  obtain ⟨j, hj, rfl⟩ := List.mem_map.mp ha
  obtain hnone | hbad := writeRefusal_of_not_sealed (s := s) (hopen j (List.mem_range.mp hj))
  · rw [hnone] at hast
    cases hast
  · rw [hst, ← hast, hbad]

theorem exec_csrWrite_refused {st : Nat} (ht : Takes m 0x0011 s) (hlen : words.length = count) (hpos : 1 ≤ count) (hmax : count ≤ 64)
    (hok : csrAddrOk addr count = true)
    (hcode : ∀ k < count, addr + 4 * k = 0x90000008 → clockCode (words.getD k 0 % 256) = true)
    (hst : csrRefusal addr count s = some st) : exec (.csrWrite m addr count words) s = .next (refuse (refOf m 0x0011) st s) := by
  have hgood : ((csrPairs addr count words).any fun e => e.1 = 0x90000008 && !clockCode (e.2 % 256)) = false := by
    refine List.any_eq_false.mpr fun e he => ?_
    obtain ⟨k, hk, rfl⟩ := exists_index_of_mem_csrPairs hlen he
    simpa using hcode k hk
  have hparam : ¬ (count = 0 ∨ count > 64 ∨ ¬ csrAddrOk addr count ∨
      (csrPairs addr count words).any (fun e => e.1 = 0x90000008 && !clockCode (e.2 % 256))) := by
    simp only [hok, hgood, not_true_eq_false, Bool.false_eq_true, or_false]
    omega
  change execCsrWrite m addr count words s = _
  rw [execCsrWrite, command_of_takes ht]
  simp only [csrPairs] at hparam
  simp only [csrRefusal] at hst
  simp only [hlen, ne_eq, not_true_eq_false, if_false, hparam, hst]

end

/-- Settles O54: the command is answered as the first word refused; that is the first word where a sealed block or a Bay in
transfer is addressed, and outside the sealed blocks every refusal is BAD_STATE. -/
theorem csrWriteRefusals : Obligations.CsrWriteRefusals := by
  intro m addr count words s ht hlen hpos hmax hok hcode
  have hrefused {st : Nat} (hst : csrRefusal addr count s = some st) := exec_csrWrite_refused ht hlen hpos hmax hok hcode hst
  refine ⟨fun hsealed => ?sealed, fun hbay htransfer => ?transfer, fun hopen hgated => ?gated, fun st => rest_refuse _ st s⟩
  case sealed => exact hrefused (csrRefusal_of_first hpos (writeRefusal_of_sealed hsealed))
  case transfer => exact hrefused (csrRefusal_of_first hpos (writeRefusal_of_transfer hbay htransfer))
  case gated => exact hrefused (csrRefusal_of_gated hopen hgated)

end Sys2Proof.Machine
end

section
/-! PROOF. Record accumulators, leaves and digests do not depend on the order or the device of the leaves (R335, R337). -/
namespace Sys2Proof.Machine

/-! ### Accumulators -/

theorem addLeaf_right_comm (a : Accum) (l m : List Byte) : addLeaf (addLeaf a l) m = addLeaf (addLeaf a m) l := by
  simp only [addLeaf, Nat.mod_add_mod, Nat.add_right_comm _ _ (leNat m)]

theorem foldl_addLeaf_perm {ls ms : List (List Byte)} (h : ls.Perm ms) (a : Accum) : ls.foldl addLeaf a = ms.foldl addLeaf a :=
  h.foldl_eq' (fun _ _ _ _ _ => addLeaf_right_comm _ _ _) a

/-- From zero, the leaves add up to their sum and their number. -/
theorem foldl_addLeaf_zero (ls : List (List Byte)) :
    ls.foldl addLeaf ⟨0, 0⟩ = ⟨(ls.map leNat).sum % 2 ^ 512, ls.length % 2 ^ 64⟩ := by
  induction ls using List.reverseRecOn with
  | nil => simp only [List.foldl_nil, List.map_nil, List.sum_nil, List.length_nil, Nat.zero_mod]
  | append_singleton ls l ih =>
    simp only [List.foldl_append, List.foldl_cons, List.foldl_nil, ih, addLeaf, Nat.mod_add_mod, List.map_append, List.map_cons,
      List.map_nil, List.sum_append, List.sum_cons, List.sum_nil, List.length_append, List.length_cons, List.length_nil, Nat.add_zero,
      Nat.zero_add]

theorem foldl_addLeaf_append (ls ms : List (List Byte)) :
    (ls ++ ms).foldl addLeaf ⟨0, 0⟩ = accAdd (ls.foldl addLeaf ⟨0, 0⟩) (ms.foldl addLeaf ⟨0, 0⟩) := by
  simp only [foldl_addLeaf_zero, accAdd, List.map_append, List.sum_append, List.length_append, Nat.add_mod_mod, Nat.mod_add_mod]

/-! ### Packets with DIGEST set (R337) -/

/-- The leaf of a packet with DIGEST set. -/
def packetLeaf (p : Packet) : List Byte := leBytes 1 p.typ ++ leBytes 3 p.src ++ leBytes 8 p.addr ++ p.payload

/-- What accepting a packet does to one open context: `seen` says whether its Heat has one. -/
def digestCtx (p : Packet) (seen : Bool) (c : DetCtx) : DetCtx :=
  if p.digest = false then c
  else if seen = false then { c with flags := c.flags ||| detUnhashed ||| 0 }
  else if c.heat = p.heat then { c with inputs := addLeaf c.inputs (leafOf 0x20 (packetLeaf p)) } else c

/-- The bytes that are hashed for it. -/
def digestBytes (p : Packet) (seen : Bool) : Nat := if p.digest = true ∧ seen = true then (packetLeaf p).length + 1 else 0

/-- A Heat has an open context. -/
def hasCtx (heat : Nat) (d : DetPart) : Bool := d.ctxs.any fun c => c.heat = heat

theorem ctxOfHeat_isSome (heat : Nat) (s : State) : (ctxOfHeat heat s).isSome = hasCtx heat s.det := by
  rw [Bool.eq_iff_iff, ctxOfHeat, hasCtx, List.find?_isSome, List.any_eq_true]

/-- Accepting a packet changes the contexts one by one and counts the bytes hashed. -/
theorem digestPacket_det (p : Packet) (s : State) :
    (digestPacket p s).det = { s.det with
      ctxs := s.det.ctxs.map (digestCtx p (hasCtx p.heat s.det)), hashed := s.det.hashed + digestBytes p (hasCtx p.heat s.det) } := by
  rw [← ctxOfHeat_isSome]
  unfold digestPacket
  cases hp : p.digest with
  | false =>
    have hid : digestCtx p (ctxOfHeat p.heat s).isSome = id := funext fun c => by simp [digestCtx, hp]
    simp [hid, digestBytes, hp]
  | true =>
    cases hc : ctxOfHeat p.heat s with
    | none => simp [digestCtx, digestBytes, hp, markFlag, markCtxs, detUnhashed]
    | some c => simp [digestCtx, digestBytes, hp, hc, leaf, modCtx, markCtxs, packetLeaf, Nat.add_assoc]

@[simp] theorem digestCtx_heat (p : Packet) (seen : Bool) (c : DetCtx) : (digestCtx p seen c).heat = c.heat := by
  unfold digestCtx
  split_ifs <;> rfl

theorem digestCtx_comm (p q : Packet) (a b : Bool) (c : DetCtx) :
    digestCtx p a (digestCtx q b c) = digestCtx q b (digestCtx p a c) := by
  unfold digestCtx
  split_ifs <;> simp_all [addLeaf_right_comm]

theorem hasCtx_digestPacket (heat : Nat) (p : Packet) (s : State) : hasCtx heat (digestPacket p s).det = hasCtx heat s.det := by
  simp [hasCtx, digestPacket_det, List.any_map, Function.comp_def]

theorem digestPacket_comm (p q : Packet) (s : State) :
    (digestPacket p (digestPacket q s)).det = (digestPacket q (digestPacket p s)).det := by
  rw [digestPacket_det, digestPacket_det q (digestPacket p s), hasCtx_digestPacket, hasCtx_digestPacket, digestPacket_det q s,
    digestPacket_det p s]
  simp [Function.comp_def, digestCtx_comm p q, Nat.add_right_comm]

/-- Settles O56: sums and counts add up whatever the order, and a packet's leaf goes to the contexts of its Heat, of which every packet
leaves as many. -/
theorem recordDigestsIgnoreOrder : Obligations.RecordDigestsIgnoreOrder :=
  ⟨fun _ _ _ _ => ⟨rfl, rfl, rfl, rfl⟩, fun _ _ => rfl, fun _ _ => ⟨rfl, rfl⟩, fun _ => rfl, fun a _ _ h => foldl_addLeaf_perm h a,
    foldl_addLeaf_append, digestPacket_comm⟩

end Sys2Proof.Machine
end


section
/-! SUPPORT. Commands that only read, and what logging leaves unchanged: the facts the completion proofs below share. -/
namespace Sys2Proof.Machine

/-- A command that only reads answers what it reads. -/
theorem reading_of_takes {m : CmdMeta} {op : Nat} {s : State} (ht : Takes m op s) (b : State → List Byte) :
    command m op (fun c s => answer c stDone (b s) s) s = .next (answer (refOf m op) stDone (b s) s) :=
  command_of_takes ht _

/-! ### A log entry changes the writer of the Shakeout record, or counts as lost (R422) -/

/-- What depends on neither the registers nor the record stays. -/
theorem logEvent_stays {α : Type} (g : State → α) (hcsr : ∀ s t, g { s with csr := t } = g s)
    (hrel : ∀ s r, g { s with rel := r } = g s) (code sev blk inst : Nat) (args : List Byte) (s : State) :
    g (logEvent code sev blk inst args s) = g s := by
  unfold logEvent
  split
  · exact hrel s _
  · exact hcsr s _

section
variable (code sev blk inst : Nat) (args : List Byte) (s : State)

@[simp] theorem logEvent_pending : (logEvent code sev blk inst args s).pending = s.pending :=
  logEvent_stays (·.pending) (fun _ _ => rfl) (fun _ _ => rfl) code sev blk inst args s
@[simp] theorem logEvent_out : (logEvent code sev blk inst args s).out = s.out :=
  logEvent_stays (·.out) (fun _ _ => rfl) (fun _ _ => rfl) code sev blk inst args s
@[simp] theorem logEvent_freeCtr : (logEvent code sev blk inst args s).freeCtr = s.freeCtr :=
  logEvent_stays (·.freeCtr) (fun _ _ => rfl) (fun _ _ => rfl) code sev blk inst args s
@[simp] theorem logEvent_pins : (logEvent code sev blk inst args s).pins = s.pins :=
  logEvent_stays (·.pins) (fun _ _ => rfl) (fun _ _ => rfl) code sev blk inst args s
@[simp] theorem logEvent_coord : (logEvent code sev blk inst args s).coord = s.coord :=
  logEvent_stays (·.coord) (fun _ _ => rfl) (fun _ _ => rfl) code sev blk inst args s
@[simp] theorem logEvent_power : (logEvent code sev blk inst args s).power = s.power :=
  logEvent_stays (·.power) (fun _ _ => rfl) (fun _ _ => rfl) code sev blk inst args s
@[simp] theorem logEvent_fore : (logEvent code sev blk inst args s).fore = s.fore :=
  logEvent_stays (·.fore) (fun _ _ => rfl) (fun _ _ => rfl) code sev blk inst args s
@[simp] theorem logEvent_sb : (logEvent code sev blk inst args s).sb = s.sb :=
  logEvent_stays (·.sb) (fun _ _ => rfl) (fun _ _ => rfl) code sev blk inst args s
@[simp] theorem logEvent_jtag : (logEvent code sev blk inst args s).jtag = s.jtag :=
  logEvent_stays (·.jtag) (fun _ _ => rfl) (fun _ _ => rfl) code sev blk inst args s
@[simp] theorem logEvent_links : (logEvent code sev blk inst args s).links = s.links :=
  logEvent_stays (·.links) (fun _ _ => rfl) (fun _ _ => rfl) code sev blk inst args s
@[simp] theorem logEvent_eq : (logEvent code sev blk inst args s).eq = s.eq :=
  logEvent_stays (·.eq) (fun _ _ => rfl) (fun _ _ => rfl) code sev blk inst args s
@[simp] theorem logEvent_eqFlash : (logEvent code sev blk inst args s).eqFlash = s.eqFlash :=
  logEvent_stays (·.eqFlash) (fun _ _ => rfl) (fun _ _ => rfl) code sev blk inst args s
@[simp] theorem logEvent_net : (logEvent code sev blk inst args s).net = s.net :=
  logEvent_stays (·.net) (fun _ _ => rfl) (fun _ _ => rfl) code sev blk inst args s
@[simp] theorem logEvent_sw : (logEvent code sev blk inst args s).sw = s.sw :=
  logEvent_stays (·.sw) (fun _ _ => rfl) (fun _ _ => rfl) code sev blk inst args s
@[simp] theorem logEvent_sched : (logEvent code sev blk inst args s).sched = s.sched :=
  logEvent_stays (·.sched) (fun _ _ => rfl) (fun _ _ => rfl) code sev blk inst args s
@[simp] theorem logEvent_samples : (logEvent code sev blk inst args s).samples = s.samples :=
  logEvent_stays (·.samples) (fun _ _ => rfl) (fun _ _ => rfl) code sev blk inst args s
@[simp] theorem logEvent_sec : (logEvent code sev blk inst args s).sec = s.sec :=
  logEvent_stays (·.sec) (fun _ _ => rfl) (fun _ _ => rfl) code sev blk inst args s
@[simp] theorem logEvent_assay : (logEvent code sev blk inst args s).assay = s.assay :=
  logEvent_stays (·.assay) (fun _ _ => rfl) (fun _ _ => rfl) code sev blk inst args s
@[simp] theorem logEvent_mem : (logEvent code sev blk inst args s).mem = s.mem :=
  logEvent_stays (·.mem) (fun _ _ => rfl) (fun _ _ => rfl) code sev blk inst args s
@[simp] theorem logEvent_pour : (logEvent code sev blk inst args s).pour = s.pour :=
  logEvent_stays (·.pour) (fun _ _ => rfl) (fun _ _ => rfl) code sev blk inst args s
@[simp] theorem logEvent_layer : (logEvent code sev blk inst args s).layer = s.layer :=
  logEvent_stays (·.layer) (fun _ _ => rfl) (fun _ _ => rfl) code sev blk inst args s
@[simp] theorem logEvent_upd : (logEvent code sev blk inst args s).upd = s.upd :=
  logEvent_stays (·.upd) (fun _ _ => rfl) (fun _ _ => rfl) code sev blk inst args s
@[simp] theorem logEvent_det : (logEvent code sev blk inst args s).det = s.det :=
  logEvent_stays (·.det) (fun _ _ => rfl) (fun _ _ => rfl) code sev blk inst args s

@[simp] theorem flag_logEvent_fld {f : Fld} (h : f ≠ .shLostCnt) (i : Nat) :
    flag f i (logEvent code sev blk inst args s) = flag f i s := by
  unfold flag
  rw [reg_logEvent_fld h]

end

end Sys2Proof.Machine
end


section
/-! PROOF. The queue and the clock (R353, R380), the state right after standby power-on (R399), the pool level of a Tundish half
(R301), and the JTAG port (R375, R376). -/
namespace Sys2Proof.Machine

/-! ### The queue and the clock -/

/-- Settles O43. -/
theorem stepRunsTheFrontCommand : Obligations.StepRunsTheFrontCommand := fun _ _ _ => rfl

/-- The time base with its wrap count is one counter of 64 bits. -/
theorem advance_timeBase (ns : Nat) (s : State) : (advance ns s).time.wrap * 2 ^ 48 + (advance ns s).time.base
    = (s.time.wrap * 2 ^ 48 + s.time.base + ns) % 2 ^ 64 := by
  simp only [advance]
  omega

theorem step_idle {s : State} (h : s.pending = []) : step s = .next (oscCycle s) := by simp [step, h, idle]

/-- Settles O44: the cycle's period is split into whole nanoseconds and what waits in `frac`. -/
theorem idleStepIsOneClockCycle : Obligations.IdleStepIsOneClockCycle := by
  intro s hpend
  refine ⟨_, (s.time.frac + oscPeriod s) / 10000000, step_idle hpend, rfl, ?split, ?frac, rfl, ?base⟩
  case split => exact Nat.div_add_mod' _ _
  case frac => exact Nat.mod_lt _ (by decide)
  case base => exact advance_timeBase _ s

/-! ### Right after standby power-on -/

theorem hbmRead_reset (f off n : Nat) : hbmRead f off n State.reset = List.replicate n 0 := by
  rw [hbmRead_eq_map, List.eq_replicate_iff]
  refine ⟨by simp, fun b hb => ?_⟩
  obtain ⟨i, -, rfl⟩ := List.mem_map.mp hb
  rfl

/-- Settles O50. -/
theorem resetState : Obligations.ResetState :=
  ⟨⟨rfl, rfl⟩, rfl, rfl, fun _ _ => rfl, hbmRead_reset, rfl, rfl, rfl, rfl⟩

/-! ### The pool level -/

theorem readReg_tuPoolLevel (d : Nat) (s : State) : readReg .tuPoolLevel d s = poolLevel d s := by
  change poolLevel d s % 4 = poolLevel d s
  have : poolLevel d s < 4 := by
    simp only [poolLevel]
    split
    · omega
    · split
      · omega
      · split <;> omega
  exact Nat.mod_eq_of_lt this

/-- Settles O59: the three thresholds cut the range of free cells into four parts. -/
theorem poolLevelFollowsFreeCells : Obligations.PoolLevelFollowsFreeCells := by
  refine ⟨fun _ => ⟨rfl, rfl, rfl⟩, fun d s hstop hslow => ?_⟩
  simp only [readReg_tuPoolLevel, poolLevel]
  split
  · omega
  · split
    · omega
    · split <;> omega

/-! ### JTAG -/

/-- Settles O36: EXTEST is in effect only while RESET_N is asserted, else the TAP stays on the BYPASS register (R375). -/
theorem jtagComplete : Obligations.JtagComplete := by
  intro s
  refine ⟨rfl, rfl, fun _ => ⟨_, rfl, rfl, rfl, rfl⟩, fun low => ?extest, fun high => ?held, rfl, rfl⟩
  case extest =>
    change execExtest s = _
    simp [execExtest, jtagEffective, setJtag, low]
  case held =>
    change execExtest s = _
    simp [execExtest, jtagEffective, setJtag, high]

end Sys2Proof.Machine
end


section
/-! PROOF. Reset, domain-reset and power commands (R361, R393, R400 to R402, R407, R431). -/
namespace Sys2Proof.Machine

section
variable {m : CmdMeta} {s : State}

/-! ### Resets of the data plane and of one domain (R361, R400 to R402) -/

theorem exec_devResetWarm_confirmed (ht : TakesLong m 0x0008 s) (hsw : switching s = false) (hst : s.power.state ≠ .warm) :
    exec (.devResetWarm m 0x5741524D) s
      = .next (beginWarm 0 (some (refOf m 0x0008)) false (accepted (refOf m 0x0008) s)) := by
  change execDevResetWarm m 0x5741524D s = _
  simp [execDevResetWarm, command_of_takes ht.1, accept_of_takesLong ht, hsw, hst]

/-- A Bay that no segment holds waits for its chunks to leave it. -/
theorem exec_devResetDomain_bay {bay : Nat} (ht : TakesLong m 0x0009 s) (hbay : bay < 100) (hst : s.power.state ≠ .warm)
    (hdom : inDomainReset 0 bay s = false) (hseg : (tabGet {} s.layer.bays bay).seg = none) :
    exec (.devResetDomain m 0 bay) s = .next
      (addDomain { kind := 0, index := bay, since := s.time.now, waiting := true, cmd := refOf m 0x0009 }
        (accepted (refOf m 0x0009) s)) := by
  change execDevResetDomain m 0 bay s = _
  simp [execDevResetDomain, command_of_takes ht.1, accept_of_takesLong ht, hbay, hst, hdom, hseg]

theorem exec_devResetDomain_link {l : Nat} (ht : TakesLong m 0x0009 s) (hl : l < 52) (hst : s.power.state ≠ .warm)
    (hdom : inDomainReset 1 l s = false) (hover : cameOver m l s = false) :
    exec (.devResetDomain m 1 l) s = .next (resetDomain 1 l
      (addDomain { kind := 1, index := l, since := s.time.now, waiting := false, cmd := refOf m 0x0009 }
        (accepted (refOf m 0x0009) s))) := by
  change execDevResetDomain m 1 l s = _
  simp [execDevResetDomain, command_of_takes ht.1, accept_of_takesLong ht, hl, hst, hdom, hover]

/-- A stack in which no page has its home frame. -/
theorem exec_devResetDomain_stack {st : Nat} (ht : TakesLong m 0x0009 s) (hbound : st < 12) (hst : s.power.state ≠ .warm)
    (hdom : inDomainReset 2 st s = false)
    (hhomes : ∀ e ∈ s.mem.frames, ∀ p, e.2.use = .home p → stackOf e.1 ≠ st) :
    exec (.devResetDomain m 2 st) s = .next (resetDomain 2 st
      (addDomain { kind := 2, index := st, since := s.time.now, waiting := false, cmd := refOf m 0x0009 }
        (accepted (refOf m 0x0009) s))) := by
  have noHome : ¬ (s.mem.frames.any fun e => match e.2.use with
      | .home _ => decide (stackOf e.1 = st) | _ => false) = true := by
    rw [List.any_eq_true]
    rintro ⟨e, he, hhome⟩
    split at hhome
    · next p huse => exact hhomes e he p huse (of_decide_eq_true hhome)
    · cases hhome
  change execDevResetDomain m 2 st s = _
  rw [execDevResetDomain, command_of_takes ht.1]
  simp only [accept_of_takesLong ht, hst, hdom]
  rw [if_neg (by simpa using hbound), if_neg (by simp), if_neg (by simp), if_neg (by simp), if_neg fun h => noHome h.2]
  simp

/-! ### FW_VERIFY outside recovery (R361, R431) -/

theorem exec_fwVerify_passed {slot : Nat} (ht : Takes m 0x0022 s) (hslot : slot ≤ 1)
    (hfull : (slotOf slot s).content ≠ .empty) (hsw : switching s = false) (hgood : (verifySlot slot s).1 = none)
    (hrec : recovery (verifySlot slot s).2 = false) :
    exec (.fwVerify m slot) s = .next (answer (refOf m 0x0022) stDone
      (imageDigest (slotOf slot (verifySlot slot s).2).content) (verifySlot slot s).2) := by
  change execFwVerify m slot s = _
  simp [execFwVerify, command_of_takes ht, Nat.not_lt.mpr hslot, hfull, hsw, hgood, hrec]

/-! ### Power commands (R393, R407) -/

theorem exec_pwrProfileSet_ok {p : List Byte} (ht : Takes m 0x0911 s) (hlen : p.length = 16) (hok : profileOk p = true) :
    exec (.pwrProfileSet m p) s = .next (answer (refOf m 0x0911) stDone
      (profileDigest { s with power := { s.power with profile := p } }) { s with power := { s.power with profile := p } }) := by
  change execPwrProfileSet m p s = _
  simp [execPwrProfileSet, command_of_takes ht, hlen, hok]

end

/-- Settles O3. -/
theorem powerCommandsComplete : Obligations.PowerCommandsComplete := by
  intro m s
  refine ⟨exec_devResetWarm_confirmed, fun _ => exec_devResetDomain_bay, fun _ => exec_devResetDomain_link,
    fun _ => exec_devResetDomain_stack, fun _ => exec_fwVerify_passed, ?status, fun _ => exec_pwrProfileSet_ok, ?profile, ?stats⟩
  case status =>
    exact fun ht => reading_of_takes ht fun s =>
      readWords 0x91000000 4 s ++ leBytes 25 (sumNat ((List.range 100).map fun b => reg .pwBayState b s * 4 ^ b))
  case profile => exact fun ht => reading_of_takes ht fun s => s.power.profile ++ profileDigest s
  case stats => exact fun ht => reading_of_takes ht fun s => readWords 0x91000018 4 s

end Sys2Proof.Machine
end


section
/-! PROOF. Firmware and security commands, the switch-over, the key engine and the anti-rollback fuses (R361, R369, R435 to R441). -/
namespace Sys2Proof.Machine

/-- Steps 1 and 2 of the switch-over have begun: the standby core resets and loads. -/
def switchStarted (slot : Nat) (c : CmdRef) (s : State) : State :=
  let s := setReg .foreSwitching 0 1 (setReg .foreStandbyReady 0 0 s)
  { s with fore := { s.fore with switch := some { slot := slot, step := 2, since := s.time.now, cmd := c } } }

section
variable {m : CmdMeta} {s : State}

theorem reg_switchStarted (slot : Nat) (c : CmdRef) (f : Fld) (s : State) :
    reg f 0 (switchStarted slot c s) = reg f 0 (setReg .foreSwitching 0 1 (setReg .foreStandbyReady 0 0 s)) := rfl

theorem switchStarted_switching (slot : Nat) (c : CmdRef) (s : State) : reg .foreSwitching 0 (switchStarted slot c s) = 1 := by
  rw [reg_switchStarted, reg_setReg_self]
  rfl

theorem switchStarted_notReady (slot : Nat) (c : CmdRef) (s : State) :
    reg .foreStandbyReady 0 (switchStarted slot c s) = 0 := by
  rw [reg_switchStarted, reg_setReg_fld _ _ (by simp), reg_setReg_self]
  rfl

/-! ### Firmware commands (R361, R369) -/

theorem exec_fwWrite_idleSlot {slot off : Nat} {data : List Byte} (ht : Takes m 0x0021 s) (hne : data ≠ [])
    (hlen : data.length ≤ 2048) (hslot : slot ≤ 1) (hfit : off + data.length ≤ 16777216)
    (hrun : runningSlot s ≠ some slot) (hsw : switching s = false) :
    exec (.fwWrite m slot off data) s = .next (done (refOf m 0x0021)
      (modSlot slot (fun f => { content := writtenContent f.content off data, verified := false }) s)) := by
  change execFwWrite m slot off data s = _
  simp [execFwWrite, command_of_takes ht, hne, Nat.not_lt.mpr hlen, Nat.not_lt.mpr hslot, slotSize, Nat.not_lt.mpr hfit,
    hrun, hsw]

theorem exec_fwSwitch_starts {slot : Nat} (ht : TakesLong m 0x0023 s) (hslot : slot ≤ 1) (hsw : switching s = false)
    (hrun : runningSlot s ≠ some slot) (hver : (slotOf slot s).verified = true)
    (hready : flag .foreStandbyReady 0 s = true) (hsec : s.sec.fuses ≤ slotSec (slotOf slot s).content) :
    exec (.fwSwitch m slot) s = .next (switchStarted slot (refOf m 0x0023) (accepted (refOf m 0x0023) s)) := by
  change execFwSwitch m slot s = _
  simp [execFwSwitch, command_of_takes ht.1, accept_of_takesLong ht, Nat.not_lt.mpr hslot, hsw, hrun, hver, hready,
    Nat.not_lt.mpr hsec, switchStarted]

/-! ### Security commands (R435 to R437, R441) -/

theorem exec_secAttest_queued {nonce : List Byte} (ht : Takes m 0x0B01 s) (hlen : nonce.length = 32)
    (hroom : signRoom s = true) :
    exec (.secAttest m nonce) s = .next (holdQueue 8 (refOf m 0x0B01)
      { s with sec := { s.sec with signQ := s.sec.signQ ++ [.attest (refOf m 0x0B01) nonce
        (if switching s then [] else attestBody nonce s)] } }) := by
  change execSecAttest m nonce s = _
  simp [execSecAttest, command_of_takes ht, hlen, askSignature, hroom]

theorem exec_secRollbackCommit_allowed {v : Nat} (ht : Takes m 0x0B03 s) (hv : v ≤ 64) (hok : commitAllowed v s = true) :
    exec (.secRollbackCommit m v) s = .next (holdQueue 8 (refOf m 0x0B03)
      { s with sec := { s.sec with rollback := some { target := v, from' := s.sec.fuses, cmd := refOf m 0x0B03 } } }) := by
  change execSecRollbackCommit m v s = _
  simp [execSecRollbackCommit, command_of_takes ht, Nat.not_lt.mpr hv, hok]

/-! ### The switch-over (R369) -/

theorem exec_fwSwitchStandbyLoaded_passed {w : FwSwitch} (hw : s.fore.switch = some w) (hstep : w.step = 2)
    (hgood : (verifySlot w.slot s).1 = none) : exec (.fwSwitchStandbyLoaded true) s = .next
      { (verifySlot w.slot s).2 with fore :=
        { (verifySlot w.slot s).2.fore with switch := some { w with step := 4, since := (verifySlot w.slot s).2.time.now } } } := by
  change execFwSwitchStandbyLoaded true s = _
  simp [execFwSwitchStandbyLoaded, hw, hstep, hgood]

end

/-- The state in which the standby core has become active, before the final reply (steps 5 and 6). -/
def handedOver (w : FwSwitch) (s : State) : State :=
  let old := reg .foreActiveSlot 0 s
  let s := setReg .foreActiveCore 0 (1 - reg .foreActiveCore 0 s) (setReg .foreActiveSlot 0 w.slot s)
  let s := markFlag detFwSwitch { s with fore := { s.fore with
    switch := some { w with step := 7, since := s.time.now }, lastHeartbeat := s.time.now, activeAlive := true } }
  logEvent 0x0003 sevI 0x00 0xFF (packFields [(1, old), (1, w.slot), (4, slotVersion (slotOf w.slot s).content)]) s

section
variable {s : State} {w : FwSwitch}

theorem exec_fwSwitchHandover_quiesced (hw : s.fore.switch = some w) (hstep : w.step = 4) :
    exec .fwSwitchHandover s = .next (finish w.cmd stDone [] (handedOver w s)) := by
  change execFwSwitchHandover s = _
  simp only [execFwSwitchHandover, hw, hstep, ne_eq, not_true_eq_false, if_false, handedOver]

/-- The registers after the hand-over are those of the two fields it sets, but for the count of lost entries. -/
theorem reg_handedOver {f : Fld} (hf : f ≠ .shLostCnt) : reg f 0 (handedOver w s)
    = reg f 0 (setReg .foreActiveCore 0 (1 - reg .foreActiveCore 0 s) (setReg .foreActiveSlot 0 w.slot s)) := by
  simp only [handedOver, reg_logEvent_fld hf, markFlag, reg_markCtxs]
  rfl

theorem handedOver_activeSlot : reg .foreActiveSlot 0 (handedOver w s) = w.slot % 2 := by
  rw [reg_handedOver (by decide), reg_setReg_fld _ _ (by simp), reg_setReg_self]
  rfl

theorem handedOver_activeCore : reg .foreActiveCore 0 (handedOver w s) = (1 - reg .foreActiveCore 0 s) % 2 := by
  rw [reg_handedOver (by decide), reg_setReg_self]
  rfl

theorem handedOver_switch : (handedOver w s).fore.switch = some { w with step := 7, since := s.time.now } := by
  simp [handedOver, markFlag]

theorem handedOver_mem : (handedOver w s).mem = s.mem := by simp [handedOver, markFlag]

theorem handedOver_pour : (handedOver w s).pour = s.pour := by simp [handedOver, markFlag]

theorem exec_fwSwitchDirectoryDone_handedOver (hw : s.fore.switch = some w) (hstep : w.step = 7) :
    exec .fwSwitchDirectoryDone s = .next (incReg .foreSwitchCnt 0 (setReg .foreStandbyReady 0 1 (setReg .foreSwitching 0 0
      (writeDir w.slot { s with fore := { s.fore with switch := none } })))) := by
  change execFwSwitchDirectoryDone s = _
  simp only [execFwSwitchDirectoryDone, hw, hstep, ne_eq, not_true_eq_false, if_false]

theorem exec_fwSwitchStepTimeout (hw : s.fore.switch = some w) :
    exec .fwSwitchStepTimeout s = .next (endSwitch (advanceTo (w.since + switchBound w.step) s)) := by
  change execFwSwitchStepTimeout s = _
  simp only [execFwSwitchStepTimeout, hw]

/-! ### The key engine (R435, R436) -/

theorem exec_signatureDone_late {c : CmdRef} {nonce : List Byte} {r : List SignFor} (hq : s.sec.signQ = .attest c nonce [] :: r)
    {t : State} (ht : t = incReg .seSignCnt 0 { s with sec := { s.sec with signQ := r } }) :
    exec .signatureDone s
      = .next (answer c stDone (attestBody nonce t ++ deviceSign kxAt (attestBody nonce t)) (freeQueue c t)) := by
  change execSignatureDone s = _
  simp only [execSignatureDone, hq, ht, if_true]

theorem exec_signatureDone_attest {c : CmdRef} {nonce body : List Byte} {r : List SignFor}
    (hq : s.sec.signQ = .attest c nonce body :: r) (hbody : body ≠ []) :
    exec .signatureDone s = .next (answer c stDone (body ++ deviceSign kxAt body)
      (freeQueue c (incReg .seSignCnt 0 { s with sec := { s.sec with signQ := r } }))) := by
  change execSignatureDone s = _
  simp only [execSignatureDone, hq, if_neg hbody]

theorem exec_signatureDone_shakeout {c : CmdRef} {body : List Byte} {r : List SignFor}
    (hq : s.sec.signQ = .shakeout c body :: r) :
    exec .signatureDone s = .next (answer c stDone (body ++ deviceSign kxSk body)
      (freeQueue c (incReg .seSignCnt 0 { s with sec := { s.sec with signQ := r } }))) := by
  change execSignatureDone s = _
  simp only [execSignatureDone, hq]

/-! ### The anti-rollback fuses (R437) -/

theorem exec_rollbackFuseBlown_more {r : Rollback} (hr : s.sec.rollback = some r) (hmore : s.sec.fuses + 1 < r.target) :
    exec (.rollbackFuseBlown true) s = .next { s with sec := { s.sec with fuses := s.sec.fuses + 1 } } := by
  change execRollbackFuseBlown true s = _
  simp [execRollbackFuseBlown, hr, hmore]

theorem exec_rollbackFuseBlown_last {r : Rollback} (hr : s.sec.rollback = some r) (hlast : r.target = s.sec.fuses + 1) :
    exec (.rollbackFuseBlown true) s = .next (answer r.cmd stDone (leBytes 1 (s.sec.fuses + 1))
      (logEvent 0x0B04 sevI 0xB0 0xFF (packFields [(1, r.from'), (1, s.sec.fuses + 1)])
        (freeQueue r.cmd { s with sec := { s.sec with fuses := s.sec.fuses + 1, rollback := none } }))) := by
  change execRollbackFuseBlown true s = _
  simp [execRollbackFuseBlown, hr, hlast]

theorem exec_rollbackFuseBlown_failed {r : Rollback} (hr : s.sec.rollback = some r) :
    exec (.rollbackFuseBlown false) s = .next (answer r.cmd stInternalFault (leBytes 1 s.sec.fuses)
      (logEvent 0x0B05 sevW 0xB0 0xFF (packFields [(1, s.sec.fuses)])
        (freeQueue r.cmd { s with sec := { s.sec with rollback := none } }))) := by
  change execRollbackFuseBlown false s = _
  simp [execRollbackFuseBlown, hr, freeQueue]

end

/-- Settles O7. -/
theorem firmwareCommandsComplete : Obligations.FirmwareCommandsComplete := by
  intro m s
  refine ⟨?status, fun _ _ _ => exec_fwWrite_idleSlot, ?switch, ?secStatus, fun _ => exec_secAttest_queued, ?identity,
    fun _ => exec_secRollbackCommit_allowed, ?root, ?stats⟩
  case status => exact fun ht => reading_of_takes ht fwStatusBody
  case switch =>
    intro slot ht hslot hsw hrun hver hready hsec
    exact ⟨_, exec_fwSwitch_starts ht hslot hsw hrun hver hready hsec, switchStarted_switching _ _ _,
      switchStarted_notReady _ _ _, rfl⟩
  case secStatus =>
    exact fun ht => reading_of_takes ht fun s => readWords 0xB0000000 3 s ++ readWords 0xB1000000 3 s ++ readWords 0xB1000010 3 s
  case identity => exact fun ht => reading_of_takes ht fun _ => deviceCert
  case root => exact fun ht => reading_of_takes ht fun _ => leBytes 32 Config.rootHash.toNat
  case stats => exact fun ht => reading_of_takes ht fun s => readWords 0xB0000030 2 s

/-- Settles O8. -/
theorem firmwareEventsComplete : Obligations.FirmwareEventsComplete := by
  intro s
  refine ⟨fun _ => exec_fwSwitchStandbyLoaded_passed, ?handover, ?directory, fun _ => exec_fwSwitchStepTimeout,
    fun _ _ _ hq => ⟨_, exec_signatureDone_late hq rfl, rfl⟩, fun _ _ _ _ => exec_signatureDone_attest,
    fun _ _ _ => exec_signatureDone_shakeout, fun _ => exec_rollbackFuseBlown_more, ?last, ?failed⟩
  case handover =>
    exact fun w hw hstep => ⟨_, exec_fwSwitchHandover_quiesced hw hstep, handedOver_activeSlot, handedOver_activeCore,
      handedOver_switch, handedOver_mem, handedOver_pour⟩
  case directory =>
    intro w hw hstep
    refine ⟨_, exec_fwSwitchDirectoryDone_handedOver hw hstep, ?_, ?_, ?_, ?_⟩
    · simp [writeDir]
    · exact (reg_incReg_fld _ (by simp)).trans (reg_setReg_self _ _ _ _)
    · exact (reg_incReg_fld _ (by simp)).trans ((reg_setReg_fld _ _ (by simp)).trans (reg_setReg_self _ _ _ _))
    · simp [writeDir]
  case last => exact fun r hr hlast => ⟨_, exec_rollbackFuseBlown_last hr hlast, by simp [freeQueue], by simp [freeQueue]⟩
  case failed => exact fun r hr => ⟨_, exec_rollbackFuseBlown_failed hr, by simp [freeQueue], by simp [freeQueue]⟩

end Sys2Proof.Machine
end


section
/-! PROOF. Tundish and output-queue commands and events (R294, R297 to R300, R305, R309). -/
namespace Sys2Proof.Machine

/-- More registers may be listed than changed. -/
theorem onlyRegs_mono {ks ls : List (Fld × Nat)} {s t : State} (h : OnlyRegs ks s t) (hsub : ∀ k ∈ ks, k ∈ ls) :
    OnlyRegs ls s t := by
  obtain ⟨hs, hregs⟩ := h
  exact ⟨hs, fun f i hnot => hregs f i fun hmem => hnot (hsub _ hmem)⟩

/-- A register set to a value of its width reads as that value. -/
theorem reg_setReg_lt {f : Fld} {v : Nat} (h : v < 2 ^ fldWidth f) (i : Nat) (s : State) : reg f i (setReg f i v s) = v := by
  rw [reg_setReg_self, Nat.mod_eq_of_lt h]

/-! ### Thresholds (R300, R301) -/

/-- The three thresholds of a class at a port. -/
def withThresholds (i warn slow stop : Nat) (s : State) : State :=
  setReg .thWarn i warn (setReg .thSlow i slow (setReg .thStop i stop s))

theorem onlyRegs_withThresholds (i warn slow stop : Nat) (s : State) :
    OnlyRegs [(.thWarn, i), (.thSlow, i), (.thStop, i)] s (withThresholds i warn slow stop s) :=
  onlyRegs_mono (onlyRegs_trans (onlyRegs_trans (onlyRegs_setReg .thStop i stop s) (onlyRegs_setReg .thSlow i slow _))
    (onlyRegs_setReg .thWarn i warn _)) (by simp)

theorem reg_withThresholds {i warn slow stop : Nat} (s : State) (hws : warn < slow) (hss : slow < stop) (hstop : stop ≤ halfCells) :
    reg .thWarn i (withThresholds i warn slow stop s) = warn ∧ reg .thSlow i (withThresholds i warn slow stop s) = slow ∧
    reg .thStop i (withThresholds i warn slow stop s) = stop := by
  have hcells : halfCells < 2 ^ 22 := by decide
  refine ⟨reg_setReg_lt (f := .thWarn) (show warn < 2 ^ 22 by omega) _ _, ?_, ?_⟩
  · rw [withThresholds, reg_setReg_fld _ _ (by simp)]
    exact reg_setReg_lt (f := .thSlow) (show slow < 2 ^ 22 by omega) _ _
  · rw [withThresholds, reg_setReg_fld _ _ (by simp), reg_setReg_fld _ _ (by simp)]
    exact reg_setReg_lt (f := .thStop) (show stop < 2 ^ 22 by omega) _ _

/-- The pool thresholds and the reserve of a half. -/
def withPool (h warn slow stop res : Nat) (s : State) : State :=
  setReg .tuPoolWarn h warn (setReg .tuPoolSlow h slow (setReg .tuPoolStop h stop (setReg .tuReserve h res s)))

theorem onlyRegs_withPool (h warn slow stop res : Nat) (s : State) :
    OnlyRegs [(.tuPoolWarn, h), (.tuPoolSlow, h), (.tuPoolStop, h), (.tuReserve, h)] s (withPool h warn slow stop res s) :=
  onlyRegs_mono (onlyRegs_trans (onlyRegs_trans (onlyRegs_trans (onlyRegs_setReg .tuReserve h res s)
    (onlyRegs_setReg .tuPoolStop h stop _)) (onlyRegs_setReg .tuPoolSlow h slow _)) (onlyRegs_setReg .tuPoolWarn h warn _)) (by simp)

theorem reg_withPool {h warn slow stop res : Nat} (s : State) (hwarn : warn < 2 ^ 22) (hsw : slow < warn) (hss : stop < slow)
    (hres : res < stop) : reg .tuPoolWarn h (withPool h warn slow stop res s) = warn ∧
    reg .tuPoolSlow h (withPool h warn slow stop res s) = slow ∧ reg .tuPoolStop h (withPool h warn slow stop res s) = stop ∧
    reg .tuReserve h (withPool h warn slow stop res s) = res := by
  refine ⟨reg_setReg_lt (f := .tuPoolWarn) hwarn _ _, ?_, ?_, ?_⟩
  · rw [withPool, reg_setReg_fld _ _ (by simp)]
    exact reg_setReg_lt (f := .tuPoolSlow) (show slow < 2 ^ 22 by omega) _ _
  · rw [withPool, reg_setReg_fld _ _ (by simp), reg_setReg_fld _ _ (by simp)]
    exact reg_setReg_lt (f := .tuPoolStop) (show stop < 2 ^ 22 by omega) _ _
  · rw [withPool, reg_setReg_fld _ _ (by simp), reg_setReg_fld _ _ (by simp), reg_setReg_fld _ _ (by simp)]
    exact reg_setReg_lt (f := .tuReserve) (show res < 2 ^ 22 by omega) _ _

section
variable {m : CmdMeta} {s : State}

theorem exec_tundishStatus_half {h : Nat} (ht : Takes m 0x0300 s) (hh : h ≤ 1) : exec (.tundishStatus m h) s
    = .next (answer (refOf m 0x0300) stDone (readWords (0x30000000 + h * 0x1000000) 8 s) s) := by
  change execTundishStatus m h s = _
  rw [execTundishStatus, command_of_takes ht, decide_eq_true hh, requires_true]

theorem exec_tundishThreshSet_ordered {port cls warn slow stop : Nat} (ht : Takes m 0x0301 s) (hport : port < 52)
    (hcls : cls ≤ 4) (hws : warn < slow) (hss : slow < stop) (hstop : stop ≤ halfCells) :
    exec (.tundishThreshSet m port cls warn slow stop) s
      = .next (done (refOf m 0x0301) (withThresholds (threshIdx port cls) warn slow stop s)) := by
  change execTundishThreshSet m port cls warn slow stop s = _
  rw [execTundishThreshSet, command_of_takes ht, decide_eq_true hport, decide_eq_true hcls, decide_eq_true hws,
    decide_eq_true hss, decide_eq_true hstop]
  rfl

theorem exec_tundishPoolSet_ordered {h warn slow stop res : Nat} (ht : Takes m 0x0302 s) (hh : h ≤ 1) (hwarn : warn < 2 ^ 22)
    (hsw : slow < warn) (hss : stop < slow) (hres : res < stop) (hroom : highAllow s ≤ res - 16384) :
    exec (.tundishPoolSet m h warn slow stop res) s = .next (done (refOf m 0x0302) (withPool h warn slow stop res s)) := by
  change execTundishPoolSet m h warn slow stop res s = _
  rw [execTundishPoolSet, command_of_takes ht, if_neg (by omega), if_neg (Nat.not_lt.mpr hroom)]
  rfl

/-! ### The bank swap (R305) -/

theorem exec_tundishBankSwap_free {h b : Nat} (ht : TakesLong m 0x0303 s) (hh : h ≤ 1) (hb : b ≤ 31)
    (hswap : (half h s).swap = none) (hriser : flag .tuRiserUsed h s = false) : exec (.tundishBankSwap m h b) s
      = .next (startBankSwap h b (some (refOf m 0x0303)) (accepted (refOf m 0x0303) s)) := by
  change execTundishBankSwap m h b s = _
  rw [execTundishBankSwap, command_of_takes ht.1, if_neg (by omega), hswap, hriser, accept_of_takesLong ht]
  rfl

/-! ### Queues (R298, R299) -/

theorem exec_queueAlloc_new {port cls heat : Nat} (ht : Takes m 0x0310 s) (hport : port < 52 ∨ 56 ≤ port ∧ port ≤ 58)
    (hcls : cls ≤ 4) (hheat : heat ≠ 0)
    (hnew : ∀ e ∈ extraQueues s, ¬ (e.2.port = port ∧ e.2.vc = cls ∧ e.2.heat = heat)) (hidx : freeQueueIdx s < 262144)
    (hroom : ((extraQueues s).filter fun e => e.2.port = port).length + 8 < 16384) :
    exec (.queueAlloc m port cls heat) s = .next (answer (refOf m 0x0310) stDone (leBytes 4 (freeQueueIdx s))
      (settleBindings (putQueue (freeQueueIdx s)
        { port := port, vc := cls, dflt := false, pend := !isFabric port, heat := heat, ents := [], tag := 0,
          weight := classWeight port cls s } s))) := by
  have hok : (!(decide (port < 52) || (decide (56 ≤ port) && decide (port ≤ 58))) || decide (cls > 4) || decide (heat = 0))
      = false := by
    simp only [Bool.or_eq_false_iff, Bool.not_eq_false', Bool.or_eq_true, Bool.and_eq_true, decide_eq_true_eq, decide_eq_false_iff_not]
    omega
  have hnone : ((extraQueues s).any fun e => e.2.port = port && e.2.vc = cls && e.2.heat = heat) = false := by
    rw [List.any_eq_false]
    intro e he
    simpa [and_assoc] using hnew e he
  change execQueueAlloc m port cls heat s = _
  rw [execQueueAlloc, command_of_takes ht]
  simp only [hok, hnone, Bool.false_eq_true, if_false]
  rw [if_neg (by omega)]

theorem exec_queueFree_empty {i : Nat} {q : OutQueue} (ht : Takes m 0x0311 s) (hlo : 440 ≤ i) (hhi : i < 262144)
    (hq : tabFind s.sw.queues i = some q) (hents : q.ents = []) :
    exec (.queueFree m i) s = .next (done (refOf m 0x0311) (delQueue i { s with samples := tabDel s.samples i })) := by
  change execQueueFree m i s = _
  rw [execQueueFree, command_of_takes ht, if_neg (Nat.not_le.mpr hhi), if_neg (Nat.not_lt.mpr hlo)]
  simp only [hq, hents]

/-- Its packets are relinked to the tail of the default queue, whose order of service stays. -/
theorem exec_queueFree_relinked {i : Nat} {q d : OutQueue} {e : QEnt} {r : List QEnt} (ht : Takes m 0x0311 s) (hlo : 440 ≤ i)
    (hhi : i < 262144) (hq : tabFind s.sw.queues i = some q) (hents : q.ents = e :: r)
    (hd : queueOf (defaultQueueIdx q.port q.vc) (delQueue i { s with samples := tabDel s.samples i }) = some d)
    (hne : d.ents ≠ []) :
    exec (.queueFree m i) s = .next (done (refOf m 0x0311) (putQueue (defaultQueueIdx q.port q.vc)
      { d with ents := d.ents ++ q.ents.map (fun x => { x with sample := none }) }
      (delQueue i { s with samples := tabDel s.samples i }))) := by
  change execQueueFree m i s = _
  rw [execQueueFree, command_of_takes ht, if_neg (Nat.not_le.mpr hhi), if_neg (Nat.not_lt.mpr hlo)]
  simp only [hq, hd, hents, Option.getD_some, if_neg hne]

theorem exec_queueQuery_defined {i : Nat} {q : OutQueue} (ht : Takes m 0x0312 s) (hi : i < 262144) (hq : queueOf i s = some q) :
    exec (.queueQuery m i) s = .next (answer (refOf m 0x0312) stDone (queueDesc q s) (useFree s)) := by
  change execQueueQuery m i s = _
  rw [execQueueQuery, command_of_takes ht]
  simp only [hq, if_pos hi]

end

/-- Settles O15. -/
theorem tundishCommandsComplete : Obligations.TundishCommandsComplete := by
  intro m s
  refine ⟨fun _ => exec_tundishStatus_half, ?thresh, ?pool, fun _ _ => exec_tundishBankSwap_free,
    fun _ _ _ => exec_queueAlloc_new, fun _ _ => exec_queueFree_empty, fun _ _ _ _ _ => exec_queueFree_relinked,
    fun _ _ => exec_queueQuery_defined, ?stats⟩
  case thresh =>
    intro port cls warn slow stop ht hport hcls hws hss hstop
    obtain ⟨hregWarn, hregSlow, hregStop⟩ := reg_withThresholds (i := threshIdx port cls) s hws hss hstop
    exact ⟨_, exec_tundishThreshSet_ordered ht hport hcls hws hss hstop, hregWarn, hregSlow, hregStop,
      onlyRegs_withThresholds _ _ _ _ _⟩
  case pool =>
    intro h warn slow stop res ht hh hwarn hsw hss hres hroom
    obtain ⟨hregWarn, hregSlow, hregStop, hregRes⟩ := reg_withPool (h := h) s hwarn hsw hss hres
    exact ⟨_, exec_tundishPoolSet_ordered ht hh hwarn hsw hss hres hroom, hregWarn, hregSlow, hregStop, hregRes,
      onlyRegs_withPool _ _ _ _ _ _⟩
  case stats =>
    exact fun ht => reading_of_takes ht fun s => readWords 0x30000020 6 s ++ readWords 0x31000020 6 s
      ++ readWords 0x32000000 5 s ++ readWords 0x33000000 5 s ++ readWords 0x34000004 1 s

/-! ### The free store (R294) -/

section
variable {s : State} {h : Nat}

theorem exec_tundishRingTransfer_low (hh : h < 2) (hlow : runCount (half h s).cache < 8192) (hring : (half h s).ring ≠ []) :
    exec (.tundishRingTransfer h) s = .next (incReg .tuRingXferCnt h (modHalf h (fun x => { x with
      cache := x.cache ++ (splitRuns 4096 (half h s).ring).1, ring := (splitRuns 4096 (half h s).ring).2 }) s)) := by
  change execTundishRingTransfer h s = _
  rw [execTundishRingTransfer, decide_eq_true hh]
  simp only [if_pos (And.intro hlow hring)]
  rfl

theorem exec_tundishRingTransfer_high (hh : h < 2) (hhigh : 24576 < runCount (half h s).cache) :
    exec (.tundishRingTransfer h) s = .next (incReg .tuRingXferCnt h (modHalf h (fun x => { x with
      cache := (splitRuns 4096 (half h s).cache).2, ring := x.ring ++ (splitRuns 4096 (half h s).cache).1 }) s)) := by
  have hnot : ¬ (runCount (half h s).cache < 8192 ∧ (half h s).ring ≠ []) := fun hc => by omega
  change execTundishRingTransfer h s = _
  rw [execTundishRingTransfer, decide_eq_true hh]
  simp only [if_neg hnot, if_pos hhigh]
  rfl

theorem exec_tundishRingTransfer_between (hh : h < 2) (hlo : 8192 ≤ runCount (half h s).cache)
    (hhi : runCount (half h s).cache ≤ 24576) : exec (.tundishRingTransfer h) s = .next s := by
  have hnot : ¬ (runCount (half h s).cache < 8192 ∧ (half h s).ring ≠ []) := fun hc => by omega
  change execTundishRingTransfer h s = _
  rw [execTundishRingTransfer, decide_eq_true hh]
  simp only [if_neg hnot, if_neg (Nat.not_lt.mpr hhi)]
  rfl

end

/-! ### The end of a bank swap (R305) -/

theorem half_modHalf_self (d : Nat) (f : TundishHalf → TundishHalf) (s : State) : half d (modHalf d f s) = f (half d s) := by
  unfold half modHalf
  split <;> rfl

/-- The half's part is read from the switch alone. -/
theorem half_congr {s t : State} (h : t.sw = s.sw) (d : Nat) : half d t = half d s := by unfold half; rw [h]

theorem links_of_rest {s t : State} (h : rest t = rest s) : t.links = s.links :=
  show (rest t).links = (rest s).links from congrArg State.links h

@[simp] theorem rest_dropDamagedAt (d : Nat) (p : Packet) (s : State) : rest (dropDamagedAt d p s) = rest s :=
  rest_nak p nakDamaged _

@[simp] theorem rest_resendKept (a b c : Nat) (x : SentPkt) (s : State) : rest (resendKept a b c x s) = rest s := by
  simp [resendKept]

@[simp] theorem rest_resendMarked (s : State) : rest (resendMarked s) = rest s :=
  rest_foldl _ (fun _ _ => rest_resendKept ..) _ _

/-- A queue loses its packets that stand on a damaged hold. -/
theorem rest_damageQueue (id : Nat) (e : Nat × OutQueue) (s : State) :
    rest ((e.2.ents.filter fun x => x.hold = id).foldl (fun s x =>
      let s := dropDamagedAt (dieOfPort e.2.port x.pkt.stream s) x.pkt (dropHold id s)
      if e.2.port ≥ 52 then portDone x.pkt false false s else s)
      (if (queueWithout id e.2 s).ents = [] ∧ (queueWithout id e.2 s).dflt then delQueue e.1 s
        else putQueue e.1 (queueWithout id e.2 s) s)) = rest s := by
  rw [rest_foldl]
  · split <;> simp
  · intro s x
    dsimp only
    split <;> simp

@[simp] theorem rest_damageHold (id : Nat) (s : State) : rest (damageHold id s) = rest s := by
  unfold damageHold
  dsimp only
  rw [rest_foldl, rest_foldl]
  · exact fun s e => rest_damageQueue id e s
  · intro s e
    rw [rest_foldl, rest_putCtx]
    exact fun s x => by simp

@[simp] theorem rest_damageCells (d : Nat) (ptrs : List Nat) (s : State) : rest (damageCells d ptrs s) = rest s := by
  rw [damageCells, rest_resendMarked, rest_foldl]
  exact fun s e => rest_damageHold e.1 s

/-- What a copy that met errors at the cells `mine` has done before the bank map switches. -/
def copyErrors (d : Nat) (mine : List Nat) (s : State) : State :=
  damageCells d mine (addReg .tuEccUncorrCnt d mine.length
    (mine.foldl (fun s p => logEvent 0x0304 sevW (0x30 + d) d (packFields [(4, p)]) s) s))

theorem rest_copyErrors (d : Nat) (mine : List Nat) (s : State) : rest (copyErrors d mine s) = rest s := by
  rw [copyErrors, rest_damageCells, rest_addReg, rest_foldl]
  exact fun s p => rest_logEvent ..

/-- A half without the swap, and without the record of the old bank's errors. -/
def swapEnded (b : Nat) (h : TundishHalf) : TundishHalf :=
  { h with swap := none, bankBad := h.bankBad.filter (· ≠ b), bankErrs := h.bankErrs.filter (·.1 ≠ b) }

/-- The bank map switches to the Riser bank, and the old bank is logged (steps 3 and 4). -/
def bankSwitched (d : Nat) (j : BankSwap) (s : State) : State :=
  let s := modHalf d (swapEnded j.bank) s
  let s := setReg .tuRiserFor d j.bank (setReg .tuRiserUsed d 1 s)
  let s := logEvent 0x0302 sevI (0x30 + d) d (packFields [(1, j.bank)]) s
  markFlag detRiser (incReg .reSwapCnt 0 (addHistory 3 (100 * d + j.bank) j.bank 32 s))

section
variable {s : State} {d : Nat} {j : BankSwap}

theorem exec_bankSwapCopyDone_swapping (hd : d < 2) (hj : (half d s).swap = some j) (lost : List Nat) :
    exec (.bankSwapCopyDone d lost) s = .next (finishOpt j.cmd stDone [] (bankSwitched d j
      (copyErrors d (lost.filter fun p => bitsOf p 22 17 = d * 32 + j.bank) s))) := by
  change execBankSwapCopyDone d lost s = _
  rw [execBankSwapCopyDone, decide_eq_true hd]
  simp only [hj]
  rfl

theorem addHistory_stays {α : Type} (g : State → α) (hrel : ∀ s r, g { s with rel := r } = g s) (kind unit old new : Nat)
    (s : State) : g (addHistory kind unit old new s) = g s := by
  unfold addHistory
  split
  · rfl
  · exact hrel s _

theorem rest_bankSwitched : rest (bankSwitched d j s) = rest s := by
  simp only [bankSwitched, markFlag, rest_markCtxs, rest_incReg, addHistory_stays rest (fun _ _ => rfl), rest_logEvent,
    rest_setReg, rest_modHalf]

theorem reg_bankSwitched {f : Fld} (hf : f ∉ [Fld.shLostCnt, .reSwapCnt]) : reg f d (bankSwitched d j s)
    = reg f d (setReg .tuRiserFor d j.bank (setReg .tuRiserUsed d 1 s)) := by
  simp only [List.mem_cons, List.not_mem_nil, or_false, not_or] at hf
  obtain ⟨hlost, hswap⟩ := hf
  simp only [bankSwitched, markFlag, reg_markCtxs]
  rw [reg_incReg_fld _ (by simp [hswap]), addHistory_stays (reg f d) (fun _ _ => rfl), reg_logEvent_fld hlost]
  simp [reg_setReg]

theorem bankSwitched_riserUsed : reg .tuRiserUsed d (bankSwitched d j s) = 1 := by
  rw [reg_bankSwitched (by simp), reg_setReg_fld _ _ (by simp)]
  exact reg_setReg_self _ _ _ _

theorem bankSwitched_riserFor : reg .tuRiserFor d (bankSwitched d j s) = j.bank % 32 := by
  rw [reg_bankSwitched (by simp)]
  exact reg_setReg_self _ _ _ _

/-- Of the switch only the half's record of its banks changes. -/
theorem bankSwitched_sw : (bankSwitched d j s).sw = (modHalf d (swapEnded j.bank) s).sw := by
  simp [bankSwitched, markFlag, addHistory_stays (·.sw) (fun _ _ => rfl)]

theorem bankSwitched_swap : (half d (bankSwitched d j s)).swap = none := by
  rw [half_congr bankSwitched_sw, half_modHalf_self]
  rfl

end

/-- Settles O16: what the copy's errors and the switch of the bank map change leaves memory and links alone. -/
theorem tundishEventsComplete : Obligations.TundishEventsComplete := by
  intro s h hh
  refine ⟨exec_tundishRingTransfer_low hh, exec_tundishRingTransfer_high hh, exec_tundishRingTransfer_between hh,
    fun j lost hj => ?copied⟩
  case copied =>
    have hrest : rest (bankSwitched h j (copyErrors h (lost.filter fun p => bitsOf p 22 17 = h * 32 + j.bank) s)) = rest s := by
      rw [rest_bankSwitched, rest_copyErrors]
    exact ⟨_, exec_bankSwapCopyDone_swapping hh hj lost, bankSwitched_riserUsed, bankSwitched_riserFor, bankSwitched_swap,
      mem_of_rest hrest, links_of_rest hrest⟩

end Sys2Proof.Machine
end


section
/-! PROOF. Scheduler commands (R312, R315, R316, R322 to R324, R327). -/
namespace Sys2Proof.Machine

theorem tabFind_eq_none {α : Type} {t : Tab α} {k : Nat} (h : ∀ e ∈ t, e.1 ≠ k) : tabFind t k = none := by
  induction t with
  | nil => rfl
  | cons e r ih =>
    obtain ⟨hne, hr⟩ := List.forall_mem_cons.mp h
    rw [tabFind, if_neg hne.symm, ih hr]

theorem tabFind_tabDel_self {α : Type} (t : Tab α) (k : Nat) : tabFind (tabDel t k) k = none :=
  tabFind_eq_none (tabDel_keys t k)

/-- A command about a link port. -/
theorem portCommand_of_takes {m : CmdMeta} {op p : Nat} {s : State} (ht : Takes m op s) (hp : p < 52)
    (k : CmdRef → State → State) : portCommand m op p k s = .next (k (refOf m op) s) := by
  rw [portCommand, command_of_takes ht, decide_eq_true hp, requires_true]

@[simp] theorem schedOf_modSched_self (p : Nat) (f : SchedPart → SchedPart) (s : State) :
    schedOf p (modSched p f s) = f (schedOf p s) := by
  rw [schedOf, modSched, tabGet_tabSet, if_pos rfl]

section
variable {m : CmdMeta} {s : State} {p : Nat}

/-! ### Weights (R312) -/

theorem exec_schedClassWeight_port {cls w : Nat} (ht : Takes m 0x0401 s) (hp : p < 52) (hcls : cls ≤ 4) (hw : 1 ≤ w)
    (hw' : w ≤ 255) : exec (.schedClassWeight m p cls w) s = .next (done (refOf m 0x0401) (setClassWeight cls w p s)) := by
  change execSchedClassWeight m p cls w s = _
  rw [execSchedClassWeight, command_of_takes ht, decide_eq_true hp, decide_eq_true hcls, decide_eq_true hw, decide_eq_true hw',
    if_neg (by omega : ¬ p = 0xFF)]
  rfl

theorem exec_schedClassWeight_all {cls w : Nat} (ht : Takes m 0x0401 s) (hcls : cls ≤ 4) (hw : 1 ≤ w) (hw' : w ≤ 255) :
    exec (.schedClassWeight m 0xFF cls w) s = .next (done (refOf m 0x0401)
      ((List.range 52).foldl (fun s k => setClassWeight cls w k s) s)) := by
  change execSchedClassWeight m 0xFF cls w s = _
  rw [execSchedClassWeight, command_of_takes ht, decide_eq_true hcls, decide_eq_true hw, decide_eq_true hw', if_pos rfl]
  rfl

theorem exec_schedQueueWeight_extra {i w : Nat} {q : OutQueue} (ht : Takes m 0x0402 s) (hlo : 440 ≤ i) (hhi : i < 262144)
    (hw : 1 ≤ w) (hw' : w ≤ 255) (hq : tabFind s.sw.queues i = some q) (hport : q.port < 52) :
    exec (.schedQueueWeight m i w) s = .next (done (refOf m 0x0402) (putQueue i { q with weight := w } s)) := by
  change execSchedQueueWeight m i w s = _
  rw [execSchedQueueWeight, command_of_takes ht, if_neg (by omega)]
  simp only [hq, if_neg (Nat.not_le.mpr hport)]

/-! ### Windows (R315, R316) -/

theorem exec_schedWinWrite_ok {first : Nat} {es : List Nat} (ht : Takes m 0x0410 s) (hp : p < 52) (hne : es ≠ [])
    (hlen : es.length ≤ 128) (hfit : first + es.length ≤ 1024) (hwidth : ∀ e ∈ es, e < 2 ^ 62)
    (hflip : (schedOf p s).flip = none) : exec (.schedWinWrite m p first es) s
      = .next (done (refOf m 0x0410) (modShadow p (fun t => tabFill 0 t first es) s)) := by
  have hwide : (es.any fun e => decide (e ≥ 2 ^ 62)) = false := by
    rw [List.any_eq_false]
    exact fun e he => by simpa using hwidth e he
  change execSchedWinWrite m p first es s = _
  rw [execSchedWinWrite, portCommand_of_takes ht hp]
  simp only [hwide, hflip, Option.isSome_none, Bool.false_eq_true, or_false, if_false]
  rw [if_neg (by simp [hne, hlen]), if_neg (Nat.not_lt.mpr hfit)]

theorem exec_schedWinCommit_ok {n cyc idle guard at' : Nat} (ht : TakesLong m 0x0411 s) (hp : p < 52) (hn : n ≤ 1024)
    (hidle : idle ≤ 31) (hok : windowsOk (shadowTable p 0 n s) cyc guard = true) (hat : activateOk at' s = true)
    (hflip : (schedOf p s).flip = none) :
    exec (.schedWinCommit m p n cyc idle guard at') s = .next (modSched p (fun k => { k with
        flip := some { at' := at', off := false, count := n, cycle := cyc, idle := idle, guard := guard, cmd := refOf m 0x0411 } })
      (accepted (refOf m 0x0411) s)) := by
  change execSchedWinCommit m p n cyc idle guard at' s = _
  rw [execSchedWinCommit, portCommand_of_takes ht.1 hp]
  simp [Nat.not_lt.mpr hn, Nat.not_lt.mpr hidle, hok, hat, hflip, accept_of_takesLong ht]

theorem exec_schedWinOff_running {at' : Nat} (ht : TakesLong m 0x0412 s) (hp : p < 52) (hat : activateOk at' s = true)
    (hflip : (schedOf p s).flip = none) (hon : flag .sdWinOn p s = true) :
    exec (.schedWinOff m p at') s = .next (modSched p (fun k => { k with
        flip := some { at' := at', off := true, count := 0, cycle := 0, idle := 31, guard := 0, cmd := refOf m 0x0412 } })
      (accepted (refOf m 0x0412) s)) := by
  change execSchedWinOff m p at' s = _
  rw [execSchedWinOff, portCommand_of_takes ht.1 hp]
  simp [hat, hflip, hon, accept_of_takesLong ht]

theorem exec_schedWinRead_active {first : Nat} (ht : Takes m 0x0413 s) (hp : p < 52) (hfirst : first < 1024) :
    exec (.schedWinRead m p 0 first) s = .next (answer (refOf m 0x0413) stDone
      ((((activeTable p s).drop first).take 128).flatMap (leBytes 8)) s) := by
  change execSchedWinRead m p 0 first s = _
  rw [execSchedWinRead, portCommand_of_takes ht hp, if_neg (by omega)]
  rfl

theorem exec_schedWinRead_shadow {first : Nat} (ht : Takes m 0x0413 s) (hp : p < 52) (hfirst : first < 1024) :
    exec (.schedWinRead m p 1 first) s = .next (answer (refOf m 0x0413) stDone
      ((shadowTable p first (min 128 (1024 - first)) s).flatMap (leBytes 8)) s) := by
  change execSchedWinRead m p 1 first s = _
  rw [execSchedWinRead, portCommand_of_takes ht hp, if_neg (by omega)]
  rfl

/-! ### Policers (R324) -/

end

/-- A port's first policer starts its refills. -/
def refillsStarted (p : Nat) (s : State) : State :=
  if (schedOf p s).streams = [] ∧ (schedOf p s).classes = [] then modSched p (fun k => { k with refillAt := s.time.now }) s else s

/-- A port's stream policer or class policer is removed. -/
def withoutPolicer (p kind stream cls : Nat) (s : State) : State :=
  modSched p (fun k => if kind = 0 then { k with streams := tabDel k.streams (stream * 8 + cls) }
    else { k with classes := tabDel k.classes cls }) s

section
variable {m : CmdMeta} {s : State} {p : Nat}

theorem exec_policerSet_removed {kind stream cls : Nat} (ht : Takes m 0x0420 s) (hp : p < 52)
    (hnamed : policerNamed p kind stream cls = true) (b : Nat) : exec (.policerSet m p kind stream cls 0 b) s
      = .next (done (refOf m 0x0420) (withoutPolicer p kind stream cls (refillsStarted p s))) := by
  change execPolicerSet m p kind stream cls 0 b s = _
  rw [execPolicerSet, portCommand_of_takes ht hp]
  simp [hnamed, withoutPolicer, refillsStarted]

theorem exec_policerSet_class {stream cls r b : Nat} (ht : Takes m 0x0420 s) (hp : p < 52)
    (hnamed : policerNamed p 1 stream cls = true) (hr : 1 ≤ r) (hr' : r ≤ 4588) (hb : 65 ≤ b) (hb' : b ≤ 1048575) :
    exec (.policerSet m p 1 stream cls r b) s = .next (done (refOf m 0x0420)
      (putPolicer p false cls { r := r, b := b, tokens := b, logAt := none } (refillsStarted p s))) := by
  change execPolicerSet m p 1 stream cls r b s = _
  rw [execPolicerSet, portCommand_of_takes ht hp]
  simp [hnamed, refillsStarted, Nat.not_lt.mpr hr', Nat.not_lt.mpr hb, Nat.not_lt.mpr hb', Nat.one_le_iff_ne_zero.mp hr]

theorem exec_policerSet_stream {stream cls r b : Nat} (ht : Takes m 0x0420 s) (hp : p < 52)
    (hnamed : policerNamed p 0 stream cls = true) (hr : 1 ≤ r) (hr' : r ≤ 4588) (hb : 65 ≤ b) (hb' : b ≤ 1048575)
    (hroom : (schedOf p s).streams.length < 1024) :
    exec (.policerSet m p 0 stream cls r b) s = .next (done (refOf m 0x0420)
      (putPolicer p true (stream * 8 + cls) { r := r, b := b, tokens := b, logAt := none } (refillsStarted p s))) := by
  change execPolicerSet m p 0 stream cls r b s = _
  rw [execPolicerSet, portCommand_of_takes ht hp]
  simp [hnamed, refillsStarted, Nat.not_lt.mpr hr', Nat.not_lt.mpr hb, Nat.not_lt.mpr hb', Nat.one_le_iff_ne_zero.mp hr,
    Nat.not_le.mpr hroom]

theorem withoutPolicer_streams (stream cls : Nat) : tabFind (schedOf p (withoutPolicer p 0 stream cls s)).streams (stream * 8 + cls) = none := by
  rw [withoutPolicer, schedOf_modSched_self]
  exact tabFind_tabDel_self ..

theorem withoutPolicer_classes (stream cls : Nat) : tabFind (schedOf p (withoutPolicer p 1 stream cls s)).classes cls = none := by
  rw [withoutPolicer, schedOf_modSched_self]
  exact tabFind_tabDel_self ..

theorem putPolicer_classes (cls : Nat) (x : Policer) : tabFind (schedOf p (putPolicer p false cls x s)).classes cls = some x := by
  simp [putPolicer, tabFind_tabPut]

theorem putPolicer_streams (key : Nat) (x : Policer) : tabFind (schedOf p (putPolicer p true key x s)).streams key = some x := by
  simp [putPolicer, tabFind_tabPut]

theorem exec_policerRead_stream {stream cls : Nat} {x : Policer} (ht : Takes m 0x0421 s) (hp : p < 52)
    (hnamed : policerNamed p 0 stream cls = true) (hx : tabFind (schedOf p s).streams (stream * 8 + cls) = some x) :
    exec (.policerRead m p 0 stream cls) s
      = .next (answer (refOf m 0x0421) stDone (packFields [(2, x.r), (4, x.b), (4, x.tokens)]) s) := by
  change execPolicerRead m p 0 stream cls s = _
  rw [execPolicerRead, portCommand_of_takes ht hp, hnamed]
  simp [hx]

theorem exec_policerRead_class {stream cls : Nat} {x : Policer} (ht : Takes m 0x0421 s) (hp : p < 52)
    (hnamed : policerNamed p 1 stream cls = true) (hx : tabFind (schedOf p s).classes cls = some x) :
    exec (.policerRead m p 1 stream cls) s
      = .next (answer (refOf m 0x0421) stDone (packFields [(2, x.r), (4, x.b), (4, x.tokens)]) s) := by
  change execPolicerRead m p 1 stream cls s = _
  rw [execPolicerRead, portCommand_of_takes ht hp, hnamed]
  simp [hx]

/-! ### Sampling (R322, R323) -/

theorem exec_schedSample_off {q : Nat} (ht : Takes m 0x0430 s) (hq : q < 262144) (hqueue : queueOf q s ≠ none) :
    exec (.schedSample m q 0) s = .next (done (refOf m 0x0430) { s with samples := tabDel s.samples q }) := by
  change execSchedSample m q 0 s = _
  simp [execSchedSample, command_of_takes ht, Nat.not_le.mpr hq, hqueue]

theorem exec_schedSample_on {q : Nat} (ht : Takes m 0x0430 s) (hq : q < 262144) (hqueue : queueOf q s ≠ none)
    (hnew : tabFind s.samples q = none) (hroom : s.samples.length < 1024) :
    exec (.schedSample m q 1) s = .next (done (refOf m 0x0430) { s with samples := tabPut s.samples q {} }) := by
  change execSchedSample m q 1 s = _
  simp [execSchedSample, command_of_takes ht, Nat.not_le.mpr hq, hqueue, hnew, Nat.not_le.mpr hroom]

theorem exec_schedHistRead_kept {q : Nat} {x : Sample} (ht : Takes m 0x0431 s) (hq : q < 262144)
    (hx : tabFind s.samples q = some x) :
    exec (.schedHistRead m q 0) s = .next (answer (refOf m 0x0431) stDone (sampleBytes x) s) := by
  change execSchedHistRead m q 0 s = _
  rw [execSchedHistRead, command_of_takes ht, if_neg (by omega)]
  simp [hx]

theorem exec_schedHistRead_cleared {q : Nat} {x : Sample} (ht : Takes m 0x0431 s) (hq : q < 262144)
    (hx : tabFind s.samples q = some x) :
    exec (.schedHistRead m q 1) s = .next (answer (refOf m 0x0431) stDone (sampleBytes x)
      { s with samples := tabPut s.samples q { count := x.count } }) := by
  change execSchedHistRead m q 1 s = _
  rw [execSchedHistRead, command_of_takes ht, if_neg (by omega)]
  simp [hx]

theorem exec_schedSampleRate_ok {shift : Nat} (ht : Takes m 0x0432 s) (hshift : shift ≤ 15) :
    exec (.schedSampleRate m shift) s = .next (done (refOf m 0x0432) (setReg .spSampleShift 0 shift s)) := by
  change execSchedSampleRate m shift s = _
  rw [execSchedSampleRate, command_of_takes ht, decide_eq_true hshift, requires_true]

end

/-- Settles O17. -/
theorem schedCommandsComplete : Obligations.SchedCommandsComplete := by
  intro m s p hp
  refine ⟨?status, ?weights, fun _ _ _ => exec_schedQueueWeight_extra, fun _ _ ht => exec_schedWinWrite_ok ht hp,
    fun _ _ _ _ _ ht => exec_schedWinCommit_ok ht hp, fun _ ht => exec_schedWinOff_running ht hp, ?winRead, ?removed, ?classPolicer,
    ?streamPolicer, fun _ _ _ ht => exec_policerRead_stream ht hp, fun _ _ _ ht => exec_policerRead_class ht hp, ?sample, ?hist,
    fun _ => exec_schedSampleRate_ok, ?stats⟩
  case status =>
    exact fun ht => portCommand_of_takes ht hp fun c s => answer c stDone (readWords (0x40000000 + p * 0x1000) 8 s) s
  case weights =>
    exact fun cls w ht hcls hw hw' => ⟨exec_schedClassWeight_port ht hp hcls hw hw', exec_schedClassWeight_all ht hcls hw hw'⟩
  case winRead =>
    exact fun first ht hfirst => ⟨exec_schedWinRead_active ht hp hfirst, exec_schedWinRead_shadow ht hp hfirst⟩
  case removed =>
    intro kind stream cls b ht hnamed
    refine ⟨_, exec_policerSet_removed ht hp hnamed b, ?_, ?_⟩
    · rintro rfl
      exact withoutPolicer_streams stream cls
    · rintro rfl
      exact withoutPolicer_classes stream cls
  case classPolicer =>
    exact fun stream cls r b ht hnamed hr hr' hb hb' =>
      ⟨_, exec_policerSet_class ht hp hnamed hr hr' hb hb', putPolicer_classes cls _⟩
  case streamPolicer =>
    exact fun stream cls r b ht hnamed hr hr' hb hb' hroom =>
      ⟨_, exec_policerSet_stream ht hp hnamed hr hr' hb hb' hroom, putPolicer_streams _ _⟩
  case sample => exact fun q ht hq hqueue => ⟨exec_schedSample_off ht hq hqueue, exec_schedSample_on ht hq hqueue⟩
  case hist => exact fun q x ht hq hx => ⟨exec_schedHistRead_kept ht hq hx, exec_schedHistRead_cleared ht hq hx⟩
  case stats =>
    exact fun ht => portCommand_of_takes ht hp fun c s => answer c stDone (readWords (0x40000020 + p * 0x1000) 3 s) s

end Sys2Proof.Machine
end


section
/-! PROOF. Scheduler events (R316, R318, R320, R324). -/
namespace Sys2Proof.Machine

/-! ### What the end of a window leaves unchanged (R320) -/

theorem reg_windowFault {f : Fld} (hf : f ∉ [Fld.shLostCnt, .sdSchedFault, .sdDlMissCnt]) (i p idx cls left : Nat) (s : State) :
    reg f i (windowFault p idx cls left s) = reg f i s := by
  simp only [List.mem_cons, List.not_mem_nil, or_false, not_or] at hf
  obtain ⟨hlost, hfault, hmiss⟩ := hf
  rw [windowFault, reg_logEvent_fld hlost, reg_setReg_fld _ _ (by simp [hfault]), reg_incReg_fld _ (by simp [hmiss])]

@[simp] theorem windowFault_time (p idx cls left : Nat) (s : State) : (windowFault p idx cls left s).time = s.time := by
  simp [windowFault]

/-- What neither judging a class nor closing a window changes stays when the open window closes. -/
theorem closeWindow_stays {α : Type} (g : State → α) (hfault : ∀ p i c n s, g (windowFault p i c n s) = g s)
    (hbind : ∀ p k s, g (bindPackets p k s) = g s) (hsched : ∀ p f s, g (modSched p f s) = g s) (p : Nat) (s : State) :
    g (closeWindow p s) = g s := by
  have judged : ∀ (i : Nat) (l : List Nat) (s : State),
      g (l.foldl (fun s c => let n := boundLeft p c s; if n = 0 then s else windowFault p i c n s) s) = g s := by
    intro i l
    induction l with
    | nil => exact fun _ => rfl
    | cons c r ih =>
      intro s
      rw [List.foldl_cons, ih]
      dsimp only
      split
      · rfl
      · exact hfault ..
  unfold closeWindow
  split
  · rfl
  · dsimp only
    rw [hsched, hbind]
    split
    · exact judged ..
    · rfl

@[simp] theorem closeWindow_time (p : Nat) (s : State) : (closeWindow p s).time = s.time :=
  closeWindow_stays (·.time) windowFault_time (fun _ _ _ => rfl) (fun _ _ _ => rfl) p s

theorem reg_closeWindow {f : Fld} (hf : f ∉ [Fld.shLostCnt, .sdSchedFault, .sdDlMissCnt]) (i p : Nat) (s : State) :
    reg f i (closeWindow p s) = reg f i s :=
  closeWindow_stays (reg f i) (reg_windowFault hf i) (fun _ _ _ => rfl) (fun _ _ _ => rfl) p s

/-! ### The start of a cycle (R318) -/

theorem advance_now (ns : Nat) (s : State) : (advance ns s).time.now = s.time.now + ns := rfl

theorem curStart_setCurStart (p t : Nat) (s : State) : curStart p (setCurStart p t s) = t % 2 ^ 48 := by
  have hhi : reg .sdCurStartHi p (setCurStart p t s) = t % 2 ^ 48 / 2 ^ 32 % 2 ^ 16 := reg_setReg_self _ _ _ _
  have hlo : reg .sdCurStartLo p (setCurStart p t s) = t % 2 ^ 32 % 2 ^ 32 :=
    (reg_setReg_fld _ _ (by simp)).trans (reg_setReg_self _ _ _ _)
  rw [curStart, hhi, hlo]
  omega

/-- The start of the cycle is read from the registers alone. -/
theorem curStart_congr {s t : State} (h : t.csr = s.csr) (p : Nat) : curStart p t = curStart p s := by
  rw [curStart, curStart, reg_congr h, reg_congr h]

/-! ### The next edge (R318) -/

section
variable {f : Option Nat → Nat → Option Nat} (hsome : ∀ x y, f (some y) x = some (min x y))
include hsome

theorem foldl_min_some (l : List Nat) (a : Nat) : l.foldl f (some a) = some (l.foldl min a) := by
  induction l generalizing a with
  | nil => rfl
  | cons b r ih => rw [List.foldl_cons, hsome, ih, List.foldl_cons, Nat.min_comm]

/-- A running minimum ends at the least number of the list. -/
theorem foldl_min_eq (hnone : ∀ x, f none x = some x) {l : List Nat} {x : Nat} (hx : x ∈ l) (hmin : ∀ y ∈ l, x ≤ y) : l.foldl f none = some x := by
  cases l with
  | nil => cases hx
  | cons a r =>
    have least : r.foldl min a = x := by
      refine Option.some_injective _ ?_
      rw [← List.min?_cons', List.min?_eq_some_iff]
      exact ⟨hx, hmin⟩
    rw [List.foldl_cons, hnone, foldl_min_some hsome, least]

end

section
variable {s : State} {p : Nat}

/-! ### Policers (R324) -/

theorem exec_policerRefill_edge (hp : p < 52) (hedge : isEdge p = true)
    (hset : (schedOf p s).streams ≠ [] ∨ (schedOf p s).classes ≠ []) : exec (.policerRefill p) s
      = .next (modSched p (fun k => { k with
          streams := k.streams.map fun e => (e.1, refill e.2),
          classes := k.classes.map fun e => (e.1, refill e.2), refillAt := k.refillAt + 1024 })
          (advanceTo ((schedOf p s).refillAt + 1024) s)) := by
  change execPolicerRefill p s = _
  rw [execPolicerRefill, decide_eq_true hp, hedge]
  simp only
  rw [if_neg (by tauto)]
  rfl

/-! ### Windows (R316, R318, R320) -/

theorem exec_windowEdge_ahead (hp : p < 52) (hon : flag .sdWinOn p s = true) (hhalt : (schedOf p s).halted = false) {x : Nat}
    (hx : x ∈ edgesAfter (activeTable p s) (reg .sdCycleNs p s) (phaseAt p (timeBase s) s)) (hcyc : x < reg .sdCycleNs p s)
    (hmin : ∀ y ∈ edgesAfter (activeTable p s) (reg .sdCycleNs p s) (phaseAt p (timeBase s) s), x ≤ y) :
    exec (.windowEdge p) s = .next (settleWindow p (advance (x - phaseAt p (timeBase s) s) s)) := by
  have among : x ∈ (edgesAfter (activeTable p s) (reg .sdCycleNs p s) (phaseAt p (timeBase s) s)).filter
      fun x => decide (x < reg .sdCycleNs p s) := List.mem_filter.mpr ⟨hx, decide_eq_true hcyc⟩
  change execWindowEdge p s = _
  rw [execWindowEdge, decide_eq_true hp, hon, hhalt]
  dsimp only
  rw [foldl_min_eq (fun _ _ => rfl) (fun _ => rfl) among fun y hy => hmin y (List.mem_filter.mp hy).1]
  rfl

end

/-- The next cycle has started, and a schedule halted by a time step runs again, before the window of its start opens. -/
def cycleStarted (p : Nat) (s : State) : State :=
  let cyc := reg .sdCycleNs p s
  let d := subMod (timeBase s) (curStart p s) (2 ^ 48)
  let s := advance (cyc - d) s
  let s := setCurStart p (curStart p s + cyc) (closeWindow p s)
  modSched p (fun k => { k with halted := false }) s

/-- The boundary of a pending flip has come: the open window closes. -/
def flipDue (p : Nat) (j : FlipJob) (s : State) : State :=
  modSched p (fun k => { k with flip := none, halted := false }) (closeWindow p (advance (flipWait p j.at' s) s))

/-- The shadow table is the active one, with the cycle the flip names, before its first window opens. -/
def tableFlipped (p : Nat) (j : FlipJob) (s : State) : State :=
  let s := setReg .sdActiveTable p (1 - reg .sdActiveTable p s) (setReg .sdEntries p j.count s)
  let s := setReg .sdIdleMask p j.idle (setReg .sdGuardNs p j.guard (setReg .sdCycleNs p j.cycle s))
  setCurStart p (timeBase s) (setReg .sdWinOn p 1 s)

/-- The schedule is removed. -/
def tableRemoved (p : Nat) (s : State) : State :=
  setReg .sdWinOn p 0 (setReg .sdEntries p 0 (setReg .sdCycleNs p 0 (setReg .sdIdleMask p 31 s)))

section
variable {s : State} {p : Nat}

theorem exec_cycleStart_running (hp : p < 52) (hon : flag .sdWinOn p s = true) :
    exec (.cycleStart p) s = .next (openWindow p (cycleStarted p s)) := by
  change execCycleStart p s = _
  simp only [execCycleStart, onUnit, decide_eq_true hp, hon, cycleStarted, Bool.not_true, Bool.false_eq_true, if_false, if_true]

theorem cycleStarted_curStart : curStart p (cycleStarted p s) = (curStart p s + reg .sdCycleNs p s) % 2 ^ 48 := by
  rw [cycleStarted, curStart_congr (modSched_csr ..), curStart_setCurStart, curStart_congr (advance_csr ..)]

theorem cycleStarted_halted : (schedOf p (cycleStarted p s)).halted = false := by
  simp only [cycleStarted, schedOf_modSched_self]

theorem cycleStarted_time : (cycleStarted p s).time
    = (advance (reg .sdCycleNs p s - subMod (timeBase s) (curStart p s) (2 ^ 48)) s).time := by
  rw [cycleStarted, modSched_time, setCurStart, setReg_time, setReg_time, closeWindow_time]

theorem cycleStarted_now :
    (cycleStarted p s).time.now = s.time.now + (reg .sdCycleNs p s - subMod (timeBase s) (curStart p s) (2 ^ 48)) := by
  rw [cycleStarted_time, advance_now]

theorem exec_scheduleFlip_table {j : FlipJob} (hp : p < 52) (hj : (schedOf p s).flip = some j) (hoff : j.off = false) :
    exec (.scheduleFlip p) s = .next (finish j.cmd stDone [] (openWindow p (tableFlipped p j (flipDue p j s)))) := by
  change execScheduleFlip p s = _
  simp only [execScheduleFlip, onUnit, decide_eq_true hp, hj, hoff, flipDue, tableFlipped, Bool.false_eq_true, if_false, if_true]

theorem exec_scheduleFlip_off {j : FlipJob} (hp : p < 52) (hj : (schedOf p s).flip = some j) (hoff : j.off = true) :
    exec (.scheduleFlip p) s = .next (finish j.cmd stDone [] (tableRemoved p (flipDue p j s))) := by
  change execScheduleFlip p s = _
  simp only [execScheduleFlip, onUnit, decide_eq_true hp, hj, hoff, flipDue, tableRemoved, if_true]

theorem reg_flipDue {f : Fld} (hf : f ∉ [Fld.shLostCnt, .sdSchedFault, .sdDlMissCnt]) (i : Nat) (j : FlipJob) :
    reg f i (flipDue p j s) = reg f i s := by
  rw [flipDue, reg_modSched, reg_closeWindow hf, reg_advance]

theorem flipDue_flip (j : FlipJob) : (schedOf p (flipDue p j s)).flip = none := by
  rw [flipDue, schedOf_modSched_self]

theorem flipDue_time (j : FlipJob) : (flipDue p j s).time = (advance (flipWait p j.at' s) s).time := by
  rw [flipDue, modSched_time, closeWindow_time]

theorem tableFlipped_activeTable (j : FlipJob) (t : State) :
    reg .sdActiveTable p (tableFlipped p j t) = (1 - reg .sdActiveTable p t) % 2 := by
  simp only [tableFlipped, setCurStart, reg_setReg_fld, reg_setReg_self, reduceCtorEq]
  rfl

theorem tableFlipped_winOn (j : FlipJob) (t : State) : flag .sdWinOn p (tableFlipped p j t) = true := by
  have on : reg .sdWinOn p (tableFlipped p j t) = 1 := by
    simp only [tableFlipped, setCurStart, reg_setReg_fld, reg_setReg_self, reduceCtorEq]
    rfl
  rw [flag, on]
  rfl

theorem tableFlipped_flip (j : FlipJob) (t : State) : (schedOf p (tableFlipped p j t)).flip = (schedOf p t).flip := by
  have hsched : (tableFlipped p j t).sched = t.sched := by simp only [tableFlipped, setCurStart, setReg_sched]
  rw [schedOf, schedOf, hsched]

theorem tableFlipped_time (j : FlipJob) (t : State) : (tableFlipped p j t).time = t.time := by
  simp only [tableFlipped, setCurStart, setReg_time]

theorem tableFlipped_curStart {j : FlipJob} {t : State} (h : t.time.base < 2 ^ 48) :
    curStart p (tableFlipped p j t) = timeBase (tableFlipped p j t) := by
  rw [timeBase, tableFlipped_time, tableFlipped, curStart_setCurStart]
  simp only [timeBase, setReg_time, Nat.mod_eq_of_lt h]

end

/-- Settles O18. -/
theorem schedEventsComplete : Obligations.SchedEventsComplete := by
  intro s p hp
  refine ⟨exec_policerRefill_edge hp, fun hon hhalt _ => exec_windowEdge_ahead hp hon hhalt,
    fun hon => ⟨_, exec_cycleStart_running hp hon, cycleStarted_curStart, cycleStarted_halted, cycleStarted_now⟩, ?table, ?off⟩
  case table =>
    intro j hj hoff
    refine ⟨_, exec_scheduleFlip_table hp hj hoff, ?_, tableFlipped_winOn j _, (tableFlipped_flip j _).trans (flipDue_flip j),
      tableFlipped_curStart ?_, ?_⟩
    · rw [tableFlipped_activeTable, reg_flipDue (by simp)]
    · rw [flipDue_time]
      exact Nat.mod_lt _ (by decide)
    · rw [tableFlipped_time, flipDue_time, advance_now]
  case off =>
    intro j hj hoff
    refine ⟨_, exec_scheduleFlip_off hp hj hoff, ?_, ?_, ?_, flipDue_flip j⟩
    · rw [flag, tableRemoved, reg_setReg_self]
      rfl
    · rw [tableRemoved, reg_setReg_fld _ _ (by simp), reg_setReg_self]
      rfl
    · simp only [tableRemoved, reg_setReg_fld, reg_setReg_self, reduceCtorEq]
      rfl

end Sys2Proof.Machine
end


section
/-! PROOF. Record and save events (R336, R342, R345). -/
namespace Sys2Proof.Machine

/-! ### SAVE_HEAT (R345) -/

section
variable {s : State} {heat : Nat}

theorem exec_saveHeatWaitDone_quiet {j : SaveJob} (hj : s.det.saves.find? (fun x => x.heat = heat) = some j)
    (hw : j.writing = false) (hquiet : heatQuiet heat s = true) (hsaved : ∀ g ∈ s.layer.segs, g.2.heat = heat → g.2.saved = []) :
    exec (.saveHeatWaitDone heat) s
      = .next (sendImage j (saveImage heat s) { s with det := { s.det with saves := s.det.saves.map fun x =>
          if x.heat = heat then { j with writing := true, image := saveImage heat s } else x } }) := by
  have none : (s.layer.segs.any fun g => g.2.heat = heat && g.2.saved ≠ []) = false := by
    rw [List.any_eq_false]
    intro g hg
    simpa using hsaved g hg
  change execSaveHeatWaitDone heat s = _
  simp only [execSaveHeatWaitDone, hj, hw, hquiet, none]
  simp

theorem exec_saveHeatWaitTimeout_waiting {j : SaveJob} (hj : s.det.saves.find? (fun x => x.heat = heat) = some j)
    (hw : j.writing = false) : exec (.saveHeatWaitTimeout heat) s
      = .next (endSave j stBadState [] false (advanceTo (j.since + j.limit) s)) := by
  change execSaveHeatWaitTimeout heat s = _
  simp only [execSaveHeatWaitTimeout, hj, hw, Bool.false_eq_true, if_false]

end

/-! ### The close of a slice's record (R342) -/

/-- A close whose collected parts gained one. -/
def closeGot (peer : Nat) (body : List Byte) (j : CloseJob) : CloseJob :=
  { j with awaiting := j.awaiting.filter (· ≠ peer), got := j.got ++ [(peer, body)] }

/-- The close of a Heat stands as `j` in the list. -/
def putClose (heat : Nat) (j : CloseJob) (s : State) : State :=
  { s with det := { s.det with closes := s.det.closes.map fun x => if x.heat = heat then j else x } }

/-- No close of the Heat waits any more. -/
def dropClose (heat : Nat) (s : State) : State :=
  { s with det := { s.det with closes := s.det.closes.filter fun x => x.heat ≠ heat } }

section
variable {s : State} {heat : Nat} {j : CloseJob}

theorem exec_recordCloseReply_more {peer : Nat} {body : List Byte} (hj : s.det.closes.find? (fun x => x.heat = heat) = some j)
    (hpeer : j.awaiting.contains peer = true) (hmore : j.awaiting.filter (· ≠ peer) ≠ []) :
    exec (.recordCloseReply peer heat body) s = .next (putClose heat (closeGot peer body j) s) := by
  change execRecordCloseReply peer heat body s = _
  simp only [execRecordCloseReply, hj, hpeer, Bool.not_true, Bool.false_eq_true, if_false, if_neg hmore]
  rfl

theorem exec_recordCloseReply_last {peer : Nat} {body : List Byte} (hj : s.det.closes.find? (fun x => x.heat = heat) = some j)
    (hlast : j.awaiting = [peer]) : exec (.recordCloseReply peer heat body) s
      = .next (finishClose { j with awaiting := [], got := j.got ++ [(peer, body)] } s) := by
  change execRecordCloseReply peer heat body s = _
  simp [execRecordCloseReply, hj, hlast]

theorem heat_of_find (hj : s.det.closes.find? (fun x => x.heat = heat) = some j) : j.heat = heat := by
  simpa using List.find?_some hj

/-- The first close of the Heat is the one put in its place. -/
theorem find_putClose (hj : s.det.closes.find? (fun x => x.heat = heat) = some j) {k : CloseJob} (hk : k.heat = heat) :
    (putClose heat k s).det.closes.find? (fun x => x.heat = heat) = some k := by
  change (s.det.closes.map fun x => if x.heat = heat then k else x).find? (fun x => decide (x.heat = heat)) = some k
  have same : ((fun x : CloseJob => decide (x.heat = heat)) ∘ fun x => if x.heat = heat then k else x) = fun x => decide (x.heat = heat) := by
    funext x
    by_cases h : x.heat = heat <;> simp [h, hk]
  rw [List.find?_map, same, hj]
  simp [heat_of_find hj]

theorem exec_recordCloseTimeout_waiting (hj : s.det.closes.find? (fun x => x.heat = heat) = some j) :
    exec (.recordCloseTimeout heat) s = .next (finish j.cmd stMemberFenced (leBytes 4 (epOf (j.awaiting.headD 0) 56))
      (dropClose heat (advanceTo (j.since + 1000000) s))) := by
  change execRecordCloseTimeout heat s = _
  simp only [execRecordCloseTimeout, hj, dropClose]

theorem dropClose_closes : ∀ x ∈ (dropClose heat s).det.closes, x.heat ≠ heat := by
  intro x hx
  simpa using (List.mem_filter.mp hx).2

theorem dropClose_now : (dropClose heat s).time.now = s.time.now := rfl

theorem dropClose_mem : (dropClose heat s).mem = s.mem := rfl

/-! ### DET_DIGEST_RANGE (R336) -/

theorem exec_digestRangeDone_ok {j : DigestJob} (hj : s.det.digests.find? (fun x => x.heat = heat) = some j)
    (hspan : spanCheck heat j.gfa j.len s = none) : exec (.digestRangeDone heat) s
      = .next (addRange j { s with det := { s.det with digests := s.det.digests.erase j } }) := by
  have same : spanCheck heat j.gfa j.len { s with det := { s.det with digests := s.det.digests.erase j } } = none := hspan
  change execDigestRangeDone heat s = _
  simp only [execDigestRangeDone, hj, same]

end

/-- Settles O34. -/
theorem recordEventsComplete : Obligations.RecordEventsComplete := by
  intro s heat
  refine ⟨fun _ => exec_saveHeatWaitDone_quiet, fun _ => exec_saveHeatWaitTimeout_waiting, ?more,
    fun _ _ _ => exec_recordCloseReply_last, ?timeout, fun _ => exec_digestRangeDone_ok⟩
  case more =>
    exact fun j peer body hj hpeer hmore =>
      ⟨_, exec_recordCloseReply_more hj hpeer hmore, find_putClose hj (heat_of_find (j := j) hj), rfl⟩
  case timeout =>
    exact fun j hj => ⟨_, exec_recordCloseTimeout_waiting hj, dropClose_closes, dropClose_now.trans (advanceTo_now _ _),
      dropClose_mem.trans (advanceTo_mem _ _)⟩

end Sys2Proof.Machine
end


section
/-! PROOF. Brownout, thermal, coolant and REFCLK events (R377, R396 to R398, R421, R469). -/
namespace Sys2Proof.Machine

/-! ### Dispatch pauses (R396, R398) -/

/-- A flag set to 1 is asserted. -/
theorem flag_of_reg {f : Fld} {i : Nat} {s : State} (h : reg f i s = 1) : flag f i s = true := decide_eq_true h

theorem flag_setReg_one {f : Fld} (h : 1 < 2 ^ fldWidth f) (i : Nat) (s : State) : flag f i (setReg f i 1 s) = true :=
  flag_of_reg (by rw [reg_setReg_self, Nat.mod_eq_of_lt h])

theorem flag_setReg_zero (f : Fld) (i : Nat) (s : State) : flag f i (setReg f i 0 s) = false := by
  simp [flag]

theorem flag_settleHalving {f : Fld} (h : f ≠ .ckHalved) (s : State) : flag f 0 (settleHalving s) = flag f 0 s := by
  rw [settleHalving, flag_driveAlert, flag_setReg_fld _ _ (by simp [h])]

theorem settleHalving_halved {s : State} (h : paused s = true) : flag .ckHalved 0 (settleHalving s) = true := by
  rw [settleHalving, flag_driveAlert, h]
  exact flag_setReg_one (by decide) 0 s

theorem settleHalving_alertN {s : State} (h : flag .pwWarning 0 s = true) : (settleHalving s).pins.alertN = false := by
  simp [settleHalving, driveAlert, h]

/-! ### Brownout (R396) -/

/-- What a warning does besides HALVED and ALERT_N. -/
def warned (mv : Nat) (s : State) : State :=
  let s := setReg .pwInputMv 0 mv { s with power := { s.power with warnAt := some s.time.now, minMv := mv } }
  let s := incReg .pwBrownoutCnt 0 (setReg .pwWarning 0 1 s)
  markFlag detBrownout (logEvent 0x0904 sevW 0x91 0xFF (packFields [(2, mv)]) s)

theorem beginWarning_eq (mv : Nat) (s : State) : beginWarning mv s = settleHalving (warned mv s) := rfl

theorem warned_warning (mv : Nat) (s : State) : flag .pwWarning 0 (warned mv s) = true := by
  rw [warned, markFlag, flag_markCtxs, flag_logEvent_fld _ _ _ _ _ _ (by simp), flag_incReg_fld _ (by simp)]
  exact flag_setReg_one (by decide) 0 _

theorem warned_paused (mv : Nat) (s : State) : paused (warned mv s) = true := by
  rw [paused, warned_warning, Bool.true_or]

theorem warned_power (mv : Nat) (s : State) :
    (warned mv s).power = { s.power with warnAt := some s.time.now, minMv := mv } := by
  simp only [warned, markFlag, markCtxs_power, logEvent_power, incReg_power, setReg_power]

theorem warned_mem (mv : Nat) (s : State) : (warned mv s).mem = s.mem := by
  simp only [warned, markFlag, markCtxs_mem, logEvent_mem, incReg_mem, setReg_mem]

theorem settleHalving_power (s : State) : (settleHalving s).power = s.power := rfl

theorem settleHalving_mem (s : State) : (settleHalving s).mem = s.mem := rfl

/-- A warning released: the input's new level is a free value, and the warning's length is logged. -/
def warningEnded (s : State) : State :=
  let t := s.power.warnAt.getD s.time.now
  let s := logEvent 0x0905 sevI 0x91 0xFF (packFields [(4, (s.time.now - t) / 1000), (2, s.power.minMv)]) s
  let s := useFree (setReg .pwInputMv 0 (43000 + freeNat s % 17001) s)
  setReg .pwWarning 0 0 { s with power := { s.power with warnAt := none } }

section
variable {s : State}

theorem exec_brownoutWarning_begins {mv : Nat} (hon : s.power.p48Good = true) (hlo : 38000 ≤ mv) (hhi : mv < 42000)
    (hwarn : flag .pwWarning 0 s = false) : exec (.brownoutWarning mv) s = .next (beginWarning mv s) := by
  change execBrownoutWarning mv s = _
  simp [execBrownoutWarning, mainOn, hon, Nat.not_le.mpr hhi, Nat.not_lt.mpr hlo, hwarn]

theorem exec_brownoutWarning_inForce {mv : Nat} (hon : s.power.p48Good = true) (hlo : 38000 ≤ mv) (hhi : mv < 42000)
    (hwarn : flag .pwWarning 0 s = true) : exec (.brownoutWarning mv) s
      = .next { setReg .pwInputMv 0 mv s with power := { s.power with minMv := min s.power.minMv mv } } := by
  change execBrownoutWarning mv s = _
  simp only [execBrownoutWarning, mainOn, hon, hwarn, decide_eq_false (Nat.not_le.mpr hhi), decide_eq_false (Nat.not_lt.mpr hlo)]
  rfl

theorem exec_brownoutRelease_inForce (hwarn : flag .pwWarning 0 s = true) :
    exec .brownoutRelease s = .next (resumeDispatch (warningEnded s)) := by
  change execBrownoutRelease s = _
  simp only [execBrownoutRelease, hwarn, Bool.not_true, Bool.false_eq_true, if_false, warningEnded]

theorem warningEnded_mem : (warningEnded s).mem = s.mem := by simp [warningEnded]

theorem warningEnded_pour : (warningEnded s).pour = s.pour := by simp [warningEnded]

/-! ### Temperatures and coolant (R397, R421, R469) -/

theorem exec_thermalThrottle_hot {sensor c : Nat} (hs : sensor < 18) (hc : throttleC sensor ≤ c) (hon : s.power.p48Good = true) :
    exec (.thermalThrottle sensor c) s = .next (throttle sensor c (noteSensor sensor c s)) := by
  change execThermalThrottle sensor c s = _
  simp [execThermalThrottle, Nat.not_le.mpr hs, mainOn, hon, Nat.not_lt.mpr hc]

theorem exec_thermalShutdown_hot {sensor c : Nat} (hs : sensor < 18) (hc : shutdownC sensor ≤ c) :
    exec (.thermalShutdown sensor c) s = .next (shutdown sensor c (noteSensor sensor c s)) := by
  change execThermalShutdown sensor c s = _
  simp [execThermalShutdown, Nat.not_le.mpr hs, Nat.not_lt.mpr hc]

theorem exec_coolFailAssert_powered (hpin : s.pins.coolFailN = true) (hon : s.power.p48Good = true) :
    exec .coolFailAssert s = .next (throttle 0xFF 0
      { s with pins := { s.pins with coolFailN := false }, power := { s.power with coolFail := some s.time.now } }) := by
  change execCoolFailAssert s = _
  simp [execCoolFailAssert, hpin, mainOn, hon]

theorem exec_coolFailShutdown_low {t0 : Nat} (h : s.power.coolFail = some t0) :
    exec .coolFailShutdown s = .next (shutdown 0xFF 0 (advanceTo (t0 + 10000000000) s)) := by
  change execCoolFailShutdown s = _
  simp only [execCoolFailShutdown, h]

theorem exec_coolFailRelease_low (hpin : s.pins.coolFailN = false) : exec .coolFailRelease s = .next (endThrottle
    { s with pins := { s.pins with coolFailN := true }, power := { s.power with coolFail := none } }) := by
  change execCoolFailRelease s = _
  simp [execCoolFailRelease, hpin]

theorem exec_refresh2xChange_stack {st : Nat} (hst : st < 12) (c : Nat) : exec (.refresh2xChange st c) s
    = .next (setReg .hbRefresh2x st (b2n (decide (c ≥ 85))) (noteSensor (6 + st) c s)) := by
  change execRefresh2xChange st c s = _
  rw [execRefresh2xChange, decide_eq_true hst]
  rfl

end

/-! ### REFCLK (R377) -/

/-- The reference is lost, and the PLLs hold. -/
def refLost (s : State) : State :=
  let s := { s with pins := { s.pins with refclk := false }, power := { s.power with refLossAt := some s.time.now } }
  driveAlert (incReg .pwRefclkLossCnt 0 (setReg .ckRefclkOk 0 0 s))

/-- The reference is present again after a loss that reset nothing. -/
def refReturned (t0 : Nat) (s : State) : State :=
  let s := logLoss t0 s
  let s := { s with pins := { s.pins with refclk := true }, power := { s.power with refLossAt := none, refHeld := false } }
  driveAlert (setReg .ckRefclkOk 0 1 s)

section
variable {s : State}

theorem exec_refclkLoss_present (hpin : s.pins.refclk = true) (hst : s.power.state ≠ .standbyOnly) :
    exec .refclkLoss s = .next (refLost s) := by
  change execRefclkLoss s = _
  simp [execRefclkLoss, hpin, hst, refLost]

theorem refLost_ok : reg .ckRefclkOk 0 (refLost s) = 0 := by
  rw [refLost, reg_driveAlert, reg_incReg_fld _ (by simp), reg_setReg_self, Nat.zero_mod]

theorem refLost_alertN : (refLost s).pins.alertN = false := by simp [refLost, driveAlert]

theorem refLost_refclk : (refLost s).pins.refclk = false := rfl

theorem exec_refclkLossTimeout_absent {t0 : Nat} (hloss : s.power.refLossAt = some t0) (hheld : s.power.refHeld = false) :
    exec .refclkLossTimeout s = .next (beginWarm 1 none true (logLoss t0 (advanceTo (t0 + 100000000) s))) := by
  change execRefclkLossTimeout s = _
  simp only [execRefclkLossTimeout, hloss, hheld, Bool.false_eq_true, if_false]

theorem exec_refclkReturn_short {t0 : Nat} (hloss : s.power.refLossAt = some t0) (hheld : s.power.refHeld = false) :
    exec .refclkReturn s = .next (refReturned t0 s) := by
  change execRefclkReturn s = _
  simp only [execRefclkReturn, hloss, hheld, Bool.false_eq_true, if_false, false_and, refReturned]

theorem refReturned_ok (t0 : Nat) : reg .ckRefclkOk 0 (refReturned t0 s) = 1 := by
  rw [refReturned, reg_driveAlert, reg_setReg_self]
  rfl

theorem refReturned_time (t0 : Nat) : (refReturned t0 s).time = s.time := by
  simp [refReturned, logLoss]

end

/-- Settles O5. -/
theorem supervisionEventsComplete : Obligations.SupervisionEventsComplete := by
  intro s
  refine ⟨?warning, fun _ => exec_brownoutWarning_inForce, ?release, fun _ _ => exec_thermalThrottle_hot, rfl,
    fun _ _ => exec_thermalShutdown_hot, exec_coolFailAssert_powered, fun _ => exec_coolFailShutdown_low, exec_coolFailRelease_low,
    fun _ c hst => exec_refresh2xChange_stack hst c, ?loss, fun _ => exec_refclkLossTimeout_absent, ?returned⟩
  case warning =>
    intro mv hon hlo hhi hwarn
    refine ⟨_, exec_brownoutWarning_begins hon hlo hhi hwarn, ?_⟩
    rw [beginWarning_eq, settleHalving_power, settleHalving_mem, flag_settleHalving (by simp), warned_power, warned_mem]
    exact ⟨warned_warning mv s, settleHalving_halved (warned_paused mv s), settleHalving_alertN (warned_warning mv s), rfl, rfl, rfl⟩
  case release =>
    exact fun hwarn => ⟨_, exec_brownoutRelease_inForce hwarn, flag_setReg_zero _ _ _, rfl, warningEnded_mem, warningEnded_pour⟩
  case loss =>
    exact fun hpin hst => ⟨_, exec_refclkLoss_present hpin hst, refLost_refclk, refLost_alertN, refLost_ok, rfl, rfl⟩
  case returned =>
    exact fun t0 hloss hheld => ⟨_, exec_refclkReturn_short hloss hheld, rfl, refReturned_ok t0, rfl, refReturned_time t0⟩

end Sys2Proof.Machine
end


section
/-! PROOF. Bay states, switch halves and domain resets (R379, R392 to R395, R402). -/
namespace Sys2Proof.Machine

/-! ### Bits of a mask -/

theorem testBit_withBit_self (v i : Nat) : (withBit v i).testBit i = true := by
  simp [withBit, Nat.testBit_or, Nat.testBit_two_pow_self]

theorem testBit_withoutBit_self (v i : Nat) : (withoutBit v i).testBit i = false := by
  unfold withoutBit
  split
  · next h =>
    rw [Nat.testBit_eq_decide_div_mod_eq, decide_eq_true_eq] at h
    have hquot : (v - 2 ^ i) / 2 ^ i = v / 2 ^ i - 1 := by simpa using Nat.sub_mul_div v (2 ^ i) 1
    rw [Nat.testBit_eq_decide_div_mod_eq, hquot]
    simp only [decide_eq_false_iff_not]
    omega
  · next h => simpa using h

/-! ### Banked and Fired Bays (R379, R392, R393) -/

theorem reg_setBayState_self (b st : Nat) (s : State) : reg .pwBayState b (setBayState b st s) = st % 4 :=
  reg_setReg_self _ _ _ _

/-- A Bay's state changes registers and gate epochs only. -/
theorem setBayState_stays {α : Type} (g : State → α) (hcsr : ∀ s t, g { s with csr := t } = g s)
    (hfore : ∀ s x, g { s with fore := x } = g s) (b st : Nat) (s : State) : g (setBayState b st s) = g s := by
  unfold setBayState
  split
  · exact (hcsr _ _).trans (hfore _ _)
  · exact hcsr _ _

/-- The CPLL of a die runs, and the Bays that waited for it have only their own time left. -/
def cpllLocked (die : Nat) (s : State) : State :=
  setReg .ckCpllRun 0 (withBit (reg .ckCpllRun 0 s) die)
    { s with power := { s.power with cpllWait := s.power.cpllWait.filter (· ≠ die),
                                     bayWake := s.power.bayWake.map fun e =>
                                       if dieOfBay e.1 = die then (e.1, min e.2 (s.time.now + 20000)) else e } }

/-- The Bay is FIRED, with its CPLL running, its wake done at the present time. -/
def bayFired (bay : Nat) (s : State) : State :=
  let d := dieOfBay bay
  let s := { s with power := { s.power with bayWake := tabDel s.power.bayWake bay,
                                            bayIdle := tabPut s.power.bayIdle bay s.time.now,
                                            cpllWait := s.power.cpllWait.filter (· ≠ d) } }
  let s := setReg .ckCpllRun 0 (withBit (reg .ckCpllRun 0 s) d) s
  incReg .pwWakeCnt 0 (setBayState bay 0 s)

section
variable {s : State}

theorem exec_cpllLock_awaited {die : Nat} (hd : die < 4) (hw : s.power.cpllWait.contains die = true) :
    exec (.cpllLock die) s = .next (cpllLocked die s) := by
  change execCpllLock die s = _
  rw [execCpllLock, decide_eq_true hd, if_pos hw]
  rfl

theorem cpllLocked_run {die : Nat} (hd : die < 4) : (reg .ckCpllRun 0 (cpllLocked die s)).testBit die = true := by
  have hreg : reg .ckCpllRun 0 (cpllLocked die s) = withBit (reg .ckCpllRun 0 s) die % 2 ^ 4 := reg_setReg_self _ _ _ _
  rw [hreg, Nat.testBit_mod_two_pow, testBit_withBit_self, decide_eq_true hd]
  rfl

theorem cpllLocked_wait (die : Nat) : (cpllLocked die s).power.cpllWait.contains die = false := by
  simp [cpllLocked]

theorem exec_bayWakeDone_waking {bay t0 : Nat} (hb : bay < 100) (hw : tabFind s.power.bayWake bay = some t0) :
    exec (.bayWakeDone bay) s = .next (bayFired bay (advanceTo t0 s)) := by
  change execBayWakeDone bay s = _
  rw [execBayWakeDone, decide_eq_true hb]
  simp only [hw]
  rfl

theorem bayFired_state (bay : Nat) : reg .pwBayState bay (bayFired bay s) = 0 := by
  rw [bayFired, reg_incReg_fld _ (by simp), reg_setBayState_self, Nat.zero_mod]

/-- What a Bay's wake leaves: all but the registers, the gate epochs and the state of the Bays. -/
theorem bayFired_stays {α : Type} (g : State → α) (hcsr : ∀ s t, g { s with csr := t } = g s)
    (hfore : ∀ s x, g { s with fore := x } = g s) (hpower : ∀ s x, g { s with power := x } = g s) (bay : Nat) (s : State) :
    g (bayFired bay s) = g s :=
  (hcsr _ _).trans ((setBayState_stays g hcsr hfore _ _ _).trans ((hcsr _ _).trans (hpower _ _)))

theorem exec_bayIdleTimer_deeper {bay st ns t0 : Nat} (hb : bay < 100) (hidle : bayIdleNow bay s = true)
    (hwake : tabFind s.power.bayWake bay = none) (hkept : (keptFired s).contains bay = false)
    (hnext : nextBank bay s = some (st, ns)) (hsince : tabFind s.power.bayIdle bay = some t0) (hshops : shopsWait s = false) :
    exec (.bayIdleTimer bay) s = .next (bankBay bay st (advanceTo (t0 + ns) s)) := by
  change execBayIdleTimer bay s = _
  rw [execBayIdleTimer, decided_of_shopsWait hshops, decide_eq_true hb]
  simp only [hidle, hwake, hkept, hnext, hsince]
  rfl

end

/-! ### Switch halves (R394) -/

/-- A half is powered down: its record starts fresh, but for the banks mapped out and what was counted of them. -/
def halfDown (d : Nat) (s : State) : State :=
  let s := modHalf d (fun h => { freshHalf h.mapped with norLog := h.norLog, bankErrs := h.bankErrs, bankBad := h.bankBad }) s
  let s := bumpEpoch (epochHalf d) (resetFld .spSampleShift { s with samples := [] })
  { s with power := { s.power with halfBanked := withBit s.power.halfBanked d } }

/-- A half is powered, its Tundish still to be rebuilt. -/
def halfUp (d : Nat) (s : State) : State :=
  bumpEpoch (epochHalf d) { s with power := { s.power with halfBanked := withoutBit s.power.halfBanked d },
                                   sw := { s.sw with wakeAt := tabDel s.sw.wakeAt d } }

section
variable {s : State} {d : Nat}

theorem exec_switchHalfBank_idle (hd : d < 2) (hon : halfBanked d s = false) (hlinks : ∀ l ∈ linksOfDie d, reg .lkState l s = 0)
    (hused : (half d s).used = 0) : exec (.switchHalfBank d) s = .next (halfDown d s) := by
  have alloff : ((linksOfDie d).any fun l => reg .lkState l s ≠ 0) = false := by
    rw [List.any_eq_false]
    exact fun l hl => by simpa using hlinks l hl
  change execSwitchHalfBank d s = _
  rw [execSwitchHalfBank, decide_eq_true hd, hon, alloff, hused]
  rfl

theorem halfDown_banked : halfBanked d (halfDown d s) = true := testBit_withBit_self _ _

theorem halfDown_mem : (halfDown d s).mem = s.mem := modHalf_mem ..

theorem exec_switchHalfWake_due {t0 : Nat} (hd : d < 2) (hoff : halfBanked d s = true) (hat : tabFind s.sw.wakeAt d = some t0) :
    exec (.switchHalfWake d) s = .next (rebuildDone d (halfUp d s)) := by
  change execSwitchHalfWake d s = _
  rw [execSwitchHalfWake, decide_eq_true hd, hoff, hat]
  rfl

theorem halfUp_banked : halfBanked d (halfUp d s) = false := testBit_withoutBit_self _ _

theorem halfUp_wakeAt : tabFind (halfUp d s).sw.wakeAt d = none :=
  tabFind_tabDel_self ..

end

/-! ### Domain resets (R402) -/

section
variable {s : State} {j : DomainJob}

theorem exec_domainResetDone_bay (hj : s.power.domains.find? (fun x => x.kind = 0 && x.index = j.index) = some j)
    (hclear : bayClear j.index s = true) :
    exec (.domainResetDone 0 j.index) s = .next (finish j.cmd stDone [] (resetDomain 0 j.index
      { s with power := { s.power with domains := s.power.domains.filter fun x => x ≠ j } })) := by
  change execDomainResetDone 0 j.index s = _
  simp [execDomainResetDone, hj, hclear]

theorem exec_domainResetDone_link (hj : s.power.domains.find? (fun x => x.kind = 1 && x.index = j.index) = some j) :
    exec (.domainResetDone 1 j.index) s = .next (finish j.cmd stDone []
      { s with power := { s.power with domains := s.power.domains.filter fun x => x ≠ j } }) := by
  change execDomainResetDone 1 j.index s = _
  simp [execDomainResetDone, hj]

theorem exec_domainResetDone_stack (hj : s.power.domains.find? (fun x => x.kind = 2 && x.index = j.index) = some j) :
    exec (.domainResetDone 2 j.index) s = .next (finish j.cmd stDone [] (bumpEpoch (epochStack j.index)
      { s with power := { s.power with domains := s.power.domains.filter fun x => x ≠ j } })) := by
  change execDomainResetDone 2 j.index s = _
  simp [execDomainResetDone, hj]

theorem exec_domainResetWaitTimeout_waiting (hj : s.power.domains.find? (fun x => x.kind = 0 && x.index = j.index) = some j) :
    exec (.domainResetWaitTimeout j.index) s = .next (finish j.cmd stBadState []
      (advanceTo (j.since + 10000000) { s with power := { s.power with domains := s.power.domains.filter fun x => x ≠ j } })) := by
  change execDomainResetWaitTimeout j.index s = _
  simp only [execDomainResetWaitTimeout, hj]

end

/-- Settles O6. -/
theorem bayAndHalfEventsComplete : Obligations.BayAndHalfEventsComplete := by
  intro s
  refine ⟨?cpll, ?wake, fun _ _ _ _ => exec_bayIdleTimer_deeper, ?bank, ?halfWake, fun _ hj _ => exec_domainResetDone_bay hj,
    fun _ hj _ => exec_domainResetDone_link hj, fun _ hj _ => exec_domainResetDone_stack hj,
    fun _ hj _ => exec_domainResetWaitTimeout_waiting hj⟩
  case cpll => exact fun die hd hw => ⟨_, exec_cpllLock_awaited hd hw, cpllLocked_run hd, cpllLocked_wait die, rfl⟩
  case wake =>
    refine fun bay t0 hb hw => ⟨_, exec_bayWakeDone_waking hb hw, bayFired_state bay, ?_, ?_, ?_⟩
    · rw [bayFired_stays (·.time.now) (fun _ _ => rfl) (fun _ _ => rfl) (fun _ _ => rfl), advanceTo_now]
    · rw [bayFired_stays (·.mem) (fun _ _ => rfl) (fun _ _ => rfl) (fun _ _ => rfl), advanceTo_mem]
    · rw [bayFired_stays (·.layer) (fun _ _ => rfl) (fun _ _ => rfl) (fun _ _ => rfl), advanceTo_layer]
  case bank =>
    exact fun d hd hon hlinks hused => ⟨_, exec_switchHalfBank_idle hd hon hlinks hused, halfDown_banked, halfDown_mem⟩
  case halfWake =>
    exact fun d t0 hd hoff hat => ⟨_, exec_switchHalfWake_due hd hoff hat, halfUp_banked, halfUp_wakeAt⟩

end Sys2Proof.Machine
end


section
/-! PROOF. Clock commands (R380 to R382, R384 to R388, R404, R407, R409). -/
namespace Sys2Proof.Machine

/-- The divider of CLKOBS is set and its clock enabled, or disabled for code 0x00. -/
def obsDivided (k div : Nat) (s : State) : State :=
  let s := setReg .ckClkobsDiv 0 (div - 1) s
  setReg .ckClkEn 0 (if k = 0 then withoutBit (reg .ckClkEn 0 s) 0 else withBit (reg .ckClkEn 0 s) 0) s

/-- A swap of ACLK to a PLL waits for that PLL to lock. -/
def swapAsked (k : Nat) (c : CmdRef) (s : State) : State :=
  { s with power := { s.power with aclkSwap := some { source := k, since := s.time.now, cmd := some c } } }

/-- A trim source is selected. -/
def trimSelected (src l : Nat) (s : State) : State :=
  let s := setReg .ckFallback 0 0 (setReg .ckSofLink 0 (l - 48) (setReg .ckTrimSrc 0 src s))
  { s with time := { s.time with absentAt := none, presentAt := none } }

theorem reg_trimSelected (src l : Nat) (f : Fld) (i : Nat) (s : State) : reg f i (trimSelected src l s)
    = reg f i (setReg .ckFallback 0 0 (setReg .ckSofLink 0 (l - 48) (setReg .ckTrimSrc 0 src s))) := reg_congr rfl f i

section
variable {m : CmdMeta} {s : State}

theorem exec_clkAclkSwap_other {k : Nat} (ht : TakesLong m 0x0901 s) (hk : k = 1 ∨ k = 2) (hsrc : reg .ckAclkSrc 0 s ≠ k)
    (hswap : s.power.aclkSwap = none) : exec (.clkAclkSwap m k) s = .next (swapAsked k (refOf m 0x0901) (accepted (refOf m 0x0901) s)) := by
  change execClkAclkSwap m k s = _
  rw [execClkAclkSwap, command_of_takes ht.1, if_neg (by omega), hswap, if_neg (by simp [hsrc]), accept_of_takesLong ht]
  rfl

theorem exec_clkobsSet_good {k div : Nat} (ht : Takes m 0x0902 s) (hk : clockCode k = true) (hdiv : 1 ≤ div) (hdiv' : div ≤ 65536)
    (hfreq : reg .ckFreqKhz k s ≤ 250000 * div) (hcur : clockGood s.power.obsCur s = true) (hgood : clockGood k s = true) :
    exec (.clkobsSet m k div) s = .next (done (refOf m 0x0902) (selectObs k (obsDivided k div s))) := by
  change execClkobsSet m k div s = _
  rw [execClkobsSet, command_of_takes ht, hk, hcur, hgood, if_neg (by simp; omega), if_neg (Nat.not_lt.mpr hfreq)]
  rfl

theorem obsDivided_div {div : Nat} (hdiv : div ≤ 65536) (k : Nat) : reg .ckClkobsDiv 0 (obsDivided k div s) = div - 1 := by
  rw [obsDivided, reg_setReg_fld _ _ (by simp)]
  exact (reg_setReg_self _ _ _ _).trans (Nat.mod_eq_of_lt (show div - 1 < 2 ^ 16 by omega))

theorem obsDivided_enable (k div : Nat) : (reg .ckClkEn 0 (obsDivided k div s)).testBit 0 = decide (k ≠ 0) := by
  have width : ∀ v, (v % 2 ^ fldWidth .ckClkEn).testBit 0 = v.testBit 0 := fun v => Nat.testBit_mod_two_pow v 3 0
  rw [obsDivided, reg_setReg_self, width]
  split
  · next hk => rw [testBit_withoutBit_self, decide_eq_false (not_not_intro hk)]
  · next hk => rw [testBit_withBit_self, decide_eq_true hk]

theorem exec_clkTrim_ok {src l : Nat} (ht : Takes m 0x0903 s) (hsrc : src ≤ 2) (hl : 48 ≤ l) (hl' : l ≤ 51) :
    exec (.clkTrim m src l) s = .next (done (refOf m 0x0903) (trimSelected src l s)) := by
  change execClkTrim m src l s = _
  rw [execClkTrim, command_of_takes ht, if_neg (by omega)]
  rfl

theorem trimSelected_source {src : Nat} (hsrc : src ≤ 2) (l : Nat) : reg .ckTrimSrc 0 (trimSelected src l s) = src := by
  rw [reg_trimSelected, reg_setReg_fld _ _ (by simp), reg_setReg_fld _ _ (by simp)]
  exact (reg_setReg_self _ _ _ _).trans (Nat.mod_eq_of_lt (show src < 2 ^ 2 by omega))

theorem trimSelected_link (src : Nat) {l : Nat} (hl : l ≤ 51) : reg .ckSofLink 0 (trimSelected src l s) = l - 48 := by
  rw [reg_trimSelected, reg_setReg_fld _ _ (by simp)]
  exact (reg_setReg_self _ _ _ _).trans (Nat.mod_eq_of_lt (show l - 48 < 2 ^ 2 by omega))

theorem trimSelected_fallback (src l : Nat) : reg .ckFallback 0 (trimSelected src l s) = 0 := by
  rw [reg_trimSelected, reg_setReg_self, Nat.zero_mod]

theorem exec_timeSet_armed {l frame time f : Nat} (ht : TakesLong m 0x0904 s) (hl : 48 ≤ l) (hl' : l ≤ 51) (htime : time < 2 ^ 48)
    (hframe : frame < 2 ^ 48) (hf : tabFind s.time.frames l = some f) (hahead : 1 ≤ subMod frame f (2 ^ 48))
    (hahead' : subMod frame f (2 ^ 48) ≤ 8000) (hlink : lkStateOf l s = lkActive) (harmed : s.time.armed = none) :
    exec (.timeSet m l frame time) s = .next { accepted (refOf m 0x0904) s with time := { (accepted (refOf m 0x0904) s).time with
      armed := some { link := l, frame := frame, time := time, cmd := refOf m 0x0904 } } } := by
  change execTimeSet m l frame time s = _
  rw [execTimeSet, command_of_takes ht.1, if_neg (by omega)]
  simp only [hf]
  rw [if_neg (by omega), hlink, harmed, if_neg (by simp), accept_of_takesLong ht]

theorem exec_clkMonRead_code {k : Nat} (ht : Takes m 0x0905 s) (hk : clockCode k = true) : exec (.clkMonRead m k) s
    = .next (answer (refOf m 0x0905) stDone (leBytes 4 (reg .ckFreqKhz k s) ++ leBytes 1 (reg .ckPresent k s)) s) := by
  change execClkMonRead m k s = _
  rw [execClkMonRead, command_of_takes ht, hk, requires_true]

end

/-- Settles O25. -/
theorem clockCommandsComplete : Obligations.ClockCommandsComplete := by
  intro m s
  refine ⟨?status, ?swap, ?obs, ?trim, ?timeSet, fun _ => exec_clkMonRead_code, ?plan⟩
  case status => exact fun ht => reading_of_takes ht fun s => readWords 0x90000000 9 s
  case swap => exact fun k ht hk hsrc hswap => ⟨_, exec_clkAclkSwap_other ht hk hsrc hswap, rfl, rfl, rfl⟩
  case obs =>
    exact fun k div ht hk hdiv hdiv' hfreq hcur hgood => ⟨_, exec_clkobsSet_good ht hk hdiv hdiv' hfreq hcur hgood,
      obsDivided_div hdiv' k, obsDivided_enable k div, rfl, rfl⟩
  case trim =>
    exact fun src l ht hsrc hl hl' => ⟨_, exec_clkTrim_ok ht hsrc hl hl', trimSelected_source hsrc l, trimSelected_link src hl',
      trimSelected_fallback src l⟩
  case timeSet =>
    exact fun l frame time f ht hl hl' htime hframe hf hahead hahead' hlink harmed =>
      ⟨_, exec_timeSet_armed ht hl hl' htime hframe hf hahead hahead' hlink harmed, rfl, rfl, rfl⟩
  case plan => exact fun ht => reading_of_takes ht fun s => clockPlan s ++ clockDigest s

end Sys2Proof.Machine
end


section
/-! PROOF. Reliability commands (R408 to R412, R415, R418, R419, R422, R427). -/
namespace Sys2Proof.Machine

/-- What automatic swaps are on, and the limits that trigger them (R409, R425). -/
def withPolicy (auto age fl fr h : Nat) (s : State) : State :=
  setReg .reAuto 0 auto (setReg .reAgeMinPs 0 age (setReg .reFlaskCorrLimit 0 fl
    (setReg .reFrameCorrLimit 0 fr (setReg .reHbmScrubH 0 h s))))

theorem onlyRegs_withPolicy (auto age fl fr h : Nat) (s : State) :
    OnlyRegs [(.reAuto, 0), (.reAgeMinPs, 0), (.reFlaskCorrLimit, 0), (.reFrameCorrLimit, 0), (.reHbmScrubH, 0)] s
      (withPolicy auto age fl fr h s) :=
  onlyRegs_mono (onlyRegs_trans (onlyRegs_trans (onlyRegs_trans (onlyRegs_trans (onlyRegs_setReg .reHbmScrubH 0 h s)
    (onlyRegs_setReg .reFrameCorrLimit 0 fr _)) (onlyRegs_setReg .reFlaskCorrLimit 0 fl _)) (onlyRegs_setReg .reAgeMinPs 0 age _))
    (onlyRegs_setReg .reAuto 0 auto _)) (by simp)

theorem reg_withPolicy {auto age fl fr h : Nat} (s : State) (hauto : auto < 32) (hage : age ≤ 255) (hfl : fl ≤ 255) (hfr : fr ≤ 255)
    (hh : h ≤ 12) : reg .reAuto 0 (withPolicy auto age fl fr h s) = auto ∧ reg .reAgeMinPs 0 (withPolicy auto age fl fr h s) = age ∧
    reg .reFlaskCorrLimit 0 (withPolicy auto age fl fr h s) = fl ∧ reg .reFrameCorrLimit 0 (withPolicy auto age fl fr h s) = fr ∧
    reg .reHbmScrubH 0 (withPolicy auto age fl fr h s) = h := by
  refine ⟨reg_setReg_lt (f := .reAuto) hauto _ _, ?_, ?_, ?_, ?_⟩
  · rw [withPolicy, reg_setReg_fld _ _ (by simp)]
    exact reg_setReg_lt (f := .reAgeMinPs) (show age < 2 ^ 8 by omega) _ _
  · rw [withPolicy, reg_setReg_fld _ _ (by simp), reg_setReg_fld _ _ (by simp)]
    exact reg_setReg_lt (f := .reFlaskCorrLimit) (show fl < 2 ^ 8 by omega) _ _
  · rw [withPolicy, reg_setReg_fld _ _ (by simp), reg_setReg_fld _ _ (by simp), reg_setReg_fld _ _ (by simp)]
    exact reg_setReg_lt (f := .reFrameCorrLimit) (show fr < 2 ^ 8 by omega) _ _
  · rw [withPolicy, reg_setReg_fld _ _ (by simp), reg_setReg_fld _ _ (by simp), reg_setReg_fld _ _ (by simp),
      reg_setReg_fld _ _ (by simp)]
    exact reg_setReg_lt (f := .reHbmScrubH) (show h < 2 ^ 4 by omega) _ _

/-- The record writes again, and FAULT_N is released. -/
def unfrozen (s : State) : State := setReg .shFrozen 0 0 { s with pins := { s.pins with faultN := true } }

section
variable {m : CmdMeta} {s : State}

theorem exec_riserPolicy_ok {auto age fl fr h : Nat} (ht : Takes m 0x0A01 s) (hauto : auto < 32) (hage : 1 ≤ age)
    (hage' : age ≤ 255) (hfl : fl ≤ 255) (hfr : fr ≤ 255) (hh : 1 ≤ h) (hh' : h ≤ 12) :
    exec (.riserPolicy m auto age fl fr h) s = .next (done (refOf m 0x0A01) (withPolicy auto age fl fr h s)) := by
  change execRiserPolicy m auto age fl fr h s = _
  rw [execRiserPolicy, command_of_takes ht, decide_eq_true hauto, decide_eq_true hage, decide_eq_true hage', decide_eq_true hfl,
    decide_eq_true hfr, decide_eq_true hh, decide_eq_true hh']
  rfl

theorem exec_riserFlaskSwap_free {b f k : Nat} (ht : TakesLong m 0x0A02 s) (hb : b < 100) (hf : f < 100)
    (hdeg : s.rel.degraded.contains b = false) (hmove : bayMoving b s = false) (hswap : flaskSwapping b s = false)
    (hk : freeRiserFlask b s = some k) : exec (.riserFlaskSwap m b f) s
      = .next (acceptFlaskSwap (100 * b + f) k (some (refOf m 0x0A02)) (accepted (refOf m 0x0A02) s)) := by
  change execRiserFlaskSwap m b f s = _
  rw [execRiserFlaskSwap, command_of_takes ht.1, if_neg (by omega), hdeg, hmove, hswap, if_neg (by simp)]
  simp only [hk, accept_of_takesLong ht]

theorem exec_frameRetire_held {f new : Nat} (ht : TakesLong m 0x0A03 s) (hf : f < frameTotal) (halloc : frameAllocated f s = true)
    (hmoves : ∀ x ∈ s.mem.moves, x.old ≠ f) (hbusy : pageBusy (framePage f s) s = false) (hnew : retireTarget f s = some new) :
    exec (.frameRetire m f) s = .next (startRetire f new (some (refOf m 0x0A03)) (accepted (refOf m 0x0A03) s)) := by
  have still : (s.mem.moves.any fun x => x.old = f) = false := by
    rw [List.any_eq_false]
    exact fun x hx => by simpa using hmoves x hx
  change execFrameRetire m f s = _
  rw [execFrameRetire, command_of_takes ht.1, if_neg (Nat.not_le.mpr hf), halloc, still, hbusy, if_neg (by simp)]
  simp only [hnew, accept_of_takesLong ht]

theorem exec_stackFail_new {st : Nat} (ht : TakesLong m 0x0A04 s) (hst : st ≤ 11) (hlost : s.mem.lostStacks.testBit st = false) :
    exec (.stackFail m st) s = .next (finish (refOf m 0x0A04) stDone [] (declareStack st (accepted (refOf m 0x0A04) s))) := by
  change execStackFail m st s = _
  rw [execStackFail, command_of_takes ht.1, if_neg (Nat.not_lt.mpr hst), hlost, if_neg (by simp), accept_of_takesLong ht]

theorem exec_agingRead_bay {b : Nat} (ht : Takes m 0x0A05 s) (hb : b < 100) (hen : (reg .ckClkEn 0 s).testBit 1 = true) :
    exec (.agingRead m b) s = .next (answer (refOf m 0x0A05) stDone
      ((List.range 104).flatMap fun i => leBytes 1 (tabGet 0 s.rel.margins (b * 104 + i))) s) := by
  change execAgingRead m b s = _
  rw [execAgingRead, command_of_takes ht, if_neg (Nat.not_le.mpr hb), hen, if_neg (by simp)]

theorem exec_riserHistoryRead_inRange {first : Nat} (ht : Takes m 0x0A06 s) (hfirst : first < 65536) :
    exec (.riserHistoryRead m first) s
      = .next (answer (refOf m 0x0A06) stDone ((s.rel.history.drop first).take 64).flatten s) := by
  change execRiserHistoryRead m first s = _
  rw [execRiserHistoryRead, command_of_takes ht, decide_eq_true hfirst, requires_true]

theorem exec_shakeoutRead_unsigned {first n : Nat} {nonce : List Byte} (ht : Takes m 0x0A11 s) (hn : 1 ≤ n) (hn' : n ≤ 64)
    (hfirst : first < 2 ^ 32) (hnonce : nonce.length = 16) : exec (.shakeoutRead m first n nonce 0) s
      = .next (answer (refOf m 0x0A11) stDone (shakeoutBody first n nonce s) s) := by
  change execShakeoutRead m first n nonce 0 s = _
  rw [execShakeoutRead, command_of_takes ht, if_neg (by omega)]
  simp only [if_true]

theorem exec_shakeoutUnfreeze_frozen (ht : Takes m 0x0A12 s) (hfrozen : flag .shFrozen 0 s = true) :
    exec (.shakeoutUnfreeze m (reg .shFreezeSeq 0 s)) s = .next (done (refOf m 0x0A12)
      (logEvent 0x0A05 sevI 0xA1 0xFF (leBytes 4 (reg .shLostCnt 0 s)) (unfrozen s))) := by
  have lost : reg .shLostCnt 0 (unfrozen s) = reg .shLostCnt 0 s :=
    (reg_setReg_fld _ _ (by simp)).trans (reg_congr rfl _ _)
  change execShakeoutUnfreeze m (reg .shFreezeSeq 0 s) s = _
  rw [execShakeoutUnfreeze, command_of_takes ht, hfrozen, if_neg (by simp), if_neg (by simp), ← lost]
  rfl

theorem exec_faultSubscribe_room {e cls sev : Nat} (ht : Takes m 0x0A20 s) (hdev : devOf e ≤ 2319) (hedge : isEdge (portOf e) = true)
    (hcls : cls ≤ 4) (hsev : sev ≤ 2) (hroom : s.rel.subs.length < 4) :
    exec (.faultSubscribe m e cls sev) s = .next (done (refOf m 0x0A20) { s with rel := { s.rel with
      subs := s.rel.subs.filter (fun y => y.endpoint ≠ e) ++
        [{ endpoint := e, cls := cls, sev := sev, secAt := s.time.now, sent := 0 }] } }) := by
  change execFaultSubscribe m e cls sev s = _
  rw [execFaultSubscribe, command_of_takes ht]
  simp [hdev, hedge, Nat.not_lt.mpr hcls, Nat.not_lt.mpr hsev, Nat.not_le.mpr hroom]

theorem exec_faultUnsubscribe_known {e : Nat} (ht : Takes m 0x0A21 s) (he : ∃ x ∈ s.rel.subs, x.endpoint = e) :
    exec (.faultUnsubscribe m e) s = .next (done (refOf m 0x0A21)
      { s with rel := { s.rel with subs := s.rel.subs.filter fun y => y.endpoint ≠ e } }) := by
  have known : (s.rel.subs.any fun x => x.endpoint = e) = true := by simpa using he
  change execFaultUnsubscribe m e s = _
  rw [execFaultUnsubscribe, command_of_takes ht, known, requires_true]

end

/-- Settles O27. -/
theorem reliabilityCommandsComplete : Obligations.ReliabilityCommandsComplete := by
  intro m s
  refine ⟨?status, ?policy, fun _ _ _ => exec_riserFlaskSwap_free, fun _ _ => exec_frameRetire_held, fun _ => exec_stackFail_new,
    fun _ => exec_agingRead_bay, fun _ => exec_riserHistoryRead_inRange, ?shakeout, fun _ _ _ => exec_shakeoutRead_unsigned, ?unfreeze,
    fun _ _ _ => exec_faultSubscribe_room, fun _ => exec_faultUnsubscribe_known, ?stats⟩
  case status =>
    exact fun ht => reading_of_takes ht fun s => riserCounts s
      ++ packFields [(1, s.rel.degraded.length), (1, reg .shFrozen 0 s), (1, s.rel.subs.length)]
  case policy =>
    intro auto age fl fr h ht hauto hage hage' hfl hfr hh hh'
    obtain ⟨hregAuto, hregAge, hregFl, hregFr, hregH⟩ := reg_withPolicy s hauto hage' hfl hfr hh'
    exact ⟨_, exec_riserPolicy_ok ht hauto hage hage' hfl hfr hh hh', hregAuto, hregAge, hregFl, hregFr, hregH,
      onlyRegs_withPolicy _ _ _ _ _ _⟩
  case shakeout => exact fun ht => reading_of_takes ht fun s => readWords 0xA1000000 5 s
  case unfreeze =>
    refine fun ht hfrozen => ⟨_, exec_shakeoutUnfreeze_frozen ht hfrozen, ?_, rfl, rfl⟩
    rw [flag, unfrozen, reg_setReg_self]
    rfl
  case stats => exact fun ht => reading_of_takes ht fun s => readWords 0xA000000C 6 s

end Sys2Proof.Machine
end


section
/-! PROOF. Riser events (R409 to R413). -/
namespace Sys2Proof.Machine

/-! ### FLASK_UNCORRECTABLE (R412, R413) -/

/-- An uncorrectable error of a Flask is counted and logged. -/
def flaskErrNoted (b f : Nat) (s : State) : State :=
  let s := incReg .reFlaskUncorrCnt 0 s
  logEvent 0x0702 sevW (bayBlock b) b (packFields [(1, f), (1, flaskPos b f s)]) s

section
variable {s : State}

theorem flaskErrNoted_layer (b f : Nat) : (flaskErrNoted b f s).layer = s.layer := by simp [flaskErrNoted]

theorem flaskErrNoted_pour (b f : Nat) : (flaskErrNoted b f s).pour = s.pour := by simp [flaskErrNoted]

theorem flaskErrNoted_mem (b f : Nat) : (flaskErrNoted b f s).mem = s.mem := by simp [flaskErrNoted]

theorem flaskErrNoted_count (b f : Nat) : reg .reFlaskUncorrCnt 0 (flaskErrNoted b f s)
    = min (reg .reFlaskUncorrCnt 0 s + 1) (2 ^ fldWidth .reFlaskUncorrCnt - 1) := by
  rw [flaskErrNoted, reg_logEvent_fld (by simp), incReg, reg_addReg_self]

/-- In a Bay of the pour Shop its Pours fail, and its place is taken. -/
theorem exec_flaskUncorrectable_pourBay {b f : Nat} (hb : b < 100) (hf : f < 100) (hdeg : s.rel.degraded.contains b = false)
    (hseg : (tabGet {} s.layer.bays b).seg = none) : exec (.flaskUncorrectable b f) s
      = .next (replaceFlask b f (failFlaskPours (fun k => k.bay = b && k.flask = f) (flaskErrNoted b f s))) := by
  have hseg' : (tabGet {} (flaskErrNoted b f s).layer.bays b).seg = none := by rw [flaskErrNoted_layer, hseg]
  rw [flaskErrNoted] at hseg' ⊢
  change execFlaskUncorrectable b f s = _
  simp only [execFlaskUncorrectable, onUnit, decide_eq_true hb, decide_eq_true hf, hdeg, hseg', Bool.and_self, Bool.false_eq_true,
    if_true, if_false]

/-! ### RISER_PROPOSAL (R409, R410) -/

theorem exec_riserProposal_flask {u : Nat} (hu : u < 10000) (hshops : shopsWait s = false) :
    exec (.riserProposal 0 u) s = .next (proposeFlask (u / 100) (u % 100) (toBoundary 1000000 s)) := by
  change execRiserProposal 0 u s = _
  rw [execRiserProposal, decided_of_shopsWait hshops, if_pos rfl, decide_eq_true hu]
  rfl

theorem exec_riserProposal_frame {u : Nat} (hu : u < frameTotal) (hshops : shopsWait s = false) :
    exec (.riserProposal 2 u) s = .next (proposeFrame u (toBoundary 1000000 s)) := by
  change execRiserProposal 2 u s = _
  rw [execRiserProposal, decided_of_shopsWait hshops, if_neg (by decide), if_neg (by decide), if_pos rfl, decide_eq_true hu]
  rfl

theorem exec_riserProposal_bank {u : Nat} (hd : u / 100 < 2) (hb : u % 100 < 32) (hshops : shopsWait s = false) :
    exec (.riserProposal 3 u) s = .next (proposeBankOf (u / 100) (u % 100) (toBoundary 1000000 s)) := by
  change execRiserProposal 3 u s = _
  rw [execRiserProposal, decided_of_shopsWait hshops, if_neg (by decide), if_neg (by decide), if_neg (by decide), if_pos rfl,
    decide_eq_true hd, decide_eq_true hb]
  rfl

/-! ### The swap of a Flask (R411) -/

theorem exec_riserFlaskCopied_clear {b f : Nat} {j : Proposal} (hb : b < 100) (hf : f < 100)
    (hj : s.rel.proposals.find? (fun x => x.unit = 100 * b + f) = some j) (hclear : flaskClear b f s = true) :
    exec (.riserFlaskCopied b f) s = .next (finishOpt j.cmd stDone [] (swapFlask b f j.riser
      { s with rel := { s.rel with proposals := s.rel.proposals.filter fun x => x.unit ≠ j.unit } })) := by
  change execRiserFlaskCopied b f s = _
  rw [execRiserFlaskCopied, decide_eq_true hb, decide_eq_true hf, hclear]
  simp only [hj]
  rfl

end

/-- The wait of a Flask's swap has lapsed, at a time: it is proposed again later. -/
def swapLapsedAt (now u : Nat) (j : Proposal) (s : State) : State :=
  let s := advanceTo now s
  { s with rel := { s.rel with proposals := s.rel.proposals.filter fun x => x.unit ≠ u,
                               lapsed := s.rel.lapsed ++ [{ j with since := s.time.now }] } }

section
variable {s : State}

theorem exec_riserProposalLapse_waiting {u : Nat} {j : Proposal} (hj : s.rel.proposals.find? (fun x => x.unit = u) = some j) :
    exec (.riserProposalLapse 0 u) s
      = .next (logTrigger 0 u 0 (bayBlock (u / 100)) (u / 100) (swapLapsedAt (j.since + 10000000) u j s)) := by
  change execRiserProposalLapse 0 u s = _
  simp only [execRiserProposalLapse, onUnit, hj, swapLapsedAt, ne_eq, not_true_eq_false, if_false, Nat.zero_le, decide_true, if_true]

theorem swapLapsedAt_now (now u : Nat) (j : Proposal) : (swapLapsedAt now u j s).time.now = max s.time.now now :=
  advanceTo_now now s

theorem swapLapsedAt_csr (now u : Nat) (j : Proposal) : (swapLapsedAt now u j s).csr = s.csr := advanceTo_csr now s

theorem swapLapsedAt_mem (now u : Nat) (j : Proposal) : (swapLapsedAt now u j s).mem = s.mem := advanceTo_mem now s

theorem swapLapsedAt_proposals (now u : Nat) (j : Proposal) : ∀ x ∈ (swapLapsedAt now u j s).rel.proposals, x.unit ≠ u := by
  intro x hx
  simpa using (List.mem_filter.mp hx).2

end

/-! ### Aging monitors (R409) -/

/-- The positions a report shows: of FIRED Bays that are not degraded. -/
def shownPositions (ms : List Nat) (s : State) : List Nat :=
  (List.range ms.length).filter fun i => decide (i < 10400) && decide (reg .pwBayState (i / 104) s = 0)
    && !s.rel.degraded.contains (i / 104)

/-- The margins of a report, up to 255 ps each. -/
def marginsTaken (ms : List Nat) (s : State) : State :=
  { s with rel := { s.rel with
    margins := (shownPositions ms s).foldl (fun t i => tabPut t i (min 255 (ms.getD i 0))) s.rel.margins } }

theorem tabFind_foldl_tabPut_mem {α : Type} (v : Nat → α) {l : List Nat} {i : Nat} (hi : i ∈ l) (t : Tab α) :
    tabFind (l.foldl (fun t j => tabPut t j (v j)) t) i = some (v i) := by
  have kept : ∀ (l : List Nat) (t : Tab α), tabFind t i = some (v i) →
      tabFind (l.foldl (fun t j => tabPut t j (v j)) t) i = some (v i) := by
    intro l
    induction l with
    | nil => exact fun _ h => h
    | cons j l ih =>
      intro t h
      refine ih _ ?_
      rw [tabFind_tabPut]
      split
      · next hij => rw [hij]
      · exact h
  induction l generalizing t with
  | nil => cases hi
  | cons j l ih =>
    rw [List.foldl_cons]
    rcases List.mem_cons.mp hi with rfl | hi
    · exact kept l _ (by rw [tabFind_tabPut, if_pos rfl])
    · exact ih hi _

section
variable {s : State}

theorem exec_agingMonitorReport_running {ms : List Nat} (hen : (reg .ckClkEn 0 s).testBit 1 = true) :
    exec (.agingMonitorReport ms) s = .next (marginsTaken ms (toBoundary 1000000000 s)) := by
  have hen' : (reg .ckClkEn 0 (toBoundary 1000000000 s)).testBit 1 = true := by rw [reg_toBoundary, hen]
  change execAgingMonitorReport ms s = _
  simp only [execAgingMonitorReport, hen', Bool.not_true, Bool.false_eq_true, if_false]
  rfl

theorem marginsTaken_csr (ms : List Nat) : (marginsTaken ms s).csr = s.csr := rfl

theorem toBoundary_csr (period : Nat) : (toBoundary period s).csr = s.csr := rfl

theorem marginsTaken_margin {ms : List Nat} {i v : Nat} (hi : i < 10400) (hv : ms[i]? = some v) (hmax : v ≤ 255)
    (hfired : reg .pwBayState (i / 104) s = 0) (hdeg : s.rel.degraded.contains (i / 104) = false) :
    tabFind (marginsTaken ms s).rel.margins i = some v := by
  obtain ⟨hlen, -⟩ := List.getElem?_eq_some_iff.mp hv
  have shown : i ∈ shownPositions ms s :=
    List.mem_filter.mpr ⟨List.mem_range.mpr hlen, by rw [hdeg, hfired, decide_eq_true hi]; rfl⟩
  rw [marginsTaken]
  dsimp only
  rw [tabFind_foldl_tabPut_mem (fun i => min 255 (ms.getD i 0)) shown, List.getD_eq_getElem?_getD, hv, Option.getD_some,
    Nat.min_eq_right hmax]

end

/-- Settles O28. -/
theorem riserEventsComplete : Obligations.RiserEventsComplete := by
  intro s
  refine ⟨?uncorrectable, fun _ => exec_riserProposal_flask, fun _ => exec_riserProposal_frame, fun _ => exec_riserProposal_bank,
    fun _ _ _ => exec_riserFlaskCopied_clear, ?lapse, ?aging⟩
  case uncorrectable =>
    exact fun b f hb hf hdeg hseg => ⟨_, exec_flaskUncorrectable_pourBay hb hf hdeg hseg, flaskErrNoted_pour b f,
      flaskErrNoted_mem b f, flaskErrNoted_count b f⟩
  case lapse =>
    exact fun u j hj => ⟨_, exec_riserProposalLapse_waiting hj, swapLapsedAt_now _ u j, swapLapsedAt_proposals _ u j,
      swapLapsedAt_csr _ u j, swapLapsedAt_mem _ u j⟩
  case aging =>
    exact fun ms hen => ⟨_, exec_agingMonitorReport_running hen, toBoundary_now_mod (by decide) s,
      (marginsTaken_csr ms).trans (toBoundary_csr _),
      fun i v hi hv hmax hfired hdeg => marginsTaken_margin hi hv hmax (by rwa [reg_toBoundary]) hdeg⟩

end Sys2Proof.Machine
end


section
/-! PROOF. The Assay commands of the fabric side (O30) and the island's own port (O31). -/
namespace Sys2Proof.Machine

/-! ### The fabric side: ASSAY_STATUS and ASSAY_ATTRIB_LIST only read (R458) -/

section
variable {m : CmdMeta} {s : State}

theorem exec_assayRead_frame {c : Nat} {b : List Byte} (ht : Takes m 0x0C01 s) (hc : c ≤ 8) (hb : s.assay.rx = some b) :
    exec (.assayRead m c) s = .next (answer (refOf m 0x0C01) stDone
      ((b.drop (frameChan c)).take 24 ++ leBytes 4 (readReg .arFrameSeq 0 s) ++ leBytes 4 (readReg .arAgeMs 0 s)) s) := by
  change execAssayRead m c s = _
  rw [execAssayRead, command_of_takes ht, if_neg (by omega), hb]

theorem exec_assayAttrib_known {heat : Nat} {x : Nat × Nat} (ht : Takes m 0x0C02 s) (hbound : isBound heat s = true)
    (hx : tabFind s.assay.attrib heat = some x) :
    exec (.assayAttrib m heat) s = .next (answer (refOf m 0x0C02) stDone (leBytes 8 x.1 ++ leBytes 4 x.2) s) := by
  change execAssayAttrib m heat s = _
  rw [execAssayAttrib, command_of_takes ht, hbound, hx]
  rfl

theorem exec_assayAttribList_below {first : Nat} (ht : Takes m 0x0C03 s) (hfirst : first < 1025) :
    exec (.assayAttribList m first) s = .next (answer (refOf m 0x0C03) stDone
      (((s.assay.attrib.drop first).take 100).flatMap fun e => leBytes 4 e.1 ++ leBytes 8 e.2.1) s) := by
  change execAssayAttribList m first s = _
  rw [execAssayAttribList, command_of_takes ht, decide_eq_true hfirst, requires, if_pos rfl]

end

/-- Settles O30: the Assay commands of the fabric side complete. -/
theorem assayCommandsComplete : Obligations.AssayCommandsComplete := by
  intro m s
  refine ⟨?status, fun c b ht => exec_assayRead_frame ht, fun heat x ht => exec_assayAttrib_known ht,
    fun first ht => exec_assayAttribList_below ht⟩
  case status =>
    exact fun ht => reading_of_takes ht fun s =>
      readWords 0x92000000 7 s ++ leBytes 1 (frameField 3 1 s) ++ leBytes 8 (frameField 24 8 s)

/-! ### The island's port while the island has its supply (R447, R449, R452, R453) -/

/-- The island with a reading of a channel signed (R452). -/
def readingSigned (c : Nat) (nonce : List Byte) (s : State) : State :=
  let r := readingBody c nonce s ++ leBytes 114 (Config.ed448Sign Config.assayKeySeed kxReading (readingBody c nonce s)).toNat
  { s with assay := { s.assay with signing := none, signTimes := signsLately s ++ [s.time.now], reading := r } }

section
variable {s : State}

theorem asRead_of_vddGood (hvdd : s.assay.vddGood = true) (code : Nat) (b : State → List Byte) :
    asRead code b s = .next (asBlock code (b s) s) := by
  rw [asRead, if_pos hvdd]

theorem asWrite_of_vddGood (hvdd : s.assay.vddGood = true) (code : Nat) (data : List Byte) (k : State → State) :
    asWrite code data (writePec (asAddr s) code data) k s = .next (k s) := by
  rw [asWrite, hvdd, if_neg (by simp), if_neg (by simp)]

theorem exec_asIdent_vddGood (hvdd : s.assay.vddGood = true) :
    exec .asIdent s = .next (asBlock 0x01 (leBytes 4 Config.assayFwVersion.toNat ++ leBytes 32 Config.assaySoftwareDigest.toNat
      ++ leBytes 8 Config.assaySerial.toNat ++ leBytes 4 s.assay.live.event ++ leBytes 2 s.assay.live.trail.length) s) := by
  change execAsIdent s = _
  rw [execAsIdent, asRead_of_vddGood hvdd]

theorem exec_asCert_vddGood (hvdd : s.assay.vddGood = true) :
    exec .asCert s = .next (asBlock 0x06 (leBytes 8 Config.assaySerial.toNat
      ++ leBytes 57 (Config.ed448Public Config.assayKeySeed).toNat ++ leBytes 114 Config.assayCertSignature.toNat) s) := by
  change execAsCert s = _
  rw [execAsCert, asRead_of_vddGood hvdd]

theorem exec_asStatus_vddGood (hvdd : s.assay.vddGood = true) :
    exec .asStatus s = .next (asBlock 0x11 (leBytes 1 s.assay.status) s) := by
  change execAsStatus s = _
  rw [execAsStatus, asRead_of_vddGood hvdd]

theorem exec_asSign_asked (hvdd : s.assay.vddGood = true) {c : Nat} {nonce : List Byte} (hc : c ≤ 8) (hnonce : nonce.length = 16) :
    exec (.asSign c nonce (writePec (asAddr s) 0x02 (leBytes 1 c ++ nonce))) s
      = .next { s with assay := { s.assay with signing := some (c, nonce), status := asDone } } := by
  change execAsSign c nonce _ s = _
  rw [execAsSign, asWrite_of_vddGood hvdd, if_neg (by omega)]
  rfl

theorem exec_asSignedReadingReady_signs {c : Nat} {nonce : List Byte} (hsigning : s.assay.signing = some (c, nonce))
    (hrate : (signsLately s).length < 20) : exec .asSignedReadingReady s = .next (readingSigned c nonce s) := by
  change execAsSignedReadingReady s = _
  simp only [execAsSignedReadingReady, readingSigned, hsigning, if_neg (show ¬ (signsLately s).length ≥ 20 by omega)]

/-- The 21st signature of a second waits (R452). -/
theorem exec_asSignedReadingReady_waits (hrate : 20 ≤ (signsLately s).length) : exec .asSignedReadingReady s = .next s := by
  change execAsSignedReadingReady s = _
  rw [execAsSignedReadingReady]
  cases s.assay.signing with
  | none => rfl
  | some r => exact congrArg Host.Outcome.next (if_pos hrate)

theorem exec_asReading_ready (hvdd : s.assay.vddGood = true) (hsigning : s.assay.signing = none) (hread : s.assay.reading ≠ []) :
    exec .asReading s = .next (asBlock 0x03 s.assay.reading s) := by
  change execAsReading s = _
  rw [execAsReading, hvdd, hsigning, if_neg (by simp), if_neg (by simpa using hread)]

theorem exec_asParam_defined (hvdd : s.assay.vddGood = true) {id c v : Nat} (hv : paramOf id c (chan c s.assay.live) = some v) :
    exec (.asParam id c (writePec (asAddr s) 0x04 (packFields [(1, c), (1, id)]))) s
      = .next (asStatus asDone (asBlock 0x04 (leBytes 8 v) s)) := by
  change execAsParam id c _ s = _
  rw [execAsParam, asWrite_of_vddGood hvdd, hv]

theorem exec_asTrail_entry (hvdd : s.assay.vddGood = true) {i : Nat} {e : List Byte} (he : s.assay.live.trail[i]? = some e) :
    exec (.asTrail i (writePec (asAddr s) 0x05 (leBytes 1 i))) s = .next (asStatus asDone (asBlock 0x05 e s)) := by
  change execAsTrail i _ s = _
  rw [execAsTrail, asWrite_of_vddGood hvdd, he]

theorem exec_asChange_block (hvdd : s.assay.vddGood = true) {b : List Byte} (hb : b.length = 128) :
    exec (.asChange b (writePec (asAddr s) 0x10 b)) s = .next (
      if changeCheck b s = asDone then asStatus asDone (commitChange b s) else asStatus (changeCheck b s) s) := by
  change execAsChange b _ s = _
  rw [execAsChange, asWrite_of_vddGood hvdd, if_neg (by omega)]
  by_cases h : changeCheck b s = asDone
  · simp only [h, if_true]
  · simp only [h, if_false]

theorem exec_asUndefinedCode_vddGood (hvdd : s.assay.vddGood = true) (code : Nat) (write : Bool) :
    exec (.asUndefinedCode code write) s = .next (asStatus asBadCmd (if write then s else asBlock code [] s)) := by
  change execAsUndefinedCode code write s = _
  rw [execAsUndefinedCode, hvdd, if_neg (by simp)]

end

/-- Settles O31: the island's own port completes. -/
theorem islandPortComplete : Obligations.IslandPortComplete := by
  intro s hvdd
  refine ⟨exec_asIdent_vddGood hvdd, fun c nonce => exec_asSign_asked hvdd, fun c nonce => exec_asSignedReadingReady_signs,
    exec_asSignedReadingReady_waits, exec_asReading_ready hvdd, fun id c v => exec_asParam_defined hvdd,
    fun i e => exec_asTrail_entry hvdd, exec_asCert_vddGood hvdd, fun b => exec_asChange_block hvdd,
    exec_asStatus_vddGood hvdd, fun code => ⟨?write, ?read⟩⟩
  case write => exact exec_asUndefinedCode_vddGood hvdd code true
  case read => exact exec_asUndefinedCode_vddGood hvdd code false

end Sys2Proof.Machine
end


section
/-! PROOF. The Assay island's measurement, supply and seal, and its frames to X0, complete (O32). -/
namespace Sys2Proof.Machine

/-! ### Measurement and supply (R442, R443, R445) -/

section
variable {s : State}

theorem exec_assaySample_enabled {c uv : Nat} {ua : Int} (hc : c ≤ 8) (hvdd : s.assay.vddGood = true)
    (hen : (chan c s.assay.live).enable = 1) :
    exec (.assaySample c uv ua) s = .next (modChan c (sampleChan c uv ua) s) := by
  change execAssaySample c uv ua s = _
  rw [execAssaySample, decide_eq_true hc, hvdd, hen]
  rfl

end

/-- The island with one second more at a time, which it has committed (R445). -/
def secondCommittedAt (now : Nat) (s : State) : State :=
  let s := advanceTo now s
  let s := modLive (fun nv => { nv with seconds := nv.seconds + 1 }) s
  commitNv { s with assay := { s.assay with secAt := s.time.now } }

/-- The island on its supply again: it counts an outage and resumes from what it committed. -/
def islandStarted (straps : Nat) (s : State) : State :=
  { s with assay := { s.assay with
      vddGood := true, straps := straps % 4, secAt := s.time.now, status := 0, signing := none, reading := [], frameSeq := 0,
      live := { s.assay.committed with outage := (s.assay.committed.outage + 1) % 2 ^ 32 } } }

/-- The island as its supply falls: it commits, and stops. -/
def islandStopped (s : State) : State :=
  let s := commitNv s; { s with assay := { s.assay with vddGood := false, signing := none, reading := [] } }

section
variable {s : State}

theorem exec_assayNvCommit_powered (hvdd : s.assay.vddGood = true) : 
    exec .assayNvCommit s = .next (secondCommittedAt (s.assay.secAt + 1000000000) s) := by
  change execAssayNvCommit s = _
  rw [execAssayNvCommit, hvdd, if_neg (by simp), secondCommittedAt]

theorem secondCommittedAt_seconds (now : Nat) : (secondCommittedAt now s).assay.live.seconds = s.assay.live.seconds + 1 := rfl

theorem secondCommittedAt_committed (now : Nat) :
    (secondCommittedAt now s).assay.committed = (secondCommittedAt now s).assay.live := rfl

theorem secondCommittedAt_now (now : Nat) : (secondCommittedAt now s).time.now = max s.time.now now := advanceTo_now now s

theorem exec_assayVddGood_rises {straps : Nat} (hvdd : s.assay.vddGood = false) :
    exec (.assayVddGood straps) s = .next (islandStarted straps s) := by
  change execAssayVddGood straps s = _
  rw [execAssayVddGood, hvdd, if_neg (by simp), islandStarted]

theorem exec_assayVddFalling_powered (hvdd : s.assay.vddGood = true) : exec .assayVddFalling s = .next (islandStopped s) := by
  change execAssayVddFalling s = _
  rw [execAssayVddFalling, hvdd, if_neg (by simp), islandStopped]

/-! ### Frames (R454 to R456) -/

theorem exec_assayFrameSend_powered (hvdd : s.assay.vddGood = true) :
    exec .assayFrameSend s = .next (sendAssayFrame (advance (100000000 - s.time.now % 100000000) s)) := by
  change execAssayFrameSend s = _
  rw [execAssayFrameSend, hvdd, if_neg (by simp)]

theorem exec_assayFrame_good {b : List Byte} (hrun : s.power.state = .running) (hlen : b.length = 252)
    (hsync : fieldAt b 0 2 = 0x5341) (hcrc : fieldAt b 248 4 = crc32c (b.take 248)) :
    exec (.assayFrame b) s = .next (takeFrameBytes b s) := by
  change execAssayFrame b s = _
  rw [execAssayFrame, hrun, if_neg (by simp), if_neg (by simp [hlen, hsync, hcrc])]

theorem exec_assayFrame_damaged {b : List Byte} (hrun : s.power.state = .running)
    (hcrc : fieldAt b 248 4 ≠ crc32c (b.take 248)) : exec (.assayFrame b) s = .next (incReg .arCrcErrCnt 0 s) := by
  change execAssayFrame b s = _
  rw [execAssayFrame, hrun, if_neg (by simp), if_pos (.inr (.inr hcrc))]

end

/-- The receiver after a second without a good frame. -/
def silenceNoted (s : State) : State :=
  let s := advanceTo (s.assay.rxAt + 1000000000) s
  let s := logEvent 0x0C01 sevW 0x92 0xFF (packFields [(4, readReg .arAgeMs 0 s)]) s
  incReg .arSilentCnt 0 (setReg .arArriving 0 0 s)

section
variable {s : State}

theorem exec_assaySilent_arriving (harr : flag .arArriving 0 s = true) : exec .assaySilent s = .next (silenceNoted s) := by
  change execAssaySilent s = _
  rw [execAssaySilent, harr, if_neg (by simp), silenceNoted]

theorem silenceNoted_arriving : flag .arArriving 0 (silenceNoted s) = false := by
  rw [silenceNoted, flag, reg_incReg_fld _ (by simp), reg_setReg_self]
  simp

theorem silenceNoted_now : (silenceNoted s).time.now = max s.time.now (s.assay.rxAt + 1000000000) := by
  simp only [silenceNoted, incReg_time, setReg_time, logEvent_time, advanceTo_now]

theorem silenceNoted_count :
    reg .arSilentCnt 0 (silenceNoted s) = min (reg .arSilentCnt 0 s + 1) (2 ^ fldWidth .arSilentCnt - 1) := by
  rw [silenceNoted, incReg, reg_addReg_self, reg_setReg_fld _ _ (by simp), reg_logEvent_fld (by simp)]
  rw [reg_congr (advanceTo_csr _ _)]

end

/-- Settles O32: the island's measurement, supply, seal and frame events complete. -/
theorem assayEventsComplete : Obligations.AssayEventsComplete := by
  intro s
  refine ⟨fun c uv ua => exec_assaySample_enabled, fun hvdd => ⟨_, exec_assayNvCommit_powered hvdd, ?seconds⟩,
    fun straps hvdd => ⟨_, exec_assayVddGood_rises hvdd, rfl, rfl, rfl, rfl⟩,
    fun hvdd => ⟨_, exec_assayVddFalling_powered hvdd, rfl, rfl, rfl⟩, fun b => rfl, exec_assayFrameSend_powered,
    fun b => exec_assayFrame_good, fun b => exec_assayFrame_damaged,
    fun harr => ⟨_, exec_assaySilent_arriving harr, silenceNoted_arriving, silenceNoted_now, silenceNoted_count⟩⟩
  case seconds => exact ⟨secondCommittedAt_seconds _, secondCommittedAt_committed _, secondCommittedAt_now _⟩

end Sys2Proof.Machine
end


section
/-! PROOF. No command stops the block, and events of units the device does not hold change nothing (O45). -/
namespace Sys2Proof.Machine

/-! ### Every command has a next state -/

/-- A command's effect is a next state. -/
def Proceeds (o : Out) : Prop := ∃ t, o = .next t

theorem proceeds_next (s : State) : Proceeds (.next s) := ⟨s, rfl⟩

theorem proceeds_ite {c : Prop} [Decidable c] {a b : Out} (ha : Proceeds a) (hb : Proceeds b) :
    Proceeds (if c then a else b) := by
  split
  · exact ha
  · exact hb

theorem proceeds_decided {s : State} {k : Out} (hk : Proceeds k) : Proceeds (decided s k) := proceeds_ite (proceeds_next s) hk

/-- The two ways of many rows: a unit the device does not hold, or an effect on one it holds. -/
theorem proceeds_unless {c : Prop} [Decidable c] {s t : State} : Proceeds (if c then .next s else .next t) :=
  proceeds_ite (proceeds_next s) (proceeds_next t)

theorem runCommand_proceeds (i : Instr) (s : State) : Proceeds (runCommand i s) := by
  cases i
  all_goals exact ⟨_, rfl⟩

theorem startCmd_proceeds (c : QCmd) (s : State) : Proceeds (startCmd c s) := by
  rw [startCmd]
  refine proceeds_ite (proceeds_next _) ?_
  cases parseCommand (metaOfCmd c) c.ref.op c.payload with
  | badOpcode => exact proceeds_next _
  | badLength => exact proceeds_next _
  | ok i => exact proceeds_ite (proceeds_next _) (runCommand_proceeds i s)

theorem execCommandStart_proceeds (queue : Nat) (s : State) : Proceeds (execCommandStart queue s) := by
  rw [execCommandStart]
  refine proceeds_ite (proceeds_next _) (proceeds_ite (proceeds_next _) ?_)
  cases cmdQueue queue s with
  | nil => exact proceeds_next _
  | cons c r => exact startCmd_proceeds c _

theorem execFwdDone_proceeds (src stream seq home result cause : Nat) (s : State) :
    Proceeds (execFwdDone src stream seq home result cause s) := by
  simp only [execFwdDone]
  split
  · exact proceeds_next _
  · exact proceeds_unless

theorem execFwdDoneResendTimeout_proceeds (src stream seq : Nat) (s : State) :
    Proceeds (execFwdDoneResendTimeout src stream seq s) := by
  rw [execFwdDoneResendTimeout]
  split <;> exact proceeds_next _

theorem execFwdReforwardTimeout_proceeds (src stream seq : Nat) (s : State) :
    Proceeds (execFwdReforwardTimeout src stream seq s) := by
  rw [execFwdReforwardTimeout]
  split
  · exact proceeds_next _
  · exact proceeds_unless

theorem execCvThresholdSwapProposal_proceeds (l lane : Nat) (s : State) : Proceeds (execCvThresholdSwapProposal l lane s) :=
  proceeds_ite (proceeds_next _) (proceeds_decided (proceeds_next _))

theorem execStartOfFrame_proceeds (l frameNo : Nat) (s : State) : Proceeds (execStartOfFrame l frameNo s) :=
  proceeds_ite (proceeds_next _) proceeds_unless

theorem execBayOwnershipTransfer_proceeds (bay : Nat) (s : State) : Proceeds (execBayOwnershipTransfer bay s) :=
  proceeds_ite (proceeds_next _) (proceeds_decided (proceeds_next _))

theorem execPatternBookWalk_proceeds (peer gfa : Nat) (s : State) : Proceeds (execPatternBookWalk peer gfa s) :=
  proceeds_ite (proceeds_next _) proceeds_unless

theorem execPllFaultProposal_proceeds (s : State) : Proceeds (execPllFaultProposal s) := proceeds_decided (proceeds_next _)

theorem execRiserProposal_proceeds (kind unit : Nat) (s : State) : Proceeds (execRiserProposal kind unit s) :=
  proceeds_decided <| proceeds_ite (proceeds_next _) <| proceeds_ite (execCvThresholdSwapProposal_proceeds _ _ _) <|
    proceeds_ite (proceeds_next _) <| proceeds_ite (proceeds_next _) <| proceeds_ite (execPllFaultProposal_proceeds _) (proceeds_next _)

theorem execMirrorConfirm_proceeds (src stream seq : Nat) (s : State) : Proceeds (execMirrorConfirm src stream seq s) := by
  rw [execMirrorConfirm]
  split <;> exact proceeds_next _

theorem execSliceRecordReply_proceeds (peer gfa : Nat) (covers : Bool) (s : State) :
    Proceeds (execSliceRecordReply peer gfa covers s) := by
  rw [execSliceRecordReply]
  split
  · exact proceeds_next _
  · exact proceeds_ite (proceeds_next _) proceeds_unless

/-- Most rows are a next state outright; the others decide first whether they have one to reach. -/
theorem exec_proceeds (i : Instr) (s : State) : Proceeds (exec i s) := by
  cases i
  case commandStart queue => exact execCommandStart_proceeds queue s
  case fwdDone src stream seq home result cause => exact execFwdDone_proceeds src stream seq home result cause s
  case fwdReforwardTimeout src stream seq => exact execFwdReforwardTimeout_proceeds src stream seq s
  case fwdDoneResendTimeout src stream seq => exact execFwdDoneResendTimeout_proceeds src stream seq s
  case cvThresholdSwapProposal l lane => exact execCvThresholdSwapProposal_proceeds l lane s
  case startOfFrame l frameNo => exact execStartOfFrame_proceeds l frameNo s
  case bayOwnershipTransfer bay => exact execBayOwnershipTransfer_proceeds bay s
  case patternBookWalk peer gfa => exact execPatternBookWalk_proceeds peer gfa s
  case pllFaultProposal => exact execPllFaultProposal_proceeds s
  case riserProposal kind unit => exact execRiserProposal_proceeds kind unit s
  case mirrorConfirm src stream seq => exact execMirrorConfirm_proceeds src stream seq s
  case sliceRecordReply peer gfa covers => exact execSliceRecordReply_proceeds peer gfa covers s
  case sbUndefinedCode | packetDepart | credit | creditSendTick | creditTimeout | levelFallRelease | ident | identSendTick
      | trainingSet | laneCkLock | linkDeskew | trainingStepTimeout | trainingRestart | linkLost | lostLockRetrain
      | coordinatesSetResume | swapReq | swapMarkerReached | startOfFrameSend | segmentPlaced | frameZeroed
      | endpointCreditStall | linkDrained | drainTimeout | thermalThrottle | thermalShutdown | bayIdleTimer | hbmScrub
      | tundishScrub => exact proceeds_unless
  all_goals exact ⟨_, rfl⟩

/-! ### Units the device does not hold (log entry 115) -/

/-- A row that leaves absent units alone by `onUnit`. -/
theorem onUnit_absent {ok : Bool} (h : ok = false) (s t : State) : onUnit ok s t = .next s := by
  rw [onUnit, h, if_neg (by simp)]

theorem decided_absent {s : State} {k : Out} (h : k = .next s) : decided s k = .next s := by
  rw [decided, h, ite_self]

section
variable {s : State}

/-- Links from 52 on. -/
theorem isEdge_absent {l : Nat} (hl : 52 ≤ l) : isEdge l = false := by
  simp [isEdge, isAccel, isService]
  omega

theorem exec_endpointCreditStall_absent {l : Nat} (hl : 52 ≤ l) : exec (.endpointCreditStall l) s = .next s := by
  change execEndpointCreditStall l s = _
  rw [execEndpointCreditStall, isEdge_absent hl, if_pos (by simp)]

theorem exec_policerRefill_absent {l : Nat} (hl : 52 ≤ l) : exec (.policerRefill l) s = .next s :=
  onUnit_absent (by simp [isEdge_absent hl]) _ _

theorem exec_startOfFrameSend_absent {l : Nat} (hl : l < 48 ∨ 52 ≤ l) : exec (.startOfFrameSend l) s = .next s := by
  have hservice : isService l = false := by
    simp [isService]
    omega
  change execStartOfFrameSend l s = _
  rw [execStartOfFrameSend, hservice, if_pos (by simp)]

end

/-- Settles O45: no command stops the block, and events of absent units change nothing. -/
theorem noCommandStops : Obligations.NoCommandStops := by
  refine ⟨exec_proceeds, fun l s hl => ?absentLink, fun l s hl n => if_pos hl, fun l s hl => exec_startOfFrameSend_absent hl,
    fun h s hh => ?halves, fun b s hb => ?bays, fun k s hk => ?hbmStacks, fun d s hd => ?die, fun k c s hk => ?sensors,
    fun k u i s hk => ?channels, fun f s hf => ?frames⟩
  case absentLink =>
    have hunit : decide (l < 52) = false := decide_eq_false (by omega)
    exact ⟨fun ms => if_pos hl, fun obs => if_pos hl, fun skew => if_pos hl, if_pos hl, fun body => if_pos hl, if_pos hl,
      fun h n => if_pos (.inl hl), if_pos hl, if_pos hl, if_pos hl, fun ck => if_pos hl, if_pos hl, fun b => onUnit_absent hunit _ _,
      fun rd gs => onUnit_absent hunit _ _,
           fun k => if_pos (.inl hl), fun k mk => if_pos (.inl hl), fun k mk => onUnit_absent hunit _ _, fun tx b => if_pos hl, if_pos hl,
      if_pos hl, fun h => if_pos (.inl hl), fun vc => if_pos (.inl hl), fun f ecc => onUnit_absent hunit _ _,
      exec_endpointCreditStall_absent hl, onUnit_absent hunit _ _, onUnit_absent hunit _ _, onUnit_absent hunit _ _,
      exec_policerRefill_absent hl⟩
  case halves =>
    have hunit : decide (h < 2) = false := decide_eq_false (by omega)
    exact ⟨onUnit_absent hunit _ _, onUnit_absent hunit _ _, onUnit_absent hunit _ _, fun lost => onUnit_absent hunit _ _,
      onUnit_absent hunit _ _, fun c u => if_pos hh⟩
  case bays =>
    have hunit : decide (b < 100) = false := decide_eq_false (by omega)
    exact ⟨onUnit_absent hunit _ _, decided_absent (onUnit_absent hunit _ _), if_pos hb,
      fun k => onUnit_absent (by simp [hunit]) _ _, fun k => onUnit_absent (by simp [hunit]) _ _,
      fun k => onUnit_absent (by simp [hunit]) _ _, fun k => onUnit_absent (by simp [hunit]) _ _⟩
  case hbmStacks =>
    have hunit : decide (k < 12) = false := decide_eq_false (by omega)
    exact ⟨onUnit_absent hunit _ _, onUnit_absent hunit _ _, fun c => onUnit_absent hunit _ _⟩
  case die => exact onUnit_absent (decide_eq_false (by omega)) _ _
  case sensors => exact ⟨if_pos hk, if_pos hk⟩
  case channels => exact ⟨onUnit_absent (decide_eq_false (by omega)) _ _, if_pos hk⟩
  case frames => exact ⟨if_pos hf, fun c u => if_pos hf⟩

end Sys2Proof.Machine
end


section
/-! SUPPORT. What the transport, the links and the Pours leave alone: the clock, the pins, the supply's voltage, the Foreman's active
core, the records' saves and digests. -/
namespace Sys2Proof.Machine

/-- What no packet, link or Pour changes. -/
def seen (s : State) : Nat × PinPart × Bool × List SaveJob × List DigestJob × Nat :=
  (s.time.now, s.pins, s.fore.activeAlive, s.det.saves, s.det.digests, reg .pwInputMv 0 s)

@[simp] theorem seen_setReg {f : Fld} (i v : Nat) (s : State) (h : (Fld.pwInputMv = f) = False) : seen (setReg f i v s) = seen s := by
  rw [seen, reg_setReg_fld _ _ h]
  rfl

/-- A fold of steps that keep the rest keeps it. -/
theorem seen_foldl {α : Type} (f : State → α → State) (h : ∀ s a, seen (f s a) = seen s) (l : List α) (s : State) :
    seen (l.foldl f s) = seen s := by
  induction l generalizing s with
  | nil => rfl
  | cons a l ih => rw [List.foldl_cons, ih, h]

@[simp] theorem seen_addReg {f : Fld} (i k : Nat) (s : State) (h : (Fld.pwInputMv = f) = False) : seen (addReg f i k s) = seen s :=
  seen_setReg _ _ _ h

@[simp] theorem seen_incReg {f : Fld} (i : Nat) (s : State) (h : (Fld.pwInputMv = f) = False) : seen (incReg f i s) = seen s :=
  seen_addReg _ _ _ h

@[simp] theorem seen_emit (o : OutMsg) (s : State) : seen (emit o s) = seen s := rfl
@[simp] theorem seen_useFree (s : State) : seen (useFree s) = seen s := rfl
@[simp] theorem seen_markCtxs (g : DetCtx → DetCtx) (s : State) : seen (markCtxs g s) = seen s := rfl
@[simp] theorem seen_modSched (p : Nat) (g : SchedPart → SchedPart) (s : State) : seen (modSched p g s) = seen s := rfl
@[simp] theorem seen_putCtx (c : Ctx) (s : State) : seen (putCtx c s) = seen s := rfl
@[simp] theorem seen_delCtx (k : Nat) (s : State) : seen (delCtx k s) = seen s := rfl
@[simp] theorem seen_modVc (l v : Nat) (f : VcPart → VcPart) (s : State) : seen (modVc l v f s) = seen s := rfl
@[simp] theorem seen_putQueue (i : Nat) (q : OutQueue) (s : State) : seen (putQueue i q s) = seen s := rfl
@[simp] theorem seen_delQueue (i : Nat) (s : State) : seen (delQueue i s) = seen s := rfl
@[simp] theorem seen_settleBindings (s : State) : seen (settleBindings s) = seen s := rfl
@[simp] theorem seen_modStream (a b c : Nat) (f : OutStream → OutStream) (s : State) : seen (modStream a b c f s) = seen s := rfl
@[simp] theorem seen_releaseSent (a b c d e : Nat) (s : State) : seen (releaseSent a b c d e s) = seen s := rfl
@[simp] theorem seen_dropSent (a b c : Nat) (s : State) : seen (dropSent a b c s) = seen s := rfl

@[simp] theorem seen_logEvent (a b c d : Nat) (e : List Byte) (s : State) : seen (logEvent a b c d e s) = seen s := by
  unfold logEvent
  split
  · rfl
  · simp

@[simp] theorem seen_modHalf (d : Nat) (f : TundishHalf → TundishHalf) (s : State) : seen (modHalf d f s) = seen s := by
  unfold modHalf; split <;> rfl

@[simp] theorem seen_giveCredit (l : Option Nat) (v n : Nat) (s : State) : seen (giveCredit l v n s) = seen s := by
  unfold giveCredit; split <;> rfl

@[simp] theorem seen_returnCredit (l v n : Nat) (s : State) : seen (returnCredit l v n s) = seen s := by
  simp only [returnCredit]
  generalize (if v < 5 then min n _ else 0) = hold
  split
  · rw [seen_addReg _ _ _ (by simp), seen_modVc]
  · rfl

/-- Cells held in a half. -/
theorem seen_holdCells {d p v c k : Nat} {l : Option Nat} {w id : Nat} {s t : State}
    (h : holdCells d p v c k l w s = some (id, t)) : seen t = seen s := by
  unfold holdCells at h
  split at h
  · cases h
  · split at h
    · cases h
    · injection h with h; injection h with _ h; subst h
      exact seen_modHalf d _ s

@[simp] theorem seen_dropHold (id : Nat) (s : State) : seen (dropHold id s) = seen s := by
  unfold dropHold
  split
  · rfl
  · simp only []
    split
    · rfl
    · split
      · rw [seen_returnCredit]; exact seen_modHalf _ _ s
      · exact seen_modHalf _ _ s

@[simp] theorem seen_noteNoRoom (d p v : Nat) (s : State) : seen (noteNoRoom d p v s) = seen s := by
  unfold noteNoRoom
  simp only []
  repeat' split
  all_goals simp

theorem seen_noteEnqueue (i d : Nat) (s : State) : seen (noteEnqueue i d s).2 = seen s := by
  unfold noteEnqueue; split
  · rfl
  · split <;> rfl

@[simp] theorem seen_enqueue (p v : Nat) (k : Packet) (c h : Nat) (s : State) : seen (enqueue p v k c h s) = seen s := by
  unfold enqueue
  simp only []
  split
  · rfl
  · rw [seen_putQueue]; exact seen_noteEnqueue _ _ s

theorem seen_preparePath (l : Option Nat) (p : Packet) (s : State) : seen (preparePath l p s).2 = seen s := by
  unfold preparePath
  split
  · rfl
  · split
    · exact seen_incReg _ _ (by simp)
    · rfl

@[simp] theorem seen_noteBreach (d : Nat) (s : State) : seen (noteBreach d s) = seen s := by
  simp [noteBreach, markFlag]

/-- The link choice's own pointer is none of what is seen. -/
@[simp] theorem seen_route (s : State) (r : RoutePart) : seen { s with route := r } = seen s := rfl

@[simp] theorem seen_noteHop (b : Bool) (h : Hop) (s : State) : seen (noteHop b h s) = seen s := by
  have hnonmin : seen (if b && bitAt h.route 8 then incReg .rtNonminCnt (dieOfLink h.link) s else s) = seen s := by
    split
    · exact seen_incReg _ _ (by simp)
    · rfl
  simp only [noteHop]
  generalize (if b && bitAt h.route 8 then incReg .rtNonminCnt (dieOfLink h.link) s else s) = t at hnonmin ⊢
  cases b <;> split <;> simp [hnonmin]

theorem seen_putFabric (b : Bool) (l : Option Nat) (v : Nat) (p : Packet) (s : State) :
    seen (putFabric b l v p s).state = seen s := by
  unfold putFabric
  split
  · simp [PutResult.state]
  · simp only []
    split
    · simp [PutResult.state]
    · rename_i hh; simp [PutResult.state, seen_holdCells hh]

@[simp] theorem seen_launch (p : Packet) (s : State) : seen (launch p s) = seen s := by
  unfold launch
  simp only []
  have h := seen_putFabric true none (preparePath none p s).1.cls (preparePath none p s).1 (preparePath none p s).2
  split <;> rename_i e <;> rw [e] at h <;> simpa [PutResult.state, seen_preparePath] using h

@[simp] theorem seen_reopenStream (a b c : Nat) (s : State) : seen (reopenStream a b c s) = seen s := rfl

@[simp] theorem seen_countResend (d : Nat) (s : State) : seen (countResend d s) = seen s := seen_incReg _ _ (by simp)

@[simp] theorem seen_resendNow (a b c : Nat) (s : State) : seen (resendNow a b c s) = seen s := by
  unfold resendNow
  exact (seen_foldl _ (fun s x => by simp) _ _).trans rfl

@[simp] theorem seen_sendLine (l : Nat) (m : OutMsg) (c : List Column) (s : State) : seen (sendLine l m c s) = seen s := rfl
@[simp] theorem seen_sendBlock (l : Nat) (b : List Byte) (s : State) : seen (sendBlock l b s) = seen s := rfl

@[simp] theorem seen_answerOwn (p : Packet) (s : State) : seen (answerOwn p s) = seen s := by
  unfold answerOwn
  simp only []
  repeat' split
  all_goals simp

@[simp] theorem seen_sendAnswer (p : Packet) (s : State) : seen (sendAnswer p s) = seen s := by
  unfold sendAnswer
  repeat' split
  all_goals simp

@[simp] theorem seen_nakAs (b : Nat) (p : Packet) (c : Nat) (s : State) : seen (nakAs b p c s) = seen s := seen_sendAnswer _ s

@[simp] theorem seen_nak (p : Packet) (c : Nat) (s : State) : seen (nak p c s) = seen s := by
  unfold nak; split <;> simp

theorem seen_roomForCtx {k : Nat} {s t : State} (h : roomForCtx k s = some t) : seen t = seen s := by
  unfold roomForCtx at h
  simp only [] at h
  split at h
  · injection h with h; rw [h]
  · split at h
    · injection h with h; rw [← h, seen_delCtx]
    · cases h

@[simp] theorem seen_outputPkt (p : Packet) (h : Nat) (s : State) : seen (outputPkt p h s) = seen s := by
  unfold outputPkt; simp only []; split <;> simp

theorem seen_drainHeld (n : Nat) (c : Ctx) (s : State) : seen (drainHeld n c s).2 = seen s := by
  induction n generalizing c s with
  | zero => rfl
  | succ n ih =>
    unfold drainHeld
    split
    · rfl
    · simp only []
      split
      · rw [ih, seen_outputPkt]
      · exact seen_outputPkt _ _ s

@[simp] theorem seen_deliverNext (c : Ctx) (p : Packet) (h : Nat) (s : State) : seen (deliverNext c p h s) = seen s := by
  unfold deliverNext
  split
  · simp only []; rw [seen_putCtx, seen_drainHeld, seen_outputPkt]
  · split <;> simp

@[simp] theorem seen_dropDamaged (p : Packet) (s : State) : seen (dropDamaged p s) = seen s := by
  unfold dropDamaged dropDamagedAt; simp

@[simp] theorem seen_resequence (c : Ctx) (p : Packet) (h : Nat) (s : State) : seen (resequence c p h s) = seen s := by
  unfold resequence
  simp only []
  repeat' split
  all_goals simp

@[simp] theorem seen_touchCtx (k d : Nat) (s : State) : seen (touchCtx k d s) = seen s := by
  have hmiss : seen (incReg .scCtxMissCnt d s) = seen s := seen_incReg _ _ (by simp)
  simp only [touchCtx]
  split
  · rfl
  · split <;> exact hmiss

@[simp] theorem seen_sequencePkt (p : Packet) (h : Nat) (s : State) : seen (sequencePkt p h s) = seen s := by
  unfold sequencePkt
  simp only []
  rw [← seen_touchCtx (ctxKey p.src p.stream p.dst) (dieOfDst p s) s]
  generalize touchCtx (ctxKey p.src p.stream p.dst) (dieOfDst p s) s = t
  split
  · split
    · split
      · rename_i hh; rw [seen_resequence, seen_roomForCtx hh]
      · simp
    · simp
  · repeat' split
    all_goals simp

@[simp] theorem seen_takeHere (l : Option Nat) (v : Nat) (p : Packet) (s : State) : seen (takeHere l v p s) = seen s := by
  unfold takeHere
  simp only []
  split
  · simp
  · split
    · simp
    · rename_i hh
      split <;> simp [seen_holdCells hh]

/-- Where a packet's path is looked up only if it comes from outside the fabric. -/
theorem seen_preparePath_if (b : Bool) (l : Option Nat) (p : Packet) (s : State) :
    seen (if b then preparePath l p s else (p, s)).2 = seen s := by
  split
  · exact seen_preparePath l p s
  · rfl

@[simp] theorem seen_arriveHere (l : Option Nat) (v : Nat) (p : Packet) (s : State) : seen (arriveHere l v p s) = seen s := by
  simp only [arriveHere, seen_takeHere]
  exact seen_preparePath_if _ l p s

@[simp] theorem seen_portDone (p : Packet) (a b : Bool) (s : State) : seen (portDone p a b s) = seen s := by
  unfold portDone
  split
  · rfl
  · split
    · rfl
    · split
      · simp
      · simp only []; rw [seen_putCtx, seen_drainHeld]

@[simp] theorem seen_replicateOn (d : Nat) (a b : List Nat) (l : Option Nat) (v : Nat) (p : Packet) (s : State) :
    seen (replicateOn d a b l v p s) = seen s := by
  unfold replicateOn
  split
  · rfl
  · rename_i hh
    simp only []
    rw [seen_foldl _ (fun s x => by simp), seen_foldl _ (fun s x => by simp),
      seen_incReg _ _ (by simp), seen_holdCells hh]

@[simp] theorem seen_touchTree (k d : Nat) (s : State) : seen (touchTree k d s) = seen s := by
  have hmiss : seen (incReg .rtTreeMissCnt d s) = seen s := seen_incReg _ _ (by simp)
  simp only [touchTree]
  split
  · rfl
  · split <;> exact hmiss

@[simp] theorem seen_replicate (l : Option Nat) (v : Nat) (p : Packet) (s : State) : seen (replicate l v p s) = seen s := by
  unfold replicate
  split
  · simp
  · simp only []
    split
    · rw [seen_nak, seen_noteNoRoom, seen_giveCredit]
    · generalize (List.range 2).filter _ = dies
      by_cases h : dies = []
      · rw [if_pos h, seen_giveCredit]
      · rw [if_neg h]; exact seen_foldl _ (fun s x => by rw [seen_replicateOn, seen_touchTree]) _ _

@[simp] theorem seen_inject (p : Packet) (s : State) : seen (inject p s) = seen s := by
  unfold inject; repeat' split
  all_goals simp [seen_preparePath]

theorem seen_sendOne (o : OutStream) (x : Packet × List Nat × Purpose) (s : State) : seen (sendOne o x s).2 = seen s := by
  unfold sendOne; simp only [seen_inject]; split <;> simp

theorem seen_flushStream (n : Nat) (o : OutStream) (s : State) : seen (flushStream n o s).2 = seen s := by
  induction n generalizing o s with
  | zero => rfl
  | succ n ih =>
    unfold flushStream
    split
    · rfl
    · split
      · rfl
      · simp only []; rw [ih, seen_sendOne]

@[simp] theorem seen_flushOne (a b c : Nat) (s : State) : seen (flushOne a b c s) = seen s := by
  unfold flushOne
  split
  · rfl
  · simp only []; rw [seen_modStream, seen_flushStream]

@[simp] theorem seen_flushPort (a : Nat) (s : State) : seen (flushPort a s) = seen s := by
  unfold flushPort
  exact seen_foldl _ (fun s x => by simp) _ _

@[simp] theorem seen_sendFrom (p : Packet) (l : List Nat) (w : Purpose) (s : State) : seen (sendFrom p l w s) = seen s := by
  unfold sendFrom
  simp only []
  rw [seen_flushPort]
  rfl

/-- A reply of port 56 changes nothing but the transport. -/
@[simp] theorem seen_reply (c : CmdRef) (st : Nat) (f : Bool) (b : List Byte) (s : State) : seen (reply c st f b s) = seen s := by
  unfold reply; simp

@[simp] theorem seen_answer (c : CmdRef) (st : Nat) (b : List Byte) (s : State) : seen (answer c st b s) = seen s := by
  unfold answer; split <;> simp

@[simp] theorem seen_refuse (c : CmdRef) (st : Nat) (s : State) : seen (refuse c st s) = seen s := seen_answer c st [] s

@[simp] theorem seen_done (c : CmdRef) (s : State) : seen (done c s) = seen s := seen_answer c stDone [] s

end Sys2Proof.Machine
end


section
/-! PROOF. Record, save and resume commands (R331, R336, R338, R342 to R347, R350). -/
namespace Sys2Proof.Machine

/-! ### What ACCEPTED leaves alone -/

theorem seen_accepted (c : CmdRef) (s : State) : seen (accepted c s) = seen s := seen_reply _ _ _ _ _

theorem saves_accepted (c : CmdRef) (s : State) : (accepted c s).det.saves = s.det.saves :=
  congrArg (·.2.2.2.1) (seen_accepted c s)

theorem digests_accepted (c : CmdRef) (s : State) : (accepted c s).det.digests = s.det.digests :=
  congrArg (·.2.2.2.2.1) (seen_accepted c s)

/-! ### Commands of a bound Heat -/

theorem boundOr_of_isBound {heat : Nat} {s : State} (hbound : isBound heat s = true) (c : CmdRef) (k : State → State) :
    boundOr heat c k s = k s := by
  rw [boundOr, requires, if_pos hbound]

/-- The job of a save as it begins (R345); the limit is given in milliseconds (log entry 32). -/
def freshSave (heat e off ms cont : Nat) (c : CmdRef) (s : State) : SaveJob :=
  { heat := heat, endp := e, offset := off, limit := ms * 1000000, cont := decide (cont = 1), since := s.time.now, writing := false,
    image := [], cmd := c }

/-- A range waits to be digested. -/
def rangeWaits (j : DigestJob) (s : State) : State := { s with det := { s.det with digests := s.det.digests ++ [j] } }

section
variable {m : CmdMeta} {s : State} {heat : Nat}

theorem exec_detStatus_bound (hbound : isBound heat s = true) (ht : Takes m 0x0D00 s) :
    exec (.detStatus m heat) s = .next (answer (refOf m 0x0D00) stDone (detBody heat s) s) := by
  change execDetStatus m heat s = _
  rw [execDetStatus, command_of_takes ht, boundOr_of_isBound hbound]

theorem exec_detRecordOpen_bound (hbound : isBound heat s = true) {rec' scope : Nat} (ht : Takes m 0x0D01 s) (hscope : scope ≤ 1)
    (hclosed : ctxOfHeat heat s = none) (hroom : s.det.ctxs.length < 1024) :
    exec (.detRecordOpen m heat rec' scope) s = .next (done (refOf m 0x0D01) { s with det := { s.det with
      ctxs := s.det.ctxs ++ [freshDetCtx heat rec' scope s], records := tabSet 0 s.det.records heat rec',
      held := tabDel s.det.held heat } }) := by
  change execDetRecordOpen m heat rec' scope s = _
  rw [execDetRecordOpen, command_of_takes ht, if_neg (by omega), boundOr_of_isBound hbound, hclosed, if_neg (by simp),
    if_neg (by omega)]

theorem exec_detDigestRange_bound (hbound : isBound heat s = true) {kind gfa n : Nat} (ht : TakesLong m 0x0D02 s) (hkind : kind ≤ 2)
    (hn : 1 ≤ n) (hmax : n ≤ 2 ^ 40) (hgfa : gfaOk gfa = true) (hopen : ctxOfHeat heat s ≠ none) :
    exec (.detDigestRange m heat kind gfa n) s = .next (rangeWaits
      { heat := heat, kind := kind, gfa := gfa, len := n, cmd := refOf m 0x0D02 } (accepted (refOf m 0x0D02) s)) := by
  have hform : ¬ (kind > 2 ∨ n = 0 ∨ n > 2 ^ 40 ∨ ¬ gfaOk gfa = true) := by
    simp only [hgfa, not_true_eq_false, or_false]
    omega
  have hisopen : ¬ (ctxOfHeat heat s).isNone = true := by simpa using hopen
  change execDetDigestRange m heat kind gfa n s = _
  rw [execDetDigestRange, command_of_takes ht.1, if_neg hform, boundOr_of_isBound hbound, if_neg hisopen, accept_of_takesLong ht]
  rfl

theorem exec_detRecordClose_bound (hbound : isBound heat s = true) {x : DetCtx} {scope sign : Nat} (ht : TakesLong m 0x0D03 s)
    (hscope : scope ≤ 1) (hsign : sign ≤ 1) (hx : ctxOfHeat heat s = some x) (hfree : closeBlocked heat s = false)
    (hnone : ∀ j ∈ s.det.closes, j.heat ≠ heat) (hroom : sign = 1 → signRoom s = true) :
    exec (.detRecordClose m heat scope sign) s
      = .next (closeRecord heat x scope (sign = 1) (refOf m 0x0D03) (accepted (refOf m 0x0D03) s)) := by
  have hother : ¬ ((closeBlocked heat s : Prop) ∨ (s.det.closes.any fun j => j.heat = heat) = true) := by
    simpa [hfree] using hnone
  have hengine : ¬ (sign = 1 ∧ ¬ signRoom s = true) := fun h => h.2 (hroom h.1)
  change execDetRecordClose m heat scope sign s = _
  rw [execDetRecordClose, command_of_takes ht.1, if_neg (by omega), boundOr_of_isBound hbound, hx]
  simp only [if_neg hother, if_neg hengine, accept_of_takesLong ht]

theorem exec_detRecordRead_held (hbound : isBound heat s = true) {b : List Byte} (ht : Takes m 0x0D04 s)
    (hb : tabFind s.det.held heat = some b) :
    exec (.detRecordRead m heat) s = .next (answer (refOf m 0x0D04) stDone b s) := by
  change execDetRecordRead m heat s = _
  rw [execDetRecordRead, command_of_takes ht, boundOr_of_isBound hbound, hb]

theorem exec_detStepSet_bound (hbound : isBound heat s = true) {n : Nat} (ht : Takes m 0x0D10 s) : exec (.detStepSet m heat n) s
    = .next (done (refOf m 0x0D10) { s with det := { s.det with steps := tabSet 0 s.det.steps heat (n % 2 ^ 32) } }) := by
  change execDetStepSet m heat n s = _
  rw [execDetStepSet, command_of_takes ht, boundOr_of_isBound hbound]

/-! ### SAVE_HEAT and RESUME_HEAT (R345, R347) -/

theorem exec_saveHeat_bound (hbound : isBound heat s = true) {e off ms cont : Nat} (ht : TakesLong m 0x0D20 s) (he : e < 2 ^ 18)
    (hms : 1 ≤ ms) (hmax : ms ≤ 10000) (hcont : cont ≤ 1) (hnone : ∀ j ∈ s.det.saves, j.heat ≠ heat) :
    exec (.saveHeat m heat e off ms cont) s = .next (beginSave
      (freshSave heat e off ms cont (refOf m 0x0D20) s) (accepted (refOf m 0x0D20) s)) := by
  have hother : ¬ (s.det.saves.any fun j => j.heat = heat) = true := by simpa using hnone
  change execSaveHeat m heat e off ms cont s = _
  rw [execSaveHeat, command_of_takes ht.1, if_neg (by omega), boundOr_of_isBound hbound, if_neg hother, accept_of_takesLong ht]
  rfl

theorem paused_beginSave (j : SaveJob) : (beginSave j s).det.paused.contains j.heat = true := by
  simp [beginSave]

theorem exec_resumeHeat_inRange {e off n : Nat} {dg : List Byte} (ht : TakesLong m 0x0D21 s) (he : e < 2 ^ 18) (hn : 64 ≤ n) :
    exec (.resumeHeat m e off n dg) s
      = .next (beginResume { endp := e, offset := off, len := n, digest := dg, image := [], heat := 0, placing := none,
                             cmd := refOf m 0x0D21 } (accepted (refOf m 0x0D21) s)) := by
  change execResumeHeat m e off n dg s = _
  rw [execResumeHeat, command_of_takes ht.1, if_neg (by omega), accept_of_takesLong ht]

end

/-- Settles O33: the record, save and resume commands complete. -/
theorem recordCommandsComplete : Obligations.RecordCommandsComplete := by
  intro m s heat
  refine ⟨fun hbound => ⟨exec_detStatus_bound hbound, fun rec' scope => exec_detRecordOpen_bound hbound, ?digest,
    fun x scope sign => exec_detRecordClose_bound hbound, fun b => exec_detRecordRead_held hbound,
    fun n => exec_detStepSet_bound hbound, ?save⟩, fun e off n dg => exec_resumeHeat_inRange⟩
  case digest =>
    intro kind gfa n ht hkind hn hmax hgfa hopen
    exact ⟨_, exec_detDigestRange_bound hbound ht hkind hn hmax hgfa hopen,
      congrArg (· ++ [_]) (digests_accepted _ s), rfl, accepted_mem _ s⟩
  case save =>
    intro e off ms cont ht he hms hmax hcont hnone
    exact ⟨_, _, exec_saveHeat_bound hbound ht he hms hmax hcont hnone, congrArg (· ++ [_]) (saves_accepted _ s),
      rfl, rfl, rfl, rfl, rfl, paused_beginSave _⟩

end Sys2Proof.Machine
end


section
/-! SUPPORT. Replies, links and their training leave what `seen` shows alone. -/
namespace Sys2Proof.Machine

/-! ### Links, lines and replies -/

@[simp] theorem seen_modLink (l : Nat) (f : LinkPart → LinkPart) (s : State) : seen (modLink l f s) = seen s := rfl
@[simp] theorem seen_modLine (l : Nat) (f : LineOut → LineOut) (s : State) : seen (modLine l f s) = seen s := rfl
@[simp] theorem seen_sendPacket (l : Nat) (p : Packet) (b : Bool) (s : State) : seen (sendPacket l p b s) = seen s := rfl
@[simp] theorem seen_sendTraining (l : Nat) (s : State) : seen (sendTraining l s) = seen s := rfl
@[simp] theorem seen_bumpEpoch (k : Nat) (s : State) : seen (bumpEpoch k s) = seen s := rfl

@[simp] theorem seen_setLinkState (l st : Nat) (s : State) : seen (setLinkState l st s) = seen s := by
  rw [setLinkState, seen_setReg _ _ _ (by simp)]
  split
  · rfl
  · rfl

@[simp] theorem seen_finish (c : CmdRef) (st : Nat) (b : List Byte) (s : State) : seen (finish c st b s) = seen s := by
  rw [finish]
  split
  · rfl
  · exact seen_reply _ _ _ _ _

@[simp] theorem seen_finishOpt (c : Option CmdRef) (st : Nat) (b : List Byte) (s : State) : seen (finishOpt c st b s) = seen s := by
  cases c with
  | none => rfl
  | some c => exact seen_finish c st b s

/-! ### Retired frames -/

@[simp] theorem seen_replaceSoft (old new : Nat) (s : State) : seen (replaceSoft old new s) = seen s := by
  rw [replaceSoft]
  split
  · rfl
  · rfl

@[simp] theorem seen_putFrame (f : Nat) (r : FrameRec) (s : State) : seen (putFrame f r s) = seen s := rfl

@[simp] theorem seen_applyRetired (l : List Nat) (s : State) : seen (applyRetired l s) = seen s := by
  refine seen_foldl _ (fun s f => ?_) l s
  dsimp only
  split
  · simp
  · simp

/-! ### Training (R203, R211) -/

@[simp] theorem seen_noteEqDefault (l : Nat) (s : State) : seen (noteEqDefault l s) = seen s := seen_setReg _ _ _ (by simp)

@[simp] theorem seen_settleCount (s : State) : seen (settleCount s) = seen s := by
  rw [settleCount]
  split
  · rfl
  · split
    · rfl
    · rfl

@[simp] theorem seen_adoptCount (l : Nat) (s : State) : seen (adoptCount l s) = seen s := by
  rw [adoptCount]
  split
  · rfl
  · simp

@[simp] theorem seen_answerRetrain (l : Nat) (s : State) : seen (answerRetrain l s) = seen s := by
  simp only [answerRetrain]
  split
  · simp
  · simp

@[simp] theorem seen_askHalf (d : Nat) (s : State) : seen (askHalf d s) = seen s := by
  rw [askHalf]
  split
  · rfl
  · rfl

@[simp] theorem seen_beginAttempt (l : Nat) (s : State) : seen (beginAttempt l s) = seen s := by
  simp [beginAttempt]

/-- The swaps of a link that starts again are cleared if it was told so. -/
theorem seen_clearedSwap (b : Bool) (l : Nat) (s : State) :
    seen (if b then setReg .lkTxSwap l noSwap (setReg .lkRxSwap l noSwap s) else s) = seen s := by
  split
  · simp
  · rfl

/-- The clock of a link that is present starts its attempt at once. -/
theorem seen_attempted (b : Bool) (l : Nat) (s : State) : seen (if b then beginAttempt l s else s) = seen s := by
  split
  · exact seen_beginAttempt l s
  · rfl

@[simp] theorem seen_powerUp (l : Nat) (s : State) : seen (powerUp l s) = seen s := by
  simp only [powerUp]
  split
  · simp
  · simp [seen_attempted, seen_clearedSwap]

@[simp] theorem seen_trainLinks (ls : List Nat) (s : State) : seen (trainLinks ls s) = seen s :=
  seen_foldl _ (fun s l => seen_powerUp l s) ls s

end Sys2Proof.Machine
end


section
/-! PROOF. Clock events (R380, R381, R383 to R388, R405, R409). -/
namespace Sys2Proof.Machine

section
variable {s : State}

theorem exec_clkobsSelWrite_code {v : Nat} (hv : clockCode (v % 256) = true) :
    exec (.clkobsSelWrite v) s = .next (selectObs (v % 256) s) := by
  change execClkobsSelWrite v s = _
  rw [execClkobsSelWrite, if_pos hv]

theorem resetObs_busy : reg .ckClkobsBusy 0 (resetObs s) = 0 := by
  rw [resetObs, reg_setReg_self, Nat.zero_mod]

theorem exec_clkobsMuxRelease_running {k : Nat} (hk : s.power.obsNext = some k) (hcur : clockRuns s.power.obsCur s = true)
    (hnext : clockRuns k s = true) : exec .clkobsMuxRelease s = .next (resetObs s) := by
  change execClkobsMuxRelease s = _
  simp only [execClkobsMuxRelease, hk, hcur, hnext, Bool.and_self, if_true]

/-! ### ACLK (R384, R385, R409) -/

theorem exec_aclkSwapLocked_good {j : AclkSwap} (hj : s.power.aclkSwap = some j)
    (hold : clockGood (sourceCode (reg .ckAclkSrc 0 s)) s = true) (hnew : clockGood (sourceCode j.source) s = true) :
    exec .aclkSwapLocked s = .next (switchAclk j { s with power := { s.power with aclkSwap := none } }) := by
  have hold' : clockGood (sourceCode (reg .ckAclkSrc 0 s)) { s with power := { s.power with aclkSwap := none } } = true := hold
  have hnew' : clockGood (sourceCode j.source) { s with power := { s.power with aclkSwap := none } } = true := hnew
  change execAclkSwapLocked s = _
  simp only [execAclkSwapLocked, hj, hold', hnew']
  rfl

end

/-- PLL1 is asked for after a fault of PLL0. -/
def pllProposed (s : State) : State :=
  let s := incReg .reProposalCnt 0 (logTrigger 4 0 0 0x90 0xFF s)
  { s with power := { s.power with aclkSwap := some { source := 2, since := s.time.now, cmd := none } } }

section
variable {s : State}

theorem exec_pllFaultProposal_auto (hst : s.power.state = .running) (hswap : s.power.aclkSwap = none)
    (hsrc : reg .ckAclkSrc 0 s = 1) (hshops : shopsWait s = false) (hauto : (reg .reAuto 0 s).testBit 4 = true) :
    exec .pllFaultProposal s = .next (pllProposed s) := by
  have hauto' : (reg .reAuto 0 (logTrigger 4 0 0 0x90 0xFF s)).testBit 4 = true := by
    rw [logTrigger, reg_logEvent_fld (by simp), hauto]
  change execPllFaultProposal s = _
  simp only [execPllFaultProposal, decided_of_shopsWait hshops, hst, hswap, hsrc, hauto']
  rfl

theorem pllProposed_time : (pllProposed s).time = s.time := by simp [pllProposed, logTrigger]

theorem pllProposed_mem : (pllProposed s).mem = s.mem := by simp [pllProposed, logTrigger]

end

/-! ### The clock monitors (R383, R387) -/

/-- What a monitor of a window shows for a clock. -/
def monitored (readings : List (Nat × Nat)) (k : Nat) (s : State) : State :=
  let f := match tabFind readings k with | some f => f | none => 0
  noteEdge k (setReg .ckPresent k (b2n (decide (f ≠ 0))) (setReg .ckFreqKhz k (min f (2 ^ 24 - 1)) s))

theorem exec_clockMonitorWindow (r : List (Nat × Nat)) (s : State) : exec (.clockMonitorWindow r) s
    = .next (((List.range 0x74).filter clockCode).foldl (fun s k => monitored r k s) (advance (10000 - s.time.now % 10000) s)) := rfl

theorem noteEdge_time (k : Nat) (s : State) : (noteEdge k s).time = s.time := by
  unfold noteEdge
  dsimp only
  split
  · rfl
  · rfl

theorem reg_noteEdge {f : Fld} (hf : f ≠ .lkTrainCnt) (i k : Nat) (s : State) : reg f i (noteEdge k s) = reg f i s := by
  unfold noteEdge
  dsimp only
  split
  · rw [beginAttempt, reg_modLink, reg_incReg_fld _ (by simp [hf])]
  · rfl

@[simp] theorem monitored_time (r : List (Nat × Nat)) (k : Nat) (s : State) : (monitored r k s).time = s.time := by
  rw [monitored, noteEdge_time, setReg_time, setReg_time]

theorem foldl_monitored_time (r : List (Nat × Nat)) (l : List Nat) (s : State) :
    (l.foldl (fun s k => monitored r k s) s).time = s.time := by
  induction l generalizing s with
  | nil => rfl
  | cons k l ih => rw [List.foldl_cons, ih, monitored_time]

/-- A monitor changes what its own clock shows only. -/
theorem reg_monitored_ne {f : Fld} (hf : f ≠ .lkTrainCnt) {i k : Nat} (hik : i ≠ k) (r : List (Nat × Nat)) (s : State) :
    reg f i (monitored r k s) = reg f i s := by
  rw [monitored, reg_noteEdge hf, reg_setReg_ne _ _ (by simp [hik]), reg_setReg_ne _ _ (by simp [hik])]

theorem monitored_eq (r : List (Nat × Nat)) (k : Nat) (s : State) : monitored r k s
    = noteEdge k (setReg .ckPresent k (b2n (decide ((tabFind r k).getD 0 ≠ 0)))
        (setReg .ckFreqKhz k (min ((tabFind r k).getD 0) (2 ^ 24 - 1)) s)) := by
  unfold monitored
  cases tabFind r k <;> rfl

theorem reg_monitored_freq {r : List (Nat × Nat)} {k f : Nat} (hf : (tabFind r k).getD 0 = f) (hlt : f < 2 ^ 24) (s : State) :
    reg .ckFreqKhz k (monitored r k s) = f := by
  rw [monitored_eq, reg_noteEdge (by simp), reg_setReg_fld _ _ (by simp), hf, Nat.min_eq_left (by omega), reg_setReg_self]
  exact Nat.mod_eq_of_lt hlt

theorem flag_monitored_present (r : List (Nat × Nat)) (k : Nat) (s : State) :
    flag .ckPresent k (monitored r k s) = decide ((tabFind r k).getD 0 ≠ 0) := by
  rw [flag, monitored_eq, reg_noteEdge (by simp), reg_setReg_self]
  by_cases h : (tabFind r k).getD 0 = 0
  · rw [h]
    rfl
  · rw [decide_eq_true h]
    rfl

/-- What a clock's monitor shows after all monitors have reported is what its own showed. -/
theorem foldl_monitored {α : Type} (g : State → α) {k : Nat} {a : α} (r : List (Nat × Nat)) (hown : ∀ s, g (monitored r k s) = a)
    (hother : ∀ j s, j ≠ k → g (monitored r j s) = g s) {l : List Nat} (hk : k ∈ l) (s : State) :
    g (l.foldl (fun s k => monitored r k s) s) = a := by
  have kept : ∀ (l : List Nat) (s : State), g s = a → g (l.foldl (fun s k => monitored r k s) s) = a := by
    intro l
    induction l with
    | nil => exact fun _ h => h
    | cons j l ih =>
      intro s h
      refine ih _ ?_
      by_cases hj : j = k
      · rw [hj, hown]
      · rw [hother j s hj, h]
  induction l generalizing s with
  | nil => cases hk
  | cons j l ih =>
    rw [List.foldl_cons]
    by_cases hj : k = j
    · exact kept l _ (hj ▸ hown s)
    · exact ih ((List.mem_cons.mp hk).resolve_left hj) _

theorem mem_clockCodes {k : Nat} (hk : clockCode k = true) : k ∈ (List.range 0x74).filter clockCode := by
  refine List.mem_filter.mpr ⟨List.mem_range.mpr ?_, hk⟩
  simp only [clockCode, Bool.or_eq_true, Bool.and_eq_true, decide_eq_true_eq] at hk
  omega

/-- The state at the end of a monitor window. -/
def windowShown (r : List (Nat × Nat)) (s : State) : State :=
  ((List.range 0x74).filter clockCode).foldl (fun s k => monitored r k s) (advance (10000 - s.time.now % 10000) s)

theorem windowShown_freq {r : List (Nat × Nat)} {k f : Nat} (hk : clockCode k = true) (hf : (tabFind r k).getD 0 = f)
    (hlt : f < 2 ^ 24) (s : State) : reg .ckFreqKhz k (windowShown r s) = f :=
  foldl_monitored (reg .ckFreqKhz k) r (reg_monitored_freq hf hlt)
    (fun _ s hj => reg_monitored_ne (by simp) hj.symm r s) (mem_clockCodes hk) _

theorem windowShown_present (r : List (Nat × Nat)) {k : Nat} (hk : clockCode k = true) (s : State) :
    flag .ckPresent k (windowShown r s) = decide ((tabFind r k).getD 0 ≠ 0) :=
  foldl_monitored (flag .ckPresent k) r (flag_monitored_present r k)
    (fun _ s hj => by rw [flag, flag, reg_monitored_ne (by simp) hj.symm r s]) (mem_clockCodes hk) _

theorem windowShown_now (r : List (Nat × Nat)) (s : State) :
    (windowShown r s).time.now = s.time.now + (10000 - s.time.now % 10000) := by
  rw [windowShown, foldl_monitored_time]
  rfl

/-! ### The trim (R381) -/

theorem ofSigned_toSigned (r : Nat) : ofSigned 24 (toSigned 24 r) = r % 2 ^ 24 := by
  unfold ofSigned toSigned
  split <;> omega

/-- The fall-back to no trim source and the return from it change FALLBACK and the times kept for them. -/
theorem trimFallback_stays {α : Type} (g : State → α) (hcsr : ∀ s t, g { s with csr := t } = g s)
    (htime : ∀ s a p, g { s with time := { s.time with absentAt := a, presentAt := p } } = g s) (s : State) :
    g (trimFallback s) = g s := by
  unfold trimFallback
  dsimp only
  split
  · split
    · exact (hcsr _ _).trans (htime _ _ _)
    · exact htime _ _ _
  · generalize (if reg .ckTrimSrc 0 s = 0 then _ else _) = since
    split
    · exact (hcsr _ _).trans (htime _ _ _)
    · exact htime _ _ _

theorem trimFallback_power (s : State) : (trimFallback s).power = s.power :=
  trimFallback_stays (·.power) (fun _ _ => rfl) (fun _ _ _ => rfl) s

theorem trimFallback_now (s : State) : (trimFallback s).time.now = s.time.now :=
  trimFallback_stays (·.time.now) (fun _ _ => rfl) (fun _ _ _ => rfl) s

/-- The trim moved toward the reference. -/
def trimMoved (r : Nat) (s : State) : Int :=
  let cur := toSigned 24 (reg .ckTrim 0 s)
  let room : Int := (((s.time.now - s.time.lastTrim) * 1000 / 1000000000 : Nat) : Int)
  if s.time.now ≤ s.power.standbyAt + 10000000 then toSigned 24 r else max (cur - room) (min (cur + room) (toSigned 24 r))

/-- The state after a trim update with the lock bit `locked`. -/
def trimmed (r locked last : Nat) (s : State) : State :=
  let s := setReg .ckTrimLocked 0 locked (setReg .ckTrim 0 (ofSigned 24 (trimMoved r s)) s)
  { s with time := { s.time with lastTrim := last } }

theorem exec_trimUpdate (r : Nat) (s : State) :
    ∃ locked last, exec (.trimUpdate r) s = .next (trimmed r locked last (trimFallback s)) := ⟨_, _, rfl⟩

/-- For 10 ms after standby power-on the reference is taken directly. -/
theorem trimmed_direct {s : State} (h : s.time.now ≤ s.power.standbyAt + 10000000) (r locked last : Nat) :
    reg .ckTrim 0 (trimmed r locked last (trimFallback s)) = r % 2 ^ 24 := by
  have moved : trimMoved r (trimFallback s) = toSigned 24 r := by
    rw [trimMoved, trimFallback_now, trimFallback_power]
    exact if_pos h
  have hreg : reg .ckTrim 0 (trimmed r locked last (trimFallback s)) = reg .ckTrim 0 (setReg .ckTrimLocked 0 locked
      (setReg .ckTrim 0 (ofSigned 24 (trimMoved r (trimFallback s))) (trimFallback s))) := reg_congr rfl _ _
  rw [hreg, reg_setReg_fld _ _ (by simp), reg_setReg_self, moved, ofSigned_toSigned]
  exact Nat.mod_mod r (2 ^ 24)

/-! ### ACLK hangs (R384) -/

/-- ACLK runs from PLL `new`, and PLL `old` stands without its lock. -/
def aclkForced (old new : Nat) (s : State) : State := setLock old false (setLock new true (setReg .ckAclkSrc 0 new s))

/-! ### A warm reset leaves the pins alone (R400) -/

theorem pins_of_seen {s t : State} (h : seen t = seen s) : t.pins = s.pins := congrArg (·.2.1) h

theorem seen_foldl_logEvent {α : Type} (code sev blk inst : Nat) (args : α → List Byte) (l : List α) (s : State) :
    seen (l.foldl (fun s a => logEvent code sev blk inst (args a) s) s) = seen s :=
  seen_foldl _ (fun s _ => seen_logEvent _ _ _ _ _ s) l s

@[simp] theorem seen_logWork (s : State) : seen (logWork s) = seen s := by
  simp only [logWork]
  split <;> split <;> simp [seen_foldl_logEvent]

@[simp] theorem seen_flushReplies (s : State) : seen (flushReplies s) = seen s := by
  refine seen_foldl _ (fun s e => ?_) _ s
  split
  · rfl
  · rfl

theorem seen_gateStacks (s : State) : seen (gateStacks s) = seen s := seen_foldl _ (fun s _ => seen_bumpEpoch _ s) _ s

theorem seen_rejoinMemory (s : State) : seen (rejoinMemory s) = seen s := seen_applyRetired _ _

theorem clearWarm_pins (s : State) : (clearWarm s).pins = s.pins := by
  have hgates : ∀ gates : List Nat, (gates.foldl (fun s k => bumpEpoch k s) s).pins = s.pins := fun gates =>
    pins_of_seen (seen_foldl _ (fun s _ => seen_bumpEpoch _ s) gates s)
  simp only [clearWarm]
  split
  · rw [pins_of_seen (seen_rejoinMemory _), hgates]
  · exact hgates _

theorem beginWarm_pins (cause : Nat) (cmd : Option CmdRef) (held : Bool) (s : State) : (beginWarm cause cmd held s).pins = s.pins := by
  have hclear : ∀ t, (gateStacks (clearWarm (flushReplies (logWork t)))).pins = t.pins := fun t => by
    rw [pins_of_seen (seen_gateStacks _), clearWarm_pins, pins_of_seen (seen_flushReplies _), pins_of_seen (seen_logWork t)]
  simp only [beginWarm]
  split
  · rfl
  · split
    · rfl
    · split
      · exact (hclear _).trans (logEvent_pins _ _ _ _ _ s)
      · exact (pins_of_seen (seen_trainLinks _ _)).trans ((hclear _).trans (logEvent_pins _ _ _ _ _ s))

/-- The WARM reset a hang causes, with the forced source logged. -/
def hangReset (new : Nat) (s : State) : State :=
  beginWarm 2 none false (assertFault (logEvent 0x0902 sevF 0x90 0xFF (packFields [(1, new)]) s))

section
variable {s : State}

theorem exec_aclkHang_pll0 (hst : s.power.state = .running) (hsrc : reg .ckAclkSrc 0 s = 1)
    (hlock : flag .ckPll1Lock 0 s = true) : exec .aclkHang s = .next (aclkForced 1 2 (hangReset 2 s)) := by
  have other : lockedPll 2 s = true := hlock
  change execAclkHang s = _
  simp only [execAclkHang, hst, hsrc, if_true, other]
  rfl

theorem exec_aclkHang_pll1 (hst : s.power.state = .running) (hsrc : reg .ckAclkSrc 0 s = 2)
    (hlock : flag .ckPll0Lock 0 s = true) : exec .aclkHang s = .next (aclkForced 2 1 (hangReset 1 s)) := by
  have other : lockedPll 1 s = true := hlock
  change execAclkHang s = _
  simp only [execAclkHang, hst, hsrc, if_neg (by decide : ¬ 2 = 1), other, if_true]
  rfl

theorem reg_aclkForced_pll1 (t : State) : reg .ckAclkSrc 0 (aclkForced 1 2 t) = 2 ∧ flag .ckPll1Lock 0 (aclkForced 1 2 t) = true ∧
    flag .ckPll0Lock 0 (aclkForced 1 2 t) = false := by
  have forced : aclkForced 1 2 t = setReg .ckPll0Lock 0 0 (setReg .ckPll1Lock 0 1 (setReg .ckAclkSrc 0 2 t)) := rfl
  rw [forced, flag, flag, reg_setReg_self, reg_setReg_fld _ _ (by simp), reg_setReg_fld _ _ (by simp), reg_setReg_self,
    reg_setReg_fld _ _ (by simp), reg_setReg_self]
  exact ⟨rfl, rfl, rfl⟩

theorem reg_aclkForced_pll0 (t : State) : reg .ckAclkSrc 0 (aclkForced 2 1 t) = 1 ∧ flag .ckPll0Lock 0 (aclkForced 2 1 t) = true ∧
    flag .ckPll1Lock 0 (aclkForced 2 1 t) = false := by
  have forced : aclkForced 2 1 t = setReg .ckPll1Lock 0 0 (setReg .ckPll0Lock 0 1 (setReg .ckAclkSrc 0 1 t)) := rfl
  rw [forced, flag, flag, reg_setReg_self, reg_setReg_fld _ _ (by simp), reg_setReg_fld _ _ (by simp), reg_setReg_self,
    reg_setReg_fld _ _ (by simp), reg_setReg_self]
  exact ⟨rfl, rfl, rfl⟩

theorem hangReset_faultN (new : Nat) : (hangReset new s).pins.faultN = false := by
  rw [hangReset, beginWarm_pins]
  rfl

theorem aclkForced_pins (old new : Nat) (t : State) : (aclkForced old new t).pins = t.pins := by
  have lock : ∀ k on (t : State), (setLock k on t).pins = t.pins := by
    intro k on t
    unfold setLock
    split
    · rfl
    · split <;> rfl
  rw [aclkForced, lock, lock, setReg_pins]

end

/-- Settles O26. -/
theorem clockEventsComplete : Obligations.ClockEventsComplete := by
  intro s
  refine ⟨fun _ => exec_clkobsSelWrite_code, ⟨_, rfl, resetObs_busy, rfl, rfl, rfl⟩, fun _ => rfl, rfl,
    fun _ => exec_clkobsMuxRelease_running, ?pll0, ?pll1, fun _ => exec_aclkSwapLocked_good, ?fault, ?window, ?trim, rfl⟩
  case pll0 =>
    intro hst hsrc hlock
    obtain ⟨hnew, hon, hoff⟩ := reg_aclkForced_pll1 (hangReset 2 s)
    exact ⟨_, exec_aclkHang_pll0 hst hsrc hlock, hnew, hon, hoff, by rw [aclkForced_pins, hangReset_faultN]⟩
  case pll1 =>
    intro hst hsrc hlock
    obtain ⟨hnew, hon, hoff⟩ := reg_aclkForced_pll0 (hangReset 1 s)
    exact ⟨_, exec_aclkHang_pll1 hst hsrc hlock, hnew, hon, hoff, by rw [aclkForced_pins, hangReset_faultN]⟩
  case fault =>
    exact fun hst hswap hsrc hshops hauto => ⟨_, exec_pllFaultProposal_auto hst hswap hsrc hshops hauto,
      rfl, pllProposed_time, pllProposed_mem⟩
  case window =>
    intro r
    refine ⟨windowShown r s, exec_clockMonitorWindow r s, ?_, ?_, ?_, fun k f hk hf hlt hpos => ⟨?_, ?_⟩, fun k hk hf => ⟨?_, ?_⟩⟩
    · rw [windowShown_now]
      omega
    · rw [windowShown_now]
      omega
    · rw [windowShown_now]
      omega
    · exact windowShown_freq hk (by rw [hf, Option.getD_some]) hlt s
    · rw [windowShown_present r hk, hf, Option.getD_some, decide_eq_true hpos.ne']
    · exact windowShown_freq hk (by rw [hf, Option.getD_none]) (by decide) s
    · rw [windowShown_present r hk, hf]
      rfl
  case trim =>
    intro r
    obtain ⟨locked, last, hexec⟩ := exec_trimUpdate r s
    refine ⟨_, hexec, ?_, fun h => trimmed_direct h r locked last⟩
    exact trimFallback_now s

end Sys2Proof.Machine
end


section
/-! PROOF. The supply's voltage as MAIN_POWER_GOOD leaves it: PW_INPUT_MV has 16 bits, so a voltage from 65,536 mV on does not stand in
it, which the statement of the supply events (O4) asks for (R390, R396). -/
namespace Sys2Proof.Machine

/-! ### Nothing of a bring-up writes PW_INPUT_MV (R391, R431) -/

/-- The supply's voltage in its register. -/
def inputMv (s : State) : Nat := reg .pwInputMv 0 s

theorem inputMv_of_seen {s t : State} (h : seen t = seen s) : inputMv t = inputMv s := congrArg (·.2.2.2.2.2) h

theorem inputMv_setReg {f : Fld} (h : (Fld.pwInputMv = f) = False) (i v : Nat) (s : State) : inputMv (setReg f i v s) = inputMv s :=
  inputMv_of_seen (seen_setReg i v s h)

theorem inputMv_logEvent (code sev blk inst : Nat) (args : List Byte) (s : State) :
    inputMv (logEvent code sev blk inst args s) = inputMv s := inputMv_of_seen (seen_logEvent _ _ _ _ _ s)

theorem inputMv_foldl {α : Type} {f : State → α → State} (h : ∀ s a, inputMv (f s a) = inputMv s) (l : List α) (s : State) :
    inputMv (l.foldl f s) = inputMv s := by
  induction l generalizing s with
  | nil => rfl
  | cons a l ih => rw [List.foldl_cons, ih, h]

theorem inputMv_modSlot (i : Nat) (f : Slot → Slot) (s : State) : inputMv (modSlot i f s) = inputMv s := by
  rw [modSlot]
  split
  · rfl
  · rfl

theorem inputMv_verifySlot (i : Nat) (s : State) : inputMv (verifySlot i s).2 = inputMv s := by
  rw [verifySlot]
  split
  · exact (inputMv_logEvent _ _ _ _ _ _).trans (inputMv_setReg (by simp) _ _ _)
  · exact inputMv_modSlot _ _ s

theorem inputMv_writeDir (slot : Nat) (s : State) : inputMv (writeDir slot s) = inputMv s := rfl

theorem inputMv_startSlot (i : Nat) (s : State) : inputMv (startSlot i s) = inputMv s := by
  rw [startSlot, inputMv_setReg (by simp), inputMv_setReg (by simp), inputMv_setReg (by simp)]

theorem inputMv_enterRecovery (a b : Nat) (s : State) : inputMv (enterRecovery a b s) = inputMv s :=
  (inputMv_logEvent _ _ _ _ _ _).trans <| (inputMv_setReg (by simp) _ _ _).trans <| (inputMv_setReg (by simp) _ _ _).trans <|
    inputMv_setReg (by simp) _ _ _

/-- The directory is written only where a condition holds. -/
theorem inputMv_writeDir_if (c : Prop) [Decidable c] (slot : Nat) (s : State) :
    inputMv (if c then writeDir slot s else s) = inputMv s := by
  split
  · exact inputMv_writeDir slot s
  · rfl

theorem inputMv_bootRom (s : State) : inputMv (bootRom s) = inputMv s := by
  rw [bootRom]
  split
  · rename_i a b _
    dsimp only
    split
    · rw [inputMv_startSlot, inputMv_writeDir_if, inputMv_verifySlot]
    · split
      · rw [inputMv_startSlot, inputMv_writeDir_if, inputMv_setReg (by simp), inputMv_logEvent, inputMv_verifySlot,
          inputMv_verifySlot]
      · split
        · rw [inputMv_enterRecovery, inputMv_verifySlot, inputMv_verifySlot]
        · rw [inputMv_enterRecovery, inputMv_verifySlot, inputMv_verifySlot]
  · exact inputMv_enterRecovery 0 0 s

theorem inputMv_loadEq (s : State) : inputMv (loadEq s) = inputMv s := by
  simp only [loadEq]
  rw [inputMv_foldl (fun s l => inputMv_of_seen (seen_noteEqDefault l s))]
  split
  · refine (inputMv_foldl (fun s i => ?_) _ _).trans rfl
    split
    · rfl
    · exact inputMv_logEvent _ _ _ _ _ s
  · exact inputMv_logEvent _ _ _ _ _ _

theorem inputMv_freshTundish (s : State) : inputMv (freshTundish s) = inputMv s :=
  (inputMv_setReg (by simp) _ _ _).trans (inputMv_setReg (by simp) _ _ s)

theorem inputMv_trainLinks (ls : List Nat) (s : State) : inputMv (trainLinks ls s) = inputMv s :=
  inputMv_of_seen (seen_trainLinks ls s)

theorem inputMv_dataPlaneUp (s : State) : inputMv (dataPlaneUp s) = inputMv s := by
  simp only [dataPlaneUp]
  rw [inputMv_trainLinks]
  refine (inputMv_of_seen (seen_applyRetired _ _)).trans ?_
  exact (inputMv_setReg (by simp) _ _ _).trans <| (inputMv_setReg (by simp) _ _ _).trans (inputMv_setReg (by simp) _ _ s)

/-- Losing MAIN clears the fallback flag. -/
theorem inputMv_fallback_if (c : Prop) [Decidable c] (m : MemPart) (s : State) :
    inputMv (if c then setReg .seFallback 0 0 { s with mem := m } else s) = inputMv s := by
  split
  · exact inputMv_setReg (by simp) _ _ _
  · rfl

/-- A strap lowers every link's ceiling. -/
theorem inputMv_ceilings_if (c : Prop) [Decidable c] (ls : List Nat) (s : State) :
    inputMv (if c then ls.foldl (fun s l => setReg .lkCeil1 l 1 s) s else s) = inputMv s := by
  split
  · exact inputMv_foldl (fun s l => inputMv_setReg (by simp) l 1 s) ls s
  · rfl

/-- In recovery only the service links train. -/
theorem inputMv_brought (ls : List Nat) (s : State) :
    inputMv (if recovery s then trainLinks ls s else dataPlaneUp s) = inputMv s := by
  split
  · exact inputMv_trainLinks ls s
  · exact inputMv_dataPlaneUp s

theorem inputMv_bringUp (s : State) : inputMv (bringUp s) = inputMv s := by
  simp only [bringUp]
  rw [inputMv_brought, inputMv_freshTundish, inputMv_loadEq, inputMv_bootRom, inputMv_ceilings_if, inputMv_setReg (by simp),
    inputMv_setReg (by simp), inputMv_setReg (by simp)]
  exact inputMv_fallback_if _ _ (sampleStraps (applyPending s))

/-! ### The refutation -/

/-- MAIN has risen to a voltage, with no brownout warning. -/
def mainRisen (mv : Nat) (s : State) : State :=
  let s := setReg .sbMainSnap 0 1 (setReg .pwInputMv 0 mv s)
  { s with power := { s.power with p48Good := true, needMain := true, awaitReset := false, state := .inReset } }

theorem exec_mainPowerGood_rises {s : State} {mv : Nat} (hstandby : s.pins.p12sb = true) (hoff : s.power.p48Good = false)
    (hlevel : s.power.resetLevel = false) (hstate : s.power.state = .standbyOnly) (hmv : 42000 ≤ mv) :
    exec (.mainPowerGood mv) s = .next (tryBringUp (mainRisen mv s)) := by
  have hgate : ¬ (!s.pins.p12sb || s.power.p48Good || s.power.resetLevel || decide (mv < 40000)) = true := by
    rw [hstandby, hoff, hlevel, decide_eq_false (by omega)]
    decide
  have hwarn : ¬ mv < 42000 := by omega
  change execMainPowerGood mv s = _
  simp only [execMainPowerGood, if_neg hgate, if_neg hwarn, mainRisen, setReg_power, hstate, if_true]

/-- A device on standby power that waits for MAIN. -/
def awaitsMain : State :=
  { State.reset with power := { settled := true, state := .standbyOnly }, pins := { p12sb := true, resetN := true } }

/-- The register's 16 bits read 0. -/
theorem inputMv_awaitsMain : inputMv (mainRisen 65536 awaitsMain) = 0 := by
  decide

theorem tryBringUp_awaitsMain : tryBringUp (mainRisen 65536 awaitsMain) = bringUp (mainRisen 65536 awaitsMain) := by
  have hrec : ¬ recovery (mainRisen 65536 awaitsMain) = true := by decide
  rw [tryBringUp]
  exact if_pos ⟨.inr rfl, rfl, rfl, rfl, Bool.false_ne_true, rfl, hrec, .inl Bool.false_ne_true⟩

/-- Refutes O4: the clause of MAIN_POWER_GOOD asks that PW_INPUT_MV read the voltage at every voltage from 40,000 mV on, and 65,536 mV
do not fit its 16 bits. -/
theorem not_supplyEventsComplete : ¬ Obligations.SupplyEventsComplete := by
  intro h
  obtain ⟨-, -, -, hmain, -⟩ := h awaitsMain
  obtain ⟨t, ht, -, -, -, hmv, -⟩ := hmain rfl rfl rfl rfl rfl (by decide) rfl rfl 65536 (by decide)
  rw [exec_mainPowerGood_rises rfl rfl rfl rfl (by decide), tryBringUp_awaitsMain] at ht
  have hup : bringUp t = bringUp (mainRisen 65536 awaitsMain) := (Host.Outcome.next.inj ht).symm
  have hzero : inputMv t = 0 := by rw [← inputMv_bringUp t, hup, inputMv_bringUp, inputMv_awaitsMain]
  exact absurd (hzero.symm.trans hmv) (by decide)

end Sys2Proof.Machine
end


section
/-! SUPPORT. Pours that end, fail or lose a member, and the fence of an edge endpoint, leave what `seen` shows alone (R84, R280). -/
namespace Sys2Proof.Machine

/-! ### Control messages, leaves, spilled chunks -/

@[simp] theorem seen_emitCtl (ds : List Nat) (k : CtlKind) (fields : List Nat) (b : List Byte) (s : State) :
    seen (emitCtl ds k fields b s) = seen s :=
  seen_foldl (fun s d => emit (.ctl d k fields b) s) (fun _ _ => rfl) ds s

@[simp] theorem seen_modCtx (heat : Nat) (f : DetCtx → DetCtx) (s : State) : seen (modCtx heat f s) = seen s := rfl

@[simp] theorem seen_leaf (a : Acc) (heat kind : Nat) (b : List Byte) (s : State) : seen (leaf a heat kind b s) = seen s := by
  rw [leaf]
  split
  · rfl
  · exact seen_incReg _ _ (by simp)

theorem seen_engineWrite1 (gfa : Nat) (b : List Byte) (s : State) : seen (engineWrite1 gfa b s) = seen s := by
  simp only [engineWrite1]
  split
  · split
    · rfl
    · rfl
  · rfl

@[simp] theorem seen_spanWrite (gfa : Nat) (b : List Byte) (s : State) : seen (spanWrite gfa b s) = seen s :=
  seen_foldl _ (fun s _ => seen_engineWrite1 _ _ s) _ s

theorem seen_dropSpill (n : Nat) (s : State) : seen (dropSpill n s) = seen s := by
  induction n generalizing s with
  | zero => rfl
  | succ n ih =>
    rw [dropSpill]
    split
    · rfl
    · rw [ih]
      rfl

@[simp] theorem seen_trimSpill (s : State) : seen (trimSpill s) = seen s := seen_dropSpill _ s

/-! ### A Pour ends or fails (R73, R84) -/

@[simp] theorem seen_modPour (heat pourId : Nat) (f : Pour → Pour) (s : State) : seen (modPour heat pourId f s) = seen s := rfl

@[simp] theorem seen_releaseTree (id : Nat) (s : State) : seen (releaseTree id s) = seen s := rfl

@[simp] theorem seen_sendPour (p : Pour) (t : Bool) (ds : List Nat) (c : Nat) (x : Packet) (s : State) :
    seen (sendPour p t ds c x s) = seen s := by
  unfold sendPour
  split
  · rfl
  · split
    · simp
    · exact seen_foldl _ (fun s d => by simp) ds s

/-- What a committed Pour still writes. -/
theorem seen_writes_if (c : Prop) [Decidable c] (ws : List (Nat × List Byte)) (s : State) :
    seen (if c then ws.foldl (fun s w => spanWrite w.1 w.2 s) s else s) = seen s := by
  split
  · exact seen_foldl _ (fun s w => seen_spanWrite _ _ s) ws s
  · rfl

/-- The oldest Pour that has ended may go. -/
theorem seen_pour_if (c : Prop) [Decidable c] (x : PourPart) (s : State) :
    seen (if c then s else { s with pour := x }) = seen s := by
  split
  · rfl
  · rfl

@[simp] theorem seen_tombstone (heat pourId state status cause : Nat) (s : State) :
    seen (tombstone heat pourId state status cause s) = seen s := by
  simp only [tombstone]
  rw [seen_pour_if, seen_trimSpill, seen_modPour]
  split
  · split
    · rw [seen_releaseTree, seen_writes_if]
    · exact seen_writes_if _ _ s
  · rfl

@[simp] theorem seen_endPour (heat pourId : Nat) (s : State) : seen (endPour heat pourId s) = seen s := by
  rw [endPour]
  split
  · rfl
  · simp

@[simp] theorem seen_failPour (heat pourId status cause endp : Nat) (s : State) :
    seen (failPour heat pourId status cause endp s) = seen s := by
  simp only [failPour]
  repeat' split
  all_goals simp

@[simp] theorem seen_settleChunks (heat pourId : Nat) (s : State) : seen (settleChunks heat pourId s) = seen s := by
  simp [settleChunks]

@[simp] theorem seen_settleOne (heat pourId : Nat) (s : State) : seen (settleOne heat pourId s) = seen s := by
  rw [← seen_settleChunks heat pourId s]
  simp only [settleOne]
  generalize settleChunks heat pourId s = t
  repeat' split
  all_goals simp

@[simp] theorem seen_settlePours (s : State) : seen (settlePours s) = seen s := seen_foldl _ (fun s _ => seen_settleOne _ _ s) _ s

/-! ### An endpoint is fenced (R280, R281) -/

@[simp] theorem seen_markMember (heat pourId m : Nat) (s : State) : seen (markMember heat pourId m s) = seen s := rfl

@[simp] theorem seen_fencedMember (heat pourId m e : Nat) (s : State) : seen (fencedMember heat pourId m e s) = seen s := by
  simp only [fencedMember]
  repeat' split
  all_goals simp

@[simp] theorem seen_fenceSets (hit : Nat → Bool) (heat pourId : Nat) (s : State) : seen (fenceSets hit heat pourId s) = seen s := by
  rw [fenceSets]
  split
  · rfl
  · exact (seen_foldl _ (fun s i => seen_fencedMember _ _ _ _ s) _ _).trans rfl

theorem seen_fenceOne_endpoint (hit : Nat → Bool) (heat pourId : Nat) (s : State) :
    seen (fenceOne hit none heat pourId s) = seen s := by
  simp only [fenceOne]
  repeat' split
  all_goals simp

theorem seen_fencePours_endpoint (hit : Nat → Bool) (s : State) : seen (fencePours hit none s) = seen s := by
  rw [fencePours, seen_settlePours, seen_foldl _ (fun s q => seen_fenceOne_endpoint hit _ _ s)]
  rfl

theorem seen_pruneLeaf (ep : Nat) (s : State) : seen (pruneLeaf ep s) = seen s := by
  rw [pruneLeaf]
  split
  · rfl
  · rfl

theorem seen_takeFence_endpoint {e : Nat} (he : namesDev e = false) (declarer : Nat) (s : State) :
    seen (takeFence e declarer s) = seen s := by
  simp only [takeFence, he, Bool.false_eq_true, if_false]
  split
  · rfl
  · rw [seen_fencePours_endpoint, seen_pruneLeaf]
    exact (seen_logEvent _ _ _ _ _ _).trans rfl

/-- A port below 56 names an endpoint, not the device. -/
theorem namesDev_ownEp {l : Nat} (hl : l < 56) (s : State) : namesDev (ownEp l s) = false := by
  simp only [namesDev, ownEp, epOf, portOf]
  exact decide_eq_false (by omega)

theorem seen_declareFence_endpoint {e : Nat} (he : namesDev e = false) (s : State) : seen (declareFence e s) = seen s := by
  rw [declareFence]
  split
  · rfl
  · rw [seen_emitCtl, seen_takeFence_endpoint he, seen_incReg _ _ (by simp), seen_incReg _ _ (by simp)]

end Sys2Proof.Machine
end


section
/-! PROOF. The two Foreman cores (R351, R352): heartbeat, takeover and the standby core. A takeover without a standby drops every link,
which moves neither the clock nor the pins (log entries 66 and 130). -/
namespace Sys2Proof.Machine

/-! ### A link goes (R215, R276) -/

@[simp] theorem seen_discardPort (port : Nat) (s : State) : seen (discardPort port s) = seen s := by
  refine seen_foldl _ (fun s e => ?_) _ s
  have hents : seen (e.2.ents.foldl (fun s q => dropHold q.hold (incReg .tuLossDiscardCnt (dieOfLink port) s)) s) = seen s :=
    seen_foldl _ (fun s q => by simp) _ s
  dsimp only
  split
  · exact hents
  · exact hents

@[simp] theorem seen_writeShadow (f : RouteTables → RouteTables) (s : State) : seen (writeShadow f s) = seen s := rfl

@[simp] theorem seen_putChange (l : Nat) (c : Option RouteChange) (s : State) : seen (putChange l c s) = seen s := rfl

theorem lt_of_isEdge {l : Nat} (h : isEdge l = true) : l < 56 := by
  simp only [isEdge, isAccel, isService, Bool.or_eq_true, Bool.and_eq_true, decide_eq_true_eq] at h
  omega

theorem seen_declareFence_edge {l : Nat} (h : isEdge l = true) (s t : State) : seen (declareFence (ownEp l s) t) = seen t :=
  seen_declareFence_endpoint (namesDev_ownEp (lt_of_isEdge h) s) t

@[simp] theorem seen_powerDown (l : Nat) (s : State) : seen (powerDown l s) = seen s := by
  simp only [powerDown]
  split
  case isTrue hedge =>
    rw [seen_declareFence_edge hedge.1]
    simp
  case isFalse => simp

@[simp] theorem seen_flipTables (s : State) : seen (flipTables s) = seen s := by
  rw [flipTables, seen_foldl]
  · rw [markFlag, seen_markCtxs, seen_setReg _ _ _ (by simp), seen_setReg _ _ _ (by simp)]
    rfl
  · intro s c
    dsimp only
    split <;> split <;> simp

theorem seen_execTreeLinkRepair (peer tree l : Nat) (s : State) :
    seen (match execTreeLinkRepair peer tree l s with | .next t => t | _ => s) = seen s := by
  simp only [execTreeLinkRepair]
  split
  · split
    · rfl
    · refine seen_foldl _ (fun s e => ?_) _ s
      split
      · rfl
      · rfl
  · rfl

@[simp] theorem seen_repairTrees (l : Nat) (s : State) : seen (repairTrees l s) = seen s := by
  refine seen_foldl _ (fun s e => ?_) _ s
  split
  · exact seen_execTreeLinkRepair (ownDev s) e.2.tree l s
  · rfl

@[simp] theorem seen_noteReport (d peer : Nat) (lost : Bool) (s : State) : seen (noteReport d peer lost s) = seen s := by
  simp only [noteReport, probeIfDue]
  repeat' split
  all_goals rfl

@[simp] theorem seen_linkGone (l : Nat) (s : State) : seen (linkGone l s) = seen s := by
  rw [← seen_discardPort l s]
  simp only [linkGone]
  generalize discardPort l s = t
  split
  case isTrue hedge => exact seen_declareFence_edge hedge t t
  case isFalse =>
    repeat' split
    all_goals simp

/-! ### A link is left (R203, R215, R387) -/

@[simp] theorem seen_dropTimeSet (l : Nat) (s : State) : seen (dropTimeSet l s) = seen s := by
  rw [dropTimeSet]
  split
  · split
    · exact seen_finish _ _ _ _
    · rfl
  · rfl

@[simp] theorem seen_dropSwaps (l : Nat) (s : State) : seen (dropSwaps l s) = seen s := by
  simp [dropSwaps]

@[simp] theorem seen_leaveLink (l : Nat) (s : State) : seen (leaveLink l s) = seen s := by
  simp only [leaveLink]
  repeat' split
  all_goals simp

theorem seen_dropLinks (s : State) : seen (dropLinks s) = seen s := by
  refine seen_foldl _ (fun s l => ?_) _ s
  dsimp only
  rw [seen_powerDown]
  split
  · exact seen_leaveLink l s
  · rfl

/-! ### The cores -/

theorem parts_of_seen {s t : State} (h : seen t = seen s) :
    t.time.now = s.time.now ∧ t.pins = s.pins ∧ t.fore.activeAlive = s.fore.activeAlive :=
  ⟨congrArg (·.1) h, congrArg (·.2.1) h, congrArg (·.2.2.1) h⟩

/-- The active core's heartbeat at a time. -/
def beatNoted (now : Nat) (s : State) : State :=
  let s := advanceTo now s
  { s with fore := { s.fore with lastHeartbeat := s.time.now } }

/-- The Foreman as its active core is found dead with no standby, at a time: it stops, and FAULT_N is asserted. -/
def coreLostAt (now : Nat) (s : State) : State :=
  let s := advanceTo now s
  let s := useFree (logEvent 0x0005 sevF 0x00 0xFF (packFields [(1, freeNat s % 256)]) s)
  assertFault { s with fore := { s.fore with activeAlive := false } }

section
variable {s : State}

theorem exec_heartbeat_alive (halive : s.fore.activeAlive = true) :
    exec .heartbeat s = .next (beatNoted (s.fore.lastHeartbeat + 100000) s) := by
  change execHeartbeat s = _
  simp only [execHeartbeat, halive, Bool.not_true, Bool.false_eq_true, if_false, beatNoted]

theorem beatNoted_eq (now : Nat) : beatNoted now s
    = { advanceTo now s with fore := { s.fore with lastHeartbeat := (advanceTo now s).time.now } } := rfl

theorem exec_coreTakeover_standby (halive : s.fore.activeAlive = true) (hready : flag .foreStandbyReady 0 s = true) :
    exec .coreTakeover s = .next (takeOver (advanceTo (s.fore.lastHeartbeat + 1000000) s)) := by
  have hready' : flag .foreStandbyReady 0 (advanceTo (s.fore.lastHeartbeat + 1000000) s) = true := by
    rw [flag_advanceTo, hready]
  change execCoreTakeover s = _
  simp only [execCoreTakeover, halive, hready', Bool.not_true, Bool.false_eq_true, if_false]

theorem exec_coreTakeover_alone (halive : s.fore.activeAlive = true) (hready : flag .foreStandbyReady 0 s = false) :
    exec .coreTakeover s = .next (dropLinks (coreLostAt (s.fore.lastHeartbeat + 1000000) s)) := by
  have hready' : flag .foreStandbyReady 0 (advanceTo (s.fore.lastHeartbeat + 1000000) s) = false := by
    rw [flag_advanceTo, hready]
  change execCoreTakeover s = _
  simp only [execCoreTakeover, halive, hready', Bool.not_true, Bool.not_false, Bool.false_eq_true, if_false, if_true, coreLostAt]

theorem coreLostAt_now (now : Nat) : (coreLostAt now s).time.now = max s.time.now now :=
  (parts_of_seen (seen_logEvent _ _ _ _ _ (advanceTo now s))).1.trans (advanceTo_now now s)

theorem coreLostAt_activeAlive (now : Nat) : (coreLostAt now s).fore.activeAlive = false := rfl

theorem coreLostAt_faultN (now : Nat) : (coreLostAt now s).pins.faultN = false := rfl

theorem exec_standbyCoreReady_running (halive : s.fore.activeAlive = true) (hrec : recovery s = false)
    (hswitch : switching s = false) (hrun : s.power.state = .running) (pass : Bool) :
    exec (.standbyCoreReady pass) s = .next (if pass then setReg .foreStandbyReady 0 1 s else s) := by
  change execStandbyCoreReady pass s = _
  simp [execStandbyCoreReady, halive, hrec, hswitch, hrun]

end

/-- Settles O2: heartbeat, takeover and standby events complete. -/
theorem foremanCoreEventsComplete : Obligations.ForemanCoreEventsComplete := by
  intro s
  refine ⟨fun halive => (exec_heartbeat_alive halive).trans (congrArg _ (beatNoted_eq _)), exec_coreTakeover_standby, fun halive hready => ⟨_, exec_coreTakeover_alone halive hready, ?_⟩,
    fun halive hrec hswitch hrun => ⟨exec_standbyCoreReady_running halive hrec hswitch hrun true,
      exec_standbyCoreReady_running halive hrec hswitch hrun false⟩⟩
  obtain ⟨hnow, hpins, hactive⟩ := parts_of_seen (seen_dropLinks (coreLostAt (s.fore.lastHeartbeat + 1000000) s))
  rw [hnow, hpins, hactive]
  exact ⟨coreLostAt_activeAlive _, coreLostAt_faultN _, coreLostAt_now _⟩

end Sys2Proof.Machine
end
